-- ==== Sys2Proof/Word.lean ====
section
/-!
DEFINITION. The word types of the part, the numbers of its registers, and the one shape of every sparse
table: memory bytes, register files, cores, jobs.
-/

namespace Sys2Proof

/-- A general register, a control register, an address (02 R22). -/
abbrev Word := BitVec 64

/-- The smallest addressable unit (00 R1). -/
abbrev Byte := BitVec 8

/-- A vector register (11 R219). -/
abbrev VWord := BitVec 1024

/-- A mask register (11 R219). -/
abbrev KWord := BitVec 512

/-- General register numbers g0 to g15. -/
abbrev GReg := Fin 16

/-- Vector register numbers v0 to v31. -/
abbrev VReg := Fin 32

/-- Mask register numbers k0 to k7. -/
abbrev KReg := Fin 8

/-- Queue register numbers q0 to q7. -/
abbrev QReg := Fin 8

/-- Barrier numbers b0 to b31. -/
abbrev BarNo := Fin 32

/-- Checksum register numbers c0 to c3. -/
abbrev CReg := Fin 4

/-- Bit pointer numbers bp0 to bp3. -/
abbrev BpReg := Fin 4

/-- A lookahead count (08 R152). -/
abbrev La := Fin 16

/-- A sparse table: pairs of a key and what it holds, keys rising. A key that is not listed holds the
table's default, which the reader names. -/
abbrev Tab (α : Type) := List (Nat × α)

/-- What the table holds at a key, `d` where the key is not listed. -/
def Tab.look {α : Type} : Tab α → Nat → α → α
  | [], _, d => d
  | (k', v) :: t, k, d => if k' = k then v else Tab.look t k d

/-- The table with `v` at key `k`, keys kept rising. -/
def Tab.put {α : Type} : Tab α → Nat → α → Tab α
  | [], k, v => [(k, v)]
  | (k', v') :: t, k, v =>
    if k' = k then (k, v) :: t
    else if k < k' then (k, v) :: (k', v') :: t
    else (k', v') :: Tab.put t k v

/-- The table without key `k`. -/
def Tab.del {α : Type} : Tab α → Nat → Tab α
  | [], _ => []
  | (k', v') :: t, k => if k' = k then Tab.del t k else (k', v') :: Tab.del t k

/-- The table with `v` at key `k`, in the canonical form whose default is `d`: a key that holds the
default is not listed. -/
def Tab.set {α : Type} [DecidableEq α] (t : Tab α) (k : Nat) (v d : α) : Tab α :=
  if v = d then t.del k else t.put k v

end Sys2Proof
end

