-- ==== Sys2Proof/Syntax.lean ====
section
/-!
DEFINITION. The steps of the part as syntax: one constructor of Instr per row of spec/opcode_table.json. The
first 232 rows are the encoded instructions (08 R149 to R166); the rows from JOBNEW on are the part's other
indivisible operations and events (95), which have no encoding and carry the data they bring as arguments.
-/

namespace Sys2Proof

/-- Ordering scope (05 R92); code 7 is reserved and is no value of this type. -/
inductive Scope | str | cor | clu | twr | pkg | dom | sys
  deriving DecidableEq, Repr

/-- ord of a load (08 R153). -/
inductive LdOrd | plain | acq | mig | ar
  deriving DecidableEq, Repr

/-- ord of a store (08 R153); 01 is illegal. -/
inductive StOrd | plain | rel | ar
  deriving DecidableEq, Repr

/-- ord of an atomic (08 R153). -/
inductive AmOrd | plain | acq | rel | ar
  deriving DecidableEq, Repr

/-- Element types of the integer group (06 R108). -/
inductive IntTy | i8 | i16 | i32 | i64 | n8 | n16 | n32 | n64 | i4 | t2
  deriving DecidableEq, Repr

/-- Element types of the float group (06 R108). -/
inductive FltTy | f32 | f16 | bf16 | e4m3 | e5m2 | e2m3 | e3m2 | e2m1 | e8m0
  deriving DecidableEq, Repr

/-- The source type of a conversion (11 R229). -/
inductive CvtSrc | int (t : IntTy) | flt (t : FltTy)
  deriving DecidableEq, Repr

/-- Rounding modes (06 R115). -/
inductive Rm | rne | rtz | rup | rdn | rna | sr
  deriving DecidableEq, Repr

/-- The rounding field of a conversion: a mode, or FRM (06 R115, code 0b111). -/
inductive RmField | mode (m : Rm) | frm
  deriving DecidableEq, Repr

/-- Condition codes of VCMP and VFCMP (11 R223). -/
inductive Cond | eq | ne | lt | ge
  deriving DecidableEq, Repr

/-- Pointer modes of the bit group (10 R193). -/
inductive PtrMode | keep | inc | setp | xch
  deriving DecidableEq, Repr

/-- The selector of MYID (08 R161, 09 R174). -/
inductive IdSel | core | cluster | strand | job | device
  deriving DecidableEq, Repr

/-- What QSTAT reads (10 R216). -/
inductive QSel | q (q : QReg) | sq
  deriving DecidableEq, Repr

/-- The second operand of CKCHK, by mode (11 R238). -/
inductive CkArg | i (c : CReg) | ig (g : GReg) | f (c : CReg) | fg (g : GReg)
  deriving DecidableEq, Repr

/-- The control registers of 09 R184, by name. -/
inductive CrName
  | status | strid | jobid | prio | role | frm | srseed | fmtbad | fmta | fmtb | scla | sclb
  | coreid | cause | epc | faddr | schedmode | agewin | fpctl | tags | usc | bankcfg | htbase
  | msbase | mslen | cycle | stageasn | tvec | sscr | jtbase | fatbase
  | wvring (n : Fin 16)
  deriving DecidableEq, Repr

/-- The atomic operations (08 R164). -/
inductive AmoFn | add | and | or | xor | min | max | minn | maxn | swp | cas | fadd
  deriving DecidableEq, Repr

/-- A command of the front end as it arrives (16 R287): the port, the key set of its security association,
the header's JOB and SEQ, and the payload's bytes. CODE is the constructor that carries it. -/
structure Cmd where
  port    : Fin 8
  key     : List Byte
  job     : BitVec 16
  seq     : Nat
  payload : List Byte
  deriving DecidableEq, Repr

/-- What a peer device asks for through a window of this part (16 R292, R295). -/
inductive PeerOp
  | load (n : Nat)
  | store (n : Nat) (v : Nat)
  | amo (fn : AmoFn) (dw : Bool) (b cmp : Word)
  deriving DecidableEq, Repr

/-- The body of an inbound packet (16 R283). -/
inductive Inbound
  | cmd (code : BitVec 8) (c : Cmd)
  | peer (dev : Nat) (job : BitVec 16) (idx off : Nat) (op : PeerOp)
  | grantNotice (dev : Nat) (job : BitVec 16) (idx len : Nat) (r w a : Bool)
  | revokeNotice (dev : Nat) (job : BitVec 16) (idx : Nat)
  | contribution (job : BitVec 16) (c : Fin 32) (rank gen : Nat) (data : List Byte)
  | loss (job : BitVec 16) (c : Fin 32) (rank : Nat)
  deriving DecidableEq, Repr

/-- What reaches a completion counter (02 R38, R42). -/
inductive CountEv | inc | dec | decErr | cancel
  deriving DecidableEq, Repr

/-- The four levels of units that have a completion counter (02 R38). -/
inductive Level | launch | graph | phase | job
  deriving DecidableEq, Repr

/-- One island's reading at a Milliner sample (17 R303, R304): temperature, power, current and
voltage in eighths. -/
structure Reading where
  temp    : Nat
  power   : Nat
  current : Nat
  volt    : Nat
  deriving DecidableEq, Repr

/-- One constructor per row of spec/opcode_table.json. -/
inductive Instr
  -- majors 0x01: register-register (09 R170, R171)
  | add (d a b : GReg) | sub (d a b : GReg) | mul (d a b : GReg) | mulh (d a b : GReg)
  | mulhn (d a b : GReg) | div (d a b : GReg) | divn (d a b : GReg) | rem (d a b : GReg)
  | remn (d a b : GReg) | and (d a b : GReg) | or (d a b : GReg) | xor (d a b : GReg)
  | andn (d a b : GReg) | orn (d a b : GReg) | shl (d a b : GReg) | shr (d a b : GReg)
  | sra (d a b : GReg) | rot (d a b : GReg) | clz (d a : GReg) | ctz (d a : GReg)
  | popc (d a : GReg) | min (d a b : GReg) | max (d a b : GReg) | minn (d a b : GReg)
  | maxn (d a b : GReg) | slt (d a b : GReg) | sltn (d a b : GReg) | seq (d a b : GReg)
  | sel (d a b : GReg) | bfx (d a b : GReg) | bfi (d a b : GReg)
  -- majors 0x02 to 0x0C: register-immediate and address (09 R173, R174)
  | addi (d a : GReg) (i : BitVec 18) | andi (d a : GReg) (i : BitVec 18)
  | ori (d a : GReg) (i : BitVec 18) | xori (d a : GReg) (i : BitVec 18)
  | shli (d a : GReg) (n : BitVec 6) | shri (d a : GReg) (n : BitVec 6)
  | srai (d a : GReg) (n : BitVec 6) | slti (d a : GReg) (i : BitVec 18)
  | sltni (d a : GReg) (i : BitVec 18) | li (d : GReg) (i : BitVec 18)
  | lis (d : GReg) (i : BitVec 18) | addpc (d : GReg) (i : BitVec 18)
  | lea (d a : GReg) (i : BitVec 16) | mkwin (d a : GReg) (i : BitVec 16)
  | myid (d : GReg) (s : IdSel)
  -- majors 0x10 to 0x1A: control flow (09 R175 to R179; 08 R157)
  | beq (a b : GReg) (p : BitVec 18) | bne (a b : GReg) (p : BitVec 18)
  | blt (a b : GReg) (p : BitVec 18) | bge (a b : GReg) (p : BitVec 18)
  | bltn (a b : GReg) (p : BitVec 18) | bgen (a b : GReg) (p : BitVec 18)
  | jmp (p : BitVec 26) | call (p : BitVec 26) | jr (a : GReg) | callr (a : GReg) | ret
  | rpt (len : Fin 16) (a : GReg) (sd sa sb : Fin 32)
  | follow | unfollow
  -- majors 0x20, 0x21: loads and stores (10 R190, R191)
  | ldb (d a : GReg) (o : LdOrd) (s : Scope) (l : La) (p : BitVec 6)
  | ldbn (d a : GReg) (o : LdOrd) (s : Scope) (l : La) (p : BitVec 6)
  | ldh (d a : GReg) (o : LdOrd) (s : Scope) (l : La) (p : BitVec 6)
  | ldhn (d a : GReg) (o : LdOrd) (s : Scope) (l : La) (p : BitVec 6)
  | ldw (d a : GReg) (o : LdOrd) (s : Scope) (l : La) (p : BitVec 6)
  | ldwn (d a : GReg) (o : LdOrd) (s : Scope) (l : La) (p : BitVec 6)
  | ldd (d a : GReg) (o : LdOrd) (s : Scope) (l : La) (p : BitVec 6)
  | stb (d a : GReg) (o : StOrd) (s : Scope) (p : BitVec 6)
  | sth (d a : GReg) (o : StOrd) (s : Scope) (p : BitVec 6)
  | stw (d a : GReg) (o : StOrd) (s : Scope) (p : BitVec 6)
  | std (d a : GReg) (o : StOrd) (s : Scope) (p : BitVec 6)
  -- major 0x22: bit-granular access (10 R193)
  | ldbit (a b : GReg) (pm : PtrMode) (p : BpReg) (n : Fin 32) (l : La)
  | ldbits (a b : GReg) (pm : PtrMode) (p : BpReg) (n : Fin 32) (l : La)
  | stbit (a b : GReg) (pm : PtrMode) (p : BpReg) (n : Fin 32)
  -- major 0x23: atomics (10 R198)
  | amoadd (d a b : GReg) (w : Bool) (o : AmOrd) (s : Scope) (l : La)
  | amoand (d a b : GReg) (w : Bool) (o : AmOrd) (s : Scope) (l : La)
  | amoor (d a b : GReg) (w : Bool) (o : AmOrd) (s : Scope) (l : La)
  | amoxor (d a b : GReg) (w : Bool) (o : AmOrd) (s : Scope) (l : La)
  | amomin (d a b : GReg) (w : Bool) (o : AmOrd) (s : Scope) (l : La)
  | amomax (d a b : GReg) (w : Bool) (o : AmOrd) (s : Scope) (l : La)
  | amominn (d a b : GReg) (w : Bool) (o : AmOrd) (s : Scope) (l : La)
  | amomaxn (d a b : GReg) (w : Bool) (o : AmOrd) (s : Scope) (l : La)
  | amoswp (d a b : GReg) (w : Bool) (o : AmOrd) (s : Scope) (l : La)
  | amocas (d a b : GReg) (w : Bool) (o : AmOrd) (s : Scope) (l : La)
  | amofadd (d a b : GReg) (o : AmOrd) (s : Scope) (l : La)
  -- major 0x24: fences, prefetch, flush (08 R163; 10 R195 to R197)
  | fenceAcq (s : Scope) | fenceRel (s : Scope) | fenceAr (s : Scope) | fenceSc
  | pref (a : GReg) (w : Bool) (s : Scope) (p : BitVec 6)
  | flush (d a : GReg) (s : Scope)
  -- major 0x28: barriers (10 R202)
  | binit (a : GReg) (n : BarNo) | barr (a : GReg) (n : BarNo)
  | bwait (a b : GReg) (n : BarNo) (l : La) | baw (a : GReg) (n : BarNo) (l : La)
  | bstat (a : GReg) (n : BarNo) (l : La) | breset (n : BarNo)
  -- majors 0x29 to 0x2B: copies, tags, rings, banks, queue registers (10 R206 to R217)
  | cpy (t : Fin 64) (d s p : GReg) (c : Scope) (q r : Bool)
  | tagwany (a b : GReg) (l : La) | tagwall (b : GReg) | tagff (a b : GReg) (l : La)
  | tagclr (b : GReg)
  | rginit (a : GReg) | rgfill (a b : GReg) (q r : Bool) (c : Scope)
  | rgawait (a b : GReg) (n : Fin 32) (l : La) | rgrel (a : GReg)
  | bankset (b : GReg)
  | qbindFifo (a : GReg) (c : QReg) | qbindStream (a b : GReg) (c : QReg)
  | qbindMa (c : QReg) | qbindMb (c : QReg) | qbindMout (c : QReg)
  | qbindMbox (a : GReg) (c : QReg)
  | qpush (b : GReg) (c : QReg) | qpop (a : GReg) (c : QReg) (l : La)
  | vqpush (c : QReg) (n : VReg) | vqpop (c : QReg) (n : VReg)
  | qstat (a : GReg) (c : QSel) | qfree (c : QReg)
  -- major 0x30: vector integer (11 R222 to R224)
  | vadd (d a b : VReg) (k : KReg) (t : IntTy) | vsub (d a b : VReg) (k : KReg) (t : IntTy)
  | vmul (d a b : VReg) (k : KReg) (t : IntTy) | vmulh (d a b : VReg) (k : KReg) (t : IntTy)
  | vmin (d a b : VReg) (k : KReg) (t : IntTy) | vmax (d a b : VReg) (k : KReg) (t : IntTy)
  | vand (d a b : VReg) (k : KReg) (t : IntTy) | vor (d a b : VReg) (k : KReg) (t : IntTy)
  | vxor (d a b : VReg) (k : KReg) (t : IntTy) | vshl (d a b : VReg) (k : KReg) (t : IntTy)
  | vshr (d a b : VReg) (k : KReg) (t : IntTy) | vsra (d a b : VReg) (k : KReg) (t : IntTy)
  | vabs (d a : VReg) (k : KReg) (t : IntTy) | vneg (d a : VReg) (k : KReg) (t : IntTy)
  | vcmp (c : Cond) (q : KReg) (a b : VReg) (k : KReg) (t : IntTy)
  | vsel (d a b : VReg) (k : KReg) (t : IntTy)
  -- major 0x31: vector float (11 R223, R225)
  | vfadd (d a b : VReg) (k : KReg) (t : FltTy) | vfsub (d a b : VReg) (k : KReg) (t : FltTy)
  | vfmul (d a b : VReg) (k : KReg) (t : FltTy) | vfma (d a b : VReg) (k : KReg) (t : FltTy)
  | vfms (d a b : VReg) (k : KReg) (t : FltTy) | vfmin (d a b : VReg) (k : KReg) (t : FltTy)
  | vfmax (d a b : VReg) (k : KReg) (t : FltTy) | vfabs (d a : VReg) (k : KReg) (t : FltTy)
  | vrcp (d a : VReg) (k : KReg) (t : FltTy) | vrsq (d a : VReg) (k : KReg) (t : FltTy)
  | vexp2 (d a : VReg) (k : KReg) (t : FltTy) | vlog2 (d a : VReg) (k : KReg) (t : FltTy)
  | vfcmp (c : Cond) (q : KReg) (a b : VReg) (k : KReg) (t : FltTy)
  -- major 0x32: move, permute, reduce, convert, mask (11 R226 to R232)
  | vbcast (d : VReg) (a : GReg) (k : KReg) (t : IntTy)
  | vext (d : GReg) (a : VReg) (b : GReg) (t : IntTy)
  | vins (d : VReg) (a b : GReg) (k : KReg) (t : IntTy)
  | vperm (d a b : VReg) (k : KReg) (t : IntTy)
  | vslide (d a : VReg) (b : GReg) (k : KReg) (t : IntTy)
  | vredadd (d a : VReg) (k : KReg) (t : IntTy) | vredfadd (d a : VReg) (k : KReg) (t : FltTy)
  | vredmax (d a : VReg) (k : KReg) (t : IntTy) | vredfmax (d a : VReg) (k : KReg) (t : FltTy)
  | vcvtInt (d a : VReg) (s : CvtSrc) (r : RmField) (t : IntTy)
  | vcvtFloat (d a : VReg) (s : CvtSrc) (r : RmField) (t : FltTy)
  | vqmx (d a : VReg) (r : RmField) (t : FltTy) | vdqmx (d a : VReg) (t : FltTy)
  | vpack (d a b : VReg) (k : KReg) (t : IntTy)
  | vunpack (d a : VReg) (h : Bool) (k : KReg) (t : IntTy)
  | kand (d a b : KReg) | kor (d a b : KReg) | knot (d a : KReg) | kmov (d a : KReg)
  | kpopc (d : GReg) (a : KReg)
  -- major 0x33: vector memory (11 R233 to R235)
  | vld (d : VReg) (a : GReg) (k : KReg) (t : IntTy) | vst (d : VReg) (a : GReg) (k : KReg) (t : IntTy)
  | vlds (d : VReg) (a b : GReg) (k : KReg) (t : IntTy)
  | vsts (d : VReg) (a b : GReg) (k : KReg) (t : IntTy)
  | vgath (d : VReg) (a : GReg) (b : VReg) (k : KReg) (t : IntTy)
  | vscat (d : VReg) (a : GReg) (b : VReg) (k : KReg) (t : IntTy)
  | vldbit (d : VReg) (i : Bool) (p : BpReg) (e : Fin 32) (k : KReg) (t : IntTy)
  | vstbit (d : VReg) (i : Bool) (p : BpReg) (e : Fin 32) (k : KReg) (t : IntTy)
  -- majors 0x34, 0x35: checksums and leases (11 R221, R236 to R238)
  | ckclr (c : CReg) | cka (c : CReg) (a : VReg) (k : KReg) (t : IntTy)
  | ckaf (c : CReg) (a : VReg) (k : KReg) (t : FltTy) | ckchk (g : GReg) (a : CReg) (b : CkArg)
  | vlease | vfree
  -- major 0x38: matrix (12 R241 to R246)
  | mload (a b : GReg) | mloadQ (b : GReg) | mtile (a b c : GReg) (n : BarNo) | mcancel
  | mstat (a : GReg) (l : La) | rowgetF (b : GReg) (n : VReg) | rowgetS (b : GReg) (n : VReg)
  | rowpass
  -- major 0x39: wale (12 R247 to R250)
  | warm (a b : GReg) (l : La) | wadd (a b c : GReg) (n : VReg) (l : La)
  | wstat (a b : GReg) (l : La) | wwait (b : GReg)
  | wreadF (a b : GReg) (n : VReg) (l : La) | wreadI (a b : GReg) (n : VReg) (l : La)
  | wdrop (a b : GReg) (l : La) | wfree (a b : GReg) (l : La)
  -- majors 0x3A, 0x3B: tile tasks, messages, strands (12 R251 to R257)
  | ttsub (a b : GReg) (l : La) | ttstat (a b : GReg) (l : La) | send (b : GReg) | reply (b : GReg)
  | spawn (a b c : GReg) (l : La) | exit | yield | park | wake (b c : GReg) | migrate (b : GReg)
  | monarm (b : GReg) | monwait | prio (b : GReg) | role (b : GReg) | cntarm (b c : GReg)
  -- major 0x3C: hierarchy (12 R258 to R260)
  | launch (a b : GReg) (l : La) | join (a b : GReg) (l : La) | cancel (b : GReg)
  | cntstat (a b : GReg) (l : La) | phaseend (b : GReg)
  -- major 0x3E: system (09 R181; 12 R261 to R263; 16 R292, R293; 23 R389, R393)
  | ctlr (a : GReg) (c : CrName) (l : La) | ctlw (b : GReg) (c : CrName)
  | ctlx (a b : GReg) (c : CrName) (l : La) | trap (n : Fin 32) | eret | halt
  | xlinv (b c : GReg) | attrset (b c : GReg) | sealPage (b : GReg)
  | msdecl (a b c : GReg) (l : La) | msdone | jrnl (a b : GReg) (l : La)
  | wingrant (a b : GReg) (l : La) | winrev (b : GReg)
  -- commands of the front end (16 R288, R411)
  | jobnew (c : Cmd) | hoodset (c : Cmd) | mapCmd (c : Cmd) | attrCmd (c : Cmd)
  | loadCmd (c : Cmd) | readCmd (c : Cmd) | launchCmd (c : Cmd) | hwgrant (c : Cmd)
  | hwrevoke (c : Cmd) | sealCmd (c : Cmd) | cntreadCounter (c : Cmd)
  | cntreadRestartSummary (c : Cmd) | cntreadPort (c : Cmd) | cntreadCore (c : Cmd)
  | cntreadCorrections (c : Cmd) | logctlQuery (c : Cmd) | logctlReplay (c : Cmd)
  | attest (c : Cmd) | collset (c : Cmd) | jobend (c : Cmd) | cregset (c : Cmd)
  | badcmd (code : BitVec 8) (c : Cmd)
  -- ports, links and peers (16 R285, R292 to R296; 22 R373)
  | packetReceive (port : Fin 8) (supported : Bool) (job : BitVec 16) (key : List Byte) (body : Inbound)
  | linkRetry (port : Option (Fin 8))
  | peerAccess (dev : Nat) (job : BitVec 16) (idx off : Nat) (op : PeerOp)
  | grantNotice (dev : Nat) (job : BitVec 16) (idx len : Nat) (r w a : Bool)
  | wingrantAck (job : BitVec 16) (idx : Nat)
  | revocationNotice (dev : Nat) (job : BitVec 16) (idx : Nat)
  | winrevComplete (job : BitVec 16) (idx : Nat)
  -- the path of an access (04 R66, R72; 05 R106; 08 R154; 18 R312, R315; 20 R350)
  | translation (id : Nat) | homeAccess (id : Nat) | bankAccess (id : Nat)
  | packageWindowAtomic (id : Nat) | accessReply (id : Nat) (refusal : Option (BitVec 6)) (v : Word)
  | storeAck (core : Nat) (j : Fin 64) | postedStoreRefusal (core : Nat) (j : Fin 64) (cause : BitVec 6)
  | moved (id : Nat) | asyncTrap (core slot : Nat)
  -- copies, streams, banks and blocking system instructions (04 R76, R86, R87, R89; 10 R197, R207)
  | copyComplete (core id : Nat) | copyFault (core id : Nat) | edgeRefusal (core id : Nat) (hint : Fin 4096)
  | edgeResend (core id : Nat) | streamReadahead (core : Nat) (q : QReg)
  | bankModeChangeComplete (core : Nat) (bank : Fin 16)
  | flushComplete (core slot : Nat) | sealComplete (core slot : Nat)
  | xlinvComplete (core slot : Nat) | attrsetComplete (core slot : Nat)
  -- matrix units, barriers and wale arrays (07 R128 to R148)
  | mloadComplete (core : Nat) | mloadRefused (core : Nat) | rowEntry (core : Nat)
  | rowHandlerStart (core : Nat) (h : Fin 2) | tileOperationComplete (core : Nat)
  | tileOperationFault (core : Nat) | tileSchedulerIssue (cluster : Nat)
  | barrierArrival (core : Nat) (n : BarNo) | errorArrival (core : Nat) (n : BarNo)
  | warmArrival (id : Nat) | waddArrival (id : Nat) | wstatArrival (id : Nat) | wreadArrival (id : Nat)
  | wdropArrival (id : Nat) | wfreeArrival (id : Nat) | waleAddDone (slice slot : Nat)
  -- records, stealing, stage rings and counters (02 R34 to R42; 03 R52 to R61)
  | dequePop (core : Nat) | dequePush (id : Nat) | dequeRefill (core : Nat) | mailboxArrival (id : Nat)
  | messageHandlerStart (core : Nat) | steal (core : Nat) | stealAnswer (core : Nat) | grant (core : Nat)
  | empty (core : Nat) | remoteSteal (core : Nat) | stealBackoffExpiry (core : Nat)
  | stageRingTake (core : Nat) | weaverSample (die : Nat) | counterSample (core : Nat)
  | completionCounterEvent (job : BitVec 16) (lv : Level) (n : Nat) (ev : CountEv)
  | launchEntryPlacement (job : BitVec 16) (lid : Nat)
  -- migration, wakes, following, pre-emption (02 R26 to R28; 03 R49, R63; 18 R319 to R323)
  | migrationSend (core slot : Nat) | migrationArrival (core slot : Nat)
  | migrationAccept (core slot : Nat) | migrationRefuse (core slot : Nat) | wakeArrival (id : Nat)
  | followerDetach (core : Nat) | followTimeout (core : Nat)
  | preemptionStart (src dst : Nat) | preemptionStream (src : Nat) | preemptionResume (src : Nat)
  | forward (id : Nat)
  -- containment (22 R374, R378, R382)
  | uncorrectableError (core : Nat) (slot : Option Nat) | hoodReset (leader : Nat)
  | hoodResetEnd (leader : Nat) | refresh (word : Nat) (correctable uncorrectable : Bool)
  -- collectives (16 R297 to R299; 21 R367 to R369)
  | goWord (job : BitVec 16) (c : Fin 32) (gen : Word)
  | collectiveContribution (job : BitVec 16) (c : Fin 32) (rank gen : Nat) (data : List Byte)
  | lossNotice (job : BitVec 16) (c : Fin 32) (rank : Nat)
  | collectiveTimeout (job : BitVec 16) (c : Fin 32)
  -- the platform and the brim sequence (17 R300 to R306; 23 R388, R394, R395)
  | millinerSample (r : List Reading) | clockChange (island : Fin 24) (mhz : Nat)
  | droop (island : Fin 24) | droopRecovery (island : Fin 24)
  | firmwareStage (image sig : List Byte) (version : Nat) | boot (microcode : List (List Byte))
  | supplyLoss (thermal : Bool) | phaseAEnd | phaseB (room : Nat)
  -- fetch and departures (08 R159; 09 R178; 16 R296; 24 R401)
  | illegalInstruction (w : BitVec 32) | fetchFault (cause : BitVec 6) (addr : Word)
  | recordDeparture (core : Nat) (vn : Bool) | peerXlinv (dev idx off : Nat)
  deriving DecidableEq, Repr

end Sys2Proof
end

