-- ==== Sys2Proof/WellFormed.lean ====
section
/-!
DEFINITION. The instructions that have an encoding and the events that name agents the part has. What the
types of Syntax already rule out (scope 7, unassigned control registers) is not repeated here.
-/

namespace Sys2Proof

/-- The types whose lanes hold a float of 32 or 16 bits: the only ones of 11 R223, R225, R228 and R237. -/
def FltTy.isWide : FltTy → Bool
  | .f32 | .f16 | .bf16 => true
  | .e4m3 | .e5m2 | .e2m3 | .e3m2 | .e2m1 | .e8m0 => false

/-- The block formats of 11 R230. -/
def FltTy.isNarrow : FltTy → Bool
  | .e4m3 | .e5m2 | .e2m3 | .e3m2 | .e2m1 => true
  | .f32 | .f16 | .bf16 | .e8m0 => false

/-- The width of an integer element (06 R108). -/
def IntTy.width : IntTy → Nat
  | .i8 | .n8 => 8
  | .i16 | .n16 => 16
  | .i32 | .n32 => 32
  | .i64 | .n64 => 64
  | .i4 => 4
  | .t2 => 2

/-- Sources that VCVT takes: every type but E8M0 (11 R229). -/
def CvtSrc.allowed : CvtSrc → Bool
  | .int _ => true
  | .flt t => t != .e8m0

/-- The types VPACK and VUNPACK take (11 R231). -/
def IntTy.packs (t : IntTy) : Bool := t.width < 64

/-- The types of contiguous and strided vector memory (11 R233). -/
def IntTy.moves (t : IntTy) : Bool := 8 ≤ t.width

/-- The types of gathers and scatters (11 R233). -/
def IntTy.gathers (t : IntTy) : Bool := 32 ≤ t.width

/-- Whether a core number, a slot number, a slice number is one of the part's (00 R5, 18 R314). -/
def coreOk (c : Nat) : Bool := c < 512

/-- A strand slot of a core: 0-15 general, 16 the message strand, 17 and 18 the row handlers (18 R314). -/
def slotOk (k : Nat) : Bool := k < 19

/-- A command's header is within its fields (16 R287). -/
def Cmd.wf (c : Cmd) : Bool := c.seq < 2 ^ 32 && c.payload.length ≤ 2 ^ 24

/-- The gb field of a bit instruction is used in pointer mode 10 only, and n5 not in mode 11 (10 R193). -/
def bitFieldsOk (pm : PtrMode) (b : GReg) (n : Fin 32) : Bool :=
  match pm with
  | .keep | .inc => b == 0
  | .setp => true
  | .xch => n == 0

/-- The well-formed steps: an instruction some word encodes, or an event of agents the part has. -/
def Instr.wf : Instr → Bool
  | .ldbit _ b pm _ n _ => bitFieldsOk pm b n
  | .ldbits _ b pm _ n _ => bitFieldsOk pm b n && pm != .xch
  | .stbit _ b pm _ n => bitFieldsOk pm b n && pm != .xch
  | .vadd _ _ _ _ t | .vsub _ _ _ _ t | .vmul _ _ _ _ t | .vmulh _ _ _ _ t | .vmin _ _ _ _ t
  | .vmax _ _ _ _ t | .vshl _ _ _ _ t | .vshr _ _ _ _ t | .vsra _ _ _ _ t
  | .vabs _ _ _ t | .vneg _ _ _ t => t != .t2
  | .vcmp _ q _ _ _ t => t != .t2 && q != 0
  | .vfadd _ _ _ _ t | .vfsub _ _ _ _ t | .vfmul _ _ _ _ t | .vfma _ _ _ _ t | .vfms _ _ _ _ t
  | .vfmin _ _ _ _ t | .vfmax _ _ _ _ t | .vfabs _ _ _ t | .vrcp _ _ _ t | .vrsq _ _ _ t
  | .vexp2 _ _ _ t | .vlog2 _ _ _ t | .vredfadd _ _ _ t | .vredfmax _ _ _ t
  | .ckaf _ _ _ t => t.isWide
  | .vfcmp _ q _ _ _ t => t.isWide && q != 0
  | .vcvtInt _ _ s _ _ => s.allowed
  | .vcvtFloat _ _ s _ t => s.allowed && t != .e8m0
  | .vqmx _ _ _ t | .vdqmx _ _ t => t.isNarrow
  | .vpack _ _ _ _ t | .vunpack _ _ _ _ t => t.packs
  | .kand d _ _ | .kor d _ _ | .knot d _ | .kmov d _ => d != 0
  | .vld _ _ _ t | .vst _ _ _ t | .vlds _ _ _ _ t | .vsts _ _ _ _ t => t.moves
  | .vgath _ _ _ _ t | .vscat _ _ _ _ t => t.gathers
  | .vldbit _ _ _ e _ t | .vstbit _ _ _ e _ t => e.val < t.width && (t != .t2 || e == 1)
  | .jobnew c | .hoodset c | .mapCmd c | .attrCmd c | .loadCmd c | .readCmd c | .launchCmd c
  | .hwgrant c | .hwrevoke c | .sealCmd c | .cntreadCounter c | .cntreadRestartSummary c
  | .cntreadPort c | .cntreadCore c | .cntreadCorrections c | .logctlQuery c | .logctlReplay c
  | .attest c | .collset c | .jobend c | .cregset c | .badcmd _ c => c.wf
  | .storeAck c _ | .postedStoreRefusal c _ _ | .copyComplete c _ | .copyFault c _
  | .edgeRefusal c _ _ | .edgeResend c _ | .streamReadahead c _ | .bankModeChangeComplete c _
  | .mloadComplete c | .mloadRefused c | .rowEntry c | .rowHandlerStart c _
  | .tileOperationComplete c | .tileOperationFault c | .barrierArrival c _ | .errorArrival c _
  | .dequePop c | .dequeRefill c | .messageHandlerStart c | .steal c | .stealAnswer c | .grant c
  | .empty c | .remoteSteal c | .stealBackoffExpiry c | .stageRingTake c | .counterSample c
  | .followerDetach c | .followTimeout c | .preemptionStream c | .preemptionResume c
  | .hoodReset c | .hoodResetEnd c | .recordDeparture c _ => coreOk c
  | .asyncTrap c k | .flushComplete c k | .sealComplete c k | .xlinvComplete c k
  | .attrsetComplete c k | .migrationSend c k | .migrationArrival c k | .migrationAccept c k
  | .migrationRefuse c k => coreOk c && slotOk k
  | .tileSchedulerIssue n => n < 32
  | .waleAddDone sl k => coreOk sl && k < 64
  | .weaverSample d => d < 4
  | .preemptionStart a b => coreOk a && coreOk b
  | .uncorrectableError c k => coreOk c && (match k with | none => true | some k => slotOk k)
  | .clockChange _ mhz => 600 ≤ mhz && mhz ≤ 1600 && mhz % 100 == 0
  | .millinerSample r => r.length == 24
  | .add .. | .sub .. | .mul .. | .mulh .. | .mulhn .. | .div .. | .divn .. | .rem .. | .remn ..
  | .and .. | .or .. | .xor .. | .andn .. | .orn .. | .shl .. | .shr .. | .sra .. | .rot .. | .clz ..
  | .ctz .. | .popc .. | .min .. | .max .. | .minn .. | .maxn .. | .slt .. | .sltn .. | .seq ..
  | .sel .. | .bfx .. | .bfi .. | .addi .. | .andi .. | .ori .. | .xori .. | .shli .. | .shri ..
  | .srai .. | .slti .. | .sltni .. | .li .. | .lis .. | .addpc .. | .lea .. | .mkwin .. | .myid ..
  | .beq .. | .bne .. | .blt .. | .bge .. | .bltn .. | .bgen .. | .jmp .. | .call .. | .jr ..
  | .callr .. | .ret | .rpt .. | .follow | .unfollow | .ldb .. | .ldbn .. | .ldh .. | .ldhn ..
  | .ldw .. | .ldwn .. | .ldd .. | .stb .. | .sth .. | .stw .. | .std .. | .amoadd .. | .amoand ..
  | .amoor .. | .amoxor .. | .amomin .. | .amomax .. | .amominn .. | .amomaxn .. | .amoswp ..
  | .amocas .. | .amofadd .. | .fenceAcq .. | .fenceRel .. | .fenceAr .. | .fenceSc | .pref ..
  | .flush .. | .binit .. | .barr .. | .bwait .. | .baw .. | .bstat .. | .breset .. | .cpy ..
  | .tagwany .. | .tagwall .. | .tagff .. | .tagclr .. | .rginit .. | .rgfill .. | .rgawait ..
  | .rgrel .. | .bankset .. | .qbindFifo .. | .qbindStream .. | .qbindMa .. | .qbindMb ..
  | .qbindMout .. | .qbindMbox .. | .qpush .. | .qpop .. | .vqpush .. | .vqpop .. | .qstat ..
  | .qfree .. | .vand .. | .vor .. | .vxor .. | .vsel .. | .vbcast .. | .vext .. | .vins ..
  | .vperm .. | .vslide .. | .vredadd .. | .vredmax .. | .kpopc .. | .ckclr .. | .cka .. | .ckchk ..
  | .vlease | .vfree | .mload .. | .mloadQ .. | .mtile .. | .mcancel | .mstat .. | .rowgetF ..
  | .rowgetS .. | .rowpass | .warm .. | .wadd .. | .wstat .. | .wwait .. | .wreadF .. | .wreadI ..
  | .wdrop .. | .wfree .. | .ttsub .. | .ttstat .. | .send .. | .reply .. | .spawn .. | .exit
  | .yield | .park | .wake .. | .migrate .. | .monarm .. | .monwait | .prio .. | .role ..
  | .cntarm .. | .launch .. | .join .. | .cancel .. | .cntstat .. | .phaseend .. | .ctlr ..
  | .ctlw .. | .ctlx .. | .trap .. | .eret | .halt | .xlinv .. | .attrset .. | .sealPage ..
  | .msdecl .. | .msdone | .jrnl .. | .wingrant .. | .winrev .. | .packetReceive .. | .linkRetry ..
  | .peerAccess .. | .grantNotice .. | .wingrantAck .. | .revocationNotice .. | .winrevComplete ..
  | .translation .. | .homeAccess .. | .bankAccess .. | .packageWindowAtomic .. | .accessReply ..
  | .moved .. | .warmArrival .. | .waddArrival .. | .wstatArrival .. | .wreadArrival ..
  | .wdropArrival .. | .wfreeArrival .. | .dequePush .. | .mailboxArrival ..
  | .completionCounterEvent .. | .launchEntryPlacement .. | .wakeArrival .. | .forward ..
  | .refresh .. | .goWord .. | .collectiveContribution .. | .lossNotice .. | .collectiveTimeout ..
  | .droop .. | .droopRecovery .. | .firmwareStage .. | .boot .. | .supplyLoss .. | .phaseAEnd
  | .phaseB .. | .illegalInstruction .. | .fetchFault .. | .peerXlinv .. => true

end Sys2Proof
end

