-- ==== Sys2Proof/Decode.lean ====
section
/-!
DEFINITION. The decoder of the part's 32-bit words (08 R149 to R166), total and rejecting by name, and after
it the encoder, from the same tables. A rejected word is what 08 R159 calls an illegal instruction.
-/

namespace Sys2Proof

/-- Why a word is no instruction (08 R151, R152, R159). -/
inductive Reject
  | majorOpcode
  | subFunction
  | reservedField
  | reservedValue
  deriving DecidableEq, Repr

/-- Field [hi:lo] of a word read as a number (00 R2). -/
def fld (w hi lo : Nat) : Nat := w / 2 ^ lo % 2 ^ (hi + 1 - lo)

/-- A 4-bit register field. -/
def gOf (n : Nat) : GReg := Fin.ofNat 16 n

/-- A 5-bit register field. -/
def vOf (n : Nat) : VReg := Fin.ofNat 32 n

/-- A 3-bit register field. -/
def kOf (n : Nat) : KReg := Fin.ofNat 8 n

/-- The instruction, where the reserved field `z` is zero (08 R151). -/
def ifZero (z : Nat) (i : Instr) : Except Reject Instr :=
  if z = 0 then .ok i else .error .reservedField

/-- The instruction, where a field holds a value of its table (08 R152). -/
def withVal {α : Type} (o : Option α) (k : α → Except Reject Instr) : Except Reject Instr :=
  match o with
  | some x => k x
  | none => .error .reservedValue

/-- The instruction, where it is well formed. -/
def ifWf (i : Instr) : Except Reject Instr :=
  if i.wf then .ok i else .error .reservedValue

/-- Scope codes (05 R92). -/
def scopeOf : Nat → Option Scope
  | 0 => some .str | 1 => some .cor | 2 => some .clu | 3 => some .twr
  | 4 => some .pkg | 5 => some .dom | 6 => some .sys | _ => none

/-- ord of a load (08 R153). -/
def ldOrdOf : Nat → LdOrd
  | 0 => .plain | 1 => .acq | 2 => .mig | _ => .ar

/-- ord of a store (08 R153). -/
def stOrdOf : Nat → Option StOrd
  | 0 => some .plain | 2 => some .rel | 3 => some .ar | _ => none

/-- ord of an atomic (08 R153). -/
def amOrdOf : Nat → AmOrd
  | 0 => .plain | 1 => .acq | 2 => .rel | _ => .ar

/-- Integer type codes (06 R108). -/
def intTyOf : Nat → Option IntTy
  | 0 => some .i8 | 1 => some .i16 | 2 => some .i32 | 3 => some .i64 | 4 => some .n8
  | 5 => some .n16 | 6 => some .n32 | 7 => some .n64 | 8 => some .i4 | 9 => some .t2 | _ => none

/-- Float type codes (06 R108). -/
def fltTyOf : Nat → Option FltTy
  | 0 => some .f32 | 1 => some .f16 | 2 => some .bf16 | 3 => some .e4m3 | 4 => some .e5m2
  | 5 => some .e2m3 | 6 => some .e3m2 | 7 => some .e2m1 | 8 => some .e8m0 | _ => none

/-- The rounding field (06 R115). -/
def rmOf : Nat → Option RmField
  | 0 => some (.mode .rne) | 1 => some (.mode .rtz) | 2 => some (.mode .rup) | 3 => some (.mode .rdn)
  | 4 => some (.mode .rna) | 5 => some (.mode .sr) | 7 => some .frm | _ => none

/-- The source of a conversion: its type in vb[4:1], its group in vb[0] (11 R229). -/
def cvtSrcOf (vb : Nat) : Option CvtSrc :=
  if vb % 2 = 0 then (intTyOf (vb / 2)).map .int else (fltTyOf (vb / 2)).map .flt

/-- Condition codes (11 R223). -/
def condOf : Nat → Cond
  | 0 => .eq | 1 => .ne | 2 => .lt | _ => .ge

/-- Pointer modes (10 R193). -/
def ptrModeOf : Nat → PtrMode
  | 0 => .keep | 1 => .inc | 2 => .setp | _ => .xch

/-- The selector of MYID (08 R161). -/
def idSelOf : Nat → Option IdSel
  | 0 => some .core | 1 => some .cluster | 2 => some .strand | 3 => some .job | 4 => some .device
  | _ => none

/-- Control-register numbers (09 R184). -/
def crOf (n : Nat) : Option CrName :=
  match n with
  | 0x000 => some .status | 0x001 => some .strid | 0x002 => some .jobid | 0x003 => some .prio
  | 0x004 => some .role | 0x005 => some .frm | 0x006 => some .srseed | 0x007 => some .fmtbad
  | 0x008 => some .fmta | 0x009 => some .fmtb | 0x00A => some .scla | 0x00B => some .sclb
  | 0x020 => some .coreid | 0x021 => some .cause | 0x022 => some .epc | 0x023 => some .faddr
  | 0x024 => some .schedmode | 0x025 => some .agewin | 0x026 => some .fpctl | 0x027 => some .tags
  | 0x028 => some .usc | 0x029 => some .bankcfg | 0x02A => some .htbase | 0x02B => some .msbase
  | 0x02C => some .mslen | 0x02D => some .cycle | 0x02E => some .stageasn | 0x040 => some .tvec
  | 0x041 => some .sscr | 0x042 => some .jtbase | 0x043 => some .fatbase
  | n => if n / 16 = 6 then some (.wvring (Fin.ofNat 16 n)) else none

/-- The operand of CKCHK by its mode: a checksum register in vb[1:0], whose upper bits are zero, or a g
register in vb[3:0] (11 R238). -/
def ckArgOf (mode vb : Nat) : Option CkArg :=
  match mode with
  | 0 => if vb < 4 then some (.i (Fin.ofNat 4 vb)) else none
  | 1 => some (.ig (gOf vb))
  | 2 => if vb < 4 then some (.f (Fin.ofNat 4 vb)) else none
  | 3 => some (.fg (gOf vb))
  | _ => none

/-- Major 0x01 by fn (08 R160). -/
def decScalar (d a b : GReg) (bz z fn : Nat) : Except Reject Instr :=
  match fn with
  | 0x00 => ifZero z (.add d a b) | 0x01 => ifZero z (.sub d a b) | 0x02 => ifZero z (.mul d a b)
  | 0x03 => ifZero z (.mulh d a b) | 0x04 => ifZero z (.mulhn d a b) | 0x05 => ifZero z (.div d a b)
  | 0x06 => ifZero z (.divn d a b) | 0x07 => ifZero z (.rem d a b) | 0x08 => ifZero z (.remn d a b)
  | 0x10 => ifZero z (.and d a b) | 0x11 => ifZero z (.or d a b) | 0x12 => ifZero z (.xor d a b)
  | 0x13 => ifZero z (.andn d a b) | 0x14 => ifZero z (.orn d a b) | 0x18 => ifZero z (.shl d a b)
  | 0x19 => ifZero z (.shr d a b) | 0x1A => ifZero z (.sra d a b) | 0x1B => ifZero z (.rot d a b)
  | 0x1C => ifZero (z + bz) (.clz d a) | 0x1D => ifZero (z + bz) (.ctz d a)
  | 0x1E => ifZero (z + bz) (.popc d a)
  | 0x20 => ifZero z (.min d a b) | 0x21 => ifZero z (.max d a b) | 0x22 => ifZero z (.minn d a b)
  | 0x23 => ifZero z (.maxn d a b) | 0x24 => ifZero z (.slt d a b) | 0x25 => ifZero z (.sltn d a b)
  | 0x26 => ifZero z (.seq d a b) | 0x27 => ifZero z (.sel d a b) | 0x28 => ifZero z (.bfx d a b)
  | 0x29 => ifZero z (.bfi d a b)
  | _ => .error .subFunction

/-- The shifts of major 0x06: imm18[7:6] selects, [5:0] is the count (08 R161). -/
def decShift (d a : GReg) (imm : Nat) : Except Reject Instr :=
  let n := BitVec.ofNat 6 imm
  if imm / 256 = 0 then
    match imm / 64 with
    | 0 => .ok (.shli d a n) | 1 => .ok (.shri d a n) | 2 => .ok (.srai d a n)
    | _ => .error .reservedValue
  else .error .reservedField

/-- Major 0x0C: imm18[17:16] selects (08 R161). -/
def decAddr (d a : GReg) (az imm : Nat) : Except Reject Instr :=
  match imm / 2 ^ 16 with
  | 0 => .ok (.lea d a (BitVec.ofNat 16 imm))
  | 1 => .ok (.mkwin d a (BitVec.ofNat 16 imm))
  | 2 => if az + imm % 2 ^ 16 / 16 = 0 then withVal (idSelOf (imm % 16)) fun s => .ok (.myid d s)
         else .error .reservedField
  | _ => .error .reservedValue

/-- Major 0x18 by fn (08 R160). -/
def decJump (d a b : Nat) (z fn : Nat) : Except Reject Instr :=
  match fn with
  | 0 => ifZero (d + b + z) (.jr (gOf a))
  | 1 => ifZero (d + b + z) (.callr (gOf a))
  | 2 => ifZero (d + a + b + z) .ret
  | _ => .error .subFunction

/-- Loads, major 0x20: sz and sgn fix the mnemonic (08 R163). -/
def decLoad (d a : GReg) (sz sgn ord sc la disp : Nat) : Except Reject Instr :=
  let o := ldOrdOf ord
  let l := gOf la
  let p := BitVec.ofNat 6 disp
  withVal (scopeOf sc) fun s =>
    match sz * 2 + sgn with
    | 0 => .ok (.ldbn d a o s l p) | 1 => .ok (.ldb d a o s l p) | 2 => .ok (.ldhn d a o s l p)
    | 3 => .ok (.ldh d a o s l p) | 4 => .ok (.ldwn d a o s l p) | 5 => .ok (.ldw d a o s l p)
    | 6 => .ok (.ldd d a o s l p) | _ => .error .reservedValue

/-- Stores, major 0x21: sgn and la must be 0 (08 R163, 10 R191). -/
def decStore (d a : GReg) (sz sgn ord sc la disp : Nat) : Except Reject Instr :=
  let p := BitVec.ofNat 6 disp
  withVal (scopeOf sc) fun s => withVal (stOrdOf ord) fun o =>
    match sz with
    | 0 => ifZero (sgn + la) (.stb d a o s p) | 1 => ifZero (sgn + la) (.sth d a o s p)
    | 2 => ifZero (sgn + la) (.stw d a o s p) | _ => ifZero (sgn + la) (.std d a o s p)

/-- FENCE, PREF and FLUSH, major 0x24 by sz (08 R163). -/
def decFence (d a sz sgn ord sc la disp : Nat) : Except Reject Instr :=
  withVal (scopeOf sc) fun s =>
    match sz with
    | 0 =>
      match ord with
      | 0 => if s = .sys then ifZero (d + a + sgn + la + disp) .fenceSc else .error .reservedValue
      | 1 => ifZero (d + a + sgn + la + disp) (.fenceAcq s)
      | 2 => ifZero (d + a + sgn + la + disp) (.fenceRel s)
      | _ => ifZero (d + a + sgn + la + disp) (.fenceAr s)
    | 1 => ifZero (d + ord + la) (.pref (gOf a) (sgn = 1) s (BitVec.ofNat 6 disp))
    | 2 => ifZero (sgn + ord + la + disp) (.flush (gOf d) (gOf a) s)
    | _ => .error .subFunction

/-- Atomics, major 0x23 by fn (08 R164). -/
def decAmo (d a b : GReg) (fn dw ord sc la : Nat) : Except Reject Instr :=
  let w : Bool := dw = 1
  let o := amOrdOf ord
  let l := gOf la
  withVal (scopeOf sc) fun s =>
    match fn with
    | 0 => .ok (.amoadd d a b w o s l) | 1 => .ok (.amoand d a b w o s l)
    | 2 => .ok (.amoor d a b w o s l) | 3 => .ok (.amoxor d a b w o s l)
    | 4 => .ok (.amomin d a b w o s l) | 5 => .ok (.amomax d a b w o s l)
    | 6 => .ok (.amominn d a b w o s l) | 7 => .ok (.amomaxn d a b w o s l)
    | 8 => .ok (.amoswp d a b w o s l) | 9 => .ok (.amocas d a b w o s l)
    | 10 => if dw = 0 then .ok (.amofadd d a b o s l) else .error .reservedValue
    | _ => .error .subFunction

/-- The fields of a V-form word (08 R150). -/
structure VFields where
  vd : Nat
  va : Nat
  vb : Nat
  k : Nat
  ty : Nat
  fn : Nat
  deriving DecidableEq, Repr

/-- Major 0x30 by fn (08 R165). -/
def decVInt (f : VFields) : Except Reject Instr :=
  let d := vOf f.vd
  let a := vOf f.va
  let b := vOf f.vb
  let k := kOf f.k
  withVal (intTyOf f.ty) fun t =>
    match f.fn with
    | 0 => ifWf (.vadd d a b k t) | 1 => ifWf (.vsub d a b k t) | 2 => ifWf (.vmul d a b k t)
    | 3 => ifWf (.vmulh d a b k t) | 4 => ifWf (.vmin d a b k t) | 5 => ifWf (.vmax d a b k t)
    | 6 => ifWf (.vand d a b k t) | 7 => ifWf (.vor d a b k t) | 8 => ifWf (.vxor d a b k t)
    | 9 => ifWf (.vshl d a b k t) | 10 => ifWf (.vshr d a b k t) | 11 => ifWf (.vsra d a b k t)
    | 12 => if f.vb = 0 then ifWf (.vabs d a k t) else .error .reservedField
    | 13 => if f.vb = 0 then ifWf (.vneg d a k t) else .error .reservedField
    | 14 => ifWf (.vcmp (condOf (f.vd / 8)) (kOf f.vd) a b k t)
    | _ => ifWf (.vsel d a b k t)

/-- Major 0x31 by fn (08 R165). -/
def decVFlt (f : VFields) : Except Reject Instr :=
  let d := vOf f.vd
  let a := vOf f.va
  let b := vOf f.vb
  let k := kOf f.k
  withVal (fltTyOf f.ty) fun t =>
    match f.fn with
    | 0 => ifWf (.vfadd d a b k t) | 1 => ifWf (.vfsub d a b k t) | 2 => ifWf (.vfmul d a b k t)
    | 3 => ifWf (.vfma d a b k t) | 4 => ifWf (.vfms d a b k t) | 5 => ifWf (.vfmin d a b k t)
    | 6 => ifWf (.vfmax d a b k t)
    | 7 => if f.vb = 0 then ifWf (.vfabs d a k t) else .error .reservedField
    | 8 => if f.vb = 0 then ifWf (.vrcp d a k t) else .error .reservedField
    | 9 => if f.vb = 0 then ifWf (.vrsq d a k t) else .error .reservedField
    | 10 => if f.vb = 0 then ifWf (.vexp2 d a k t) else .error .reservedField
    | 11 => if f.vb = 0 then ifWf (.vlog2 d a k t) else .error .reservedField
    | 12 => ifWf (.vfcmp (condOf (f.vd / 8)) (kOf f.vd) a b k t)
    | _ => .error .subFunction

/-- The mask group: the type field selects; mask fields use their low three bits (11 R232). -/
def decMask (f : VFields) : Except Reject Instr :=
  if f.k = 0 ∧ f.va / 8 = 0 then
    match f.ty with
    | 0 => if f.vd / 8 + f.vb / 8 = 0 then ifWf (.kand (kOf f.vd) (kOf f.va) (kOf f.vb))
           else .error .reservedField
    | 1 => if f.vd / 8 + f.vb / 8 = 0 then ifWf (.kor (kOf f.vd) (kOf f.va) (kOf f.vb))
           else .error .reservedField
    | 2 => if f.vd / 8 + f.vb = 0 then ifWf (.knot (kOf f.vd) (kOf f.va)) else .error .reservedField
    | 3 => if f.vd / 8 + f.vb = 0 then ifWf (.kmov (kOf f.vd) (kOf f.va)) else .error .reservedField
    | 4 => ifZero (f.vd / 16 + f.vb) (.kpopc (gOf f.vd) (kOf f.va))
    | _ => .error .reservedValue
  else .error .reservedField

/-- Major 0x32 by fn (08 R165, 11 R226 to R232). -/
def decVPerm (f : VFields) : Except Reject Instr :=
  let d := vOf f.vd
  let a := vOf f.va
  let b := vOf f.vb
  let k := kOf f.k
  match f.fn with
  | 0 => withVal (intTyOf f.ty) fun t => ifZero (f.va / 16 + f.vb) (.vbcast d (gOf f.va) k t)
  | 1 => withVal (intTyOf f.ty) fun t =>
      ifZero (f.vd / 16 + f.vb / 16 + f.k) (.vext (gOf f.vd) a (gOf f.vb) t)
  | 2 => withVal (intTyOf f.ty) fun t =>
      ifZero (f.va / 16 + f.vb / 16) (.vins d (gOf f.va) (gOf f.vb) k t)
  | 3 => withVal (intTyOf f.ty) fun t => .ok (.vperm d a b k t)
  | 4 => withVal (intTyOf f.ty) fun t => ifZero (f.vb / 16) (.vslide d a (gOf f.vb) k t)
  | 5 => withVal (intTyOf f.ty) fun t => ifZero f.vb (.vredadd d a k t)
  | 6 => withVal (fltTyOf f.ty) fun t =>
      if f.vb = 0 then ifWf (.vredfadd d a k t) else .error .reservedField
  | 7 => withVal (intTyOf f.ty) fun t => ifZero f.vb (.vredmax d a k t)
  | 8 => withVal (fltTyOf f.ty) fun t =>
      if f.vb = 0 then ifWf (.vredfmax d a k t) else .error .reservedField
  | 9 => withVal (intTyOf f.ty) fun t => withVal (cvtSrcOf f.vb) fun s =>
      withVal (rmOf f.k) fun r => ifWf (.vcvtInt d a s r t)
  | 10 => withVal (fltTyOf f.ty) fun t => withVal (cvtSrcOf f.vb) fun s =>
      withVal (rmOf f.k) fun r => ifWf (.vcvtFloat d a s r t)
  | 11 => withVal (fltTyOf f.ty) fun t => withVal (rmOf f.k) fun r =>
      if f.vb = 0 then ifWf (.vqmx d a r t) else .error .reservedField
  | 12 => withVal (fltTyOf f.ty) fun t =>
      if f.vb + f.k = 0 then ifWf (.vdqmx d a t) else .error .reservedField
  | 13 => withVal (intTyOf f.ty) fun t => ifWf (.vpack d a b k t)
  | 14 => withVal (intTyOf f.ty) fun t =>
      if f.vb / 2 = 0 then ifWf (.vunpack d a (f.vb = 1) k t) else .error .reservedField
  | _ => decMask f

/-- Major 0x33 by fn (08 R165, 11 R233, R235). -/
def decVMem (f : VFields) : Except Reject Instr :=
  let d := vOf f.vd
  let a := gOf f.va
  let k := kOf f.k
  withVal (intTyOf f.ty) fun t =>
    match f.fn with
    | 0 => if f.va / 16 + f.vb = 0 then ifWf (.vld d a k t) else .error .reservedField
    | 1 => if f.va / 16 + f.vb = 0 then ifWf (.vst d a k t) else .error .reservedField
    | 2 => if f.va / 16 + f.vb / 16 = 0 then ifWf (.vlds d a (gOf f.vb) k t)
           else .error .reservedField
    | 3 => if f.va / 16 + f.vb / 16 = 0 then ifWf (.vsts d a (gOf f.vb) k t)
           else .error .reservedField
    | 4 => if f.va / 16 = 0 then ifWf (.vgath d a (vOf f.vb) k t) else .error .reservedField
    | 5 => if f.va / 16 = 0 then ifWf (.vscat d a (vOf f.vb) k t) else .error .reservedField
    | 6 => if f.va / 8 = 0 then ifWf (.vldbit d (f.va / 4 = 1) (Fin.ofNat 4 f.va) (vOf f.vb) k t)
           else .error .reservedField
    | 7 => if f.va / 8 = 0 then ifWf (.vstbit d (f.va / 4 = 1) (Fin.ofNat 4 f.va) (vOf f.vb) k t)
           else .error .reservedField
    | _ => .error .subFunction

/-- Major 0x34 by fn (08 R165, 11 R236 to R238). -/
def decCheck (f : VFields) : Except Reject Instr :=
  match f.fn with
  | 0 => ifZero (f.vd / 4 + f.va + f.vb + f.k + f.ty) (.ckclr (Fin.ofNat 4 f.vd))
  | 1 => withVal (intTyOf f.ty) fun t =>
      ifZero (f.vd / 4 + f.vb) (.cka (Fin.ofNat 4 f.vd) (vOf f.va) (kOf f.k) t)
  | 2 => withVal (fltTyOf f.ty) fun t =>
      if f.vd / 4 + f.vb = 0 then ifWf (.ckaf (Fin.ofNat 4 f.vd) (vOf f.va) (kOf f.k) t)
      else .error .reservedField
  | 3 => withVal (ckArgOf f.ty f.vb) fun c =>
      ifZero (f.vd / 16 + f.va / 4 + f.vb / 16 + f.k) (.ckchk (gOf f.vd) (Fin.ofNat 4 f.va) c)
  | _ => .error .subFunction

/-- Major 0x35: every field other than op and fn is zero (08 R165). -/
def decLease (f : VFields) : Except Reject Instr :=
  match f.fn with
  | 0 => ifZero (f.vd + f.va + f.vb + f.k + f.ty) .vlease
  | 1 => ifZero (f.vd + f.va + f.vb + f.k + f.ty) .vfree
  | _ => .error .subFunction

/-- The fields of an E-form word (08 R150). -/
structure EFields where
  sub : Nat
  a : Nat
  b : Nat
  c : Nat
  n : Nat
  la : Nat
  deriving DecidableEq, Repr

/-- Major 0x1A (09 R179). -/
def decFollow (f : EFields) : Except Reject Instr :=
  match f.sub with
  | 0 => ifZero (f.a + f.b + f.c + f.n + f.la) .follow
  | 1 => ifZero (f.a + f.b + f.c + f.n + f.la) .unfollow
  | _ => .error .subFunction

/-- Major 0x22 (10 R193). -/
def decBit (f : EFields) : Except Reject Instr :=
  let p : BpReg := Fin.ofNat 4 f.c
  let pm := ptrModeOf (f.c / 4)
  match f.sub with
  | 0 => ifWf (.ldbit (gOf f.a) (gOf f.b) pm p (vOf f.n) (gOf f.la))
  | 1 => ifWf (.ldbits (gOf f.a) (gOf f.b) pm p (vOf f.n) (gOf f.la))
  | 2 => if f.la = 0 then ifWf (.stbit (gOf f.a) (gOf f.b) pm p (vOf f.n)) else .error .reservedField
  | _ => .error .subFunction

/-- Major 0x28 (10 R202). -/
def decBar (f : EFields) : Except Reject Instr :=
  match f.sub with
  | 0 => ifZero (f.b + f.c + f.la) (.binit (gOf f.a) (vOf f.n))
  | 1 => ifZero (f.b + f.c + f.la) (.barr (gOf f.a) (vOf f.n))
  | 2 => ifZero f.c (.bwait (gOf f.a) (gOf f.b) (vOf f.n) (gOf f.la))
  | 3 => ifZero (f.b + f.c) (.baw (gOf f.a) (vOf f.n) (gOf f.la))
  | 4 => ifZero (f.b + f.c) (.bstat (gOf f.a) (vOf f.n) (gOf f.la))
  | 5 => ifZero (f.a + f.b + f.c + f.la) (.breset (vOf f.n))
  | _ => .error .subFunction

/-- Major 0x2A (10 R208, R209, R211). -/
def decTag (f : EFields) : Except Reject Instr :=
  match f.sub with
  | 0 => ifZero (f.c + f.n) (.tagwany (gOf f.a) (gOf f.b) (gOf f.la))
  | 1 => ifZero (f.a + f.c + f.n + f.la) (.tagwall (gOf f.b))
  | 2 => ifZero (f.c + f.n) (.tagff (gOf f.a) (gOf f.b) (gOf f.la))
  | 3 => ifZero (f.a + f.c + f.n + f.la) (.tagclr (gOf f.b))
  | 4 => ifZero (f.b + f.c + f.n + f.la) (.rginit (gOf f.a))
  | 5 => withVal (scopeOf (f.n / 4)) fun s =>
      ifZero (f.c + f.la) (.rgfill (gOf f.a) (gOf f.b) (f.n % 2 = 1) (f.n / 2 % 2 = 1) s)
  | 6 => ifZero f.c (.rgawait (gOf f.a) (gOf f.b) (vOf f.n) (gOf f.la))
  | 7 => ifZero (f.b + f.c + f.n + f.la) (.rgrel (gOf f.a))
  | 8 => ifZero (f.a + f.c + f.n + f.la) (.bankset (gOf f.b))
  | _ => .error .subFunction

/-- Major 0x2B (10 R212, R214, R216, R217). -/
def decQueue (f : EFields) : Except Reject Instr :=
  let q := kOf f.c
  let hi := f.c / 8
  match f.sub with
  | 0 =>
    match f.n with
    | 0 => ifZero (hi + f.b + f.la) (.qbindFifo (gOf f.a) q)
    | 1 => ifZero (hi + f.la) (.qbindStream (gOf f.a) (gOf f.b) q)
    | 2 => ifZero (hi + f.a + f.b + f.la) (.qbindMa q)
    | 3 => ifZero (hi + f.a + f.b + f.la) (.qbindMb q)
    | 4 => ifZero (hi + f.a + f.b + f.la) (.qbindMout q)
    | 5 => ifZero (hi + f.b + f.la) (.qbindMbox (gOf f.a) q)
    | _ => .error .reservedValue
  | 1 => ifZero (hi + f.a + f.n + f.la) (.qpush (gOf f.b) q)
  | 2 => ifZero (hi + f.b + f.n) (.qpop (gOf f.a) q (gOf f.la))
  | 3 => ifZero (hi + f.a + f.b + f.la) (.vqpush q (vOf f.n))
  | 4 => ifZero (hi + f.a + f.b + f.la) (.vqpop q (vOf f.n))
  | 5 => if hi = 0 then ifZero (f.b + f.n + f.la) (.qstat (gOf f.a) (.q q))
         else ifZero (f.c % 8 + f.b + f.n + f.la) (.qstat (gOf f.a) .sq)
  | 6 => ifZero (hi + f.a + f.b + f.n + f.la) (.qfree q)
  | _ => .error .subFunction

/-- Major 0x38 (12 R241 to R246). -/
def decMatrix (f : EFields) : Except Reject Instr :=
  match f.sub with
  | 0 => if f.n = 0 then ifZero (f.c + f.la) (.mload (gOf f.a) (gOf f.b))
         else ifZero (f.n / 2 + f.a + f.c + f.la) (.mloadQ (gOf f.b))
  | 1 => ifZero f.la (.mtile (gOf f.a) (gOf f.b) (gOf f.c) (vOf f.n))
  | 2 => ifZero (f.a + f.b + f.c + f.n + f.la) .mcancel
  | 3 => ifZero (f.b + f.c + f.n) (.mstat (gOf f.a) (gOf f.la))
  | 4 => if f.c = 0 then ifZero (f.a + f.la) (.rowgetF (gOf f.b) (vOf f.n))
         else ifZero (f.c / 2 + f.a + f.la) (.rowgetS (gOf f.b) (vOf f.n))
  | 5 => ifZero (f.a + f.b + f.c + f.n + f.la) .rowpass
  | _ => .error .subFunction

/-- Major 0x39 (12 R247 to R250). -/
def decWale (f : EFields) : Except Reject Instr :=
  match f.sub with
  | 0 => ifZero (f.c + f.n) (.warm (gOf f.a) (gOf f.b) (gOf f.la))
  | 1 => .ok (.wadd (gOf f.a) (gOf f.b) (gOf f.c) (vOf f.n) (gOf f.la))
  | 2 => ifZero (f.c + f.n) (.wstat (gOf f.a) (gOf f.b) (gOf f.la))
  | 3 => ifZero (f.a + f.c + f.n + f.la) (.wwait (gOf f.b))
  | 4 => if f.c = 0 then .ok (.wreadF (gOf f.a) (gOf f.b) (vOf f.n) (gOf f.la))
         else ifZero (f.c / 2) (.wreadI (gOf f.a) (gOf f.b) (vOf f.n) (gOf f.la))
  | 5 => ifZero (f.c + f.n) (.wdrop (gOf f.a) (gOf f.b) (gOf f.la))
  | 6 => ifZero (f.c + f.n) (.wfree (gOf f.a) (gOf f.b) (gOf f.la))
  | _ => .error .subFunction

/-- Major 0x3A (12 R251 to R254). -/
def decTask (f : EFields) : Except Reject Instr :=
  match f.sub with
  | 0 => ifZero (f.c + f.n) (.ttsub (gOf f.a) (gOf f.b) (gOf f.la))
  | 1 => ifZero (f.c + f.n) (.ttstat (gOf f.a) (gOf f.b) (gOf f.la))
  | 2 => ifZero (f.a + f.c + f.n + f.la) (.send (gOf f.b))
  | 3 => ifZero (f.a + f.c + f.n + f.la) (.reply (gOf f.b))
  | _ => .error .subFunction

/-- Major 0x3B (12 R255). -/
def decStrand (f : EFields) : Except Reject Instr :=
  match f.sub with
  | 0 => ifZero f.n (.spawn (gOf f.a) (gOf f.b) (gOf f.c) (gOf f.la))
  | 1 => ifZero (f.a + f.b + f.c + f.n + f.la) .exit
  | 2 => ifZero (f.a + f.b + f.c + f.n + f.la) .yield
  | 3 => ifZero (f.a + f.b + f.c + f.n + f.la) .park
  | 4 => ifZero (f.a + f.n + f.la) (.wake (gOf f.b) (gOf f.c))
  | 5 => ifZero (f.a + f.c + f.n + f.la) (.migrate (gOf f.b))
  | 6 => ifZero (f.a + f.c + f.n + f.la) (.monarm (gOf f.b))
  | 7 => ifZero (f.a + f.b + f.c + f.n + f.la) .monwait
  | 8 => ifZero (f.a + f.c + f.n + f.la) (.prio (gOf f.b))
  | 9 => ifZero (f.a + f.c + f.n + f.la) (.role (gOf f.b))
  | 10 => ifZero (f.a + f.n + f.la) (.cntarm (gOf f.b) (gOf f.c))
  | _ => .error .subFunction

/-- Major 0x3C (12 R258 to R260). -/
def decHier (f : EFields) : Except Reject Instr :=
  match f.sub with
  | 0 => ifZero (f.c + f.n) (.launch (gOf f.a) (gOf f.b) (gOf f.la))
  | 1 => ifZero (f.c + f.n) (.join (gOf f.a) (gOf f.b) (gOf f.la))
  | 2 => ifZero (f.a + f.c + f.n + f.la) (.cancel (gOf f.b))
  | 3 => ifZero (f.c + f.n) (.cntstat (gOf f.a) (gOf f.b) (gOf f.la))
  | 4 => ifZero (f.a + f.c + f.n + f.la) (.phaseend (gOf f.b))
  | _ => .error .subFunction

/-- Major 0x3E (09 R181, 12 R261). -/
def decSys (f : EFields) : Except Reject Instr :=
  match f.sub with
  | 0 => withVal (crOf (f.c * 32 + f.n)) fun cr => ifZero f.b (.ctlr (gOf f.a) cr (gOf f.la))
  | 1 => withVal (crOf (f.c * 32 + f.n)) fun cr => ifZero (f.a + f.la) (.ctlw (gOf f.b) cr)
  | 2 => withVal (crOf (f.c * 32 + f.n)) fun cr => .ok (.ctlx (gOf f.a) (gOf f.b) cr (gOf f.la))
  | 3 => ifZero (f.a + f.b + f.c + f.la) (.trap (vOf f.n))
  | 4 => ifZero (f.a + f.b + f.c + f.n + f.la) .eret
  | 5 => ifZero (f.a + f.b + f.c + f.n + f.la) .halt
  | 6 => ifZero (f.a + f.n + f.la) (.xlinv (gOf f.b) (gOf f.c))
  | 7 => ifZero (f.a + f.n + f.la) (.attrset (gOf f.b) (gOf f.c))
  | 8 => ifZero (f.a + f.c + f.n + f.la) (.sealPage (gOf f.b))
  | 9 => ifZero f.n (.msdecl (gOf f.a) (gOf f.b) (gOf f.c) (gOf f.la))
  | 10 => ifZero (f.a + f.b + f.c + f.n + f.la) .msdone
  | 11 => ifZero (f.c + f.n) (.jrnl (gOf f.a) (gOf f.b) (gOf f.la))
  | 12 => ifZero (f.c + f.n) (.wingrant (gOf f.a) (gOf f.b) (gOf f.la))
  | 13 => ifZero (f.a + f.c + f.n + f.la) (.winrev (gOf f.b))
  | _ => .error .subFunction

/-- The V fields of a word. -/
def vFields (w : Nat) : VFields :=
  ⟨fld w 25 21, fld w 20 16, fld w 15 11, fld w 10 8, fld w 7 4, fld w 3 0⟩

/-- The E fields of a word. -/
def eFields (w : Nat) : EFields :=
  ⟨fld w 25 21, fld w 20 17, fld w 16 13, fld w 12 9, fld w 8 4, fld w 3 0⟩

/-- The decoder on a word read as a number: the major opcode selects form and group (08 R159). -/
def decodeNat (w : Nat) : Except Reject Instr :=
  let d := fld w 25 22
  let a := fld w 21 18
  let imm := fld w 17 0
  match fld w 31 26 with
  | 0x01 => decScalar (gOf d) (gOf a) (gOf (fld w 17 14)) (fld w 17 14) (fld w 13 6) (fld w 5 0)
  | 0x02 => .ok (.addi (gOf d) (gOf a) (BitVec.ofNat 18 imm))
  | 0x03 => .ok (.andi (gOf d) (gOf a) (BitVec.ofNat 18 imm))
  | 0x04 => .ok (.ori (gOf d) (gOf a) (BitVec.ofNat 18 imm))
  | 0x05 => .ok (.xori (gOf d) (gOf a) (BitVec.ofNat 18 imm))
  | 0x06 => decShift (gOf d) (gOf a) imm
  | 0x07 => .ok (.slti (gOf d) (gOf a) (BitVec.ofNat 18 imm))
  | 0x08 => .ok (.sltni (gOf d) (gOf a) (BitVec.ofNat 18 imm))
  | 0x09 => ifZero a (.li (gOf d) (BitVec.ofNat 18 imm))
  | 0x0A => ifZero a (.lis (gOf d) (BitVec.ofNat 18 imm))
  | 0x0B => ifZero a (.addpc (gOf d) (BitVec.ofNat 18 imm))
  | 0x0C => decAddr (gOf d) (gOf a) a imm
  | 0x10 => .ok (.beq (gOf d) (gOf a) (BitVec.ofNat 18 imm))
  | 0x11 => .ok (.bne (gOf d) (gOf a) (BitVec.ofNat 18 imm))
  | 0x12 => .ok (.blt (gOf d) (gOf a) (BitVec.ofNat 18 imm))
  | 0x13 => .ok (.bge (gOf d) (gOf a) (BitVec.ofNat 18 imm))
  | 0x14 => .ok (.bltn (gOf d) (gOf a) (BitVec.ofNat 18 imm))
  | 0x15 => .ok (.bgen (gOf d) (gOf a) (BitVec.ofNat 18 imm))
  | 0x16 => .ok (.jmp (BitVec.ofNat 26 w))
  | 0x17 => .ok (.call (BitVec.ofNat 26 w))
  | 0x18 => decJump d a (fld w 17 14) (fld w 13 6) (fld w 5 0)
  | 0x19 => ifZero (fld w 2 0)
      (.rpt (gOf d) (gOf a) (vOf (fld w 17 13)) (vOf (fld w 12 8)) (vOf (fld w 7 3)))
  | 0x1A => decFollow (eFields w)
  | 0x20 => decLoad (gOf d) (gOf a) (fld w 17 16) (fld w 15 15) (fld w 14 13) (fld w 12 10)
      (fld w 9 6) (fld w 5 0)
  | 0x21 => decStore (gOf d) (gOf a) (fld w 17 16) (fld w 15 15) (fld w 14 13) (fld w 12 10)
      (fld w 9 6) (fld w 5 0)
  | 0x22 => decBit (eFields w)
  | 0x23 => decAmo (gOf d) (gOf a) (gOf (fld w 17 14)) (fld w 13 10) (fld w 9 9) (fld w 8 7)
      (fld w 6 4) (fld w 3 0)
  | 0x24 => decFence d a (fld w 17 16) (fld w 15 15) (fld w 14 13) (fld w 12 10) (fld w 9 6)
      (fld w 5 0)
  | 0x28 => decBar (eFields w)
  | 0x29 => withVal (scopeOf (fld w 7 5)) fun s =>
      ifZero (fld w 2 0) (.cpy (Fin.ofNat 64 (fld w 25 20)) (gOf (fld w 19 16)) (gOf (fld w 15 12))
        (gOf (fld w 11 8)) s (fld w 4 4 = 1) (fld w 3 3 = 1))
  | 0x2A => decTag (eFields w)
  | 0x2B => decQueue (eFields w)
  | 0x30 => decVInt (vFields w)
  | 0x31 => decVFlt (vFields w)
  | 0x32 => decVPerm (vFields w)
  | 0x33 => decVMem (vFields w)
  | 0x34 => decCheck (vFields w)
  | 0x35 => decLease (vFields w)
  | 0x38 => decMatrix (eFields w)
  | 0x39 => decWale (eFields w)
  | 0x3A => decTask (eFields w)
  | 0x3B => decStrand (eFields w)
  | 0x3C => decHier (eFields w)
  | 0x3E => decSys (eFields w)
  | _ => .error .majorOpcode

/-- The instruction a word encodes, or why it encodes none. -/
def decode (w : BitVec 32) : Except Reject Instr := decodeNat w.toNat

/-- The instruction the bytes at the program counter hold: one word, its least significant byte first
(00 R1, 08 R149), and the bytes after it. -/
def decodeBytes : List Byte → Option (Except Reject Instr × List Byte)
  | b0 :: b1 :: b2 :: b3 :: rest => some (decode (b3 ++ b2 ++ b1 ++ b0), rest)
  | _ => none

/-- The decoder on a word of the opcode table: every instruction is one 32-bit word, so the table's bit
numbers are the word's own; bits above nbits are zero. -/
def decodeTableWord (nbits w : Nat) : Option Instr :=
  let x := BitVec.ofNat 32 (w % 2 ^ nbits)
  match decodeBytes [x.extractLsb' 0 8, x.extractLsb' 8 8, x.extractLsb' 16 8, x.extractLsb' 24 8] with
  | some (.ok i, _) => some i
  | _ => none

/-! The encoder, from the same tables (08 R150 to R166). -/

/-- Scope codes (05 R92). -/
def scopeCode : Scope → Nat
  | .str => 0 | .cor => 1 | .clu => 2 | .twr => 3 | .pkg => 4 | .dom => 5 | .sys => 6

/-- ord of a load. -/
def ldOrdCode : LdOrd → Nat
  | .plain => 0 | .acq => 1 | .mig => 2 | .ar => 3

/-- ord of a store. -/
def stOrdCode : StOrd → Nat
  | .plain => 0 | .rel => 2 | .ar => 3

/-- ord of an atomic. -/
def amOrdCode : AmOrd → Nat
  | .plain => 0 | .acq => 1 | .rel => 2 | .ar => 3

/-- Integer type codes (06 R108). -/
def intTyCode : IntTy → Nat
  | .i8 => 0 | .i16 => 1 | .i32 => 2 | .i64 => 3 | .n8 => 4 | .n16 => 5 | .n32 => 6 | .n64 => 7
  | .i4 => 8 | .t2 => 9

/-- Float type codes (06 R108). -/
def fltTyCode : FltTy → Nat
  | .f32 => 0 | .f16 => 1 | .bf16 => 2 | .e4m3 => 3 | .e5m2 => 4 | .e2m3 => 5 | .e3m2 => 6
  | .e2m1 => 7 | .e8m0 => 8

/-- The rounding field. -/
def rmCode : RmField → Nat
  | .mode .rne => 0 | .mode .rtz => 1 | .mode .rup => 2 | .mode .rdn => 3 | .mode .rna => 4
  | .mode .sr => 5 | .frm => 7

/-- The source field of a conversion. -/
def cvtSrcCode : CvtSrc → Nat
  | .int t => 2 * intTyCode t
  | .flt t => 2 * fltTyCode t + 1

/-- Condition codes. -/
def condCode : Cond → Nat
  | .eq => 0 | .ne => 1 | .lt => 2 | .ge => 3

/-- Pointer modes. -/
def ptrModeCode : PtrMode → Nat
  | .keep => 0 | .inc => 1 | .setp => 2 | .xch => 3

/-- The selector of MYID. -/
def idSelCode : IdSel → Nat
  | .core => 0 | .cluster => 1 | .strand => 2 | .job => 3 | .device => 4

/-- The gc field of QSTAT: bit 3 selects the send queues. -/
def qSelCode : QSel → Nat
  | .q c => c.val
  | .sq => 8

/-- Control-register numbers (09 R184). -/
def crCode : CrName → Nat
  | .status => 0x000 | .strid => 0x001 | .jobid => 0x002 | .prio => 0x003 | .role => 0x004
  | .frm => 0x005 | .srseed => 0x006 | .fmtbad => 0x007 | .fmta => 0x008 | .fmtb => 0x009
  | .scla => 0x00A | .sclb => 0x00B | .coreid => 0x020 | .cause => 0x021 | .epc => 0x022
  | .faddr => 0x023 | .schedmode => 0x024 | .agewin => 0x025 | .fpctl => 0x026 | .tags => 0x027
  | .usc => 0x028 | .bankcfg => 0x029 | .htbase => 0x02A | .msbase => 0x02B | .mslen => 0x02C
  | .cycle => 0x02D | .stageasn => 0x02E | .tvec => 0x040 | .sscr => 0x041 | .jtbase => 0x042
  | .fatbase => 0x043 | .wvring n => 0x060 + n.val

/-- The mode of CKCHK's operand, in the type field. -/
def ckArgMode : CkArg → Nat
  | .i _ => 0 | .ig _ => 1 | .f _ => 2 | .fg _ => 3

/-- The vb field of CKCHK. -/
def ckArgVb : CkArg → Nat
  | .i c => c.val | .ig g => g.val | .f c => c.val | .fg g => g.val

/-- An SR-form word. -/
def srW (op d a b fn : Nat) : Nat := op * 2 ^ 26 + d * 2 ^ 22 + a * 2 ^ 18 + b * 2 ^ 14 + fn

/-- An SI-form or B-form word. -/
def siW (op d a imm : Nat) : Nat := op * 2 ^ 26 + d * 2 ^ 22 + a * 2 ^ 18 + imm

/-- An M-form word. -/
def mW (op d a sz sgn ord sc la disp : Nat) : Nat :=
  op * 2 ^ 26 + d * 2 ^ 22 + a * 2 ^ 18 + sz * 2 ^ 16 + sgn * 2 ^ 15 + ord * 2 ^ 13 + sc * 2 ^ 10 +
    la * 2 ^ 6 + disp

/-- An AMO-form word. -/
def amoW (d a b fn : Nat) (w : Bool) (ord sc la : Nat) : Nat :=
  0x23 * 2 ^ 26 + d * 2 ^ 22 + a * 2 ^ 18 + b * 2 ^ 14 + fn * 2 ^ 10 + (if w then 2 ^ 9 else 0) + ord * 2 ^ 7 +
    sc * 2 ^ 4 + la

/-- A V-form word. -/
def vW (op d a b k ty fn : Nat) : Nat :=
  op * 2 ^ 26 + d * 2 ^ 21 + a * 2 ^ 16 + b * 2 ^ 11 + k * 2 ^ 8 + ty * 2 ^ 4 + fn

/-- An E-form word. -/
def eW (op sub a b c n la : Nat) : Nat :=
  op * 2 ^ 26 + sub * 2 ^ 21 + a * 2 ^ 17 + b * 2 ^ 13 + c * 2 ^ 9 + n * 2 ^ 4 + la

/-- A CPY word. -/
def cpyW (t d s p sc : Nat) (q r : Bool) : Nat :=
  0x29 * 2 ^ 26 + t * 2 ^ 20 + d * 2 ^ 16 + s * 2 ^ 12 + p * 2 ^ 8 + sc * 2 ^ 5 + (if q then 2 ^ 4 else 0) +
    (if r then 2 ^ 3 else 0)

/-- The word of an instruction, as a number; an event has none. -/
def encodeNat (i : Instr) : Option Nat :=
  match i with
  | .add d a b => some (srW 0x01 d.val a.val b.val 0)
  | .sub d a b => some (srW 0x01 d.val a.val b.val 1)
  | .mul d a b => some (srW 0x01 d.val a.val b.val 2)
  | .mulh d a b => some (srW 0x01 d.val a.val b.val 3)
  | .mulhn d a b => some (srW 0x01 d.val a.val b.val 4)
  | .div d a b => some (srW 0x01 d.val a.val b.val 5)
  | .divn d a b => some (srW 0x01 d.val a.val b.val 6)
  | .rem d a b => some (srW 0x01 d.val a.val b.val 7)
  | .remn d a b => some (srW 0x01 d.val a.val b.val 8)
  | .and d a b => some (srW 0x01 d.val a.val b.val 16)
  | .or d a b => some (srW 0x01 d.val a.val b.val 17)
  | .xor d a b => some (srW 0x01 d.val a.val b.val 18)
  | .andn d a b => some (srW 0x01 d.val a.val b.val 19)
  | .orn d a b => some (srW 0x01 d.val a.val b.val 20)
  | .shl d a b => some (srW 0x01 d.val a.val b.val 24)
  | .shr d a b => some (srW 0x01 d.val a.val b.val 25)
  | .sra d a b => some (srW 0x01 d.val a.val b.val 26)
  | .rot d a b => some (srW 0x01 d.val a.val b.val 27)
  | .min d a b => some (srW 0x01 d.val a.val b.val 32)
  | .max d a b => some (srW 0x01 d.val a.val b.val 33)
  | .minn d a b => some (srW 0x01 d.val a.val b.val 34)
  | .maxn d a b => some (srW 0x01 d.val a.val b.val 35)
  | .slt d a b => some (srW 0x01 d.val a.val b.val 36)
  | .sltn d a b => some (srW 0x01 d.val a.val b.val 37)
  | .seq d a b => some (srW 0x01 d.val a.val b.val 38)
  | .sel d a b => some (srW 0x01 d.val a.val b.val 39)
  | .bfx d a b => some (srW 0x01 d.val a.val b.val 40)
  | .bfi d a b => some (srW 0x01 d.val a.val b.val 41)
  | .clz d a => some (srW 0x01 d.val a.val 0 28)
  | .ctz d a => some (srW 0x01 d.val a.val 0 29)
  | .popc d a => some (srW 0x01 d.val a.val 0 30)
  | .addi d a i => some (siW 2 d.val a.val i.toNat)
  | .andi d a i => some (siW 3 d.val a.val i.toNat)
  | .ori d a i => some (siW 4 d.val a.val i.toNat)
  | .xori d a i => some (siW 5 d.val a.val i.toNat)
  | .slti d a i => some (siW 7 d.val a.val i.toNat)
  | .sltni d a i => some (siW 8 d.val a.val i.toNat)
  | .shli d a n => some (siW 0x06 d.val a.val (0 + n.toNat))
  | .shri d a n => some (siW 0x06 d.val a.val (64 + n.toNat))
  | .srai d a n => some (siW 0x06 d.val a.val (128 + n.toNat))
  | .li d i => some (siW 9 d.val 0 i.toNat)
  | .lis d i => some (siW 10 d.val 0 i.toNat)
  | .addpc d i => some (siW 11 d.val 0 i.toNat)
  | .lea d a i => some (siW 0x0C d.val a.val i.toNat)
  | .mkwin d a i => some (siW 0x0C d.val a.val (0x10000 + i.toNat))
  | .myid d s => some (siW 0x0C d.val 0 (0x20000 + idSelCode s))
  | .beq a b p => some (siW 16 a.val b.val p.toNat)
  | .bne a b p => some (siW 17 a.val b.val p.toNat)
  | .blt a b p => some (siW 18 a.val b.val p.toNat)
  | .bge a b p => some (siW 19 a.val b.val p.toNat)
  | .bltn a b p => some (siW 20 a.val b.val p.toNat)
  | .bgen a b p => some (siW 21 a.val b.val p.toNat)
  | .jmp p => some (0x16 * 2 ^ 26 + p.toNat)
  | .call p => some (0x17 * 2 ^ 26 + p.toNat)
  | .jr a => some (srW 0x18 0 a.val 0 0)
  | .callr a => some (srW 0x18 0 a.val 0 1)
  | .ret => some (srW 0x18 0 0 0 2)
  | .rpt len a sd sa sb => some (0x19 * 2 ^ 26 + len.val * 2 ^ 22 + a.val * 2 ^ 18 + sd.val * 2 ^ 13 + sa.val * 2 ^ 8 + sb.val * 2 ^ 3)
  | .follow => some (eW 0x1A 0 0 0 0 0 0)
  | .unfollow => some (eW 0x1A 1 0 0 0 0 0)
  | .ldbn d a o s l p => some (mW 0x20 d.val a.val 0 0 (ldOrdCode o) (scopeCode s) l.val p.toNat)
  | .ldb d a o s l p => some (mW 0x20 d.val a.val 0 1 (ldOrdCode o) (scopeCode s) l.val p.toNat)
  | .ldhn d a o s l p => some (mW 0x20 d.val a.val 1 0 (ldOrdCode o) (scopeCode s) l.val p.toNat)
  | .ldh d a o s l p => some (mW 0x20 d.val a.val 1 1 (ldOrdCode o) (scopeCode s) l.val p.toNat)
  | .ldwn d a o s l p => some (mW 0x20 d.val a.val 2 0 (ldOrdCode o) (scopeCode s) l.val p.toNat)
  | .ldw d a o s l p => some (mW 0x20 d.val a.val 2 1 (ldOrdCode o) (scopeCode s) l.val p.toNat)
  | .ldd d a o s l p => some (mW 0x20 d.val a.val 3 0 (ldOrdCode o) (scopeCode s) l.val p.toNat)
  | .stb d a o s p => some (mW 0x21 d.val a.val 0 0 (stOrdCode o) (scopeCode s) 0 p.toNat)
  | .sth d a o s p => some (mW 0x21 d.val a.val 1 0 (stOrdCode o) (scopeCode s) 0 p.toNat)
  | .stw d a o s p => some (mW 0x21 d.val a.val 2 0 (stOrdCode o) (scopeCode s) 0 p.toNat)
  | .std d a o s p => some (mW 0x21 d.val a.val 3 0 (stOrdCode o) (scopeCode s) 0 p.toNat)
  | .ldbit a b pm p n l => some (eW 0x22 0 a.val b.val (p.val + 4 * ptrModeCode pm) n.val l.val)
  | .ldbits a b pm p n l => some (eW 0x22 1 a.val b.val (p.val + 4 * ptrModeCode pm) n.val l.val)
  | .stbit a b pm p n => some (eW 0x22 2 a.val b.val (p.val + 4 * ptrModeCode pm) n.val 0)
  | .amoadd d a b w o s l => some (amoW d.val a.val b.val 0 w (amOrdCode o) (scopeCode s) l.val)
  | .amoand d a b w o s l => some (amoW d.val a.val b.val 1 w (amOrdCode o) (scopeCode s) l.val)
  | .amoor d a b w o s l => some (amoW d.val a.val b.val 2 w (amOrdCode o) (scopeCode s) l.val)
  | .amoxor d a b w o s l => some (amoW d.val a.val b.val 3 w (amOrdCode o) (scopeCode s) l.val)
  | .amomin d a b w o s l => some (amoW d.val a.val b.val 4 w (amOrdCode o) (scopeCode s) l.val)
  | .amomax d a b w o s l => some (amoW d.val a.val b.val 5 w (amOrdCode o) (scopeCode s) l.val)
  | .amominn d a b w o s l => some (amoW d.val a.val b.val 6 w (amOrdCode o) (scopeCode s) l.val)
  | .amomaxn d a b w o s l => some (amoW d.val a.val b.val 7 w (amOrdCode o) (scopeCode s) l.val)
  | .amoswp d a b w o s l => some (amoW d.val a.val b.val 8 w (amOrdCode o) (scopeCode s) l.val)
  | .amocas d a b w o s l => some (amoW d.val a.val b.val 9 w (amOrdCode o) (scopeCode s) l.val)
  | .amofadd d a b o s l => some (amoW d.val a.val b.val 10 false (amOrdCode o) (scopeCode s) l.val)
  | .fenceAcq s => some (mW 0x24 0 0 0 0 1 (scopeCode s) 0 0)
  | .fenceRel s => some (mW 0x24 0 0 0 0 2 (scopeCode s) 0 0)
  | .fenceAr s => some (mW 0x24 0 0 0 0 3 (scopeCode s) 0 0)
  | .fenceSc => some (mW 0x24 0 0 0 0 0 6 0 0)
  | .pref a w s p => some (mW 0x24 0 a.val 1 (if w then 1 else 0) 0 (scopeCode s) 0 p.toNat)
  | .flush d a s => some (mW 0x24 d.val a.val 2 0 0 (scopeCode s) 0 0)
  | .binit a n => some (eW 0x28 0 a.val 0 0 n.val 0)
  | .barr a n => some (eW 0x28 1 a.val 0 0 n.val 0)
  | .bwait a b n l => some (eW 0x28 2 a.val b.val 0 n.val l.val)
  | .baw a n l => some (eW 0x28 3 a.val 0 0 n.val l.val)
  | .bstat a n l => some (eW 0x28 4 a.val 0 0 n.val l.val)
  | .breset n => some (eW 0x28 5 0 0 0 n.val 0)
  | .tagwany a b l => some (eW 0x2A 0 a.val b.val 0 0 l.val)
  | .tagwall b => some (eW 0x2A 1 0 b.val 0 0 0)
  | .tagff a b l => some (eW 0x2A 2 a.val b.val 0 0 l.val)
  | .tagclr b => some (eW 0x2A 3 0 b.val 0 0 0)
  | .rginit a => some (eW 0x2A 4 a.val 0 0 0 0)
  | .rgfill a b q r c => some (eW 0x2A 5 a.val b.val 0 ((if q then 1 else 0) + (if r then 2 else 0) + 4 * scopeCode c) 0)
  | .rgawait a b n l => some (eW 0x2A 6 a.val b.val 0 n.val l.val)
  | .rgrel a => some (eW 0x2A 7 a.val 0 0 0 0)
  | .bankset b => some (eW 0x2A 8 0 b.val 0 0 0)
  | .qbindFifo a c => some (eW 0x2B 0 a.val 0 c.val 0 0)
  | .qbindStream a b c => some (eW 0x2B 0 a.val b.val c.val 1 0)
  | .qbindMa c => some (eW 0x2B 0 0 0 c.val 2 0)
  | .qbindMb c => some (eW 0x2B 0 0 0 c.val 3 0)
  | .qbindMout c => some (eW 0x2B 0 0 0 c.val 4 0)
  | .qbindMbox a c => some (eW 0x2B 0 a.val 0 c.val 5 0)
  | .qpush b c => some (eW 0x2B 1 0 b.val c.val 0 0)
  | .qpop a c l => some (eW 0x2B 2 a.val 0 c.val 0 l.val)
  | .vqpush c n => some (eW 0x2B 3 0 0 c.val n.val 0)
  | .vqpop c n => some (eW 0x2B 4 0 0 c.val n.val 0)
  | .qstat a c => some (eW 0x2B 5 a.val 0 (qSelCode c) 0 0)
  | .qfree c => some (eW 0x2B 6 0 0 c.val 0 0)
  | .mload a b => some (eW 0x38 0 a.val b.val 0 0 0)
  | .mloadQ b => some (eW 0x38 0 0 b.val 0 1 0)
  | .mtile a b c n => some (eW 0x38 1 a.val b.val c.val n.val 0)
  | .mcancel => some (eW 0x38 2 0 0 0 0 0)
  | .mstat a l => some (eW 0x38 3 a.val 0 0 0 l.val)
  | .rowgetF b n => some (eW 0x38 4 0 b.val 0 n.val 0)
  | .rowgetS b n => some (eW 0x38 4 0 b.val 1 n.val 0)
  | .rowpass => some (eW 0x38 5 0 0 0 0 0)
  | .warm a b l => some (eW 0x39 0 a.val b.val 0 0 l.val)
  | .wadd a b c n l => some (eW 0x39 1 a.val b.val c.val n.val l.val)
  | .wstat a b l => some (eW 0x39 2 a.val b.val 0 0 l.val)
  | .wwait b => some (eW 0x39 3 0 b.val 0 0 0)
  | .wreadF a b n l => some (eW 0x39 4 a.val b.val 0 n.val l.val)
  | .wreadI a b n l => some (eW 0x39 4 a.val b.val 1 n.val l.val)
  | .wdrop a b l => some (eW 0x39 5 a.val b.val 0 0 l.val)
  | .wfree a b l => some (eW 0x39 6 a.val b.val 0 0 l.val)
  | .ttsub a b l => some (eW 0x3A 0 a.val b.val 0 0 l.val)
  | .ttstat a b l => some (eW 0x3A 1 a.val b.val 0 0 l.val)
  | .send b => some (eW 0x3A 2 0 b.val 0 0 0)
  | .reply b => some (eW 0x3A 3 0 b.val 0 0 0)
  | .spawn a b c l => some (eW 0x3B 0 a.val b.val c.val 0 l.val)
  | .exit => some (eW 0x3B 1 0 0 0 0 0)
  | .yield => some (eW 0x3B 2 0 0 0 0 0)
  | .park => some (eW 0x3B 3 0 0 0 0 0)
  | .wake b c => some (eW 0x3B 4 0 b.val c.val 0 0)
  | .migrate b => some (eW 0x3B 5 0 b.val 0 0 0)
  | .monarm b => some (eW 0x3B 6 0 b.val 0 0 0)
  | .monwait => some (eW 0x3B 7 0 0 0 0 0)
  | .prio b => some (eW 0x3B 8 0 b.val 0 0 0)
  | .role b => some (eW 0x3B 9 0 b.val 0 0 0)
  | .cntarm b c => some (eW 0x3B 10 0 b.val c.val 0 0)
  | .launch a b l => some (eW 0x3C 0 a.val b.val 0 0 l.val)
  | .join a b l => some (eW 0x3C 1 a.val b.val 0 0 l.val)
  | .cancel b => some (eW 0x3C 2 0 b.val 0 0 0)
  | .cntstat a b l => some (eW 0x3C 3 a.val b.val 0 0 l.val)
  | .phaseend b => some (eW 0x3C 4 0 b.val 0 0 0)
  | .ctlr a c l => some (eW 0x3E 0 a.val 0 (crCode c / 32) (crCode c % 32) l.val)
  | .ctlw b c => some (eW 0x3E 1 0 b.val (crCode c / 32) (crCode c % 32) 0)
  | .ctlx a b c l => some (eW 0x3E 2 a.val b.val (crCode c / 32) (crCode c % 32) l.val)
  | .trap n => some (eW 0x3E 3 0 0 0 n.val 0)
  | .eret => some (eW 0x3E 4 0 0 0 0 0)
  | .halt => some (eW 0x3E 5 0 0 0 0 0)
  | .xlinv b c => some (eW 0x3E 6 0 b.val c.val 0 0)
  | .attrset b c => some (eW 0x3E 7 0 b.val c.val 0 0)
  | .sealPage b => some (eW 0x3E 8 0 b.val 0 0 0)
  | .msdecl a b c l => some (eW 0x3E 9 a.val b.val c.val 0 l.val)
  | .msdone => some (eW 0x3E 10 0 0 0 0 0)
  | .jrnl a b l => some (eW 0x3E 11 a.val b.val 0 0 l.val)
  | .wingrant a b l => some (eW 0x3E 12 a.val b.val 0 0 l.val)
  | .winrev b => some (eW 0x3E 13 0 b.val 0 0 0)
  | .cpy t d s p c q r => some (cpyW t.val d.val s.val p.val (scopeCode c) q r)
  | .vadd d a b k t => some (vW 0x30 d.val a.val b.val k.val (intTyCode t) 0)
  | .vsub d a b k t => some (vW 0x30 d.val a.val b.val k.val (intTyCode t) 1)
  | .vmul d a b k t => some (vW 0x30 d.val a.val b.val k.val (intTyCode t) 2)
  | .vmulh d a b k t => some (vW 0x30 d.val a.val b.val k.val (intTyCode t) 3)
  | .vmin d a b k t => some (vW 0x30 d.val a.val b.val k.val (intTyCode t) 4)
  | .vmax d a b k t => some (vW 0x30 d.val a.val b.val k.val (intTyCode t) 5)
  | .vand d a b k t => some (vW 0x30 d.val a.val b.val k.val (intTyCode t) 6)
  | .vor d a b k t => some (vW 0x30 d.val a.val b.val k.val (intTyCode t) 7)
  | .vxor d a b k t => some (vW 0x30 d.val a.val b.val k.val (intTyCode t) 8)
  | .vshl d a b k t => some (vW 0x30 d.val a.val b.val k.val (intTyCode t) 9)
  | .vshr d a b k t => some (vW 0x30 d.val a.val b.val k.val (intTyCode t) 10)
  | .vsra d a b k t => some (vW 0x30 d.val a.val b.val k.val (intTyCode t) 11)
  | .vabs d a k t => some (vW 0x30 d.val a.val 0 k.val (intTyCode t) 12)
  | .vneg d a k t => some (vW 0x30 d.val a.val 0 k.val (intTyCode t) 13)
  | .vcmp c q a b k t => some (vW 0x30 (8 * condCode c + q.val) a.val b.val k.val (intTyCode t) 14)
  | .vsel d a b k t => some (vW 0x30 d.val a.val b.val k.val (intTyCode t) 15)
  | .vfadd d a b k t => some (vW 0x31 d.val a.val b.val k.val (fltTyCode t) 0)
  | .vfsub d a b k t => some (vW 0x31 d.val a.val b.val k.val (fltTyCode t) 1)
  | .vfmul d a b k t => some (vW 0x31 d.val a.val b.val k.val (fltTyCode t) 2)
  | .vfma d a b k t => some (vW 0x31 d.val a.val b.val k.val (fltTyCode t) 3)
  | .vfms d a b k t => some (vW 0x31 d.val a.val b.val k.val (fltTyCode t) 4)
  | .vfmin d a b k t => some (vW 0x31 d.val a.val b.val k.val (fltTyCode t) 5)
  | .vfmax d a b k t => some (vW 0x31 d.val a.val b.val k.val (fltTyCode t) 6)
  | .vfabs d a k t => some (vW 0x31 d.val a.val 0 k.val (fltTyCode t) 7)
  | .vrcp d a k t => some (vW 0x31 d.val a.val 0 k.val (fltTyCode t) 8)
  | .vrsq d a k t => some (vW 0x31 d.val a.val 0 k.val (fltTyCode t) 9)
  | .vexp2 d a k t => some (vW 0x31 d.val a.val 0 k.val (fltTyCode t) 10)
  | .vlog2 d a k t => some (vW 0x31 d.val a.val 0 k.val (fltTyCode t) 11)
  | .vfcmp c q a b k t => some (vW 0x31 (8 * condCode c + q.val) a.val b.val k.val (fltTyCode t) 12)
  | .vbcast d a k t => some (vW 0x32 d.val a.val 0 k.val (intTyCode t) 0)
  | .vext d a b t => some (vW 0x32 d.val a.val b.val 0 (intTyCode t) 1)
  | .vins d a b k t => some (vW 0x32 d.val a.val b.val k.val (intTyCode t) 2)
  | .vperm d a b k t => some (vW 0x32 d.val a.val b.val k.val (intTyCode t) 3)
  | .vslide d a b k t => some (vW 0x32 d.val a.val b.val k.val (intTyCode t) 4)
  | .vredadd d a k t => some (vW 0x32 d.val a.val 0 k.val (intTyCode t) 5)
  | .vredfadd d a k t => some (vW 0x32 d.val a.val 0 k.val (fltTyCode t) 6)
  | .vredmax d a k t => some (vW 0x32 d.val a.val 0 k.val (intTyCode t) 7)
  | .vredfmax d a k t => some (vW 0x32 d.val a.val 0 k.val (fltTyCode t) 8)
  | .vcvtInt d a s r t => some (vW 0x32 d.val a.val (cvtSrcCode s) (rmCode r) (intTyCode t) 9)
  | .vcvtFloat d a s r t => some (vW 0x32 d.val a.val (cvtSrcCode s) (rmCode r) (fltTyCode t) 10)
  | .vqmx d a r t => some (vW 0x32 d.val a.val 0 (rmCode r) (fltTyCode t) 11)
  | .vdqmx d a t => some (vW 0x32 d.val a.val 0 0 (fltTyCode t) 12)
  | .vpack d a b k t => some (vW 0x32 d.val a.val b.val k.val (intTyCode t) 13)
  | .vunpack d a h k t => some (vW 0x32 d.val a.val (if h then 1 else 0) k.val (intTyCode t) 14)
  | .kand d a b => some (vW 0x32 d.val a.val b.val 0 0 15)
  | .kor d a b => some (vW 0x32 d.val a.val b.val 0 1 15)
  | .knot d a => some (vW 0x32 d.val a.val 0 0 2 15)
  | .kmov d a => some (vW 0x32 d.val a.val 0 0 3 15)
  | .kpopc d a => some (vW 0x32 d.val a.val 0 0 4 15)
  | .vld d a k t => some (vW 0x33 d.val a.val 0 k.val (intTyCode t) 0)
  | .vst d a k t => some (vW 0x33 d.val a.val 0 k.val (intTyCode t) 1)
  | .vlds d a b k t => some (vW 0x33 d.val a.val b.val k.val (intTyCode t) 2)
  | .vsts d a b k t => some (vW 0x33 d.val a.val b.val k.val (intTyCode t) 3)
  | .vgath d a b k t => some (vW 0x33 d.val a.val b.val k.val (intTyCode t) 4)
  | .vscat d a b k t => some (vW 0x33 d.val a.val b.val k.val (intTyCode t) 5)
  | .vldbit d i p e k t => some (vW 0x33 d.val (p.val + (if i then 4 else 0)) e.val k.val (intTyCode t) 6)
  | .vstbit d i p e k t => some (vW 0x33 d.val (p.val + (if i then 4 else 0)) e.val k.val (intTyCode t) 7)
  | .ckclr c => some (vW 0x34 c.val 0 0 0 0 0)
  | .cka c a k t => some (vW 0x34 c.val a.val 0 k.val (intTyCode t) 1)
  | .ckaf c a k t => some (vW 0x34 c.val a.val 0 k.val (fltTyCode t) 2)
  | .ckchk g a b => some (vW 0x34 g.val a.val (ckArgVb b) 0 (ckArgMode b) 3)
  | .vlease => some (vW 0x35 0 0 0 0 0 0)
  | .vfree => some (vW 0x35 0 0 0 0 0 1)
  | .jobnew .. | .hoodset .. | .mapCmd .. | .attrCmd .. | .loadCmd .. | .readCmd ..
  | .launchCmd .. | .hwgrant .. | .hwrevoke .. | .sealCmd .. | .cntreadCounter ..
  | .cntreadRestartSummary .. | .cntreadPort .. | .cntreadCore .. | .cntreadCorrections ..
  | .logctlQuery .. | .logctlReplay .. | .attest .. | .collset .. | .jobend .. | .cregset ..
  | .badcmd .. | .packetReceive .. | .linkRetry .. | .peerAccess .. | .grantNotice ..
  | .wingrantAck .. | .revocationNotice .. | .winrevComplete .. | .translation .. | .homeAccess ..
  | .bankAccess .. | .packageWindowAtomic .. | .accessReply .. | .storeAck ..
  | .postedStoreRefusal .. | .moved .. | .asyncTrap .. | .copyComplete .. | .copyFault ..
  | .edgeRefusal .. | .edgeResend .. | .streamReadahead .. | .bankModeChangeComplete ..
  | .flushComplete .. | .sealComplete .. | .xlinvComplete .. | .attrsetComplete ..
  | .mloadComplete .. | .mloadRefused .. | .rowEntry .. | .rowHandlerStart ..
  | .tileOperationComplete .. | .tileOperationFault .. | .tileSchedulerIssue ..
  | .barrierArrival .. | .errorArrival .. | .warmArrival .. | .waddArrival .. | .wstatArrival ..
  | .wreadArrival .. | .wdropArrival .. | .wfreeArrival .. | .waleAddDone .. | .dequePop ..
  | .dequePush .. | .dequeRefill .. | .mailboxArrival .. | .messageHandlerStart .. | .steal ..
  | .stealAnswer .. | .grant .. | .empty .. | .remoteSteal .. | .stealBackoffExpiry ..
  | .stageRingTake .. | .weaverSample .. | .counterSample .. | .completionCounterEvent ..
  | .launchEntryPlacement .. | .migrationSend .. | .migrationArrival .. | .migrationAccept ..
  | .migrationRefuse .. | .wakeArrival .. | .followerDetach .. | .followTimeout ..
  | .preemptionStart .. | .preemptionStream .. | .preemptionResume .. | .forward ..
  | .uncorrectableError .. | .hoodReset .. | .hoodResetEnd .. | .refresh .. | .goWord ..
  | .collectiveContribution .. | .lossNotice .. | .collectiveTimeout .. | .millinerSample ..
  | .clockChange .. | .droop .. | .droopRecovery .. | .firmwareStage .. | .boot ..
  | .supplyLoss .. | .phaseAEnd | .phaseB .. | .illegalInstruction .. | .fetchFault ..
  | .recordDeparture .. | .peerXlinv .. => none

/-- The word of an instruction. -/
def encode (i : Instr) : Option (BitVec 32) := (encodeNat i).map (BitVec.ofNat 32)

end Sys2Proof
end

