-- ==== Sys2Proof/Config.lean ====
section
/-!
DEFINITION. What an implementation fixes and the manual leaves open. Every opaque constant here is a free
value: nothing in Lean evaluates it, so a statement about it holds whatever it is (notes/assumptions 6, 8, 15, 18).
-/

namespace Sys2Proof

/-- The n-th free word: a value the manual does not state (data returned by hosts and peers, the queue
address that a QUOTA trap reports). The step reads State.free and advances it. Log entry 6. -/
opaque Config.freeValue : Nat → Word

/-- What a device or a host answers to the n-th access that needs an answer: none for data, or the cause it refuses
with. Log entry 6. -/
opaque Config.outsideRefuses : Nat → Option (BitVec 8)

/-- The way chosen as victim at the n-th L1 fill of a full set: 04 R77 leaves the choice to the part. Log entry 8. -/
opaque Config.l1Victim : Nat → Nat

/-- The ECDSA P-256 signature r, s (64 bytes) that the device identity key makes over a digest: the key
never leaves the part (17 R307). Log entry 15. -/
opaque Config.identitySign : List Byte → List Byte

/-- The DER certificate of the device identity key (17 R307). Log entry 15. -/
opaque Config.identityCert : List Byte

/-- Whether a signature over a digest verifies under Thrumron's firmware key (17 R305). Log entry 15. -/
opaque Config.firmwareVerifies : List Byte → List Byte → Bool

/-- The n-th core of a hood asked first by a thief that has tried none: 03 R54 does not say where it starts. Log entry 18. -/
opaque Config.firstVictim : Nat → Nat

end Sys2Proof
end

