-- ==== Sys2Proof/Machine/Bits.lean ====
section
/-!
DEFINITION. Fields of words, byte order, and the helper functions of the pseudocode (00 R1, R2, R9).
-/

namespace Sys2Proof.Machine

/-- The `len` bits of `w` from bit `lo` up, as a number (00 R2). -/
def bits {n : Nat} (w : BitVec n) (lo len : Nat) : Nat := w.toNat / 2 ^ lo % 2 ^ len

/-- Bit `i` of a word. -/
def bit {n : Nat} (w : BitVec n) (i : Nat) : Bool := bits w i 1 = 1

/-- A Bool as one bit. -/
def ofB (b : Bool) : Nat := if b then 1 else 0

/-- A number as a word. -/
def word (n : Nat) : Word := BitVec.ofNat 64 n

/-- SignExtend(x, n) (00 R9). -/
def sext (x n : Nat) : Word := (BitVec.ofNat n x).signExtend 64

/-- The two's-complement reading of the low `n` bits of `x`. -/
def sint (x n : Nat) : Int := (BitVec.ofNat n x).toInt

/-- An integer as `n` bits of two's complement. -/
def wrap (n : Nat) (x : Int) : Nat := (BitVec.ofInt n x).toNat

/-- The number that bytes hold, least significant first (00 R1). -/
def leNat : List Byte → Nat
  | [] => 0
  | b :: bs => b.toNat + 256 * leNat bs

/-- The low `n` bytes of a number, least significant first (00 R1). -/
def leBytes : Nat → Nat → List Byte
  | 0, _ => []
  | n + 1, x => BitVec.ofNat 8 x :: leBytes n (x / 256)

/-- `⌈a / b⌉`. -/
def ceilDiv (a b : Nat) : Nat := (a + b - 1) / b

/-- The numbers from `lo` up, `n` of them. -/
def upFrom (lo n : Nat) : List Nat := (List.range n).map (lo + ·)

/-- The first of a list that passes a test. -/
def firstSome {α β : Type} (f : α → Option β) : List α → Option β
  | [] => none
  | a :: as => match f a with
    | some b => some b
    | none => firstSome f as

/-- The lowest number below `n` that passes a test. -/
def lowest (n : Nat) (p : Nat → Bool) : Option Nat := (List.range n).find? p

/-- Cut a list into pieces of `n` (the fuel bounds how many). -/
def chunks {α : Type} (n : Nat) : Nat → List α → List (List α)
  | 0, _ => []
  | fuel + 1, l => if l = [] ∨ n = 0 then [] else l.take n :: chunks n fuel (l.drop n)

/-- The list with position `i` replaced. -/
def setAt {α : Type} (l : List α) (i : Nat) (a : α) : List α := l.set i a

end Sys2Proof.Machine
end

