-- ==== Sys2Proof/Machine/State.lean ====
section
/-!
DEFINITION. The state of the part as plain data: what 02 R22, 03, 04, 07, 09 R184, 10, 12, 16 to 18 and 20 to 23
give it, and the state after reset. Tables are sparse (Word.lean, Tab): a key that is not listed holds the
default its reader names.
-/

namespace Sys2Proof.Machine

/-- Bytes by address: addresses strictly rising, and no entry equal to what an unlisted address reads as. -/
abbrev Memory := List Host.Cell

/-- What a byte that no entry lists reads as: local banks are zero at reset (22 R382), DRAM and the save store
are given no content (log entry 1, DESIGN CHOICE). -/
def Memory.unlisted : Byte := 0

/-- The canonical form of a memory, as a check. -/
def Memory.wf : Memory → Bool
  | [] => true
  | [(_, b)] => b ≠ Memory.unlisted
  | (a, b) :: (a', b') :: m => b ≠ Memory.unlisted && a < a' && Memory.wf ((a', b') :: m)

/-- Why a step stops. -/
inductive Fault
  /-- Raised by a turn of the agenda that is ill formed or names an agent the part does not have: nothing of the
  part behaves so, the model stops where no part would be. Safe. -/
  | badTurn
  deriving DecidableEq, Repr

/-- Why an instruction has no meaning. -/
inductive Refusal
  /-- Raised by an arm of exec whose instruction is not modelled yet. Safe: nothing is claimed of it. -/
  | notModelled (mnemonic : String)
  deriving DecidableEq, Repr

/-- Page types, codes 00 SC, 01 RC, 10 WO, 11 IP (04 R69, R78). -/
inductive PageTy | sc | rc | wo | ip
  deriving DecidableEq, Repr

/-- A task or message record: the header and A1 to A7 (02 R31). After them may stand a word of the model's own, which no
program sees: the code of the widest scope of the fences with release that its sender had executed (05 R98). -/
abbrev Rec := List Word

/-- An entry of a deque: a record, or a launch entry over the indices [lo, hi) of one launch (03 R53), which keeps
the header of its records and what their arguments are made from (12 R258), and the word that Rec describes after the four
shared ones. -/
inductive DqEnt
  | one (r : Rec)
  | range (hdr : Word) (lo hi count : Nat) (abase astride : Word) (shared : List Word)
  deriving DecidableEq, Repr

/-- The registers of a strand that an instruction of a lookahead window may write, and that a late precise fault
restores (08 R155): g0 to g15, the vector set, the bit pointers, FMTBAD and SRSEED. -/
structure Regs where
  g      : Tab Word
  v      : Tab VWord
  k      : Tab KWord
  c      : Tab Word
  bp     : Tab (BitVec 22)
  fmtbad : Bool
  srseed : Word
  deriving DecidableEq, Repr

/-- All zero (02 R34; vector state 02 R25). -/
def Regs.zero : Regs := ⟨[], [], [], [], [], false, 0⟩

/-- What a strand that waits for an engine or another agent waits for; it is resumed by that agent's event. A
strand that waits for a resource is `blocked` instead and tries its instruction again (02 R24). -/
inductive Wait
  /-- A store whose first translation has not succeeded, or an access that must return first: the access. -/
  | access (id : Nat)
  | flush (lo hi : Nat) (phys : Bool) (sc : Scope)
  | xlinv (job : BitVec 16) (lo hi : Nat)
  | attrset (fatbase : Word) (frame : Nat) (ty : PageTy)
  | sealing (va : Word) (pte lo hi : Nat)
  | wingrant (idx : Nat) (d : GReg) (l : La)
  | winrev (idx : Nat)
  | wale (id : Nat)
  /-- A change of bank modes, held in the core's `bankq` (10 R211). -/
  | bankset
  /-- A precise trap held by the handler of another strand of the core (18 R310). -/
  | trapHold
  deriving DecidableEq, Repr

/-- What a PARKED strand waits for, with what its instruction writes when it is woken (03 R49). -/
inductive Park
  | park
  | mon
  | wale (handle : Word)
  | bar (n : BarNo) (phase : BitVec 16) (d : GReg) (l : La)
  /-- The unit joined; a phase by its number. -/
  | join (lv : Level) (n : Nat) (d : GReg) (l : La)
  | lease
  /-- A translation fault: the physical address of the entry that does not translate. -/
  | xlate (entry : Nat)
  deriving DecidableEq, Repr

/-- The states of a strand slot (02 R24). `blocked` tries its instruction again; `stopped` is a strand halted by
HALT (12 R261), a fence, a pre-emption or the brim sequence. -/
inductive SlotSt
  | free | ready | blocked | waiting (w : Wait) | parked (p : Park) | moving (dst : Nat) | stopped
  deriving DecidableEq, Repr

/-- STATUS.FL and the wait of a follower (09 R179, R185): `waitLead` has executed FOLLOW and waits for a lead; `owes` is a
follower that has been woken at an instruction which its lead has executed, and executes it before it follows on. -/
inductive Fol | none | lead | waitLead | follower | owes
  deriving DecidableEq, Repr

/-- What an outstanding instruction was when a later access issued: its access, its destination and result, and what was
left of its window. -/
structure Win where
  acc  : Option Nat
  dst  : Option GReg
  val  : Option Word
  left : Nat
  deriving DecidableEq, Repr

/-- An instruction of the strand that has issued and is not complete: a late writer whose window is open (08 R154),
or a memory access not yet known not to fault (08 R155). `full` marks a store with ord 11, after which no
access of the strand issues until it is acknowledged (08 R153). `snap` and `prior` are the registers and the
outstanding instructions as it found them, which its late fault restores. -/
structure Out where
  acc   : Option Nat
  pc    : Word
  dst   : Option GReg
  val   : Option Word
  left  : Nat
  snap  : Regs
  prior : List Win
  full  : Bool
  fault : Option (BitVec 8 × Word)
  deriving DecidableEq, Repr

/-- A trap to be taken: CODE, ASYNC, JENT, RING and ROFF (09 R186), FADDR, and for an asynchronous trap of origin
10 the copy whose tag is set when it is taken (10 R207). -/
structure TrapInfo where
  code  : BitVec 8
  jent  : BitVec 6
  ring  : Option (BitVec 14)
  faddr : Word
  copy  : Option Nat
  deriving DecidableEq, Repr

/-- The replay that holds the core's sequencer buffer (08 R157, R158). -/
structure Replay where
  slot  : Nat
  body  : List (BitVec 32)
  count : Nat
  i     : Nat
  j     : Nat
  sd    : Nat
  sa    : Nat
  sb    : Nat
  deriving DecidableEq, Repr

/-- A strand slot with its strand (02 R22 to R24, 18 R317). -/
structure Strand where
  st     : SlotSt
  regs   : Regs
  pc     : Word
  sup    : Bool
  intrap : Bool
  vl     : Bool
  fl     : Fol
  job    : BitVec 16
  strid  : BitVec 32
  frm    : Rm
  prio   : BitVec 2
  role   : BitVec 2
  fmta   : BitVec 5
  fmtb   : BitVec 5
  scla   : BitVec 19
  sclb   : BitVec 19
  lid    : BitVec 12
  wtok   : Bool
  outs   : List Out
  /-- A FENCE.REL of this scope whose stores are not all acknowledged: later stores, atomics, records and copies wait
  for them, later loads do not (05 R93). -/
  rel    : Option Scope
  /-- The widest scope of the fences with release that it has executed (05 R98). -/
  fence  : Option Scope
  /-- The monitor armed by MONARM: its line's physical address, and whether the line has been written since. -/
  mon    : Option (Nat × Bool)
  /-- Asynchronous traps raised and not taken (18 R312). -/
  traps  : List TrapInfo
  /-- A precise trap held (18 R310), with its EPC. -/
  held   : Option (TrapInfo × Word)
  /-- The FROM of the record a message strand handles, kept for REPLY (12 R254). -/
  sender : Option (BitVec 9)
  /-- The row that a row-handler strand holds (07 R133). -/
  row    : Option Nat
  /-- Cycles since it issued or became READY (03 R48). -/
  age    : Nat
  yields : Bool
  /-- The destination has refused the migration that the hint of the load at pc asked for (02 R28). -/
  nohint : Bool
  /-- Whether it runs the PFAIL handler (23 R393). -/
  pfail  : Bool
  /-- What is left of a replay of its lead that it was detached from: it goes on with it once its core's sequencer buffer
  is free (03 R63, 08 R158). -/
  rest   : Option Replay
  deriving DecidableEq, Repr

/-- A slot that holds no strand. -/
def Strand.empty : Strand :=
  { st := .free, regs := .zero, pc := 0, sup := false, intrap := false, vl := false, fl := .none, job := 0,
    strid := 0, frm := .rne, prio := 3, role := 0, fmta := 0, fmtb := 0, scla := 0, sclb := 0, lid := 0,
    wtok := false, outs := [], rel := none, fence := none, mon := none, traps := [], held := none, sender := none, row := none, age := 0,
    yields := false, nohint := false, pfail := false, rest := none }

/-- Bank modes (04 R75). -/
inductive BankMode | scratch | cache | fifo
  deriving DecidableEq, Repr

/-- One aligned part of a posted store or of a vector access: where it goes and what it writes. `pa` is the
physical address of a WO store, whose translation carries `tag` (20 R350) and showed the page sealed or not. -/
structure Lane where
  addr : Word
  pa   : Option Nat
  tag  : Nat
  shut : Bool
  n    : Nat
  v    : Nat
  deriving DecidableEq, Repr

/-- JTBASE and FATBASE as an operation found them when it issued: a later write changes them for no operation that has
already issued (09 R183). -/
structure Bases where
  jt  : Word
  fat : Word
  deriving DecidableEq, Repr

/-- A journal entry (18 R314, R315) with the store it holds. `taken` is set once the trap of a failed entry has
been taken or discarded, and the entry may be used again. -/
structure JEnt where
  v     : Bool
  fail  : Bool
  cause : BitVec 6
  sz    : BitVec 2
  slot  : Nat
  pc    : Word
  taken : Bool
  job   : BitVec 16
  bases : Bases
  lanes : List Lane
  /-- Its place among the stores of its strand. -/
  seq   : Nat
  deriving DecidableEq, Repr

/-- A free journal entry. -/
def JEnt.empty : JEnt :=
  { v := false, fail := false, cause := 0, sz := 0, slot := 0, pc := 0, taken := true, job := 0,
    bases := ⟨0, 0⟩, lanes := [],
    seq := 0 }

/-- A line of the L1 (04 R77): tagged with its virtual line address and JOBID, held in one bank's ways, with the
frame it was filled from (20 R347), whether its leaf lets it be read (04 R72), its last writer's job (22 R377), dirty
bytes (IP), poisoned words, and those found uncorrectable in the L1 (R377). -/
structure Line where
  va    : Nat
  job   : BitVec 16
  bank  : Nat
  frame : Nat
  ty    : PageTy
  ver   : BitVec 16
  rd    : Bool
  data  : List Byte
  dirty : BitVec 128
  pois  : BitVec 16
  ue    : BitVec 16
  writer : BitVec 16
  deriving DecidableEq, Repr

/-- A barrier (10 R201), with the slots whose arrivals its current phase counts (R203). -/
structure Bar where
  count   : BitVec 16
  phase   : BitVec 16
  arrived : Nat
  err     : Bool
  fault   : BitVec 8
  who     : List Nat
  deriving DecidableEq, Repr

/-- An uninitialised barrier (10 R201). -/
def Bar.empty : Bar := { count := 0, phase := 0, arrived := 0, err := false, fault := 0, who := [] }

/-- A copy's pattern (10 R205): bytes per element, and count, source stride and destination stride of each
dimension, innermost first. -/
structure Pattern where
  esize : Nat
  dims  : List (Nat × Int × Int)
  deriving DecidableEq, Repr

/-- A copy command held by the copy unit (10 R206, R207, R210). `ring` is the byte offset of the ring object and
the slot index it fills; `hint` is the back-off of a refused edge request (04 R87); `fault` holds the fault
that stopped it, until its trap is taken. -/
structure Copy where
  id    : Nat
  slot  : Nat
  strid : BitVec 32
  job   : BitVec 16
  sup   : Bool
  bases : Bases
  tag   : Fin 64
  ring  : Option (Nat × Nat)
  dst   : Word
  src   : Word
  pat   : Pattern
  scope : Scope
  acq   : Bool
  rel   : Bool
  edge  : Option (Fin 4)
  hint  : Option Nat
  done  : Nat
  /-- Its strand was cancelled: its tag is cleared when it completes (02 R41). -/
  orphan : Bool
  /-- Whether an element has been written into each bank of the package, as core·16 + bank (20 R354). -/
  banks : List Nat
  fault : Option TrapInfo
  /-- A ring copy whose writes are done (or whose trap has been taken) and that waits for WR to pass its slot. -/
  complete : Bool
  deriving DecidableEq, Repr

/-- An element that a stream has read ahead: its bytes, or the trap that its pop raises (20 R344). -/
inductive Ahead
  | bytes (b : List Byte)
  | fault (code : BitVec 8) (addr : Word)
  deriving DecidableEq, Repr

/-- What a queue register is bound to (10 R212). A stream keeps what is read ahead, bytes of its elements or the
fault its pop raises, how many bytes it has read, and its style of popping (`true` for VQPOP). A mailbox
binding keeps the words of the diverted records. -/
inductive QKind
  | fifo (bank : Fin 16)
  | stream (src : Word) (pat : Pattern) (sup : Bool) (bases : Bases) (ahead : List Ahead)
      (read : Nat) (style : Option Bool)
  | ma | mb | mout
  | mbox (h : BitVec 12) (words : List Word)
  deriving DecidableEq, Repr

/-- A binding and the slot of the strand that made it (10 R213); a slot number that no strand has (noSlot) where that
strand has ended while the unit uses the matrix port: the binding goes when the unit is done (R217). -/
structure QBind where
  slot : Nat
  kind : QKind
  deriving DecidableEq, Repr

/-- The resident-B state (07 R127) with the cells (R126): row k of B holds its NOUT values. -/
structure Resident where
  tag   : BitVec 32
  geom  : BitVec 2
  k     : Nat
  nout  : Nat
  fmtb  : BitVec 8
  flag  : Bool
  cells : List (List Int)
  deriving DecidableEq, Repr

/-- An MLOAD in progress (12 R241): the source address, or `none` for the matrix B input port. -/
structure Load where
  src  : Option Word
  tag  : BitVec 32
  geom : BitVec 2
  k    : Nat
  nout : Nat
  fmtb : BitVec 8
  job  : BitVec 16
  bases : Bases
  /-- Words of the image taken from the input port so far. -/
  got  : List Word
  deriving DecidableEq, Repr

/-- A tile operation in progress, with its sampled parameters (07 R131, R136; 12 R243). `next` is the next row to
form, `passed` the rows passed, `sums` the working bank's rows formed so far, `task` the cluster and ticket of a
tile task, `fmtf` whether a flagged operand was read, `fault` the code under which it is being abandoned. -/
structure Tile where
  m       : Nat
  acc     : Bool
  drain   : Bool
  aq      : Bool
  hidx    : BitVec 12
  harg    : Word
  asrc    : Word
  astride : Nat
  fmta    : BitVec 8
  fmtb    : BitVec 8
  scla    : BitVec 19
  sclb    : BitVec 19
  sclcore : Nat
  job     : BitVec 16
  bases   : Bases
  lid     : BitVec 12
  bar     : Option (Nat × BarNo)
  task    : Option (Nat × BitVec 16)
  next    : Nat
  passed  : Nat
  sums    : List (List Int)
  fmtf    : Bool
  fault   : Option (BitVec 8)
  /-- The handler strands it has started so far (0, 1). -/
  ran     : List Nat
  deriving DecidableEq, Repr

/-- A tile-task record held by a tile scheduler (07 R138, 12 R251). -/
structure Task where
  ticket : BitVec 16
  words  : List Word
  core   : Nat
  job    : BitVec 16
  lid    : BitVec 12
  deriving DecidableEq, Repr

/-- A row in a row buffer (07 R133): its index, its sums and its converted values, whether its handler has started,
and how many strips a row-output binding has popped (10 R215). -/
structure RowBuf where
  r       : Nat
  sums    : List Int
  vals    : List (BitVec 32)
  started : Bool
  strips  : Nat
  deriving DecidableEq, Repr

/-- The matrix unit (07 R125 to R137): resident B, the operations in progress, the row buffers, a finished row that
waits for its buffer, the committed accumulator bank with its NOUT, the status of the last operation, and the
words waiting at the A and B input ports (10 R214). -/
structure Matrix where
  res   : Option Resident
  load  : Option Load
  tile  : Option Tile
  bufs  : Tab RowBuf
  held  : Option RowBuf
  bank  : List (List Int)
  bnout : Nat
  accv  : Bool
  err   : Bool
  fault : BitVec 8
  fmtf  : Bool
  rows  : Nat
  porta : List Word
  portb : List Word
  /-- The operation a pre-emption abandoned, to be executed again at the destination (18 R322). -/
  again : Option Tile
  /-- The record, with its cluster, that the tile scheduler has issued to the unit while a strand's MLOAD is in progress: it
  starts when that ends (03 R62, 12 R241). -/
  queued : Option (Nat × Task)
  deriving DecidableEq, Repr

/-- The matrix unit at reset (07 R127, R137; 22 R382). -/
def Matrix.reset : Matrix :=
  { res := none, load := none, tile := none, bufs := [], held := none, bank := [], bnout := 0, accv := false,
    err := false, fault := 0, fmtf := false, rows := 0, porta := [], portb := [], again := none,
    queued := none }

/-- A counter arm (03 R61, 12 R257). -/
structure Arm where
  falling : Bool
  cnt     : BitVec 8
  target  : Nat
  thresh  : Nat
  record  : Rec
  job     : BitVec 16
  lid     : BitVec 12
  deriving DecidableEq, Repr

/-- A core's stealing (03 R54): the last victim it tried on its own die, the steal outstanding (`true` when remote),
how many victims of the round it has asked, the cycles of its back-off still to come, the last die it asked and the
last core asked on each die. -/
structure Thief where
  last    : Option Nat
  out     : Option (Nat × Bool)
  tried   : Nat
  backoff : Option Nat
  lastDie : Option Nat
  lastOn  : Tab Nat
  deriving DecidableEq, Repr

/-- A core that has stolen nothing. -/
def Thief.reset : Thief :=
  { last := none, out := none, tried := 0, backoff := none, lastDie := none, lastOn := [] }

/-- The kinds of functional unit of a core (03 R410). -/
inductive FuncUnit | scalar | vector | memory | engine
  deriving DecidableEq, Repr

/-- A BANKSET that has not completed (10 R211): its strand, the banks it selects with the mode each gets, and, once
it has been applied, the banks whose change it started. -/
structure BankReq where
  slot  : Nat
  set   : List (Nat × BankMode)
  begun : Option (List Nat)
  deriving DecidableEq, Repr

/-- The state of a core (09 R184 and the engines of its chapter). -/
structure Core where
  strands  : Tab Strand
  cause    : Word
  epc      : Word
  faddr    : Word
  mode     : Bool
  agewin   : BitVec 16
  ftz      : Bool
  tags     : Word
  htbase   : Word
  msbase   : Word
  mslen    : BitVec 32
  declarer : Option (BitVec 32)
  stageasn : BitVec 9
  tvec     : Word
  sscr     : Word
  jtbase   : Word
  fatbase  : Word
  /-- Mode of each bank, and the banks changing with the mode each goes to (04 R75, R76). -/
  banks    : Tab BankMode
  busy     : List (Nat × BankMode)
  /-- The BANKSETs in progress and waiting, in issue order (10 R211). -/
  bankq    : List BankReq
  scratch  : Memory
  /-- The poisoned 64-bit words of local scratch, as byte offset / 8 (22 R375). -/
  spois    : List Nat
  lines    : List Line
  journal  : Tab JEnt
  bars     : Tab Bar
  copies   : List Copy
  queues   : Tab QBind
  fifos    : Tab (List Word)
  deque    : List DqEnt
  dspill   : List DqEnt
  /-- Mailbox and its spill ring, per virtual network: request 0, reply 1. -/
  mbox     : Tab (List Rec)
  mspill   : Tab (List Rec)
  sendq    : Tab (List Rec)
  matrix   : Matrix
  arms     : Tab Arm
  replay   : Option Replay
  leaseq   : List Nat
  thief    : Thief
  /-- Steal requests waiting at this core's arbiter: thief, job tag, remote. -/
  asked    : List (Nat × BitVec 16 × Bool)
  fwd      : Option Nat
  /-- The slots that have issued, the last one first (03 R48). -/
  recent   : List Nat
  /-- The issue slots filled in this cycle: the strand's slot, and the unit its instruction needs (03 R48). -/
  slots    : List (Nat × FuncUnit)
  /-- Issue slots filled and cycles without a READY strand since the last 1024 cycles ended, and edge-engine refusals
  (17 R303). -/
  issued   : Nat
  idle     : Nat
  refusals : Nat
  /-- Issue slots filled, and cycles without a READY strand, in the last 1024 cycles counted whole (17 R303). -/
  window   : Nat × Nat
  /-- Those 1024 cycles have ended and its counters are not sampled yet. -/
  due      : Bool
  /-- Its counters as last sampled (16 R411). -/
  sampled  : List Nat
  /-- A weaver move decided and not yet written (03 R60). -/
  wvmove   : Option (BitVec 8)
  halted   : Bool
  deriving DecidableEq, Repr

/-- A core at reset (22 R382; values of 03 R47, 09 R184 to R188; log entry 2 for what no rule gives). -/
def Core.reset : Core :=
  { strands := [], cause := 0, epc := 0, faddr := 0, mode := false, agewin := 256, ftz := false, tags := 0,
    htbase := 0, msbase := 0, mslen := 0, declarer := none, stageasn := 0, tvec := 0, sscr := 0, jtbase := 0,
    fatbase := 0, banks := [], busy := [], bankq := [], scratch := [], spois := [], lines := [], journal := [], bars := [],
    copies := [], queues := [], fifos := [], deque := [], dspill := [], mbox := [], mspill := [], sendq := [],
    matrix := .reset, arms := [], replay := none, leaseq := [], thief := .reset, asked := [], fwd := none,
    recent := [], slots := [], issued := 0, idle := 0, refusals := 0, window := (0, 0), due := false, sampled := [],
    wvmove := none, halted := false }

/-- What an access in flight does. -/
inductive AccKind
  | load (sgn : Bool)
  | store (v : Word)
  | amo (fn : AmoFn) (b cmp : Word)
  deriving DecidableEq, Repr

/-- Where an access in flight is: on its way to its translation slice, to its home with the physical address, type
and translation tag it carries, to a bank of another core, to that core's message strand, or to an outside party. -/
inductive Stage
  | xlate (moved : Bool)
  | home (pa : Nat) (ty : PageTy) (tag : Nat)
  | bank
  | pwa
  | outside
  deriving DecidableEq, Repr

/-- A scalar access that has left its core (04 R72, 20 R350). -/
structure Access where
  core  : Nat
  slot  : Nat
  job   : BitVec 16
  sup   : Bool
  bases : Bases
  kind  : AccKind
  addr  : Word
  size  : Nat
  ord   : AmOrd
  scope : Scope
  stage : Stage
  deriving DecidableEq, Repr

/-- A wale operation (12 R247 to R250). -/
inductive WaleOp
  | warm (word : Word)
  | wadd (handle ival : Word) (elems : List Int)
  | wstat (handle : Word)
  | wread (handle : Word) (vd : VReg) (int : Bool)
  | wdrop (handle : Word)
  | wfree (handle : Word)
  deriving DecidableEq, Repr

/-- A wale operation on its way to its slice; WADD and WREAD carry the register they start at. -/
structure WaleReq where
  core : Nat
  slot : Nat
  job  : BitVec 16
  lid  : BitVec 12
  d    : GReg
  l    : La
  op   : WaleOp
  deriving DecidableEq, Repr

/-- Modes and states of a wale tile (07 R141). -/
inductive WaleMode | exact | arrive | order
  deriving DecidableEq, Repr

/-- STATE of a wale record (07 R141). -/
inductive WaleSt | opened | complete | dead | free
  deriving DecidableEq, Repr

/-- One slot of a wale array (07 R140, R141): the record, the data, the staged contributions, and those accepted
that the datapath has still to add (R145). Values are I64 in EXACT mode and F32 bits otherwise. -/
structure Wale where
  gen    : BitVec 16
  st     : WaleSt
  mode   : WaleMode
  k      : Nat
  exts   : List (Nat × Nat)
  rows   : Nat
  cols   : Nat
  lid    : BitVec 12
  job    : BitVec 16
  /-- The phase of the owner launch, and whether that launch's number is free again (12 R258). -/
  phase  : Nat
  past   : Bool
  bar    : Option (Nat × BarNo)
  data   : List Int
  staged : List (Nat × Nat × List Int)
  /-- Each with the start of its interval; one from staging keeps its entry until it is added (R144). -/
  adds   : List (Nat × List Int)
  /-- An uncorrectable error was found in its data or record (21 R364). -/
  pois   : Bool
  deriving DecidableEq, Repr

/-- A slot never armed (07 R140: generation 0 at reset). -/
def Wale.empty : Wale :=
  { gen := 0, st := .free, mode := .exact, k := 0, exts := [], rows := 0, cols := 0, lid := 0, job := 0,
    phase := 0, past := false, bar := none, data := [], staged := [], adds := [], pois := false }

/-- What a tile scheduler remembers of a ticket (12 R252). -/
structure Ticket where
  st   : BitVec 2
  err  : Bool
  unit : Nat
  deriving DecidableEq, Repr

/-- A cluster's tile scheduler (03 R62): records in arrival order, tickets given, tickets remembered. -/
structure Sched where
  held    : List Task
  next    : BitVec 16
  tickets : List (BitVec 16 × Ticket)
  deriving DecidableEq, Repr

/-- A completion counter (02 R38, R40). -/
structure Counter where
  count : Nat
  done  : Bool
  canc  : Bool
  err   : Bool
  deriving DecidableEq, Repr

/-- A launch (12 R258): its counter, its graph, the launches it still waits for, and the launch entry held for them
with the core it goes to. -/
structure Launch where
  ctr   : Counter
  graph : Nat
  waits : List Nat
  entry : Option (Nat × DqEnt)
  deriving DecidableEq, Repr

/-- A graph and the phase that opened it (12 R258). -/
structure Graph where
  ctr   : Counter
  phase : Nat
  deriving DecidableEq, Repr

/-- A phase: its counter (with 1 until PHASEEND) and its replay class (02 R38, 22 R384). -/
structure Phase where
  ctr    : Counter
  closed : Bool
  cls    : Bool
  deriving DecidableEq, Repr

/-- A window that this part's job has granted to a device (16 R292). -/
structure Grant where
  base    : Nat
  len     : Nat
  dev     : Nat
  gjob    : BitVec 16
  r       : Bool
  w       : Bool
  a       : Bool
  acked   : Bool
  revoked : Bool
  deriving DecidableEq, Repr

/-- A window of another device granted to a job here, as its notice recorded it (16 R292, R293). -/
structure Notice where
  dev     : Nat
  idx     : Nat
  len     : Nat
  r       : Bool
  w       : Bool
  a       : Bool
  revoked : Bool
  deriving DecidableEq, Repr

/-- A host window (16 R294). -/
structure HostWin where
  key  : Word
  base : Word
  len  : Nat
  r    : Bool
  w    : Bool
  a    : Bool
  mask : BitVec 10
  port : Fin 8
  revoked : Bool
  deriving DecidableEq, Repr

/-- A collective (16 R297, R298; 21 R367, R368): its definition, the generation count, whether it is broken, the
unit's buffer, whether this device's go word of the open generation has come, and the contributions received. -/
structure Coll where
  rank    : Nat
  devs    : List Nat
  op      : Nat
  ty      : Nat
  arrival : Bool
  count   : Nat
  result  : Word
  bcore   : Nat
  bnum    : BarNo
  gen     : Nat
  broken  : Bool
  buf     : Memory
  gone    : Bool
  /-- The cycle of its unit's island at which that go word came (21 R367). -/
  since   : Nat
  /-- Poisoned 64-bit words of the buffer (22 R375). -/
  bufp    : List Nat
  /-- Contributions received, in order: generation, rank, elements; none for one that holds poison (22 R376). -/
  parts   : List (Nat × Nat × Option (List Nat))
  deriving DecidableEq, Repr

/-- A record of the batt log (16 R291): the command's code, its header's job and sequence number, its payload and
the status byte, 0xFF while it has not completed, and the phase that was open. -/
structure LogRec where
  code    : BitVec 8
  job     : BitVec 16
  seq     : Nat
  payload : List Byte
  status  : BitVec 8
  phase   : Nat
  /-- The port it came by, and whether it was authenticated with the keys of the host that sent JOBNEW (16 R289). -/
  port    : Fin 8
  owner   : Bool
  deriving DecidableEq, Repr

/-- The core register block of 16 R289: TVEC, HTBASE, JTBASE, FATBASE, SSCR. -/
structure Block where
  tvec    : Word
  htbase  : Word
  jtbase  : Word
  fatbase : Word
  sscr    : Word
  deriving DecidableEq, Repr

/-- A job (02 R37, 16 R285 to R299). -/
structure Job where
  key      : List Byte
  creator  : List Byte
  logbase  : Nat
  loglen   : Nat
  /-- Where the first record of the log stands in its area (16 R291). -/
  logstart : Nat
  jtbase   : Word
  fatbase  : Word
  log      : List LogRec
  /-- The command code and payload that wait for their turn, by SEQ, with the port they came by (16 R290). -/
  pending  : List (BitVec 8 × Cmd)
  /-- The pair of the MAP in progress whose entry is written and whose XLINV waits for peers (16 R411). -/
  mapping  : Option Nat
  nextSeq  : Nat
  /-- Completions recorded for repeated commands: SEQ, status, data. -/
  dones    : List (Nat × BitVec 8 × List Byte)
  launches : Tab Launch
  graphs   : Tab Graph
  phases   : Tab Phase
  phase    : Nat
  boundary : Nat
  ctr      : Counter
  grants   : Tab Grant
  notices  : List Notice
  hostwins : Tab HostWin
  colls    : Tab Coll
  nextStrid : BitVec 32
  /-- A replay: whether it re-executes yet, and the commands still to execute again (22 R385). -/
  replaying : Option (Bool × List LogRec)
  ending   : Bool
  deriving DecidableEq, Repr

/-- Hood states (22 R379). -/
inductive HoodSt | active | fenced | resetting
  deriving DecidableEq, Repr

/-- A hood: its job, its rectangle as tower, leader row and column, height and width in clusters, its state, and
the latest register block (16 R288, R289; 22 R379). -/
structure Hood where
  job   : BitVec 16
  tower : Nat
  row   : Nat
  col   : Nat
  h     : Nat
  w     : Nat
  st    : HoodSt
  block : Block
  ending : Bool
  deriving DecidableEq, Repr

/-- A cached translation of one 64 KiB granule at its translation slice (04 R71): the slice's number, the leaf it came
from and the tag that identifies it (20 R350). -/
structure Xlate where
  slice : Nat
  job   : BitVec 16
  gran  : Nat
  pte   : Word
  level : Nat
  tag   : Nat
  deriving DecidableEq, Repr

/-- A page that SEAL has sealed (04 R83): its physical addresses [lo, hi), the address of the leaf that SEAL sealed, and the
job and virtual address it was sealed under. -/
structure Seal where
  lo  : Nat
  hi  : Nat
  pte : Nat
  job : BitVec 16
  va  : Nat
  deriving DecidableEq, Repr

/-- A record on its way to a mailbox or a deque arbiter (02 R35, 12 R253). -/
structure Mail where
  id  : Nat
  src : Nat
  dst : Nat
  vn  : Bool
  body : Rec
  deriving DecidableEq, Repr

/-- Something addressed to a core that has not arrived: a wake, an arrival at a barrier (with the fault code of an
error arrival), an answer of a steal. -/
inductive Flit
  | wake (job : BitVec 16) (strid : BitVec 32)
  | arrive (n : BarNo)
  | errArrive (n : BarNo) (code : BitVec 8)
  | grant (e : DqEnt)
  | empty
  deriving DecidableEq, Repr

/-- A flit, with its job tag (16 R286), the core that sent it and the core it goes to. -/
structure Packet where
  id   : Nat
  job  : BitVec 16
  src  : Nat
  dst  : Nat
  flit : Flit
  deriving DecidableEq, Repr

/-- A counter event on its way to its counter (02 R42), kept in flight only when accesses are. -/
structure CtrMsg where
  job : BitVec 16
  lv  : Level
  n   : Nat
  ev  : CountEv
  deriving DecidableEq, Repr

/-- A migration in flight: where from, where to, and whether the destination has answered (02 R27). -/
structure Move where
  src  : Nat
  slot : Nat
  dst  : Nat
  hint : Bool
  /-- Its image has left the source. -/
  sent : Bool
  ok   : Option Bool
  deriving DecidableEq, Repr

/-- A pre-emption in progress (18 R320): source, destination and the step reached (1 to 4). -/
structure Preempt where
  src  : Nat
  dst  : Nat
  step : Nat
  /-- Whether the operation that it abandoned is executed again (18 R322). -/
  redo : Bool
  deriving DecidableEq, Repr

/-- A clock island (17 R300, R301): its set clock, its present clock, whether it is in a droop, its droop count and
its cycle counter. -/
structure Island where
  set    : Nat
  mhz    : Nat
  droop  : Bool
  droops : Nat
  cycle  : Word
  last   : Reading
  deriving DecidableEq, Repr

/-- An island at reset: 1.6 GHz (17 R300). -/
def Island.reset : Island :=
  { set := 1600, mhz := 1600, droop := false, droops := 0, cycle := 0, last := ⟨0, 0, 0, 0⟩ }

/-- The weaver of a compute die (03 R58, R59; 09 R188): its ring registers, the samples taken, the stages starved
and congested at the last sample, and the sample at which each core last moved. -/
structure Weaver where
  rings     : Tab Word
  /-- The ring registers as the last sample found them: a write takes effect at the next one (09 R188). -/
  seen      : Tab Word
  samples   : Nat
  starved   : List Nat
  congested : List Nat
  movedAt   : Tab Nat
  /-- Records that a CANCEL has discarded in their ring: the ring's number and the record's index (02 R41). -/
  gone      : List (Nat × Nat)
  /-- The spill ring of each stage ring, by ring number (03 R57). -/
  spill     : Tab (List Rec)
  /-- 4096 cycles of the die's island 4t have ended and the sample is not taken yet (03 R59). -/
  due       : Bool
  deriving DecidableEq, Repr

/-- A weaver at reset (09 R188). -/
def Weaver.reset : Weaver :=
  { rings := [], seen := [], samples := 0, starved := [], congested := [], movedAt := [], gone := [], spill := [], due := false }

/-- An entry of the Milliner's event log (17 R304). -/
structure Event where
  time   : Nat
  code   : Nat
  island : Nat
  data   : List Byte
  deriving DecidableEq, Repr

/-- A firmware slot (17 R305). -/
structure FwSlot where
  image    : List Byte
  sig      : List Byte
  version  : Nat
  verified : Bool
  staged   : Bool
  deriving DecidableEq, Repr

/-- The Milliner (17 R304 to R306). -/
structure Milliner where
  time    : Nat
  log     : List Event
  slotA   : Option FwSlot
  slotB   : Option FwSlot
  runB    : Bool
  minVer  : Nat
  mr0     : List Byte
  mr1     : List Byte
  /-- Every island is held in reset after a thermal trip (17 R302). -/
  hot     : Bool
  /-- The boot ROM has run it since the part last started. -/
  up      : Bool
  deriving DecidableEq, Repr

/-- Where the brim sequence stands (23 R388 to R395). -/
inductive BrimSt | idle | phaseA | drained | off
  deriving DecidableEq, Repr

/-- One classified item of the save directory (23 R397): job, kind (`true` a set segment), class 0 whole, 1 torn,
2 absent, and OWNER where it can be read. -/
structure Saved where
  job   : BitVec 16
  set   : Bool
  cls   : Nat
  owner : Option (List Byte)
  deriving DecidableEq, Repr

/-- The brim sequence: where it stands, its cause, the last save generation, the bytes declared (R389), and what the
last restart found (R397, R398). -/
structure Brim where
  st      : BrimSt
  thermal : Bool
  gen     : BitVec 16
  budget  : Nat
  /-- GEN, CAUSE and DONE of the directory read at the last start. -/
  dir     : Option (BitVec 16 × BitVec 2 × Bool)
  items   : List Saved
  deriving DecidableEq, Repr

/-- Counters of a port (16 R282, R285; 22 R373). -/
structure Port where
  discards : Nat
  authFail : Nat
  retries  : Nat
  deriving DecidableEq, Repr

/-- An event that supervisor software of a job receives (02 R34; 20 R355, R356; 22 R377, R380). -/
inductive SupEvent
  | badHandler (job : BitVec 16) (hdr : Word) (cause : BitVec 6)
  | quota (job : BitVec 16) (queue : Nat)
  | waitQuota (job : BitVec 16) (slice : Nat)
  | ueWrite (job : BitVec 16) (pa : Nat)
  | hoodFence (job : BitVec 16) (leader : Nat)
  deriving DecidableEq, Repr

/-- What leaves the part: completions of commands (16 R287), stores, loads and atomics towards peers and hosts (R283, R295),
grant and revocation notices (R292, R293), collective traffic (R298, R367), answers to peers, acknowledgements of their
notices, and the pages whose sealed copies peers drop (R296). -/
inductive Sent
  | completion (port : Fin 8) (job : BitVec 16) (seq : Nat) (status : BitVec 8) (data : List Byte)
  | access (job : BitVec 16) (addr : Word) (k : AccKind) (size : Nat)
  | grant (dev : Nat) (job : BitVec 16) (idx len : Nat) (r w a : Bool)
  | revoke (dev : Nat) (job : BitVec 16) (idx : Nat)
  | contribution (job : BitVec 16) (c rank gen : Nat) (data : List Nat)
  | loss (job : BitVec 16) (c rank : Nat)
  | result (job : BitVec 16) (c gen : Nat) (data : List Nat) (code : BitVec 8)
  | answer (dev : Nat) (cause : BitVec 6) (v : Word)
  | dropped (dev : Nat) (idx off : Nat)
  | noted (dev : Nat) (job : BitVec 16) (idx : Nat)
  | dropPage (dev : Nat) (job : BitVec 16) (gran : Nat)
  deriving DecidableEq, Repr

/-- The strand that an instruction is executed for. -/
structure Cur where
  core : Nat
  slot : Nat
  deriving DecidableEq, Repr

/-- Where a word can be found uncorrectable (22 R371, R375, R376): a 64-bit word of DRAM as L2 or L3 hold it, or of the save
store, by address / 8; of local scratch; of a line of an L1 by its place in it; of a collective unit's buffer; or a wale
slot's data or record. -/
inductive Spot
  | home (word : Nat)
  | scratch (core word : Nat)
  | line (core n word : Nat)
  | buffer (job : BitVec 16) (c word : Nat)
  | wale (slice slot : Nat)
  deriving DecidableEq, Repr

/-- What the model's own schedule does next: issue for a strand, let an event happen, let n cycles of an island pass, let n
elements of a copy be performed, let a translation slice forget its n-th translation, let a home write a line back to its
vault with some of its 64-bit words found uncorrectable, let a correctable error be corrected in SRAM, DRAM or MRAM, find a
word uncorrectable, offer a record to a stage ring of a die (03 R57), let a packet arrive, let the n-th acknowledgement of a
peer arrive (16 R296), or let the part join the domain under a number (16 R295) or leave it (21 R367). -/
inductive Turn
  | issue (core slot : Nat)
  | event (i : Instr)
  | tick (island : Fin 24) (n : Nat)
  | copyElem (core id n : Nat)
  | xlEvict (n : Nat)
  | writeBack (line : Nat) (bad : List Nat)
  | correct (where_ : Fin 3)
  | spoil (at_ : Spot)
  | offer (die ring : Nat) (r : Rec)
  | peerAck (n : Nat)
  | packet (id : Nat)
  | join (dev : Fin 4096)
  | leave
  deriving DecidableEq, Repr

/-- The whole part. `cur`, `agenda`, `split`, `free` and `serial` are the model's own (log entries 4 to 7): which
strand issues, the turns to come, whether accesses leave their core before they are performed, the count of free
values used, and the numbers given to things in flight. -/
structure State where
  cur      : Cur
  agenda   : List Turn
  split    : Bool
  free     : Nat
  serial   : Nat
  cores    : Tab Core
  /-- DRAM and the save store, by supervisor physical address (04 R67). -/
  mem      : Memory
  /-- Poisoned 64-bit words of DRAM and the save store as their homes hold them, as address / 8 (22 R375). -/
  pois     : List Nat
  /-- Bytes of WO lines written since the seal, by line (04 R82). -/
  written  : Tab (BitVec 128)
  /-- Virtual line address of the first fill of an SC line, by line, and the job (20 R348). -/
  scfill   : Tab (List (BitVec 16 × Nat))
  /-- Byte masks of the stores of each tower to an RC line since its last merge (04 R81). -/
  priv     : Tab (List (Nat × BitVec 128))
  /-- JOBID of the last writer of a line (22 R377). -/
  writer   : Tab (BitVec 16)
  xlates   : List Xlate
  /-- Tags of translations dropped by an XLINV (20 R350). -/
  dropped  : List Nat
  accs     : Tab Access
  wreqs    : Tab WaleReq
  wales    : Tab Wale
  mails    : List Mail
  packets  : List Packet
  ctrs     : List CtrMsg
  moves    : List Move
  preempts : List Preempt
  /-- Wait-table entries: monitors of MONARM (`false`) and translation parks (`true`), the line, core and slot. -/
  waits    : List (Bool × Nat × Nat × Nat)
  scheds   : Tab Sched
  weavers  : Tab Weaver
  islands  : Tab Island
  jobs     : Tab Job
  hoods    : List Hood
  ports    : Tab Port
  /-- Corrections in SRAM, DRAM and MRAM, and flits sent again (22 R372, R373). -/
  corrections : Nat × Nat × Nat × Nat
  device   : Nat
  /-- Pages sealed by SEAL, until their reopening reaches the peers too (04 R83, 16 R296). -/
  seals    : List Seal
  /-- The spill units in use, by the spill ring that has taken them: their addresses (20 R343, R355). -/
  spills   : Tab (List Nat)
  /-- The core whose L1 last wrote a line of an IP page back to its home (20 R348). -/
  backs    : Tab Nat
  /-- Sealed copies held by peers: device, job, and granule of the job's virtual memory (16 R296). -/
  sealedAt : List (Nat × BitVec 16 × Nat)
  /-- Sealed copies that peers have been told to drop and have not acknowledged (16 R296). -/
  acks     : List (Nat × BitVec 16 × Nat)
  milliner : Milliner
  brim     : Brim
  events   : List SupEvent
  sent     : List Sent
  deriving DecidableEq, Repr

/-- The part right after reset: no strand, no job, no hood, memory with nothing listed, every register at the value
its map gives (09 R184 to R188), every island at 1.6 GHz (17 R300). Log entry 2 names what no rule gives. -/
def State.reset : State :=
  { cur := ⟨0, 0⟩, agenda := [], split := false, free := 0, serial := 0, cores := [], mem := [], pois := [],
    written := [], scfill := [], priv := [], writer := [], xlates := [], dropped := [], accs := [], wreqs := [],
    wales := [], mails := [], packets := [], ctrs := [], moves := [], preempts := [], waits := [], scheds := [],
    weavers := [], islands := [], jobs := [], hoods := [], ports := [], corrections := (0, 0, 0, 0), device := 0,
    seals := [], spills := [], backs := [], sealedAt := [], acks := [],
    milliner := { time := 0, log := [], slotA := none, slotB := none, runB := false, minVer := 0,
                  mr0 := List.replicate 32 0, mr1 := List.replicate 32 0, hot := false, up := false },
    brim := { st := .idle, thermal := false, gen := 0, budget := 0, dir := none, items := [] },
    events := [], sent := [] }

end Sys2Proof.Machine
end

