-- ==== Sys2Proof/Machine/Base.lean ====
section
/-!
DEFINITION. Reading and writing the parts of the state: cores, strands, registers with their lookahead windows
(08 R154), hoods (02 R44), islands, and the numbers that 00 R5, 01 R12 and R18 fix.
-/

namespace Sys2Proof.Machine

/-- What a meaning answers. -/
abbrev Res := Host.Outcome State Fault Refusal

/-! Cores and strands. -/

/-- Core `c`. -/
def State.core (s : State) (c : Nat) : Core := s.cores.look c Core.reset

/-- The state with core `c` replaced. -/
def State.setCore (s : State) (c : Nat) (k : Core) : State := { s with cores := s.cores.put c k }

/-- The state with core `c` changed. -/
def State.modCore (s : State) (c : Nat) (f : Core → Core) : State := s.setCore c (f (s.core c))

/-- The strand in slot `n` of a core (slots 0 to 15 general, 16 message, 17 and 18 row handlers: 18 R314). -/
def Core.strand (k : Core) (n : Nat) : Strand := k.strands.look n Strand.empty

/-- The core with slot `n` replaced. -/
def Core.setStrand (k : Core) (n : Nat) (t : Strand) : Core := { k with strands := k.strands.put n t }

/-- The strand in slot `n` of core `c`. -/
def State.strand (s : State) (c n : Nat) : Strand := (s.core c).strand n

/-- The state with a strand replaced. -/
def State.setStrand (s : State) (c n : Nat) (t : Strand) : State :=
  s.setCore c ((s.core c).setStrand n t)

/-- The state with a strand changed. -/
def State.modStrand (s : State) (c n : Nat) (f : Strand → Strand) : State :=
  s.setStrand c n (f (s.strand c n))

/-- The core of the strand that issues. -/
def State.mine (s : State) : Core := s.core s.cur.core

/-- The strand that issues. -/
def State.me (s : State) : Strand := s.strand s.cur.core s.cur.slot

/-- The state with the issuing strand changed. -/
def State.modMe (s : State) (f : Strand → Strand) : State := s.modStrand s.cur.core s.cur.slot f

/-- The state with the issuing strand's core changed. -/
def State.modMine (s : State) (f : Core → Core) : State := s.modCore s.cur.core f

/-- General, message and row-handler slots (02 R23). -/
def isGeneral (slot : Nat) : Bool := slot < 16

/-- The message strand's slot. -/
def msgSlot : Nat := 16

/-- The slot of row handler `h`. -/
def rowSlot (h : Nat) : Nat := 17 + h % 2

/-- Whether a slot is a row handler's. -/
def isRow (slot : Nat) : Bool := slot = 17 ∨ slot = 18

/-- Every slot number of a core. -/
def allSlots : List Nat := List.range 19

/-- Every core number of the part (00 R5). -/
def allCores : List Nat := List.range 512

/-! Register files (02 R22, 11 R219). -/

/-- General register `d`. -/
def Strand.g (t : Strand) (d : GReg) : Word := t.regs.g.look d.val 0

/-- The strand with `d` holding `v`, its windows untouched. -/
def Strand.putG (t : Strand) (d : GReg) (v : Word) : Strand :=
  { t with regs := { t.regs with g := t.regs.g.put d.val v } }

/-- Results still pending for `d` are dropped (08 R154 item 2). -/
def Strand.dropDst (t : Strand) (d : GReg) : Strand :=
  let os := t.outs.map fun o => if o.dst = some d then { o with dst := none } else o
  { t with outs := os.filter fun o => o.dst.isSome || o.acc.isSome }

/-- An instruction of the strand writes `d`. -/
def Strand.wg (t : Strand) (d : GReg) (v : Word) : Strand := (t.dropDst d).putG d v

/-- Vector register `n`. -/
def Strand.vr (t : Strand) (n : Nat) : VWord := t.regs.v.look (n % 32) 0

/-- The strand with v register `n` written. -/
def Strand.putV (t : Strand) (n : Nat) (x : VWord) : Strand :=
  { t with regs := { t.regs with v := t.regs.v.put (n % 32) x } }

/-- Mask register `n`; k0 reads as all ones (08 R152). -/
def Strand.kr (t : Strand) (n : KReg) : KWord :=
  if n = 0 then BitVec.allOnes 512 else t.regs.k.look n.val 0

/-- The strand with mask register `n` written; k0 keeps its constant. -/
def Strand.putK (t : Strand) (n : KReg) (x : KWord) : Strand :=
  if n = 0 then t else { t with regs := { t.regs with k := t.regs.k.put n.val x } }

/-- Checksum register `n`. -/
def Strand.cr (t : Strand) (n : CReg) : Word := t.regs.c.look n.val 0

/-- The strand with checksum register `n` written. -/
def Strand.putC (t : Strand) (n : CReg) (x : Word) : Strand :=
  { t with regs := { t.regs with c := t.regs.c.put n.val x } }

/-- Bit pointer `n` (10 R194). -/
def Strand.bp (t : Strand) (n : BpReg) : BitVec 22 := t.regs.bp.look n.val 0

/-- The strand with bit pointer `n` written. -/
def Strand.putBp (t : Strand) (n : BpReg) (x : BitVec 22) : Strand :=
  { t with regs := { t.regs with bp := t.regs.bp.put n.val x } }

/-- FMTBAD is set, and never cleared, by results (06 R110). -/
def Strand.flagBad (t : Strand) (b : Bool) : Strand :=
  { t with regs := { t.regs with fmtbad := t.regs.fmtbad || b } }

/-- The vector set zeroed (02 R25, 07 R135). -/
def Regs.clearVec (r : Regs) : Regs := { r with v := [], k := [], c := [] }

/-! Lookahead windows (08 R154). -/

/-- Whether an outstanding instruction is complete: its access, if any, has returned and its window has ended. -/
def Out.over (o : Out) : Bool := o.acc.isNone && (o.left = 0 || o.dst.isNone)

/-- What a finished window writes, where it is still wanted. -/
def Out.result (o : Out) : List (GReg × Word) :=
  match o.dst, o.val with
  | some d, some v => [(d, v)]
  | _, _ => []

/-- Registers with results written to them. -/
def Regs.putAll (r : Regs) (ws : List (GReg × Word)) : Regs :=
  { r with g := ws.foldl (fun g x => g.put x.1.val x.2) r.g }

/-- An outstanding instruction as a later access of the strand remembers it. -/
def Out.win (o : Out) : Win := ⟨o.acc, o.dst, o.val, o.left⟩

/-- The outstanding instruction that an access remembered, in the registers that access found. -/
def Win.out (w : Win) (pc : Word) (snap : Regs) : Out :=
  { acc := w.acc, pc := pc, dst := w.dst, val := w.val, left := w.left, snap := snap, prior := [],
    full := w.acc.isSome, fault := none }

/-- Every complete result is written in program order and leaves. -/
def Strand.settle (t : Strand) : Strand :=
  { t with outs := t.outs.filter fun o => !o.over,
           regs := t.regs.putAll ((t.outs.filter Out.over).flatMap Out.result) }

/-- One more instruction of the strand has issued. -/
def Strand.aged (t : Strand) : Strand :=
  ({ t with outs := t.outs.map fun o => { o with left := o.left - 1 } } : Strand).settle

/-- Every open window ends, its result written or dropped (08 R156). A result that has not returned is not written:
the strand is not stopped while one is pending (02 R27). -/
def Strand.closeWindows (t : Strand) : Strand :=
  ({ t with outs := t.outs.map fun o => { o with left := 0 } } : Strand).settle

/-- The strand has executed an instruction and goes on at `npc`. -/
def Strand.retire (t : Strand) (npc : Word) : Strand :=
  { t.aged with pc := npc, st := .ready, age := 0, nohint := false }

/-- A late writer retires: `d` takes `v` when the window of `l` instructions ends (08 R154). -/
def Strand.late (t : Strand) (d : GReg) (v : Word) (l : La) (npc : Word) : Strand :=
  let t' := (t.dropDst d).retire npc
  if l = 0 then t'.putG d v
  else { t' with outs := t'.outs ++
    [{ acc := none, pc := t.pc, dst := some d, val := some v, left := l.val, snap := t.regs, prior := [],
       full := false, fault := none }] }

/-- A late writer retires whose result has not returned: access `id` brings it. -/
def Strand.lateAcc (t : Strand) (id : Nat) (d : Option GReg) (l : La) (full : Bool) (npc : Word) : Strand :=
  let t1 := match d with
    | some d => t.dropDst d
    | none => t
  let t' := t1.retire npc
  { t' with outs := t'.outs ++
    [{ acc := some id, pc := t.pc, dst := d, val := none, left := l.val, snap := t.regs,
       prior := t.outs.map Out.win, full := full, fault := none }] }

/-! The issuing strand. -/

/-- Register `d` of the issuing strand. -/
def State.rg (s : State) (d : GReg) : Word := s.me.g d

/-- The issuing strand goes on at `npc`. -/
def State.goto (s : State) (npc : Word) : State := s.modMe (·.retire npc)

/-- The issuing strand goes on at the next instruction. -/
def State.advance (s : State) : State := s.modMe fun t => t.retire (t.pc + 4)

/-- The issuing strand writes `d` and goes on at the next instruction. -/
def State.write (s : State) (d : GReg) (v : Word) : State :=
  s.modMe fun t => (t.wg d v).retire (t.pc + 4)

/-- The issuing strand writes `d` late and goes on at the next instruction. -/
def State.writeLate (s : State) (d : GReg) (v : Word) (l : La) : State :=
  s.modMe fun t => t.late d v l (t.pc + 4)

/-- The issuing strand cannot go on: it tries its instruction again (02 R24). -/
def State.block (s : State) : State := s.modMe fun t => { t with st := .blocked }

/-- The issuing strand waits for an engine. -/
def State.await (s : State) (w : Wait) : State := s.modMe fun t => { t with st := .waiting w }

/-- The issuing strand parks. -/
def State.park (s : State) (p : Park) : State := s.modMe fun t => { t with st := .parked p }

/-! Numbers of the part (00 R5; 01 R12, R18). -/

/-- Tower of a core or slice. -/
def towerOf (c : Nat) : Nat := c / 128

/-- Row of a core or slice. -/
def rowOf (c : Nat) : Nat := c / 16 % 8

/-- Column of a core or slice. -/
def colOf (c : Nat) : Nat := c % 16

/-- Cluster number of a core (01 R12). -/
def clusterOf (c : Nat) : Nat := towerOf c * 8 + rowOf c / 4 * 4 + colOf c / 4

/-- The leader core of a cluster. -/
def leaderOf (cl : Nat) : Nat := cl / 8 * 128 + cl % 8 / 4 * 64 + cl % 4 * 4

/-- The cores of a cluster, ascending. -/
def clusterCores (cl : Nat) : List Nat := allCores.filter fun c => clusterOf c = cl

/-- The lead stream's part of a strand: whether it follows (03 R63). -/
def Strand.follows (t : Strand) : Bool := t.fl = .follower ∨ t.fl = .owes

/-- The island of a core: t·4 + q (01 R18). -/
def islandOf (c : Nat) : Nat := towerOf c * 4 + colOf c / 4

/-- An island's state. -/
def State.island (s : State) (i : Nat) : Island := s.islands.look i Island.reset

/-- An island's clock frequency: half of what is set during a droop (17 R301), lowered by the temperature or not
(log entry 130). -/
def Island.clock (i : Island) : Nat := if i.droop then i.set / 2 else i.mhz

/-- The state with an island changed. -/
def State.modIsland (s : State) (i : Nat) (f : Island → Island) : State :=
  { s with islands := s.islands.put i (f (s.island i)) }

/-! Hoods (02 R44, 22 R379). -/

/-- The cores of a hood, ascending. -/
def Hood.cores (h : Hood) : List Nat :=
  allCores.filter fun c => towerOf c = h.tower ∧ h.row ≤ rowOf c ∧ rowOf c < h.row + 4 * h.h ∧
    h.col ≤ colOf c ∧ colOf c < h.col + 4 * h.w

/-- Whether a core lies in a hood. -/
def Hood.holds (h : Hood) (c : Nat) : Bool :=
  c < 512 ∧ towerOf c = h.tower ∧ h.row ≤ rowOf c ∧ rowOf c < h.row + 4 * h.h ∧
    h.col ≤ colOf c ∧ colOf c < h.col + 4 * h.w

/-- A hood's leader core. -/
def Hood.leader (h : Hood) : Nat := h.tower * 128 + h.row * 16 + h.col

/-- The hood a core lies in. -/
def State.hoodOf (s : State) (c : Nat) : Option Hood := s.hoods.find? (·.holds c)

/-- The job that a core serves: its hood's (02 R33), 0 where it has none. -/
def State.coreJob (s : State) (c : Nat) : BitVec 16 :=
  match s.hoodOf c with
  | some h => h.job
  | none => 0

/-- Whether a core lies in the job's hoods (02 R44). -/
def State.inHoods (s : State) (j : BitVec 16) (c : Nat) : Bool :=
  s.hoods.any fun h => h.job = j && h.holds c

/-- Whether a core's hood refuses what comes to it: fenced, resetting, or the core halted (22 R381, 12 R261). -/
def State.shut (s : State) (c : Nat) : Bool :=
  (s.core c).halted || match s.hoodOf c with
    | some h => h.st ≠ .active
    | none => false

/-- The cores of a job's hoods, ascending. -/
def State.jobCores (s : State) (j : BitVec 16) : List Nat := allCores.filter (s.inHoods j)

/-- The hoods with those that pass a test changed. -/
def State.modHoods (s : State) (p : Hood → Bool) (f : Hood → Hood) : State :=
  { s with hoods := s.hoods.map fun h => if p h then f h else h }

/-! Jobs, schedulers, weavers, ports. -/

/-- The job with a tag. -/
def State.job? (s : State) (j : BitVec 16) : Option Job := (s.jobs.find? (·.1 = j.toNat)).map (·.2)

/-- The state with a live job changed. -/
def State.modJob (s : State) (j : BitVec 16) (f : Job → Job) : State :=
  match s.job? j with
  | some x => { s with jobs := s.jobs.put j.toNat (f x) }
  | none => s

/-- A cluster's tile scheduler. -/
def State.sched (s : State) (cl : Nat) : Sched := s.scheds.look cl ⟨[], 0, []⟩

/-- The state with a tile scheduler changed. -/
def State.modSched (s : State) (cl : Nat) (f : Sched → Sched) : State :=
  { s with scheds := s.scheds.put cl (f (s.sched cl)) }

/-- A die's weaver. -/
def State.weaver (s : State) (t : Nat) : Weaver := s.weavers.look t Weaver.reset

/-- The state with a weaver changed. -/
def State.modWeaver (s : State) (t : Nat) (f : Weaver → Weaver) : State :=
  { s with weavers := s.weavers.put t (f (s.weaver t)) }

/-- A port's counters. -/
def State.port (s : State) (p : Nat) : Port := s.ports.look p ⟨0, 0, 0⟩

/-- The state with a port's counters changed. -/
def State.modPort (s : State) (p : Nat) (f : Port → Port) : State :=
  { s with ports := s.ports.put p (f (s.port p)) }

/-- Something leaves the part: nothing does after detection of a supply loss, when the ports stop sending (23 R388). -/
def State.send (s : State) (x : Sent) : State :=
  { s with sent := if s.brim.st = .idle then s.sent ++ [x] else s.sent }

/-- Supervisor software receives an event (02 R34). -/
def State.tell (s : State) (e : SupEvent) : State := { s with events := s.events ++ [e] }

/-- Something goes to a core, with its job tag. -/
def State.packet (s : State) (j : BitVec 16) (src dst : Nat) (f : Flit) : State :=
  { s with packets := s.packets ++ [⟨s.serial, j, src, dst, f⟩], serial := s.serial + 1 }

/-- The next free value (log entry 6). -/
def State.freeWord (s : State) : Word := Config.freeValue s.free

/-- The state after a free value has been used. -/
def State.useFree (s : State) : State := { s with free := s.free + 1 }

/-! Power and pre-emption. -/

/-- After detection of a supply loss, or while a trip holds the islands, every packet that arrives is discarded (23
R388). -/
def State.deaf (s : State) : Bool := s.brim.st ≠ .idle || s.milliner.hot

/-- An event that a packet brings: nothing while packets are discarded. -/
def State.heard (s : State) (f : State → State) : State := if s.deaf then s else f s

/-- Whether a core is the source of a pre-emption. -/
def State.preempted (s : State) (c : Nat) : Bool := s.preempts.any fun p => p.src = c

/-! Access to the tables of a core. -/

/-- Bank `b`'s mode. -/
def Core.bank (k : Core) (b : Nat) : BankMode := k.banks.look b .scratch

/-- Barrier `n` of a core. -/
def Core.bar (k : Core) (n : BarNo) : Bar := k.bars.look n.val Bar.empty

/-- Journal entry `j`. -/
def Core.jent (k : Core) (j : Nat) : JEnt := k.journal.look j JEnt.empty

/-- USC: the occupied journal entries (04 R85, 09 R187). -/
def Core.usc (k : Core) : Nat := ((List.range 64).filter fun j => (k.jent j).v).length

/-- A queue register's binding. -/
def Core.queue (k : Core) (q : QReg) : Option QBind := (k.queues.find? (·.1 = q.val)).map (·.2)

/-- Words a FIFO bank holds. -/
def Core.fifo (k : Core) (b : Nat) : List Word := k.fifos.look b []

/-- The send queue of a virtual network (`true` reply). -/
def Core.sq (k : Core) (vn : Bool) : List Rec := k.sendq.look (ofB vn) []

/-- The mailbox of a virtual network. -/
def Core.box (k : Core) (vn : Bool) : List Rec := k.mbox.look (ofB vn) []

/-- A mailbox's spill ring. -/
def Core.boxSpill (k : Core) (vn : Bool) : List Rec := k.mspill.look (ofB vn) []

/-- The access in flight with a number. -/
def State.acc? (s : State) (id : Nat) : Option Access := (s.accs.find? (·.1 = id)).map (·.2)

/-- Whether an access is a store. -/
def AccKind.isStore : AccKind → Bool
  | .store _ => true
  | _ => false

/-- Whether an access is an atomic. -/
def AccKind.isAmo : AccKind → Bool
  | .amo .. => true
  | _ => false

/-- The number under which a posted store with ord 11 holds its strand: that of its journal entry. -/
def journalOut (j : Nat) : Nat := 2 ^ 64 + j

/-- Whether an outstanding access is a store: one in flight, or a posted store with ord 11. -/
def State.isStoreOut (s : State) (o : Out) : Bool :=
  o.acc.any fun id => decide (2 ^ 64 ≤ id) || (s.acc? id).any fun a => a.kind.isStore

/-- Whether an earlier load or atomic of a strand has not returned (05 R93). -/
def State.loadsOut (s : State) (c n : Nat) : Bool :=
  (s.strand c n).outs.any fun o => o.acc.isSome && !s.isStoreOut o

/-- Whether an earlier store of a strand is not acknowledged: a posted store in the journal, or another in flight
(05 R93). -/
def State.storesOut (s : State) (c n : Nat) : Bool :=
  ((s.strand c n).outs.any s.isStoreOut) || (s.core c).journal.any fun x => x.2.v && x.2.slot = n

/-- Whether a strand waits for its turn or may be picked to issue. -/
def Strand.runs (t : Strand) : Bool :=
  match t.st with
  | .ready | .blocked => true
  | _ => false

/-- Whether a strand is READY (02 R24). -/
def Strand.isReady (t : Strand) : Bool := t.st = .ready

/-- Whether a slot holds a strand. -/
def Strand.live (t : Strand) : Bool := t.st ≠ .free

end Sys2Proof.Machine
end

