-- ==== Sys2Proof/Machine/Flags.lean ====
section
/-!
DEFINITION. Codes and status words: the causes of traps (18 R309), fault codes of engines (21 R358), the words that
status and control registers and the status instructions return, and the numeric codes of the enumerations.
-/

namespace Sys2Proof.Machine

/-! Base causes (18 R309). -/

namespace Cause

def illegal : BitVec 8 := 0x01
def priv : BitVec 8 := 0x02
def soft : BitVec 8 := 0x03
def align : BitVec 8 := 0x04
def badAddr : BitVec 8 := 0x05
def xlFault : BitVec 8 := 0x06
def perm : BitVec 8 := 0x07
def attrMis : BitVec 8 := 0x08
def attrOp : BitVec 8 := 0x09
def woSealed : BitVec 8 := 0x0A
def woDup : BitVec 8 := 0x0B
def ipOwner : BitVec 8 := 0x0C
def hoodRef : BitVec 8 := 0x0D
def revoked : BitVec 8 := 0x0E
def winDeny : BitVec 8 := 0x0F
def bankMode : BitVec 8 := 0x10
def noLease : BitVec 8 := 0x11
def hPark : BitVec 8 := 0x12
def migBusy : BitVec 8 := 0x13
def badRec : BitVec 8 := 0x14
def sqFull : BitVec 8 := 0x15
def noMsg : BitVec 8 := 0x16
def noRow : BitVec 8 := 0x17
def rptBad : BitVec 8 := 0x18
def badBar : BitVec 8 := 0x19
def barBusy : BitVec 8 := 0x1A
def badPat : BitVec 8 := 0x1B
def badRing : BitVec 8 := 0x1C
def badBank : BitVec 8 := 0x1D
def qBound : BitVec 8 := 0x1E
def qUnbound : BitVec 8 := 0x1F
def qOwner : BitVec 8 := 0x20
def qKind : BitVec 8 := 0x21
def qEnd : BitVec 8 := 0x22
def mDesc : BitVec 8 := 0x23
def badTt : BitVec 8 := 0x24
def badLnch : BitVec 8 := 0x25
def badWin : BitVec 8 := 0x26
def ckFail : BitVec 8 := 0x27
def poison : BitVec 8 := 0x28
def quota : BitVec 8 := 0x29
def genRef : BitVec 8 := 0x2A
/-- The full CODE of PFAIL: origin 11, base 0x30 (18 R309). -/
def pFail : BitVec 8 := 0xF0
/-- Origin 01: a posted store (18 R308). -/
def posted (c : BitVec 8) : BitVec 8 := 0x40 ||| c
/-- Origin 10: a copy (18 R308). -/
def copied (c : BitVec 8) : BitVec 8 := 0x80 ||| c

end Cause

/-! Fault codes of engines (21 R358). -/

namespace FaultCode

def fmt : BitVec 8 := 0x01
def cancelled : BitVec 8 := 0x02
def preempted : BitVec 8 := 0x03
def badHidx : BitVec 8 := 0x04
def dropped : BitVec 8 := 0x05
def memberLost : BitVec 8 := 0x06
def handlerLost : BitVec 8 := 0x07
/-- An engine read or write that failed with base cause `c`. -/
def operand (c : BitVec 8) : BitVec 8 := 0x40 ||| c

end FaultCode

/-! Codes of the enumerations. -/

/-- Rounding-mode codes (06 R115). -/
def Rm.code : Rm → Nat
  | .rne => 0 | .rtz => 1 | .rup => 2 | .rdn => 3 | .rna => 4 | .sr => 5

/-- The mode that FRM takes from a written value; a value that names no mode stores RNE (06 R115). -/
def rmOfFrm (n : Nat) : Rm :=
  match n with
  | 1 => .rtz | 2 => .rup | 3 => .rdn | 4 => .rna | 5 => .sr | _ => .rne

/-- The type that a code of ATTR names (04 R69). -/
def pageTyOf (n : Nat) : PageTy :=
  match n % 4 with
  | 0 => .sc | 1 => .rc | 2 => .wo | _ => .ip

/-- The code of a page type (04 R69). -/
def PageTy.code : PageTy → Nat
  | .sc => 0 | .rc => 1 | .wo => 2 | .ip => 3

/-- The code of a bank mode (04 R75). -/
def BankMode.code : BankMode → Nat
  | .scratch => 0 | .cache => 1 | .fifo => 2

/-- The bank mode of a code; 11 is reserved. -/
def bankModeOf (n : Nat) : Option BankMode :=
  match n with
  | 0 => some .scratch | 1 => some .cache | 2 => some .fifo | _ => none

/-- Whether a scope is CLU or wider. -/
def wideScope (s : Scope) : Bool := 2 ≤ scopeCode s

/-! Status words. -/

/-- FL (09 R185). -/
def Fol.code : Fol → Nat
  | .none => 0 | .lead => 1 | .waitLead => 2 | .follower => 2 | .owes => 2

/-- STATUS (09 R185). -/
def Strand.status (t : Strand) : Word :=
  word (ofB t.sup + 4 * Fol.code t.fl + 16 * ofB t.vl + 32 * ofB t.intrap)

/-- CAUSE (09 R186) for a trap. -/
def TrapInfo.cause (i : TrapInfo) : Word :=
  word (i.code.toNat + 256 * ofB (i.code.toNat / 64 ≠ 0) + 512 * i.jent.toNat +
    (match i.ring with
      | some r => 0x8000 + 0x10000 * r.toNat
      | none => 0))

/-- BANKCFG (04 R75). -/
def Core.bankcfg (k : Core) : Word :=
  word ((List.range 16).foldl (fun n b => n + BankMode.code (k.bank b) * 4 ^ b) 0 +
    (List.range 16).foldl (fun n b => n + ofB (k.busy.any fun x => x.1 = b) * 2 ^ (32 + b)) 0)

/-- A counter word (02 R40). -/
def Counter.word (c : Counter) : Word :=
  Machine.word (c.count % 2 ^ 32 + 2 ^ 61 * ofB c.err + 2 ^ 62 * ofB c.canc + 2 ^ 63 * ofB c.done)

/-- The word of a unit that is not live (12 R259). -/
def doneWord : Word := 0x8000000000000000

/-- BSTAT's word (10 R201). -/
def Bar.word (b : Bar) : Word :=
  Machine.word (b.count.toNat + 2 ^ 16 * (b.arrived % 2 ^ 16) + 2 ^ 32 * b.phase.toNat + 2 ^ 48 * b.fault.toNat +
    2 ^ 62 * ofB b.err + 2 ^ 63 * ofB (b.count ≠ 0))

/-- The wait status of the last completed phase (10 R202). -/
def Bar.waitStatus (b : Bar) : Word :=
  if b.err then Machine.word (b.fault.toNat + 2 ^ 63) else 0

/-- MSTAT's word (07 R137). -/
def Matrix.word (m : Matrix) : Word :=
  Machine.word ((match m.res with
      | some r => r.tag.toNat + 2 ^ 58 * r.geom.toNat
      | none => 0) +
    2 ^ 32 * (m.rows % 2 ^ 16) + 2 ^ 48 * m.fault.toNat + 2 ^ 60 * ofB m.accv + 2 ^ 61 * ofB m.fmtf +
    2 ^ 62 * ofB m.err + 2 ^ 63 * ofB (m.load.isSome || m.tile.isSome))

/-- JRNL's word (18 R314; 19 R342: an entry with V = 0 and FAIL = 0 returns 0). -/
def JEnt.word (e : JEnt) : Word :=
  if !e.v && !e.fail then 0
  else Machine.word (e.pc.toNat % 2 ^ 48 / 4 * 4 + 2 ^ 49 * e.slot + 2 ^ 54 * e.sz.toNat +
    2 ^ 56 * (if e.fail then e.cause.toNat else 0) + 2 ^ 62 * ofB e.fail + 2 ^ 63 * ofB e.v)

/-- The n5 value of a binding (10 R212). -/
def QKind.code : QKind → Nat
  | .fifo _ => 0 | .stream .. => 1 | .ma => 2 | .mb => 3 | .mout => 4 | .mbox .. => 5

/-- TTSTAT's word (12 R252). -/
def Ticket.word (t : Ticket) : Word :=
  Machine.word (t.unit % 512 + 2 ^ 61 * ofB t.err + 2 ^ 62 * t.st.toNat)

/-- TTSTAT's word for a ticket not remembered. -/
def ticketGone : Word := Machine.word (3 * 2 ^ 62)

/-! Wale statuses (07 R142). -/

namespace WaleStatus

def done : Nat := 0
def dup : Nat := 1
def full : Nat := 2
def range : Nat := 3
def shape : Nat := 4
def dead : Nat := 5
def wait : Nat := 6
def incomplete : Nat := 7
def opened : Nat := 8
def noSpace : Nat := 9

end WaleStatus

/-! Record headers (02 R31). -/

/-- HIDX of a header. -/
def hdrHidx (h : Word) : Nat := bits h 0 12
/-- LID of a header. -/
def hdrLid (h : Word) : Nat := bits h 12 12
/-- ARGC of a header. -/
def hdrArgc (h : Word) : Nat := bits h 24 3
/-- KIND of a header: `true` for a deque record. -/
def hdrKind (h : Word) : Bool := bit h 27
/-- VN of a header. -/
def hdrVn (h : Word) : Nat := bits h 28 2
/-- DEST of a header. -/
def hdrDest (h : Word) : Nat := bits h 30 9
/-- FROM of a header. -/
def hdrFrom (h : Word) : Nat := bits h 39 9
/-- JOB of a header. -/
def hdrJob (h : Word) : BitVec 16 := BitVec.ofNat 16 (bits h 48 16)

/-- A header made from its fields (02 R31). -/
def mkHdr (job : BitVec 16) (frm dest vn : Nat) (kind : Bool) (argc lid hidx : Nat) : Word :=
  word (hidx % 4096 + 2 ^ 12 * (lid % 4096) + 2 ^ 24 * (argc % 8) + 2 ^ 27 * ofB kind + 2 ^ 28 * (vn % 4) +
    2 ^ 30 * (dest % 512) + 2 ^ 39 * (frm % 512) + 2 ^ 48 * job.toNat)

/-- The header of a record. -/
def recHdr (r : Rec) : Word := r.getD 0 0

/-! What a record carries behind its eight words while it is on its way, which no program sees: the scope of its sender's
fences, below 8 (05 R98); then the sender's strand identity and its place among what the part has sent (05 R107). -/

/-- The mark of a record's sender. -/
def senderMark (strid : BitVec 32) : Word := word (2 ^ 32 + strid.toNat)

/-- The mark of a record's place in the order of sending. -/
def placeMark (n : Nat) : Word := word (2 ^ 40 + n)

/-- A record's sender, where its mark is there. -/
def Rec.sender (r : Rec) : Option Word := (r.drop 8).find? fun m => 2 ^ 32 ≤ m.toNat && m.toNat < 2 ^ 40

/-- A record's place in the order of sending. -/
def Rec.place (r : Rec) : Nat := (((r.drop 8).find? fun m => 2 ^ 40 ≤ m.toNat).map fun m => m.toNat - 2 ^ 40).getD 0

/-- A record that has arrived: only the scope of its sender's fences stays with it. -/
def Rec.arrived (r : Rec) : Rec := r.take 8 ++ (r.drop 8).filter fun m => m.toNat < 8

/-- Argument words beyond ARGC travel as zero (02 R32). -/
def trimArgs (r : Rec) : Rec :=
  let n := hdrArgc (recHdr r)
  (List.range 8).map fun i => if i ≤ n then r.getD i 0 else 0

end Sys2Proof.Machine
end

