-- ==== Sys2Proof/Machine/Mem.lean ====
section
/-!
DEFINITION. Memory: bytes in canonical form, the homes of DRAM and the save store, poison (22 R375), written-byte
masks (04 R82), privatised lines (04 R81), wake-ups of waiters (04 R73, R74), and the L1 (04 R77 to R80).
-/

namespace Sys2Proof.Machine

/-! Bytes. -/

/-- The byte at an address. -/
def Memory.get (m : Memory) (a : Nat) : Byte := Tab.look m a Memory.unlisted

/-- The memory with one byte written, in canonical form. -/
def Memory.put (m : Memory) (a : Nat) (b : Byte) : Memory := Tab.set m a b Memory.unlisted

/-- The `n` bytes from `a` up. -/
def Memory.bytes (m : Memory) (a : Nat) : Nat → List Byte
  | 0 => []
  | n + 1 => m.get a :: Memory.bytes m (a + 1) n

/-- Bytes written from `a` up. -/
def Memory.putBytes (m : Memory) (a : Nat) : List Byte → Memory
  | [] => m
  | b :: bs => Memory.putBytes (m.put a b) (a + 1) bs

/-- The value of `n` bytes, least significant first (00 R1). -/
def Memory.read (m : Memory) (a n : Nat) : Nat := leNat (m.bytes a n)

/-- The low `n` bytes of `v` written at `a` (00 R1). -/
def Memory.write (m : Memory) (a n v : Nat) : Memory := m.putBytes a (leBytes n v)

/-! Physical addresses (04 R67). -/

/-- Whether a physical address is DRAM. -/
def isDram (pa : Nat) : Bool := pa < 0x6000000000

/-- Whether a physical address is in the save store. -/
def isSave (pa : Nat) : Bool := 0x8000000000 ≤ pa && pa < 0x8008000000

/-- Home(pa): the slice above the vault that holds a DRAM address (04 R67). -/
def homeOf (pa : Nat) : Nat :=
  let t := pa / 0x1800000000
  let w := pa % 0x1800000000
  t * 128 + w / 0x10000 % 128

/-- voff: the offset of a DRAM address within its vault (04 R67). -/
def vaultOff (pa : Nat) : Nat :=
  let w := pa % 0x1800000000
  w / 0x800000 * 0x10000 + w % 0x10000

/-- The number of the translation slice of a virtual address of a job, for an access from tower `t` (04 R71). -/
def xlSlice (t va : Nat) (j : BitVec 16) : Nat :=
  let v (lo len : Nat) : Nat := va / 2 ^ lo % 2 ^ len
  t * 128 + (v 16 7 ^^^ v 23 7 ^^^ v 30 7 ^^^ v 37 7 ^^^ v 44 4 ^^^ bits j 0 7 ^^^ bits j 7 7 ^^^ bits j 14 2)

/-- The line of an address. -/
def lineOf (pa : Nat) : Nat := pa / 128

/-- The bytes of its line that an access of `n` bytes at `a` touches. -/
def lineMask (a n : Nat) : BitVec 128 := BitVec.ofNat 128 ((2 ^ n - 1) * 2 ^ (a % 128))

/-! Poison (22 R375, R376). -/

/-- The 64-bit words that `n` bytes at `a` touch. -/
def wordsOf (a n : Nat) : List Nat := if n = 0 then [] else upFrom (a / 8) ((a + n - 1) / 8 - a / 8 + 1)

/-- Whether a read of `n` bytes at `a` touches a poisoned word. -/
def touches (ps : List Nat) (a n : Nat) : Bool := ps ≠ [] && (wordsOf a n).any fun w => ps.contains w

/-- The marks after a write of `n` bytes at `a`: a whole word written loses its mark. -/
def clears (ps : List Nat) (a n : Nat) : List Nat := ps.filter fun w => !(a ≤ 8 * w && 8 * w + 8 ≤ a + n)

/-- The marks with these words marked too. -/
def marked (ps ws : List Nat) : List Nat := ps ++ ws.filter fun w => !ps.contains w

/-- Whether writes to these ranges, as address and length, cover a whole word together. -/
def covers (rs : List (Nat × Nat)) (w : Nat) : Bool :=
  (List.range 8).all fun i => rs.any fun r => r.1 ≤ 8 * w + i && 8 * w + i < r.1 + r.2

/-- Whether a physical read touches a poisoned word. -/
def State.poisoned (s : State) (pa n : Nat) : Bool := touches s.pois pa n

/-! Waiters. -/

/-- A strand parked in MONWAIT returns: its monitor is disarmed (12 R255). -/
def Strand.monDone (t : Strand) : Strand :=
  match t.st with
  | .parked .mon => { t.retire (t.pc + 4) with mon := none }
  | _ => t

/-- One write reaches the waiter of a wait-table entry: a monitor notes the write and wakes its strand; a
translation park is woken when the write has set V (03 R49; 04 R73, R74; 20 R345). The entry stays unless the waiter
is done with it. -/
def State.wake1 (m0 : Memory) (lo n : Nat) (s : State) (w : Bool × Nat × Nat × Nat) : State :=
  let (park, key, c, sl) := w
  let t := s.strand c sl
  if park then
    if key < lo + n ∧ lo < key + 8 ∧ (m0.get key).toNat % 2 = 0 ∧ (s.mem.get key).toNat % 2 = 1 then
      let s := { s with waits := s.waits.filter (· ≠ w) }
      if t.st = .parked (.xlate key) then
        s.setStrand c sl { t with st := .ready, fl := if t.fl = .follower then .owes else t.fl }
      else s
    else s
  else if key * 128 < lo + n ∧ lo < key * 128 + 128 then
    match t.mon with
    | some (l, _) =>
      if l = key then
        let s := { s with waits := s.waits.filter (· ≠ w) }
        s.setStrand c sl ({ t with mon := some (l, true) } : Strand).monDone
      else s
    | none => s
  else s

/-- A write of `n` bytes at `lo` reaches the wait tables; `m0` is the memory before it. -/
def State.wakeAll (s : State) (m0 : Memory) (lo n : Nat) : State :=
  s.waits.foldl (State.wake1 m0 lo n) s

/-! SC sharers (04 R79; 20 R348). -/

/-- The physical address of an L1 line (10 R197). -/
def Line.pa (l : Line) : Nat := l.frame + l.va % 0x10000

/-- The L1 copy with bytes from `pa` up replaced, as far as they fall in it. -/
def Line.patch (l : Line) (pa : Nat) (bs : List Byte) : Line :=
  let d := (List.range 128).map fun i =>
    let a := l.pa + i
    if (pa ≤ a) ∧ (a < pa + bs.length) then bs.getD (a - pa) 0 else l.data.getD i 0
  let p := (List.range 16).foldl (fun (m : BitVec 16) i =>
    if pa ≤ l.pa + 8 * i ∧ l.pa + 8 * i + 8 ≤ pa + bs.length then m &&& ~~~ (1#16 <<< i) else m) l.pois
  { l with data := d, pois := p, ue := l.ue &&& p }

/-- Whether the home keeps an L1 line current: an SC copy under the address first recorded for it. A copy under another
address enters the L1 as an RC line, which is what the loads that hit it are ordered as (20 R348). -/
def State.shares (s : State) (l : Line) : Bool :=
  l.ty = .sc && (s.scfill.look (lineOf l.pa) []).contains (l.job, l.va)

/-- An L1's lines after a write to a home. -/
def State.patched (s : State) (pa : Nat) (bs : List Byte) (ls : List Line) : List Line :=
  ls.map fun l =>
    if s.shares l && decide (pa < l.pa + 128) && decide (l.pa < pa + bs.length) then l.patch pa bs else l

/-- Every SC sharer applies a write. -/
def State.updateSharers (s : State) (pa : Nat) (bs : List Byte) : State :=
  let f (k : Core) : Core := if k.lines = [] then k else { k with lines := s.patched pa bs k.lines }
  { s with cores := s.cores.map fun x => (x.1, f x.2) }

/-! Homes. -/

/-- The bytes that a home holds. -/
def State.homeBytes (s : State) (pa n : Nat) : List Byte := s.mem.bytes pa n

/-- The value of `n` bytes that a home holds. -/
def State.homeRead (s : State) (pa n : Nat) : Nat := s.mem.read pa n

/-- Bytes come to stand at their home, written by job `j`: poison clears (22 R375), SC sharers apply them (04 R79), the
line takes its writer's tag (22 R377). -/
def State.homePut (s : State) (j : BitVec 16) (pa : Nat) (bs : List Byte) : State :=
  let s := { s with mem := s.mem.putBytes pa bs, pois := clears s.pois pa bs.length,
                    writer := s.writer.put (lineOf pa) j }
  s.updateSharers pa bs

/-- Bytes are written at their home by an agent of job `j`, and the write reaches the waiters (04 R74). -/
def State.homeWrite (s : State) (j : BitVec 16) (pa : Nat) (bs : List Byte) : State :=
  (s.homePut j pa bs).wakeAll s.mem pa bs.length

/-! Privatised lines (04 R81). -/

/-- The towers' masks of a line. -/
def State.masks (s : State) (line : Nat) : List (Nat × BitVec 128) := s.priv.look line []

/-- Whether no byte is in two of the masks. -/
def disjointMasks : List (Nat × BitVec 128) → Bool
  | [] => true
  | (_, a) :: ms => (ms.all fun x => (a &&& x.2) = 0) && disjointMasks ms

/-- Whether a line is privatised: two or more towers have stored to it and their masks are disjoint. -/
def privatised (ms : List (Nat × BitVec 128)) : Bool := decide (2 ≤ ms.length) && disjointMasks ms

/-- The home merges a line: the masks clear. The proxy copies' bytes stand in `mem` already (log entry 11). -/
def State.merge (s : State) (line : Nat) : State := { s with priv := s.priv.del line }

/-- An access from tower `t` reaches an RC line: it merges first where it touches another tower's byte; a store
adds to its tower's mask. -/
def State.privAccess (s : State) (t pa n : Nat) (store : Bool) : State :=
  let l := lineOf pa
  let b := lineMask pa n
  let ms := s.masks l
  let clash := privatised ms && ms.any fun (t', m) => t' ≠ t && (m &&& b) ≠ 0
  let s := if clash then s.merge l else s
  if store then
    let ms := s.masks l
    { s with priv := s.priv.put l (Tab.put ms t (Tab.look ms t 0 ||| b)) }
  else s

/-- Every privatised line within [lo, hi) is merged. -/
def State.mergeRange (s : State) (lo hi : Nat) : State :=
  { s with priv := s.priv.filter fun (l, _) => !(lo < l * 128 + 128 && l * 128 < hi) }

/-! WO pages (04 R82). -/

/-- The written-byte mask of a line. -/
def State.writtenMask (s : State) (line : Nat) : BitVec 128 := s.written.look line 0

/-- Whether a WO store touches a byte written since the seal. -/
def State.woDup (s : State) (pa n : Nat) : Bool := (s.writtenMask (lineOf pa) &&& lineMask pa n) ≠ 0

/-- The bytes of a WO store are marked written. -/
def State.woMark (s : State) (pa n : Nat) : State :=
  { s with written := s.written.put (lineOf pa) (s.writtenMask (lineOf pa) ||| lineMask pa n) }

/-- The masks of [lo, hi) are cleared (20 R347; 04 R83: a seal starts a new version). -/
def State.woClear (s : State) (lo hi : Nat) : State :=
  { s with written := s.written.filter fun (l, _) => !(lo ≤ l * 128 && l * 128 < hi) }

/-! The L1 (04 R77). -/

/-- Banks in cache mode, ascending. -/
def Core.cacheBanks (k : Core) : List Nat := (List.range 16).filter fun b => k.bank b = .cache

/-- The L1's copy of the line of a virtual address. -/
def Core.l1 (k : Core) (j : BitVec 16) (va : Nat) : Option Line :=
  k.lines.find? fun l => l.va = va / 128 * 128 && l.job = j

/-- The words of a line, by address / 8, for whose place in it a test holds. -/
def Line.wordsWhere (l : Line) (p : Nat → Bool) : List Nat := ((List.range 16).filter p).map (l.pa / 8 + ·)

/-- Whether word `i` of a line has a dirty byte. -/
def Line.touched (l : Line) (i : Nat) : Bool := (l.dirty.toNat / 2 ^ (8 * i)) % 256 ≠ 0

/-- Whether every byte of word `i` of a line is dirty. -/
def Line.filled (l : Line) (i : Nat) : Bool := (l.dirty.toNat / 2 ^ (8 * i)) % 256 = 255

/-- The bytes that stand at a line's home after its write-back: the dirty ones, or the whole line as the L1 holds it (`all`). -/
def Line.onto (l : Line) (all : Bool) (home : List Byte) : List Byte :=
  (List.range 128).map fun i => if all || l.dirty.getLsbD i then l.data.getD i 0 else home.getD i 0

/-- A dirty line of core `c` is written back to its home by its last writer (04 R84): its dirty bytes, or the whole line where
another core wrote the line back last, so that the home's content is that of the last write-back and the two owners' values
are not merged (20 R348). Its marks go with it (22 R375); a word found uncorrectable in it is charged to its last
writer (R377). The stores it holds have reached the waiters already. A write-back to a sealed page is refused (20 R346)
at the home of a WO page only; IP lines alone are dirty. -/
def State.writeBackLine (c : Nat) (s : State) (l : Line) : State :=
  if l.dirty = 0 then s
  else
    let all := (s.backs.look (lineOf l.pa) c) ≠ c
    let kept := l.wordsWhere fun i => s.pois.contains (l.pa / 8 + i) && !all && !l.filled i
    let bad := l.wordsWhere fun i => (l.pois.getLsbD i && (all || l.touched i)) || l.ue.getLsbD i
    let s := s.homePut l.writer l.pa (l.onto all (s.homeBytes l.pa 128))
    let s := { s with pois := marked s.pois (kept ++ bad), backs := s.backs.put (lineOf l.pa) c }
    if l.ue = 0 then s else s.tell (.ueWrite l.writer l.pa)

/-- Core `c` drops the lines that pass a test, after writing their dirty bytes back. -/
def State.dropLines (s : State) (c : Nat) (p : Line → Bool) : State :=
  let k := s.core c
  let s := (k.lines.filter p).foldl (State.writeBackLine c) s
  s.modCore c fun k => { k with lines := k.lines.filter fun l => !p l }

/-- Every core drops the lines that pass a test. -/
def State.dropAllLines (s : State) (p : Line → Bool) : State :=
  (s.cores.map (·.1)).foldl (fun s c => s.dropLines c p) s

/-- A core's L1 without its RC lines. -/
def Core.dropRc (k : Core) : Core := { k with lines := k.lines.filter fun l => l.ty ≠ .rc }

/-- Core `c` invalidates its RC lines: an acquire of scope CLU or wider (04 R80), and every return that 05 R98 makes
the end of a sw edge. -/
def State.invalidateRc (s : State) (c : Nat) : State := s.modCore c Core.dropRc

/-- The line's copy in the L1 is replaced. -/
def Core.putLine (k : Core) (l : Line) : Core :=
  { k with lines := k.lines.map fun x => if x.va = l.va ∧ x.job = l.job then l else x }

/-- Whether the leaf that SEAL sealed maps the page still, with S set (04 R83): V, L and S, and FRAME. -/
def State.sealHolds (s : State) (x : Seal) : Bool :=
  let e := s.mem.read x.pte 8
  e % 2 = 1 && e / 64 % 4 = 3 && e / 2 ^ 16 % 2 ^ 32 * 2 ^ 16 = x.lo

/-- The seal of the page that a physical address lies in, where SEAL sealed it and it is not reopened (04 R83). -/
def State.sealOf (s : State) (pa : Nat) : Option Seal :=
  s.seals.find? fun x => x.lo ≤ pa && pa < x.hi && s.sealHolds x

/-- Whether a peer finds a page sealed: its reopening has not reached the peers (16 R296). -/
def State.sealedFor (s : State) (pa : Nat) : Bool := s.seals.any fun x => x.lo ≤ pa && pa < x.hi

/-- Whether a copy may be used: its version tag equals the page's VER (04 R83). -/
def State.fresh (s : State) (l : Line) : Bool :=
  l.ty ≠ .wo || (s.sealOf l.pa).all fun x => s.mem.read x.pte 8 / 2 ^ 48 = l.ver.toNat

/-- The copy of a line that core `c` may use. -/
def State.l1 (s : State) (c : Nat) (j : BitVec 16) (va : Nat) : Option Line := ((s.core c).l1 j va).filter s.fresh

/-- Core `c` takes a line in: into a bank with a free way of its set, else in the place of a victim, which the part
is free to choose (04 R77, log entry 8) and which is written back when dirty. -/
def State.l1Fill (s : State) (c : Nat) (l : Line) : State :=
  let k := s.core c
  let set (x : Line) : Nat := x.va / 128 % 32
  let mates := k.lines.filter fun x => set x = set l
  match k.cacheBanks.find? fun b => (mates.filter fun x => x.bank = b).length < 8 with
  | some b => s.modCore c fun k => { k with lines := k.lines ++ [{ l with bank := b }] }
  | none =>
    match mates[Config.l1Victim s.free % mates.length]? with
    | some v =>
      let s := State.writeBackLine c s.useFree v
      s.modCore c fun k =>
        { k with lines := (k.lines.filter fun x => x ≠ v) ++ [{ l with bank := v.bank }] }
    | none => s

/-- Poisoned words of the line at `base`, as the home holds them, by their place in the line. -/
def State.lineMarks (s : State) (base : Nat) : BitVec 16 :=
  (List.range 16).foldl (fun (m : BitVec 16) i => if s.poisoned (base + 8 * i) 8 then m ||| (1#16 <<< i) else m) 0

/-- The line of `va` as its home holds it, filled into core `c`'s L1 where a bank is in cache mode, in the place of a
copy with an old version tag. An SC line is recorded at its home under the address of its first fill (20 R348). -/
def State.fill (s : State) (c : Nat) (j : BitVec 16) (va pa : Nat) (ty : PageTy) (ver : BitVec 16) (rd : Bool) :
    State :=
  if (s.core c).cacheBanks = [] ∨ (s.l1 c j va).isSome then s
  else
    let base := pa / 128 * 128
    let line := va / 128 * 128
    let fills := s.scfill.look (lineOf pa) []
    let known := fills.any fun f => f.1 = j
    let l : Line := { va := line, job := j, bank := 0, frame := pa / 0x10000 * 0x10000,
                      ty := if ty = .sc ∧ known ∧ !fills.contains (j, line) then .rc else ty, ver := ver, rd := rd,
                      data := s.homeBytes base 128, dirty := 0, pois := s.lineMarks base, ue := 0, writer := 0 }
    let s := if ty = .sc ∧ !known then { s with scfill := s.scfill.put (lineOf pa) (fills ++ [(j, line)]) } else s
    let s := s.modCore c fun k => { k with lines := k.lines.filter fun x => !(x.va = line && x.job = j) }
    s.l1Fill c l

/-- Whether an L1 read of `n` bytes at `va` touches a poisoned word. -/
def Line.poisoned (l : Line) (va n : Nat) : Bool :=
  (wordsOf (va % 128) n).any fun w => l.pois.getLsbD w

/-- The value of `n` bytes at `va` in an L1 line. -/
def Line.read (l : Line) (va n : Nat) : Nat := leNat ((l.data.drop (va % 128)).take n)

/-! Local banks (04 R66, R75). -/

/-- The bank of a scratch offset. -/
def bankOf (off : Nat) : Nat := off / 0x8000

/-- Whether a bank is in scratch mode and not changing (04 R66, 20 R354). -/
def Core.scratchBank (k : Core) (b : Nat) : Bool :=
  k.bank b = .scratch && !k.busy.any fun x => x.1 = b

/-- Whether every bank that `n` bytes at `off` touch is in scratch mode. -/
def Core.scratchOk (k : Core) (off n : Nat) : Bool :=
  k.scratchBank (bankOf off) && k.scratchBank (bankOf (off + (n - 1)))

/-- Bytes of a core's local scratch. -/
def State.scrBytes (s : State) (c off n : Nat) : List Byte := (s.core c).scratch.bytes off n

/-- The parts of one store instruction have been written, to ranges of physical memory and of a core's scratch: a word
that they cover together loses its mark, at its home, in the core's L1 and in the scratch (22 R375). -/
def State.storedAll (s : State) (c : Nat) (pas offs : List (Nat × Nat)) : State :=
  let line (l : Line) : Line := { l with pois := (List.range 16).foldl (fun (m : BitVec 16) i =>
    if covers pas (l.pa / 8 + i) then m &&& ~~~ (1#16 <<< i) else m) l.pois }
  let core (k : Core) : Core :=
    { k with spois := k.spois.filter fun w => !covers offs w,
             lines := k.lines.map fun l => if l.pois = 0 then l else line l }
  if s.pois = [] ∧ (s.core c).spois = [] ∧ (s.core c).lines.all (·.pois = 0) then s
  else { s.modCore c core with pois := s.pois.filter fun w => !covers pas w }

/-- Bytes written to a core's local scratch. -/
def State.scrWrite (s : State) (c off : Nat) (bs : List Byte) : State :=
  s.modCore c fun k => { k with scratch := k.scratch.putBytes off bs, spois := clears k.spois off bs.length }

end Sys2Proof.Machine
end

