-- ==== Sys2Proof/Machine/Operands.lean ====
section
/-!
DEFINITION. Operand forms: addresses and their spaces (04 R65, R66; 10 R189), translation through the job's tables
(04 R68 to R73; 20 R343, R344), and the reads and writes of one aligned unit that instructions, engines and
descriptors share.
-/

namespace Sys2Proof.Machine

/-! Address forms. -/

/-- The address of a scalar memory operand: base plus displacement in units of the size (10 R189). -/
def dispAddr (base : Word) (disp : BitVec 6) (size : Nat) : Word :=
  base + disp.signExtend 64 * word size

/-- Where an address leads (04 R65). -/
inductive Space
  | virt (va : Nat)
  | pkg (core off : Nat)
  | dom (dev idx off : Nat)
  | host (idx off : Nat)
  | phys (pa : Nat)
  deriving DecidableEq, Repr

/-- The space and layout of an address, or the cause of breaking it (04 R65; 19 R325: PRIV before the physical
layout). -/
def space (sup : Bool) (a : Word) : Except (BitVec 8) Space :=
  match bits a 61 3 with
  | 0 => if bits a 48 13 = 0 then .ok (.virt (bits a 0 48)) else .error Cause.badAddr
  | 4 => if bits a 52 9 = 0 ∧ bits a 20 23 = 0 ∧ bits a 19 1 = 0 then .ok (.pkg (bits a 43 9) (bits a 0 19))
         else .error Cause.badAddr
  | 5 => .ok (.dom (bits a 49 12) (bits a 40 9) (bits a 0 40))
  | 6 => if bits a 52 9 = 0 then .ok (.host (bits a 40 12) (bits a 0 40)) else .error Cause.badAddr
  | 7 => if !sup then .error Cause.priv
         else if bits a 48 13 = 0 ∧ (isDram (bits a 0 48) ∨ isSave (bits a 0 48)) then .ok (.phys (bits a 0 48))
         else .error Cause.badAddr
  | _ => .error Cause.badAddr

/-- Whether a 64-bit value is a supervisor physical address in the form of 04 R412. -/
def isPhysForm (a : Word) : Bool := bits a 61 3 = 7 && bits a 48 13 = 0

/-- A supervisor physical address, written whole (04 R412). -/
def physForm (pa : Nat) : Word := word (7 * 2 ^ 61 + pa % 2 ^ 48)

/-- A package window address (04 R65). -/
def pkgForm (c off : Nat) : Word := word (2 ^ 63 + c % 512 * 2 ^ 43 + off % 2 ^ 20)

/-- What an access wants of a page or a window: R, W, X, and whether the owner of an IP page is asked for there (an
operation that IP pages refuse is refused with ATTROP first: 19 R325). -/
structure Need where
  r : Bool
  w : Bool
  x : Bool
  o : Bool
  deriving DecidableEq, Repr

/-- A load. -/
def Need.load : Need := ⟨true, false, false, true⟩
/-- A store. -/
def Need.store : Need := ⟨false, true, false, true⟩
/-- An atomic. -/
def Need.amo : Need := ⟨true, true, false, false⟩
/-- SEAL. -/
def Need.seal : Need := ⟨false, true, false, false⟩
/-- PREF (10 R196). -/
def Need.pref : Need := ⟨false, false, false, true⟩
/-- A fetch. -/
def Need.fetch : Need := ⟨false, false, true, true⟩

/-- The party on whose behalf an access is made, with the table registers it was issued under (09 R183). -/
structure Agent where
  core  : Nat
  job   : BitVec 16
  sup   : Bool
  bases : Bases
  deriving DecidableEq, Repr

/-- JTBASE and FATBASE of a core. -/
def Core.bases (k : Core) : Bases := ⟨k.jtbase, k.fatbase⟩

/-- A party of a core, under that core's table registers. -/
def State.party (s : State) (c : Nat) (j : BitVec 16) (sup : Bool) : Agent := ⟨c, j, sup, (s.core c).bases⟩

/-- The issuing strand as the party of an access. -/
def State.agent (s : State) : Agent := s.party s.cur.core s.me.job s.me.sup

/-- The core that a core number reaches: the one now holding the context, where it has been vacated (18 R323). -/
def State.target (s : State) : Nat → Nat → Nat
  | 0, c => c
  | fuel + 1, c => match (s.core c).fwd with
    | some c' => State.target s fuel c'
    | none => c

/-- The core now reached through number `c`. -/
def State.reach (s : State) (c : Nat) : Nat := s.target 512 c

/-- Whether records, wakes, arrivals and steals addressed to a core are held: at its router while it streams its context to
another (18 R320 step 4), or because it is the destination of a context not resumed yet. -/
def State.routerHeld (s : State) (c : Nat) : Bool :=
  s.preempts.any fun p => (p.src = s.reach c && 4 ≤ p.step) || p.dst = s.reach c

/-- Whether accesses to a core's banks are held: while its context streams, or one streams to it (18 R320 step 4). Before that
the destination of a pre-emption performs them, so that its source can drain. -/
def State.bankHeld (s : State) (c : Nat) : Bool :=
  s.preempts.any fun p => 4 ≤ p.step && (p.src = s.reach c || p.dst = s.reach c)

/-- Whether an access to an address by core `c` is held at another core's router. -/
def State.heldAt (s : State) (c : Nat) (a : Word) : Bool :=
  match space true a with
  | .ok (.pkg d _) => d ≠ c && s.bankHeld d
  | _ => false

/-- Whether an engine's access to an address by core `c` waits: held at a router, or the ports have stopped (23 R388). -/
def State.outHeld (s : State) (c : Nat) (a : Word) : Bool :=
  s.heldAt c a || (s.brim.st ≠ .idle && match space true a with
    | .ok (.dom ..) | .ok (.host ..) => true
    | _ => false)

/-- Whether what is addressed to a core is refused by a hood: that of the number, or that of the core which it reaches (22
R381). -/
def State.closed (s : State) (c : Nat) : Bool := s.shut c || s.shut (s.reach c)

/-! Windows (04 R66 checks 1 to 3, 5; 20 R352, R353). -/

/-- The order of the tests of a domain or host window: the offset below the length and the kind granted, then the
revocation (04 R66 check 2; log entry 51). -/
def winCheck (off len : Nat) (r w a revoked : Bool) (nd : Need) : Option (BitVec 8) :=
  if off < len ∧ (if nd.r ∧ nd.w then a else if nd.w then w else r) then
    if revoked then some Cause.revoked else none
  else some Cause.winDeny

/-- The check of a domain window before an access leaves the core. -/
def State.domCheck (s : State) (ag : Agent) (dev idx off n : Nat) (nd : Need) : Option (BitVec 8) :=
  match s.job? ag.job with
  | none => some Cause.winDeny
  | some j =>
    if dev = s.device ∧ 480 ≤ idx then
      match (j.colls.find? (·.1 = idx - 480)).map (·.2) with
      | some c =>
        let w := if c.ty = 1 then 8 else if c.ty = 3 then 2 else 4
        if nd.w ∧ !nd.r ∧ (off + n ≤ c.count * w ∨ (off = 0xFFFFFFFFF8 ∧ n = 8)) then none
        else some Cause.winDeny
      | none => some Cause.winDeny
    else
      match j.notices.find? fun x => x.dev = dev ∧ x.idx = idx with
      | some x => winCheck off x.len x.r x.w x.a x.revoked nd
      | none => some Cause.winDeny

/-- The check of a host window before an access leaves the core. -/
def State.hostCheck (s : State) (ag : Agent) (idx off : Nat) (nd : Need) : Option (BitVec 8) :=
  match (s.job? ag.job).bind fun j => (j.hostwins.find? (·.1 = idx)).map (·.2) with
  | some x => winCheck off x.len x.r x.w x.a x.revoked nd
  | none => some Cause.winDeny

/-- Checks 1 to 3 of a space: hood ownership, window grants, mode of a local bank. -/
def State.windowCheck (s : State) (ag : Agent) (sp : Space) (n : Nat) (nd : Need) : Option (BitVec 8) :=
  match sp with
  | .virt _ | .phys _ => none
  | .pkg c off =>
    if !s.inHoods ag.job c then some Cause.hoodRef
    else if c = ag.core ∧ !(s.core c).scratchOk off n then some Cause.bankMode else none
  | .dom dev idx off => s.domCheck ag dev idx off n nd
  | .host idx off => s.hostCheck ag idx off nd

/-! Tables (04 R68 to R70; 20 R343). -/

/-- What a translation gives: a frame address with the leaf's type, seal, version and owner; a cause; or an entry
that does not translate, with its address, whether it has V = 0 and whether the job parks on it (20 R344). -/
inductive Tr
  | ok (pa : Nat) (ty : PageTy) (sealed : Bool) (ver : BitVec 16) (pte : Nat) (tag : Nat)
  | bad (cause : BitVec 8)
  | invalid (entry : Nat) (v0 park : Bool)
  deriving DecidableEq, Repr

/-- A leaf's or pointer's V bit. -/
def pteV (e : Word) : Bool := bit e 0
/-- L: a leaf. -/
def pteL (e : Word) : Bool := bit e 7
/-- The physical address in FRAME. -/
def pteFrame (e : Word) : Nat := bits e 16 32 * 2 ^ 16
/-- The next table that a pointer names. -/
def pteNext (e : Word) : Nat := bits e 16 32 * 2 ^ 16 + bits e 8 8 * 2 ^ 8
/-- The page type of a leaf. -/
def pteTy (e : Word) : PageTy := pageTyOf (bits e 1 2)
/-- S: sealed. -/
def pteS (e : Word) : Bool := bit e 6
/-- VER of a WO leaf. -/
def pteVer (e : Word) : BitVec 16 := BitVec.ofNat 16 (bits e 48 16)
/-- OWNER of an IP leaf. -/
def pteOwner (e : Word) : Nat := bits e 48 9

/-- Bytes that a leaf at a level maps (04 R68). -/
def pageSize : Nat → Nat
  | 0 => 0x10000 | 1 => 0x200000 | 2 => 0x20000000 | _ => 0x8000000000

/-- The index of a virtual address at a level (04 R68). -/
def levelIndex (va : Nat) : Nat → Nat
  | 0 => va / 2 ^ 16 % 32 | 1 => va / 2 ^ 21 % 256 | 2 => va / 2 ^ 29 % 1024 | _ => va / 2 ^ 39 % 512

/-- Whether an entry at a level translates (04 R69). -/
def pteOk (level : Nat) (e : Word) : Bool :=
  pteV e &&
  (if pteL e then
    level ≠ 3 && pteFrame e % pageSize level = 0 && bits e 8 8 = 0 &&
    (match pteTy e with
      | .wo => true
      | .ip => !pteS e && bits e 57 7 = 0
      | _ => !pteS e && bits e 48 16 = 0)
  else level ≠ 0 && bits e 48 16 = 0 && bits e 1 6 = 0)

/-- The address of a frame's word in the frame attribute table (04 R70). -/
def fatWord (fatbase : Word) (pa : Nat) : Nat := bits fatbase 0 48 + 8 * (pa / 0x10000 / 32)

/-- The type that the frame attribute table gives a 64 KiB frame (04 R70). -/
def State.frameTy (s : State) (fatbase : Word) (pa : Nat) : PageTy :=
  pageTyOf (s.homeRead (fatWord fatbase pa) 8 / 4 ^ (pa / 0x10000 % 32))

/-- The frames that a leaf covers. -/
def leafFrames (e : Word) (level : Nat) : List Nat :=
  (List.range (pageSize level / 0x10000)).map fun i => pteFrame e + i * 0x10000

/-- Whether every frame a leaf covers is DRAM of the leaf's type (04 R70). -/
def State.framesMatch (s : State) (fatbase : Word) (e : Word) (level : Nat) : Bool :=
  (leafFrames e level).all fun f => isDram f && s.frameTy fatbase f = pteTy e

/-- A word of a job's job-table entry (04 R68, 20 R343). -/
def State.jobEntry (s : State) (jtbase : Word) (j : BitVec 16) (i : Nat) : Word :=
  word (s.homeRead (bits jtbase 0 48 + 64 * j.toNat + 8 * i) 8)

/-- Whether words 1 to 4 of a job-table entry have their reserved bits zero (20 R343). -/
def State.jobEntryOk (s : State) (jtbase : Word) (j : BitVec 16) : Bool :=
  bits (s.jobEntry jtbase j 1) 1 63 = 0 && bits (s.jobEntry jtbase j 2) 48 16 = 0 &&
  bits (s.jobEntry jtbase j 2) 0 12 = 0 && bits (s.jobEntry jtbase j 4) 32 32 = 0

/-- XLPARK of a job (20 R343). -/
def State.xlPark (s : State) (jtbase : Word) (j : BitVec 16) : Bool := bit (s.jobEntry jtbase j 1) 0

/-- Whether a walk of a job meets a poisoned word: in its job-table entry, in a table, or in the words of the frame
attribute table for its leaf (22 R376). -/
def State.walkPoisoned (s : State) (b : Bases) (j : BitVec 16) (va : Nat) : Bool :=
  s.pois ≠ [] && (s.poisoned (bits b.jt 0 48 + 64 * j.toNat) 40 ||
    go 4 (bits (s.jobEntry b.jt j 0) 0 48))
where
  go : Nat → Nat → Bool
    | 0, _ => false
    | level + 1, table =>
      let a := table + 8 * levelIndex va level
      let e := word (s.homeRead a 8)
      s.poisoned a 8 || (pteOk level e &&
        if pteL e then (leafFrames e level).any fun f => s.poisoned (fatWord b.fat f) 8 else go level (pteNext e))

/-- A walk from a table at a level: the leaf with its level and address, or the entry that does not translate. The index is
added to a pointer to a next table as it stands, aligned or not (log entry 123). -/
def State.walk (s : State) (va : Nat) : Nat → Nat → Except (Nat × Word) (Word × Nat × Nat)
  | 0, _ => .error (0, 0)
  | fuel + 1, table =>
    let level := fuel
    let a := table + 8 * levelIndex va level
    let e := word (s.homeRead a 8)
    if !pteOk level e then .error (a, e)
    else if pteL e then .ok (e, level, a)
    else State.walk s va fuel (pteNext e)

/-- The translation of `va` for job `j` from the tables (04 R68 to R70): the leaf, its level and its address. -/
def State.walkJob (s : State) (jtbase : Word) (j : BitVec 16) (va : Nat) : Except (Nat × Word) (Word × Nat × Nat) :=
  s.walk va 4 (bits (s.jobEntry jtbase j 0) 0 48)

/-- The physical address within a leaf. -/
def leafPa (e : Word) (level va : Nat) : Nat := pteFrame e + va % pageSize level

/-- Whether a word of the frame attribute table for a leaf is poisoned. -/
def State.fatPoisoned (s : State) (fatbase : Word) (e : Word) (level : Nat) : Bool :=
  s.pois ≠ [] && (leafFrames e level).any fun f => s.poisoned (fatWord fatbase f) 8

/-- Checks of a leaf against an access (04 R70, R72, R84; 22 R376): frame types, permission, ownership. -/
def State.leafCheck (s : State) (fatbase : Word) (core : Nat) (e : Word) (level va : Nat) (nd : Need)
    (pte tag : Nat) : Tr :=
  if s.fatPoisoned fatbase e level then .bad Cause.poison
  else if !s.framesMatch fatbase e level then .bad Cause.attrMis
  else if (nd.r && !bit e 3) || (nd.w && !bit e 4) || (nd.x && !bit e 5) then .bad Cause.perm
  else if nd.o && pteTy e = .ip && pteOwner e ≠ core then .bad Cause.ipOwner
  else .ok (leafPa e level va) (pteTy e) (pteTy e = .wo && pteS e) (if pteTy e = .wo then pteVer e else 0) pte tag

/-- The translation slice of an access (04 R71): from its cache, or by a walk whose result it keeps. A walk that meets
a poisoned word gives its reader POISON (22 R376). -/
def State.translate (s : State) (ag : Agent) (va : Nat) (nd : Need) : State × Tr :=
  let sl := xlSlice (towerOf ag.core) va ag.job
  match s.xlates.find? fun x => x.slice = sl ∧ x.job = ag.job ∧ x.gran = va / 0x10000 with
  | some x => (s, s.leafCheck ag.bases.fat ag.core x.pte x.level va nd 0 x.tag)
  | none =>
    if s.walkPoisoned ag.bases ag.job va then (s, .bad Cause.poison)
    else if !s.jobEntryOk ag.bases.jt ag.job then (s, .bad Cause.xlFault)
    else match s.walkJob ag.bases.jt ag.job va with
      | .error (a, e) => (s, .invalid a (!pteV e) (s.xlPark ag.bases.jt ag.job))
      | .ok (e, level, a) =>
        match s.leafCheck ag.bases.fat ag.core e level va nd a s.serial with
        | .bad c => (s, .bad c)
        | tr => ({ s with xlates := s.xlates ++ [⟨sl, ag.job, va / 0x10000, e, level, s.serial⟩],
                          serial := s.serial + 1 }, tr)

/-! Reads and writes of one aligned unit. -/

/-- How a reader meets the L1: a strand's load hits any line; a load of scope CLU or wider passes RC lines by (10
R190); an engine sees its own core's IP lines only (05 R105, 20 R346). -/
inductive Via | strand | bypass | engine
  deriving DecidableEq, Repr

/-- Whether a reader takes a hit of an L1 line: one of a type it sees, from a leaf that may be read (04 R72). -/
def Via.hits (v : Via) (l : Line) : Bool :=
  l.rd && match v with
    | .strand => true
    | .bypass => l.ty ≠ .rc
    | .engine => l.ty = .ip

/-- What a read or write of one unit gives: the state after it with a value; the cause it fails with; or an entry
that does not translate. -/
inductive Got (α : Type)
  | ok (s : State) (x : α)
  | bad (s : State) (cause : BitVec 8)
  | invalid (s : State) (entry : Nat) (park : Bool)
  deriving DecidableEq, Repr

/-- The job tag of a core's hood against that of a packet that reaches it from another core (16 R286), and the
refusals of a hood that is shut (22 R381), for an access addressed to core `c`. -/
def State.turnsAway (s : State) (ag : Agent) (c : Nat) : Bool :=
  (c ≠ ag.core && s.shut c) || (s.reach c ≠ ag.core && (s.shut (s.reach c) || !s.inHoods ag.job (s.reach c)))

/-- A read performed at the home of an address, or in the L1 that holds an IP line for its owner (04 R84, 05 R105). -/
def State.dataAt (s : State) (ag : Agent) (va pa n : Nat) (ty : PageTy) : Option Nat :=
  match (if ty = .ip then s.l1 ag.core ag.job va else none) with
  | some l => if l.poisoned va n then none else some (l.read va n)
  | none => if s.poisoned pa n then none else some (s.homeRead pa n)

/-- Whether an address is one of the host window space. -/
def isHost (a : Word) : Bool := bits a 61 3 = 6

/-- The cause with which a refusal from outside reaches the access: WINDENY for a host's (20 R353); from a device those
of R352 and of the grantor's translation that 18 R309 gives such an access, ATTROP for an atomic only. -/
def outsideCause (a : Word) (k : AccKind) (c : BitVec 8) : BitVec 8 :=
  let ok := [Cause.xlFault, Cause.perm, Cause.attrMis, Cause.ipOwner, Cause.winDeny, Cause.poison].contains c ||
    (k.isAmo && c == Cause.attrOp)
  if isHost a then Cause.winDeny else if ok then c else Cause.revoked

/-- The cause that a refused posted store to a device or the host is given: one that 18 R309 lists with origin 01. -/
def postedCause (a : Word) (c : BitVec 8) : BitVec 8 :=
  if !isHost a && [Cause.xlFault, Cause.perm, Cause.attrMis, Cause.woSealed, Cause.woDup].contains c then c
  else Cause.revoked

/-- An access of an engine or a load leaves the part, and its answer comes: `n` bytes that are free, or a refusal (log
entries 6 and 17; 20 R352, R353). -/
def State.outside (s : State) (ag : Agent) (a : Word) (n : Nat) (k : AccKind) : Got Nat :=
  let t := (s.send (.access ag.job a k n)).useFree
  match Config.outsideRefuses s.free with
  | some c => .bad t (outsideCause a k c)
  | none => .ok t (s.freeWord.toNat % 2 ^ (8 * n))

/-- A write that leaves the part, and its answer. -/
def State.outsideWrite (s : State) (ag : Agent) (a : Word) (bs : List Byte) : Got Unit :=
  match s.outside ag a bs.length (.store (word (leNat bs))) with
  | .ok s _ => .ok s ()
  | .bad s c => .bad s c
  | .invalid s e p => .invalid s e p

/-- A read of `n` bytes at `va` from the home that translation gives (04 R72, R78; 22 R376). -/
def State.readVirt (s : State) (ag : Agent) (va n : Nat) (via : Via) : Got Nat :=
  match s.l1 ag.core ag.job va with
  | some l =>
    if via.hits l then
      if l.poisoned va n then .bad s Cause.poison else .ok s (l.read va n)
    else go s
  | none => go s
where
  go (s : State) : Got Nat :=
    match s.translate ag va .load with
    | (s, .bad c) => .bad s c
    | (s, .invalid e v0 park) => .invalid s e (v0 && park)
    | (s, .ok pa ty sealed ver _ _) =>
      let s := if ty = .rc then s.privAccess (towerOf ag.core) pa n false else s
      match s.dataAt ag va pa n ty with
      | none => .bad s Cause.poison
      | some v =>
        let s := if (ty = .sc || (ty = .rc && via = .strand) || (ty = .wo && sealed) || ty = .ip) && via ≠ .engine
          then s.fill ag.core ag.job va pa ty ver true else s
        .ok s v

/-- A read of another core's bank, or of the own (04 R66 checks 3, 4; 16 R286; 22 R376, R381). -/
def State.readBank (s : State) (ag : Agent) (c off n : Nat) : Got Nat :=
  let c' := s.reach c
  if s.turnsAway ag c then .bad s Cause.hoodRef
  else if !(s.core c').scratchOk off n then .bad s Cause.bankMode
  else if touches (s.core c').spois off n then .bad s Cause.poison
  else .ok s ((s.core c').scratch.read off n)

/-- A read of one aligned unit through its address's space, after the checks of 10 R189. -/
def State.readAt (s : State) (ag : Agent) (a : Word) (n : Nat) (via : Via) : Got Nat :=
  match space ag.sup a with
  | .error c => .bad s c
  | .ok sp =>
    match s.windowCheck ag sp n .load with
    | some c => .bad s c
    | none =>
      match sp with
      | .virt va => s.readVirt ag va n via
      | .pkg c off => s.readBank ag c off n
      | .dom .. | .host .. => s.outside ag a n (.load false)
      | .phys pa => if s.poisoned pa n then .bad s Cause.poison else .ok s (s.homeRead pa n)

/-- A write to a bank (04 R66 checks 3, 4; 16 R286; 22 R381). -/
def State.writeBank (s : State) (ag : Agent) (c off : Nat) (bs : List Byte) : Got Unit :=
  let c' := s.reach c
  if s.turnsAway ag c then .bad s Cause.hoodRef
  else if !(s.core c').scratchOk off bs.length then .bad s Cause.bankMode
  else .ok (s.scrWrite c' off bs) ()

/-- A write performed at the home of a WO page (04 R82, R83; 20 R346). A page that SEAL has sealed is immutable through
every mapping. -/
def State.writeWo (s : State) (ag : Agent) (pa : Nat) (isSealed : Bool) (bs : List Byte) : Got Unit :=
  if isSealed || (s.sealOf pa).isSome then .bad s Cause.woSealed
  else if s.woDup pa bs.length then .bad s Cause.woDup
  else .ok ((s.woMark pa bs.length).homeWrite ag.job pa bs) ()

/-- Whether the leaf of an address lets the party read (04 R72). -/
def State.readable (s : State) (ag : Agent) (va : Nat) : Bool :=
  match (s.translate ag va .load).2 with
  | .ok .. => true
  | _ => false

/-- A write performed at the home of an SC, RC or IP page, with the issuing core's L1 copy kept as 04 R79, R80
and R84 state. An IP write stays dirty in the owner's L1 where a bank is in cache mode, and wakes the line's monitors
from there (04 R74). -/
def State.writeHome (s : State) (ag : Agent) (va pa : Nat) (ty : PageTy) (bs : List Byte) (viaL1 : Bool) : State :=
  match ty with
  | .rc =>
    own ((s.privAccess (towerOf ag.core) pa bs.length true).homeWrite ag.job pa bs)
  | .ip =>
    let s := if viaL1 then s.fill ag.core ag.job va pa .ip 0 (s.readable ag va) else s
    match (s.core ag.core).l1 ag.job va with
    | some l =>
      let s := s.modCore ag.core fun k => k.putLine { l.patch (l.pa + va % 128) bs with
        dirty := l.dirty ||| lineMask va bs.length, writer := ag.job }
      s.wakeAll s.mem pa bs.length
    | none => s.homeWrite ag.job pa bs
  | .sc => own (s.homeWrite ag.job pa bs)
  | .wo => s.homeWrite ag.job pa bs
where
  own (s : State) : State :=
    match viaL1, (s.core ag.core).l1 ag.job va with
    | true, some l => if l.ty = .rc then s.modCore ag.core fun k => k.putLine (l.patch (l.pa + va % 128) bs) else s
    | _, _ => s

/-- A write of one aligned unit to virtual memory, performed at once: every page type (20 R346). `viaL1` says that
it is a strand's store. -/
def State.writeVirt (s : State) (ag : Agent) (va : Nat) (bs : List Byte) (viaL1 : Bool) : Got Unit :=
  match s.translate ag va .store with
  | (s, .bad c) => .bad s c
  | (s, .invalid e v0 park) => .invalid s e (v0 && park)
  | (s, .ok pa ty isSealed _ _ _) =>
    if ty = .wo then s.writeWo ag pa isSealed bs else .ok (s.writeHome ag va pa ty bs viaL1) ()

/-- A write to the buffer of a collective (16 R298). -/
def State.collWrite (s : State) (job : BitVec 16) (k off : Nat) (bs : List Byte) : State :=
  s.modJob job fun j => match (j.colls.find? fun x => x.1 = k).map fun x => x.2 with
    | some x =>
      let y := { x with buf := x.buf.putBytes off bs, bufp := clears x.bufp off bs.length }
      { j with colls := j.colls.put k y }
    | none => j

/-- A write of one aligned unit through its address's space, performed at once (copies, write-backs, and every store
that is not posted). In the window of a collective all of it goes to the buffer (log entry 127). -/
def State.writeAt (s : State) (ag : Agent) (a : Word) (bs : List Byte) (viaL1 : Bool) : Got Unit :=
  match space ag.sup a with
  | .error c => .bad s c
  | .ok sp =>
    match s.windowCheck ag sp bs.length .store with
    | some c => .bad s c
    | none =>
      match sp with
      | .virt va => s.writeVirt ag va bs viaL1
      | .pkg c off => s.writeBank ag c off bs
      | .dom dev idx off =>
        if dev = s.device ∧ 480 ≤ idx then .ok (s.collWrite ag.job (idx - 480) off bs) ()
        else s.outsideWrite ag a bs
      | .host .. => s.outsideWrite ag a bs
      | .phys pa => .ok (s.homeWrite ag.job pa bs) ()

/-- Where a descriptor read stops: the state, the cause or the entry, and the failing address. -/
inductive Stop
  | bad (cause : BitVec 8) (addr : Word)
  | invalid (entry : Nat) (park : Bool) (addr : Word)

/-- `n` 8-byte words from `a` up in ascending order: by plain loads of the strand (10 R206, 12 R251, R253, R257,
R258; 16 R292), or by an engine at their homes. -/
def State.readWords (s : State) (ag : Agent) (via : Via) (a : Word) : Nat → Except (State × Stop) (State × List Word)
  | 0 => .ok (s, [])
  | n + 1 =>
    match s.readAt ag a 8 via with
    | .bad s c => .error (s, .bad c a)
    | .invalid s e p => .error (s, .invalid e p a)
    | .ok s v =>
      match State.readWords s ag via (a + 8) n with
      | .error x => .error x
      | .ok (s, vs) => .ok (s, word v :: vs)

end Sys2Proof.Machine
end

