-- ==== Sys2Proof/Machine/Counters.lean ====
section
/-!
DEFINITION. Completion counters of launches, graphs, phases and jobs (02 R37 to R43, 12 R258 to R260): what each
event does to a counter, what follows from completion, and the strands that JOIN wakes.
-/

namespace Sys2Proof.Machine

/-- A launch of a job. -/
def Job.launch? (j : Job) (n : Nat) : Option Launch := (j.launches.find? (·.1 = n)).map (·.2)
/-- A graph of a job. -/
def Job.graph? (j : Job) (n : Nat) : Option Graph := (j.graphs.find? (·.1 = n)).map (·.2)
/-- A phase of a job, by number. -/
def Job.phase? (j : Job) (n : Nat) : Option Phase := (j.phases.find? (·.1 = n)).map (·.2)

/-- The counter of a unit that is live. -/
def Job.counter? (j : Job) (lv : Level) (n : Nat) : Option Counter :=
  match lv with
  | .launch => (j.launch? n).map (·.ctr)
  | .graph => (j.graph? n).map (·.ctr)
  | .phase => (j.phase? n).map (·.ctr)
  | .job => some j.ctr

/-- The counter of a job's unit. -/
def State.counter? (s : State) (job : BitVec 16) (lv : Level) (n : Nat) : Option Counter :=
  (s.job? job).bind fun j => j.counter? lv n

/-- The job with a unit's counter replaced. -/
def Job.setCounter (j : Job) (lv : Level) (n : Nat) (c : Counter) : Job :=
  match lv with
  | .launch => match j.launch? n with
    | some l => { j with launches := j.launches.put n { l with ctr := c } }
    | none => j
  | .graph => match j.graph? n with
    | some g => { j with graphs := j.graphs.put n { g with ctr := c } }
    | none => j
  | .phase => match j.phase? n with
    | some p => { j with phases := j.phases.put n { p with ctr := c } }
    | none => j
  | .job => { j with ctr := c }

/-- A unit's counter word: a unit that is not live reads as DONE (12 R259). -/
def State.counterWord (s : State) (job : BitVec 16) (lv : Level) (n : Nat) : Word :=
  match s.counter? job lv n with
  | some c => c.word
  | none => doneWord

/-- A strand returns from JOIN: its destination takes the counter word, late (12 R259). -/
def Strand.joined (t : Strand) (lv : Level) (n : Nat) (w : Word) : Strand :=
  match t.st with
  | .parked (.join lv' n' d l) => if lv' = lv ∧ n' = n then t.late d w l (t.pc + 4) else t
  | _ => t

/-- Every strand of the job parked in JOIN on a unit is woken (03 R49); what the unit's members did is seen after
the return (05 R98). -/
def State.wakeJoins (s : State) (job : BitVec 16) (lv : Level) (n : Nat) (w : Word) : State :=
  let f (t : Strand) : Strand := if t.job = job then t.joined lv n w else t
  let g (k : Core) : Core :=
    let ts := k.strands.map fun x => (x.1, f x.2)
    if ts = k.strands then k else { k.dropRc with strands := ts }
  { s with cores := s.cores.map fun x => (x.1, g x.2) }

/-- A counter less one, with ERR where the member ended so (02 R38, R40). -/
def Counter.dec (c : Counter) (err : Bool) : Counter :=
  let n := c.count - 1
  { c with count := n, err := c.err || err, done := c.done || n = 0 }

/-- The job counter loses a phase. -/
def State.jobDec (s : State) (job : BitVec 16) (err : Bool) : State :=
  match s.counter? job .job 0 with
  | some c =>
    let c := c.dec err
    let s := s.modJob job fun j => { j with ctr := c }
    if c.done then s.wakeJoins job .job 0 c.word else s
  | none => s

/-- Bytes that a log record takes (16 R291). -/
def logSize (payload : List Byte) : Nat := 16 + ceilDiv payload.length 16 * 16

/-- The bytes that records of a log take. -/
def logBytes (rs : List LogRec) : Nat := (rs.map fun r => logSize r.payload).sum

/-- The batt log trimmed to the end of a phase: the records after it stand where they stood. -/
def Job.trim (j : Job) (p : Nat) : Job :=
  let gone := j.log.filter fun r => !decide (p < r.phase)
  { j with boundary := p, log := j.log.filter fun r => decide (p < r.phase),
           logstart := (j.logstart + logBytes gone) % max 1 j.loglen }

/-- A phase's counter takes a decrement; a completed phase becomes the replay boundary and the batt log is trimmed
to it (02 R43). -/
def State.phaseDec (s : State) (job : BitVec 16) (p : Nat) (err : Bool) : State :=
  match s.counter? job .phase p with
  | some c =>
    if c.done then s
    else
      let c := c.dec err
      let s := s.modJob job fun j => j.setCounter .phase p c
      if c.done then
        let s := s.wakeJoins job .phase p c.word
        let s := s.modJob job fun j => { j.trim p with phases := j.phases.del p }
        s.jobDec job c.err
      else s
  | none => s

/-- A graph is complete: its number and its launches' numbers become free, and the wale tiles that name one as their
owner launch are no more those of a launch to come. -/
def State.freeLaunches (s : State) (job : BitVec 16) (g : Nat) : State :=
  let owned (w : Wale) : Bool := w.job = job && match (s.job? job).bind (·.launch? w.lid.toNat) with
    | some l => l.graph = g
    | none => false
  let f (w : Wale) : Wale := if owned w then { w with past := true } else w
  let s : State := { s with wales := s.wales.map fun x : Nat × Wale => (x.1, f x.2) }
  s.modJob job fun j => { j with graphs := j.graphs.del g, launches := j.launches.filter fun x => x.2.graph ≠ g }

/-- A graph's counter takes a decrement. When it completes, its number and its launches' numbers become free. -/
def State.graphDec (s : State) (job : BitVec 16) (g : Nat) (err : Bool) : State :=
  match (s.job? job).bind (·.graph? g) with
  | some gr =>
    let c := gr.ctr.dec err
    let s := s.modJob job fun j => { j with graphs := j.graphs.put g { gr with ctr := c } }
    if c.done then
      let s := s.wakeJoins job .graph g c.word
      let s := s.freeLaunches job g
      s.phaseDec job gr.phase c.err
    else s
  | none => s

/-- Counter arms of a launch lapse when it completes or is cancelled (03 R61). -/
def State.lapseArms (s : State) (job : BitVec 16) (lid : Nat) : State :=
  let g (k : Core) : Core :=
    { k with arms := k.arms.filter fun x => !(x.2.job = job && x.2.lid.toNat = lid) }
  { s with cores := s.cores.map fun x => (x.1, g x.2) }

/-- A launch's counter takes `n` decrements. When it completes, launches that wait for it wait no more, its arms
lapse, JOINs return and its graph counts one less (02 R38). -/
def State.launchDec (s : State) (job : BitVec 16) (lid n : Nat) (err : Bool) : State :=
  match (s.job? job).bind (·.launch? lid) with
  | some l =>
    if l.ctr.done then s
    else
      let m := l.ctr.count - n
      let c : Counter := { l.ctr with count := m, err := l.ctr.err || err, done := m = 0 }
      let s := s.modJob job fun j => { j with launches := j.launches.put lid { l with ctr := c } }
      if c.done then
        let s := s.modJob job fun j =>
          { j with launches := j.launches.map fun x => (x.1, { x.2 with waits := x.2.waits.filter (· ≠ lid) }) }
        let s := (s.lapseArms job lid).wakeJoins job .launch lid c.word
        s.graphDec job l.graph c.err
      else s
  | none => s

/-- A member adds one to its launch, unless a CANCEL has reached the counter: then it is refused (02 R42). -/
def State.launchInc (s : State) (job : BitVec 16) (lid : Nat) : State × Bool :=
  match (s.job? job).bind (·.launch? lid) with
  | some l =>
    if l.ctr.canc then (s, false)
    else if l.ctr.done then (s, true)
    else (s.modJob job fun j => { j with
      launches := j.launches.put lid { l with ctr := { l.ctr with count := l.ctr.count + 1 } } }, true)
  | none => (s, true)

/-- A decrement of a launch on its way to its counter: it arrives at once unless accesses are kept in flight. -/
def State.sendDec (s : State) (job : BitVec 16) (lid : Nat) (err : Bool) : State :=
  if s.split then
    { s with ctrs := s.ctrs ++ [⟨job, .launch, lid, if err then .decErr else .dec⟩] }
  else s.launchDec job lid 1 err

/-- CANC is set on a unit that is not complete (02 R42). -/
def State.markCanc (s : State) (job : BitVec 16) (lv : Level) (n : Nat) : State :=
  match s.counter? job lv n with
  | some c => if c.done then s else s.modJob job fun j => j.setCounter lv n { c with canc := true }
  | none => s

/-- ERR is set on a launch. -/
def State.markErr (s : State) (job : BitVec 16) (lid : Nat) : State :=
  match s.counter? job .launch lid with
  | some c => if c.done then s else s.modJob job fun j => j.setCounter .launch lid { c with err := true }
  | none => s

end Sys2Proof.Machine
end

