-- ==== Sys2Proof/Machine/Ops.lean ====
section
/-!
DEFINITION. The shared operations on strands: leases (02 R25), the end of a strand (12 R255, 02 R41, 22 R383), passing
a row (07 R133), dropping a wale tile (07 R146), cancelling a unit (02 R41), taking a trap (18 R310 to R312) and
returning from one (18 R313).
-/

namespace Sys2Proof.Machine

/-! Leases. -/

/-- The strands of a core that hold a lease. -/
def Core.leases (k : Core) : Nat := ((List.range 16).filter fun n => (k.strand n).vl).length

/-- A strand is granted a lease: the vector set is zeroed (02 R25). -/
def Strand.leased (t : Strand) : Strand := { t with vl := true, regs := t.regs.clearVec }

/-- A lease has been freed: the strand that has waited longest is granted it and returns from VLEASE (02 R25). -/
def Core.grantLease (k : Core) : Core :=
  match k.leaseq with
  | [] => k
  | n :: ns =>
    if k.leases < 4 then
      let t := k.strand n
      { k.setStrand n (t.leased.retire (t.pc + 4)) with leaseq := ns }
    else k

/-! Queue bindings. -/

/-- Records from the words of a mailbox binding, eight words each; a record already popped in part keeps only the
words not popped, and does not return (10 R213, R217). Whether its sender had executed a fence is no longer known: the
record counts as one that follows a fence of scope PKG. -/
def wordsToRecs (ws : List Word) : List Rec := (chunks 8 (ws.length / 8) (ws.drop (ws.length % 8))).map (· ++ [4])

/-- The slot number of a binding whose strand has ended. -/
def noSlot : Nat := 32

/-- Whether QFREE of a binding waits: the unit uses the port (10 R217). -/
def Matrix.usesPort (m : Matrix) (k : QKind) : Bool :=
  match k with
  | .ma => m.tile.any fun t => t.aq
  | .mb => m.load.any fun x => x.src.isNone
  | .mout => m.tile.isSome
  | _ => false

/-- A queue register is unbound (10 R217): a FIFO's bank keeps its words, records diverted and not popped return to
the head of the request mailbox, which may then hold more than 64 (log entry 105). -/
def Core.unbind (k : Core) (q : Nat) : Core :=
  let k' := { k with queues := k.queues.del q }
  match (k.queues.find? (·.1 = q)).map (fun x => x.2.kind) with
  | some (QKind.mbox _ ws) => { k' with mbox := k'.mbox.put 0 (wordsToRecs ws ++ k'.box false) }
  | _ => k'

/-- A binding of a strand that ends is freed, as QFREE does: one of a port in use when the unit is done with it. -/
def Core.unbindEnded (k : Core) (q : Nat) : Core :=
  match (k.queues.find? (·.1 = q)).map fun x => x.2.kind with
  | some kind => if k.matrix.usesPort kind then { k with queues := k.queues.put q ⟨noSlot, kind⟩ } else k.unbind q
  | none => k

/-- The queue registers bound by a slot. -/
def Core.boundBy (k : Core) (slot : Nat) : List Nat := (k.queues.filter fun x => x.2.slot = slot).map (·.1)

/-- Every binding of a strand is freed (10 R213). -/
def Core.unbindAll (k : Core) (slot : Nat) : Core := (k.boundBy slot).foldl Core.unbindEnded k

/-- The unit is done with a port: the bindings that waited for it go. -/
def Core.freePorts (k : Core) : Core := k.unbindAll noSlot

/-- A record comes into a mailbox, or goes to the queue register that its handler index is bound to (10 R213). -/
def Core.takeIn (k : Core) (vn : Bool) (r : Rec) : Core :=
  let mine (x : Nat × QBind) : Bool := match x.2.kind with
    | .mbox h _ => !vn && h.toNat = hdrHidx (recHdr r)
    | _ => false
  match k.queues.find? mine with
  | some (q, ⟨slot, .mbox h ws⟩) => { k with queues := k.queues.put q ⟨slot, .mbox h (ws ++ r.take 8)⟩ }
  | _ => { k with mbox := k.mbox.put (ofB vn) (k.box vn ++ [r]) }

/-- Records spilled from a mailbox come in, oldest first, while it has places (03 R57). -/
def Core.refillBox (vn : Bool) : Nat → Core → Core
  | 0, k => k
  | n + 1, k =>
    match k.boxSpill vn with
    | [] => k
    | r :: rs =>
      if 64 ≤ (k.box vn).length then k
      else Core.refillBox vn n (({ k with mspill := k.mspill.put (ofB vn) rs } : Core).takeIn vn r)

/-- A mailbox takes back what it can of its ring. -/
def Core.refill (k : Core) (vn : Bool) : Core := Core.refillBox vn (k.boxSpill vn).length k

/-! Rows of a tile operation (07 R133). -/

/-- A row that waits enters its buffer when the buffer is free. -/
def Matrix.enter (m : Matrix) : Matrix :=
  match m.held with
  | some b => if (m.bufs.find? (·.1 = b.r % 2)).isSome then m
              else { m with bufs := m.bufs.put (b.r % 2) b, held := none }
  | none => m

/-- The row in buffer `h` is passed: the buffer frees and a row that waits for it enters. -/
def Matrix.pass (m : Matrix) (h : Nat) : Matrix :=
  let t' := m.tile.map fun t => { t with passed := t.passed + 1 }
  ({ m with bufs := m.bufs.del (h % 2), rows := m.rows + 1, tile := t' } : Matrix).enter

/-- The operation in progress faults, unless it has faulted already (21 R359). -/
def Matrix.fail (m : Matrix) (code : BitVec 8) : Matrix :=
  { m with tile := m.tile.map fun t => if t.fault.isSome then t else { t with fault := some code } }

/-! Wale tiles. -/

/-- Slot `i` of the wale arrays, numbered slice·64 + slot. -/
def State.wale (s : State) (i : Nat) : Wale := s.wales.look i Wale.empty

/-- The wale slot that a handle names, where it is one the handle's tile may hold: reserved bits zero (19 R340). -/
def handleSlot (h : Word) : Option (Nat × BitVec 16) :=
  if bits h 32 32 = 0 ∧ bit h 15 = false then
    some (bits h 0 9 * 64 + bits h 9 6, BitVec.ofNat 16 (bits h 16 16))
  else none

/-- Whether a strand is parked in WWAIT on slot `i`. -/
def Strand.awaitsWale (t : Strand) (i : Nat) : Bool :=
  match t.st with
  | .parked (.wale h) => (handleSlot h).map (·.1) = some i
  | _ => false

/-- Strands parked in WWAIT on slot `i` become READY and continue (03 R49); their return ends a sw edge (05 R98). -/
def State.wakeWale (s : State) (i : Nat) : State :=
  let f (t : Strand) : Strand := if t.awaitsWale i then t.retire (t.pc + 4) else t
  let g (k : Core) : Core :=
    if k.strands.any fun x => x.2.awaitsWale i then
      { k.dropRc with strands := k.strands.map fun x => (x.1, f x.2) }
    else k
  { s with cores := s.cores.map fun x => (x.1, g x.2),
           waits := s.waits.filter fun w => !(!w.1 && w.2.1 = 2 ^ 60 + i) }

/-- A tile becomes DEAD (07 R146): its data and staged contributions are discarded, waiters become READY, and an OPEN
tile with a barrier makes an error arrival there. -/
def State.dropTile (s : State) (i : Nat) (code : BitVec 8) : State :=
  let w := s.wale i
  let s := { s with wales := s.wales.put i { w with st := .dead, data := [], staged := [], adds := [] } }
  let s := match w.st, w.bar with
    | .opened, some (c, n) => s.packet w.job (i / 64) c (.errArrive n code)
    | _, _ => s
  s.wakeWale i

/-! FOLLOW (03 R63, R64; 09 R179). -/

/-- The followers of a cluster, as core and slot. -/
def State.followers (s : State) (cl : Nat) : List (Nat × Nat) :=
  (clusterCores cl).flatMap fun c =>
    (allSlots.filter fun n => (s.strand c n).follows).map fun n => (c, n)

/-- The replay in which the lead stream of a core's cluster is. -/
def State.leadReplay (s : State) (c : Nat) : Option Replay :=
  let k := s.core (leaderOf (clusterOf c))
  k.replay.filter fun r => (k.strand r.slot).fl = .lead

/-- Whether a strand is in a replay: its own, what is left of one, or its lead's (08 R158). -/
def State.replays (s : State) (c n : Nat) : Bool :=
  let t := s.strand c n
  ((s.core c).replay.any fun r => r.slot = n) || t.rest.isSome || (t.follows && (s.leadReplay c).isSome)

/-- A follower detaches and resumes its own fetch at `pc`, in a replay of its lead at the iteration and instruction that
are next (log entry 93). One that waits or is parked in an instruction it has executed goes on waiting there, and one that has
still to execute an instruction of its own goes on at that. -/
def State.detach (s : State) (c n : Nat) (pc : Word) : State :=
  let r := (s.leadReplay c).map fun r => { r with slot := n }
  s.modStrand c n fun t =>
    let t' := { t with fl := .none, rest := if t.fl = .follower then r else t.rest }
    if t.runs ∧ t.fl ≠ .owes then { t' with pc := pc, st := .ready } else t'

/-- Every follower of a lead stream on core `c` detaches. -/
def State.detachAll (s : State) (c : Nat) (pc : Word) : State :=
  (s.followers (clusterOf c)).foldl (fun s x => s.detach x.1 x.2 pc) s

/-- A strand leaves its part in a lead stream: followers of a lead detach at `pc`. -/
def State.unlead (s : State) (c n : Nat) (pc : Word) : State :=
  match (s.strand c n).fl with
  | .lead => (s.detachAll c pc).modStrand c n fun t => { t with fl := .none }
  | .none => s
  | .follower => s.detach c n (s.strand c n).pc
  | _ => s.modStrand c n fun t => { t with fl := .none }

/-! The end of a strand. -/

/-- The core's hold on traps is released: strands held go on to take their traps (18 R310, R313). -/
def State.releaseHold (s : State) (c : Nat) : State :=
  let f (t : Strand) : Strand := if t.st = .waiting .trapHold then { t with st := .ready } else t
  s.modCore c fun k => { k with strands := k.strands.map fun x => (x.1, f x.2) }

/-- A strand's journal entries raise no trap any more (18 R315). -/
def Core.orphanJournal (k : Core) (slot : Nat) : Core :=
  { k with journal := k.journal.map fun x => (x.1, if x.2.slot = slot then { x.2 with taken := true } else x.2) }

/-- A replay of the strand in a slot stops, what is left of one too. -/
def Core.stopReplay (k : Core) (slot : Nat) : Core :=
  let k := if (k.strand slot).rest.isSome then k.setStrand slot { k.strand slot with rest := none } else k
  match k.replay with
  | some r => if r.slot = slot then { k with replay := none } else k
  | none => k

/-- The accesses of a strand that go no further when it stops at its instruction: stores not translated yet. -/
def State.dropUntranslated (s : State) (c n : Nat) : State :=
  { s with accs := s.accs.filter fun x =>
      !(x.2.core = c && x.2.slot = n && x.2.kind.isStore && x.2.stage = .xlate false) }

/-- The stores of a strand to its own scratch that are in flight are performed, in program order (22 R383). -/
def State.flushBanks (s : State) (c n : Nat) : State :=
  let mine (x : Nat × Access) : Bool := x.2.core = c && x.2.slot = n && x.2.stage = .bank && x.2.kind.isStore
  let put (s : State) (x : Nat × Access) : State := match x.2.kind with
    | .store v => s.scrWrite c (bits x.2.addr 0 20) (leBytes x.2.size v.toNat)
    | _ => s
  let s' := (s.accs.filter mine).foldl put s
  { s' with accs := s.accs.filter fun x => !mine x }

/-- A slot's strand leaves what its core holds of it: its replay, its place among those that wait for a lease, its
BANKSET. -/
def Core.forget (k : Core) (slot : Nat) : Core :=
  { k.stopReplay slot with leaseq := k.leaseq.filter (· ≠ slot), bankq := k.bankq.filter fun x => x.slot ≠ slot }

/-- The arrivals recorded for a slot at the core's barriers are no more those of the strand in it (03 R50). -/
def Core.forgetArrivals (k : Core) (slot : Nat) : Core :=
  { k with bars := k.bars.map fun x => (x.1, { x.2 with who := x.2.who.filter (· ≠ slot) }) }

/-- Whether an access of a strand has not returned (posted stores, which never fault precisely, apart). -/
def Strand.accOut (t : Strand) : Bool := t.outs.any fun o => o.acc.any fun id => decide (id < 2 ^ 64)

/-- The strand in a slot ends: its lease, bindings, windows, monitor and traps go, its slot becomes FREE, and it
counts no more in its launch (02 R38); a row handler, which is not counted, only leaves its error there (18 R311, 22
R378). `abrupt` is an end other than EXIT: the row it holds makes its operation
fault (21 R361) and its copies' tags will be cleared (02 R41). -/
def State.endStrand (s : State) (c n : Nat) (err abrupt : Bool) : State :=
  let t := s.strand c n
  let s := ((s.unlead c n t.pc).dropUntranslated c n).flushBanks c n
  let s := s.modCore c fun k =>
    let k := (((k.unbindAll n).orphanJournal n).forget n).forgetArrivals n
    let cs := k.copies.map fun x => if abrupt ∧ x.slot = n ∧ x.strid = t.strid then { x with orphan := true } else x
    let mx := if isRow n ∧ t.row.isSome then
        let m := k.matrix.pass (n - 17)
        if abrupt then m.fail FaultCode.handlerLost else m
      else k.matrix
    let k := { k with copies := cs, matrix := mx }
    let k := k.setStrand n (if isRow n then { Strand.empty with regs := t.regs } else Strand.empty)
    if t.vl then k.grantLease else k
  let s := { s with waits := s.waits.filter fun w => !(w.2.2 = (c, n)),
                    moves := s.moves.filter fun m => !(m.src = c && m.slot = n) }
  let s := if t.intrap then s.releaseHold c else s
  if !t.live then s
  else if !isRow n then s.sendDec t.job t.lid.toNat err
  else if err then s.markErr t.job t.lid.toNat else s

/-! Stage rings (02 R45, 03 R58). -/

/-- A stage ring's descriptor, where ring `i` is registered. -/
structure Ring where
  addr : Word
  base : Word
  slots : Nat
  stage : Nat
  head : Nat
  tail : Nat
  low : Nat
  high : Nat

/-- The records of a ring (02 R45). -/
def Ring.occ (r : Ring) : Nat := r.tail - r.head

/-- The address of slot `i` of a ring. -/
def Ring.slot (r : Ring) (i : Nat) : Word := r.base + word (64 * (i % r.slots))

/-- The job of ring `i` of a die, as the weaver's last sample found its register (09 R188). -/
def Weaver.ringJob (w : Weaver) (i : Nat) : BitVec 16 := BitVec.ofNat 16 (bits (w.seen.look i 0) 48 16)

/-- Ring `i` of a core's die, its descriptor read at its home in its job's space: none where it is not registered, or cannot
be read for the core. -/
def State.ring (s : State) (c i : Nat) : Option Ring :=
  let k := s.weaver (towerOf c)
  let w := k.seen.look i 0
  let a := word (bits w 6 42 * 64)
  if !bit w 0 then none
  else match s.readWords (s.party c (k.ringJob i) false) .engine a 5 with
    | .ok (_, d) =>
      some { addr := a, base := d.getD 0 0, slots := bits (d.getD 1 0) 0 32, stage := bits (d.getD 1 0) 32 16,
             head := (d.getD 2 0).toNat, tail := (d.getD 3 0).toNat, low := bits (d.getD 4 0) 0 32,
             high := bits (d.getD 4 0) 32 32 }
    | .error _ => none

/-- The record in the slot of an index. -/
def State.ringRecord (s : State) (c : Nat) (job : BitVec 16) (r : Ring) (i : Nat) : Option Rec :=
  match s.readWords (s.party c job false) .engine (r.slot i) 8 with
  | .ok (_, ws) => some ws
  | .error _ => none

/-- The lowest core of a job on a die, for which the die's weaver reads the job's rings. -/
def State.ringCore (s : State) (die : Nat) (job : BitVec 16) : Option Nat :=
  (s.jobCores job).find? fun c => towerOf c = die

/-- Ring `i` of a die with its job and the core it is read for. -/
def State.dieRing (s : State) (die i : Nat) : Option (BitVec 16 × Nat × Ring) :=
  let job := (s.weaver die).ringJob i
  (s.ringCore die job).bind fun c => (s.ring c i).map fun r => (job, c, r)

/-- Where the records of a launch lie that the rings of a die hold, by ring number and index. -/
def State.ringsOf (s : State) (die : Nat) (job : BitVec 16) (lid : Nat) : List (Nat × Nat) :=
  (List.range 16).flatMap fun i =>
    match s.dieRing die i with
    | some (j, c, r) =>
      let mine (n : Nat) : Bool := !(s.weaver die).gone.contains (i, n) && (s.ringRecord c j r n).any fun x =>
        hdrJob (recHdr x) = job && hdrLid (recHdr x) = lid
      if j = job ∧ r.slots ≠ 0 then ((upFrom r.head (min r.occ r.slots)).filter mine).map fun n => (i, n) else []
    | none => []

/-! CANCEL (02 R41). -/

/-- The header of a deque entry's records. -/
def DqEnt.hdr : DqEnt → Word
  | .one r => recHdr r
  | .range h .. => h

/-- Whether a deque entry belongs to a launch. -/
def DqEnt.of (e : DqEnt) (job : BitVec 16) (lid : Nat) : Bool := hdrJob e.hdr = job && hdrLid e.hdr = lid

/-- The records that a deque entry stands for. -/
def DqEnt.size : DqEnt → Nat
  | .one _ => 1
  | .range _ lo hi .. => hi - lo

/-- Records of a launch in deques, stage rings and spill rings are discarded, each subtracting one. A stage ring's HEAD stays:
the record is passed by when it is taken. -/
def State.dropRecords (s : State) (job : BitVec 16) (lid : Nat) : State :=
  let cut (l : List DqEnt) : List DqEnt := l.filter fun e => !e.of job lid
  let size (l : List DqEnt) : Nat := ((l.filter fun e => e.of job lid).map DqEnt.size).sum
  let n := (s.cores.map fun x => size x.2.deque + size x.2.dspill).sum
  let rs (l : List Rec) : List Rec := l.filter fun r => (DqEnt.one r).of job lid
  let m := (s.weavers.map fun x => (x.2.spill.map fun y => (rs y.2).length).sum).sum
  let keep (l : List Rec) : List Rec := l.filter fun r => !(DqEnt.one r).of job lid
  let fc (k : Core) : Core := { k with deque := cut k.deque, dspill := cut k.dspill }
  let fw (die : Nat) (w : Weaver) : Weaver :=
    { w with spill := w.spill.map fun y => (y.1, keep y.2), gone := w.gone ++ s.ringsOf die job lid }
  let k := (s.weavers.map fun x => (s.ringsOf x.1 job lid).length).sum
  let s := { s with cores := s.cores.map fun x => (x.1, fc x.2), weavers := s.weavers.map fun x => (x.1, fw x.1 x.2) }
  if n + m + k = 0 then s else s.launchDec job lid (n + m + k) false

/-- Whether a slot is kept for a strand that has arrived elsewhere, until its acceptance returns (02 R27). -/
def State.gone (s : State) (c n : Nat) : Bool := s.moves.any fun m => m.src = c && m.slot = n && m.ok = some true

/-- The strands that count in a launch. -/
def State.members (s : State) (job : BitVec 16) (lid : Nat) : List (Nat × Nat) :=
  s.cores.flatMap fun x =>
    (x.2.strands.filter fun y => y.2.live && y.2.job = job && y.2.lid.toNat = lid && !s.gone x.1 y.1).map fun y => (x.1, y.1)

/-- The OPEN tiles of a job that pass a test are dropped: a CANCEL has reached their owner launch or a unit above it (07
R146, 21 R364). -/
def State.dropTiles (s : State) (job : BitVec 16) (p : Wale → Bool) : State :=
  ((s.wales.filter fun x => x.2.st = .opened && x.2.job = job && p x.2).map (·.1)).foldl
    (fun s i => s.dropTile i FaultCode.dropped) s

/-- Whether a tile's owner launch is a live one of these. -/
def Wale.ownedBy (w : Wale) (lids : List Nat) : Bool := !w.past && lids.contains w.lid.toNat

/-- A launch's held launch entry goes. -/
def State.dropEntry (s : State) (job : BitVec 16) (lid : Nat) : State :=
  s.modJob job fun j => match j.launch? lid with
    | some l => { j with launches := j.launches.put lid { l with entry := none } }
    | none => j

/-- Whether a counter takes a CANCEL: not when it is complete, nor a second time (02 R42). -/
def Counter.takesCancel (x : Counter) : Bool := !x.done && !x.canc

/-- A CANCEL reaches a launch (02 R41): CANC is set; records not started are discarded, member strands stop, its OPEN
tiles are dropped (07 R146), its arms lapse. -/
def State.cancelLaunch (s : State) (job : BitVec 16) (lid : Nat) : State :=
  match (s.job? job).bind (·.launch? lid) with
  | none => s
  | some l =>
    if l.ctr.takesCancel then
      let s := (s.markCanc job .launch lid).lapseArms job lid
      let s := match l.entry with
        | some (_, e) => (s.dropEntry job lid).launchDec job lid e.size false
        | none => s
      let s := (s.dropRecords job lid).dropTiles job (·.ownedBy [lid])
      (s.members job lid).foldl (fun s x => s.endStrand x.1 x.2 false true) s
    else s

/-- The launches of a graph. -/
def Job.launchesOf (j : Job) (g : Nat) : List Nat := (j.launches.filter fun x => x.2.graph = g).map (·.1)

/-- The graphs of a phase. -/
def Job.graphsOf (j : Job) (p : Nat) : List Nat := (j.graphs.filter fun x => x.2.phase = p).map (·.1)

/-- A CANCEL reaches a graph and everything beneath it; a tile whose owner launch is complete goes too. -/
def State.cancelGraph (s : State) (job : BitVec 16) (g : Nat) : State :=
  match s.job? job with
  | some j =>
    if (j.graphs.find? (·.1 = g)).any (·.2.ctr.takesCancel) then
      let ls := j.launchesOf g
      (ls.foldl (fun s l => s.cancelLaunch job l) ((s.markCanc job .graph g).dropTiles job (·.ownedBy ls)))
    else s
  | none => s

/-- A CANCEL reaches everything beneath a phase. -/
def State.cancelUnder (s : State) (job : BitVec 16) (p : Nat) : State :=
  ((((s.job? job).map fun j => j.graphsOf p).getD []).foldl (fun s g => s.cancelGraph job g) (s.dropTiles job (·.phase = p)))

/-- A CANCEL reaches a phase and everything beneath it. -/
def State.cancelPhase (s : State) (job : BitVec 16) (p : Nat) : State :=
  match s.job? job with
  | some j =>
    if (j.phases.find? (·.1 = p)).any (·.2.ctr.takesCancel) then (s.markCanc job .phase p).cancelUnder job p else s
  | none => s

/-! Collectives that lose a member (21 R367, R368). -/

/-- A collective of a job. -/
def State.coll? (s : State) (job : BitVec 16) (c : Nat) : Option Coll :=
  (s.job? job).bind fun j => (j.colls.find? fun x => x.1 = c).map fun x => x.2

/-- The state with a collective changed. -/
def State.modColl (s : State) (job : BitVec 16) (c : Nat) (f : Coll → Coll) : State :=
  s.modJob job fun j => match (j.colls.find? fun x => x.1 = c).map fun x => x.2 with
    | some x => { j with colls := j.colls.put c (f x) }
    | none => j

/-- The open generation of a collective completes in an error phase (21 R368). -/
def State.failGen (s : State) (job : BitVec 16) (c : Nat) (code : BitVec 8) : State :=
  match s.coll? job c with
  | none => s
  | some x =>
    let s := s.modColl job c fun x => { x with gen := x.gen + 1, gone := false, parts := x.parts.filter fun p => x.gen + 1 < p.1 }
    s.packet job x.bcore x.bcore (.errArrive x.bnum code)

/-- A collective becomes broken: its open generation, or its next one, ends with MEMBERLOST. -/
def State.breakColl (s : State) (job : BitVec 16) (c : Nat) : State :=
  match s.coll? job c with
  | some x =>
    if x.broken then s
    else (s.modColl job c fun x => { x with broken := true }).failGen job c FaultCode.memberLost
  | none => s

/-- This device's member of a collective is lost: the other members are told. -/
def State.loseMember (s : State) (job : BitVec 16) (c : Nat) : State :=
  match s.coll? job c with
  | some x => (s.send (.loss job c x.rank)).breakColl job c
  | none => s

/-- A CANCEL reaches a unit (02 R41, R42). -/
def State.cancelUnit (s : State) (job : BitVec 16) (lv : Level) (n : Nat) : State :=
  match lv with
  | .launch => s.cancelLaunch job n
  | .graph => s.cancelGraph job n
  | .phase => s.cancelPhase job n
  | .job =>
    match s.job? job with
    | some j =>
      if j.ctr.canc then s
      else
        let s := (j.phases.map fun x => x.1).foldl (fun s p => s.cancelPhase job p)
          ((s.markCanc job .job 0).dropTiles job fun _ => true)
        (j.colls.map fun x => x.1).foldl (fun s c => s.loseMember job c) s
    | none => s

/-! Taking a trap (18 R308 to R312). -/

/-- Whether another strand of the core runs its trap handler. -/
def Core.trapHeld (k : Core) (n : Nat) : Bool :=
  k.strands.any fun x => x.1 ≠ n && x.2.live && x.2.intrap

/-! Ring objects (04 R88). -/

/-- Word `i` of the ring object at a scratch offset. -/
def Core.ringWord (k : Core) (off i : Nat) : Nat := k.scratch.read (off + 8 * i) 8

/-- RD, WR and FILL of a ring. -/
def Core.ringRd (k : Core) (off : Nat) : Nat := k.ringWord off 2 % 2 ^ 32
/-- WR: the next slot to become filled. -/
def Core.ringWr (k : Core) (off : Nat) : Nat := k.ringWord off 2 / 2 ^ 32
/-- FILL: the next slot to be issued a copy. -/
def Core.ringFill (k : Core) (off : Nat) : Nat := k.ringWord off 3 % 2 ^ 32

/-- RD and WR of a ring replaced, modulo 2^32. -/
def Core.setRing (k : Core) (off rd wr : Nat) : Core :=
  { k with scratch := k.scratch.write (off + 16) 8 (rd % 2 ^ 32 + 2 ^ 32 * (wr % 2 ^ 32)) }

/-- WR of a ring passes every completed slot in order, and the copies that filled them leave. -/
def Core.advanceRing (off : Nat) : Nat → Core → Core
  | 0, k => k
  | n + 1, k =>
    match k.copies.find? fun x => x.complete && x.ring = some (off, k.ringWr off) with
    | some x =>
      let k := { k with copies := k.copies.filter (·.id ≠ x.id) }
      Core.advanceRing off n (k.setRing off (k.ringRd off) (k.ringWr off + 1))
    | none => k

/-- A copy's tag is set and the copy leaves (10 R207, R210); that of a cancelled strand is cleared (02 R41). -/
def Core.finishCopy (k : Core) (id : Nat) : Core :=
  match k.copies.find? (·.id = id) with
  | none => k
  | some x =>
    match x.ring with
    | some (off, _) =>
      Core.advanceRing off 16 { k with copies := k.copies.map fun y => if y.id = id then { y with complete := true } else y }
    | none =>
      let b := 1#64 <<< x.tag.val
      { k with tags := if x.orphan then k.tags &&& ~~~ b else k.tags ||| b,
               copies := k.copies.filter (·.id ≠ id) }

/-- What taking an asynchronous trap settles: a failed journal entry may be used again (18 R315); a faulted copy's
tag is set (10 R207), and a ring copy's slot is passed (R210). -/
def Core.trapTaken (k : Core) (i : TrapInfo) : Core :=
  if i.code.toNat / 64 = 1 then
    { k with journal := k.journal.put i.jent.toNat { k.jent i.jent.toNat with taken := true } }
  else match i.copy with
    | some id => k.finishCopy id
    | none => k

/-- A strand takes a trap (18 R310), once its earlier accesses have returned: held while another strand of the core is in
its handler, or the core drains for a pre-emption (18 R324); a double trap when its own is (18 R311). Windows end, EPC,
FADDR and CAUSE record it, the strand becomes supervisor in its handler at TVEC. g registers are unchanged. -/
def State.takeTrap (s : State) (c n : Nat) (i : TrapInfo) (epc : Word) : State :=
  let k := s.core c
  let t := k.strand n
  if t.accOut then s.modStrand c n fun t => { t with st := .blocked }
  else if t.intrap ∧ i.code.toNat / 64 = 0 then s.endStrand c n true true
  else if k.trapHeld n ∨ s.preempted c then
    s.modStrand c n fun t => { t with st := .waiting .trapHold, held := some (i, epc) }
  else
    let s := s.unlead c n t.pc
    let s := s.modCore c fun k =>
      { k.trapTaken i with cause := i.cause, epc := epc, faddr := i.faddr }
    let s := { s with waits := s.waits.filter fun w => !((w.1 || 2 ^ 60 ≤ w.2.1) && w.2.2 = (c, n)) }
    s.modStrand c n fun t => { t.closeWindows with
      st := .ready, held := none, sup := true, intrap := true, pc := k.tvec &&& ~~~ 3#64, age := 0,
      pfail := t.pfail || i.code = Cause.pFail }

/-- A precise trap of the issuing strand: Trap(cause, addr) of 00 R9. -/
def State.trap (s : State) (cause : BitVec 8) (addr : Word) : State :=
  s.takeTrap s.cur.core s.cur.slot ⟨cause, 0, none, addr, none⟩ s.me.pc

/-- A precise trap whose FADDR is the pc. -/
def State.trapPc (s : State) (cause : BitVec 8) : State := s.trap cause s.me.pc

/-- An asynchronous trap is raised for a strand: it is taken at a later boundary (18 R312). -/
def State.raise (s : State) (c n : Nat) (i : TrapInfo) : State :=
  s.modStrand c n fun t => { t with traps := t.traps ++ [i] }

/-- The asynchronous trap that a strand takes next: the oldest, or PFAIL alone while an RPT of the strand is
replaying (19 R330), and after detection of a supply loss, which stops every strand but the declarer (23 R392). A trap
that is held is taken first, as it was raised (18 R310). -/
def State.nextAsync (s : State) (c n : Nat) : Option TrapInfo :=
  let t := s.strand c n
  let replaying := s.replays c n
  if t.intrap ∨ !t.live ∨ t.held.isSome ∨ s.preempted c then none
  else if replaying ∨ s.brim.st ≠ .idle then t.traps.find? fun i => i.code = Cause.pFail
  else t.traps.head?

/-- A strand takes its next asynchronous trap, its wait abandoned where it waits (18 R312), once its accesses have
returned (08 R156): until then it executes nothing more. The replay that PFAIL cuts short is not executed further (19
R330). -/
def State.takeAsync (s : State) (c n : Nat) : State :=
  match s.nextAsync c n with
  | none => s
  | some i =>
    let t := s.strand c n
    match t.st with
    | .moving _ | .stopped | .free => s
    | .waiting (.wale _) => if i.code = Cause.pFail then go i t else s
    | _ => go i t
where
  go (i : TrapInfo) (t : Strand) : State :=
    if t.accOut then (if t.runs then s.modStrand c n fun t => { t with st := .blocked } else s)
    else
      let s := if s.replays c n then s.unlead c n t.pc else s
      let s := { (s.dropUntranslated c n).modCore c fun k => k.forget n with
        wreqs := s.wreqs.filter fun x => !(decide (t.st = SlotSt.waiting (.wale x.1))) }
      (s.modStrand c n fun t => { t with traps := t.traps.erase i, st := .ready }).takeTrap c n i t.pc

/-- Return from the trap handler (18 R313): user mode, at EPC; the core's hold on traps is released, and a
misaligned EPC traps at its target as 09 R177 states. -/
def State.eret (s : State) : State :=
  let epc := s.mine.epc
  let s := s.modMe fun t => { t.retire epc with intrap := false, sup := false, pfail := false }
  let s := s.releaseHold s.cur.core
  if epc.toNat % 4 ≠ 0 then s.trap Cause.badAddr epc else s

/-- The slice whose wait table holds an entry: the home of the page-table entry or of the monitored line, or the
slice of the wale tile waited for. -/
def waitSlice (w : Bool × Nat × Nat × Nat) : Nat :=
  if w.1 then homeOf w.2.1 else if 2 ^ 60 ≤ w.2.1 then (w.2.1 - 2 ^ 60) / 64 else homeOf (w.2.1 * 128)

/-- The entries of a slice's wait table, the ones taken first leading; those beyond 512 are spilled (20 R356). -/
def State.waitsAt (s : State) (slice : Nat) : List (Bool × Nat × Nat × Nat) :=
  s.waits.filter fun w => waitSlice w = slice

/-- The entries of a job spilled from a slice's wait table to the job's wait ring there. -/
def State.waitSpilled (s : State) (job : BitVec 16) (slice : Nat) : Nat :=
  (((s.waitsAt slice).drop 512).filter fun w => (s.strand w.2.2.1 w.2.2.2).job = job).length

/-! Spill units (20 R343, R355, R356). -/

/-- The units that `n` spilled entries take. -/
def unitsOf (n : Nat) : Nat := ceilDiv n 64

/-- The units of a job's spill area in use: deques and mailboxes of its cores, its stage rings, and its wait rings,
which are charged to it together. -/
def State.spillUnits (s : State) (job : BitVec 16) : Nat :=
  let core (k : Core) : Nat :=
    unitsOf k.dspill.length + unitsOf (k.boxSpill false).length + unitsOf (k.boxSpill true).length
  let ring (w : Weaver) (x : Nat × List Rec) : Nat :=
    if bits (w.seen.look x.1 0) 48 16 = job.toNat then unitsOf x.2.length else 0
  (s.cores.map fun x => if s.coreJob x.1 = job then core x.2 else 0).sum +
    (s.weavers.map fun x => (x.2.spill.map (ring x.2)).sum).sum +
    ((s.waits.map waitSlice).eraseDups.map fun sl => unitsOf (s.waitSpilled job sl)).sum

/-- Whether a queue may grow from `a` to `b` spilled entries within its quota and the job's spill area. -/
def State.spillOk (s : State) (jtbase : Word) (job : BitVec 16) (a b quota : Nat) : Bool :=
  unitsOf b ≤ quota && s.spillUnits job - unitsOf a + unitsOf b ≤ bits (s.jobEntry jtbase job 4) 0 32

/-- Whether the wait table of a slice can take one more entry for the job: 512 held, then the job's wait ring within
WQ and the spill area (20 R356). -/
def State.waitRoom (s : State) (jtbase : Word) (job : BitVec 16) (slice : Nat) : Bool :=
  let n := s.waitSpilled job slice
  (s.waitsAt slice).length < 512 || s.spillOk jtbase job n (n + 1) (bits (s.jobEntry jtbase job 3) 48 16)

/-- The issuing strand meets an entry that does not translate: it parks or traps with XLFAULT (20 R344, R345). -/
def State.invalidAt (s : State) (entry : Nat) (park : Bool) (addr : Word) : State :=
  if park ∧ isGeneral s.cur.slot ∧ !s.me.intrap then
    if s.waitRoom s.mine.jtbase s.me.job (homeOf entry) then
      { s.park (.xlate entry) with waits := s.waits ++ [(true, entry, s.cur.core, s.cur.slot)] }
    else (s.tell (.waitQuota s.me.job (homeOf entry))).trap Cause.xlFault addr
  else s.trap Cause.xlFault addr

/-- A read that stopped, for the issuing strand. -/
def Stop.land (s : State) : Stop → State
  | .bad c a => s.trap c a
  | .invalid e p a => s.invalidAt e p a

/-- A unit access that did not succeed, for the issuing strand; a success goes to `k`. -/
def Got.land {α : Type} (r : Got α) (addr : Word) (k : State → α → State) : State :=
  match r with
  | .ok s x => k s x
  | .bad s c => s.trap c addr
  | .invalid s e p => s.invalidAt e p addr

end Sys2Proof.Machine
end

