-- ==== Sys2Proof/Machine/Fetch.lean ====
section
/-!
DEFINITION. Fetching an instruction word (08 R149, 09 R178, 20 R346).
-/

namespace Sys2Proof.Machine

/-- The word at an address, fetched for a party: from virtual memory with X, or from supervisor physical space in
supervisor mode; any other space is BADADDR (09 R178). Fetches are read where translation leads, an IP page's
through the owner's L1 (log entry 12). -/
def State.fetch (s : State) (ag : Agent) (pc : Word) : Got (BitVec 32) :=
  match space ag.sup pc with
  | .error c => .bad s c
  | .ok (.phys pa) => if s.poisoned pa 4 then .bad s Cause.poison else .ok s (BitVec.ofNat 32 (s.homeRead pa 4))
  | .ok (.virt va) =>
    match s.translate ag va .fetch with
    | (s, .bad c) => .bad s c
    | (s, .invalid e v0 park) => .invalid s e (v0 && park)
    | (s, .ok pa ty _ _ _ _) =>
      if ty = .wo then .bad s Cause.attrOp
      else
        let s := if ty = .rc then s.privAccess (towerOf ag.core) pa 4 false else s
        match s.dataAt ag va pa 4 ty with
        | none => .bad s Cause.poison
        | some w => .ok s (BitVec.ofNat 32 w)
  | .ok _ => .bad s Cause.badAddr

/-- `n` words from `pc` up, in ascending order, with the first that cannot be fetched (08 R157). -/
def State.fetchWords (s : State) (ag : Agent) (pc : Word) : Nat → Except (State × Stop) (State × List (BitVec 32))
  | 0 => .ok (s, [])
  | n + 1 =>
    match s.fetch ag pc with
    | .bad s c => .error (s, .bad c pc)
    | .invalid s e p => .error (s, .invalid e p pc)
    | .ok s w =>
      match State.fetchWords s ag (pc + 4) n with
      | .error x => .error x
      | .ok (s, ws) => .ok (s, w :: ws)

end Sys2Proof.Machine
end

