-- ==== Sys2Proof/Machine/Control.lean ====
section
/-!
DEFINITION. Branches, jumps and returns (09 R175 to R177), RPT (08 R157, R158), FOLLOW and UNFOLLOW (09 R179).
-/

namespace Sys2Proof.Machine

/-- A compare-and-branch (09 R175). -/
def State.branch (s : State) (cond : Bool) (p : BitVec 18) : State :=
  s.goto (if cond then s.me.pc + p.signExtend 64 * 4 else s.me.pc + 4)

/-- BEQ. -/
def execBeq (a b : GReg) (p : BitVec 18) (s : State) : Res := .next (s.branch (s.rg a == s.rg b) p)
/-- BNE. -/
def execBne (a b : GReg) (p : BitVec 18) (s : State) : Res := .next (s.branch (s.rg a != s.rg b) p)
/-- BLT, signed. -/
def execBlt (a b : GReg) (p : BitVec 18) (s : State) : Res := .next (s.branch ((s.rg a).slt (s.rg b)) p)
/-- BGE, signed. -/
def execBge (a b : GReg) (p : BitVec 18) (s : State) : Res := .next (s.branch (!(s.rg a).slt (s.rg b)) p)
/-- BLTN, unsigned. -/
def execBltn (a b : GReg) (p : BitVec 18) (s : State) : Res := .next (s.branch ((s.rg a).ult (s.rg b)) p)
/-- BGEN, unsigned. -/
def execBgen (a b : GReg) (p : BitVec 18) (s : State) : Res := .next (s.branch (!(s.rg a).ult (s.rg b)) p)

/-- The target of a J-form word (08 R162). -/
def State.jTarget (s : State) (p : BitVec 26) : Word := s.me.pc + p.signExtend 64 * 4

/-- JMP (09 R176). -/
def execJmp (p : BitVec 26) (s : State) : Res := .next (s.goto (s.jTarget p))

/-- The issuing strand writes the link register and jumps. -/
def State.link (s : State) (t : Word) : State := s.modMe fun m => (m.wg 15 (m.pc + 4)).retire t

/-- CALL: g15 takes pc + 4 (09 R176). -/
def execCall (p : BitVec 26) (s : State) : Res := .next (s.link (s.jTarget p))

/-- JR: a misaligned target traps with pc unchanged (09 R177). -/
def execJr (a : GReg) (s : State) : Res :=
  let t := s.rg a
  .next (if bits t 0 2 ≠ 0 then s.trap Cause.badAddr t else s.goto t)

/-- CALLR: g15 is written after ga is read (09 R177). -/
def execCallr (a : GReg) (s : State) : Res :=
  let t := s.rg a
  .next (if bits t 0 2 ≠ 0 then s.trap Cause.badAddr t else s.link t)

/-- RET: as JR of g15 (09 R177). -/
def execRet (s : State) : Res :=
  let t := s.rg 15
  .next (if bits t 0 2 ≠ 0 then s.trap Cause.badAddr t else s.goto t)

/-! RPT. -/

/-- Whether a word may stand in a body (08 R157): a legal word of majors 0x01 to 0x0A, 0x30 to 0x32, or CKCLR, CKA
or CKAF. -/
def bodyOk (w : BitVec 32) : Bool :=
  let m := bits w 26 6
  (match decode w with
    | .ok _ => true
    | .error _ => false) &&
  ((1 ≤ m && m ≤ 0x0A) || (0x30 ≤ m && m ≤ 0x32) || (m = 0x34 && bits w 0 4 < 3))

/-- Whether a body word is a vector or checksum instruction. -/
def bodyVec (w : BitVec 32) : Bool := 0x30 ≤ bits w 26 6

/-- Whether a strand may use vector state: it holds a lease, or is a row handler with its dedicated set (02 R25, 07
R135). -/
def hasVec (slot : Nat) (t : Strand) : Bool := t.vl || isRow slot

/-- The pc of the lead stream of a core's cluster. -/
def State.leadPc (s : State) (c : Nat) : Word :=
  (((s.core (leaderOf (clusterOf c))).strands.find? fun x => x.2.fl = .lead).map fun x => x.2.pc).getD 0

/-- RPT (08 R157, R158): body tests in the order fetch fault, RPTBAD, NOLEASE; then the wait for the sequencer
buffer; then the replay begins, or pc passes the body when the count is 0. A follower takes part in its lead's replay
and begins none of its own. -/
def execRpt (len : Fin 16) (a : GReg) (sd sa sb : Fin 32) (s : State) : Res :=
  let n := len.val + 1
  let t := s.me
  let count := bits (s.rg a) 0 12
  match s.fetchWords s.agent (t.pc + 4) n with
  | .error (s, st) => .next (st.land s)
  | .ok (s, ws) =>
    .next (
      if !ws.all bodyOk then s.trapPc Cause.rptBad
      else if ws.any bodyVec && !hasVec s.cur.slot t then s.trapPc Cause.noLease
      else if t.follows then s.goto (s.leadPc s.cur.core)
      else if s.mine.replay.any fun r => r.slot ≠ s.cur.slot then s.block
      else if count = 0 then s.goto (t.pc + 4 + 4 * word n)
      else
        let r : Replay := ⟨s.cur.slot, ws, count, 0, 0, sd.val, sa.val, sb.val⟩
        (s.goto t.pc).modMine fun k => { k with replay := some r })

/-- A g field strided. -/
def strG (d : GReg) (n : Nat) : GReg := Fin.ofNat 16 (d.val + n)

/-- A v field strided. -/
def strV (d : VReg) (n : Nat) : VReg := Fin.ofNat 32 (d.val + n)

/-- Stride(w, i) with the strides multiplied by i (08 R157): register fields that the instruction reads or writes as
g or v registers move; every other field stays. An instruction that no body holds is left as it is. -/
def strided (d a b : Nat) : Instr → Instr
  | .add x y z => .add (strG x d) (strG y a) (strG z b)
  | .sub x y z => .sub (strG x d) (strG y a) (strG z b)
  | .mul x y z => .mul (strG x d) (strG y a) (strG z b)
  | .mulh x y z => .mulh (strG x d) (strG y a) (strG z b)
  | .mulhn x y z => .mulhn (strG x d) (strG y a) (strG z b)
  | .div x y z => .div (strG x d) (strG y a) (strG z b)
  | .divn x y z => .divn (strG x d) (strG y a) (strG z b)
  | .rem x y z => .rem (strG x d) (strG y a) (strG z b)
  | .remn x y z => .remn (strG x d) (strG y a) (strG z b)
  | .and x y z => .and (strG x d) (strG y a) (strG z b)
  | .or x y z => .or (strG x d) (strG y a) (strG z b)
  | .xor x y z => .xor (strG x d) (strG y a) (strG z b)
  | .andn x y z => .andn (strG x d) (strG y a) (strG z b)
  | .orn x y z => .orn (strG x d) (strG y a) (strG z b)
  | .shl x y z => .shl (strG x d) (strG y a) (strG z b)
  | .shr x y z => .shr (strG x d) (strG y a) (strG z b)
  | .sra x y z => .sra (strG x d) (strG y a) (strG z b)
  | .rot x y z => .rot (strG x d) (strG y a) (strG z b)
  | .clz x y => .clz (strG x d) (strG y a)
  | .ctz x y => .ctz (strG x d) (strG y a)
  | .popc x y => .popc (strG x d) (strG y a)
  | .min x y z => .min (strG x d) (strG y a) (strG z b)
  | .max x y z => .max (strG x d) (strG y a) (strG z b)
  | .minn x y z => .minn (strG x d) (strG y a) (strG z b)
  | .maxn x y z => .maxn (strG x d) (strG y a) (strG z b)
  | .slt x y z => .slt (strG x d) (strG y a) (strG z b)
  | .sltn x y z => .sltn (strG x d) (strG y a) (strG z b)
  | .seq x y z => .seq (strG x d) (strG y a) (strG z b)
  | .sel x y z => .sel (strG x d) (strG y a) (strG z b)
  | .bfx x y z => .bfx (strG x d) (strG y a) (strG z b)
  | .bfi x y z => .bfi (strG x d) (strG y a) (strG z b)
  | .addi x y i => .addi (strG x d) (strG y a) i
  | .andi x y i => .andi (strG x d) (strG y a) i
  | .ori x y i => .ori (strG x d) (strG y a) i
  | .xori x y i => .xori (strG x d) (strG y a) i
  | .shli x y n => .shli (strG x d) (strG y a) n
  | .shri x y n => .shri (strG x d) (strG y a) n
  | .srai x y n => .srai (strG x d) (strG y a) n
  | .slti x y i => .slti (strG x d) (strG y a) i
  | .sltni x y i => .sltni (strG x d) (strG y a) i
  | .li x i => .li (strG x d) i
  | .lis x i => .lis (strG x d) i
  | .vadd x y z k t => .vadd (strV x d) (strV y a) (strV z b) k t
  | .vsub x y z k t => .vsub (strV x d) (strV y a) (strV z b) k t
  | .vmul x y z k t => .vmul (strV x d) (strV y a) (strV z b) k t
  | .vmulh x y z k t => .vmulh (strV x d) (strV y a) (strV z b) k t
  | .vmin x y z k t => .vmin (strV x d) (strV y a) (strV z b) k t
  | .vmax x y z k t => .vmax (strV x d) (strV y a) (strV z b) k t
  | .vand x y z k t => .vand (strV x d) (strV y a) (strV z b) k t
  | .vor x y z k t => .vor (strV x d) (strV y a) (strV z b) k t
  | .vxor x y z k t => .vxor (strV x d) (strV y a) (strV z b) k t
  | .vshl x y z k t => .vshl (strV x d) (strV y a) (strV z b) k t
  | .vshr x y z k t => .vshr (strV x d) (strV y a) (strV z b) k t
  | .vsra x y z k t => .vsra (strV x d) (strV y a) (strV z b) k t
  | .vabs x y k t => .vabs (strV x d) (strV y a) k t
  | .vneg x y k t => .vneg (strV x d) (strV y a) k t
  | .vcmp c q y z k t => .vcmp c q (strV y a) (strV z b) k t
  | .vsel x y z k t => .vsel (strV x d) (strV y a) (strV z b) k t
  | .vfadd x y z k t => .vfadd (strV x d) (strV y a) (strV z b) k t
  | .vfsub x y z k t => .vfsub (strV x d) (strV y a) (strV z b) k t
  | .vfmul x y z k t => .vfmul (strV x d) (strV y a) (strV z b) k t
  | .vfma x y z k t => .vfma (strV x d) (strV y a) (strV z b) k t
  | .vfms x y z k t => .vfms (strV x d) (strV y a) (strV z b) k t
  | .vfmin x y z k t => .vfmin (strV x d) (strV y a) (strV z b) k t
  | .vfmax x y z k t => .vfmax (strV x d) (strV y a) (strV z b) k t
  | .vfabs x y k t => .vfabs (strV x d) (strV y a) k t
  | .vrcp x y k t => .vrcp (strV x d) (strV y a) k t
  | .vrsq x y k t => .vrsq (strV x d) (strV y a) k t
  | .vexp2 x y k t => .vexp2 (strV x d) (strV y a) k t
  | .vlog2 x y k t => .vlog2 (strV x d) (strV y a) k t
  | .vfcmp c q y z k t => .vfcmp c q (strV y a) (strV z b) k t
  | .vbcast x g k t => .vbcast (strV x d) g k t
  | .vext x y g t => .vext x (strV y a) g t
  | .vins x g h k t => .vins (strV x d) g h k t
  | .vperm x y z k t => .vperm (strV x d) (strV y a) (strV z b) k t
  | .vslide x y g k t => .vslide (strV x d) (strV y a) g k t
  | .vredadd x y k t => .vredadd (strV x d) (strV y a) k t
  | .vredfadd x y k t => .vredfadd (strV x d) (strV y a) k t
  | .vredmax x y k t => .vredmax (strV x d) (strV y a) k t
  | .vredfmax x y k t => .vredfmax (strV x d) (strV y a) k t
  | .vcvtInt x y c r t => .vcvtInt (strV x d) (strV y a) c r t
  | .vcvtFloat x y c r t => .vcvtFloat (strV x d) (strV y a) c r t
  | .vqmx x y r t => .vqmx (strV x d) (strV y a) r t
  | .vdqmx x y t => .vdqmx (strV x d) (strV y a) t
  | .vpack x y z k t => .vpack (strV x d) (strV y a) (strV z b) k t
  | .vunpack x y h k t => .vunpack (strV x d) (strV y a) h k t
  | .cka c y k t => .cka c (strV y a) k t
  | .ckaf c y k t => .ckaf c (strV y a) k t
  | i => i

/-- The word that a replay issues next, with its strides applied. -/
def Replay.instr (r : Replay) : Option Instr :=
  match decode (r.body.getD r.j 0) with
  | .ok i => some (strided (r.i * r.sd) (r.i * r.sa) (r.i * r.sb) i)
  | .error _ => none

/-- The replay after one issue: the next word, or the next iteration, or nothing at its end. -/
def Replay.next (r : Replay) : Option Replay :=
  if r.j + 1 < r.body.length then some { r with j := r.j + 1 }
  else if r.i + 1 < r.count then some { r with i := r.i + 1, j := 0 }
  else none

/-! FOLLOW and UNFOLLOW. -/

/-- FOLLOW (03 R63, 09 R179, 19 R327): a strand of the leader core leads, one of another core waits for a lead. -/
def execFollow (s : State) : Res :=
  let k := s.mine
  .next (
    if !isGeneral s.cur.slot then s.trapPc Cause.hPark
    else if s.me.intrap then s.advance
    else if leaderOf (clusterOf s.cur.core) = s.cur.core then
      if k.strands.any fun x => x.2.fl = .lead then s.advance
      else s.advance.modMe fun t => { t with fl := .lead }
    else if k.strands.any fun x => x.2.follows ∨ x.2.fl = .waitLead then s.advance
    else s.advance.modMe fun t => { t with fl := .waitLead })

/-- UNFOLLOW (03 R64, 09 R179): a lead releases every follower at the pc after it, a follower ends its following. -/
def execUnfollow (s : State) : Res :=
  .next (
    if !isGeneral s.cur.slot then s.trapPc Cause.hPark
    else if s.me.intrap then s.advance
    else (s.unlead s.cur.core s.cur.slot (s.me.pc + 4)).advance)

end Sys2Proof.Machine
end

