-- ==== Sys2Proof/Machine/Float.lean ====
section
/-!
DEFINITION. Number formats: the values of integer and float codes (06 R108 to R113), exact arithmetic on them, one
rounding (R116 to R119), and the stochastic numbers (R117). A result that is not a dyadic number is carried with so
many bits, and a last bit that says something was cut off, that every rounding of it is that of the exact result.
-/

namespace Sys2Proof.Machine

/-- A float value: a NaN, an infinity, or (-1)^neg · m · 2^e. -/
inductive Fp
  | nan
  | inf (neg : Bool)
  | fin (neg : Bool) (m : Nat) (e : Int)
  deriving DecidableEq, Repr

/-! Formats (06 R111). -/

/-- E: the exponent field's width. -/
def fltE : FltTy → Nat
  | .f32 => 8 | .f16 => 5 | .bf16 => 8 | .e4m3 => 4 | .e5m2 => 5 | .e2m3 => 2 | .e3m2 => 3 | .e2m1 => 2 | .e8m0 => 8

/-- M: the mantissa field's width. -/
def fltM : FltTy → Nat
  | .f32 => 23 | .f16 => 10 | .bf16 => 7 | .e4m3 => 3 | .e5m2 => 2 | .e2m3 => 3 | .e3m2 => 2 | .e2m1 => 1 | .e8m0 => 0

/-- The bias. -/
def fltBias : FltTy → Int
  | .f32 => 127 | .f16 => 15 | .bf16 => 127 | .e4m3 => 7 | .e5m2 => 15 | .e2m3 => 1 | .e3m2 => 3 | .e2m1 => 1
  | .e8m0 => 127

/-- The code of the largest finite value. -/
def fltBig : FltTy → Nat
  | .f32 => 0x7F7FFFFF | .f16 => 0x7BFF | .bf16 => 0x7F7F | .e4m3 => 0x7E | .e5m2 => 0x7B | .e2m3 => 0x1F
  | .e3m2 => 0x1F | .e2m1 => 7 | .e8m0 => 0xFE

/-- The canonical NaN (06 R112), where the format has one. -/
def fltNan : FltTy → Option Nat
  | .f32 => some 0x7FC00000 | .f16 => some 0x7E00 | .bf16 => some 0x7FC0 | .e4m3 => some 0x7F | .e5m2 => some 0x7E
  | .e8m0 => some 0xFF | _ => none

/-- Whether a format has infinities. -/
def fltInf : FltTy → Bool
  | .f32 | .f16 | .bf16 | .e5m2 => true
  | _ => false

/-- The lane width of a float type: 6-bit formats take 8-bit lanes (06 R114). -/
def fltLane : FltTy → Nat
  | .f32 => 32 | .f16 => 16 | .bf16 => 16 | .e2m1 => 4 | _ => 8

/-- The exponent of the smallest normal value. -/
def fltMin (t : FltTy) : Int := 1 - fltBias t

/-- The value of a code (06 R111, R112). -/
def fpOf (t : FltTy) (c : Nat) : Fp :=
  let E := fltE t
  let M := fltM t
  let neg := c / 2 ^ (E + M) % 2 = 1
  let e := c / 2 ^ M % 2 ^ E
  let m := c % 2 ^ M
  match t with
  | .e8m0 => if e = 255 then .nan else .fin false 1 ((e : Int) - 127)
  | _ =>
    if fltInf t ∧ e = 2 ^ E - 1 then (if m = 0 then .inf neg else .nan)
    else if t = .e4m3 ∧ e = 15 ∧ m = 7 then .nan
    else if e = 0 then .fin neg m (fltMin t - M)
    else .fin neg (2 ^ M + m) ((e : Int) - fltBias t - M)

/-- The value of a code as an instruction under FTZ reads it (06 R118): a subnormal of a wide format is zero. -/
def fpIn (t : FltTy) (ftz : Bool) (c : Nat) : Fp :=
  match fpOf t c with
  | .fin neg m e => if ftz ∧ t.isWide ∧ m < 2 ^ fltM t then .fin neg 0 0 else .fin neg m e
  | x => x

/-! Rounding (06 R116). -/

/-- A magnitude q + rem / 2^sh rounded to a whole number, by mode, sign and stochastic number. -/
def roundMag (m : Rm) (r : Nat) (neg : Bool) (q rem sh : Nat) : Nat :=
  if rem = 0 then q
  else
    let half := 2 ^ sh
    let up : Bool := match m with
      | .rne => 2 * rem > half ∨ (2 * rem = half ∧ q % 2 = 1)
      | .rtz => false
      | .rup => !neg
      | .rdn => neg
      | .rna => 2 * rem ≥ half
      | .sr => if neg then r ≥ 2 ^ 32 * (half - rem) / half else r < 2 ^ 32 * rem / half
    if up then q + 1 else q

/-- m · 2^e rounded to a whole multiple of 2^qe: the multiple. -/
def roundTo (md : Rm) (r : Nat) (neg : Bool) (m : Nat) (e qe : Int) : Nat :=
  if qe ≤ e then m * 2 ^ (e - qe).toNat
  else
    let sh := (qe - e).toNat
    roundMag md r neg (m / 2 ^ sh) (m % 2 ^ sh) sh

/-- The exponent and mantissa fields of a rounded magnitude, the exponent range unbounded above. -/
def magCode (t : FltTy) (md : Rm) (r : Nat) (neg : Bool) (m : Nat) (e : Int) : Nat :=
  if m = 0 then 0
  else
    let x := max ((Nat.log2 m : Int) + e) (fltMin t)
    (x - fltMin t).toNat * 2 ^ fltM t + roundTo md r neg m e (x - fltM t)

/-- The magnitude that a finite overflow gives (06 R119). -/
def overflow (t : FltTy) (md : Rm) (neg : Bool) : Nat :=
  let inf := (2 ^ fltE t - 1) * 2 ^ fltM t
  if !t.isWide then fltBig t
  else match md with
    | .rne | .rna => inf
    | .rtz | .sr => fltBig t
    | .rup => if neg then fltBig t else inf
    | .rdn => if neg then inf else fltBig t

/-- A value converted to a float format: one rounding, then overflow, infinities and NaNs (06 R119), FTZ (R118); with
whether FMTBAD is set. -/
def fpCode (t : FltTy) (md : Rm) (r : Nat) (ftz : Bool) (x : Fp) : Nat × Bool :=
  let sign (neg : Bool) : Nat := ofB neg * 2 ^ (fltE t + fltM t)
  match x with
  | .nan => match fltNan t with
    | some c => (c, false)
    | none => (0, true)
  | .inf neg => (sign neg + (if fltInf t then (2 ^ fltE t - 1) * 2 ^ fltM t else fltBig t), false)
  | .fin neg m e =>
    let c := magCode t md r neg m e
    (sign neg + (if c > fltBig t then overflow t md neg
      else if ftz ∧ t.isWide ∧ c < 2 ^ fltM t then 0 else c), false)

/-- RoundF32(x, RNE) (06 R116). -/
def f32Rne (x : Fp) : Nat := (fpCode .f32 .rne 0 false x).1

/-! Exact arithmetic. -/

/-- A value with its sign inverted. -/
def Fp.neg : Fp → Fp
  | .nan => .nan
  | .inf s => .inf (!s)
  | .fin s m e => .fin (!s) m e

/-- A value with its sign cleared. -/
def Fp.abs : Fp → Fp
  | .nan => .nan
  | .inf _ => .inf false
  | .fin _ m e => .fin false m e

/-- The signed multiple of 2^e that a finite value is, for an e at or below its own. -/
def scaled (neg : Bool) (m : Nat) (e e0 : Int) : Int :=
  let v : Int := m * 2 ^ (e - e0).toNat
  if neg then -v else v

/-- x + y, with the sign of an exact zero as 06 R116 gives it. -/
def Fp.add (md : Rm) : Fp → Fp → Fp
  | .nan, _ | _, .nan => .nan
  | .inf a, .inf b => if a = b then .inf a else .nan
  | .inf a, .fin .. => .inf a
  | .fin .., .inf b => .inf b
  | .fin s1 m1 e1, .fin s2 m2 e2 =>
    let e := min e1 e2
    let v := scaled s1 m1 e1 e + scaled s2 m2 e2 e
    if v = 0 then .fin (if m1 = 0 ∧ m2 = 0 ∧ s1 = s2 then s1 else md = .rdn) 0 0
    else .fin (v < 0) v.natAbs e

/-- x · y. -/
def Fp.mul : Fp → Fp → Fp
  | .nan, _ | _, .nan => .nan
  | .inf a, .inf b => .inf (a != b)
  | .inf a, .fin b m _ => if m = 0 then .nan else .inf (a != b)
  | .fin a m _, .inf b => if m = 0 then .nan else .inf (a != b)
  | .fin a m1 e1, .fin b m2 e2 => .fin (a != b) (m1 * m2) (e1 + e2)

/-- x times a power of two. -/
def Fp.scale (k : Int) : Fp → Fp
  | .fin s m e => .fin s m (e + k)
  | x => x

/-- A whole number as a value. -/
def fpInt (v : Int) : Fp := .fin (v < 0) v.natAbs 0

/-- Whether x < y, zeros of either sign equal; false where either is a NaN. -/
def Fp.lt : Fp → Fp → Bool
  | .nan, _ | _, .nan => false
  | .inf a, .inf b => a && !b
  | .inf a, .fin .. => a
  | .fin .., .inf b => !b
  | .fin s1 m1 e1, .fin s2 m2 e2 => let e := min e1 e2; scaled s1 m1 e1 e < scaled s2 m2 e2 e

/-- Whether neither value is a NaN. -/
def Fp.real2 (x y : Fp) : Bool := x ≠ .nan && y ≠ .nan

/-- Whether x = y, zeros of either sign equal. -/
def Fp.eq (x y : Fp) : Bool := Fp.real2 x y && !x.lt y && !y.lt x

/-- Whether the sign is minus. -/
def Fp.isNeg : Fp → Bool
  | .nan => false
  | .inf s | .fin s _ _ => s

/-- Whether x stands below y in the order in which -0 is less than +0 (11 R225). -/
def Fp.below (x y : Fp) : Bool := x.lt y || (x.eq y && x.isNeg && !y.isNeg)

/-- VFMIN and VFMAX's choice (11 R225). -/
def Fp.least (x y : Fp) : Fp := if !Fp.real2 x y then .nan else if y.below x then y else x
/-- The greater of two. -/
def Fp.greatest (x y : Fp) : Fp := if !Fp.real2 x y then .nan else if x.below y then y else x

/-! Reciprocals, roots, exponentials and logarithms (11 R225), correctly rounded (log entry 13). -/

/-- Bits of working precision. -/
def prec : Nat := 256

/-- A quotient a / b at 2^-k, with a last bit for what was cut off. -/
def stickyDiv (a b k : Nat) : Nat :=
  let n := a * 2 ^ k
  2 * (n / b) + ofB (n % b ≠ 0)

/-- 1 / a. -/
def Fp.rcp : Fp → Fp
  | .nan => .nan
  | .inf s => .fin s 0 0
  | .fin s m e => if m = 0 then .inf s else .fin s (stickyDiv 1 m 128) (-e - 129)

/-- The whole square root by bits, from the `n`-th down; `r` is the root so far. -/
def sqrtFrom (x : Nat) : Nat → Nat → Nat
  | 0, r => r
  | n + 1, r => let r' := r + 2 ^ n; sqrtFrom x n (if r' * r' ≤ x then r' else r)

/-- 1 / √a. -/
def Fp.rsq : Fp → Fp
  | .nan => .nan
  | .inf s => if s then .nan else .fin false 0 0
  | .fin s m e =>
    if m = 0 then .inf s
    else if s then .nan
    else
      let (m, e) := if e % 2 = 0 then (m, e) else (2 * m, e - 1)
      let q := 2 ^ 256 / m
      let r := sqrtFrom q 129 0
      .fin false (2 * r + ofB (r * r * m ≠ 2 ^ 256)) (-129 - e / 2)

/-- The sum of z^(2i+1) / (2i+1) at 2^-prec, from z at that scale: `p` is the power, `d` the divisor. -/
def atanhSum (z2 : Nat) : Nat → Nat → Nat → Nat
  | 0, _, _ => 0
  | n + 1, p, d => p / d + atanhSum z2 n (p * z2 / 2 ^ prec) (d + 2)

/-- ln(a / b) at 2^-prec, for 1 ≤ a / b ≤ 2. -/
def lnRatio (a b : Nat) : Nat :=
  let z := (a - b) * 2 ^ prec / (a + b)
  2 * atanhSum (z * z / 2 ^ prec) 90 z 1

/-- ln 2 at 2^-prec. -/
def ln2 : Nat := lnRatio 2 1

/-- exp(y) at 2^-prec by Horner's rule, 0 ≤ y < 1, both at that scale. -/
def expSum (y : Nat) : Nat → Nat → Nat
  | 0, acc => acc
  | n + 1, acc => expSum y n (2 ^ prec + y * acc / 2 ^ prec / (n + 1))

/-- 2^a. -/
def Fp.exp2 : Fp → Fp
  | .nan => .nan
  | .inf s => if s then .fin false 0 0 else .inf false
  | .fin s m e =>
    if m = 0 then .fin false 1 0
    else if (Nat.log2 m : Int) + e ≥ 10 then .fin false 3 (if s then -1024 else 1024)
    else
      let v := scaled s m e (min e 0)
      let d : Int := 2 ^ (-(min e 0)).toNat
      let n := v / d
      let f := (v % d).toNat
      if f = 0 then .fin false 1 n
      else
        let y := f * ln2 / d.toNat
        .fin false (2 * expSum y 64 (2 ^ prec) + 1) (n - 257)

/-- log2 a. -/
def Fp.log2 : Fp → Fp
  | .nan => .nan
  | .inf s => if s then .nan else .inf false
  | .fin s m e =>
    if m = 0 then .inf true
    else if s then .nan
    else
      let k := Nat.log2 m
      let n := (k : Int) + e
      if m = 2 ^ k then .fin (n < 0) n.natAbs 0
      else
        let l : Int := lnRatio m (2 ^ k) * 2 ^ prec / ln2
        let v := n * 2 ^ prec + l
        .fin (v < 0) (2 * v.natAbs + 1) (-257)

/-! Integers (06 R109). -/

/-- Whether an integer type is signed; T2 counts as signed. -/
def intSigned : IntTy → Bool
  | .n8 | .n16 | .n32 | .n64 => false
  | _ => true

/-- The value of an integer or T2 code, with whether a reserved T2 code was read. -/
def intOf (t : IntTy) (c : Nat) : Int × Bool :=
  match t with
  | .t2 => if c % 4 = 2 then (0, true) else (sint c 2, false)
  | _ => if intSigned t then (sint c t.width, false) else ((c % 2 ^ t.width : Nat), false)

/-- The least value of a type. -/
def intLeast (t : IntTy) : Int :=
  match t with
  | .t2 => -1
  | _ => if intSigned t then -(2 ^ (t.width - 1) : Nat) else 0

/-- The greatest value of a type. -/
def intGreatest (t : IntTy) : Int :=
  match t with
  | .t2 => 1
  | _ => if intSigned t then (2 ^ (t.width - 1) : Nat) - 1 else (2 ^ t.width : Nat) - 1

/-- A whole number saturated to a type, as its code. -/
def intSat (t : IntTy) (v : Int) : Nat := wrap t.width (min (max v (intLeast t)) (intGreatest t))

/-- A float value converted to an integer type, with whether FMTBAD is set (06 R119). -/
def fpToInt (t : IntTy) (md : Rm) (r : Nat) (x : Fp) : Nat × Bool :=
  match x with
  | .nan => (0, true)
  | .inf s => (intSat t (if s then intLeast t else intGreatest t), false)
  | .fin s m e =>
    let q : Int := roundTo md r s m e 0
    (intSat t (if s then -q else q), false)

/-! Stochastic numbers (06 R117). -/

/-- One step of SRSEED. -/
def srStep (s : Word) : Word :=
  let s := if s = 0 then 0x9E3779B97F4A7C15 else s
  let s := s ^^^ (s <<< 13)
  let s := s ^^^ (s >>> 7)
  s ^^^ (s <<< 17)

/-- The stochastic number of a stepped seed. -/
def srNumber (s : Word) : Nat := bits s 32 32

end Sys2Proof.Machine
end

