-- ==== Sys2Proof/Machine/Lanes.lean ====
section
/-!
DEFINITION. Lanes of vector registers (06 R114, 11 R219, R220), rounding lane by lane with stochastic steps (06 R117),
the pairwise tree of reductions (06 R123), and the vector unit's requirement of a lease (11 R218).
-/

namespace Sys2Proof.Machine

/-- Lane `i` of width `w`. -/
def lane (w : Nat) (x : VWord) (i : Nat) : Nat := bits x (w * i) w

/-- How many lanes of width `w` a register holds. -/
def laneCount (w : Nat) : Nat := 1024 / w

/-- A register made of lanes, lowest first. -/
def ofLanes (w : Nat) (ls : List Nat) : VWord :=
  BitVec.ofNat 1024 (ls.foldr (fun l acc => l % 2 ^ w + 2 ^ w * acc) 0)

/-- A register whose active lanes are given and whose other lanes keep their value (11 R220). -/
def masked (w : Nat) (k : KWord) (old : VWord) (f : Nat → Nat) : VWord :=
  ofLanes w ((List.range (laneCount w)).map fun i => if k.getLsbD i then f i else lane w old i)

/-- A lane as an integer of its type. -/
def laneInt (t : IntTy) (x : VWord) (i : Nat) : Int := (intOf t (lane t.width x i)).1

/-- Whether an active lane holds the reserved T2 code. -/
def anyBadT2 (t : IntTy) (k : KWord) (x : VWord) : Bool :=
  (List.range (laneCount t.width)).any fun i => k.getLsbD i && (intOf t (lane t.width x i)).2

/-- The issuing strand's vector instruction: NOLEASE without a lease, else its effect, and on. -/
def State.vec (s : State) (f : Strand → Strand) : Res :=
  .next (if hasVec s.cur.slot s.me then s.modMe fun t => (f t).retire (t.pc + 4) else s.trapPc Cause.noLease)

/-- What one lane's conversion gives: its code and whether FMTBAD is set. -/
abbrev LaneFn := Nat → Nat → Nat × Bool

/-- Lanes computed in ascending order, each active one taking one stochastic step where the mode is SR. -/
def runLanes (sr : Bool) (act : Nat → Bool) (old : Nat → Nat) (f : LaneFn) :
    List Nat → Word → List Nat × Bool × Word
  | [], seed => ([], false, seed)
  | i :: is, seed =>
    if act i then
      let seed' := if sr then srStep seed else seed
      let (c, bad) := f i (srNumber seed')
      let (cs, bad', seed'') := runLanes sr act old f is seed'
      (c :: cs, bad || bad', seed'')
    else
      let (cs, bad, seed') := runLanes sr act old f is seed
      (old i :: cs, bad, seed')

/-- A strand with a seed and FMTBAD taken from a run of lanes. -/
def Strand.seeded (t : Strand) (bad : Bool) (seed : Word) : Strand :=
  ({ t with regs := { t.regs with srseed := seed } } : Strand).flagBad bad

/-- `vd` takes lanes computed with a rounding mode, under a mask. -/
def Strand.roundLanes (t : Strand) (md : Rm) (w : Nat) (d : VReg) (k : KReg) (f : LaneFn) : Strand :=
  let (cs, bad, seed) := runLanes (md = .sr) ((t.kr k).getLsbD) (lane w (t.vr d.val)) f
    (List.range (laneCount w)) t.regs.srseed
  (t.seeded bad seed).putV d.val (ofLanes w cs)

/-- A float lane as it is (VFCMP, CKAF) or as FTZ reads it. -/
def fLane (ty : FltTy) (ftz : Bool) (x : VWord) (i : Nat) : Fp := fpIn ty ftz (lane (fltLane ty) x i)

/-- Each active lane of `vd` is an exact value rounded once with FRM (11 R220). -/
def Strand.fltOp (t : Strand) (ftz : Bool) (ty : FltTy) (d : VReg) (k : KReg) (x : Nat → Fp) : Strand :=
  t.roundLanes t.frm (fltLane ty) d k fun i r => fpCode ty t.frm r ftz (x i)

/-- Each active lane of `vd` is a value of its format that needs no rounding. -/
def Strand.fltPick (t : Strand) (ftz : Bool) (ty : FltTy) (d : VReg) (k : KReg) (x : Nat → Fp) : Strand :=
  t.putV d.val (masked (fltLane ty) (t.kr k) (t.vr d.val) fun i => (fpCode ty .rne 0 ftz (x i)).1)

/-! The tree (06 R123). -/

/-- A rounded sum of two F32 codes. -/
def add32 (md : Rm) (r : Nat) (ftz : Bool) (a b : Nat) : Nat :=
  (fpCode .f32 md r ftz (Fp.add md (fpIn .f32 ftz a) (fpIn .f32 ftz b))).1

/-- One level of the tree, each addition taking a step where the mode is SR. -/
def treeLevel (md : Rm) (ftz : Bool) : List Nat → Word → List Nat × Word
  | a :: b :: l, seed =>
    let seed := if md = .sr then srStep seed else seed
    let (l, seed') := treeLevel md ftz l seed
    (add32 md (srNumber seed) ftz a b :: l, seed')
  | l, seed => (l, seed)

/-- `n` levels of the tree. -/
def tree (md : Rm) (ftz : Bool) : Nat → List Nat → Word → List Nat × Word
  | 0, l, seed => (l, seed)
  | n + 1, l, seed => let (l, seed) := treeLevel md ftz l seed; tree md ftz n l seed

/-- The F32 codes that lanes enter a sum as: widened exactly, inactive lanes -0, magnitudes when asked. -/
def treeLanes (ty : FltTy) (ftz mag : Bool) (k : KWord) (x : VWord) : List Nat :=
  (List.range (laneCount (fltLane ty))).map fun i =>
    if k.getLsbD i then f32Rne (if mag then (fLane ty ftz x i).abs else fLane ty ftz x i) else 0x80000000

end Sys2Proof.Machine
end

