-- ==== Sys2Proof/Machine/LoadStore.lean ====
section
/-!
DEFINITION. Loads and stores (10 R189 to R192, 08 R153, 04 R85), the start of a migration (02 R26, R27), and what every
memory instruction waits for (05 R93, 04 R79, R80).
-/

namespace Sys2Proof.Machine

/-! Migration. -/

/-- Whether a strand may migrate (02 R26): no lease, no binding, no copy of its own without a completed tag. -/
def State.canMigrate (s : State) (c n : Nat) : Bool :=
  let k := s.core c
  let t := k.strand n
  isGeneral n && !t.vl && !(k.queues.any fun x => x.2.slot = n) &&
    !(k.copies.any fun x => x.slot = n && x.strid = t.strid)

/-- A strand stops issue for a migration (02 R27); a follower detaches first, a lead's followers detach (09 R179). -/
def State.startMove (s : State) (c n dst : Nat) (hint : Bool) : State :=
  let s := s.unlead c n (s.strand c n).pc
  let s := s.modStrand c n fun t => { t.closeWindows with st := .moving dst }
  { s with moves := s.moves ++ [⟨c, n, dst, hint, false, none⟩] }

/-! Waits before an access. -/

/-- Whether an ord acquires. -/
def amAcquires (o : AmOrd) : Bool := o = .acq ∨ o = .ar

/-- Whether an access in flight is the issuing strand's. -/
def State.own (s : State) (a : Access) : Bool := a.core = s.cur.core && a.slot = s.cur.slot

/-- Whether an access of the issuing strand waits because of a store with ord 11 (08 R153), or of an acquire that has
not returned (05 R94 item 5; 04 R80). -/
def State.held (s : State) : Bool :=
  (s.me.outs.any fun o => o.full && o.acc.isSome) || s.accs.any fun x => s.own x.2 && amAcquires x.2.ord

/-- Whether an access with a non-plain ord waits for earlier loads and atomics (05 R93). -/
def State.loadsWait (s : State) : Bool := s.loadsOut s.cur.core s.cur.slot

/-- Whether a release waits: for earlier loads and atomics, and for every earlier store of the strand (04 R80). -/
def State.relWait (s : State) : Bool := s.loadsWait || s.storesOut s.cur.core s.cur.slot

/-- Whether a fence with release, or an instruction that acts as one, waits: for USC too (04 R85). -/
def State.fenceWait (s : State) : Bool := s.relWait || s.mine.usc ≠ 0

/-- Whether `n` bytes at `a` and `m` bytes at `b` have one in common. -/
def rangesMeet (a : Word) (n : Nat) (b : Word) (m : Nat) : Bool :=
  a.toNat < b.toNat + m && b.toNat < a.toNat + n

/-- Where stores of a strand are performed in program order (22 R383, 05 R107): a home slice, a core's package window,
a device, a window of the host. -/
inductive Target
  | slice (n : Nat)
  | core (c : Nat)
  | dev (n : Nat)
  | host (idx : Nat)
  deriving DecidableEq

/-- The target of one part of a posted store. -/
def Lane.target (l : Lane) : Option Target :=
  match l.pa with
  | some pa => some (.slice (homeOf pa))
  | none => match space true l.addr with
    | .ok (.pkg c _) => some (.core c)
    | .ok (.dom d _ _) => some (.dev d)
    | .ok (.host i _) => some (.host i)
    | _ => none

/-- Whether the issuing strand has a posted store on its way to a target. -/
def State.postingTo (s : State) (x : Target) : Bool :=
  s.mine.journal.any fun e => e.2.v && e.2.slot = s.cur.slot && e.2.lanes.any fun l => l.target = some x

/-- Whether a load or atomic that would leave the part waits: an earlier posted store of the strand is on its way to the
same device, whose operations arrive in program order (05 R107, 16 R295), or the ports have stopped (23 R388). -/
def State.portWait (s : State) (a : Word) : Bool :=
  match space true a with
  | .ok (.dom d _ _) => s.brim.st ≠ .idle || s.postingTo (.dev d)
  | .ok (.host ..) => s.brim.st ≠ .idle
  | _ => false

/-- Whether an access to some byte of these ranges follows an earlier one of the issuing strand in flight: a load follows
stores and atomics to the byte, a store or an atomic follows every access to it (05 R94 item 2, R99). -/
def State.pendingAcc (s : State) (wr : Bool) (xs : List (Word × Nat)) : Bool :=
  (s.accs.any fun x => s.own x.2 && (wr || x.2.kind.isStore || x.2.kind.isAmo) &&
    xs.any fun y => rangesMeet y.1 y.2 x.2.addr x.2.size) ||
  (xs.any fun x => s.heldAt s.cur.core x.1 || (!wr && s.portWait x.1))

/-- Whether a load or an atomic of some byte of these ranges follows an earlier access of the issuing strand that is not
performed, a posted store included. A store does not wait for a posted one (04 R85): it is posted behind it, or reaches its
home after it. -/
def State.pending (s : State) (wr : Bool) (xs : List (Word × Nat)) : Bool :=
  (s.mine.journal.any fun x => x.2.v && x.2.slot = s.cur.slot &&
    x.2.lanes.any fun l => xs.any fun y => rangesMeet y.1 y.2 l.addr l.n) || s.pendingAcc wr xs

/-- The tag that an access with a supervisor physical address carries: that of no translation. -/
def physTag : Nat := 2 ^ 64

/-- Whether a strand has an access in flight, issued before access `id`, that an access to a page of this type follows:
accesses to SC pages, and accesses to IP pages, are performed in program order (04 R79; 05 R94 items 3 and 4, R97). One
not translated yet may be to such a page. -/
def State.tyBefore (s : State) (c n id : Nat) (ty : PageTy) : Bool :=
  (ty = .sc || ty = .ip) && s.accs.any fun x => x.1 < id && x.2.core = c && x.2.slot = n &&
    match x.2.stage with
    | .home _ ty' tag => ty' = ty && tag ≠ physTag
    | .xlate _ => true
    | _ => false

/-- Whether a strand has an earlier posted store to some of `n` bytes of a WO page, through whatever mapping. -/
def State.postedOver (s : State) (c n id pa len : Nat) : Bool :=
  (s.core c).journal.any fun x => x.2.v && x.2.slot = n && x.2.seq < id && x.2.lanes.any fun l =>
    l.pa.any fun p => rangesMeet (word p) l.n (word pa) len

/-- Whether a strand has an access in flight, issued before access `id`, that an access to `len` bytes at a physical address
follows as they have a byte in common, through whatever mapping (05 R94 item 2, R99): a load follows stores and atomics, a
store every access. One not translated yet may be to the same bytes of another mapping. -/
def State.flightOver (s : State) (c n id pa len : Nat) (wr : Bool) : Bool :=
  s.accs.any fun x => x.1 < id && x.2.core = c && x.2.slot = n && (wr || x.2.kind.isStore || x.2.kind.isAmo) &&
    match x.2.stage with
    | .home pa' _ _ => rangesMeet (word pa') x.2.size (word pa) len
    | .xlate _ => rangesMeet (word (bits x.2.addr 0 16)) x.2.size (word (pa % 2 ^ 16)) len
    | _ => false

/-- Whether an earlier store of a strand to one of these targets has still to be performed there (22 R383). -/
def State.earlierTo (s : State) (c n seq : Nat) (ts : List (Option Target)) : Bool :=
  ((s.core c).journal.any fun x => x.2.v && x.2.slot = n && x.2.seq < seq && x.2.lanes.any fun l => ts.contains l.target) ||
  s.accs.any fun x => x.1 < seq && x.2.core = c && x.2.slot = n && x.2.kind.isStore &&
    match x.2.stage with
    | .home pa _ _ => ts.contains (some (.slice (homeOf pa)))
    | .xlate _ => true
    | _ => false

/-- Whether a store of the issuing strand that is performed at once waits for an earlier one to the same home slice. -/
def State.posting (s : State) (pa : Nat) : Bool :=
  s.earlierTo s.cur.core s.cur.slot s.serial [some (.slice (homeOf pa))]

/-- Whether a read of the issuing strand at a physical address that is performed at once waits for an earlier access. -/
def State.readAfter (s : State) (pa len : Nat) : Bool :=
  s.postedOver s.cur.core s.cur.slot s.serial pa len || s.flightOver s.cur.core s.cur.slot s.serial pa len false

/-- Whether a load of the issuing strand waits: an L1 hit for its accesses in flight to pages of the line's type or to the
bytes, any for its posted stores to the bytes. -/
def State.loadWaits (s : State) (sp : Space) (len : Nat) : Bool :=
  match sp with
  | .virt va =>
    ((s.l1 s.cur.core s.me.job va).any fun l => s.tyBefore s.cur.core s.cur.slot s.serial l.ty ||
      s.flightOver s.cur.core s.cur.slot s.serial (l.pa + va % 128) len false) ||
    (s.mine.journal ≠ [] && match (s.translate s.agent va .load).2 with
      | .ok pa .. => s.postedOver s.cur.core s.cur.slot s.serial pa len
      | _ => false)
  | _ => false

/-- A FENCE.REL of the issuing strand holds what follows it: not every earlier store is acknowledged, or USC is not zero
(05 R93). -/
def State.relStill (s : State) : Bool :=
  s.me.rel.isSome && (s.storesOut s.cur.core s.cur.slot || s.mine.usc ≠ 0)

/-- A descriptor of `n` 8-byte words at `a`, read by plain loads of the issuing strand, or the state after the read
that failed, or the wait for an earlier store. -/
def State.words (s : State) (a : Word) (n : Nat) : Except State (State × List Word) :=
  match s.readWords s.agent .strand a n with
  | .error (s, e) => .error (e.land s)
  | .ok x => if s.pending false [(a, 8 * n)] || s.accs.any fun y => s.own y.2 then .error s.block else .ok x

/-- A release of scope PKG or wider has merged the lines privatised for the issuing tower (04 R80). -/
def State.released (s : State) (sc : Scope) : State :=
  if scopeCode sc < 4 then s
  else { s with priv := s.priv.filter fun x =>
    !(privatised x.2 && Tab.look x.2 (towerOf s.cur.core) 0 ≠ 0) }

/-- The wider of two scopes. -/
def widerScope (a b : Scope) : Scope := if scopeCode a < scopeCode b then b else a

/-- A scope, with the widest so far. -/
def widest (a : Option Scope) (b : Scope) : Scope :=
  match a with
  | some x => widerScope x b
  | none => b

/-- The issuing strand has executed a fence with release, or an instruction that acts as one: what it sends from now on
follows it (05 R98). -/
def State.fenced (s : State) (sc : Scope) : State := s.modMe fun t => { t with fence := some (widest t.fence sc) }

/-- The word that a record of the issuing strand carries for its fences. -/
def State.fenceMark (s : State) : Rec :=
  match s.me.fence with
  | some c => [word (scopeCode c)]
  | none => []

/-- The FENCE.REL that has held the issuing strand's stores is done. -/
def State.relDone (s : State) : State :=
  match s.me.rel with
  | some sc => (s.released sc).modMe fun t => { t with rel := none }
  | none => s

/-- An acquire of scope CLU or wider has invalidated the core's RC lines (04 R80). -/
def State.acquired (s : State) (acq : Bool) (sc : Scope) : State :=
  if acq ∧ wideScope sc then s.invalidateRc s.cur.core else s

/-! Addresses. -/

/-- The checks of 10 R189 up to the window: the space of an aligned address, or the cause. -/
def State.check (s : State) (a : Word) (size : Nat) (nd : Need) : Except (BitVec 8) Space :=
  if a.toNat % size ≠ 0 then .error Cause.align
  else match space s.me.sup a with
    | .error c => .error c
    | .ok sp => match s.windowCheck s.agent sp size nd with
      | some c => .error c
      | none => .ok sp

/-- Whether an access stays in its strand's hands: an L1 hit. -/
def State.atHome (s : State) (sp : Space) (via : Via) : Bool :=
  match sp with
  | .virt va => (s.l1 s.cur.core s.me.job va).any via.hits
  | _ => false

/-- Where an access goes that its strand does not see performed at once: one to the own scratch to its banks (24 R403). -/
def Space.stage (sp : Space) : Stage :=
  match sp with
  | .virt _ => .xlate false
  | .pkg .. => .bank
  | .dom .. | .host .. => .outside
  | .phys pa => .home pa .sc physTag

/-- The issuing strand's access waits, after the tests of 19 R325: one that translation, permission or the page's type
will refuse is refused first. -/
def State.waitAt (s : State) (a : Word) (sp : Space) (nd : Need) : State :=
  match sp with
  | .virt va =>
    match (s.translate s.agent va nd).2 with
    | .bad c => s.trap c a
    | .invalid e v0 park => s.invalidAt e (v0 && park) a
    | .ok _ ty .. => if nd = .amo ∧ (ty = .wo ∨ ty = .ip) then s.trap Cause.attrOp a else s.block
  | _ => s.block

/-- An access of the issuing strand leaves its core. -/
def State.depart (s : State) (k : AccKind) (a : Word) (size : Nat) (o : AmOrd) (sc : Scope) (st : Stage) :
    State × Nat :=
  let acc : Access := { core := s.cur.core, slot := s.cur.slot, job := s.me.job, sup := s.me.sup,
                        bases := s.mine.bases, kind := k, addr := a, size := size, ord := o, scope := sc, stage := st }
  let s := { s with accs := s.accs.put s.serial acc, serial := s.serial + 1 }
  (if st = .outside then s.send (.access acc.job a k size) else s, s.serial - 1)

/-! Loads. -/

/-- The result of a load (10 R190). -/
def loadValue (sgn : Bool) (size v : Nat) : Word := if sgn then sext v (8 * size) else word v

/-- How a load meets the L1 (10 R190): an acquire or a plain load of scope CLU or wider passes RC lines by. -/
def loadVia (sc : Scope) : Via := if wideScope sc then .bypass else .strand

/-- The ord of a load as an access carries it. -/
def ldAmOrd : LdOrd → AmOrd
  | .plain | .mig => .plain
  | .acq => .acq
  | .ar => .ar

/-- The ord of a store as an access carries it. -/
def stAmOrd : StOrd → AmOrd
  | .plain => .plain
  | .rel => .rel
  | .ar => .ar

/-- Whether a load's ord acquires. -/
def ldAcquires (o : LdOrd) : Bool := o = .acq ∨ o = .ar

/-- A load whose checks have passed is performed, or leaves its core. -/
def State.loadFrom (s : State) (sgn : Bool) (size : Nat) (d : GReg) (o : LdOrd) (sc : Scope) (l : La) (a : Word)
    (sp : Space) : State :=
  let via := loadVia sc
  if s.split && !s.atHome sp via then
    let (s, id) := s.depart (.load sgn) a size (ldAmOrd o) sc sp.stage
    s.modMe fun t => t.lateAcc id (some d) l false (t.pc + 4)
  else
    (s.readAt s.agent a size via).land a fun s v =>
      (s.acquired (ldAcquires o) sc).writeLate d (loadValue sgn size v) l

/-- Where the migrate hint takes a load (10 R192): the home of its page, when that is not the issuing core and the
strand may migrate. -/
def State.hintTo (s : State) (sp : Space) : Option Nat :=
  match sp with
  | .virt va =>
    match (s.translate s.agent va .load).2 with
    | .ok pa .. =>
      if homeOf pa ≠ s.cur.core ∧ s.canMigrate s.cur.core s.cur.slot ∧ !s.me.intrap ∧ !s.me.nohint then some (homeOf pa) else none
    | _ => none
  | _ => none

/-- A load (10 R189, R190, R192). A migrate hint detaches a follower first (09 R179). -/
def State.load (s : State) (sgn : Bool) (size : Nat) (d b : GReg) (o : LdOrd) (sc : Scope) (l : La)
    (disp : BitVec 6) : State :=
  let a := dispAddr (s.rg b) disp size
  match s.check a size .load with
  | .error c => s.trap c a
  | .ok sp =>
    if s.held || s.pending false [(a, size)] || s.loadWaits sp size || (ldAcquires o && s.loadsWait) ||
        (o = .ar && s.fenceWait) then s.waitAt a sp .load
    else
      let s := if o = .mig ∧ s.me.follows then s.unlead s.cur.core s.cur.slot s.me.pc else s
      match (if o = .mig then s.hintTo sp else none) with
      | some c => s.startMove s.cur.core s.cur.slot c true
      | none => s.loadFrom sgn size d o sc l a sp

/-- LDB. -/
def execLdb (d a : GReg) (o : LdOrd) (c : Scope) (l : La) (p : BitVec 6) (s : State) : Res :=
  .next (s.load true 1 d a o c l p)
/-- LDBN. -/
def execLdbn (d a : GReg) (o : LdOrd) (c : Scope) (l : La) (p : BitVec 6) (s : State) : Res :=
  .next (s.load false 1 d a o c l p)
/-- LDH. -/
def execLdh (d a : GReg) (o : LdOrd) (c : Scope) (l : La) (p : BitVec 6) (s : State) : Res :=
  .next (s.load true 2 d a o c l p)
/-- LDHN. -/
def execLdhn (d a : GReg) (o : LdOrd) (c : Scope) (l : La) (p : BitVec 6) (s : State) : Res :=
  .next (s.load false 2 d a o c l p)
/-- LDW. -/
def execLdw (d a : GReg) (o : LdOrd) (c : Scope) (l : La) (p : BitVec 6) (s : State) : Res :=
  .next (s.load true 4 d a o c l p)
/-- LDWN. -/
def execLdwn (d a : GReg) (o : LdOrd) (c : Scope) (l : La) (p : BitVec 6) (s : State) : Res :=
  .next (s.load false 4 d a o c l p)
/-- LDD. -/
def execLdd (d a : GReg) (o : LdOrd) (c : Scope) (l : La) (p : BitVec 6) (s : State) : Res :=
  .next (s.load false 8 d a o c l p)

/-! Stores. -/

/-- Whether a journal entry can be taken (18 R315): not in use, and its failure, if any, taken. -/
def JEnt.usable (e : JEnt) : Bool := !e.v && (!e.fail || e.taken)

/-- The lowest journal entry that can be taken. -/
def Core.freeEntry (k : Core) : Option Nat := lowest 64 fun j => (k.jent j).usable

/-- A posted store occupies a journal entry and retires; with none free the strand waits (04 R85, 18 R315). It reaches its
target after the strand's earlier stores there. A store with ord 11 holds later accesses of the strand until it is settled (08
R153). -/
def State.post (s : State) (lanes : List Lane) (sz : BitVec 2) (full : Bool) : State :=
  match s.mine.freeEntry with
  | none => s.block
  | some j =>
    let e : JEnt := { v := true, fail := false, cause := 0, sz := sz, slot := s.cur.slot, pc := s.me.pc, taken := false,
                      job := s.me.job, bases := s.mine.bases, lanes := lanes, seq := s.serial }
    let s := { s.modMine fun k => { k with journal := k.journal.put j e } with serial := s.serial + 1 }
    if full then s.modMe fun t => t.lateAcc (journalOut j) none 0 true (t.pc + 4) else s.advance

/-- SZ of a size in bytes. -/
def sizeCode (size : Nat) : BitVec 2 := BitVec.ofNat 2 (Nat.log2 size)

/-- What a store's ord says: whether it is a release, and whether it holds later accesses. -/
def stReleases (o : StOrd) : Bool := o ≠ .plain

/-- A store to virtual memory: posted where its translation shows a WO page, else performed (04 R85, R72). -/
def State.storeVirt (s : State) (size va : Nat) (v : Word) (a : Word) (full : Bool) : State :=
  match s.translate s.agent va .store with
  | (s, .bad c) => s.trap c a
  | (s, .invalid e v0 park) => s.invalidAt e (v0 && park) a
  | (s, .ok pa ty shut _ _ tag) =>
    if ty = .wo then s.post [⟨a, some pa, tag, shut, size, v.toNat % 2 ^ (8 * size)⟩] (sizeCode size) full
    else if s.posting pa then s.block
    else (s.writeHome s.agent va pa ty (leBytes size v.toNat) true).advance

/-- A store whose checks have passed. -/
def State.storeTo (s : State) (size : Nat) (v : Word) (o : StOrd) (sc : Scope) (a : Word) (sp : Space) : State :=
  let full := o = .ar
  match sp with
  | .pkg c off =>
    if c ≠ s.cur.core then s.post [⟨a, none, 0, false, size, v.toNat % 2 ^ (8 * size)⟩] (sizeCode size) full
    else if s.split then
      let (s, id) := s.depart (.store v) a size (stAmOrd o) sc sp.stage
      s.modMe fun t => t.lateAcc id none 0 full (t.pc + 4)
    else (s.scrWrite c off (leBytes size v.toNat)).advance
  | .dom .. | .host .. => s.post [⟨a, none, 0, false, size, v.toNat % 2 ^ (8 * size)⟩] (sizeCode size) full
  | .virt va =>
    if s.split then
      let (s, id) := s.depart (.store v) a size (stAmOrd o) sc sp.stage
      s.await (.access id)
    else s.storeVirt size va v a full
  | .phys pa =>
    if s.split then
      let (s, id) := s.depart (.store v) a size (stAmOrd o) sc sp.stage
      s.modMe fun t => t.lateAcc id none 0 full (t.pc + 4)
    else if s.posting pa then s.block
    else (s.homeWrite s.me.job pa (leBytes size v.toNat)).advance

/-- A store (10 R189, R191). -/
def State.store (s : State) (size : Nat) (d b : GReg) (o : StOrd) (sc : Scope) (disp : BitVec 6) : State :=
  let a := dispAddr (s.rg b) disp size
  match s.check a size .store with
  | .error c => s.trap c a
  | .ok sp =>
    if s.held || s.pendingAcc true [(a, size)] || s.relStill || (stReleases o && s.relWait) then s.waitAt a sp .store
    else
      let s := s.relDone
      (if stReleases o then s.released sc else s).storeTo size (s.rg d) o sc a sp

/-- STB. -/
def execStb (d a : GReg) (o : StOrd) (c : Scope) (p : BitVec 6) (s : State) : Res := .next (s.store 1 d a o c p)
/-- STH. -/
def execSth (d a : GReg) (o : StOrd) (c : Scope) (p : BitVec 6) (s : State) : Res := .next (s.store 2 d a o c p)
/-- STW. -/
def execStw (d a : GReg) (o : StOrd) (c : Scope) (p : BitVec 6) (s : State) : Res := .next (s.store 4 d a o c p)
/-- STD. -/
def execStd (d a : GReg) (o : StOrd) (c : Scope) (p : BitVec 6) (s : State) : Res := .next (s.store 8 d a o c p)

end Sys2Proof.Machine
end

