-- ==== Sys2Proof/Machine/Atomic.lean ====
section
/-!
DEFINITION. Atomics (10 R198 to R200, 05 R106, 20 R346, R353) and fences (05 R93, 10 R195).
-/

namespace Sys2Proof.Machine

/-- The number of an atomic operation (08 R164). -/
def amoCode : AmoFn → Nat
  | .add => 0 | .and => 1 | .or => 2 | .xor => 3 | .min => 4 | .max => 5 | .minn => 6 | .maxn => 7 | .swp => 8
  | .cas => 9 | .fadd => 10

/-- Combine (10 R199) over `n` bytes: the value written, or none where a CAS fails. -/
def combine (fn : AmoFn) (n old b cmp : Nat) : Option Nat :=
  let m := 2 ^ (8 * n)
  let si (x : Nat) : Int := sint x (8 * n)
  match fn with
  | .add => some ((old + b) % m)
  | .and => some (old &&& b)
  | .or => some (old ||| b)
  | .xor => some (old ^^^ b)
  | .min => some (if si old < si b then old else b)
  | .max => some (if si old < si b then b else old)
  | .minn => some (if old < b then old else b)
  | .maxn => some (if old < b then b else old)
  | .swp => some b
  | .cas => if old = cmp then some b else none
  | .fadd => some (add32 .rne 0 false old b)

/-- What an atomic does and its operands, cut to its size. -/
structure Amo where
  fn  : AmoFn
  n   : Nat
  b   : Nat
  cmp : Nat

/-- The read and write of an atomic on one bank (05 R106): the message strand of another core performs it there. -/
def State.amoBank (s : State) (ag : Agent) (c off : Nat) (x : Amo) : Got Nat :=
  match s.readBank ag c off x.n with
  | .ok s old =>
    (match combine x.fn x.n old x.b x.cmp with
      | some v => .ok (s.scrWrite (s.reach c) off (leBytes x.n v)) old
      | none => .ok s old)
  | r => r

/-- The read and write of an atomic at a home slice (05 R102, R106). -/
def State.amoHome (s : State) (j : BitVec 16) (pa : Nat) (x : Amo) : Got Nat :=
  if s.poisoned pa x.n then .bad s Cause.poison
  else
    let old := s.homeRead pa x.n
    match combine x.fn x.n old x.b x.cmp with
    | some v => .ok (s.homeWrite j pa (leBytes x.n v)) old
    | none => .ok s old

/-- The issuing core's L1 copy after an atomic (10 R200): an RC copy is dropped, an SC copy has been updated. -/
def State.amoL1 (s : State) (ag : Agent) (va : Nat) : State :=
  s.modCore ag.core fun k =>
    { k with lines := k.lines.filter fun l => !(l.va = va / 128 * 128 && l.job = ag.job && l.ty = .rc) }

/-- An atomic on a page of a type, at its home: WO and IP pages refuse it with ATTROP (20 R346). -/
def State.amoPage (s : State) (ag : Agent) (va pa : Nat) (ty : PageTy) (x : Amo) : Got Nat :=
  match ty with
  | .wo | .ip => .bad s Cause.attrOp
  | .rc =>
    match (s.privAccess (towerOf ag.core) pa x.n true).amoHome ag.job pa x with
    | .ok s v => .ok (s.amoL1 ag va) v
    | r => r
  | .sc =>
    match s.amoHome ag.job pa x with
    | .ok s v => .ok (s.amoL1 ag va) v
    | r => r

/-- Whether a host window's grant marks an atomic supported (20 R353). -/
def State.hostAmoOk (s : State) (j : BitVec 16) (idx : Nat) (fn : AmoFn) : Bool :=
  match (s.job? j).bind fun x => (x.hostwins.find? (·.1 = idx)).map (·.2) with
  | some w => fn ≠ .fadd && w.mask.getLsbD (amoCode fn)
  | none => false

/-- An atomic through the space of its address, performed at once. -/
def State.amoAt (s : State) (ag : Agent) (a : Word) (sp : Space) (x : Amo) : Got Nat :=
  match sp with
  | .pkg c off => s.amoBank ag c off x
  | .dom .. | .host .. => s.outside ag a x.n (.amo x.fn (word x.b) (word x.cmp))
  | .phys pa => if isDram pa then s.amoHome ag.job pa x else .bad s Cause.attrOp
  | .virt va =>
    match s.translate ag va .amo with
    | (s, .bad c) => .bad s c
    | (s, .invalid e v0 park) => .invalid s e (v0 && park)
    | (s, .ok pa ty _ _ _ _) => s.amoPage ag va pa ty x

/-- Whether an ord releases. -/
def amReleases (o : AmOrd) : Bool := o = .rel ∨ o = .ar

/-- Whether a request that a strand has sent to a core number before place `n` has still to arrive: records in send queues or
on their way (05 R107). -/
def State.sentBefore (s : State) (job : BitVec 16) (by_ : Option Word) (n dst : Nat) (vn : Bool) : Bool :=
  let before (x : Rec) : Bool :=
    hdrJob (recHdr x) = job && Rec.sender x = by_ && Rec.place x < n && hdrDest (recHdr x) = dst
  (s.mails.any fun m => m.vn = vn && before m.body) || s.cores.any fun k => (k.2.sq vn).any before

/-- Whether a core's message strand waits for the result of an atomic of its own to a package window. -/
def State.awaitsAmo (s : State) (c : Nat) : Bool :=
  (s.strand c msgSlot).st = .blocked && s.accs.any fun x => x.2.core = c && x.2.slot = msgSlot && x.2.stage = .pwa

/-- Whether the message strand of a core performs an atomic now (05 R106, R107): it runs nothing and no record that arrived
before waits there. One of a message strand is served too while the target's message strand waits for such an atomic of its
own, so that the two never deadlock (10 R200, 19 R334; log entry 53). Requests that the strand has sent there before come
first. -/
def State.servesAmo (s : State) (id : Nat) (a : Access) : Bool :=
  let c := bits a.addr 43 9
  let d := s.reach c
  let k := s.core d
  !(s.sentBefore a.job (some (senderMark (s.strand a.core a.slot).strid)) id c false) &&
    !(s.accs.any fun x => x.1 < id && x.2.core = a.core && x.2.slot = a.slot && x.2.stage = .pwa && bits x.2.addr 43 9 = c) &&
    ((!(k.strand msgSlot).live && k.box true = [] && k.box false = []) || (a.slot = msgSlot && s.awaitsAmo d))

/-- An atomic (10 R199): ALIGN, space and window, then what the page or the window refuses. One to another core's
package window always leaves its core: that core's message strand performs it in its turn. -/
def State.amo (s : State) (fn : AmoFn) (d a b : GReg) (dw : Bool) (o : AmOrd) (sc : Scope) (l : La) : State :=
  let n := if dw then 8 else 4
  let addr := s.rg a
  let x : Amo := ⟨fn, n, (s.rg b).toNat % 2 ^ (8 * n), (s.rg d).toNat % 2 ^ (8 * n)⟩
  match s.check addr n .amo with
  | .error c => s.trap c addr
  | .ok sp =>
    let refused := match sp with
      | .host idx _ => !s.hostAmoOk s.me.job idx fn
      | .phys pa => !isDram pa
      | _ => false
    if refused then s.trap Cause.attrOp addr
    else if s.held || s.pending true [(addr, n)] || s.portWait addr || s.relStill || (o ≠ .plain && s.loadsWait) ||
        (amReleases o && s.relWait) then s.waitAt addr sp .amo
    else
      let s := s.relDone
      let own := match sp with
        | .pkg c _ => c = s.cur.core
        | _ => false
      let far := match sp with
        | .pkg c _ => c ≠ s.cur.core
        | _ => false
      let s := if amReleases o then s.released sc else s
      if far || (s.split && !own) then
        let st := match sp with
          | .pkg .. => Stage.pwa
          | sp => sp.stage
        let (s, id) := s.depart (.amo fn (word x.b) (word x.cmp)) addr n o sc st
        s.modMe fun t => t.lateAcc id (some d) l false (t.pc + 4)
      else
        (s.amoAt s.agent addr sp x).land addr fun s old =>
          (s.acquired (amAcquires o) sc).writeLate d (word old) l

/-- AMOADD. -/
def execAmoadd (d a b : GReg) (w : Bool) (o : AmOrd) (c : Scope) (l : La) (s : State) : Res :=
  .next (s.amo .add d a b w o c l)
/-- AMOAND. -/
def execAmoand (d a b : GReg) (w : Bool) (o : AmOrd) (c : Scope) (l : La) (s : State) : Res :=
  .next (s.amo .and d a b w o c l)
/-- AMOOR. -/
def execAmoor (d a b : GReg) (w : Bool) (o : AmOrd) (c : Scope) (l : La) (s : State) : Res :=
  .next (s.amo .or d a b w o c l)
/-- AMOXOR. -/
def execAmoxor (d a b : GReg) (w : Bool) (o : AmOrd) (c : Scope) (l : La) (s : State) : Res :=
  .next (s.amo .xor d a b w o c l)
/-- AMOMIN. -/
def execAmomin (d a b : GReg) (w : Bool) (o : AmOrd) (c : Scope) (l : La) (s : State) : Res :=
  .next (s.amo .min d a b w o c l)
/-- AMOMAX. -/
def execAmomax (d a b : GReg) (w : Bool) (o : AmOrd) (c : Scope) (l : La) (s : State) : Res :=
  .next (s.amo .max d a b w o c l)
/-- AMOMINN. -/
def execAmominn (d a b : GReg) (w : Bool) (o : AmOrd) (c : Scope) (l : La) (s : State) : Res :=
  .next (s.amo .minn d a b w o c l)
/-- AMOMAXN. -/
def execAmomaxn (d a b : GReg) (w : Bool) (o : AmOrd) (c : Scope) (l : La) (s : State) : Res :=
  .next (s.amo .maxn d a b w o c l)
/-- AMOSWP. -/
def execAmoswp (d a b : GReg) (w : Bool) (o : AmOrd) (c : Scope) (l : La) (s : State) : Res :=
  .next (s.amo .swp d a b w o c l)
/-- AMOCAS. -/
def execAmocas (d a b : GReg) (w : Bool) (o : AmOrd) (c : Scope) (l : La) (s : State) : Res :=
  .next (s.amo .cas d a b w o c l)
/-- AMOFADD: 4 bytes. -/
def execAmofadd (d a b : GReg) (o : AmOrd) (c : Scope) (l : La) (s : State) : Res :=
  .next (s.amo .fadd d a b false o c l)

/-! Fences. -/

/-- FENCE.ACQ. -/
def execFenceAcq (c : Scope) (s : State) : Res :=
  .next (if s.loadsWait then s.block else (s.acquired true c).advance)
/-- FENCE.REL: after earlier loads and atomics. Where stores are not acknowledged it holds later stores, atomics, records
and copies, not later loads (05 R93). -/
def execFenceRel (c : Scope) (s : State) : Res :=
  .next (
    if s.loadsWait then s.block
    else if s.fenceWait then ((s.fenced c).modMe fun t => { t with rel := some (widest t.rel c) }).advance
    else (((s.fenced c).relDone).released c).advance)
/-- FENCE.AR. -/
def execFenceAr (c : Scope) (s : State) : Res :=
  .next (if s.fenceWait then s.block else (((s.fenced c).relDone.released c).acquired true c).advance)
/-- FENCE.SC: as FENCE.AR.SYS. -/
def execFenceSc (s : State) : Res :=
  .next (if s.fenceWait then s.block else (((s.fenced .sys).relDone.released .sys).acquired true .sys).advance)

/-! Prefetch and flush. -/

/-- PREF (10 R196): at scope STR or COR the line enters the L1, where a load of the strand could bring it there; a
failure, or a poisoned word at the address (22 R376), leaves it without effect. -/
def execPref (a : GReg) (_w : Bool) (c : Scope) (p : BitVec 6) (s : State) : Res :=
  let addr := dispAddr (s.rg a) p 8
  let s' := match space s.me.sup addr with
    | .ok (.virt va) =>
      if 2 ≤ scopeCode c then s
      else match s.translate s.agent va .pref with
        | (s1, .ok pa ty isSealed ver _ _) =>
          if (ty = PageTy.wo ∧ !isSealed) ∨ s1.poisoned pa 1 then s1
          else s1.fill s1.cur.core s1.me.job va pa ty ver (s1.readable s1.agent va)
        | _ => s
    | _ => s
  .next s'.advance

/-- FLUSH (10 R197): the checks at issue; the strand then waits until the visits are done (FLUSH_COMPLETE). -/
def execFlush (d a : GReg) (c : Scope) (s : State) : Res :=
  let len := (s.rg d).toNat
  let addr := s.rg a
  let range (x : Nat) (phys : Bool) : State :=
    if len / 2 ^ 40 ≠ 0 then s.trap Cause.badAddr addr
    else s.await (.flush (x / 128 * 128) ((x + len + 127) / 128 * 128) phys c)
  .next (
    if len = 0 then s.advance
    else match space s.me.sup addr with
      | .error e => s.trap e addr
      | .ok (.virt va) => range va false
      | .ok (.phys pa) => range pa true
      | .ok _ => s.trap Cause.badAddr addr)

end Sys2Proof.Machine
end

