-- ==== Sys2Proof/Machine/Access.lean ====
section
/-!
DEFINITION. The path of an access that has left its core (04 R66, R72; 05 R106; 08 R155; 20 R344 to R350), and the
acknowledgement of posted stores (18 R315).
-/

namespace Sys2Proof.Machine

/-! Results and failures. -/

/-- The party of an access in flight. -/
def Access.agent (a : Access) : Agent := ⟨a.core, a.job, a.sup, a.bases⟩

/-- What an access wants of a page. -/
def AccKind.need : AccKind → Need
  | .load _ => .load
  | .store _ => .store
  | .amo .. => .amo

/-- Something done for the strand in a slot as the issuing one. -/
def State.asStrand (s : State) (c n : Nat) (f : State → State) : State :=
  let cur := s.cur
  { f { s with cur := ⟨c, n⟩ } with cur := cur }

/-- The access is no longer in flight. -/
def State.dropAcc (s : State) (id : Nat) : State := { s with accs := s.accs.del id }

/-- An outstanding instruction whose access has returned. -/
def Out.returned (id : Nat) (v : Option Word) (o : Out) : Out :=
  let f (w : Win) : Win := if w.acc = some id then { w with acc := none, val := v } else w
  let o := { o with prior := o.prior.map f }
  if o.acc = some id then { o with acc := none, val := v } else o

/-- The strand after the return of an access. -/
def Strand.returned (t : Strand) (id : Nat) (v : Option Word) : Strand :=
  ({ t with outs := t.outs.map (·.returned id v) } : Strand).settle

/-- The strand is as if the outstanding instruction and every later one had not executed (08 R155, 18 R308): its
registers, the windows that were open, its pc, later accesses and a wait or a replay begun since. A lead's followers detach
where it was, and a follower that has gone on past the instruction itself (03 R63). -/
def State.rewind (s : State) (c n : Nat) (o : Out) : State :=
  let t := s.strand c n
  let later := (t.outs.dropWhile (· ≠ o)).filterMap (·.acc)
  let s := if t.fl = .lead then s.unlead c n t.pc else s
  let s := ({ s with accs := s.accs.filter fun x => !later.contains x.1,
                     moves := s.moves.filter fun m => !(m.src = c && m.slot = n) } : State).dropUntranslated c n
  let outs := (o.prior.map fun w => w.out o.pc o.snap).filter fun x => x.acc.isSome || x.dst.isSome
  (s.modCore c (·.forget n)).modStrand c n fun t =>
    { t with regs := o.snap, outs := outs, pc := o.pc, st := .ready, held := none,
             fl := if t.fl = .follower ∧ t.pc ≠ o.pc + 4 then .none else t.fl }

/-- The oldest access of a strand that has not returned. -/
def Strand.oldest (t : Strand) : Option Out := t.outs.find? fun o => o.acc.any fun id => decide (id < 2 ^ 64)

/-- A failure that has reached a strand is taken once every earlier access has returned. -/
def State.lateFault (s : State) (c n : Nat) : State :=
  match (s.strand c n).oldest with
  | some o =>
    match o.fault with
    | some (code, a) => (s.rewind c n o).takeTrap c n ⟨code, 0, none, a, none⟩ o.pc
    | none => s
  | none => s

/-- An access returns with its result. -/
def State.accDone (s : State) (id : Nat) (a : Access) (v : Option Word) : State :=
  ((s.dropAcc id).modStrand a.core a.slot (·.returned id v)).lateFault a.core a.slot

/-- An access fails with a cause. -/
def State.accFault (s : State) (id : Nat) (a : Access) (code : BitVec 8) : State :=
  let f (o : Out) : Out := if o.acc = some id then { o with fault := some (code, a.addr) } else o
  ((s.dropAcc id).modStrand a.core a.slot fun t => { t with outs := t.outs.map f }).lateFault a.core a.slot

/-- The acquire of an access that has returned (04 R80). -/
def State.accAcquire (s : State) (a : Access) : State :=
  if amAcquires a.ord && wideScope a.scope then s.invalidateRc a.core else s

/-- What a read brought back reaches its strand. -/
def Got.reply (r : Got Nat) (id : Nat) (a : Access) : State :=
  match r with
  | .bad s c => s.accFault id a c
  | .invalid s _ _ => s.accFault id a Cause.xlFault
  | .ok s v =>
    match a.kind with
    | .load sgn => (s.accAcquire a).accDone id a (some (loadValue sgn a.size v))
    | .amo .. => (s.accAcquire a).accDone id a (some (word v))
    | .store _ => s.accDone id a none

/-- The atomic that an access carries. -/
def Access.amo (a : Access) : Amo :=
  match a.kind with
  | .amo fn b cmp => ⟨fn, a.size, b.toNat % 2 ^ (8 * a.size), cmp.toNat % 2 ^ (8 * a.size)⟩
  | _ => ⟨.or, a.size, 0, 0⟩

/-! Translation. -/

/-- A store's first translation has succeeded: the strand goes on, with the store posted or on its way (04 R72). -/
def State.storeTranslated (s : State) (id : Nat) (a : Access) (v : Word) (pa : Nat) (ty : PageTy) (shut : Bool)
    (tag : Nat) : State :=
  let full := a.ord = .ar
  s.asStrand a.core a.slot fun s =>
    if ty = .wo then
      ((s.dropAcc id).modMe fun t => { t with st := .ready }).post
        [⟨a.addr, some pa, tag, shut, a.size, v.toNat % 2 ^ (8 * a.size)⟩] (sizeCode a.size) full
    else
      let s := { s with accs := s.accs.put id { a with stage := .home pa ty tag } }
      s.modMe fun t => t.lateAcc id none 0 full (t.pc + 4)

/-- A store sent again meets a WO page: it is a posted store from now on (04 R85), once a journal entry is free. -/
def State.postMoved (s : State) (id : Nat) (a : Access) (v : Word) (pa : Nat) (shut : Bool) (tag : Nat) : State :=
  match (s.core a.core).freeEntry with
  | none => s
  | some j =>
    let pc := (((s.strand a.core a.slot).outs.find? fun o => o.acc = some id).map fun o => o.pc).getD 0
    let e : JEnt := { v := true, fail := false, cause := 0, sz := sizeCode a.size, slot := a.slot, pc := pc,
                      taken := false, job := a.job, bases := a.bases,
                      lanes := [⟨a.addr, some pa, tag, shut, a.size, v.toNat % 2 ^ (8 * a.size)⟩], seq := id }
    let s := (s.dropAcc id).modCore a.core fun k => { k with journal := k.journal.put j e }
    let f (o : Out) : Out := if o.acc = some id then { o with acc := some (journalOut j) } else o
    if a.ord = .ar then s.modStrand a.core a.slot fun t => { t with outs := t.outs.map f }
    else s.modStrand a.core a.slot (·.returned id none)

/-- A store's first translation has failed: the strand traps or parks at the store. -/
def State.storeRefused (s : State) (id : Nat) (a : Access) (f : State → State) : State :=
  s.asStrand a.core a.slot fun s => f ((s.dropAcc id).modMe fun t => { t with st := .ready })

/-- An access meets an entry that does not translate (20 R344, R350). One sent again waits at an entry with V = 0; any
other is answered when every earlier access of its strand has returned. -/
def State.accInvalid (s : State) (id : Nat) (a : Access) (moved : Bool) (entry : Nat) (v0 park : Bool) : State :=
  if moved ∧ v0 then s
  else match a.kind, moved with
    | .store _, false => s.storeRefused id a fun s => s.invalidAt entry (v0 && park) a.addr
    | _, true => s.accFault id a Cause.xlFault
    | _, false =>
      match (s.strand a.core a.slot).oldest with
      | some o =>
        if o.acc = some id then
          (s.rewind a.core a.slot o).asStrand a.core a.slot fun s => s.invalidAt entry (v0 && park) a.addr
        else s
      | none => s.dropAcc id

/-- An access at its translation slice (04 R72). -/
def State.translateAcc (s : State) (id : Nat) (a : Access) (moved : Bool) : State :=
  match s.translate a.agent (bits a.addr 0 48) a.kind.need with
  | (s1, .ok pa ty shut _ _ tag) =>
    if s.tyBefore a.core a.slot id ty then s
    else
      let s2 := { s1 with accs := s1.accs.put id { a with stage := .home pa ty tag } }
      (match a.kind with
        | .load _ => s2
        | .amo .. => if ty = .wo ∨ ty = .ip then s1.accFault id a Cause.attrOp else s2
        | .store v =>
          if !moved then s1.storeTranslated id a v pa ty shut tag
          else if ty = .wo then s1.postMoved id a v pa shut tag else s2)
  | (s1, .bad c) =>
    (match a.kind, moved with
      | .store _, false => s1.storeRefused id a fun s => s.trap c a.addr
      | _, _ => s1.accFault id a c)
  | (s1, .invalid e v0 park) => s1.accInvalid id a moved e v0 park

/-- TRANSLATION. -/
def execTranslation (id : Nat) (s : State) : Res :=
  .next (match s.acc? id with
    | some a => (match a.stage with
      | .xlate moved => s.translateAcc id a moved
      | _ => s)
    | none => s)

/-! At the home and at banks. -/

/-- Whether an access waits at its home for an earlier one of its strand with a byte in common (05 R94 item 2, R101):
accesses to the byte are performed in program order, but for plain loads of an RC page of which one may hit the L1. One
not translated yet may be to the same bytes of another mapping. -/
def State.meetsBefore (s : State) (id : Nat) (a : Access) (pa : Nat) (ty : PageTy) : Bool :=
  s.postedOver a.core a.slot id pa a.size ||
    s.flightOver a.core a.slot id pa a.size (a.kind.isStore || a.kind.isAmo || ty = .sc || ty = .ip) ||
    (wideScope a.scope && !a.kind.isStore && !a.kind.isAmo && s.accs.any fun x =>
      x.1 < id && x.2.core = a.core && x.2.slot = a.slot && wideScope x.2.scope && match x.2.stage with
        | .home pa' _ _ => rangesMeet (word pa') x.2.size (word pa) a.size
        | .xlate _ => rangesMeet (word (bits x.2.addr 0 16)) x.2.size (word (bits a.addr 0 16)) a.size
        | _ => false)

/-- A load performed at its home, or in the L1 that holds an IP line, its line filled into the L1 as its type and ord
say. -/
def State.homeLoad (s : State) (a : Access) (pa : Nat) (ty : PageTy) (tag : Nat) : Got Nat :=
  let s := if ty = .rc then s.privAccess (towerOf a.core) pa a.size false else s
  let va := bits a.addr 0 48
  match (if tag = physTag then (if s.poisoned pa a.size then none else some (s.homeRead pa a.size))
         else s.dataAt a.agent va pa a.size ty) with
  | none => .bad s Cause.poison
  | some v =>
    let keep := tag ≠ physTag ∧ (ty = .sc ∨ ty = .ip ∨ (ty = .rc ∧ !wideScope a.scope))
    .ok (if keep then s.fill a.core a.job va pa ty 0 true else s) v

/-- An access performed at its home. -/
def State.homeAcc (s : State) (a : Access) (pa : Nat) (ty : PageTy) (tag : Nat) : Got Nat :=
  match a.kind with
  | .load _ => s.homeLoad a pa ty tag
  | .store v =>
    let bs := leBytes a.size v.toNat
    if tag = physTag then .ok (s.homeWrite a.job pa bs) 0
    else .ok (s.writeHome a.agent (bits a.addr 0 48) pa ty bs true) 0
  | .amo .. =>
    if tag = physTag then s.amoHome a.job pa a.amo else s.amoPage a.agent (bits a.addr 0 48) pa ty a.amo

/-- HOME_ACCESS: not for an access that carries a dropped translation, which MOVED sends back; one whose translation
shows another type than its frame now has is refused (20 R347), and one whose frame's attribute word is poisoned (22 R376). -/
def execHomeAccess (id : Nat) (s : State) : Res :=
  .next (match s.acc? id with
    | some a => (match a.stage with
      | .home pa ty tag =>
        if tag ≠ physTag ∧ s.dropped.contains tag then s
        else if a.kind.isStore ∧ s.earlierTo a.core a.slot id [some (.slice (homeOf pa))] then s
        else if s.meetsBefore id a pa (if tag = physTag then .rc else ty) then s
        else if tag ≠ physTag ∧ s.poisoned (fatWord a.bases.fat pa) 8 then s.accFault id a Cause.poison
        else if tag ≠ physTag ∧ s.frameTy a.bases.fat pa ≠ ty then s.accFault id a Cause.attrMis
        else (s.homeAcc a pa ty tag).reply id a
      | _ => s)
    | none => s)

/-- Whether two loads of one strand may be performed in either order, in a location that no L1 serves: one of them has a scope
below CLU (05 R101). -/
def loadsFree (a b : Access) : Bool :=
  !a.kind.isStore && !a.kind.isAmo && !b.kind.isStore && !b.kind.isAmo && !(wideScope a.scope && wideScope b.scope)

/-- Whether an access to a package window waits for an earlier one of its strand with a byte in common there (05 R94 item 2,
R101). -/
def State.bankBefore (s : State) (id : Nat) (a : Access) : Bool :=
  s.accs.any fun x => x.1 < id && x.2.core = a.core && x.2.slot = a.slot && (x.2.stage = .bank || x.2.stage = .pwa) &&
    s.reach (bits x.2.addr 43 9) = s.reach (bits a.addr 43 9) && !loadsFree x.2 a &&
    rangesMeet (word (bits x.2.addr 0 20)) x.2.size (word (bits a.addr 0 20)) a.size

/-- An access of a core to its own banks: they have accepted it, and change their mode after it (04 R76). -/
def State.ownBank (s : State) (id : Nat) (a : Access) : State :=
  let off := bits a.addr 0 20
  match a.kind with
  | .store v => (Got.ok (s.scrWrite a.core off (leBytes a.size v.toNat)) 0).reply id a
  | _ =>
    (if touches (s.core a.core).spois off a.size then Got.bad s Cause.poison
      else .ok s ((s.core a.core).scratch.read off a.size)).reply id a

/-- BANK_ACCESS: a load from a bank of another core, or an access to a bank of the own. -/
def execBankAccess (id : Nat) (s : State) : Res :=
  .next (match s.acc? id with
    | some a =>
      let c := bits a.addr 43 9
      if a.stage ≠ .bank ∨ s.bankHeld c ∨ s.bankBefore id a then s
      else if s.reach c = a.core then s.ownBank id a
      else (s.readBank a.agent c (bits a.addr 0 20) a.size).reply id a
    | none => s)

/-- PACKAGE_WINDOW_ATOMIC: the target core's message strand performs it in its turn (05 R106, R107). -/
def execPackageWindowAtomic (id : Nat) (s : State) : Res :=
  .next (match s.acc? id with
    | some a =>
      let c := bits a.addr 43 9
      if a.stage ≠ .pwa ∨ s.bankHeld c ∨ (!s.turnsAway a.agent c ∧ !s.servesAmo id a) then s
      else (s.amoBank a.agent c (bits a.addr 0 20) a.amo).reply id a
    | none => s)

/-- ACCESS_REPLY: the answer of a peer or a host to a load or an atomic (20 R352, R353). -/
def execAccessReply (id : Nat) (r : Option (BitVec 6)) (v : Word) (s : State) : Res :=
  .next (s.heard fun s => match s.acc? id with
    | some a =>
      if a.stage ≠ .outside then s
      else match r with
        | some c => s.accFault id a (outsideCause a.addr a.kind (c.setWidth 8))
        | none => (Got.ok s (v.toNat % 2 ^ (8 * a.size))).reply id a
    | none => s)

/-- MOVED (20 R350): an access that carries a dropped translation goes back to its translation slice. -/
def execMoved (id : Nat) (s : State) : Res :=
  .next (match s.acc? id with
    | some a => (match a.stage with
      | .home _ _ tag =>
        if s.dropped.contains tag then { s with accs := s.accs.put id { a with stage := .xlate true } } else s
      | _ => s)
    | none => s)

/-! Posted stores. -/

/-- What becomes of one part of a posted store: performed, refused, or waiting at an entry with V = 0. -/
inductive Fate
  | done (s : State)
  | refused (cause : BitVec 8)
  | waits

/-- The collective and the byte offset that a store to a collective window names (16 R297). -/
def State.collWindow (s : State) (sup : Bool) (a : Word) : Option (Nat × Nat) :=
  match space sup a with
  | .ok (.dom dev idx off) => if dev = s.device ∧ 480 ≤ idx then some (idx - 480, off) else none
  | _ => none

/-- The offset of the go word in a collective window (16 R298). -/
def goOffset : Nat := 0xFFFFFFFFF8

/-- The collective whose go word a part of a posted store is. -/
def State.goOf (s : State) (l : Lane) : Option Nat :=
  (s.collWindow true l.addr).bind fun x => if x.2 = goOffset then some x.1 else none

/-- Whether a journal entry holds a go word. -/
def State.isGo (s : State) (e : JEnt) : Bool := e.lanes.any fun l => (s.goOf l).isSome

/-- A WO store performed at its home, translated again where its translation has been dropped (20 R350). A new leaf that
gives the page to another owner makes it a page of another type: ATTRMIS, since 18 R309 gives a posted store no IPOWNER
(log entry 106), and one that cannot be translated as a table word is poisoned is refused with XLFAULT, since R309 gives it no
POISON (log entry 122). -/
def State.performWo (s : State) (ag : Agent) (l : Lane) (pa : Nat) : Fate :=
  let bs := leBytes l.n l.v
  let wo (s : State) (pa : Nat) (shut : Bool) : Fate :=
    if s.poisoned (fatWord ag.bases.fat pa) 8 then .refused Cause.xlFault
    else if s.frameTy ag.bases.fat pa ≠ .wo then .refused Cause.attrMis
    else match s.writeWo ag pa shut bs with
      | .ok s _ => .done s
      | .bad _ c => .refused c
      | .invalid .. => .refused Cause.xlFault
  if s.dropped.contains l.tag then
    match s.translate ag (bits l.addr 0 48) .store with
    | (s, .ok pa ty shut _ _ _) =>
      if ty = .wo then wo s pa shut else .done (s.writeHome ag (bits l.addr 0 48) pa ty bs false)
    | (_, .bad c) =>
      .refused (if c = Cause.ipOwner then Cause.attrMis else if c = Cause.poison then Cause.xlFault else c)
    | (_, .invalid _ v0 _) => if v0 then .waits else .refused Cause.xlFault
  else wo s pa l.shut

/-- One part of a posted store reaches its target. -/
def State.perform (s : State) (c : Nat) (e : JEnt) (l : Lane) : Fate :=
  let ag : Agent := ⟨c, e.job, true, e.bases⟩
  match l.pa with
  | some pa => s.performWo ag l pa
  | none =>
    match space true l.addr with
    | .ok (.pkg t off) =>
      if s.bankHeld t then .waits
      else (match s.writeBank ag t off (leBytes l.n l.v) with
        | .ok s _ => .done s
        | .bad _ e => .refused e
        | .invalid .. => .refused Cause.xlFault)
    | .ok _ =>
      (match s.collWindow true l.addr with
        | some (k, off) => .done (s.collWrite e.job k off (leBytes l.n l.v))
        | none => if s.brim.st ≠ .idle then .waits else .done (s.send (.access e.job l.addr (.store (word l.v)) l.n)))
    | .error e => .refused e

/-- The parts of a posted store one after another: those performed, and those refused with their causes; nothing happens
while a part waits. -/
def performAll (act : State → Lane → Fate) : List Lane → State → List Lane → List (Lane × BitVec 8) →
    Option (State × List Lane × List (Lane × BitVec 8))
  | [], s, done, bad => some (s, done, bad)
  | l :: ls, s, done, bad =>
    match act s l with
    | .done s => performAll act ls s (done ++ [l]) bad
    | .refused x => performAll act ls s done (bad ++ [(l, x)])
    | .waits => none

/-- The core whose package window a part of a posted store goes to. -/
def Lane.core (l : Lane) : Option Nat :=
  match l.target with
  | some (.core c) => some c
  | _ => none

/-- The parts of a posted store of core `c` that were performed clear together the marks of whole words (22 R375): at the homes,
and in each core that they went to. -/
def State.laneMarks (s : State) (c : Nat) (ls : List Lane) : State :=
  let offs (k : Nat) : List (Nat × Nat) := (ls.filter fun l => l.core = some k).map fun l => (bits l.addr 0 20, l.n)
  let s := s.storedAll c (ls.filterMap fun l => l.pa.map fun p => (p, l.n)) []
  ((ls.filterMap Lane.core).eraseDups).foldl (fun s k => s.storedAll (s.reach k) [] (offs k)) s

/-- A journal entry is acknowledged or refused (18 R315): its trap is raised unless its strand has ended. -/
def State.settleEntry (s : State) (c j : Nat) (r : Option (BitVec 8 × Word)) : State :=
  let e := (s.core c).jent j
  let e' : JEnt := match r with
    | some (code, _) => { e with v := false, fail := true, cause := code.setWidth 6 }
    | none => { e with v := false, fail := false }
  let s := s.modCore c fun k => { k with journal := k.journal.put j e' }
  let s := s.modStrand c e.slot fun t => if t.live then t.returned (journalOut j) none else t
  match r with
  | some (code, a) =>
    if e.taken then s else s.raise c e.slot ⟨Cause.posted code, BitVec.ofNat 6 j, none, a, none⟩
  | none => s

/-- The parts of a posted store reach their targets, go words last, and the entry is settled: with the cause and the address of
the lowest part refused, where one is (11 R234, 18 R315). -/
def State.answer (s : State) (c j : Nat) (act : State → Lane → Fate) : State :=
  let e := (s.core c).jent j
  let isGo (l : Lane) : Bool := (s.goOf l).isSome
  match performAll act (e.lanes.filter (!isGo ·) ++ e.lanes.filter isGo) s [] [] with
  | some (s, done, bad) =>
    let first := firstSome (fun l => (bad.find? fun x => x.1 = l).map fun x => (x.2, l.addr)) e.lanes
    (s.laneMarks c done).settleEntry c j first
  | none => s

/-- A posted store without a go word is answered; `deny` says which part the other side refuses. -/
def State.answerStore (s : State) (c j : Nat) (deny : Lane → Option (BitVec 8)) : State :=
  let e := (s.core c).jent j
  if !e.v ∨ s.isGo e ∨ s.earlierTo c e.slot e.seq (e.lanes.map Lane.target) then s
  else s.answer c j fun s l => match deny l with
    | some x => .refused x
    | none => s.perform c e l

/-- STORE_ACK: a go word is answered by GO_WORD. -/
def execStoreAck (c : Nat) (j : Fin 64) (s : State) : Res := .next (s.answerStore c j.val fun _ => none)

/-- Whether a part of a posted store goes to a device or the host. -/
def State.leaves (s : State) (l : Lane) : Bool :=
  l.pa.isNone && (s.collWindow true l.addr).isNone && (match space true l.addr with
    | .ok (.dom ..) | .ok (.host ..) => true
    | _ => false)

/-- POSTED_STORE_REFUSAL: a peer or a host refuses a store: of a vector store at least one of the parts that go there, which
ones is open (log entry 131), and with a revocation every one; inside the part the target itself decides. -/
def execPostedStoreRefusal (c : Nat) (j : Fin 64) (code : BitVec 6) (s : State) : Res :=
  let out := ((s.core c).jent j.val).lanes.filter s.leaves
  let some_ := (out.zipIdx.filter fun x => bit s.freeWord x.2).map (·.1)
  let bad := if out.length ≤ 1 then out else if some_ = [] then out.take 1 else some_
  .next (s.heard fun s => (if out.length ≤ 1 then s else s.useFree).answerStore c j.val fun l =>
    let x := postedCause l.addr (code.setWidth 8)
    if bad.contains l ∨ (x = Cause.revoked ∧ s.leaves l) then some x else none)

/-- ASYNC_TRAP (18 R312). -/
def execAsyncTrap (c n : Nat) (s : State) : Res := .next (s.takeAsync c n)

end Sys2Proof.Machine
end

