-- ==== Sys2Proof/Machine/Barrier.lean ====
section
/-!
DEFINITION. Barriers (10 R201 to R204, 19 R335): arrivals, completion of phases, the instructions of major 0x28, and
the arrivals of engines and slices.
-/

namespace Sys2Proof.Machine

/-! Phases. -/

/-- A strand parked for a phase returns with its wait status, late (03 R49, 10 R202). -/
def Strand.phaseDone (t : Strand) (n : BarNo) (p : BitVec 16) (w : Word) : Strand :=
  match t.st with
  | .parked (.bar n' p' d l) => if n' = n ∧ p' = p then t.late d w l (t.pc + 4) else t
  | _ => t

/-- The current phase of a barrier completes (10 R203): its waiters become READY. What was
performed before the arrivals is seen after the wait (05 R98). -/
def Core.completePhase (k : Core) (n : BarNo) (err : Bool) (fault : BitVec 8) : Core :=
  let b := k.bar n
  let b' : Bar := { b with err := err, fault := fault, phase := b.phase + 1, arrived := 0, who := [] }
  { k.dropRc with bars := k.bars.put n.val b',
                  strands := k.strands.map fun x => (x.1, x.2.phaseDone n b.phase b'.waitStatus) }

/-- An arrival at a barrier, by the strand in a slot or by an engine; at an uninitialised barrier it is discarded. -/
def Core.arrive (k : Core) (n : BarNo) (slot : Option Nat) : Core :=
  let b := k.bar n
  if b.count = 0 then k
  else if b.arrived + 1 = b.count.toNat then k.completePhase n false 0
  else { k with bars := k.bars.put n.val { b with arrived := b.arrived + 1, who := b.who ++ slot.toList } }

/-- An error arrival (10 R203). -/
def Core.errArrive (k : Core) (n : BarNo) (code : BitVec 8) : Core :=
  if (k.bar n).count = 0 then k else k.completePhase n true code

/-- The wait status of a phase that has completed (10 R202): the kept status of the last completed phase, with bit 62
where the phase waited for is an older one (log entry 19). -/
def Bar.statusOf (b : Bar) (d : Nat) : Word := if d = 1 then b.waitStatus else b.waitStatus ||| (1#64 <<< 62)

/-- Whether a strand of the core is parked on a barrier. -/
def Core.barParked (k : Core) (n : BarNo) : Bool :=
  k.strands.any fun x => match x.2.st with
    | .parked (.bar n' ..) => n' = n
    | _ => false

/-! Instructions. -/

/-- BINIT. -/
def execBinit (a : GReg) (n : BarNo) (s : State) : Res :=
  let c := BitVec.ofNat 16 (bits (s.rg a) 0 16)
  .next (
    if c = 0 then s.trapPc Cause.badBar
    else if (s.mine.bar n).arrived ≠ 0 ∨ s.mine.barParked n then s.trapPc Cause.barBusy
    else (s.modMine fun k => { k with bars := k.bars.put n.val { Bar.empty with count := c } }).advance)

/-- BARR: ga takes the phase arrived in. The arrival follows the strand's earlier accesses (05 R98, R99). -/
def execBarr (a : GReg) (n : BarNo) (s : State) : Res :=
  let b := s.mine.bar n
  .next (
    if b.count = 0 then s.trapPc Cause.badBar
    else if s.relWait then s.block
    else (s.modMine fun k => k.arrive n (some s.cur.slot)).write a (b.phase.zeroExtend 64))

/-- BWAIT. -/
def execBwait (a b : GReg) (n : BarNo) (l : La) (s : State) : Res :=
  let x := s.mine.bar n
  let p := BitVec.ofNat 16 (bits (s.rg b) 0 16)
  let d := (x.phase - p).toNat
  .next (
    if (x.count = 0 ∧ d = 0) ∨ 32768 ≤ d then s.trapPc Cause.badBar
    else if d = 0 then
      if isGeneral s.cur.slot then s.park (.bar n p a l) else s.trapPc Cause.hPark
    else s.writeLate a (x.statusOf d) l)

/-- BAW. -/
def execBaw (a : GReg) (n : BarNo) (l : La) (s : State) : Res :=
  let x := s.mine.bar n
  let last := x.arrived + 1 = x.count.toNat
  .next (
    if x.count = 0 then s.trapPc Cause.badBar
    else if !last && !isGeneral s.cur.slot then s.trapPc Cause.hPark
    else if s.relWait then s.block
    else if last then (s.modMine fun k => k.arrive n (some s.cur.slot)).writeLate a 0 l
    else (s.modMine fun k => k.arrive n (some s.cur.slot)).park (.bar n x.phase a l))

/-- BSTAT. -/
def execBstat (a : GReg) (n : BarNo) (l : La) (s : State) : Res := .next (s.writeLate a (s.mine.bar n).word l)

/-- BRESET: an error phase with FAULT 0, then COUNT 0. -/
def execBreset (n : BarNo) (s : State) : Res :=
  .next (
    if (s.mine.bar n).count = 0 then s.advance
    else (s.modMine fun k =>
      let k := k.completePhase n true 0
      { k with bars := k.bars.put n.val { k.bar n with count := 0 } }).advance)

/-! Arrivals of engines and slices. -/

/-- An arrival that is on its way to a barrier of a core gets there, unless the core's router holds it (18 R320); the core's
hood discards it where it is shut (22 R381) or, from another core, where its job tag is not the hood's (16 R286). -/
def State.arrival (s : State) (c : Nat) (p : Packet) : State :=
  let c' := s.reach c
  if s.routerHeld c then s
  else
    let s := { s with packets := s.packets.filter fun x => x.id ≠ p.id }
    if s.closed c ∨ (p.src ≠ c' ∧ !s.inHoods p.job c') then s
    else match p.flit with
      | .arrive n => s.modCore c' fun k => k.arrive n none
      | .errArrive n code => s.modCore c' fun k => k.errArrive n code
      | _ => s

/-- The packet of a list that comes first: of the lowest source core, and of those the first sent (10 R204). -/
def firstOf (ps : List Packet) : Option Packet :=
  ps.foldl (fun b p => match b with
    | some q => if p.src < q.src then some p else some q
    | none => some p) none

/-- BARRIER_ARRIVAL: the first of the arrivals on their way to this barrier. -/
def execBarrierArrival (c : Nat) (n : BarNo) (s : State) : Res :=
  .next (match firstOf (s.packets.filter fun p => p.dst = c && p.flit = .arrive n) with
    | some p => s.arrival c p
    | none => s)

/-- ERROR_ARRIVAL. -/
def execErrorArrival (c : Nat) (n : BarNo) (s : State) : Res :=
  let mine (p : Packet) : Bool := p.dst = c && match p.flit with
    | .errArrive n' _ => n' = n
    | _ => false
  .next (match firstOf (s.packets.filter mine) with
    | some p => s.arrival c p
    | none => s)

end Sys2Proof.Machine
end

