-- ==== Sys2Proof/Machine/Bit.lean ====
section
/-!
DEFINITION. Bit-granular access (10 R193, R194) and packed elements (11 R235), within the issuing core's scratch.
-/

namespace Sys2Proof.Machine

/-- The bytes that `w` bits from bit address `b` touch: offset and count. -/
def bitSpan (b w : Nat) : Nat × Nat := (b / 8, (b % 8 + w + 7) / 8)

/-- Bits(b, w) of a core's scratch (06 R114). -/
def Core.readBits (k : Core) (b w : Nat) : Nat :=
  let (o, n) := bitSpan b w
  k.scratch.read o n / 2 ^ (b % 8) % 2 ^ w

/-- Bits(b, w) of a core's scratch written; the other bits of the bytes are unchanged. -/
def State.writeBits (s : State) (c b w v : Nat) : State :=
  let (o, n) := bitSpan b w
  let old := (s.core c).scratch.read o n
  let at0 := 2 ^ (b % 8)
  s.scrWrite c o (leBytes n (old - old / at0 % 2 ^ w * at0 + v % 2 ^ w * at0))

/-- Why a range of bits of the issuing core's scratch cannot be accessed: it reaches beyond 2^22, touches a bank not in
scratch mode, or, for a read, a poisoned word. -/
def State.bitsBad (s : State) (b w : Nat) (rd : Bool) : Option (BitVec 8) :=
  let (o, n) := bitSpan b w
  if b + w > 2 ^ 22 then some Cause.badAddr
  else if !s.mine.scratchOk o n then some Cause.bankMode
  else if rd && touches s.mine.spois o n then some Cause.poison
  else none

/-- The bit pointer that an access uses (10 R194). -/
def State.bitPtr (s : State) (pm : PtrMode) (b : GReg) (p : BpReg) : BitVec 22 :=
  if pm = .setp then (s.rg b).setWidth 22 else s.me.bp p

/-- The bit pointer after an access of `w` bits. -/
def Strand.moveBp (t : Strand) (pm : PtrMode) (p : BpReg) (bp : BitVec 22) (w : Nat) : Strand :=
  if pm = .inc ∨ pm = .setp then t.putBp p (bp + BitVec.ofNat 22 w) else t

/-- LDBIT and LDBITS (10 R194). -/
def State.loadBits (s : State) (sgn : Bool) (a b : GReg) (pm : PtrMode) (p : BpReg) (n : Fin 32) (l : La) : State :=
  if pm = .xch then
    let old := s.me.bp p
    (s.modMe fun t => t.putBp p ((t.g b).setWidth 22)).writeLate a (old.zeroExtend 64) l
  else
    let w := n.val + 1
    let bp := s.bitPtr pm b p
    match s.bitsBad bp.toNat w true with
    | some c => s.trap c (bp.zeroExtend 64)
    | none =>
      if s.held then s.block
      else
        let v := s.mine.readBits bp.toNat w
        (s.modMe fun t => t.moveBp pm p bp w).writeLate a (if sgn then sext v w else word v) l

/-- LDBIT. -/
def execLdbit (a b : GReg) (pm : PtrMode) (p : BpReg) (n : Fin 32) (l : La) (s : State) : Res :=
  .next (s.loadBits false a b pm p n l)
/-- LDBITS. -/
def execLdbits (a b : GReg) (pm : PtrMode) (p : BpReg) (n : Fin 32) (l : La) (s : State) : Res :=
  .next (s.loadBits true a b pm p n l)

/-- STBIT: one read-modify-write of the bytes it touches. -/
def execStbit (a b : GReg) (pm : PtrMode) (p : BpReg) (n : Fin 32) (s : State) : Res :=
  let w := n.val + 1
  let bp := s.bitPtr pm b p
  .next (
    match s.bitsBad bp.toNat w false with
    | some c => s.trap c (bp.zeroExtend 64)
    | none =>
      if s.held || s.relStill then s.block
      else ((s.relDone.writeBits s.cur.core bp.toNat w (s.rg a).toNat).modMe fun t => t.moveBp pm p bp w).advance)

/-! Packed elements. -/

/-- An element of e bits extended to its lane (11 R235). -/
def extendElem (ty : IntTy) (v e : Nat) : Nat :=
  if intSigned ty ∧ ty ≠ .t2 then wrap ty.width (sint v e) else v

/-- The bit pointer of VLDBIT or VSTBIT after it: inactive lanes are counted too. -/
def Strand.passBp (t : Strand) (inc : Bool) (p : BpReg) (n : Nat) : Strand :=
  if inc then t.putBp p (t.bp p + BitVec.ofNat 22 n) else t

/-- The cause of a read of packed elements: POISON where an active one touches a poisoned word; an inactive one is not
read (11 R220, 22 R376). -/
def State.elemsBad (s : State) (b e w : Nat) (k : KWord) : Option (BitVec 8) :=
  let bad (j : Nat) : Bool := k.getLsbD j && touches s.mine.spois (bitSpan (b + j * e) e).1 (bitSpan (b + j * e) e).2
  if (List.range (laneCount w)).any bad then some Cause.poison else none

/-- VLDBIT: a code 0b10 of T2 is loaded as it stands and flags nothing: what reads it as a number does (log entry 107). -/
def execVldbit (d : VReg) (i : Bool) (p : BpReg) (e : Fin 32) (k : KReg) (ty : IntTy) (s : State) : Res :=
  let w := ty.width
  let n := laneCount w * (e.val + 1)
  let b := (s.me.bp p).toNat
  if !hasVec s.cur.slot s.me then .next (s.trapPc Cause.noLease)
  else match (s.bitsBad b n false).or (s.elemsBad b (e.val + 1) w (s.me.kr k)) with
  | some c => .next (s.trap c (word b))
  | none =>
    let core := s.mine
    if s.held then .next s.block else s.vec fun t => (t.putV d.val (masked w (t.kr k) (t.vr d.val) fun j =>
      extendElem ty (core.readBits (b + j * (e.val + 1)) (e.val + 1)) (e.val + 1))).passBp i p n

/-- The active elements of VSTBIT written in ascending order. -/
def State.putElems (s : State) (b e w : Nat) (k : KWord) (x : VWord) : State :=
  (List.range (laneCount w)).foldl (fun s j =>
    if k.getLsbD j then s.writeBits s.cur.core (b + j * e) e (lane w x j) else s) s

/-- VSTBIT. -/
def execVstbit (d : VReg) (i : Bool) (p : BpReg) (e : Fin 32) (k : KReg) (ty : IntTy) (s : State) : Res :=
  let w := ty.width
  let n := laneCount w * (e.val + 1)
  let b := (s.me.bp p).toNat
  if !hasVec s.cur.slot s.me then .next (s.trapPc Cause.noLease)
  else match s.bitsBad b n false with
  | some c => .next (s.trap c (word b))
  | none =>
    if s.held || s.relStill then .next s.block
    else (s.relDone.putElems b (e.val + 1) w (s.me.kr k) (s.me.vr d.val)).vec fun t => t.passBp i p n

end Sys2Proof.Machine
end

