-- ==== Sys2Proof/Machine/Scalar.lean ====
section
/-!
DEFINITION. Scalar instructions: register-register (09 R170, R171), immediate (R173) and address (R174).
-/

namespace Sys2Proof.Machine

/-- The exact product of two words read as signed, bits [127:64]. -/
def mulHigh (a b : Word) : Word := BitVec.ofInt 64 (a.toInt * b.toInt / 2 ^ 64)

/-- DIV (09 R170): truncated toward zero; all ones for a zero divisor. -/
def divS (a b : Word) : Word := if b = 0 then BitVec.allOnes 64 else BitVec.ofInt 64 (a.toInt.tdiv b.toInt)

/-- DIVN. -/
def divU (a b : Word) : Word := if b = 0 then BitVec.allOnes 64 else word (a.toNat / b.toNat)

/-- REM: a less b times the quotient. -/
def remS (a b : Word) : Word := if b = 0 then a else BitVec.ofInt 64 (a.toInt.tmod b.toInt)

/-- REMN. -/
def remU (a b : Word) : Word := if b = 0 then a else word (a.toNat % b.toNat)

/-- A shift count: bits [5:0]. -/
def shCount (b : Word) : Nat := bits b 0 6

/-- Leading zero bits; 64 for zero. -/
def clz64 (a : Word) : Nat := if a = 0 then 64 else 63 - Nat.log2 a.toNat

/-- Trailing zero bits among the lowest `n`, from bit `64 - n` up. -/
def ctzFrom (a : Word) : Nat → Nat
  | 0 => 0
  | n + 1 => if a.getLsbD (63 - n) then 0 else ctzFrom a n + 1

/-- Trailing zero bits; 64 for zero. -/
def ctz64 (a : Word) : Nat := ctzFrom a 64

/-- One bits. -/
def popc64 (a : Word) : Nat := ((List.range 64).filter fun i => a.getLsbD i).length

/-- A mask of `w` low bits. -/
def lowMask (w : Nat) : Word := word (2 ^ w - 1)

/-- BFX (09 R171): w bits from pos, zero-extended; bits beyond bit 63 read as 0. -/
def bfxOf (a b : Word) : Word := (a >>> bits b 0 6) &&& lowMask (bits b 8 6 + 1)

/-- BFI (09 R171): the low w bits of a put into d at pos; bits beyond bit 63 are dropped. -/
def bfiOf (d a b : Word) : Word :=
  let m := lowMask (bits b 8 6 + 1)
  let p := bits b 0 6
  (d &&& ~~~ (m <<< p)) ||| ((a &&& m) <<< p)

/-- A truth value as 1 or 0. -/
def flag (b : Bool) : Word := if b then 1 else 0

/-- A sign-extended 18-bit immediate. -/
def sx18 (i : BitVec 18) : Word := i.signExtend 64

/-- A zero-extended 18-bit immediate. -/
def zx18 (i : BitVec 18) : Word := i.zeroExtend 64


/-- ADD (09 R170). -/
def execAdd (d a b : GReg) (s : State) : Res := .next (s.write d (s.rg a + s.rg b))

/-- SUB (09 R170). -/
def execSub (d a b : GReg) (s : State) : Res := .next (s.write d (s.rg a - s.rg b))

/-- MUL: bits [63:0] of the product (09 R170). -/
def execMul (d a b : GReg) (s : State) : Res := .next (s.write d (s.rg a * s.rg b))

/-- MULH: bits [127:64] of the signed product (09 R170). -/
def execMulh (d a b : GReg) (s : State) : Res := .next (s.write d (mulHigh (s.rg a) (s.rg b)))

/-- MULHN: bits [127:64] of the unsigned product (09 R170). -/
def execMulhn (d a b : GReg) (s : State) : Res := .next (s.write d (word ((s.rg a).toNat * (s.rg b).toNat / 2 ^ 64)))

/-- DIV (09 R170). -/
def execDiv (d a b : GReg) (s : State) : Res := .next (s.write d (divS (s.rg a) (s.rg b)))

/-- DIVN (09 R170). -/
def execDivn (d a b : GReg) (s : State) : Res := .next (s.write d (divU (s.rg a) (s.rg b)))

/-- REM (09 R170). -/
def execRem (d a b : GReg) (s : State) : Res := .next (s.write d (remS (s.rg a) (s.rg b)))

/-- REMN (09 R170). -/
def execRemn (d a b : GReg) (s : State) : Res := .next (s.write d (remU (s.rg a) (s.rg b)))

/-- AND (09 R170). -/
def execAnd (d a b : GReg) (s : State) : Res := .next (s.write d (s.rg a &&& s.rg b))

/-- OR (09 R170). -/
def execOr (d a b : GReg) (s : State) : Res := .next (s.write d (s.rg a ||| s.rg b))

/-- XOR (09 R170). -/
def execXor (d a b : GReg) (s : State) : Res := .next (s.write d (s.rg a ^^^ s.rg b))

/-- ANDN (09 R170). -/
def execAndn (d a b : GReg) (s : State) : Res := .next (s.write d (s.rg a &&& ~~~ s.rg b))

/-- ORN (09 R170). -/
def execOrn (d a b : GReg) (s : State) : Res := .next (s.write d (s.rg a ||| ~~~ s.rg b))

/-- SHL (09 R170). -/
def execShl (d a b : GReg) (s : State) : Res := .next (s.write d (s.rg a <<< shCount (s.rg b)))

/-- SHR (09 R170). -/
def execShr (d a b : GReg) (s : State) : Res := .next (s.write d (s.rg a >>> shCount (s.rg b)))

/-- SRA (09 R170). -/
def execSra (d a b : GReg) (s : State) : Res := .next (s.write d ((s.rg a).sshiftRight (shCount (s.rg b))))

/-- ROT (09 R170). -/
def execRot (d a b : GReg) (s : State) : Res := .next (s.write d ((s.rg a).rotateLeft (shCount (s.rg b))))

/-- MIN, signed (09 R170). -/
def execMin (d a b : GReg) (s : State) : Res := .next (s.write d (if (s.rg a).slt (s.rg b) then s.rg a else s.rg b))

/-- MAX, signed (09 R170). -/
def execMax (d a b : GReg) (s : State) : Res := .next (s.write d (if (s.rg a).slt (s.rg b) then s.rg b else s.rg a))

/-- MINN, unsigned (09 R170). -/
def execMinn (d a b : GReg) (s : State) : Res := .next (s.write d (if s.rg a < s.rg b then s.rg a else s.rg b))

/-- MAXN, unsigned (09 R170). -/
def execMaxn (d a b : GReg) (s : State) : Res := .next (s.write d (if s.rg a < s.rg b then s.rg b else s.rg a))

/-- SLT (09 R170). -/
def execSlt (d a b : GReg) (s : State) : Res := .next (s.write d (flag ((s.rg a).slt (s.rg b))))

/-- SLTN (09 R170). -/
def execSltn (d a b : GReg) (s : State) : Res := .next (s.write d (flag ((s.rg a).ult (s.rg b))))

/-- SEQ (09 R170). -/
def execSeq (d a b : GReg) (s : State) : Res := .next (s.write d (flag (s.rg a == s.rg b)))

/-- SEL: d is condition and destination (09 R171). -/
def execSel (d a b : GReg) (s : State) : Res := .next (s.write d (if s.rg d ≠ 0 then s.rg a else s.rg b))

/-- BFX (09 R171). -/
def execBfx (d a b : GReg) (s : State) : Res := .next (s.write d (bfxOf (s.rg a) (s.rg b)))

/-- BFI (09 R171). -/
def execBfi (d a b : GReg) (s : State) : Res := .next (s.write d (bfiOf (s.rg d) (s.rg a) (s.rg b)))

/-- CLZ (09 R170). -/
def execClz (d a : GReg) (s : State) : Res := .next (s.write d (word (clz64 (s.rg a))))

/-- CTZ (09 R170). -/
def execCtz (d a : GReg) (s : State) : Res := .next (s.write d (word (ctz64 (s.rg a))))

/-- POPC (09 R170). -/
def execPopc (d a : GReg) (s : State) : Res := .next (s.write d (word (popc64 (s.rg a))))

/-- ADDI (09 R173). -/
def execAddi (d a : GReg) (i : BitVec 18) (s : State) : Res := .next (s.write d (s.rg a + sx18 i))

/-- ANDI (09 R173). -/
def execAndi (d a : GReg) (i : BitVec 18) (s : State) : Res := .next (s.write d (s.rg a &&& zx18 i))

/-- ORI (09 R173). -/
def execOri (d a : GReg) (i : BitVec 18) (s : State) : Res := .next (s.write d (s.rg a ||| zx18 i))

/-- XORI (09 R173). -/
def execXori (d a : GReg) (i : BitVec 18) (s : State) : Res := .next (s.write d (s.rg a ^^^ zx18 i))

/-- SLTI (09 R173). -/
def execSlti (d a : GReg) (i : BitVec 18) (s : State) : Res := .next (s.write d (flag ((s.rg a).slt (sx18 i))))

/-- SLTNI (09 R173). -/
def execSltni (d a : GReg) (i : BitVec 18) (s : State) : Res := .next (s.write d (flag ((s.rg a).ult (zx18 i))))

/-- SHLI (09 R173). -/
def execShli (d a : GReg) (n : BitVec 6) (s : State) : Res := .next (s.write d (s.rg a <<< n.toNat))

/-- SHRI (09 R173). -/
def execShri (d a : GReg) (n : BitVec 6) (s : State) : Res := .next (s.write d (s.rg a >>> n.toNat))

/-- SRAI (09 R173). -/
def execSrai (d a : GReg) (n : BitVec 6) (s : State) : Res := .next (s.write d ((s.rg a).sshiftRight n.toNat))

/-- LI (09 R173). -/
def execLi (d : GReg) (i : BitVec 18) (s : State) : Res := .next (s.write d (sx18 i))

/-- LIS: the top 18 bits of d are lost (09 R173). -/
def execLis (d : GReg) (i : BitVec 18) (s : State) : Res := .next (s.write d ((s.rg d <<< 18) ||| zx18 i))

/-- ADDPC: from its own address (09 R173). -/
def execAddpc (d : GReg) (i : BitVec 18) (s : State) : Res := .next (s.write d (s.me.pc + sx18 i * 4))

/-- LEA: no space or alignment check (09 R174). -/
def execLea (d a : GReg) (i : BitVec 16) (s : State) : Res := .next (s.write d (s.rg a + i.signExtend 64))

/-- MKWIN: a package window address of core ga[8:0] (09 R174). -/
def execMkwin (d a : GReg) (i : BitVec 16) (s : State) : Res :=
  .next (s.write d (word (2 ^ 63 + bits (s.rg a) 0 9 * 2 ^ 43 + 8 * i.toNat)))

/-- What MYID reads (09 R174). -/
def State.myId (s : State) : IdSel → Word
  | .core => word s.cur.core
  | .cluster => word (clusterOf s.cur.core)
  | .strand => s.me.strid.zeroExtend 64
  | .job => s.me.job.zeroExtend 64
  | .device => word s.device

/-- MYID (09 R174). -/
def execMyid (d : GReg) (i : IdSel) (s : State) : Res := .next (s.write d (s.myId i))

end Sys2Proof.Machine
end

