-- ==== Sys2Proof/Machine/Copy.lean ====
section
/-!
DEFINITION. Copies (10 R205 to R207, 04 R86, R87; 20 R354), tags (10 R208), rings (R209, R210, 04 R88) and bank modes
(10 R211, 04 R76), with the events of the copy unit and the edge engines.
-/

namespace Sys2Proof.Machine

/-! Patterns (10 R205). -/

/-- The value of a 40-bit stride in bits [63:24] of a word. -/
def stride40 (w : Word) : Int := sint (bits w 24 40) 40

/-- Dimension `i` of a pattern block. -/
def patDim (ws : List Word) (i : Nat) : Nat × Int × Int :=
  (bits (ws.getD (1 + 2 * i) 0) 0 24, stride40 (ws.getD (1 + 2 * i) 0), stride40 (ws.getD (2 + 2 * i) 0))

/-- ValidPattern (10 R206). -/
def validPattern (ws : List Word) : Bool :=
  let w0 := ws.getD 0 0
  let n := bits w0 0 4
  1 ≤ n && n ≤ 8 && bits w0 8 24 ≠ 0 && bits w0 4 4 = 0 && bits w0 32 32 = 0 &&
    ((List.range n).all fun i => (patDim ws i).1 ≠ 0 && bits (ws.getD (2 + 2 * i) 0) 0 24 = 0) &&
    ((List.range 17).all fun i => i < 1 + 2 * n || ws.getD i 0 = 0)

/-- The pattern that a valid block describes. -/
def patternOf (ws : List Word) : Pattern :=
  { esize := bits (ws.getD 0 0) 8 24, dims := (List.range (bits (ws.getD 0 0) 0 4)).map (patDim ws) }

/-- How many elements a pattern has. -/
def Pattern.total (p : Pattern) : Nat := p.dims.foldl (fun n d => n * d.1) 1

/-- The offsets of element `i` at source and destination, dimension 0 varying fastest. -/
def elemOffsets : List (Nat × Int × Int) → Nat → Int × Int
  | [], _ => (0, 0)
  | (n, ss, ds) :: dims, i =>
    let (a, b) := elemOffsets dims (i / n)
    (a + (i % n : Nat) * ss, b + (i % n : Nat) * ds)

/-- A signed offset from an address. -/
def offAddr (a : Word) (o : Int) : Word := a + BitVec.ofInt 64 o

/-- A pattern block read by plain loads of the strand: ALIGN, the read's own cause, or BADPAT (10 R206). -/
def State.readPattern (s : State) (a : Word) : Except State (State × Pattern) :=
  if a.toNat % 8 ≠ 0 then .error (s.trap Cause.align a)
  else match s.words a 17 with
    | .error s => .error s
    | .ok (s, ws) => if validPattern ws then .ok (s, patternOf ws) else .error (s.trap Cause.badPat a)

/-! The engine (04 R86). -/

/-- The tower that an address leads to, where that can be told at issue. -/
def State.towerAt (s : State) (ag : Agent) (a : Word) : Option Nat :=
  match space ag.sup a with
  | .ok (.pkg c _) => some (towerOf c)
  | .ok (.phys pa) => if isDram pa then some (towerOf (homeOf pa)) else none
  | .ok (.virt va) =>
    match (s.translate ag va .pref).2 with
    | .ok pa .. => some (towerOf (homeOf pa))
    | _ => none
  | _ => none

/-- Rows and columns of the edge engines' routers (01 R17). -/
def edgeAt : List (Nat × Nat) := [(0, 7), (7, 8), (3, 0), (4, 15)]

/-- Distance of two numbers. -/
def apart (a b : Nat) : Nat := a - b + (b - a)

/-- Mesh hops from a core to an edge engine of its die. -/
def edgeHops (c : Nat) (e : Fin 4) : Nat :=
  let p := edgeAt.getD e.val (0, 0)
  apart (rowOf c) p.1 + apart (colOf c) p.2

/-- The nearest edge engine; the lower number of two as near. -/
def edgeOf (c : Nat) : Fin 4 :=
  [1, 2, 3].foldl (fun b e => if edgeHops c e < edgeHops c b then e else b) 0

/-- Where an element starts at source and destination. -/
def copyEnds (p : Pattern) (dst src : Word) (i : Nat) : Word × Word :=
  let o := elemOffsets p.dims i
  (offAddr src o.1, offAddr dst o.2)

/-- Where the 64 KiB blocks begin that `n` bytes at an address lie in, the first by the address itself. -/
def blocks (a : Word) (n : Nat) : List Word :=
  a :: (List.range (n / 0x10000 + 1)).filterMap fun i =>
    let b := (a.toNat / 0x10000 + i + 1) * 0x10000
    if b < a.toNat + n then some (word b) else none

/-- The engine of a copy: the copy unit when every byte of both its ends lies in the issuing core's tower (a 64 KiB block
lies in one tower: R67, R65), else an edge engine. -/
def State.engineOf (s : State) (p : Pattern) (dst src : Word) : Option (Fin 4) :=
  let inTower (a : Word) : Bool := (blocks a p.esize).all fun b => s.towerAt s.agent b = some (towerOf s.cur.core)
  let near (i : Nat) : Bool :=
    let (a, b) := copyEnds p dst src i
    inTower a && inTower b
  if (List.range p.total).all near then none else some (edgeOf s.cur.core)

/-- A copy command of the issuing strand enters the copy unit. -/
def State.queueCopy (s : State) (tag : Fin 64) (ring : Option (Nat × Nat)) (dst src : Word) (p : Pattern) (sc : Scope)
    (acq rel : Bool) : State :=
  let x : Copy := { id := s.serial, slot := s.cur.slot, strid := s.me.strid, job := s.me.job, sup := s.me.sup, bases := s.mine.bases,
                    tag := tag,
                    ring := ring, dst := dst, src := src, pat := p, scope := sc, acq := acq, rel := rel,
                    edge := s.engineOf p dst src, hint := none, done := 0, orphan := false, banks := [], fault := none,
                    complete := false }
  ({ s with serial := s.serial + 1 } : State).modMine fun k => { k with copies := k.copies ++ [x] }

/-- Whether a tag's copy is in flight. -/
def Core.copyBusy (k : Core) (t : Fin 64) : Bool := k.copies.any fun x => x.ring.isNone && x.tag = t

/-- CPY (10 R206). -/
def execCpy (t : Fin 64) (d sr p : GReg) (c : Scope) (q r : Bool) (s : State) : Res :=
  let dst := s.rg d
  let src := s.rg sr
  .next (
    match s.readPattern (s.rg p) with
    | .error s => s
    | .ok (s, pat) =>
      match space s.me.sup src, space s.me.sup dst with
      | .error e, _ => s.trap e src
      | _, .error e => s.trap e dst
      | .ok _, .ok _ =>
        if s.held || s.relStill || s.mine.copyBusy t || 16 ≤ s.mine.copies.length then s.block
        else
          let s := s.relDone.modMine fun k => { k with tags := k.tags &&& ~~~ (1#64 <<< t.val) }
          (s.queueCopy t none dst src pat c q r).advance)

/-! Elements. -/

/-- The pieces of [a, a + n) that lie in one naturally aligned 8-byte word each. -/
def units (a : Word) : Nat → Nat → List (Word × Nat)
  | 0, _ => []
  | fuel + 1, n =>
    if n = 0 then []
    else
      let m := min n (8 - a.toNat % 8)
      (a, m) :: units (a + word m) fuel (n - m)

/-- Whether a virtual address translates to an IP page for a party. -/
def State.onIp (s : State) (ag : Agent) (a : Word) : Bool :=
  match space ag.sup a with
  | .ok (.virt va) => (match (s.translate ag va ⟨false, false, false, false⟩).2 with
      | .ok _ ty .. => ty = .ip
      | _ => false)
  | _ => false

/-- The party of a copy. -/
def Copy.agent (x : Copy) (c : Nat) : Agent := ⟨c, x.job, x.sup, x.bases⟩

/-- An engine reads one unit (20 R346: an edge engine is no owner of an IP page; 20 R354: a bank that changes refuses). -/
def State.copyRead (s : State) (ag : Agent) (edge : Bool) (a : Word) (n : Nat) : Got Nat :=
  if edge && s.onIp ag a then .bad s Cause.ipOwner else s.readAt ag a n .engine

/-- Whether a bank takes a copy's write: in scratch mode, and not changing unless the copy has written into it before
(20 R354). -/
def Core.copyBank (k : Core) (c b : Nat) (x : Copy) : Bool :=
  k.scratchBank b || (k.bank b = .scratch && x.banks.contains (c * 16 + b))

/-- A copy writes one unit. -/
def State.copyWrite (s : State) (c : Nat) (x : Copy) (a : Word) (bs : List Byte) : Got Unit :=
  let ag := x.agent c
  match space ag.sup a with
  | .ok (.pkg t off) =>
    let t' := s.reach t
    if !s.inHoods x.job t || s.turnsAway ag t then .bad s Cause.hoodRef
    else if (s.core t').copyBank t' (bankOf off) x then .ok (s.scrWrite t' off bs) () else .bad s Cause.bankMode
  | _ => if x.edge.isSome && s.onIp ag a then .bad s Cause.ipOwner else s.writeAt ag a bs false

/-- The bytes of an element, or the cause its read fails with. -/
def State.elemRead (s : State) (ag : Agent) (edge : Bool) :
    List (Word × Nat) → State × Except (BitVec 8) (List Byte)
  | [] => (s, .ok [])
  | (a, n) :: us =>
    match s.copyRead ag edge a n with
    | .bad s e => (s, .error e)
    | .invalid s _ _ => (s, .error Cause.xlFault)
    | .ok s v =>
      match State.elemRead s ag edge us with
      | (s, .ok bs) => (s, .ok (leBytes n v ++ bs))
      | r => r

/-- An element's bytes written, or the cause a write fails with. -/
def State.elemWrite (s : State) (c : Nat) (x : Copy) : List (Word × Nat) → List Byte → State × Option (BitVec 8)
  | [], _ => (s, none)
  | (a, n) :: us, bs =>
    match s.copyWrite c x a (bs.take n) with
    | .bad s e => (s, some e)
    | .invalid s _ _ => (s, some Cause.xlFault)
    | .ok s _ => State.elemWrite s c x us (bs.drop n)

/-- A change to a copy that a core holds. -/
def Core.modCopy (k : Core) (id : Nat) (f : Copy → Copy) : Core :=
  { k with copies := k.copies.map fun x => if x.id = id then f x else x }

/-- The banks that a write of `n` bytes at an address touches, as core·16 + bank. -/
def State.banksOf (s : State) (a : Word) (n : Nat) : List Nat :=
  match space true a with
  | .ok (.pkg t off) =>
    let b := bankOf off
    let e := bankOf (off + (n - 1))
    (upFrom b (e - b + 1)).map fun i => s.reach t * 16 + i
  | _ => []

/-- The trap that a copy's fault raises (09 R186, 18 R308). R309 has no PRIV of origin 10: an element of a user strand's
copy that comes to lie in physical space breaks its address space, BADADDR (log entry 108). -/
def Copy.trap (x : Copy) (code : BitVec 8) (a : Word) : TrapInfo :=
  { code := Cause.copied (if code = Cause.priv then Cause.badAddr else code),
    jent := match x.ring with
      | some (_, i) => BitVec.ofNat 6 i
      | none => BitVec.ofNat 6 x.tag.val,
    ring := x.ring.map fun r => BitVec.ofNat 14 (r.1 / 32),
    faddr := a, copy := some x.id }

/-- One element of a copy is performed, or the copy stops at it (10 R207): a failed element writes nothing. One held at a
router waits (18 R320). After detection of a supply loss no element is performed (23 R392). -/
def State.copyElem1 (s : State) (c id : Nat) : State :=
  match (s.core c).copies.find? (·.id = id) with
  | none => s
  | some x =>
    if s.deaf ∨ x.fault.isSome ∨ x.hint.isSome ∨ x.complete ∨ x.pat.total ≤ x.done then s
    else
      let n := x.pat.esize
      let (a, b) := copyEnds x.pat x.dst x.src x.done
      let stop (s : State) (code : BitVec 8) (at0 : Word) : State :=
        s.modCore c fun k => k.modCopy id fun x => { x with fault := some (x.trap code at0) }
      if s.heldAt c a || s.heldAt c b then s
      else match s.elemRead (x.agent c) x.edge.isSome (units a (n / 8 + 2) n) with
      | (s, .error e) => stop s e a
      | (s, .ok bs) =>
        match s.elemWrite c x (units b (n / 8 + 2) n) bs with
        | (_, some e) => stop s e b
        | (s', none) => s'.modCore c fun k => k.modCopy id fun x =>
            { x with done := x.done + 1, banks := (x.banks ++ s.banksOf b n).eraseDups }

/-- `n` elements of a copy are performed. -/
def State.copyElems (s : State) (c id : Nat) : Nat → State
  | 0 => s
  | n + 1 => State.copyElems (s.copyElem1 c id) c id n

/-- Every element that is left of a copy is performed. -/
def State.copyRest (s : State) (c id : Nat) : State :=
  match (s.core c).copies.find? (·.id = id) with
  | none => s
  | some x => s.copyElems c id (x.pat.total - x.done)

/-- COPY_COMPLETE: the release point passes and the tag is set, or WR of the ring advances. A copy that faults on the
way stops instead. -/
def execCopyComplete (c id : Nat) (s : State) : Res :=
  let s := s.copyRest c id
  .next (match (s.core c).copies.find? (·.id = id) with
    | none => s
    | some x =>
      if x.fault.isSome ∨ x.complete ∨ x.done < x.pat.total then s
      else s.modCore c fun k => k.finishCopy id)

/-- COPY_FAULT (10 R207): the fault reaches the issuing strand as an asynchronous trap; where the strand has ended, no
trap is raised and the copy leaves. -/
def execCopyFault (c id : Nat) (s : State) : Res :=
  let s := s.copyRest c id
  .next (match (s.core c).copies.find? (·.id = id) with
    | none => s
    | some x =>
      match x.fault with
      | none => s
      | some i =>
        let t := s.strand c x.slot
        if t.live ∧ t.strid = x.strid ∧ !x.orphan then
          if t.traps.contains i ∨ (t.held.any fun h => h.1 = i) ∨ x.complete then s else s.raise c x.slot i
        else s.modCore c fun k => k.finishCopy id)

/-- EDGE_REFUSAL (04 R87): the engine has no free place and the request backs off; the core counts it (17 R303). -/
def execEdgeRefusal (c id : Nat) (h : Fin 4096) (s : State) : Res :=
  .next (match (s.core c).copies.find? (·.id = id) with
    | none => s
    | some x =>
      if x.edge.isSome ∧ x.done = 0 ∧ x.fault.isNone ∧ x.hint.isNone ∧ 16 ≤ h.val then
        s.modCore c fun k => { k.modCopy id (fun x => { x with hint := some h.val }) with refusals := k.refusals + 1 }
      else s)

/-- EDGE_RESEND: the request is sent to the same engine again. -/
def execEdgeResend (c id : Nat) (s : State) : Res :=
  .next (s.modCore c fun k => k.modCopy id fun x => { x with hint := none })

/-! Tags (10 R208). A report of a tag follows the copy's release point (05 R98). -/

/-- TAGWANY. -/
def execTagwany (a b : GReg) (l : La) (s : State) : Res :=
  let m := s.mine.tags &&& s.rg b
  .next (if m = 0 then s.block else (s.invalidateRc s.cur.core).writeLate a m l)
/-- TAGWALL. -/
def execTagwall (b : GReg) (s : State) : Res :=
  .next (if s.mine.tags &&& s.rg b = s.rg b then (s.invalidateRc s.cur.core).advance else s.block)
/-- TAGFF: the lowest tag, or 64. -/
def execTagff (a b : GReg) (l : La) (s : State) : Res :=
  .next ((s.invalidateRc s.cur.core).writeLate a (word (ctz64 (s.mine.tags &&& s.rg b))) l)
/-- TAGCLR. -/
def execTagclr (b : GReg) (s : State) : Res :=
  .next ((s.modMine fun k => { k with tags := k.tags &&& ~~~ (s.rg b) }).advance)

/-! Rings (10 R209, 19 R336). -/

/-- The scratch offset of the ring object at an address, or the cause of refusing it: ALIGN, then BADADDR unless it is
in the issuing core's own scratch, then BANKMODE. -/
def State.ringAt (s : State) (a : Word) : Except (BitVec 8) Nat :=
  if a.toNat % 32 ≠ 0 then .error Cause.align
  else match space s.me.sup a with
    | .ok (.pkg c off) =>
      if c ≠ s.cur.core then .error Cause.badAddr
      else if !s.mine.scratchOk off 32 then .error Cause.bankMode
      else if touches s.mine.spois off 32 then .error Cause.poison
      else .ok off
    | _ => .error Cause.badAddr

/-- Whether a number is a power of two. -/
def isPow2 (n : Nat) : Bool := n ≠ 0 && n &&& (n - 1) = 0

/-- SLOTS of a ring. -/
def Core.ringSlots (k : Core) (off : Nat) : Nat := k.ringWord off 1 % 2 ^ 32
/-- SLOTSZ of a ring. -/
def Core.ringSize (k : Core) (off : Nat) : Nat := k.ringWord off 1 / 2 ^ 32

/-- Whether SLOTS, SLOTSZ and the reserved bits of a ring are as 04 R88 states. -/
def Core.ringOk (k : Core) (off : Nat) : Bool :=
  let n := k.ringSlots off
  let z := k.ringSize off
  isPow2 n && 2 ≤ n && n ≤ 65536 && z % 8 = 0 && 8 ≤ z && z ≤ 65536 && k.ringWord off 3 / 2 ^ 32 = 0

/-- The address of slot `i` of a ring. -/
def Core.slotAddr (k : Core) (off i : Nat) : Word :=
  word (k.ringWord off 0) + word (k.ringSize off * (i % k.ringSlots off))

/-- The difference of two slot indices, counted modulo 2^32. -/
def slotDiff (a b : Nat) : Nat := (a + 2 ^ 32 - b) % 2 ^ 32

/-- RGINIT. -/
def execRginit (a : GReg) (s : State) : Res :=
  let r := s.rg a
  .next (
    match s.ringAt r with
    | .error e => s.trap e r
    | .ok off =>
      if !s.mine.ringOk off ∨ s.mine.ringWord off 0 % 8 ≠ 0 then s.trap Cause.badRing r
      else (s.scrWrite s.cur.core (off + 16) (leBytes 16 0)).advance)

/-- RGFILL: a copy of one slot. -/
def execRgfill (a b : GReg) (q r : Bool) (c : Scope) (s : State) : Res :=
  let x := s.rg a
  .next (
    match s.ringAt x with
    | .error e => s.trap e x
    | .ok off =>
      let k := s.mine
      let f := k.ringFill off
      if !k.ringOk off then s.trap Cause.badRing x
      else if s.held || s.relStill || slotDiff f (k.ringRd off) = k.ringSlots off || 16 ≤ k.copies.length then s.block
      else
        let p : Pattern := ⟨k.ringSize off, [(1, 0, 0)]⟩
        let s := s.relDone.queueCopy 0 (some (off, f)) (k.slotAddr off f) (s.rg b) p c q r
        (s.scrWrite s.cur.core (off + 24) (leBytes 8 ((f + 1) % 2 ^ 32))).advance)

/-- RGAWAIT: it reports the slot's tag (10 R210). -/
def execRgawait (a b : GReg) (n : Fin 32) (l : La) (s : State) : Res :=
  let x := s.rg b
  .next (
    match s.ringAt x with
    | .error e => s.trap e x
    | .ok off =>
      let k := s.mine
      if !k.ringOk off ∨ k.ringSlots off ≤ n.val then s.trap Cause.badRing x
      else if slotDiff (k.ringWr off) (k.ringRd off) ≤ n.val then s.block
      else (s.invalidateRc s.cur.core).writeLate a (k.slotAddr off (k.ringRd off + n.val)) l)

/-- RGREL: after every earlier load of the strand has returned. -/
def execRgrel (a : GReg) (s : State) : Res :=
  let x := s.rg a
  .next (
    match s.ringAt x with
    | .error e => s.trap e x
    | .ok off =>
      let k := s.mine
      if !k.ringOk off ∨ k.ringRd off = k.ringWr off then s.trap Cause.badRing x
      else if s.loadsWait then s.block
      else (s.modMine fun k => k.setRing off (k.ringRd off + 1) (k.ringWr off)).advance)

/-! Banks (10 R211, 04 R76). -/

/-- The banks that a BANKSET word selects, each with the mode it gets. -/
def bankSel (w : Word) : List (Nat × BankMode) :=
  (List.range 16).filterMap fun b =>
    match bit w (32 + b), bankModeOf (bits w (2 * b) 2) with
    | true, some m => some (b, m)
    | _, _ => none

/-- The banks of a selection whose mode differs from their current one. -/
def Core.bankChanges (k : Core) (set : List (Nat × BankMode)) : List (Nat × BankMode) :=
  set.filter fun x => k.bank x.1 ≠ x.2

/-- Whether a FIFO bank is bound to a queue register. -/
def Core.bankBound (k : Core) (b : Nat) : Bool :=
  k.queues.any fun x => match x.2.kind with
    | .fifo b' => b'.val = b
    | _ => false

/-- Whether a change takes a bound bank out of FIFO mode. -/
def Core.bankRefused (k : Core) (cs : List (Nat × BankMode)) : Bool :=
  cs.any fun x => k.bank x.1 = .fifo && k.bankBound x.1

/-- A BANKSET leaves the queue of its core. -/
def Core.bankLeave (k : Core) (slot : Nat) : Core := { k with bankq := k.bankq.filter fun x => x.slot ≠ slot }

/-- A BANKSET is complete: its strand goes on. -/
def Core.bankReturn (k : Core) (slot : Nat) : Core :=
  (k.bankLeave slot).setStrand slot ((k.strand slot).retire ((k.strand slot).pc + 4))

/-- A BANKSET is applied: QBOUND where a bank it takes out of FIFO mode has been bound since, else its changes begin. -/
def State.bankApply (s : State) (c : Nat) (q : BankReq) : State :=
  let k := s.core c
  let cs := k.bankChanges q.set
  if k.bankRefused cs then
    let pc := (k.strand q.slot).pc
    (s.setCore c (k.bankLeave q.slot)).takeTrap c q.slot ⟨Cause.qBound, 0, none, pc, none⟩ pc
  else if cs = [] then s.setCore c (k.bankReturn q.slot)
  else s.setCore c { k with
    busy := k.busy ++ cs,
    bankq := k.bankq.map fun x => if x.slot = q.slot then { x with begun := some (cs.map (·.1)) } else x }

/-- BANKSETs that wait are applied in issue order, each once no bank it selects is BUSY. -/
def State.bankPump (c : Nat) : Nat → State → State
  | 0, s => s
  | n + 1, s =>
    match (s.core c).bankq.find? fun x => x.begun.isNone with
    | none => s
    | some q =>
      if (s.core c).busy.any fun x => q.set.any fun y => y.1 = x.1 then s
      else State.bankPump c n (s.bankApply c q)

/-- BANKSET: BADBANK, QBOUND, then the changes; the strand waits until those it started are done. -/
def execBankset (b : GReg) (s : State) : Res :=
  let w := s.rg b
  .next (
    if bits w 48 16 ≠ 0 ∨ (List.range 16).any (fun i => bit w (32 + i) && bits w (2 * i) 2 = 3) then
      s.trapPc Cause.badBank
    else if s.mine.bankRefused (s.mine.bankChanges (bankSel w)) then s.trapPc Cause.qBound
    else
      let s := s.modMine fun k => { k with bankq := k.bankq ++ [⟨s.cur.slot, bankSel w, none⟩] }
      State.bankPump s.cur.core s.mine.bankq.length (s.await .bankset))

/-- A core's bank reads as zero. -/
def Core.clearBank (k : Core) (b : Nat) : Core :=
  { k with scratch := k.scratch.filter fun x => bankOf x.1 ≠ b, spois := k.spois.filter fun w => bankOf (8 * w) ≠ b,
           fifos := k.fifos.del b }

/-- Whether some copy has written into a bank of a core and is not complete (20 R354). -/
def State.copyInto (s : State) (c b : Nat) : Bool :=
  s.cores.any fun x => x.2.copies.any fun y => y.banks.contains (c * 16 + b) && y.fault.isNone && !y.complete

/-- Whether an access to the own bank, issued before the bank began to change, has still to be performed. -/
def State.accInto (s : State) (c b : Nat) : Bool :=
  s.accs.any fun x => x.2.core = c && x.2.stage = .bank && s.reach (bits x.2.addr 43 9) = c &&
    bankOf (bits x.2.addr 0 20) = b

/-- The BANKSETs whose changes are all complete return. -/
def Core.bankDone (k : Core) : Core :=
  (k.bankq.filter fun q => match q.begun with
    | some bs => !(k.busy.any fun x => bs.contains x.1)
    | none => false).foldl (fun k q => k.bankReturn q.slot) k

/-- BANK_MODE_CHANGE_COMPLETE: a bank leaving scratch mode waits for the copies writing into it and for the accesses
of its core that it has accepted; one leaving cache mode
writes its dirty lines back and drops its lines. Until now MODE has shown the old mode (log entry 109). BANKSETs that are
done return, and those that wait are applied. -/
def execBankModeChangeComplete (c : Nat) (b : Fin 16) (s : State) : Res :=
  let k := s.core c
  .next (match k.busy.find? fun x => x.1 = b.val with
    | none => s
    | some (_, m) =>
      if k.bank b = .scratch ∧ (s.copyInto c b ∨ s.accInto c b) then s
      else
        let s := if k.bank b = .cache then s.dropLines c fun l => l.bank = b.val else s
        let s := s.modCore c fun k => ({ k.clearBank b with
          banks := if m = .scratch then k.banks.del b else k.banks.put b m,
          busy := k.busy.filter fun x => x.1 ≠ b.val } : Core).bankDone
        State.bankPump c (s.core c).bankq.length s)

end Sys2Proof.Machine
end

