-- ==== Sys2Proof/Machine/Queue.lean ====
section
/-!
DEFINITION. Queue registers (10 R212 to R217, 04 R89, 19 R337) and the read-ahead of streams.
-/

namespace Sys2Proof.Machine

/-! Binding. -/

/-- A binding of the issuing strand. -/
def State.bind (s : State) (q : QReg) (k : QKind) : State :=
  (s.modMine fun c => { c with queues := c.queues.put q.val ⟨s.cur.slot, k⟩ }).advance

/-- Whether some queue register of the core is bound to a kind. -/
def Core.boundTo (k : Core) (p : QKind → Bool) : Bool := k.queues.any fun x => p x.2.kind

/-- Whether a tile operation is in progress. -/
def Matrix.tiling (m : Matrix) : Bool := m.tile.isSome

/-- QBIND.FIFO. -/
def execQbindFifo (a : GReg) (c : QReg) (s : State) : Res :=
  let b : Fin 16 := Fin.ofNat 16 (bits (s.rg a) 0 4)
  .next (
    if (s.mine.queue c).isSome then s.trapPc Cause.qBound
    else if s.mine.bank b ≠ .fifo ∨ (s.mine.busy.any fun x => x.1 = b.val) then s.trapPc Cause.bankMode
    else s.bind c (.fifo b))

/-- QBIND.STREAM: the pattern is checked as CPY does; DSTR is ignored. -/
def execQbindStream (a b : GReg) (c : QReg) (s : State) : Res :=
  .next (
    if (s.mine.queue c).isSome then s.trapPc Cause.qBound
    else match s.readPattern (s.rg b) with
      | .error s => s
      | .ok (s, p) => s.bind c (.stream (s.rg a) p s.me.sup s.mine.bases [] 0 none))

/-- A binding of a matrix port (10 R213, 19 R327): QBOUND where the register or the port is bound, or in a row handler;
it waits while a tile operation is in progress. -/
def State.bindPort (s : State) (c : QReg) (k : QKind) : State :=
  if (s.mine.queue c).isSome ∨ s.mine.boundTo (· = k) ∨ isRow s.cur.slot then s.trapPc Cause.qBound
  else if s.mine.matrix.tiling then s.block
  else s.bind c k

/-- QBIND.MA. -/
def execQbindMa (c : QReg) (s : State) : Res := .next (s.bindPort c .ma)
/-- QBIND.MB. -/
def execQbindMb (c : QReg) (s : State) : Res := .next (s.bindPort c .mb)
/-- QBIND.MOUT. -/
def execQbindMout (c : QReg) (s : State) : Res := .next (s.bindPort c .mout)

/-- Whether a kind is a mailbox binding of a handler index. -/
def QKind.diverts (k : QKind) (h : BitVec 12) : Bool :=
  match k with
  | .mbox h' _ => h' = h
  | _ => false

/-- QBIND.MBOX: records of the request mailbox with this HIDX that have not started are diverted too. -/
def execQbindMbox (a : GReg) (c : QReg) (s : State) : Res :=
  let h := BitVec.ofNat 12 (bits (s.rg a) 0 12)
  .next (
    if (s.mine.queue c).isSome ∨ s.mine.boundTo (·.diverts h) then s.trapPc Cause.qBound
    else
      let goes (r : Rec) : Bool := hdrHidx (recHdr r) = h.toNat
      let rs := (s.mine.box false).filter goes
      let s := s.modMine fun k => { k with mbox := k.mbox.put 0 ((k.box false).filter fun r => !goes r) }
      (s.bind c (.mbox h (rs.flatMap (·.take 8)))).modMine (·.refill false))

/-! Streams. -/

/-- The bytes read ahead before the first element that faults. -/
def aheadBytes : List Ahead → List Byte
  | .bytes b :: l => b ++ aheadBytes l
  | _ => []

/-- Whether every byte of a stream's elements has been read. -/
def streamRead (p : Pattern) (read : Nat) : Bool := p.total * p.esize ≤ read

/-- Whether only VQPOP pops elements of a size (10 R214). -/
def stripsOnly (esize : Nat) : Bool := !(esize = 1 || esize = 2 || esize = 4 || esize = 8)

/-- How many bytes the copy unit reads next: what is left of an element, a strip at most. -/
def nextPiece (p : Pattern) (read : Nat) : Nat := min 128 (p.esize - read % p.esize)

/-- Whether the copy unit may read on (04 R89): up to 16 strips ahead where VQPOP pops, or waits to, else up to 16 elements. In
a message or row-handler strand no pop waits (10 R214), so that until its first one (`early`) a strip of small elements is read
too, which VQPOP must find (log entry 132). -/
def mayReadAhead (p : Pattern) (ahead : List Ahead) (read : Nat) (style : Option Bool) (early : Bool) : Bool :=
  let bytes := (aheadBytes ahead).length + nextPiece p read
  !streamRead p read &&
    (if style = some true || stripsOnly p.esize then bytes ≤ 16 * 128
     else ahead.length < 16 || (early && style = none && bytes ≤ 128)) &&
    (ahead.all fun x => match x with
      | .bytes _ => true
      | .fault .. => false)

/-- STREAM_READAHEAD: the copy unit reads on in a stream; a failure waits for its pop (20 R344, R352). -/
def execStreamReadahead (c : Nat) (q : QReg) (s : State) : Res :=
  .next (match (s.core c).queue q with
    | some ⟨slot, .stream src p sup bases ahead read style⟩ =>
      let a := (copyEnds p 0 src (read / p.esize)).1
      if !mayReadAhead p ahead read style (!isGeneral slot) || s.outHeld c a then s
      else
        let n := nextPiece p read
        let (s, r) := s.elemRead ⟨c, (s.strand c slot).job, sup, bases⟩ false (units (a + word (read % p.esize)) (n / 8 + 2) n)
        let (e, read) := match r with
          | .ok bs => (Ahead.bytes bs, read + n)
          | .error code => (Ahead.fault code a, read)
        s.modCore c fun k =>
          { k with queues := k.queues.put q.val ⟨slot, .stream src p sup bases (ahead ++ [e]) read style⟩ }
    | _ => s)

/-- Bytes taken from the front of what is read ahead. -/
def takeAhead : List Ahead → Nat → List Ahead
  | .bytes b :: l, n => if n < b.length then .bytes (b.drop n) :: l else takeAhead l (n - b.length)
  | l, _ => l

/-- What a pop of a stream finds. -/
inductive Popped
  | bytes (b : List Byte) (ahead : List Ahead)
  | fault (code : BitVec 8) (addr : Word)
  | wait
  | ended

/-- The next element, for QPOP. -/
def popElem (p : Pattern) (ahead : List Ahead) (read : Nat) : Popped :=
  match ahead with
  | .bytes b :: l => .bytes b l
  | .fault c a :: _ => .fault c a
  | [] => if streamRead p read then .ended else .wait

/-- The fault among what is read ahead. -/
def aheadFault : List Ahead → Option (BitVec 8 × Word)
  | .bytes _ :: l => aheadFault l
  | .fault c a :: _ => some (c, a)
  | [] => none

/-- The next strip, for VQPOP; the last one is padded with zeros by its register. -/
def popStrip (p : Pattern) (ahead : List Ahead) (read : Nat) : Popped :=
  let bs := aheadBytes ahead
  if 128 ≤ bs.length then .bytes (bs.take 128) (takeAhead ahead 128)
  else match aheadFault ahead with
    | some (c, a) => .fault c a
    | none =>
      if streamRead p read then (if bs = [] then .ended else .bytes bs [])
      else .wait

/-! Push and pop (10 R214). -/

/-- The binding that a push or pop names, or the cause of refusing it: QUNBOUND, QOWNER. -/
def State.bound (s : State) (q : QReg) : Except (BitVec 8) QKind :=
  match s.mine.queue q with
  | none => .error Cause.qUnbound
  | some b => if b.slot = s.cur.slot then .ok b.kind else .error Cause.qOwner

/-- A binding's kind replaced. -/
def State.rebind (s : State) (q : QReg) (k : QKind) : State :=
  s.modMine fun c => { c with queues := c.queues.put q.val ⟨s.cur.slot, k⟩ }

/-- An empty pop: BLOCKED, or HPARK in a message or row-handler strand (02 R36, 07 R135). -/
def State.emptyPop (s : State) : State := if isGeneral s.cur.slot then s.block else s.trapPc Cause.hPark

/-- Bytes of a B image (12 R242): T2 codes packed by rows, or I8 bytes. -/
def imageBytes (fmtb : BitVec 8) (nout k : Nat) : Nat := (if fmtb = 9 then ceilDiv nout 4 else nout) * k

/-- An MLOAD from the B input port takes the words that have come for it. -/
def Matrix.feed (m : Matrix) : Matrix :=
  match m.load with
  | some l =>
    if l.src.isSome then m
    else
      let n := ceilDiv (imageBytes l.fmtb l.nout l.k) 8 - l.got.length
      { m with load := some { l with got := l.got ++ m.portb.take n }, portb := m.portb.drop n }
  | none => m

/-- Words pushed to a FIFO or to a matrix input; the strand waits for places. -/
def State.push (s : State) (k : QKind) (ws : List Word) : State :=
  match k with
  | .fifo b =>
    if 4096 < (s.mine.fifo b).length + ws.length then s.block
    else (s.modMine fun c => { c with fifos := c.fifos.put b (c.fifo b ++ ws) }).advance
  | .ma =>
    if 512 < s.mine.matrix.porta.length + ws.length then s.block
    else (s.modMine fun c => { c with matrix := { c.matrix with porta := c.matrix.porta ++ ws } }).advance
  | .mb =>
    if 512 < s.mine.matrix.portb.length + ws.length then s.block
    else (s.modMine fun c => { c with matrix := ({ c.matrix with portb := c.matrix.portb ++ ws } : Matrix).feed }).advance
  | _ => s.trapPc Cause.qKind

/-- QPUSH. -/
def execQpush (b : GReg) (c : QReg) (s : State) : Res :=
  .next (match s.bound c with
    | .error e => s.trapPc e
    | .ok k => s.push k [s.rg b])

/-- A register's sixteen words, lowest first. -/
def vecWords (x : VWord) : List Word := (List.range 16).map fun i => word (lane 64 x i)

/-- A register made of words. -/
def wordsVec (ws : List Word) : VWord := ofLanes 64 (ws.map BitVec.toNat)

/-- A register made of bytes. -/
def bytesVec (bs : List Byte) : VWord := BitVec.ofNat 1024 (leNat bs)

/-- VQPUSH: needs a lease. -/
def execVqpush (c : QReg) (n : VReg) (s : State) : Res :=
  .next (
    if !hasVec s.cur.slot s.me then s.trapPc Cause.noLease
    else match s.bound c with
      | .error e => s.trapPc e
      | .ok k => s.push k (vecWords (s.me.vr n.val)))

/-- A stream popped in one style from now on. -/
def State.popped (s : State) (q : QReg) (k : QKind) (strips : Bool) (ahead : List Ahead) : State :=
  match k with
  | .stream src p sup bases _ read _ => s.rebind q (.stream src p sup bases ahead read (some strips))
  | _ => s

/-- A pop that finds its element not read yet: it waits, the first to come, and so fixes the style (10 R214); a trap
fixes nothing. -/
def State.popWait (s : State) (q : QReg) (k : QKind) (strips : Bool) (ahead : List Ahead) : State :=
  if isGeneral s.cur.slot then (s.popped q k strips ahead).block else s.emptyPop

/-- The pop of a faulted element traps; the element is read anew for the pop's next execution. -/
def State.popFault (s : State) (q : QReg) (k : QKind) (code : BitVec 8) (a : Word) : State :=
  (match k with
    | .stream src p sup bases ahead read style =>
      s.rebind q (.stream src p sup bases (ahead.filter fun x => match x with
        | .bytes _ => true
        | .fault .. => false) read style)
    | _ => s).trap code a

/-- QPOP. -/
def execQpop (a : GReg) (c : QReg) (l : La) (s : State) : Res :=
  .next (match s.bound c with
    | .error e => s.trapPc e
    | .ok (.fifo b) =>
      match s.mine.fifo b with
      | [] => s.emptyPop
      | w :: ws => (s.modMine fun k => { k with fifos := k.fifos.put b ws }).writeLate a w l
    | .ok (.mbox h ws) =>
      match ws with
      | [] => s.emptyPop
      | w :: ws => (s.rebind c (.mbox h ws)).writeLate a w l
    | .ok (.stream src p sup bases ahead read style) =>
      let k := QKind.stream src p sup bases ahead read style
      if style = some true ∨ stripsOnly p.esize then s.trapPc Cause.qKind
      else match popElem p ahead read with
        | .ended => s.trapPc Cause.qEnd
        | .fault code ad => s.popFault c k code ad
        | .wait => s.popWait c k false ahead
        | .bytes b ahead => (s.popped c k false ahead).writeLate a (word (leNat b)) l
    | .ok _ => s.trapPc Cause.qKind)

/-- The drained row that a row-output binding pops next: the lowest of the row buffers (10 R215). -/
def Matrix.nextRow (m : Matrix) : Option RowBuf :=
  m.bufs.foldl (fun b x => match b with
    | some y => if x.2.r < y.r then some x.2 else some y
    | none => some x.2) none

/-- The strip of a row that is popped next, 32 F32 values padded with zeros. -/
def RowBuf.strip (b : RowBuf) : VWord :=
  ofLanes 32 ((b.vals.drop (32 * b.strips)).take 32 |>.map BitVec.toNat)

/-- A strip of a row has been popped: the last one passes the row. -/
def Matrix.popStrip (m : Matrix) (b : RowBuf) : Matrix :=
  if b.vals.length ≤ 32 * (b.strips + 1) then m.pass (b.r % 2)
  else { m with bufs := m.bufs.put (b.r % 2) { b with strips := b.strips + 1 } }

/-- The issuing strand takes a register and goes on. -/
def State.writeV (s : State) (n : VReg) (x : VWord) : State :=
  (s.modMe fun t => t.putV n.val x).advance

/-- VQPOP: needs a lease. -/
def execVqpop (c : QReg) (n : VReg) (s : State) : Res :=
  .next (
    if !hasVec s.cur.slot s.me then s.trapPc Cause.noLease
    else match s.bound c with
      | .error e => s.trapPc e
      | .ok (.fifo b) =>
        let ws := s.mine.fifo b
        if ws.length < 16 then s.emptyPop
        else (s.modMine fun k => { k with fifos := k.fifos.put b (ws.drop 16) }).writeV n (wordsVec (ws.take 16))
      | .ok (.stream src p sup bases ahead read style) =>
        let k := QKind.stream src p sup bases ahead read style
        if style = some false then s.trapPc Cause.qKind
        else match popStrip p ahead read with
          | .ended => s.trapPc Cause.qEnd
          | .fault code ad => s.popFault c k code ad
          | .wait => s.popWait c k true ahead
          | .bytes b ahead => (s.popped c k true ahead).writeV n (bytesVec b)
      | .ok .mout =>
        (match s.mine.matrix.nextRow with
          | none => s.emptyPop
          | some b => (s.modMine fun k => { k with matrix := k.matrix.popStrip b }).writeV n b.strip)
      | .ok _ => s.trapPc Cause.qKind)

/-! Status and release. -/

/-- AVAIL, SPACE and END of a binding (10 R216). A stream's AVAIL counts what its pops take: strips once VQPOP pops it or
where only VQPOP may, elements otherwise, also while neither has popped it (log entry 110). -/
def Core.queueCounts (k : Core) (b : QKind) : Nat × Nat × Bool :=
  match b with
  | .fifo n => ((k.fifo n).length, 4096 - (k.fifo n).length, false)
  | .stream _ p _ _ ahead read style =>
    let n := (aheadBytes ahead).length
    let full := streamRead p read && (aheadFault ahead).isNone
    let strips := if full then ceilDiv n 128 else n / 128
    let avail := match style with
      | some true => strips
      | _ => if stripsOnly p.esize then strips else (ahead.takeWhile fun x => match x with
          | .bytes _ => true
          | .fault .. => false).length
    (avail, 0, streamRead p read && ahead = [])
  | .ma => (0, 512 - k.matrix.porta.length, false)
  | .mb => (0, 512 - k.matrix.portb.length, false)
  | .mout => ((k.matrix.bufs.map fun x => ceilDiv x.2.vals.length 32 - x.2.strips).sum, 0, false)
  | .mbox _ ws => (ws.length, 0, false)

/-- QSTAT's word for a queue register. -/
def Core.queueWord (k : Core) (q : QReg) : Word :=
  match k.queue q with
  | none => 0
  | some b =>
    let (av, sp, fin) := k.queueCounts b.kind
    word (2 ^ 63 + 2 ^ 58 * b.kind.code + 2 ^ 57 * ofB fin + 2 ^ 32 * min av 65535 + sp)

/-- QSTAT. -/
def execQstat (a : GReg) (c : QSel) (s : State) : Res :=
  let k := s.mine
  .next (s.write a (match c with
    | .q q => k.queueWord q
    | .sq => word (16 - (k.sq false).length + 2 ^ 8 * (16 - (k.sq true).length))))

/-- QFREE. -/
def execQfree (c : QReg) (s : State) : Res :=
  .next (match s.mine.queue c with
    | none => s.advance
    | some b =>
      if b.slot ≠ s.cur.slot then s.trapPc Cause.qOwner
      else if s.mine.matrix.usesPort b.kind then s.block
      else (s.modMine fun k => k.unbind c.val).advance)

end Sys2Proof.Machine
end

