-- ==== Sys2Proof/Machine/Record.lean ====
section
/-!
DEFINITION. Task and message records (02 R31 to R36): the handler table, the start of a record, deques and their
spilling (03 R52, R53, R57; 20 R355).
-/

namespace Sys2Proof.Machine

/-! Strand identities. -/

/-- The state with one more strand identity of a job given, and it: never 0 (12 R256). -/
def State.newStrid (s : State) (job : BitVec 16) : State × BitVec 32 :=
  match s.job? job with
  | some j =>
    let n := if j.nextStrid = 0 then 1 else j.nextStrid
    (s.modJob job fun j => { j with nextStrid := n + 1 }, n)
  | none => (s, 1)

/-! Handlers. -/

/-- The handler table's entry for an index, read for a core (02 R33): the entry address, or why there is none (a
failed read's cause, or 0). -/
def State.handlerEntry (s : State) (c hidx : Nat) : State × Except (BitVec 6) Word :=
  let ht := (s.core c).htbase
  if bits ht 0 12 < hidx then (s, .error 0)
  else
    match s.readAt (s.party c (s.coreJob c) false) (word (bits ht 15 49 * 2 ^ 15 + 8 * hidx)) 8 .engine with
    | .bad s e => (s, .error (e.setWidth 6))
    | .invalid s _ _ => (s, .error (Cause.xlFault.setWidth 6))
    | .ok s v => if v % 2 = 0 then (s, .error 0) else (s, .ok (word (bits (word v) 2 46 * 4)))

/-- General registers g0 up taken from a list. -/
def Regs.ofList (ws : List Word) : Regs :=
  { Regs.zero with g := ((List.range ws.length).zip ws).foldl (fun t x => t.put x.1 x.2) [] }

/-- A strand as it is created: PRIO 3, ROLE none, FRM RNE, FMTBAD and SRSEED 0 (02 R34). -/
def Strand.fresh (regs : Regs) (pc : Word) (job : BitVec 16) (lid : Nat) (strid : BitVec 32) : Strand :=
  { Strand.empty with
      st := .ready, regs := regs, pc := pc, job := job, lid := BitVec.ofNat 12 lid, strid := strid }

/-- Whether a fence with release of a scope, executed on core `a`, covers core `b` (05 R92). -/
def scopeSpans (code a b : Nat) : Bool :=
  if code ≤ 1 then a = b else if code = 2 then clusterOf a = clusterOf b
  else if code = 3 then towerOf a = towerOf b else true

/-- Whether the start of a record on a core follows its sender's fences there (05 R98): stores before them, performed since,
must not be hidden by older RC lines of the core. The sender's own core has none older. -/
def Rec.ordered (r : Rec) (c : Nat) : Bool :=
  let a := hdrFrom (recHdr r)
  a ≠ c && (r.drop 8).any fun m => m.toNat < 8 && scopeSpans m.toNat a c

/-- A record starts in a slot of a core (02 R34), or is discarded where it has no handler. -/
def State.startRecord (s : State) (c n : Nat) (r : Rec) : State :=
  let h := recHdr r
  let job := s.coreJob c
  match s.handlerEntry c (hdrHidx h) with
  | (s, .error e) => (s.sendDec job (hdrLid h) true).tell (.badHandler job h e)
  | (s, .ok pc) =>
    let (s, id) := s.newStrid job
    let t := Strand.fresh (.ofList (trimArgs r)) pc job (hdrLid h) id
    let t := if n = msgSlot then { t with sender := some (BitVec.ofNat 9 (hdrFrom h)) } else t
    (if Rec.ordered r c then s.invalidateRc c else s).setStrand c n t

/-! Cores that take work. -/

/-- Whether a core starts work: its hood active, not halted, no part of a pre-emption or vacated, its part powered. -/
def State.opens (s : State) (c : Nat) : Bool :=
  !s.shut c && s.brim.st = .idle && !s.milliner.hot && (s.core c).fwd.isNone &&
    !s.preempts.any fun p => p.src = c || p.dst = c

/-- The lowest FREE general slot. -/
def Core.freeSlot (k : Core) : Option Nat := lowest 16 fun n => !(k.strand n).live

/-! Deques. The thief end stands first in the list. -/

/-- A record of a launch entry (12 R258), with the word for fences that its entry keeps. -/
def rangeRec (hdr : Word) (i count : Nat) (abase astride : Word) (shared : List Word) : Rec :=
  [hdr, word i, abase + word i * astride] ++ (List.range 4).map (fun j => shared.getD j 0) ++ [word count] ++ shared.drop 4

/-- An entry enters a core's deque at the owner end, 64 entries spilling first where 256 are held; none where the
spill breaches its quota (03 R57, 20 R355). -/
def State.pushEnt (s : State) (c : Nat) (e : DqEnt) : Option State :=
  let k := s.core c
  if k.deque.length < 256 then some (s.modCore c fun k => { k with deque := k.deque ++ [e] })
  else
    let job := s.coreJob c
    let n := k.dspill.length
    if s.spillOk k.jtbase job n (n + 64) (bits (s.jobEntry k.jtbase job 3) 0 16) then
      some (s.modCore c fun k =>
        { k with dspill := k.dspill ++ k.deque.take 64, deque := k.deque.drop 64 ++ [e] })
    else none

/-- An entry is discarded: its records subtract 1 each from their launch, with ERR. -/
def State.discardEnt (s : State) (e : DqEnt) : State :=
  match e with
  | .one r => s.sendDec (hdrJob (recHdr r)) (hdrLid (recHdr r)) true
  | .range h lo hi .. => s.launchDec (hdrJob h) (hdrLid h) (hi - lo) true

/-- A queue's quota is breached: supervisor software is told, with the queue's address, which no rule gives. -/
def State.quotaEvent (s : State) (job : BitVec 16) : State := (s.useFree).tell (.quota job s.freeWord.toNat)

/-- Whether the launch of an entry's records has been cancelled before they started (02 R41). -/
def State.cancelled (s : State) (e : DqEnt) : Bool :=
  (s.counter? (hdrJob e.hdr) .launch (hdrLid e.hdr)).any fun c => c.canc

/-- An entry of a cancelled launch goes, each record subtracting one (02 R41). -/
def State.dropEnt (s : State) (e : DqEnt) : State := s.launchDec (hdrJob e.hdr) (hdrLid e.hdr) e.size false

/-- Whether a core's own pop waits at its arbiter (03 R52): a FREE general slot and a record for it. -/
def State.popWaits (s : State) (v : Nat) : Bool :=
  s.opens v && (s.core v).freeSlot.isSome && (s.core v).deque ≠ []

/-- A push that is not an instruction's of the destination core: where it cannot enter, its records are discarded
(20 R355); so are they where the destination's hood refuses them or is another job's (22 R381, 16 R286), or their
launch has been cancelled. -/
def State.remotePush (s : State) (c : Nat) (e : DqEnt) : State :=
  let no := s.closed c
  let c := s.reach c
  if no ∨ hdrJob e.hdr ≠ s.coreJob c then s.discardEnt e
  else if s.cancelled e then s.dropEnt e
  else match s.pushEnt c e with
    | some s => s
    | none => (s.discardEnt e).quotaEvent (s.coreJob c)

/-- What a pop of the owner end gives: the record and the deque after it. -/
def popOwner (q : List DqEnt) : Option (Rec × List DqEnt) :=
  match q.getLast? with
  | none => none
  | some (.one r) => some (r, q.dropLast)
  | some (.range h lo hi n a st sh) =>
    some (rangeRec h lo n a st sh, q.dropLast ++ (if lo + 1 < hi then [.range h (lo + 1) hi n a st sh] else []))

/-- What a steal from the thief end gives: the entry and the deque after it (03 R53). -/
def stealEnd (q : List DqEnt) : Option (DqEnt × List DqEnt) :=
  match q with
  | [] => none
  | .one r :: l => some (.one r, l)
  | .range h lo hi n a st sh :: l =>
    if hi - lo < 2 then some (.one (rangeRec h lo n a st sh), l)
    else
      let m := lo + ceilDiv (hi - lo) 2
      some (.range h m hi n a st sh, .range h lo m n a st sh :: l)

end Sys2Proof.Machine
end

