-- ==== Sys2Proof/Machine/Matrix.lean ====
section
/-!
DEFINITION. The matrix unit (07 R125 to R137, 12 R241 to R246, 06 R120 to R122, 21 R358 to R362): loading B, tile
operations row by row, row handlers, completion and abandonment.
-/

namespace Sys2Proof.Machine

/-! Geometry and formats (07 R125, R126, R129). -/

/-- The longest contraction of a geometry; 0 for the reserved one. -/
def geomK (g : Nat) : Nat := [256, 512, 1024].getD g 0

/-- The outputs that a geometry has for a form of B. -/
def geomOut (g : Nat) (fmtb : BitVec 8) : Nat :=
  let cols := [1024, 512, 256].getD g 0
  if fmtb = 9 then cols else cols / 8

/-- The formats that A may have. -/
inductive AFmt | int (t : IntTy) | flt (t : FltTy)
  deriving DecidableEq

/-- The A format of an FMTA value, where it is supported. -/
def aFmt (f : BitVec 8) : Option AFmt :=
  match f.toNat with
  | 0x00 => some (.int .i8)
  | 0x08 => some (.int .i4)
  | 0x09 => some (.int .t2)
  | 0x13 => some (.flt .e4m3)
  | 0x14 => some (.flt .e5m2)
  | _ => none

/-- Bits of an A element. -/
def AFmt.width : AFmt → Nat
  | .int .i4 => 4 | .int .t2 => 2 | _ => 8

/-- Whether FMTB names a form of B: T2 or I8. -/
def bFmtOk (f : BitVec 8) : Bool := f = 0 || f = 9

/-! Rows. -/

/-- What the rows of A enter the macros as: integers, the exponent added to the row's scale, whether an element is a
NaN or an infinity, and whether a reserved T2 code was read (06 R121). -/
structure ARow where
  xs   : List Int
  ea   : Int
  nan  : Bool
  flag : Bool

/-- ⌊log2 |v|⌋ of a finite nonzero value. -/
def Fp.expOf : Fp → Option Int
  | .fin _ m e => if m = 0 then none else some ((Nat.log2 m : Nat) + e)
  | _ => none

/-- A float element under a row's exponent: rounded to a whole number and clamped. -/
def floatIn (emax : Int) (x : Fp) : Int :=
  match x with
  | .fin neg m e =>
    let q : Nat := min 127 (roundTo .rne 0 neg m (e + 6 - emax) 0)
    if neg then -(q : Int) else q
  | _ => 0

/-- The elements of a row read in a format. -/
def aRow (f : AFmt) (k raw : Nat) : ARow :=
  let cs := (List.range k).map fun i => raw / 2 ^ (f.width * i) % 2 ^ f.width
  match f with
  | .int t =>
    let xs := cs.map (intOf t)
    { xs := xs.map (·.1), ea := 0, nan := false, flag := xs.any (·.2) }
  | .flt t =>
    let xs := cs.map (fpOf t)
    let es := xs.filterMap Fp.expOf
    let emax := es.foldl max (es.headD 0)
    let bad := xs.any fun x => match x with
      | .fin .. => false
      | _ => true
    { xs := xs.map (floatIn emax), ea := emax - 6, nan := bad, flag := bad }

/-- A value of a 48-bit accumulator. -/
def wrap48 (x : Int) : Int := sint (wrap 48 x) 48

/-- The sums of one A row against the cells (06 R120). -/
def dot (xs : List Int) (cells : List (List Int)) (nout : Nat) : List Int :=
  (xs.zip cells).foldl (fun acc x => (acc.zip x.2).map fun y => y.1 + x.1 * y.2) (List.replicate nout 0)

/-- A sum converted (06 R122): y, and z where a column scale is used; `none` for the canonical NaN. -/
def convert (S : Int) (e : Option Int) (c : Option Nat) : BitVec 32 :=
  match e with
  | none => BitVec.ofNat 32 0x7FC00000
  | some e =>
    let y := f32Rne (.fin (S < 0) S.natAbs e)
    BitVec.ofNat 32 (match c with
      | some c => f32Rne (Fp.mul (fpOf .f32 y) (fpOf .f32 c))
      | none => y)

/-! The unit's reads: those of its core, in the operation's job. -/

/-- `n` bytes from an address, in aligned units, ascending: those read before the first read that fails, and its cause. -/
def State.unitRead (s : State) (ag : Agent) : List (Word × Nat) → State × List Byte × Option (BitVec 8)
  | [] => (s, [], none)
  | (a, n) :: us =>
    match s.readAt ag a n .engine with
    | .bad s e => (s, [], some e)
    | .invalid s _ _ => (s, [], some Cause.xlFault)
    | .ok s v =>
      let (s, bs, e) := State.unitRead s ag us
      (s, leBytes n v ++ bs, e)

/-- `n` bytes from an address. -/
def State.engineRead (s : State) (ag : Agent) (a : Word) (n : Nat) : State × List Byte × Option (BitVec 8) :=
  s.unitRead ag (units a (n / 8 + 2) n)

/-- The party of an operation of a core's unit. -/
def unitAgent (c : Nat) (job : BitVec 16) (b : Bases) : Agent := ⟨c, job, false, b⟩

/-- A change to a core's matrix unit. -/
def State.modMatrix (s : State) (c : Nat) (f : Matrix → Matrix) : State :=
  s.modCore c fun k => { k with matrix := f k.matrix }

/-! MLOAD. -/

/-- Whether the unit is busy (07 R127). -/
def Matrix.busy (m : Matrix) : Bool := m.tile.isSome || m.load.isSome

/-- Whether a B descriptor with a format is as 12 R241 states. -/
def descOk (d : Word) (fmtb : BitVec 8) : Bool :=
  let g := bits d 40 2
  bits d 32 8 = 0 && g ≠ 3 && 1 ≤ bits d 42 11 && bits d 42 11 ≤ geomK g && bFmtOk fmtb &&
    bits d 53 11 + 1 ≤ geomOut g fmtb

/-- The load that a B descriptor asks for. -/
def loadOf (src : Option Word) (d : Word) (fmtb : BitVec 8) (job : BitVec 16) (b : Bases) : Load :=
  { src := src, tag := BitVec.ofNat 32 (bits d 0 32), geom := BitVec.ofNat 2 (bits d 40 2), k := bits d 42 11,
    nout := bits d 53 11 + 1, fmtb := fmtb, job := job, bases := b, got := [] }

/-- The unit begins a load: its cells are being written, so it holds no B. -/
def Matrix.beginLoad (m : Matrix) (l : Load) : Matrix := ({ m with load := some l, res := none, rows := 0 } : Matrix).feed

/-- An MLOAD that the issuing strand asks for. -/
def State.mload (s : State) (src : Option Word) (d : Word) : State :=
  let fmtb := s.me.fmtb.setWidth 8
  if isRow s.cur.slot then s.trapPc Cause.hPark
  else if !descOk d fmtb then s.trapPc Cause.mDesc
  else if src.isNone && !(s.mine.boundTo (· = .mb)) then s.trapPc Cause.qUnbound
  else if s.mine.matrix.busy then s.block
  else (s.modMatrix s.cur.core (·.beginLoad (loadOf src d fmtb s.me.job s.mine.bases))).advance

/-- MLOAD. -/
def execMload (a b : GReg) (s : State) : Res := .next (s.mload (some (s.rg a)) (s.rg b))
/-- MLOAD.Q. -/
def execMloadQ (b : GReg) (s : State) : Res := .next (s.mload none (s.rg b))

/-- The bytes of words taken from a port. -/
def portBytes (ws : List Word) : List Byte := ws.flatMap fun w => leBytes 8 w.toNat

/-- The image of a load, read from memory or taken from the port, as far as its reads succeed: none while words of it are
missing, or its reads are held at a router. -/
def State.loadImage (s : State) (c : Nat) (l : Load) : Option (State × List Byte × Option (BitVec 8)) :=
  let n := imageBytes l.fmtb l.nout l.k
  match l.src with
  | some a => if s.outHeld c a then none else some (s.engineRead (unitAgent c l.job l.bases) a n)
  | none => if l.got.length < ceilDiv n 8 then none else some (s, (portBytes l.got).take n, none)

/-- The cells that an image fills, with whether a reserved T2 code was read (12 R242). -/
def imageCells (l : Load) (bs : List Byte) : List (List Int) × Bool :=
  let row := if l.fmtb = 9 then ceilDiv l.nout 4 else l.nout
  let cell (i n : Nat) : Int × Bool :=
    if l.fmtb = 9 then
      let r := intOf .t2 ((bs.getD (row * i + n / 4) 0).toNat / 4 ^ (n % 4) % 4)
      (if r.2 then 0 else r.1, r.2)
    else (sint (bs.getD (row * i + n) 0).toNat 8, false)
  let rows := (List.range l.k).map fun i => (List.range l.nout).map (cell i)
  (rows.map fun r => r.map (·.1), rows.any fun r => r.any (·.2))

/-- The unit after a load that succeeded (07 R127, R137). -/
def Matrix.loaded (m : Matrix) (l : Load) (bs : List Byte) : Matrix :=
  let (cells, flag) := imageCells l bs
  { m with load := none, err := false, fault := 0, fmtf := flag,
           res := some { tag := l.tag, geom := l.geom, k := l.k, nout := l.nout, fmtb := l.fmtb, flag := flag,
                         cells := cells } }

/-- The unit after a load that was refused or abandoned, having read `bs` of its image: it holds no B, FMTF says whether a
reserved T2 code was read (log entry 111); a tile task that waited for it faults. -/
def Matrix.loadFail (m : Matrix) (l : Load) (bs : List Byte) (code : BitVec 8) : Matrix :=
  let flag := (imageCells l bs).2
  ({ m with load := none, res := none, err := true, fault := code, fmtf := flag,
            tile := m.tile.map fun t => { t with fmtf := t.fmtf || flag } } : Matrix).fail code

/-! Tile operations. -/

/-- Whether the sampled parameters fit the unit (12 R243, 07 R131); a record's sums must fit the banks, as an MTILE's do
(07 R136). -/
def Matrix.fits (m : Matrix) (t : Tile) : Bool :=
  match m.res with
  | some r =>
    (aFmt t.fmta).isSome && bFmtOk t.fmtb && t.fmtb = r.fmtb && (!t.acc || (m.accv && m.bnout = r.nout)) &&
      (t.m ≤ 32 || (!t.acc && t.drain))
  | none => false

/-- What a tile scheduler remembers of a ticket is replaced. -/
def State.setTicket (s : State) (cl : Nat) (k : BitVec 16) (x : Ticket) : State :=
  let f (y : BitVec 16 × Ticket) : BitVec 16 × Ticket := if y.1 = k then (k, x) else y
  s.modSched cl fun d => { d with tickets := d.tickets.map f }

/-- An operation ends: its barrier takes one arrival, its task and its launch are told; ports that it used are free. -/
def State.tileEnds (s : State) (c : Nat) (t : Tile) (code : BitVec 8) : State :=
  let s := match t.bar with
    | some (b, n) => s.packet t.job c b (if code = 0 then .arrive n else .errArrive n code)
    | none => s
  let s := match t.task with
    | some (cl, k) => s.setTicket cl k ⟨2, code ≠ 0, c⟩
    | none => s
  (s.modCore c (·.freePorts)).sendDec t.job t.lid.toNat (code ≠ 0 ∧ code ≠ FaultCode.cancelled)

/-- The unit after an operation completed in error or was abandoned: the committed bank is unchanged. -/
def Matrix.ended (m : Matrix) (t : Tile) (code : BitVec 8) : Matrix :=
  { m with tile := none, bufs := [], held := none, err := true, fault := code,
           fmtf := t.fmtf || m.res.any (·.flag) }

/-- The dedicated vector sets of a core's row handlers are zeroed (07 R135). -/
def Core.zeroRows (k : Core) : Core :=
  [0, 1].foldl (fun k h =>
    let t := k.strand (rowSlot h)
    k.setStrand (rowSlot h) { t with regs := t.regs.clearVec }) k

/-- An operation starts on a unit that is ready for it, or is refused (12 R243). -/
def State.startTile (s : State) (c : Nat) (t : Tile) : State :=
  let m := (s.core c).matrix
  if m.fits t then
    s.modCore c fun k => { k.zeroRows with matrix := { k.matrix with tile := some t, rows := 0 } }
  else (s.modMatrix c fun m => { (m.ended t FaultCode.fmt) with rows := 0 }).tileEnds c t FaultCode.fmt

/-- MTILE. That of a member of a cancelled launch starts nothing, makes no arrival, and the strand goes on (log entry 59). -/
def execMtile (a b c : GReg) (n : BarNo) (s : State) : Res :=
  let w := s.rg b
  let m := bits w 0 16
  let acc := bit w 16
  let drain := bit w 17
  .next (
    if isRow s.cur.slot then s.trapPc Cause.hPark
    else if m = 0 ∨ ((acc ∨ !drain) ∧ 32 < m) then s.trapPc Cause.mDesc
    else if bit w 19 && !(s.mine.boundTo (· = .ma)) then s.trapPc Cause.qUnbound
    else if s.mine.matrix.busy then s.block
    else
      let me := s.me
      let t : Tile :=
        { m := m, acc := acc, drain := drain, aq := bit w 19, hidx := BitVec.ofNat 12 (bits w 20 12), harg := s.rg c,
          asrc := s.rg a, astride := bits w 32 32, fmta := me.fmta.setWidth 8, fmtb := me.fmtb.setWidth 8,
          scla := me.scla, sclb := me.sclb, sclcore := s.cur.core, job := me.job, bases := s.mine.bases, lid := me.lid,
          bar := if bit w 18 then some (s.cur.core, n) else none, task := none, next := 0, passed := 0, sums := [],
          fmtf := false, fault := none, ran := [] }
      match s.launchInc me.job me.lid.toNat with
      | (s, true) => (s.startTile s.cur.core t).advance
      | (s, false) => s.advance)

/-- Whether every row of an operation has been formed and, where it drains, passed: it can no longer be abandoned
(07 R136, 12 R244). -/
def Tile.final (t : Tile) : Bool := t.fault.isNone && (if t.drain then t.passed = t.m else t.next = t.m)

/-- The unit after an operation that completed (07 R136, R137). -/
def Matrix.done (m : Matrix) (t : Tile) : Matrix :=
  let nout := (m.res.map (·.nout)).getD 0
  let zero := List.replicate (32 - t.m) (List.replicate nout (0 : Int))
  let m := if t.m ≤ 32 then { m with bank := t.sums ++ zero, bnout := nout, accv := true } else m
  { m with tile := none, err := false, fault := 0, fmtf := t.fmtf || m.res.any (·.flag) }

/-- The operation in progress on a unit is abandoned, unless it is complete: then it ends as it would (07 R136). It ends in
error, its first fault kept, when what its handlers have issued is performed (21 R359). -/
def State.abandonTile (s : State) (c : Nat) (code : BitVec 8) : State :=
  match (s.core c).matrix.tile with
  | none => s
  | some t => if t.final then (s.modMatrix c (·.done t)).tileEnds c t 0 else s.modMatrix c (·.fail code)

/-! Tile tasks on a unit (07 R139). -/

/-- FMTB of a tile-task record. -/
def Task.fmtb (k : Task) : BitVec 8 := BitVec.ofNat 8 (bits (k.words.getD 1 0) 32 8)

/-- Whether a record's B is resident, so that its load is skipped (07 R139). -/
def Task.resident (k : Task) (m : Matrix) : Bool :=
  let w := k.words.getD 1 0
  match m.res with
  | some r =>
    bits w 0 32 ≠ 0 && r.tag.toNat = bits w 0 32 && r.fmtb = k.fmtb && r.geom.toNat = bits w 40 2 &&
      r.k = bits w 42 11 && r.nout = bits w 53 11 + 1
  | none => false

/-- The tile operation of a record (07 R138, R139). -/
def Task.tile (k : Task) (cl : Nat) (b : Bases) : Tile :=
  let w (i : Nat) : Word := k.words.getD i 0
  { m := bits (w 3) 0 16, acc := bit (w 3) 24, drain := bit (w 3) 25, aq := false,
    hidx := BitVec.ofNat 12 (bits (w 6) 0 12), harg := w 7, asrc := w 2, astride := bits (w 3) 32 32,
    fmta := BitVec.ofNat 8 (bits (w 3) 16 8), fmtb := k.fmtb, scla := BitVec.ofNat 19 (bits (w 4) 0 19),
    sclb := BitVec.ofNat 19 (bits (w 4) 32 19), sclcore := k.core, job := k.job, bases := b, lid := k.lid,
    bar := if bit (w 6) 26 then some (bits (w 6) 12 9, Fin.ofNat 32 (bits (w 6) 21 5)) else none,
    task := some (cl, k.ticket), next := 0, passed := 0, sums := [], fmtf := false, fault := none, ran := [] }

/-- A unit without an operation begins a record: it loads its B unless that is resident, then starts its operation. There
is no load in a format of B that the unit does not support: such a record ends with FMTFAULT at once. -/
def State.beginTask (s : State) (cl c : Nat) (k : Task) : State :=
  let b := (s.core c).bases
  let t := k.tile cl b
  if !bFmtOk t.fmtb ∨ k.resident (s.core c).matrix then s.startTile c t
  else s.modMatrix c fun m =>
    { m.beginLoad (loadOf (some (k.words.getD 0 0)) (k.words.getD 1 0) t.fmtb t.job b) with tile := some t }

/-- A load has ended: its port is free, and the record that has waited for it begins. -/
def State.loadEnds (s : State) (c : Nat) : State :=
  let s := s.modCore c (·.freePorts)
  match (s.core c).matrix.tile, (s.core c).matrix.queued with
  | none, some (cl, k) => (s.modMatrix c fun m => { m with queued := none }).beginTask cl c k
  | _, _ => s

/-- The load in progress on a unit is abandoned. -/
def State.failLoad (s : State) (c : Nat) (code : BitVec 8) : State :=
  match (s.core c).matrix.load with
  | some l => (s.modMatrix c (·.loadFail l (portBytes l.got) code)).modCore c (·.freePorts)
  | none => s

/-- MCANCEL. -/
def execMcancel (s : State) : Res :=
  let m := s.mine.matrix
  .next ((
    if m.load.isSome then (s.failLoad s.cur.core FaultCode.cancelled).loadEnds s.cur.core
    else if m.tile.any (·.final) then s
    else s.modMatrix s.cur.core (·.fail FaultCode.cancelled)).advance)

/-- MSTAT. -/
def execMstat (a : GReg) (l : La) (s : State) : Res := .next (s.writeLate a s.mine.matrix.word l)

/-- MLOAD_COMPLETE: the image is read whole; a tile task that waited for it starts. -/
def execMloadComplete (c : Nat) (s : State) : Res :=
  .next (match (s.core c).matrix.load with
    | none => s
    | some l =>
      match s.loadImage c l with
      | some (s, bs, none) =>
        let s := s.modMatrix c (·.loaded l bs)
        (match (s.core c).matrix.tile with
          | some t => (s.modMatrix c fun m => { m with tile := none }).startTile c t
          | none => s.loadEnds c)
      | _ => s)

/-- MLOAD_REFUSED (12 R241, 21 R360). -/
def execMloadRefused (c : Nat) (s : State) : Res :=
  .next (match (s.core c).matrix.load with
    | none => s
    | some l =>
      match s.loadImage c l with
      | some (s, bs, some e) => (s.modMatrix c (·.loadFail l bs (FaultCode.operand e))).loadEnds c
      | _ => s)

/-! Rows. -/

/-- An address in the scale area of an operation, through the package window of the core that supplied it (07 R130). -/
def Tile.scaleAt (t : Tile) (reg : BitVec 19) (off : Nat) : Word := pkgForm t.sclcore (bits reg 3 16 * 8 + off)

/-- The bytes of A row `r`, as far as its reads succeed: none while the input port lacks words of it, or its reads
are held at a router. -/
def State.rowBytes (s : State) (c : Nat) (t : Tile) (k w : Nat) : Option (State × List Byte × Option (BitVec 8)) :=
  if t.aq then
    let n := ceilDiv (k * w) 64
    let p := (s.core c).matrix.porta
    if p.length < n then none
    else some (s.modMatrix c fun m => { m with porta := p.drop n }, portBytes (p.take n), none)
  else if s.outHeld c (t.asrc + word (t.next * t.astride)) then none
  else some (s.engineRead (unitAgent c t.job t.bases) (t.asrc + word (t.next * t.astride)) (ceilDiv (k * w) 8))

/-- A row's E8M0 scale as an exponent: none for 0xFF. -/
def scaleExp (x : Nat) : Option Int := if x = 255 then none else some ((x : Int) - 127)

/-- The scales of a row that is drained: its own exponent, each column's, and each column's F32 factor. -/
structure Scales where
  row  : Option Int
  cols : List (Option Int)
  fac  : List (Option Nat)

/-- Whether a scale of 0xFF is among them (06 R110). -/
def Scales.flag (x : Scales) : Bool := x.row = none || x.cols.contains none

/-- The scales read for a row (07 R130, 06 R122), as far as the reads succeed. -/
def State.scales (s : State) (c : Nat) (t : Tile) (nout : Nat) : State × Scales × Option (BitVec 8) :=
  let rd (x : State × List Byte × Option (BitVec 8)) (on : Bool) (a : Word) (n : Nat) :
      State × List Byte × Option (BitVec 8) :=
    if on && x.2.2.isNone then x.1.engineRead (unitAgent c t.job t.bases) a n else (x.1, [], x.2.2)
  let en := bit t.scla 2
  let eb := bit t.sclb 2
  let cs := bit t.sclb 1
  let ra := rd (s, [], none) en (t.scaleAt t.scla t.next) 1
  let rb := rd ra eb (t.scaleAt t.sclb 0) nout
  let rc := rd rb cs (t.scaleAt t.sclb (1024 * ofB eb)) (4 * nout)
  (rc.1,
    { row := if en then scaleExp (ra.2.1.headD 0).toNat else some 0,
      cols := (List.range nout).map fun n => if eb then scaleExp (rb.2.1.getD n 0).toNat else some 0,
      fac := (List.range nout).map fun n => if cs then some (leNat ((rc.2.1.drop (4 * n)).take 4)) else none },
    rc.2.2)

/-- The exponent that a column of a row is converted with; none for the canonical NaN. -/
def colExp (row col : Option Int) (ea : Int) (nan : Bool) : Option Int :=
  match row, col with
  | some r, some c => if nan then none else some (ea + r + c)
  | _, _ => none

/-- The converted values of a row. -/
def convertRow (sums : List Int) (a : ARow) (x : Scales) : List (BitVec 32) :=
  (sums.zip (x.cols.zip x.fac)).map fun y => convert y.1 (colExp x.row y.2.1 a.ea a.nan) y.2.2

/-- A formed row reaches its buffer, or is held while the buffer is occupied (07 R133). -/
def Matrix.drainRow (m : Matrix) (b : RowBuf) : Matrix := ({ m with held := some b } : Matrix).enter

/-- A read for an operation has failed, after flagged operands or none. -/
def Matrix.readFail (m : Matrix) (flag : Bool) (e : BitVec 8) : Matrix :=
  ({ m with tile := m.tile.map fun t => { t with fmtf := t.fmtf || flag } } : Matrix).fail (FaultCode.operand e)

/-- The next row of an operation is formed from A's elements. -/
def State.formRow (s : State) (c : Nat) (t : Tile) (r : Resident) (a : ARow) : State :=
  let m := (s.core c).matrix
  let ss := dot a.xs r.cells r.nout
  let old := m.bank.getD t.next []
  let sums := if t.acc then (old.zip ss).map fun x => wrap48 (x.1 + x.2) else ss
  let t' := { t with next := t.next + 1, fmtf := t.fmtf || a.flag,
                     sums := if t.m ≤ 32 then t.sums ++ [sums] else t.sums }
  if !t.drain then s.modMatrix c fun m => { m with tile := some t' }
  else match s.scales c t r.nout with
    | (s, x, some e) => s.modMatrix c (·.readFail (a.flag || x.flag) e)
    | (s, x, none) =>
      let b : RowBuf := ⟨t.next, sums, convertRow sums a x, false, 0⟩
      s.modMatrix c fun m => ({ m with tile := some { t' with fmtf := t'.fmtf || x.flag } } : Matrix).drainRow b

/-- ROW_ENTRY: the next row is fetched, formed and, where the operation drains, converted and put into its buffer. -/
def execRowEntry (c : Nat) (s : State) : Res :=
  let m := (s.core c).matrix
  .next (match m.tile, m.res with
    | some t, some r =>
      if t.fault.isSome ∨ m.load.isSome ∨ m.held.isSome ∨ t.m ≤ t.next ∨ s.heldAt c (pkgForm t.sclcore 0) then s
      else match aFmt t.fmta with
        | none => s
        | some f =>
          match s.rowBytes c t r.k f.width with
          | none => s
          | some (s, bs, some e) => s.modMatrix c (·.readFail (aRow f r.k (leNat bs)).flag e)
          | some (s, bs, none) => s.formRow c t r (aRow f r.k (leNat bs))
    | _, _ => s)

/-! Row handlers. -/

/-- Whether a row-output binding takes the unit's rows (10 R215). -/
def Core.rowsOut (k : Core) : Bool := k.boundTo (· = .mout)

/-- The strand of a row's handler (07 R134), which keeps the vector set of its slot (R135). -/
def rowStrand (old : Strand) (t : Tile) (r nout : Nat) (pc : Word) (id : BitVec 32) : Strand :=
  let regs := Regs.ofList [0, word r, word nout, t.harg]
  { Strand.fresh { regs with v := old.regs.v, k := old.regs.k, c := old.regs.c } pc t.job t.lid.toNat id with
      row := some r }

/-- ROW_HANDLER_START. -/
def execRowHandlerStart (c : Nat) (h : Fin 2) (s : State) : Res :=
  let k := s.core c
  let n := rowSlot h.val
  .next (match k.matrix.tile, (k.matrix.bufs.find? (·.1 = h.val)).map (·.2) with
    | some t, some b =>
      if b.started ∨ t.fault.isSome ∨ k.rowsOut ∨ (k.strand n).live ∨ !s.opens c then s
      else match s.handlerEntry c t.hidx.toNat with
        | (s, .error _) => s.modMatrix c (·.fail FaultCode.badHidx)
        | (s, .ok pc) =>
          let (s, id) := s.newStrid t.job
          let nout := b.sums.length
          let s := s.setStrand c n (rowStrand (s.strand c n) t b.r nout pc id)
          s.modMatrix c fun m =>
            { m with bufs := m.bufs.put h.val { b with started := true },
                     tile := some { t with ran := (t.ran ++ [h.val]).eraseDups } }
    | _, _ => s)

/-- The row that the issuing strand holds, with its buffer. -/
def State.heldRow (s : State) : Option RowBuf :=
  if isRow s.cur.slot ∧ s.me.row.isSome then
    (s.mine.matrix.bufs.find? (·.1 = s.cur.slot - 17)).map (·.2)
  else none

/-- ROWGET.F: 32 converted columns. -/
def execRowgetF (b : GReg) (n : VReg) (s : State) : Res :=
  .next (match s.heldRow with
    | none => s.trapPc Cause.noRow
    | some x => s.writeV n (ofLanes 32 ((List.range 32).map fun i =>
        (x.vals.getD (32 * (s.rg b).toNat + i) 0).toNat)))
/-- ROWGET.S: 16 sums. -/
def execRowgetS (b : GReg) (n : VReg) (s : State) : Res :=
  .next (match s.heldRow with
    | none => s.trapPc Cause.noRow
    | some x => s.writeV n (ofLanes 64 ((List.range 16).map fun i =>
        wrap 64 (x.sums.getD (16 * (s.rg b).toNat + i) 0))))

/-- ROWPASS: the row's accesses so far come before every wait on the operation's barrier (05 R98). -/
def execRowpass (s : State) : Res :=
  .next (
    if s.heldRow.isNone then s.trapPc Cause.noRow
    else if s.relWait then s.block
    else ((s.modMatrix s.cur.core (·.pass (s.cur.slot - 17))).modMe fun t => { t with row := none }).advance)

/-! Completion. -/

/-- TILE_OPERATION_COMPLETE. -/
def execTileOperationComplete (c : Nat) (s : State) : Res :=
  .next (match (s.core c).matrix.tile with
    | some t =>
      if (s.core c).matrix.load.isSome ∨ !t.final then s
      else (s.modMatrix c (·.done t)).tileEnds c t 0
    | none => s)

/-- Whether a slot is that of a handler of an operation that has faulted or is cancelled: it executes no more (07 R136). -/
def Core.rowStopped (k : Core) (n : Nat) : Bool :=
  isRow n && k.matrix.tile.any fun t => t.fault.isSome && t.ran.contains (n - 17)

/-- The running handlers of an operation. -/
def Core.handlers (k : Core) (t : Tile) : List Nat := (t.ran.map rowSlot).filter fun n => (k.strand n).live

/-- Handlers end with the operation that is abandoned: its undrained rows are discarded, not passed (07 R136). -/
def State.endHandlers (s : State) (c : Nat) (ns : List Nat) : State :=
  ns.foldl (fun s n => (s.modStrand c n fun t => { t with row := none }).endStrand c n false true) s

/-- Whether something that a strand of a core has issued is still to be performed: a posted store, an access on its way (a
store not translated yet goes with its strand), a WADD whose status has not returned. -/
def State.stillActs (s : State) (c n : Nat) : Bool :=
  ((s.core c).journal.any fun x => x.2.v && x.2.slot = n) ||
    (s.accs.any fun x => x.2.core = c && x.2.slot = n && !(x.2.kind.isStore && x.2.stage = .xlate false)) ||
    s.wreqs.any fun x => x.2.core = c && x.2.slot = n

/-- The running handlers that end with an operation: after detection of a supply loss one in its trap handler runs on (23
R392). -/
def State.ending (s : State) (c : Nat) (t : Tile) : List Nat :=
  ((s.core c).handlers t).filter fun n => s.brim.st = .idle || !(s.strand c n).intrap

/-- An operation that has faulted ends (21 R359): its handlers, stopped at their boundaries, end, and the operation with them,
once all they have issued is performed. -/
def State.faultEnds (s : State) (c : Nat) : State :=
  match (s.core c).matrix.tile with
  | some t =>
    match t.fault with
    | none => s
    | some code =>
      if (t.ran.map rowSlot).any (s.stillActs c) then s
      else ((s.endHandlers c (s.ending c t)).modMatrix c (·.ended t code)).tileEnds c t code
  | none => s

/-- TILE_OPERATION_FAULT. -/
def execTileOperationFault (c : Nat) (s : State) : Res := .next (s.faultEnds c)

end Sys2Proof.Machine
end

