-- ==== Sys2Proof/Machine/Task.lean ====
section
/-!
DEFINITION. Tile tasks (12 R251, R252; 03 R62; 07 R138, R139) and messages (12 R253, R254; 02 R32, R35, R36).
-/

namespace Sys2Proof.Machine

/-! Tile-task records (07 R138). -/

/-- Whether the words of a record are as R251 check 3 states. An unsupported FMTB is bounded by the geometry's columns:
the record then completes in an error phase. The reserved bits inside FMTA, FMTB, SCLA and SCLB are not tested here
(log entry 124). -/
def State.taskOk (s : State) (ws : List Word) : Bool :=
  let w (i : Nat) : Word := ws.getD i 0
  let g := bits (w 1) 40 2
  let fmtb := BitVec.ofNat 8 (bits (w 1) 32 8)
  bits (w 3) 26 6 = 0 && bits (w 4) 19 13 = 0 && bits (w 4) 51 13 = 0 && bits (w 6) 27 37 = 0 &&
    bits (w 3) 0 16 ≠ 0 && g ≠ 3 && 1 ≤ bits (w 1) 42 11 && bits (w 1) 42 11 ≤ geomK g &&
    bits (w 1) 53 11 + 1 ≤ geomOut g (if bFmtOk fmtb then fmtb else 9) &&
    (!bit (w 6) 26 || s.inHoods s.me.job (bits (w 6) 12 9))

/-- TTSUB. A submission that a cancelled launch refuses reaches no scheduler, and its ticket is a free value. -/
def execTtsub (a b : GReg) (l : La) (s : State) : Res :=
  let adr := s.rg b
  let cl := clusterOf s.cur.core
  .next (
    if adr.toNat % 8 ≠ 0 then s.trap Cause.align adr
    else match s.words adr 8 with
      | .error s => s
      | .ok (s, ws) =>
        if !s.taskOk ws then s.trap Cause.badTt adr
        else if s.fenceWait then s.block
        else
          let s := ((s.fenced .pkg).relDone).released .pkg
          let d := s.sched cl
          if 64 ≤ d.held.length then s.block
          else
            match s.launchInc s.me.job s.me.lid.toNat with
            | (s, true) =>
              let k : Task := ⟨d.next, ws, s.cur.core, s.me.job, s.me.lid⟩
              let ts := d.tickets ++ [(d.next, ⟨0, false, 0⟩)]
              (s.modSched cl fun _ => ⟨d.held ++ [k], d.next + 1, ts.drop (ts.length - 256)⟩).writeLate a
                (d.next.zeroExtend 64) l
            | (s, false) => s.useFree.writeLate a (s.freeWord &&& 0xFFFF) l)

/-- TTSTAT. -/
def execTtstat (a b : GReg) (l : La) (s : State) : Res :=
  let w := s.rg b
  .next (
    if bits w 16 48 ≠ 0 then s.trap Cause.badTt w
    else
      let t := ((s.sched (clusterOf s.cur.core)).tickets.find? fun x => x.1.toNat = w.toNat).map (·.2)
      s.writeLate a ((t.map Ticket.word).getD ticketGone) l)

/-! The tile scheduler (03 R62). -/

/-- Whether the cluster's matrix unit on a core is free: no tile operation, none to come, no binding (03 R62). -/
def State.unitFree (s : State) (c : Nat) : Bool :=
  let k := s.core c
  s.opens c && k.matrix.tile.isNone && k.matrix.queued.isNone && !(k.boundTo fun x => x = .ma || x = .mb || x = .mout)

/-- Whether a core's resident tag is the record's; a record whose tag is 0 never matches (07 R127). -/
def Task.tagged (k : Task) (m : Matrix) : Bool :=
  let t := bits (k.words.getD 1 0) 0 32
  t ≠ 0 && m.res.any fun r => r.tag.toNat = t

/-- The core whose unit takes a record: the lowest free one with its tag, else the lowest free one. -/
def State.unitFor (s : State) (cl : Nat) (k : Task) : Option Nat :=
  let free := (clusterCores cl).filter s.unitFree
  (free.find? fun c => k.tagged (s.core c).matrix).or free.head?

/-- A record leaves the scheduler. -/
def State.unheld (s : State) (cl : Nat) (k : Task) : State :=
  s.modSched cl fun d => { d with held := d.held.filter fun x => x.ticket ≠ k.ticket }

/-- A record goes to the unit of a core, and begins there once no load of a strand is in progress. -/
def State.startTask (s : State) (cl c : Nat) (k : Task) : State :=
  let s := (s.unheld cl k).setTicket cl k.ticket ⟨1, false, c⟩
  if (s.core c).matrix.load.isSome then s.modMatrix c fun m => { m with queued := some (cl, k) }
  else s.beginTask cl c k

/-- The dependence counter of a record: zero or not, or the cause its read fails with. -/
def State.dependence (s : State) (k : Task) : State × Except (BitVec 8) Bool :=
  let a := k.words.getD 5 0
  if a = 0 then (s, .ok true)
  else if a.toNat % 8 ≠ 0 then (s, .error Cause.align)
  else if bits a 48 16 ≠ 0 then (s, .error Cause.badAddr)
  else match s.readAt (s.party k.core k.job false) a 8 .engine with
    | .bad s e => (s, .error e)
    | .invalid s _ _ => (s, .error Cause.xlFault)
    | .ok s v => (s, .ok (v = 0))

/-- The first of the records, oldest first, that issues or whose counter cannot be read; one of the latter kind ends with the
submitting core as its unit (log entry 125). -/
def State.considerTasks (s : State) (cl : Nat) : List Task → State
  | [] => s
  | k :: ks =>
    match s.dependence k with
    | (s', .error e) => (s'.unheld cl k).tileEnds k.core (k.tile cl (s.core k.core).bases) (FaultCode.operand e)
    | (s', .ok true) =>
      (match s'.unitFor cl k with
        | some c => s'.startTask cl c k
        | none => State.considerTasks s cl ks)
    | (_, .ok false) => State.considerTasks s cl ks

/-- TILE_SCHEDULER_ISSUE. -/
def execTileSchedulerIssue (cl : Nat) (s : State) : Res :=
  .next (if s.deaf then s else s.considerTasks cl (s.sched cl).held)

/-! Sending records. -/

/-- A record as it leaves its sender: JOB, FROM and LID written by the part, arguments beyond ARGC zero (02 R32). -/
def State.completed (s : State) (r : Rec) : Rec :=
  let h := recHdr r
  trimArgs (mkHdr s.me.job s.cur.core (hdrDest h) (hdrVn h) (hdrKind h) (hdrArgc h) s.me.lid.toNat (hdrHidx h) ::
    r.drop 1) ++ s.fenceMark

/-- Whether VN and KIND of a header are ones that may be sent (02 R32). -/
def vnOk (h : Word) : Bool := hdrVn h < 2 && !(hdrVn h = 1 && hdrKind h)

/-- A record enters the own core's deque: QUOTA where it cannot (20 R355). -/
def State.pushOwn (s : State) (r : Rec) : State :=
  match s.launchInc s.me.job s.me.lid.toNat with
  | (s', true) =>
    (match s'.pushEnt s.cur.core (.one r) with
      | some s' => s'.advance
      | none => s.useFree.trap Cause.quota s.freeWord)
  | (s', false) => s'.advance

/-- A record takes an entry of a send queue, with the marks of its way; a full one makes the strand wait, or trap (12 R253). -/
def State.enqueue (s : State) (vn : Bool) (r : Rec) : State :=
  if 16 ≤ (s.mine.sq vn).length then
    if s.cur.slot = msgSlot ∧ vn then s.trapPc Cause.sqFull else s.block
  else
    match s.launchInc s.me.job s.me.lid.toNat with
    | (s', true) =>
      let r := r ++ [senderMark s.me.strid, placeMark s'.serial]
      ({ s' with serial := s'.serial + 1 }.modMine fun k => { k with sendq := k.sendq.put (ofB vn) (k.sq vn ++ [r]) }).advance
    | (s', false) => s'.advance

/-- SEND, with the change that REPLY makes to a header. It waits for the stores that a FENCE.REL before it holds (05 R93). -/
def State.sendRec (s : State) (a : Word) (f : Word → Word) : State :=
  if a.toNat % 8 ≠ 0 then s.trap Cause.align a
  else match s.words a 8 with
    | .error s => s
    | .ok (s, ws) =>
      let r := s.completed (f (recHdr ws) :: ws.drop 1)
      let h := recHdr r
      if !vnOk h then s.trap Cause.badRec a
      else if !s.inHoods s.me.job (hdrDest h) then s.trap Cause.hoodRef (word (hdrDest h))
      else if s.relStill then s.block
      else if hdrKind h ∧ hdrDest h = s.cur.core then s.relDone.pushOwn r
      else s.relDone.enqueue (hdrVn h = 1) r

/-- SEND. -/
def execSend (b : GReg) (s : State) : Res := .next (s.sendRec (s.rg b) id)

/-- REPLY: to the sender of the record being handled, on the reply network. -/
def execReply (b : GReg) (s : State) : Res :=
  .next (match s.me.sender with
    | some c =>
      if s.cur.slot ≠ msgSlot then s.trapPc Cause.noMsg
      else s.sendRec (s.rg b) fun h => mkHdr 0 0 c.toNat 1 false (hdrArgc h) 0 (hdrHidx h)
    | none => s.trapPc Cause.noMsg)

/-! The path of a record. -/

/-- Whether a core's message strand is BLOCKED on its full send queue of requests. -/
def State.jammed (s : State) (c : Nat) : Bool :=
  (s.strand c msgSlot).st = .blocked && 16 ≤ ((s.core c).sq false).length

/-- The core that the oldest request of a core's send queue goes to. -/
def State.towards (s : State) (c : Nat) : Option Nat := ((s.core c).sq false).head?.map fun r => s.reach (hdrDest (recHdr r))

/-- Whether the message strands of two cores are each BLOCKED on a full send queue of requests towards the other: neither serves
its mailbox, and both stay BLOCKED (02 R46, 24 R403). -/
def State.jam (s : State) (c : Nat) : Bool :=
  s.jammed c && (s.towards c).any fun d => d ≠ c && s.jammed d && s.towards d = some c

/-- RECORD_DEPARTURE: the oldest record of a send queue leaves its core (24 R401). -/
def execRecordDeparture (c : Nat) (vn : Bool) (s : State) : Res :=
  .next (match (s.core c).sq vn with
    | [] => s
    | r :: rs =>
      if !vn && s.jam c then s
      else
      let s := s.modCore c fun k => { k with sendq := k.sendq.put (ofB vn) rs }
      { s with mails := s.mails ++ [⟨s.serial, c, hdrDest (recHdr r), vn, r⟩], serial := s.serial + 1 })

/-- The record that may arrive under a number: no earlier one of its sender to the same core number, on its network, has still
to arrive (05 R107, 18 R323), and its destination's router does not hold it (18 R320). -/
def State.arriving (s : State) (id : Nat) : Option Mail :=
  match s.mails.find? fun m => m.id = id with
  | some m =>
    let h := recHdr m.body
    if s.sentBefore (hdrJob h) (Rec.sender m.body) (Rec.place m.body) (hdrDest h) m.vn || s.routerHeld m.dst then none
    else some { m with body := Rec.arrived m.body }
  | none => none

/-- The record is no longer on its way. -/
def State.landed (s : State) (id : Nat) : State := { s with mails := s.mails.filter fun m => m.id ≠ id }

/-- A record reaches a mailbox: held, diverted, spilled within its quota, or discarded (02 R35; 03 R57; 10 R213;
20 R355; 22 R381), where its job tag is not that of the hood (16 R286) too. -/
def State.deliver (s : State) (dst : Nat) (vn : Bool) (r : Rec) : State :=
  let c := s.reach dst
  let k := s.core c
  let job := s.coreJob c
  let n := (k.boxSpill vn).length
  if s.closed dst ∨ hdrJob (recHdr r) ≠ job then s.discardEnt (.one r)
  else if n = 0 ∧ (k.box vn).length < 64 then s.modCore c (·.takeIn vn r)
  else if s.spillOk k.jtbase job n (n + 1) (bits (s.jobEntry k.jtbase job 3) 16 16) then
    s.modCore c fun k => { k with mspill := k.mspill.put (ofB vn) (k.boxSpill vn ++ [r]) }
  else (s.discardEnt (.one r)).quotaEvent job

/-- MAILBOX_ARRIVAL. -/
def execMailboxArrival (id : Nat) (s : State) : Res :=
  .next (match s.arriving id with
    | some m => if hdrKind (recHdr m.body) then s else (s.landed id).deliver m.dst m.vn m.body
    | none => s)

/-- DEQUE_PUSH: a deque record arrives at its core's arbiter, where the own pop goes first (03 R52, R55). -/
def execDequePush (id : Nat) (s : State) : Res :=
  .next (match s.arriving id with
    | some m =>
      if hdrKind (recHdr m.body) ∧ !s.popWaits (s.reach m.dst) then (s.landed id).remotePush m.dst (.one m.body) else s
    | none => s)

/-- MESSAGE_HANDLER_START: the oldest reply record, else the oldest request record, starts on the message strand
(02 R36). -/
def execMessageHandlerStart (c : Nat) (s : State) : Res :=
  let k := s.core c
  let start (vn : Bool) (r : Rec) (rs : List Rec) : State :=
    (s.modCore c fun k => ({ k with mbox := k.mbox.put (ofB vn) rs } : Core).refill vn).startRecord c msgSlot r
  .next (
    if (k.strand msgSlot).live ∨ !s.opens c then s
    else match k.box true, k.box false with
      | r :: rs, _ => start true r rs
      | [], r :: rs => start false r rs
      | [], [] => s)

end Sys2Proof.Machine
end

