-- ==== Sys2Proof/Machine/Strands.lean ====
section
/-!
DEFINITION. The strand group (12 R255 to R257), migration (02 R26 to R30), wakes (03 R49) and the time limits of FOLLOW
(03 R63, 09 R179).
-/

namespace Sys2Proof.Machine

/-! SPAWN, EXIT and the small ones. -/

/-- SPAWN: the new strand's first instruction follows the earlier accesses of this one (12 R256). A member of a cancelled
launch spawns nothing, and its SPAWN answers 0 (log entry 59). -/
def execSpawn (a b c : GReg) (l : La) (s : State) : Res :=
  let pc := s.rg b
  .next (
    if !isGeneral s.cur.slot then s.trapPc Cause.hPark
    else if pc.toNat % 4 ≠ 0 then s.trap Cause.badAddr pc
    else if s.relWait then s.block
    else match s.mine.freeSlot with
      | none => s.writeLate a 0 l
      | some n =>
        match s.launchInc s.me.job s.me.lid.toNat with
        | (s, false) => s.writeLate a 0 l
        | (s, true) =>
          let me := s.me
          let (s, id) := s.newStrid me.job
          let s := s.setStrand s.cur.core n (Strand.fresh (.ofList [0, s.rg c]) pc me.job me.lid.toNat id)
          s.writeLate a (id.zeroExtend 64) l)

/-- EXIT: a FENCE.REL.SYS, then the end of the strand. -/
def execExit (s : State) : Res :=
  .next (if s.fenceWait then s.block else (s.released .sys).endStrand s.cur.core s.cur.slot false false)

/-- YIELD: its age is not reset; in a message or row-handler strand it has no effect (12 R255). -/
def execYield (s : State) : Res :=
  .next (s.modMe fun t =>
    if isGeneral s.cur.slot then { t.retire (t.pc + 4) with yields := true, age := t.age } else t.retire (t.pc + 4))

/-- PARK: a set wake token is used up instead (03 R49). -/
def execPark (s : State) : Res :=
  .next (
    if !isGeneral s.cur.slot then s.trapPc Cause.hPark
    else if s.me.wtok then (s.modMe fun t => { t with wtok := false }).advance
    else s.park .park)

/-- WAKE. -/
def execWake (b c : GReg) (s : State) : Res :=
  let dst := bits (s.rg c) 0 9
  .next (
    if !s.inHoods s.me.job dst then s.trap Cause.hoodRef (word dst)
    else (s.packet s.me.job s.cur.core dst (.wake s.me.job (BitVec.ofNat 32 (bits (s.rg b) 0 32)))).advance)

/-- MIGRATE: no effect in a trap handler (19 R327); the tests of 19 R325 come before its effect, which towards the own core is
none (12 R255, 19 R337). A follower detaches first; a lead's followers detach at it and execute it themselves (09 R179). -/
def execMigrate (b : GReg) (s : State) : Res :=
  let w := s.rg b
  let s := if s.me.follows then s.unlead s.cur.core s.cur.slot s.me.pc else s
  .next (
    if !isGeneral s.cur.slot then s.trapPc Cause.hPark
    else if s.me.intrap then s.advance
    else if bits w 9 55 ≠ 0 then s.trap Cause.badAddr w
    else if !s.canMigrate s.cur.core s.cur.slot then s.trapPc Cause.migBusy
    else if w.toNat = s.cur.core then s.advance
    else (s.unlead s.cur.core s.cur.slot s.me.pc).advance.startMove s.cur.core s.cur.slot w.toNat false)

/-- PRIO. -/
def execPrio (b : GReg) (s : State) : Res :=
  .next (s.modMe fun t => { t with prio := (s.rg b).setWidth 2 }).advance
/-- ROLE. -/
def execRole (b : GReg) (s : State) : Res :=
  .next (s.modMe fun t => { t with role := (s.rg b).setWidth 2 }).advance

/-! Monitors (04 R74). -/

/-- The strand's monitor is taken off its wait table. -/
def State.unmonitor (s : State) : State :=
  { s with waits := s.waits.filter fun w =>
      !(!w.1 && w.2.1 < 2 ^ 60 && w.2.2 = (s.cur.core, s.cur.slot)) }

/-- MONARM: the address is translated as a load's is. -/
def execMonarm (b : GReg) (s : State) : Res :=
  let a := s.rg b
  .next (match space s.me.sup a with
    | .ok (.virt va) =>
      match s.translate s.agent va .load with
      | (s, .bad c) => s.trap c a
      | (s, .invalid e v0 park) => s.invalidAt e (v0 && park) a
      | (s, .ok pa ..) =>
        let line := lineOf pa
        let s' := s.unmonitor
        if s'.waitRoom s.mine.jtbase s.me.job (homeOf pa) then
          let s' := { s' with waits := s'.waits ++ [(false, line, s.cur.core, s.cur.slot)] }
          (s'.modMe fun t => { t with mon := some (line, false) }).advance
        else (s.tell (.waitQuota s.me.job (homeOf pa))).trap Cause.quota (a &&& ~~~ 127#64)
    | _ => s.trap Cause.badAddr a)

/-- MONWAIT. -/
def execMonwait (s : State) : Res :=
  .next (
    if !isGeneral s.cur.slot then s.trapPc Cause.hPark
    else match s.me.mon with
      | some (_, false) => s.park .mon
      | _ => (s.unmonitor.modMe fun t => { t with mon := none }).advance)

/-! Counter arms (12 R257, 03 R61). -/

/-- CNTARM. -/
def execCntarm (b c : GReg) (s : State) : Res :=
  let w := s.rg b
  let a := s.rg c
  let tgt := bits w 16 9
  .next (
    if a.toNat % 8 ≠ 0 then s.trap Cause.align a
    else match s.words a 8 with
      | .error s => s
      | .ok (s, ws) =>
        let h := recHdr ws
        let h' := mkHdr s.me.job s.cur.core tgt 0 true (hdrArgc h) s.me.lid.toNat (hdrHidx h)
        if bits w 4 4 ≠ 0 ∨ bits w 25 7 ≠ 0 ∨ 12 ≤ bits w 8 8 ∨ hdrVn h ≠ 0 then s.trap Cause.badRec a
        else if !s.inHoods s.me.job tgt then s.trap Cause.hoodRef (word tgt)
        else
          let arm : Arm :=
            { falling := bit w 3, cnt := BitVec.ofNat 8 (bits w 8 8), target := tgt, thresh := bits w 32 32,
              record := trimArgs (h' :: ws.drop 1), job := s.me.job, lid := s.me.lid }
          (s.modMine fun k => { k with arms := k.arms.put (bits w 0 3) arm }).advance)

/-! Migration. -/

/-- The migration of the strand in a slot. -/
def State.move? (s : State) (c n : Nat) : Option Move := s.moves.find? fun m => m.src = c && m.slot = n

/-- The migration with its progress replaced. -/
def State.setMove (s : State) (m : Move) : State :=
  { s with moves := s.moves.map fun x => if x.src = m.src ∧ x.slot = m.slot then m else x }

/-- The migration is over. -/
def State.dropMove (s : State) (c n : Nat) : State :=
  { s with moves := s.moves.filter fun m => !(m.src = c && m.slot = n) }

/-- The strand goes on at its source with the pc it carried. -/
def State.stay (s : State) (m : Move) : State :=
  (s.dropMove m.src m.slot).modStrand m.src m.slot fun t => { t with st := .ready, age := 0, nohint := m.hint }

/-- MIGRATION_SEND: the image leaves once every result is written and every store acknowledged (02 R27). A trap raised
meanwhile is taken at the source, and MIGRATE or the hinted load executes again after it (18 R312; log entry 21). -/
def execMigrationSend (c n : Nat) (s : State) : Res :=
  .next (match s.move? c n with
    | none => s
    | some m =>
      if m.sent then s
      else if (s.strand c n).traps ≠ [] then
        (s.stay { m with hint := false }).modStrand c n fun t => { t with pc := if m.hint then t.pc else t.pc - 4 }
      else if (s.strand c n).outs ≠ [] ∨ s.storesOut c n then s
      else (s.asStrand c n fun s => (s.fenced .sys).relDone.released .sys).setMove { m with sent := true })

/-- The strand as its image brings it (02 R29): what no word of the image carries is as in a fresh slot, but that the migration
has acted as a FENCE.AR.SYS (02 R30), which what it sends from now on follows. -/
def Strand.image (t : Strand) : Strand :=
  { Strand.empty with
      st := .ready, regs := t.regs.clearVec, pc := t.pc, sup := t.sup,
      intrap := t.intrap, job := t.job, strid := t.strid, frm := t.frm, prio := t.prio, role := t.role,
      fmta := t.fmta, fmtb := t.fmtb, scla := t.scla, sclb := t.sclb, lid := t.lid, wtok := t.wtok, fence := some .sys }

/-- MIGRATION_ARRIVAL: accepted into a free slot, or refused (02 R28), as it is while the core is pre-empted (18 R324).
Earlier accesses are seen by later ones (R30). -/
def execMigrationArrival (c n : Nat) (s : State) : Res :=
  .next (match s.move? c n with
    | none => s
    | some m =>
      let d := s.reach m.dst
      let t := s.strand c n
      if !m.sent ∨ m.ok.isSome then s
      else match (s.core d).freeSlot with
        | some k =>
          if s.inHoods t.job m.dst && s.opens d && !s.shut m.dst then
            let s := { s with waits := s.waits.filter fun w => !(w.2.2 = (c, n)) }
            let s := ((s.invalidateRc d).setStrand d k t.image).setMove { m with ok := some true }
            s.setStrand c n { Strand.empty with st := .moving m.dst }
          else s.setMove { m with ok := some false }
        | none => s.setMove { m with ok := some false })

/-- MIGRATION_ACCEPT: the source slot becomes FREE, and no arrival at a barrier is that of its next strand. -/
def execMigrationAccept (c n : Nat) (s : State) : Res :=
  .next (match s.move? c n with
    | some m => if m.ok = some true then ((s.dropMove c n).setStrand c n Strand.empty).modCore c (·.forgetArrivals n) else s
    | none => s)

/-- MIGRATION_REFUSE: the strand is READY at the source; a hinted load is then performed there. -/
def execMigrationRefuse (c n : Nat) (s : State) : Res :=
  .next (match s.move? c n with
    | some m => if m.ok = some false then s.stay m else s
    | none => s)

/-! Wakes. -/

/-- A wake reaches a strand: parked in PARK it goes on, else its token is set, also where it is parked in something else,
which no wake ends (log entry 113). -/
def Strand.woken (t : Strand) : Strand :=
  if t.st = .parked .park then t.retire (t.pc + 4) else { t with wtok := true }

/-- A wake reaches a core: the strand with this identity, where it is there and its image has not left. -/
def State.wakeAt (s : State) (c : Nat) (job : BitVec 16) (id : BitVec 32) : State :=
  let here (n : Nat) : Bool :=
    let t := s.strand c n
    t.live && t.job = job && t.strid = id && !(s.moves.any fun m => m.src = c && m.slot = n && m.sent)
  match allSlots.find? here with
  | some n => s.modStrand c n Strand.woken
  | none => s

/-- WAKE_ARRIVAL. -/
def execWakeArrival (id : Nat) (s : State) : Res :=
  .next (match s.packets.find? (·.id = id) with
    | some p =>
      (match p.flit with
        | .wake job strid =>
          if s.routerHeld p.dst then s
          else
            let c := s.reach p.dst
            let s := { s with packets := s.packets.filter (·.id ≠ id) }
            if s.closed p.dst then s else s.wakeAt c job strid
        | _ => s)
    | none => s)

/-! FOLLOW in time. -/

/-- FOLLOWER_DETACH: a follower of the core that has not issued for 64 cycles resumes its own fetch (03 R63); amid its lead's
replay, what is left of the replay (log entry 93). -/
def execFollowerDetach (c : Nat) (s : State) : Res :=
  .next (match allSlots.find? fun n => (s.strand c n).follows && 64 ≤ (s.strand c n).age with
    | some n => s.detach c n (s.strand c n).pc
    | none => s)

/-- FOLLOW_TIMEOUT: a strand of the core that has found no lead stream for 4096 cycles goes on (09 R179). -/
def execFollowTimeout (c : Nat) (s : State) : Res :=
  .next (match allSlots.find? fun n => (s.strand c n).fl = .waitLead && 4096 ≤ (s.strand c n).age with
    | some n => s.detach c n (s.strand c n).pc
    | none => s)

end Sys2Proof.Machine
end

