-- ==== Sys2Proof/Machine/Hier.lean ====
section
/-!
DEFINITION. The work hierarchy (12 R258 to R260; 02 R37 to R43): launches, joins, cancels, phases, and what reaches a
completion counter.
-/

namespace Sys2Proof.Machine

/-! Making a launch (12 R258). -/

/-- The lowest launch number that is free. -/
def Job.freeLid (j : Job) : Option Nat := lowest 4096 fun n => (j.launch? n).isNone

/-- Whether a launch descriptor's zero bits are zero. -/
def launchOk (d : List Word) : Bool := bits (d.getD 0 0) 61 3 = 0 && bits (d.getD 2 0) 52 12 = 0

/-- The launches of graph `g` that a descriptor waits for: named, used and incomplete. -/
def Job.waitsFor (j : Job) (g : Nat) (w : Word) : List Nat :=
  let open_ (n : Nat) : Bool := (j.launch? n).any fun l => l.graph = g && !l.ctr.done
  ((List.range 4).filter fun i => bit w (48 + i) && open_ (bits w (12 * i) 12)).map fun i => bits w (12 * i) 12

/-- A counter that starts with a count. -/
def Counter.start (n : Nat) : Counter := { count := n, done := false, canc := false, err := false }

/-- The job with graph `g` live: a number that names no live graph opens one in the open phase. -/
def Job.openGraph (j : Job) (g : Nat) : Job :=
  if (j.graph? g).isSome then j
  else
    let j := { j with graphs := j.graphs.put g ⟨.start 0, j.phase⟩ }
    match j.counter? .phase j.phase with
    | some c => j.setCounter .phase j.phase { c with count := c.count + 1 }
    | none => j

/-- The launch entry of a descriptor: header written by the part, arguments as R258 lists them, then the word for the
launcher's fences. -/
def launchEntry (job : BitVec 16) (frm lid : Nat) (d : List Word) (mark : Rec) : DqEnt :=
  let w := d.getD 0 0
  .range (mkHdr job frm (bits w 52 9) 0 true 7 lid (bits w 32 12)) 0 (bits w 0 32) (bits w 0 32) (d.getD 1 0)
    (d.getD 3 0) ((d.drop 4).take 4 ++ mark)

/-- The job with a launch added: its counter, its graph, the launches it waits for. -/
def Job.addLaunch (j : Job) (lid : Nat) (d : List Word) (entry : Option (Nat × DqEnt)) : Job :=
  let g := bits (d.getD 0 0) 44 8
  let j := j.openGraph g
  let l : Launch := { ctr := .start (bits (d.getD 0 0) 0 32), graph := g, waits := j.waitsFor g (d.getD 2 0), entry := entry }
  let j := { j with launches := j.launches.put lid l }
  match j.counter? .graph g with
  | some c => j.setCounter .graph g { c with count := c.count + 1 }
  | none => j

/-- A launch with a free number is made. Its entry is placed at once where the launching core is its destination and
nothing is waited for (none where that breaches the deque's quota), else by LAUNCH_ENTRY_PLACEMENT. -/
def State.makeLaunch (s : State) (job : BitVec 16) (own : Option Nat) (lid : Nat) (d : List Word) (mark : Rec) :
    Option State :=
  let w := d.getD 0 0
  let dst := bits w 52 9
  let e := launchEntry job (own.getD dst) lid d mark
  let here := own = some dst && (s.job? job).all fun j => j.waitsFor (bits w 44 8) (d.getD 2 0) = []
  if bits w 0 32 = 0 then some ((s.modJob job fun j => j.addLaunch lid d none).launchDec job lid 0 false)
  else if here then (s.modJob job fun j => j.addLaunch lid d none).pushEnt dst e
  else some (s.modJob job fun j => j.addLaunch lid d (some (dst, e)))

/-- LAUNCH. -/
def execLaunch (a b : GReg) (l : La) (s : State) : Res :=
  let adr := s.rg b
  .next (
    if adr.toNat % 8 ≠ 0 then s.trap Cause.align adr
    else match s.words adr 8 with
      | .error s => s
      | .ok (s, d) =>
        if !launchOk d then s.trap Cause.badLnch adr
        else if !s.inHoods s.me.job (bits (d.getD 0 0) 52 9) then s.trap Cause.hoodRef adr
        else if s.relStill then s.block
        else match (s.job? s.me.job).bind Job.freeLid with
          | none => s.block
          | some lid =>
            match s.relDone.makeLaunch s.me.job (some s.cur.core) lid d s.fenceMark with
            | some s => s.writeLate a (word lid) l
            | none => s.useFree.trap Cause.quota s.freeWord)

/-- LAUNCH_ENTRY_PLACEMENT: a held launch entry enters its core's deque once no wait remains, as a remote push does: after
the core's own pop (03 R52). -/
def execLaunchEntryPlacement (job : BitVec 16) (lid : Nat) (s : State) : Res :=
  .next (match (s.job? job).bind (·.launch? lid) with
    | some l =>
      (match l.entry with
        | some (c, e) =>
          if l.waits ≠ [] ∨ s.routerHeld c ∨ s.popWaits (s.reach c) then s
          else (s.dropEntry job lid).remotePush c e
        | none => s)
    | none => s)

/-! Selectors (12 R259). -/

/-- The unit that a selector names for a job, by level and number; none where a zero bit is set. -/
def State.unit (s : State) (job : BitVec 16) (w : Word) : Option (Level × Nat) :=
  let n := bits w 0 12
  if bits w 12 50 ≠ 0 then none
  else match bits w 62 2 with
    | 0 => some (.launch, n)
    | 1 => some (.graph, n)
    | 2 => if n = 0 then some (.phase, ((s.job? job).map (·.phase)).getD 0) else none
    | _ => if n = 0 then some (.job, 0) else none

/-- Whether a unit is complete or not live. -/
def State.unitDone (s : State) (job : BitVec 16) (lv : Level) (n : Nat) : Bool :=
  (s.counter? job lv n).all (·.done)

/-- A counter word read by the issuing strand: what a complete unit's members did is seen after it (05 R98). -/
def State.readCounter (s : State) (d : GReg) (l : La) (lv : Level) (n : Nat) : State :=
  let w := s.counterWord s.me.job lv n
  (if s.unitDone s.me.job lv n then s.invalidateRc s.cur.core else s).writeLate d w l

/-- JOIN. -/
def execJoin (a b : GReg) (l : La) (s : State) : Res :=
  .next (
    if !isGeneral s.cur.slot then s.trapPc Cause.hPark
    else match s.unit s.me.job (s.rg b) with
      | none => s.trapPc Cause.badLnch
      | some (lv, n) => if s.unitDone s.me.job lv n then s.readCounter a l lv n else s.park (.join lv n a l))

/-- CNTSTAT. -/
def execCntstat (a b : GReg) (l : La) (s : State) : Res :=
  .next (match s.unit s.me.job (s.rg b) with
    | none => s.trapPc Cause.badLnch
    | some (lv, n) => s.readCounter a l lv n)

/-- CANCEL: it reaches the counter at once, unless accesses are kept in flight. -/
def execCancel (b : GReg) (s : State) : Res :=
  .next (match s.unit s.me.job (s.rg b) with
    | none => s.trapPc Cause.badLnch
    | some (lv, n) =>
      let job := s.me.job
      if s.split then { s.advance with ctrs := s.ctrs ++ [⟨job, lv, n, .cancel⟩] } else s.advance.cancelUnit job lv n)

/-- The open phase is closed and the next opened (02 R43). -/
def State.nextPhase (s : State) (job : BitVec 16) (cls : Bool) : State :=
  match s.job? job with
  | none => s
  | some j =>
    let p := j.phase
    let s := s.modJob job fun j =>
      { j with phase := p + 1,
               phases := (match j.phase? p with
                 | some x => j.phases.put p { x with closed := true }
                 | none => j.phases).put (p + 1) ⟨.start 1, false, cls⟩,
               ctr := { j.ctr with count := j.ctr.count + 1 } }
    s.phaseDec job p false

/-- PHASEEND. -/
def execPhaseend (b : GReg) (s : State) : Res :=
  let w := s.rg b
  .next (
    if bits w 1 63 ≠ 0 then s.trapPc Cause.badLnch
    else if s.fenceWait then s.block
    else (((s.fenced .sys).relDone.released .sys).nextPhase s.me.job (bit w 0)).advance)

/-! Events at counters. -/

/-- COMPLETION_COUNTER_EVENT: what was on its way to a counter reaches it (02 R38, R42). -/
def execCompletionCounterEvent (job : BitVec 16) (lv : Level) (n : Nat) (ev : CountEv) (s : State) : Res :=
  .next (
    if !s.ctrs.contains ⟨job, lv, n, ev⟩ then s
    else
      let s := { s with ctrs := s.ctrs.erase ⟨job, lv, n, ev⟩ }
      match ev, lv with
      | .cancel, _ => s.cancelUnit job lv n
      | .inc, .launch => (s.launchInc job n).1
      | .inc, _ => s
      | e, .launch => s.launchDec job n 1 (e = .decErr)
      | e, .graph => s.graphDec job n (e = .decErr)
      | e, .phase => s.phaseDec job n (e = .decErr)
      | e, .job => s.jobDec job (e = .decErr))

end Sys2Proof.Machine
end

