-- ==== Sys2Proof/Machine/Sched.lean ====
section
/-!
DEFINITION. The sources of work of a core: its deque and its refilling (03 R52, R53, R57), stealing (03 R54, R55), stage
rings and the weaver (02 R45; 03 R58 to R60), counter arms (03 R61, 17 R303).
-/

namespace Sys2Proof.Machine

/-! The own deque. -/

/-- DEQUE_POP: the owner end's record starts in a FREE general slot. -/
def execDequePop (c : Nat) (s : State) : Res :=
  .next (match (s.core c).freeSlot, popOwner (s.core c).deque with
    | some n, some (r, q) =>
      if s.opens c then (s.modCore c fun k => { k with deque := q }).startRecord c n r else s
    | _, _ => s)

/-- DEQUE_REFILL: the 64 entries spilled last return to an empty deque (03 R57). -/
def execDequeRefill (c : Nat) (s : State) : Res :=
  .next (s.modCore c fun k =>
    if k.deque = [] then
      let n := k.dspill.length - 64
      { k with deque := k.dspill.drop n, dspill := k.dspill.take n }
    else k)

/-! Stealing. -/

/-- The next of an ascending list of cores after one, wrapping round. -/
def nextAfter (cs : List Nat) (last : Option Nat) : Option Nat :=
  match last with
  | some x => (cs.find? fun c => x < c).or cs.head?
  | none => cs.head?

/-- The other hood cores of a core's job on its own die. -/
def State.dieMates (s : State) (c : Nat) : List Nat :=
  (s.jobCores (s.coreJob c)).filter fun x => towerOf x = towerOf c && x ≠ c

/-- The other dies on which the job of a core has hood cores, ascending. -/
def State.otherDies (s : State) (c : Nat) : List Nat :=
  (List.range 4).filter fun t => t ≠ towerOf c && (s.jobCores (s.coreJob c)).any fun x => towerOf x = t

/-- The stage a core works for: a move decided takes effect at its next ring take (03 R60). -/
def Core.stage (k : Core) : Option Nat :=
  match k.wvmove with
  | some n => some n.toNat
  | none => if bit k.stageasn 8 then some (bits k.stageasn 0 8) else none

/-- The registered ring of a core's job for a stage, with its number. -/
def State.ringOf (s : State) (c stage : Nat) : Option (Nat × Ring) :=
  firstSome (fun i =>
    if (s.weaver (towerOf c)).ringJob i = s.coreJob c then
      (s.ring c i).bind fun r => if r.stage = stage ∧ r.slots ≠ 0 then some (i, r) else none
    else none) (List.range 16)

/-- The ring that a core takes from, when it holds a record. -/
def State.ringReady (s : State) (c : Nat) : Option (Nat × Ring) :=
  match (s.core c).stage with
  | some n => (s.ringOf c n).bind fun x => if x.2.occ = 0 then none else some x
  | none => none

/-- Whether a core may look for work elsewhere: a FREE general slot, an empty deque. -/
def State.hungry (s : State) (c : Nat) : Bool :=
  let k := s.core c
  s.opens c && (s.hoodOf c).isSome && k.freeSlot.isSome && k.deque = [] && k.dspill = []

/-- A thief waits so long after a round (03 R54 step 5). -/
def backoffCycles : Nat := 256

/-- Whether a core steals now (03 R54): it takes from its stage's ring first (03 R58). -/
def State.thief (s : State) (c : Nat) : Bool :=
  let t := (s.core c).thief
  s.hungry c && t.out.isNone && t.backoff.isNone && (s.ringReady c).isNone

/-- A core's stealing is replaced. -/
def State.setThief (s : State) (c : Nat) (t : Thief) : State := s.modCore c fun k => { k with thief := t }

/-- A steal goes to a victim's arbiter. -/
def State.ask (s : State) (c v : Nat) (remote : Bool) : State :=
  s.modCore v fun k => { k with asked := k.asked ++ [(c, s.coreJob c, remote)] }

/-- STEAL: the next victim of the die is asked (03 R54 steps 1, 2). A round broken off by work of its own goes on where it
stood: the cores already tried count (log entry 114). -/
def execSteal (c : Nat) (s : State) : Res :=
  let t := (s.core c).thief
  let cs := s.dieMates c
  .next (
    if !s.thief c ∨ cs.length ≤ t.tried then s
    else match nextAfter cs (t.last.or (some (Config.firstVictim c))) with
      | some v => (s.setThief c { t with last := some v, out := some (v, false), tried := t.tried + 1 }).ask c v false
      | none => s)

/-- REMOTE_STEAL: after a full round, a core of another die is asked. With no other die the thief waits likewise
(log entry 22). -/
def execRemoteSteal (c : Nat) (s : State) : Res :=
  let t := (s.core c).thief
  .next (
    if !s.thief c ∨ t.tried < (s.dieMates c).length then s
    else match nextAfter (s.otherDies c) t.lastDie with
      | none => s.setThief c { t with tried := 0, backoff := some backoffCycles }
      | some d =>
        let cs := (s.jobCores (s.coreJob c)).filter fun x => towerOf x = d
        match nextAfter cs ((t.lastOn.find? fun x => x.1 = d).map fun x => x.2) with
        | some v =>
          (s.setThief c { t with out := some (v, true), lastDie := some d, lastOn := t.lastOn.put d v }).ask c v true
        | none => s)

/-- The steal that an arbiter answers first: the lowest thief (03 R52). -/
def Core.nextAsk (k : Core) : Option (Nat × BitVec 16 × Bool) :=
  k.asked.foldl (fun (b : Option (Nat × BitVec 16 × Bool)) x =>
    match b with
    | some y => if x.1 < y.1 then some x else some y
    | none => some x) none

/-- What a victim gives: from its spill ring first, as the oldest entries stand there (03 R57). -/
def Core.giveEnd (k : Core) : Option (DqEnt × Core) :=
  match stealEnd k.dspill with
  | some (e, q) => some (e, { k with dspill := q })
  | none => (stealEnd k.deque).map fun x => (x.1, { k with deque := x.2 })

/-- STEAL_ANSWER: the own pop goes first (03 R52, R55). GRANT with an entry, or EMPTY: also where the job tag differs, the
core is being pre-empted or its hood is shut (03 R54, R55; 18 R320; 22 R381). -/
def execStealAnswer (v : Nat) (s : State) : Res :=
  .next (match (s.core v).nextAsk with
    | none => s
    | some x =>
      if s.popWaits v then s
      else
      let s := s.modCore v fun k => { k with asked := k.asked.erase x }
      let no := s.packet x.2.1 v x.1 .empty
      if x.2.1 ≠ s.coreJob v ∨ s.closed v ∨ s.preempted v then no
      else match (s.core v).giveEnd with
        | some (e, k) => (s.setCore v k).packet x.2.1 v x.1 (.grant e)
        | none => no)

/-- The packet of a kind that has come for a core. -/
def State.inbox (s : State) (c : Nat) (p : Flit → Bool) : Option Packet :=
  if s.routerHeld c then none else s.packets.find? fun x => x.dst = c && p x.flit

/-- A packet is no longer on its way. -/
def State.took (s : State) (p : Packet) : State := { s with packets := s.packets.filter fun x => x.id ≠ p.id }

/-- The answer of a steal has come: after a remote one the thief waits. -/
def Thief.answered (t : Thief) (granted : Bool) : Thief :=
  match t.out with
  | some (_, true) => { t with out := none, tried := 0, backoff := some backoffCycles }
  | _ => { t with out := none, tried := if granted then 0 else t.tried }

/-- A granted entry: a record starts at once in a FREE slot while the deque is empty; anything else enters the deque. One whose
job tag is not that of the core's hood is refused and discarded (16 R286). -/
def State.granted (s : State) (c : Nat) (e : DqEnt) : State :=
  if hdrJob e.hdr ≠ s.coreJob c then s.discardEnt e
  else match e, (s.core c).freeSlot with
  | .one r, some n => if s.hungry c ∧ !s.cancelled e then s.startRecord c n r else s.remotePush c e
  | _, _ => s.remotePush c e

/-- GRANT. -/
def execGrant (c : Nat) (s : State) : Res :=
  .next (match s.inbox c (fun f => match f with
      | .grant _ => true
      | _ => false) with
    | some p =>
      let s := (s.took p).modCore c fun k => { k with thief := k.thief.answered true }
      (match p.flit with
        | .grant e => s.granted c e
        | _ => s)
    | none => s)

/-- EMPTY. -/
def execEmpty (c : Nat) (s : State) : Res :=
  .next (match s.inbox c (· = .empty) with
    | some p => (s.took p).modCore c fun k => { k with thief := k.thief.answered false }
    | none => s)

/-- STEAL_BACKOFF_EXPIRY: the 256 cycles have passed. -/
def execStealBackoffExpiry (c : Nat) (s : State) : Res :=
  .next (if (s.core c).thief.backoff = some 0
    then s.modCore c fun k => { k with thief := { k.thief with backoff := none } } else s)

/-! Stage rings. -/

/-- Words written one after another, while each can be. -/
def State.writeWords (s : State) (ag : Agent) (a : Word) : List Word → Option State
  | [] => some s
  | w :: ws =>
    match s.writeAt ag a (leBytes 8 w.toNat) false with
    | .ok s _ => State.writeWords s ag (a + 8) ws
    | _ => none

/-- A record fills the slot at TAIL of a ring. -/
def State.ringFill (s : State) (ag : Agent) (r : Ring) (x : Rec) : Option State :=
  (s.writeWords ag (r.slot r.tail) (x.take 8)).bind fun s => s.writeWords ag (r.addr + 24) [word (r.tail + 1)]

/-- The oldest spilled record fills the slot at TAIL of ring `i` (03 R57). -/
def State.ringRefill (s : State) (c i : Nat) (job : BitVec 16) (r : Ring) : State :=
  match (s.weaver (towerOf c)).spill.look i [] with
  | [] => s
  | x :: xs =>
    match s.ringFill (s.party c job false) r x with
    | some s => s.modWeaver (towerOf c) fun w => { w with spill := w.spill.put i xs }
    | none => s

/-- A record is offered to ring `i` of a die (03 R57, 20 R355): it fills slot TAIL, or enters the ring's spill ring where the
ring is full or records wait there already, or is discarded where that breaches RQ. Where the descriptor cannot be read or
slot TAIL not be written it vanishes (log entry 66). -/
def State.ringOffer (s : State) (die i : Nat) (x : Rec) : State :=
  match s.dieRing die i with
  | none => s
  | some (job, c, r) =>
    let old := (s.weaver die).spill.look i []
    let jt := (s.core c).jtbase
    if r.occ < r.slots ∧ old = [] then (s.ringFill (s.party c job false) r x).getD s
    else if s.spillOk jt job old.length (old.length + 1) (bits (s.jobEntry jt job 3) 32 16) then
      s.modWeaver die fun w => { w with spill := w.spill.put i (old ++ [x]) }
    else (s.discardEnt (.one x)).quotaEvent job

/-- HEAD incremented by an atomic at its data home (03 R58), and the index it held: none where the page refuses it. -/
def State.incHead (s : State) (c : Nat) (job : BitVec 16) (r : Ring) : Option (State × Nat) :=
  let ag := s.party c job false
  let va := bits (r.addr + 16) 0 48
  match s.translate ag va .amo with
  | (s, .ok pa ty _ _ _ _) =>
    (match s.amoPage ag va pa ty ⟨.add, 8, 1, 0⟩ with
      | .ok s v => some (s, v)
      | _ => none)
  | _ => none

/-- A core has taken from its stage's ring: a move decided by the weaver is written now (03 R60, 09 R188). -/
def Core.tookMove (k : Core) : Core :=
  match k.wvmove with
  | some n => { k with stageasn := 256#9 ||| n.setWidth 9, wvmove := none }
  | none => k

/-- STAGE_RING_TAKE: the record whose index the increment of HEAD gives starts, once (03 R58). One that a CANCEL has
discarded is passed by, and so is one stored for a cancelled launch since (02 R41, R42). -/
def execStageRingTake (c : Nat) (s : State) : Res :=
  .next (
    if !s.hungry c then s
    else
      let job := s.coreJob c
      let die := towerOf c
      match s.ringReady c, (s.core c).freeSlot with
      | some (i, r), some n =>
        (match s.incHead c job r with
          | some (t, h) =>
            (match t.ringRecord c job r h with
              | some x =>
                let t := (t.modCore c Core.tookMove).ringRefill c i job r
                if (t.weaver die).gone.contains (i, h) then
                  t.modWeaver die fun w => { w with gone := w.gone.erase (i, h) }
                else if t.cancelled (.one x) then t else t.startRecord c n x
              | none => s)
          | none => s)
      | _, _ => s)

/-! The weaver (03 R59). -/

/-- A stage of a job as one number. -/
def stageKey (job : BitVec 16) (stage : Nat) : Nat := job.toNat * 2 ^ 16 + stage

/-- What the weaver sees of a ring: its job and stage, how far it is below LOW, and above HIGH, where it is. -/
structure Seen where
  job   : BitVec 16
  stage : Nat
  below : Option Nat
  above : Option Nat

/-- The rings of a die as sampled. -/
def State.seenRings (s : State) (die : Nat) : List Seen :=
  (List.range 16).filterMap fun i =>
    (s.dieRing die i).map fun x =>
      let r := x.2.2
      { job := x.1, stage := r.stage, below := if r.occ ≤ r.low then some (r.low - r.occ) else none,
        above := if r.high ≤ r.occ then some (r.occ - r.high) else none }

/-- The best of a list by a measure, ties to the lower stage. -/
def best (f : Seen → Option Nat) (l : List Seen) : Option Seen :=
  l.foldl (fun (b : Option Seen) x =>
    match f x, b with
    | none, _ => b
    | some _, none => some x
    | some n, some y =>
      let m := (f y).getD 0
      if m < n ∨ (m = n ∧ x.stage < y.stage) then some x else b) none

/-- The cores of a job's hoods on a die that work for a stage. -/
def State.stageCores (s : State) (die : Nat) (job : BitVec 16) (stage : Nat) : List Nat :=
  (s.jobCores job).filter fun c => towerOf c = die && (s.core c).stage = some stage

/-- The core that leaves a stage: the highest that has not moved within the last 8 samples; none where the stage would
be left without a core. -/
def State.leaver (s : State) (die : Nat) (x : Seen) : Option Nat :=
  let w := s.weaver die
  let cs := s.stageCores die x.job x.stage
  if cs.length < 2 then none
  else (cs.reverse).find? fun c => match w.movedAt.find? fun y => y.1 = c with
    | some y => y.2 + 8 < w.samples
    | none => true

/-- A sample of a weaver: writes of the ring registers take effect (09 R188), then the test of two successive samples. The
congested stage is the most congested over all jobs; the starved one is of its job (log entry 115). -/
def State.sampleRings (s : State) (die : Nat) : State :=
  let s := s.modWeaver die fun w =>
    { w with seen := w.rings, gone := w.gone.filter fun g => w.rings.look g.1 0 = w.seen.look g.1 0 }
  let seen := s.seenRings die
  let w := s.weaver die
  let key (x : Seen) : Nat := stageKey x.job x.stage
  let hot := seen.filter fun x => x.above.isSome
  let cold := seen.filter fun x => x.below.isSome
  let s := s.modWeaver die fun w =>
    { w with samples := w.samples + 1, starved := cold.map key, congested := hot.map key, due := false }
  match best (·.above) (hot.filter fun x => w.congested.contains (key x)) with
    | none => s
    | some hi =>
      let from_ := cold.filter fun x => w.starved.contains (key x) && x.job = hi.job && x.stage ≠ hi.stage
      match (best (·.below) from_).bind (s.leaver die) with
      | none => s
      | some c =>
        (s.modCore c fun k => { k with wvmove := some (BitVec.ofNat 8 hi.stage) }).modWeaver die fun w =>
          { w with movedAt := w.movedAt.put c w.samples }

/-- The sample that is due, where 4096 cycles of island 4t have ended since the last one. -/
def State.sampleDie (s : State) (die : Nat) : State := if (s.weaver die).due then s.sampleRings die else s

/-- WEAVER_SAMPLE: no cycle of the island passes before it (State.tick). -/
def execWeaverSample (die : Nat) (s : State) : Res := .next (s.sampleDie die)

/-! Counter arms. -/

/-- A counter of 17 R303 as a core samples it. -/
def State.counterValue (s : State) (c cnt : Nat) : Nat :=
  let k := s.core c
  let i := s.island (islandOf c)
  match cnt with
  | 0 => k.window.1
  | 1 => k.window.2
  | 2 => k.deque.length + k.dspill.length
  | 3 => (k.box false).length
  | 4 => k.usc
  | 5 =>
    if bit k.stageasn 8 then ((s.ringOf c (bits k.stageasn 0 8)).map fun x => x.2.occ).getD 0 else 0
  | 6 => i.last.temp
  | 7 => i.last.power
  | 8 => i.last.current
  | 9 => i.droops
  | 10 => i.clock
  | _ => k.refusals

/-- An arm at a sample: where its counter has crossed, its record is pushed and the arm is disarmed. -/
def State.sampleArm (s : State) (c : Nat) (x : Nat × Arm) : State :=
  let a := x.2
  let v := s.counterValue c a.cnt.toNat
  if if a.falling then a.thresh < v else v < a.thresh then s
  else
    let s := s.modCore c fun k => { k with arms := k.arms.del x.1 }
    match s.launchInc a.job a.lid.toNat with
    | (s, true) => { s with mails := s.mails ++ [⟨s.serial, c, a.target, false, a.record⟩], serial := s.serial + 1 }
    | (s, false) => s

/-- Where 1024 cycles of the island have ended since the last sample, every arm of the core is sampled, and its counters are
kept (17 R303). -/
def State.sampleCore (s : State) (c : Nat) : State :=
  let vs := (List.range 12).map (s.counterValue c)
  if !(s.core c).due then s
  else ((s.core c).arms.foldl (fun s x => s.sampleArm c x) s).modCore c fun k => { k with due := false, sampled := vs }

/-- COUNTER_SAMPLE: no cycle of the island passes before it (State.tick). -/
def execCounterSample (c : Nat) (s : State) : Res := .next (s.sampleCore c)

end Sys2Proof.Machine
end

