-- ==== Sys2Proof/Machine/Wale.lean ====
section
/-!
DEFINITION. Wale tiles (07 R140 to R148, 12 R247 to R250, 06 R124, 21 R364, R365): the operations at the slice, the
instructions, and their arrivals.
-/

namespace Sys2Proof.Machine

/-! Records. -/

/-- Whether two intervals meet. -/
def ivMeets (a b : Nat × Nat) : Bool := a.1 < b.2 && b.1 < a.2

/-- Extents with an interval recorded: joined with those that it touches, else inserted (07 R143). -/
def recordIv (es : List (Nat × Nat)) (lo hi : Nat) : List (Nat × Nat) :=
  let l := match es.find? (·.2 = lo) with
    | some e => e.1
    | none => lo
  let h := match es.find? (·.1 = hi) with
    | some e => e.2
    | none => hi
  let keep := es.filter fun e => e.2 ≠ lo ∧ e.1 ≠ hi
  (keep.filter (·.1 < l)) ++ [(l, h)] ++ keep.filter fun e => l ≤ e.1

/-- p: the end of coverage from 0 (07 R144). -/
def prefixEnd (es : List (Nat × Nat)) : Nat :=
  match es.find? (·.1 = 0) with
  | some e => e.2
  | none => 0

/-- One contribution added element by element (06 R124). -/
def Wale.addOne (w : Wale) (c : List Int) : Wale :=
  { w with data := (w.data.zip c).map fun x =>
      if w.mode = .exact then sint (wrap 64 (x.1 + x.2)) 64
      else (add32 .rne 0 false x.1.toNat x.2.toNat : Nat) }

/-- Whether everything accepted has been added and coverage is [0, K). -/
def Wale.full (w : Wale) : Bool := w.adds = [] && w.staged = [] && w.exts = [(0, w.k)]

/-- Staged contributions that follow the prefix, taken in ascending lo (07 R144); `p` is the end of what is being added so
far. -/
def unstage (st : List (Nat × Nat × List Int)) : Nat → Nat → List (Nat × List Int)
  | 0, _ => []
  | n + 1, p =>
    match st.find? (·.1 = p) with
    | some x => (p, x.2.2) :: unstage st n x.2.1
    | none => []

/-! The slice. -/

/-- A tile becomes COMPLETE when it can (07 R145): waiters are woken, its barrier takes an arrival. -/
def State.completeTile (s : State) (i : Nat) : State :=
  let w := s.wale i
  if w.st = .opened && w.full then
    let s := { s with wales := s.wales.put i { w with st := .complete } }
    let s := match w.bar with
      | some (c, n) => s.packet w.job (i / 64) c (.arrive n)
      | none => s
    s.wakeWale i
  else s

/-- The datapath finishes one addition; one from staging frees its entry (07 R144). A tile whose data cannot be read becomes
DEAD instead (21 R364). -/
def State.addNext (s : State) (i : Nat) : State :=
  let w := s.wale i
  match w.adds with
  | [] => s
  | (p, c) :: cs =>
    if w.pois then s.dropTile i (FaultCode.operand Cause.poison)
    else
    let w := { w with adds := cs, staged := w.staged.filter (·.1 ≠ p) }
    ({ s with wales := s.wales.put i (w.addOne c) } : State).completeTile i

/-- The datapath finishes every addition of a tile. -/
def State.addAll (s : State) (i : Nat) : Nat → State
  | 0 => s
  | n + 1 => State.addAll (s.addNext i) i n

/-- Every addition waiting at a tile is finished. -/
def State.flushAdds (s : State) (i : Nat) : State := s.addAll i (s.wale i).adds.length

/-- Whether the handle's tile is one of the caller's: its generation and job match and it is not FREE. -/
def Wale.mine (w : Wale) (gen job : BitVec 16) : Bool := w.st ≠ .free && w.gen = gen && w.job = job

/-- What a slice answers: a word for ga, or a tile's elements with their width. -/
inductive WaleAns
  | stat (w : Word)
  | data (width : Nat) (vals : List Nat)

/-- A status as an answer. -/
def ansOf (n : Nat) : WaleAns := .stat (word n)

/-- Whether a slot is free to arm: FREE itself, and no half of an EXACT pair. -/
def State.slotFree (s : State) (i : Nat) : Bool :=
  (s.wale i).st = .free &&
    !(i % 2 = 1 && (s.wale (i - 1)).st ≠ .free && (s.wale (i - 1)).mode = .exact)

/-- The greater of two generations, by number. -/
def genMax (a b : BitVec 16) : BitVec 16 := if a.ult b then b else a

/-- The mode that a code names. -/
def waleMode : Nat → Option WaleMode
  | 0 => some .exact | 1 => some .arrive | 2 => some .order | _ => none

/-- The phase of a launch: of its graph, or the open one where the launch is not live. -/
def State.phaseOf (s : State) (job : BitVec 16) (lid : Nat) : Nat :=
  match s.job? job with
  | some j => (((j.launch? lid).bind fun l => j.graph? l.graph).map (·.phase)).getD j.phase
  | none => 0

/-- WARM at its slice (12 R247). -/
def State.warmAt (s : State) (job : BitVec 16) (lid : BitVec 12) (w : Word) : State × WaleAns :=
  let fail (n : Nat) : State × WaleAns := (s, .stat (word (2 ^ 63 + n)))
  let sl := bits w 36 9
  let ben := bit w 45
  match waleMode (bits w 24 2) with
  | none => fail WaleStatus.shape
  | some mode =>
    if bits w 60 4 ≠ 0 then fail WaleStatus.shape
    else if bits w 0 24 = 0 ∨ (ben ∧ !s.inHoods job (bits w 46 9)) then fail WaleStatus.range
    else
      let base := sl * 64
      let slot := if mode = .exact
        then (lowest 32 fun j => s.slotFree (base + 2 * j) && s.slotFree (base + 2 * j + 1)).map (2 * ·)
        else lowest 64 fun j => s.slotFree (base + j)
      match slot with
      | none => fail WaleStatus.noSpace
      | some j =>
        let i := base + j
        let gen := (if mode = .exact then genMax (s.wale i).gen (s.wale (i + 1)).gen else (s.wale i).gen) + 1
        let rows := bits w 26 5 + 1
        let cols := bits w 31 5 + 1
        let t : Wale :=
          { gen := gen, st := .opened, mode := mode, k := bits w 0 24, exts := [], rows := rows, cols := cols,
            lid := lid, job := job, phase := s.phaseOf job lid.toNat, past := false,
            bar := if ben then some (bits w 46 9, Fin.ofNat 32 (bits w 55 5)) else none,
            data := List.replicate (rows * cols) 0, staged := [], adds := [], pois := false }
        let ws := s.wales.put i t
        let ws := if mode = .exact then ws.put (i + 1) { s.wale (i + 1) with gen := gen } else ws
        ({ s with wales := ws }, .stat (word (gen.toNat * 2 ^ 16 + j * 2 ^ 9 + sl)))

/-- Contributions staged in a slice (07 R143). -/
def State.stagedIn (s : State) (slice : Nat) : Nat :=
  ((upFrom (slice * 64) 64).map fun i => (s.wale i).staged.length).sum

/-- Whether a contribution's kind fits a mode: F32 for ARRIVE and ORDER, integers for EXACT. -/
def kindFits (mode : WaleMode) (kind : Nat) : Bool :=
  if mode = .exact then kind = 1 || kind = 2 else kind = 0

/-- WADD at its slice, in the order of 07 R143. -/
def State.waddAt (s : State) (i : Nat) (iv : Word) (elems : List Int) : State × WaleAns :=
  let w := s.wale i
  let lo := bits iv 0 24
  let hi := bits iv 24 24
  let touch := w.exts.any fun e => e.2 = lo ∨ e.1 = hi
  let p := prefixEnd w.exts
  let stages := w.mode = .order && p < lo
  if w.st ≠ .opened ∧ w.st ≠ .complete then (s, ansOf WaleStatus.dead)
  else if bits iv 50 14 ≠ 0 ∨ !kindFits w.mode (bits iv 48 2) then (s, ansOf WaleStatus.shape)
  else if hi ≤ lo ∨ w.k < hi then (s, ansOf WaleStatus.range)
  else if w.exts.any (ivMeets (lo, hi)) then (s, ansOf WaleStatus.dup)
  else if !touch ∧ w.exts.length = 8 then (s, ansOf WaleStatus.full)
  else if stages ∧ 16 ≤ s.stagedIn (i / 64) then (s, ansOf WaleStatus.wait)
  else
    let w := { w with exts := recordIv w.exts lo hi }
    let w := if stages then { w with staged := w.staged ++ [(lo, hi, elems)] }
      else
        let more := if w.mode = .order then unstage w.staged 16 hi else []
        { w with adds := w.adds ++ [(lo, elems)] ++ more }
    ({ s with wales := s.wales.put i w }, ansOf WaleStatus.done)

/-- WSTAT's word (07 R145). -/
def Wale.word (w : Wale) : Word :=
  Machine.word ((match w.st with
      | .opened => 0 | .complete => 1 | .dead => 2 | .free => 3) * 2 ^ 62 +
    w.exts.length * 2 ^ 58 + w.staged.length * 2 ^ 53 + ((w.exts.map fun e => e.2 - e.1).sum) * 2 ^ 24 +
    prefixEnd w.exts)

/-- A complete tile's elements in a form (12 R250). -/
def Wale.read (w : Wale) (int : Bool) : WaleAns :=
  if int then
    if w.mode = .exact then .data 64 (w.data.map (wrap 64)) else ansOf WaleStatus.shape
  else .data 32 (w.data.map fun x => if w.mode = .exact then f32Rne (fpInt x) else x.toNat)

/-- An operation on a tile that a handle names, at its slice; every addition accepted before is finished first (07 R148).
A tile whose data or record cannot be read becomes DEAD (21 R364). -/
def State.tileOp (s : State) (job : BitVec 16) (h : Word) (dead : WaleAns) (free : Bool)
    (f : State → Nat → State × WaleAns) : State × WaleAns :=
  match handleSlot h with
  | none => (s, dead)
  | some (i, gen) =>
    let s := s.flushAdds i
    let s := if (s.wale i).pois ∧ ((s.wale i).st = .opened ∨ (s.wale i).st = .complete)
      then s.dropTile i (FaultCode.operand Cause.poison) else s
    let w := s.wale i
    if !w.mine gen job ∨ (w.st = .dead ∧ !free) then (s, dead) else f s i

/-- A wale operation performed at its slice. -/
def State.waleAt (s : State) (job : BitVec 16) (lid : BitVec 12) (op : WaleOp) : State × WaleAns :=
  let dead := ansOf WaleStatus.dead
  match op with
  | .warm w => s.warmAt job lid w
  | .wadd h iv es => s.tileOp job h dead false fun s i => s.waddAt i iv es
  | .wstat h => s.tileOp job h (.stat (word (2 * 2 ^ 62))) false fun s i => (s, .stat (s.wale i).word)
  | .wread h _ int => s.tileOp job h dead false fun s i =>
      (s, if (s.wale i).st = .complete then (s.wale i).read int else ansOf WaleStatus.incomplete)
  | .wdrop h => s.tileOp job h dead false fun s i => (s.dropTile i FaultCode.dropped, ansOf WaleStatus.done)
  | .wfree h => s.tileOp job h dead true fun s i =>
      if (s.wale i).st = .opened then (s, ansOf WaleStatus.opened)
      else
        ({ s with wales := s.wales.put i { Wale.empty with gen := (s.wale i).gen } }, ansOf WaleStatus.done)

/-! Answers. -/

/-- Elements placed in registers from `v` up, the last one filled with zeros (12 R248, R250). -/
def Strand.putElems (t : Strand) (v w : Nat) (vals : List Nat) : Strand :=
  let per := 1024 / w
  let cs := chunks per (ceilDiv vals.length per) vals
  ((List.range cs.length).zip cs).foldl (fun t x => t.putV (v + x.1) (ofLanes w x.2)) t

/-- A strand takes a slice's answer. What earlier contributors did is seen after data is returned (05 R98). -/
def State.waleReply (s : State) (c n : Nat) (d : GReg) (l : La) (v : Nat) (a : WaleAns) : State :=
  match a with
  | .stat w => s.modStrand c n fun t => t.late d w l (t.pc + 4)
  | .data w vals => (s.invalidateRc c).modStrand c n fun t => (t.putElems v w vals).late d 0 l (t.pc + 4)

/-- The register that an operation's data goes to. -/
def WaleOp.vreg : WaleOp → Nat
  | .wread _ v _ => v.val
  | _ => 0

/-- A wale operation of the issuing strand: performed at its slice at once, or on its way there (log entry 5). -/
def State.waleIssue (s : State) (d : GReg) (l : La) (op : WaleOp) : State :=
  if s.split then
    let r : WaleReq := { core := s.cur.core, slot := s.cur.slot, job := s.me.job, lid := s.me.lid, d := d, l := l, op := op }
    ({ s with wreqs := s.wreqs.put s.serial r, serial := s.serial + 1 } : State).await (.wale s.serial)
  else
    let (s, a) := s.waleAt s.me.job s.me.lid op
    let s := s.waleReply s.cur.core s.cur.slot d l op.vreg a
    match op with
    | .wadd h .. => (match handleSlot h with
        | some (i, _) => s.flushAdds i
        | none => s)
    | _ => s

/-! Instructions. -/

/-- WARM. -/
def execWarm (a b : GReg) (l : La) (s : State) : Res := .next (s.waleIssue a l (.warm (s.rg b)))

/-- The elements of a contribution, read at issue (12 R248). -/
def Strand.elems (t : Strand) (v kind n : Nat) : List Int :=
  let w := if kind = 2 then 64 else 32
  let per := 1024 / w
  (List.range n).map fun e =>
    let x := lane w (t.vr (v + e / per)) (e % per)
    if kind = 0 then (x : Int) else sint x w

/-- How many elements the tile of a handle has. -/
def State.tileSize (s : State) (h : Word) : Nat :=
  match handleSlot h with
  | some (i, _) => (s.wale i).rows * (s.wale i).cols
  | none => 0

/-- WADD: NOLEASE, then a release, then the contribution. -/
def execWadd (a b c : GReg) (n : VReg) (l : La) (s : State) : Res :=
  let h := s.rg b
  let iv := s.rg c
  .next (
    if !hasVec s.cur.slot s.me then s.trapPc Cause.noLease
    else if s.fenceWait then s.block
    else (((s.fenced .pkg).relDone).released .pkg).waleIssue a l (.wadd h iv (s.me.elems n.val (bits iv 48 2) (s.tileSize h))))

/-- WSTAT. -/
def execWstat (a b : GReg) (l : La) (s : State) : Res := .next (s.waleIssue a l (.wstat (s.rg b)))

/-- The tile that a handle of the issuing strand names, while it is OPEN. -/
def State.openTile (s : State) (h : Word) : Option Nat :=
  match handleSlot h with
  | some (i, gen) => if (s.wale i).mine gen s.me.job ∧ (s.wale i).st = .opened then some i else none
  | none => none

/-- WWAIT: parks while the tile is OPEN, with an entry in its slice's wait table (20 R356). -/
def execWwait (b : GReg) (s : State) : Res :=
  let h := s.rg b
  .next (
    if !isGeneral s.cur.slot then s.trapPc Cause.hPark
    else match s.openTile h with
      | none => (s.invalidateRc s.cur.core).advance
      | some i =>
        if s.waitRoom s.mine.jtbase s.me.job (i / 64) then
          { s.park (.wale h) with waits := s.waits ++ [(false, 2 ^ 60 + i, s.cur.core, s.cur.slot)] }
        else (s.tell (.waitQuota s.me.job (i / 64))).trap Cause.quota h)

/-- WREAD in a form. -/
def State.wread (s : State) (a b : GReg) (n : VReg) (l : La) (int : Bool) : State :=
  if !hasVec s.cur.slot s.me then s.trapPc Cause.noLease else s.waleIssue a l (.wread (s.rg b) n int)

/-- WREAD.F. -/
def execWreadF (a b : GReg) (n : VReg) (l : La) (s : State) : Res := .next (s.wread a b n l false)
/-- WREAD.I. -/
def execWreadI (a b : GReg) (n : VReg) (l : La) (s : State) : Res := .next (s.wread a b n l true)
/-- WDROP. -/
def execWdrop (a b : GReg) (l : La) (s : State) : Res := .next (s.waleIssue a l (.wdrop (s.rg b)))
/-- WFREE. -/
def execWfree (a b : GReg) (l : La) (s : State) : Res := .next (s.waleIssue a l (.wfree (s.rg b)))

/-! Arrivals. -/

/-- A wale operation on its way arrives at its slice, where it is of the kind that the event names; its strand, if it
still waits, takes the answer. -/
def State.waleArrival (s : State) (id : Nat) (kind : WaleOp → Bool) : State :=
  match (s.wreqs.find? (·.1 = id)).map (·.2) with
  | none => s
  | some r =>
    if !kind r.op then s
    else
      let (s, a) := ({ s with wreqs := s.wreqs.del id } : State).waleAt r.job r.lid r.op
      if (s.strand r.core r.slot).st = .waiting (.wale id) then s.waleReply r.core r.slot r.d r.l r.op.vreg a else s

/-- WARM_ARRIVAL. -/
def execWarmArrival (id : Nat) (s : State) : Res :=
  .next (s.waleArrival id fun o => match o with
    | .warm _ => true
    | _ => false)
/-- WADD_ARRIVAL. -/
def execWaddArrival (id : Nat) (s : State) : Res :=
  .next (s.waleArrival id fun o => match o with
    | .wadd .. => true
    | _ => false)
/-- WSTAT_ARRIVAL. -/
def execWstatArrival (id : Nat) (s : State) : Res :=
  .next (s.waleArrival id fun o => match o with
    | .wstat _ => true
    | _ => false)
/-- WREAD_ARRIVAL. -/
def execWreadArrival (id : Nat) (s : State) : Res :=
  .next (s.waleArrival id fun o => match o with
    | .wread .. => true
    | _ => false)
/-- WDROP_ARRIVAL. -/
def execWdropArrival (id : Nat) (s : State) : Res :=
  .next (s.waleArrival id fun o => match o with
    | .wdrop _ => true
    | _ => false)
/-- WFREE_ARRIVAL. -/
def execWfreeArrival (id : Nat) (s : State) : Res :=
  .next (s.waleArrival id fun o => match o with
    | .wfree _ => true
    | _ => false)

/-- WALE_ADD_DONE: the datapath finishes the next addition of a tile. -/
def execWaleAddDone (slice slot : Nat) (s : State) : Res := .next (s.addNext (slice * 64 + slot))

end Sys2Proof.Machine
end

