-- ==== Sys2Proof/Machine/Contain.lean ====
section
/-!
DEFINITION. Containment (22 R374 to R383): fencing and resetting a hood, HALT (12 R261), uncorrectable errors and
refresh.
-/

namespace Sys2Proof.Machine

/-! Fencing (22 R380). -/

/-- The launches that have a record, a strand or a tile task on a core: records in its deque, mailboxes, their spill rings,
send queues and mailbox bindings. -/
def State.launchesOn (s : State) (c : Nat) : List Nat :=
  let k := s.core c
  let ofEnt (e : DqEnt) : Nat := match e with
    | .one r => hdrLid (recHdr r)
    | .range h .. => hdrLid h
  let ofStrands := (k.strands.filter fun x => x.2.live && !s.gone c x.1).map fun x => x.2.lid.toNat
  let bound := k.queues.flatMap fun x => match x.2.kind with
    | .mbox _ ws => wordsToRecs ws
    | _ => []
  let recs := k.box false ++ k.box true ++ k.boxSpill false ++ k.boxSpill true ++ k.sq false ++ k.sq true ++ bound
  (k.deque ++ k.dspill ++ recs.map DqEnt.one).map ofEnt ++ ofStrands ++ (k.matrix.tile.map fun t => t.lid.toNat).toList ++
    (k.matrix.queued.map fun x => x.2.lid.toNat).toList ++
    ((s.sched (clusterOf c)).held.filter fun t => t.core = c).map fun t => t.lid.toNat

/-- A tile task held by a scheduler is discarded. -/
def State.dropTask (s : State) (cl : Nat) (t : Task) : State :=
  let s := (s.unheld cl t).setTicket cl t.ticket ⟨2, true, t.core⟩
  s.sendDec t.job t.lid.toNat true

/-- The tile operation of a core of a fenced hood is abandoned (22 R380 step 2); its handlers end at their boundary, their rows
discarded. -/
def State.stopTile (s : State) (c : Nat) : State :=
  let s := s.abandonTile c FaultCode.cancelled
  match (s.core c).matrix.tile with
  | none => s
  | some t => s.endHandlers c ((s.core c).handlers t)

/-- What a core of a fenced hood held ends: its strands, its copies, its records not started; the tile tasks it submitted. Its
operation ends when what its handlers have issued is performed (21 R359). -/
def State.stopCore (s : State) (c : Nat) : State :=
  let s := ((s.core c).strands.filter fun x => x.2.live && !s.gone c x.1).foldl
    (fun s x => s.endStrand c x.1 false true) s
  let s := match (s.core c).matrix.queued with
    | some (cl, t) => (s.setTicket cl t.ticket ⟨2, true, c⟩).sendDec t.job t.lid.toNat true
    | none => s
  let k := s.core c
  let mbox := k.box false ++ k.box true ++ k.boxSpill false ++ k.boxSpill true ++ k.sq false ++ k.sq true
  let s := (k.deque ++ k.dspill ++ mbox.map DqEnt.one).foldl State.discardEnt s
  let cl := clusterOf c
  let s := ((s.sched cl).held.filter fun t => t.core = c).foldl (fun s t => s.dropTask cl t) s
  (s.modCore c fun k =>
    { k with deque := [], dspill := [], mbox := [], mspill := [], sendq := [], copies := [], arms := [],
             matrix := { k.matrix with load := none, queued := none }, replay := none, leaseq := [] }).faultEnds c

/-- A pre-emption that a hood's fence or a supply loss ends: the source keeps its context, traps held for it are taken
there, and an operation abandoned for it completes in an error phase (18 R320, R324). -/
def State.abandonPreempt (s : State) (p : Preempt) : State :=
  let s := ({ s with preempts := s.preempts.filter fun x => x.src ≠ p.src } : State).releaseHold p.src
  match (s.core p.src).matrix.again with
  | some t =>
    (s.modMatrix p.src fun m => { (m.ended t FaultCode.preempted) with again := none }).tileEnds p.src t
      FaultCode.preempted
  | none => s

/-- The acknowledgement of a migration that has left a core is discarded (22 R380 step 3): the slot kept for it holds
nothing. -/
def State.dropMoves (s : State) (c : Nat) : State :=
  let s := (s.moves.filter fun m => m.src = c && m.ok = some true).foldl (fun s m => s.setStrand c m.slot Strand.empty) s
  { s with moves := s.moves.filter fun m => m.src ≠ c }

/-- A hood is fenced (22 R379, R380). `told` says that the other hoods' supervisors receive HOODFENCE. -/
def State.fence (s : State) (leader : Nat) (told : Bool) : State :=
  match s.hoods.find? fun h => h.leader = leader with
  | none => s
  | some h =>
    if h.st ≠ .active then s
    else
      let s := s.modHoods (fun x => x.leader = leader) fun x => { x with st := .fenced }
      let cs := h.cores
      let s := (s.preempts.filter fun p => cs.contains p.src || cs.contains p.dst).foldl State.abandonPreempt s
      let ls := (cs.flatMap s.launchesOn).eraseDups
      let s := cs.foldl State.stopTile s
      let s := ls.foldl (fun s l => s.cancelLaunch h.job l) s
      let s := cs.foldl State.dropMoves (cs.foldl State.stopCore s)
      let s := s.modJob h.job fun j => { j with replaying := none }
      if told && s.hoods.any fun x => x.job = h.job && x.leader ≠ leader then s.tell (.hoodFence h.job leader) else s

/-- HALT: the core's hood is fenced (12 R261, 22 R379); a core of no hood is stopped alone. -/
def execHalt (s : State) : Res :=
  .next (
    if !s.me.sup then s.trapPc Cause.priv
    else
      let c := s.cur.core
      let s := s.advance.modMine fun k => { k with halted := true }
      match s.hoodOf c with
      | some h => s.fence h.leader false
      | none => s)

/-! Reset (22 R382). -/

/-- The core register block of 16 R289 is written into a core. -/
def Core.writeBlock (k : Core) (b : Block) : Core :=
  { k with tvec := b.tvec &&& ~~~ 3#64, htbase := b.htbase &&& ~~~ 0x7000#64, jtbase := b.jtbase,
           fatbase := b.fatbase, sscr := b.sscr }

/-- A core's must-save declaration is withdrawn (23 R390). -/
def State.withdraw (s : State) (c : Nat) : State :=
  let n := (s.core c).mslen.toNat
  ({ s with brim := { s.brim with budget := s.brim.budget - n } } : State).modCore c fun k =>
    { k with msbase := 0, mslen := 0, declarer := none }

/-- A core returns to its state at reset: the steals that wait there are answered EMPTY (22 R381), its unacknowledged stores
are performed no more (R383). -/
def State.resetCore (s : State) (c : Nat) : State :=
  let s := (s.core c).asked.foldl (fun s x => s.packet x.2.1 c x.1 .empty) s
  (({ s with accs := s.accs.filter fun x => x.2.core ≠ c } : State).withdraw c).setCore c Core.reset

/-- HOOD_RESET: every core of a fenced hood whose operations have ended returns to its state at reset; collectives whose barrier
is there lose this member (21 R367). After detection of a supply loss no reset begins: the hood's declarations are saved (23
R400). -/
def execHoodReset (leader : Nat) (s : State) : Res :=
  .next (match s.hoods.find? fun h => h.leader = leader with
    | none => s
    | some h =>
      if h.st ≠ .fenced ∨ s.brim.st ≠ .idle ∨ (h.cores.any fun c => (s.core c).matrix.tile.isSome) then s
      else
        let cs := h.cores
        let s := s.modHoods (fun x => x.leader = leader) fun x => { x with st := .resetting }
        let s := cs.foldl State.resetCore s
        let s := { s with waits := s.waits.filter fun w => !cs.contains w.2.2.1 }
        let colls := ((s.job? h.job).map fun j => j.colls).getD []
        (colls.filter fun x => cs.contains x.2.bcore).foldl (fun s x => s.loseMember h.job x.1) s)

/-- HOOD_RESET_END: the latest block is written and the hood is ACTIVE, or it is freed after JOBEND. -/
def execHoodResetEnd (leader : Nat) (s : State) : Res :=
  .next (match s.hoods.find? fun h => h.leader = leader with
    | none => s
    | some h =>
      if h.st ≠ .resetting then s
      else if h.ending then { s with hoods := s.hoods.filter fun x => x.leader ≠ leader }
      else
        let s := h.cores.foldl (fun s c => s.modCore c fun k => k.writeBlock h.block) s
        s.modHoods (fun x => x.leader = leader) fun x => { x with st := .active })

/-! Errors. -/

/-- UNCORRECTABLE_ERROR (22 R378): in the state of one strand, which ends; or in state shared by a core, whose hood is
fenced. -/
def execUncorrectableError (c : Nat) (slot : Option Nat) (s : State) : Res :=
  .next (match slot with
    | some n => if (s.strand c n).live && !s.gone c n then s.endStrand c n true true else s
    | none => match s.hoodOf c with
      | some h => s.fence h.leader true
      | none => s)

/-- REFRESH (22 R374): a word of 32 bytes of DRAM is scrubbed: a correction is counted, an uncorrectable word marked. -/
def execRefresh (w : Nat) (correctable uncorrectable : Bool) (s : State) : Res :=
  let k := s.corrections
  let marks := (upFrom (4 * w) 4).filter fun x => !s.pois.contains x
  .next (
    if !isDram (32 * w) then s
    else if uncorrectable then { s with pois := s.pois ++ marks }
    else if correctable then { s with corrections := (k.1, k.2.1 + 1, k.2.2) }
    else s)

/-- A home writes a line back to its vault (22 R375, R377): words found uncorrectable charge the line's last writer, and
a 256-bit word is poisoned unless all of its 64-bit words are unmarked. -/
def State.writeBackHome (s : State) (line : Nat) (bad : List Nat) : State :=
  let bad := bad.filter fun i => i < 16
  let pois := (s.pois ++ bad.map fun i => 16 * line + i).eraseDups
  let hit (q : Nat) : Bool := (upFrom (16 * line + 4 * q) 4).any pois.contains
  let more := ((List.range 4).filter hit).flatMap fun q => upFrom (16 * line + 4 * q) 4
  if !isDram (128 * line) then s
  else
    let s := { s with pois := (pois ++ more).eraseDups }
    if bad = [] then s else s.tell (.ueWrite (s.writer.look line 0) (128 * line))

/-- A word is found uncorrectable where it is held (22 R371, R375, 21 R364): it is marked; one of the save store with its whole
256-bit word. -/
def State.spoil (s : State) : Spot → State
  | .home w =>
    if isDram (8 * w) then { s with pois := marked s.pois [w] }
    else if isSave (8 * w) then { s with pois := marked s.pois (upFrom (w / 4 * 4) 4) }
    else s
  | .scratch c w =>
    if decide (c < 512) && (s.core c).scratchBank (bankOf (8 * w)) && decide (w < 65536) then
      s.modCore c fun k => { k with spois := (k.spois ++ [w]).eraseDups }
    else s
  | .line c n w =>
    match (s.core c).lines[n]? with
    | some l =>
      if w < 16 then s.modCore c fun k => k.putLine { l with pois := l.pois ||| (1#16 <<< w), ue := l.ue ||| (1#16 <<< w) }
      else s
    | none => s
  | .buffer job k w =>
    s.modColl job k fun x => if 8 * w < x.count * 8 then { x with bufp := (x.bufp ++ [w]).eraseDups } else x
  | .wale sl slot =>
    let i := sl * 64 + slot
    if (s.wale i).st = .opened ∨ (s.wale i).st = .complete then
      { s with wales := s.wales.put i { s.wale i with pois := true } } else s

/-- A correctable error is corrected on its way to a reader (22 R372): in SRAM, DRAM or MRAM. -/
def State.correct (s : State) (which : Nat) : State :=
  let k := s.corrections
  { s with corrections := match which with
      | 0 => (k.1 + 1, k.2)
      | 1 => (k.1, k.2.1 + 1, k.2.2)
      | _ => (k.1, k.2.1, k.2.2.1 + 1, k.2.2.2) }

end Sys2Proof.Machine
end

