-- ==== Sys2Proof/Machine/Hash.lean ====
section
/-!
DEFINITION. SHA-256 (17 R305 to R307, 23 R396) and CRC-32C (23 R396), which the manual names without restating them (log
entry 16): FIPS 180-4, and the Castagnoli polynomial reflected, with initial value and final complement all ones.
-/

namespace Sys2Proof.Machine

/-! SHA-256. -/

/-- A 32-bit word. -/
abbrev W32 := BitVec 32

/-- The integer part of the `k`-th root of `n`, found from bit `i - 1` down, where `r` is what the higher bits make. -/
def rootFrom (k n : Nat) : Nat → Nat → Nat
  | 0, r => r
  | i + 1, r => rootFrom k n i (if (r + 2 ^ i) ^ k ≤ n then r + 2 ^ i else r)

/-- The first 32 bits of the fraction of the `k`-th root of a number below 2^9. -/
def rootBits (k p : Nat) : W32 := BitVec.ofNat 32 (rootFrom k (p * 2 ^ (32 * k)) 37 0)

/-- The first 64 primes, which end at 311: each is divided by no smaller number below 18. -/
def shaPrimes : List Nat := (upFrom 2 310).filter fun n => (upFrom 2 16).all fun d => n ≤ d || n % d ≠ 0

/-- The round constants: from the cube roots of the primes. -/
def shaK : List W32 := shaPrimes.map (rootBits 3)

/-- The initial hash value: from the square roots of the first eight primes. -/
def shaInit : List W32 := (shaPrimes.take 8).map (rootBits 2)

/-- The message with its padding. -/
def shaPad (bs : List Byte) : List Byte :=
  let n := bs.length
  bs ++ [0x80] ++ List.replicate ((119 - n % 64) % 64) 0 ++ (leBytes 8 (8 * n)).reverse

/-- The big-endian words of a block. -/
def beWords (bs : List Byte) : List W32 :=
  (chunks 4 16 bs).map fun b => BitVec.ofNat 32 (leNat b.reverse)

/-- The message schedule, latest word first, extended by `n` words. -/
def shaSchedule : Nat → List W32 → List W32
  | 0, w => w
  | n + 1, w =>
    let a := w.getD 14 0
    let b := w.getD 1 0
    let grow (x : W32) (i j k : Nat) : W32 := x.rotateRight i ^^^ x.rotateRight j ^^^ (x >>> k)
    shaSchedule n ((grow b 17 19 10 + w.getD 6 0 + grow a 7 18 3 + w.getD 15 0) :: w)

/-- The bits of three words combined by two lookups: where `x` has a 1 the bit of `y`, else that of `z`. -/
def shaPick (x y z : W32) : W32 := z ^^^ (x &&& (y ^^^ z))

/-- The exclusive or of three rotations of a word. -/
def shaMix (x : W32) (i j k : Nat) : W32 := [i, j, k].foldl (fun r n => r ^^^ x.rotateRight n) 0

/-- One round on the working variables a to h, which stand at places 0 to 7; the majority of three bits is the second where the
first two agree, else the third. -/
def shaRound (v : List W32) (kw : W32 × W32) : List W32 :=
  let at_ (i : Nat) : W32 := v.getD i 0
  let t := [at_ 7, shaMix (at_ 4) 6 11 25, shaPick (at_ 4) (at_ 5) (at_ 6), kw.1, kw.2].foldl (· + ·) 0
  let u := t + shaMix (at_ 0) 2 13 22 + shaPick (at_ 0 ^^^ at_ 1) (at_ 2) (at_ 1)
  u :: (v.take 3 ++ [at_ 3 + t] ++ (v.drop 4).take 3)

/-- One block taken into the hash value. -/
def shaBlock (h : List W32) (block : List Byte) : List W32 :=
  let w := (shaSchedule 48 (beWords block).reverse).reverse
  let v := (shaK.zip w).foldl shaRound h
  (h.zip v).map fun x => x.1 + x.2

/-- SHA-256. -/
def sha256 (bs : List Byte) : List Byte :=
  let p := shaPad bs
  let h := (chunks 64 (p.length / 64) p).foldl shaBlock shaInit
  h.flatMap fun x => (leBytes 4 x.toNat).reverse

/-! CRC-32C. -/

/-- One bit. -/
def crcBit (c : W32) : W32 := if c.getLsbD 0 then (c >>> 1) ^^^ 0x82F63B78 else c >>> 1

/-- One byte. -/
def crcByte (c : W32) (b : Byte) : W32 :=
  (List.range 8).foldl (fun c _ => crcBit c) (c ^^^ b.zeroExtend 32)

/-- CRC-32C. -/
def crc32c (bs : List Byte) : W32 := ~~~ (bs.foldl crcByte (BitVec.allOnes 32))

end Sys2Proof.Machine
end

