-- ==== Sys2Proof/Machine/Pages.lean ====
section
/-!
DEFINITION. Changes to pages and what waits for them: FLUSH (10 R197, 20 R351), XLINV (12 R262, 20 R349), ATTRSET (20
R347), SEAL (12 R263, 04 R83), and window grants (16 R292, R293).
-/

namespace Sys2Proof.Machine

/-! FLUSH. -/

/-- The cores that a scope covers, seen from a core (05 R92). -/
def scopeCores (sc : Scope) (c : Nat) : List Nat :=
  match sc with
  | .str | .cor => [c]
  | .clu => clusterCores (clusterOf c)
  | .twr => allCores.filter fun x => towerOf x = towerOf c
  | _ => allCores

/-- Every core of a scope drops the lines that pass a test. -/
def State.dropScope (s : State) (sc : Scope) (c : Nat) (p : Line → Bool) : State :=
  (scopeCores sc c).foldl (fun s c => s.dropLines c p) s

/-- The lines of one 64 KiB granule, in [lo, hi), are visited for the issuing strand: done, or the state with its
trap taken. -/
def State.flushGranule (s : State) (lo hi : Nat) (sc : Scope) : Except State State :=
  let c := s.cur.core
  if 2 ^ 48 ≤ lo then .error (s.trap Cause.badAddr (word lo))
  else match s.translate s.agent lo .load with
    | (s, .bad e) => .error (s.trap e (word lo))
    | (s, .invalid ..) => .error (s.trap Cause.xlFault (word lo))
    | (s, .ok pa ..) =>
      let job := s.me.job
      let s := s.dropScope sc c fun l => l.job = job && lo ≤ l.va && l.va < hi
      .ok (if 4 ≤ scopeCode sc then s.mergeRange pa (pa + (hi - lo)) else s)

/-- `n` granules are visited in ascending order. -/
def State.flushVirt (s : State) (lo hi : Nat) (sc : Scope) : Nat → State
  | 0 => s.advance
  | n + 1 =>
    let mid := min hi (lo / 0x10000 * 0x10000 + 0x10000)
    match s.flushGranule lo mid sc with
    | .error s => s
    | .ok s => State.flushVirt s mid hi sc n

/-- A physical range is visited. -/
def State.flushPhys (s : State) (lo hi : Nat) (sc : Scope) : State :=
  let s := s.dropScope sc s.cur.core fun l => lo ≤ l.pa && l.pa < hi
  (if 4 ≤ scopeCode sc then s.mergeRange lo hi else s).advance

/-- FLUSH_COMPLETE: the earlier stores of the strand are performed first. -/
def execFlushComplete (c n : Nat) (s : State) : Res :=
  .next (match (s.strand c n).st with
    | .waiting (.flush lo hi phys sc) =>
      if s.storesOut c n then s
      else s.asStrand c n fun s =>
        let s := s.modMe fun t => { t with st := .ready }
        if phys then s.flushPhys lo hi sc else s.flushVirt lo hi sc ((hi - 1) / 0x10000 - lo / 0x10000 + 1)
    | _ => s)

/-! XLINV. -/

/-- The span that XLINV names: the bytes [lo, hi) of the job's space. Bits 63:48 of the base do not count (log entry 126). -/
def xlSpan (b : Word) (code : Nat) : Nat × Nat :=
  let z := [0x10000, 0x200000, 0x20000000].getD code (2 ^ 48)
  let lo := if code = 3 then 0 else bits b 0 48 / z * z
  (lo, lo + z)

/-- Whether an address of a job lies in a span. -/
def inSpan (lo hi a : Nat) : Bool := lo ≤ a && a < hi

/-- The tags of translations of a job's addresses in a span: those cached, and those that accesses in flight and posted
stores carry, whose cached entry a slice may have forgotten (20 R349 item 4). -/
def State.spanTags (s : State) (job : BitVec 16) (lo hi : Nat) : List Nat :=
  let here (a : Word) : Bool := bits a 61 3 = 0 && inSpan lo hi (bits a 0 48)
  let flying (x : Nat × Access) : Option Nat := match x.2.stage with
    | .home _ _ tag => if x.2.job = job ∧ here x.2.addr ∧ tag ≠ physTag then some tag else none
    | _ => none
  let posted (e : Nat × JEnt) : List Nat :=
    if e.2.v ∧ e.2.job = job then (e.2.lanes.filter fun l => l.pa.isSome && here l.addr).map (·.tag) else []
  ((s.xlates.filter fun x => x.job = job && inSpan lo hi (x.gran * 0x10000)).map fun x => x.tag) ++
    s.accs.filterMap flying ++ s.cores.flatMap fun c => c.2.journal.flatMap posted

/-- Translations of a job in a span are dropped everywhere, with what was held through them (20 R349): accesses that
carry one are refused from now on, L1 lines are written back and dropped, privatised lines are merged. A page of the span that
has been reopened is open for peers too (16 R296). -/
def State.xlDrop (s : State) (job : BitVec 16) (lo hi : Nat) : State :=
  let fills (l : List (BitVec 16 × Nat)) : List (BitVec 16 × Nat) := l.filter fun f => !(f.1 = job && inSpan lo hi f.2)
  let s : State := { s with
    dropped := s.dropped ++ s.spanTags job lo hi, priv := [], scfill := s.scfill.map fun x => (x.1, fills x.2),
    xlates := s.xlates.filter fun x => !(x.job = job && inSpan lo hi (x.gran * 0x10000)),
    seals := s.seals.filter fun x => s.sealHolds x || !(x.job = job && inSpan lo hi x.va) }
  s.dropAllLines fun l => l.job = job && inSpan lo hi l.va

/-- Whether a sealed copy held by a peer, as device, job and granule, is one of a job's span. -/
def ofSpan (job : BitVec 16) (lo hi : Nat) (x : Nat × BitVec 16 × Nat) : Bool :=
  x.2.1 = job && inSpan lo hi (x.2.2 * 0x10000)

/-- Peers are told to drop the sealed copies that they hold of a span (16 R296). -/
def State.xlTell (s : State) (job : BitVec 16) (lo hi : Nat) : State :=
  let xs := s.sealedAt.filter (ofSpan job lo hi)
  xs.foldl (fun s x => s.send (.dropPage x.1 x.2.1 x.2.2))
    { s with sealedAt := s.sealedAt.filter fun x => !ofSpan job lo hi x, acks := s.acks ++ xs }

/-- An invalidation of a span: complete when every peer has acknowledged (20 R349 item 5), with the translations dropped;
else none, and the state in which peers have been told. -/
def State.xlTry (s : State) (job : BitVec 16) (lo hi : Nat) : State × Bool :=
  let s := s.xlTell job lo hi
  if s.acks.any (ofSpan job lo hi) then (s, false) else (s.xlDrop job lo hi, true)

/-- The `n`-th acknowledgement of a peer arrives. -/
def State.peerAck (s : State) (n : Nat) : State := s.heard fun s => { s with acks := s.acks.eraseIdx n }

/-- XLINV: PRIV, BADADDR, then a fence, then the wait for the completeness condition. -/
def execXlinv (b c : GReg) (s : State) : Res :=
  let v := s.rg c
  .next (
    if !s.me.sup then s.trapPc Cause.priv
    else if bits v 18 46 ≠ 0 then s.trap Cause.badAddr v
    else if s.fenceWait then s.block
    else
      let (lo, hi) := xlSpan (s.rg b) (bits v 16 2)
      (((s.fenced .sys).relDone.released .sys).acquired true .sys).await (.xlinv (BitVec.ofNat 16 (bits v 0 16)) lo hi))

/-- XLINV_COMPLETE. -/
def execXlinvComplete (c n : Nat) (s : State) : Res :=
  .next (match (s.strand c n).st with
    | .waiting (.xlinv job lo hi) =>
      let (s, ok) := s.xlTry job lo hi
      if ok then s.asStrand c n State.advance else s
    | _ => s)

/-! ATTRSET. -/

/-- The change point of a frame (20 R347): cached copies are written back and dropped, written-byte masks cleared when
the frame becomes or was WO, and the table holds the new type. -/
def State.attrChange (s : State) (job : BitVec 16) (fatbase : Word) (frame : Nat) (ty : PageTy) : State :=
  let lo := frame * 0x10000
  let old := s.frameTy fatbase lo
  let s := (s.mergeRange lo (lo + 0x10000)).dropAllLines fun l => l.frame = lo
  let s := if old ≠ ty ∧ (old = .wo ∨ ty = .wo) then s.woClear lo (lo + 0x10000) else s
  let s := { s with scfill := s.scfill.filter fun x => !inSpan lo (lo + 0x10000) (x.1 * 128),
                    seals := if old = ty then s.seals else s.seals.filter fun x => !(x.lo ≤ lo && lo < x.hi) }
  let a := bits fatbase 0 48 + 8 * (frame / 32)
  let w := s.homeRead a 8
  let at0 := 4 ^ (frame % 32)
  s.homeWrite job a (leBytes 8 (w - w / at0 % 4 * at0 + ty.code * at0))

/-- Whether a value names a DRAM frame in the form of 04 R412. -/
def isFrame (a : Word) : Bool := isPhysForm a && bits a 0 16 = 0 && isDram (bits a 0 48)

/-- ATTRSET. -/
def execAttrset (b c : GReg) (s : State) : Res :=
  let a := s.rg b
  .next (
    if !s.me.sup then s.trapPc Cause.priv
    else if !isFrame a ∨ bits (s.rg c) 2 62 ≠ 0 then s.trap Cause.badAddr a
    else s.await (.attrset s.mine.fatbase (bits a 0 48 / 0x10000) (pageTyOf (bits (s.rg c) 0 2))))

/-- ATTRSET_COMPLETE. -/
def execAttrsetComplete (c n : Nat) (s : State) : Res :=
  .next (match (s.strand c n).st with
    | .waiting (.attrset fat f ty) =>
      (s.attrChange (s.strand c n).job fat f ty).asStrand c n State.advance
    | _ => s)

/-! SEAL. -/

/-- The version after a seal (04 R83). -/
def nextVer (v : BitVec 16) : BitVec 16 := if v = BitVec.allOnes 16 then 1 else v + 1

/-- The leaf after a seal. -/
def sealedPte (e : Word) : Word :=
  word (bits e 0 48 + (if pteS e then 0 else 64) + 2 ^ 48 * (nextVer (pteVer e)).toNat)

/-- Whether a store to a physical range is on its way. -/
def State.storesTo (s : State) (lo hi : Nat) : Bool :=
  (s.cores.any fun x => x.2.journal.any fun y => y.2.v && y.2.lanes.any fun l =>
    l.pa.any fun pa => lo ≤ pa && pa < hi) ||
  (s.accs.any fun x => x.2.kind.isStore && match x.2.stage with
    | .home pa _ _ => lo ≤ pa && pa < hi
    | _ => false)

/-- A WO page is sealed (04 R83): copies discarded, S set, VER stepped, its bytes unwritten in the new version. No mapping
stores to it from now on. -/
def State.sealPage (s : State) (job : BitVec 16) (va pte lo hi : Nat) : State :=
  let e := word (s.homeRead pte 8)
  if pteS e then s
  else
    let e' := sealedPte e
    let s := (s.woClear lo hi).dropAllLines fun l => lo ≤ l.pa && l.pa < hi
    let f (x : Xlate) : Xlate := if x.pte = e then { x with pte := e' } else x
    let seals := (s.seals.filter fun x => x.pte ≠ pte) ++ [⟨lo, hi, pte, job, va⟩]
    ({ s with xlates := s.xlates.map f, seals := seals } : State).homeWrite job pte (leBytes 8 e'.toNat)

/-- SEAL (12 R263): ATTROP, PERM or the translation's own causes; nothing for a sealed page; else a release, then the
wait for every store to the page. -/
def execSealPage (b : GReg) (s : State) : Res :=
  let a := s.rg b
  .next (match space s.me.sup a with
    | .error e => s.trap e a
    | .ok (.virt va) =>
      match s.translate s.agent va .seal with
      | (s, .bad e) => s.trap e a
      | (s, .invalid e v0 park) => s.invalidAt e (v0 && park) a
      | (s, .ok _ ty shut ..) =>
        if ty ≠ .wo then s.trap Cause.attrOp a
        else if shut then s.advance
        else match s.walkJob s.mine.jtbase s.me.job va with
          | .error (p, e) => s.invalidAt p (!pteV e && s.xlPark s.mine.jtbase s.me.job) a
          | .ok (e, level, p) =>
            if s.fenceWait then s.block
            else ((s.fenced .sys).relDone.released .sys).await (.sealing a p (pteFrame e) (pteFrame e + pageSize level))
    | .ok _ => s.trap Cause.badAddr a)

/-- SEAL_COMPLETE: when every store to the page has been performed at its home. -/
def execSealComplete (c n : Nat) (s : State) : Res :=
  .next (match (s.strand c n).st with
    | .waiting (.sealing a p lo hi) =>
      if s.storesTo lo hi then s
      else (s.sealPage (s.strand c n).job (bits a 0 48) p lo hi).asStrand c n State.advance
    | _ => s)

/-- PEER_XLINV (16 R296): this part keeps no sealed copy of a peer's page (04 R78 allows none to be kept), and
acknowledges. -/
def execPeerXlinv (dev idx off : Nat) (s : State) : Res :=
  .next (s.heard fun s => s.send (.dropped dev idx off))

/-! Window grants. -/

/-- Whether a grant descriptor is as 16 R292 states. -/
def grantOk (ws : List Word) : Bool :=
  let b := bits (ws.getD 0 0) 0 48
  let n := bits (ws.getD 1 0) 0 40
  bits (ws.getD 0 0) 48 16 = 0 && bits (ws.getD 1 0) 40 24 = 0 && bits (ws.getD 2 0) 31 33 = 0 && ws.getD 3 0 = 0 &&
    n ≠ 0 && b % 0x10000 = 0 && n % 0x10000 = 0 && b + n ≤ 2 ^ 48

/-- The grant that a descriptor describes. -/
def grantOf (ws : List Word) : Grant :=
  let w := ws.getD 2 0
  { base := bits (ws.getD 0 0) 0 48, len := bits (ws.getD 1 0) 0 40, dev := bits w 0 12,
    gjob := BitVec.ofNat 16 (bits w 12 16), r := bit w 28, w := bit w 29, a := bit w 30, acked := false,
    revoked := false }

/-- A live grant of a job. -/
def State.grant? (s : State) (job : BitVec 16) (i : Nat) : Option Grant :=
  (s.job? job).bind fun j => (j.grants.find? (·.1 = i)).map (·.2)

/-- The lowest index that a job has free, 480 to 511 being those of collectives. -/
def State.freeIndex (s : State) (job : BitVec 16) : Option Nat := lowest 480 fun i => (s.grant? job i).isNone

/-- WINGRANT. -/
def execWingrant (a b : GReg) (l : La) (s : State) : Res :=
  let p := s.rg b
  .next (
    if p.toNat % 8 ≠ 0 then s.trap Cause.align p
    else match s.words p 4 with
      | .error s => s
      | .ok (s, ws) =>
        if !grantOk ws then s.trap Cause.badWin p
        else match s.freeIndex s.me.job with
          | none => s.writeLate a (BitVec.allOnes 64) l
          | some i =>
            let g := grantOf ws
            let s := s.modJob s.me.job fun j => { j with grants := j.grants.put i g }
            (s.send (.grant g.dev g.gjob i g.len g.r g.w g.a)).await (.wingrant i a l))

/-- WINGRANT_ACK: the grantee has recorded the grant; ga takes the index. -/
def execWingrantAck (job : BitVec 16) (i : Nat) (s : State) : Res :=
  .next (s.heard fun s => match s.grant? job i with
    | none => s
    | some g =>
      if g.acked then s
      else
        let s := s.modJob job fun j => { j with grants := j.grants.put i { g with acked := true } }
        let f (t : Strand) : Strand := match t.st with
          | .waiting (.wingrant i' d l) => if i' = i ∧ t.job = job then t.late d (word i) l (t.pc + 4) else t
          | _ => t
        let h (k : Core) : Core := { k with strands := k.strands.map fun x => (x.1, f x.2) }
        { s with cores := s.cores.map fun x => (x.1, h x.2) })

/-- WINREV: the ports mark the window revoked and the grantee is told; the strand waits. -/
def execWinrev (b : GReg) (s : State) : Res :=
  let v := s.rg b
  let i := bits v 0 12
  .next (
    if bits v 12 52 ≠ 0 then s.trap Cause.badAddr v
    else match s.grant? s.me.job i with
      | none => s.advance
      | some g =>
        let s := s.modJob s.me.job fun j => { j with grants := j.grants.put i { g with revoked := true } }
        (if g.revoked then s else s.send (.revoke g.dev g.gjob i)).await (.winrev i))

/-- WINREV_COMPLETE: accesses accepted before the mark are done and the grantee refuses; the index is free. -/
def execWinrevComplete (job : BitVec 16) (i : Nat) (s : State) : Res :=
  .next (s.heard fun s => match s.grant? job i with
    | some g =>
      if !g.revoked then s
      else
        let s := s.modJob job fun j => { j with grants := j.grants.del i }
        let f (t : Strand) : Strand :=
          if t.st = .waiting (.winrev i) ∧ t.job = job then t.retire (t.pc + 4) else t
        let h (k : Core) : Core := { k with strands := k.strands.map fun x => (x.1, f x.2) }
        { s with cores := s.cores.map fun x => (x.1, h x.2) }
    | none => s)

end Sys2Proof.Machine
end

