-- ==== Sys2Proof/Machine/HostCmd.lean ====
section
/-!
DEFINITION. The command front end (16 R287 to R291, R411; 22 R385, R386): arrival and order of commands, the batt log, what
each command does, replay.
-/

namespace Sys2Proof.Machine

/-! Statuses (16 R287). -/

namespace CmdStatus

def ok : Nat := 0
def badCmd : Nat := 1
def badArg : Nat := 2
def noSpace : Nat := 3
def logFull : Nat := 4
def seq : Nat := 5
def noJob : Nat := 6

end CmdStatus

/-- What an attempt at a command gives: the state after it, and its status and data; no status while it must wait. -/
abbrev CmdRes := State × Option (Nat × List Byte)

/-- A command that changes nothing and completes with BADARG. -/
def State.badArg (s : State) : CmdRes := (s, some (CmdStatus.badArg, []))

/-- A command that completes with OK and data. -/
def State.okData (s : State) (d : List Byte) : CmdRes := (s, some (CmdStatus.ok, d))

/-- A word as eight bytes. -/
def wordBytes (n : Nat) : List Byte := leBytes 8 n

/-- The words of a payload. -/
def payloadWords (p : List Byte) : List Word :=
  (chunks 8 (p.length / 8 + 1) p).map fun b => word (leNat b)

/-- Word `i` of a payload. -/
def pw (p : List Byte) (i : Nat) : Word := (payloadWords p).getD i 0

/-- A length rounded up to whole words. -/
def up8 (n : Nat) : Nat := ceilDiv n 8 * 8

/-- Who a command comes from: its job, the port, and whether the host that sent JOBNEW sent it (16 R289). -/
structure From where
  job   : BitVec 16
  port  : Fin 8
  owner : Bool

/-! Jobs (16 R288, R289). -/

/-- A job as JOBNEW makes it: phase 1 open with class 1 (22 R384), its first command to have SEQ 1 (log entry 129). -/
def Job.fresh (key creator : List Byte) (logbase : Nat) (loglen : Nat) (jt fat : Word) : Job :=
  { key := key, creator := creator, logbase := logbase, loglen := loglen, logstart := 0, jtbase := jt, fatbase := fat, log := [],
    pending := [], mapping := none, nextSeq := 1, dones := [], launches := [], graphs := [], phases := [(1, ⟨.start 1, false, true⟩)],
    phase := 1, boundary := 0, ctr := .start 1, grants := [], notices := [], hostwins := [], colls := [],
    nextStrid := 1, replaying := none, ending := false }

/-- Whether a JOBNEW payload is as 16 R411 states. -/
def jobnewOk (p : List Byte) : Bool :=
  let b := pw p 0
  let n := (pw p 1).toNat
  let klen := (pw p 4).toNat
  isPhysForm b && bits b 0 16 = 0 && n ≠ 0 && n % 0x10000 = 0 && bits b 0 48 + n ≤ 0x6000000000 &&
    isPhysForm (pw p 2) && isPhysForm (pw p 3) && klen < 2 ^ 16 && p.length = 40 + up8 klen &&
    (p.drop (40 + klen)).all fun x => x = 0

/-- JOBNEW (16 R288, R411; 23 R391). -/
def State.jobnew (s : State) (key : List Byte) (p : List Byte) : State × Nat × List Byte :=
  let n := (pw p 1).toNat
  let live := (s.jobs.map fun x => x.2.loglen).sum
  if !jobnewOk p then (s, CmdStatus.badArg, [])
  else if 24 * 2 ^ 20 < live + n then (s, CmdStatus.noSpace, [])
  else match (upFrom 1 65535).find? fun j => (s.job? (BitVec.ofNat 16 j)).isNone with
    | none => (s, CmdStatus.noSpace, [])
    | some j =>
      let x := Job.fresh ((p.drop 40).take (pw p 4).toNat) key (bits (pw p 0) 0 48) n (pw p 2) (pw p 3)
      ({ s with jobs := s.jobs.put j x }, CmdStatus.ok, wordBytes j)

/-- The block of a payload from word `i`: none where it is not as 16 R289 states for the job. -/
def State.blockOf (s : State) (job : BitVec 16) (p : List Byte) (i : Nat) : Option Block :=
  match s.job? job with
  | some j =>
    let b : Block := { tvec := pw p i, htbase := pw p (i + 1), jtbase := pw p (i + 2), fatbase := pw p (i + 3), sscr := pw p (i + 4) }
    if isPhysForm b.tvec ∧ b.jtbase = j.jtbase ∧ b.fatbase = j.fatbase ∧ pw p (i + 5) = 0 then some b else none
  | none => none

/-- HOODSET: the hood's cores start from reset with the block. -/
def State.hoodset (s : State) (f : From) (p : List Byte) : CmdRes :=
  let w := pw p 0
  let h := bits w 9 1 + 1
  let n := bits w 10 2 + 1
  let row := bits w 2 3
  let col := bits w 5 4
  if p.length ≠ 56 ∨ bits w 12 52 ≠ 0 ∨ row % 4 ≠ 0 ∨ col % 4 ≠ 0 ∨ 8 < row + 4 * h ∨ 16 < col + 4 * n then s.badArg
  else match s.blockOf f.job p 1 with
    | none => s.badArg
    | some b =>
      let x : Hood := { job := f.job, tower := bits w 0 2, row := row, col := col, h := h, w := n, st := .active,
                        block := b, ending := false }
      if x.cores.any fun c => (s.hoodOf c).isSome then (s, some (CmdStatus.noSpace, []))
      else
        let s := x.cores.foldl (fun s c => s.setCore c (Core.reset.writeBlock b)) s
        ({ s with hoods := s.hoods ++ [x] } : State).okData []

/-- CREGSET. -/
def State.cregset (s : State) (f : From) (p : List Byte) : CmdRes :=
  let l := (pw p 0).toNat
  if p.length ≠ 56 then s.badArg
  else match s.hoods.find? (fun h => h.job = f.job && h.leader = l), s.blockOf f.job p 1 with
    | some h, some b =>
      let s := h.cores.foldl (fun s c => s.modCore c fun k => k.writeBlock b) s
      (s.modHoods (fun x => x.leader = l) fun x => { x with block := b }).okData []
    | _, _ => s.badArg

/-! Tables (16 R411). -/

/-- The pairs of a MAP or ATTR payload. -/
def pairsOf (p : List Byte) : List (Word × Word) :=
  (List.range (pw p 0).toNat).map fun i => (pw p (1 + 2 * i), pw p (2 + 2 * i))

/-- Whether a payload holds a count of pairs and as many pairs. -/
def pairsOk (p : List Byte) : Bool :=
  let n := (pw p 0).toNat
  1 ≤ n && n ≤ 4096 && p.length = 8 + 16 * n

/-- The table of a level that a virtual address indexes, by a walk through pointers only. -/
def State.tableAt (s : State) (va level : Nat) : Nat → Nat → Option Nat
  | 0, _ => none
  | fuel + 1, table =>
    if fuel = level then some table
    else
      let e := word (s.homeRead (table + 8 * levelIndex va fuel) 8)
      if pteOk fuel e && !pteL e then State.tableAt s va level fuel (pteNext e) else none

/-- One pair of MAP: the entry written, and whether it had V (16 R411); none where no table is reached. -/
def State.mapEntry (s : State) (job : BitVec 16) (j : Job) (x : Word × Word) : Option (State × Bool) :=
  let va := bits x.1 0 48
  let lv := bits x.1 48 2
  if !s.jobEntryOk j.jtbase job then none
  else (s.tableAt va lv 4 (bits (s.jobEntry j.jtbase job 0) 0 48)).map fun t =>
    let a := t + 8 * levelIndex va lv
    (s.homeWrite job a (wordBytes x.2.toNat), pteV (word (s.homeRead a 8)))

/-- The XLINV of the span that a pair's entry mapped. -/
def State.mapInv (s : State) (job : BitVec 16) (x : Word × Word) : State × Bool :=
  let (lo, hi) := xlSpan (word (bits x.1 0 48)) (bits x.1 48 2)
  s.xlTry job lo hi

/-- Pairs of a MAP from number `n` on, in order until one fails: how many were written; none where an XLINV waits. -/
def State.mapFrom (s : State) (job : BitVec 16) (j : Job) (n : Nat) : List (Word × Word) → State × Option Nat
  | [] => (s, some n)
  | x :: xs =>
    match s.mapEntry job j x with
    | none => (s, some n)
    | some (s, false) => State.mapFrom s job j (n + 1) xs
    | some (s, true) =>
      let (s, ok) := s.mapInv job x
      if ok then State.mapFrom s job j (n + 1) xs
      else (s.modJob job fun j => { j with mapping := some n }, none)

/-- Pairs taken in order until one fails: the state and how many were done. -/
def takePairs (f : State → Word × Word → Option State) : State → Nat → List (Word × Word) → State × Nat
  | s, n, [] => (s, n)
  | s, n, x :: xs =>
    match f s x with
    | some s => takePairs f s (n + 1) xs
    | none => (s, n)

/-- What a command on `n` pairs completes with when `k` are done. -/
def pairsDone (s : State) (k n : Nat) : CmdRes := (s, some (if k = n then CmdStatus.ok else CmdStatus.badArg, wordBytes k))

/-- MAP: the next pair waits until the XLINV of the one before is complete. -/
def State.mapPairs (s : State) (f : From) (p : List Byte) : CmdRes :=
  let xs := pairsOf p
  let fin (r : State × Option Nat) : CmdRes := match r.2 with
    | some k => pairsDone r.1 k xs.length
    | none => (r.1, none)
  match s.job? f.job with
  | some j =>
    if !pairsOk p ∨ (xs.any fun x => bits x.1 50 14 ≠ 0) then s.badArg
    else match j.mapping with
      | none => fin (s.mapFrom f.job j 0 xs)
      | some n =>
        let (s, ok) := s.mapInv f.job (xs.getD n (0, 0))
        if ok then fin ((s.modJob f.job fun j => { j with mapping := none }).mapFrom f.job j (n + 1) (xs.drop (n + 1)))
        else (s, none)
  | none => s.badArg

/-- ATTR: only from the host that sent JOBNEW. -/
def State.attrPairs (s : State) (f : From) (p : List Byte) : CmdRes :=
  let xs := pairsOf p
  let one (fat : Word) (s : State) (x : Word × Word) : Option State :=
    if isFrame x.1 then some (s.attrChange f.job fat (bits x.1 0 48 / 0x10000) (pageTyOf (bits x.2 0 2))) else none
  match s.job? f.job with
  | some j =>
    if !f.owner ∨ !pairsOk p ∨ (xs.any fun x => bits x.2 2 62 ≠ 0) then s.badArg
    else
      let r := takePairs (one j.fatbase) s 0 xs
      pairsDone r.1 r.2 xs.length
  | none => s.badArg

/-! LOAD and READ (16 R411). -/

/-- A piece of a range within one 64 KiB granule: where it lies, how long it is, and whether its page is WO. -/
structure Piece where
  pa : Nat
  n  : Nat
  wo : Bool

/-- The pieces of a virtual range through the job's tables: none where a part does not translate. With `wr`, a page that
is sealed, through this mapping or another, or holds a byte already written refuses it. -/
def State.virtPieces (s : State) (job : BitVec 16) (j : Job) (wr : Bool) : Nat → Nat → Nat → Option (List Piece)
  | 0, _, n => if n = 0 then some [] else none
  | fuel + 1, va, n =>
    if n = 0 then some []
    else if 2 ^ 48 ≤ va ∨ !s.jobEntryOk j.jtbase job then none
    else match s.walkJob j.jtbase job va with
      | .error _ => none
      | .ok (e, level, _) =>
        let pa := leafPa e level va
        let m := min n (0x10000 - va % 0x10000)
        let wo := pteTy e = .wo
        let written := (upFrom (pa / 128) (m / 128 + 2)).any fun l =>
          let lo := max pa (l * 128)
          let hi := min (pa + m) (l * 128 + 128)
          decide (lo < hi) && s.woDup lo (hi - lo)
        if !s.framesMatch j.fatbase e level ∨ (wr ∧ wo ∧ (pteS e ∨ written ∨ (s.sealOf pa).isSome)) then none
        else (State.virtPieces s job j wr fuel (va + m) (n - m)).map fun ps => ⟨pa, m, wo⟩ :: ps

/-- The pieces of a range at an address word; a physical one only for the host that sent JOBNEW. -/
def State.pieces (s : State) (f : From) (j : Job) (a : Word) (n : Nat) (wr : Bool) : Option (List Piece) :=
  if bit a 63 then
    let pa := bits a 0 48
    if f.owner ∧ isPhysForm a ∧ (pa + n ≤ 0x6000000000 ∨ (0x8000000000 ≤ pa ∧ pa + n ≤ 0x8008000000))
      then some [⟨pa, n, false⟩] else none
  else if bits a 48 16 ≠ 0 then none
  else s.virtPieces f.job j wr (n / 0x10000 + 2) a.toNat n

/-- Bytes written at their homes line by line; bytes of WO pages are marked written. -/
def State.writeLines (s : State) (job : BitVec 16) (wo : Bool) : Nat → Nat → List Byte → State
  | 0, _, _ => s
  | fuel + 1, pa, bs =>
    if bs = [] then s
    else
      let n := 128 - pa % 128
      let b := bs.take n
      let s := if wo then s.woMark pa b.length else s
      State.writeLines (s.homeWrite job pa b) job wo fuel (pa + b.length) (bs.drop n)

/-- A piece is loaded: L1 and proxy copies of its lines go first, their dirty bytes to their homes. -/
def State.loadPiece (s : State) (job : BitVec 16) (x : Piece) (bs : List Byte) : State :=
  let s := (s.mergeRange x.pa (x.pa + x.n)).dropAllLines fun l => x.pa < l.pa + 128 && l.pa < x.pa + x.n
  s.writeLines job x.wo (x.n / 128 + 2) x.pa bs

/-- The pieces of a range are loaded. -/
def State.loadPieces (s : State) (job : BitVec 16) : List Piece → List Byte → State
  | [], _ => s
  | x :: xs, bs => State.loadPieces (s.loadPiece job x (bs.take x.n)) job xs (bs.drop x.n)

/-- The sections of an ovas image: address and bytes; none where the image is not as 16 R411 lays it out. -/
def imageSections : Nat → List Byte → Option (List (Word × List Byte) × List Byte)
  | 0, bs => some ([], bs)
  | n + 1, bs =>
    let len := (pw (bs.take 32) 1).toNat
    let va := pw (bs.take 32) 0
    let w2 := pw (bs.take 32) 2
    if bs.length < 32 + up8 len ∨ bits va 48 16 ≠ 0 ∨ bits w2 16 48 ≠ 0 ∨ bits w2 5 2 = 3 ∨ pw (bs.take 32) 3 ≠ 0 then none
    else match imageSections n (bs.drop (32 + up8 len)) with
      | some (ss, rest) => some ((va, (bs.drop 32).take len) :: ss, rest)
      | none => none

/-- The sections of an image, with its header and its must-save items checked. -/
def imageOf (bs : List Byte) : Option (List (Word × List Byte)) :=
  let h (i : Nat) : Word := pw (bs.take 64) i
  if bs.length < 64 ∨ bits (h 0) 0 32 ≠ 1 ∨ bits (h 0) 32 32 ≠ 0 ∨ bs.length < (h 1).toNat ∨ (upFrom 4 4).any (fun i => h i ≠ 0)
  then none
  else match imageSections (h 1).toNat (bs.drop 64) with
    | some (ss, rest) => if rest.length = 16 * (h 3).toNat then some ss else none
    | none => none

/-- Sections that are each wholly loadable: their pieces. -/
def State.plan (s : State) (f : From) (j : Job) : List (Word × List Byte) → Option (List (List Piece × List Byte))
  | [] => some []
  | x :: xs =>
    match s.pieces f j x.1 x.2.length true, State.plan s f j xs with
    | some ps, some r => some ((ps, x.2) :: r)
    | _, _ => none

/-- Whether no byte of a WO page is written by two pieces (16 R411). -/
def writesOnce (ps : List Piece) : Bool :=
  decide ((ps.filter fun x => x.wo).Pairwise fun x y => x.pa + x.n ≤ y.pa ∨ y.pa + y.n ≤ x.pa)

/-- LOAD: everything is translated before any byte is written. The data stands as it is long, or padded to whole words. -/
def State.loadBytes (s : State) (f : From) (p : List Byte) : CmdRes :=
  let form := pw p 1
  let n := (pw p 2).toNat
  let data := (p.drop 24).take n
  match s.job? f.job with
  | none => s.badArg
  | some j =>
    if p.length < 24 ∨ 1 < form.toNat ∨ (p.length ≠ 24 + n ∧ p.length ≠ 24 + up8 n) then s.badArg
    else
      let parts := if form = 0 then some [(pw p 0, data)] else if pw p 0 = 0 then imageOf data else none
      match parts.bind (s.plan f j) with
      | none => s.badArg
      | some xs =>
        if !writesOnce (xs.flatMap fun x => x.1) then s.badArg
        else (xs.foldl (fun s x => s.loadPieces f.job x.1 x.2) s).okData []

/-- READ: as the homes hold the bytes, dirty IP bytes and privatised lines come home first; a poisoned word fails it. -/
def State.readBytes (s : State) (f : From) (p : List Byte) : CmdRes :=
  let n := (pw p 1).toNat
  match s.job? f.job with
  | none => s.badArg
  | some j =>
    if p.length ≠ 16 ∨ n = 0 ∨ 2 ^ 24 - 16 < n then s.badArg
    else match s.pieces f j (pw p 0) n false with
      | none => s.badArg
      | some xs =>
        if xs.any fun x => s.poisoned x.pa x.n then s.badArg
        else
          let home (s : State) (x : Piece) : State :=
            (s.mergeRange x.pa (x.pa + x.n)).dropAllLines fun l =>
              l.dirty ≠ 0 && decide (x.pa < l.pa + 128) && decide (l.pa < x.pa + x.n)
          let s := xs.foldl home s
          s.okData (xs.flatMap fun x => s.homeBytes x.pa x.n)

/-! The other commands. -/

/-- LAUNCH: waits while no launch number is free. -/
def State.launchFor (s : State) (f : From) (p : List Byte) : CmdRes :=
  let d := payloadWords p
  if p.length ≠ 64 ∨ !launchOk d ∨ !s.inHoods f.job (bits (d.getD 0 0) 52 9) then s.badArg
  else match (s.job? f.job).bind Job.freeLid with
    | none => (s, none)
    | some lid => match s.makeLaunch f.job none lid d [] with
      | some s => s.okData (wordBytes lid)
      | none => (s, none)

/-- HWGRANT (16 R294). -/
def State.hwgrant (s : State) (f : From) (p : List Byte) : CmdRes :=
  let w := pw p 0
  let i := bits w 0 12
  let live := ((s.job? f.job).map fun j => j.hostwins.any fun x => x.1 = i).getD true
  if p.length ≠ 32 ∨ bits w 25 39 ≠ 0 ∨ bits (pw p 3) 40 24 ≠ 0 ∨ pw p 3 = 0 ∨ live then s.badArg
  else
    let x : HostWin := { key := pw p 1, base := pw p 2, len := (pw p 3).toNat, r := bit w 12, w := bit w 13, a := bit w 14,
                         mask := BitVec.ofNat 10 (bits w 15 10), port := f.port, revoked := false }
    (s.modJob f.job fun j => { j with hostwins := j.hostwins.put i x }).okData []

/-- Whether an access of a job to a host window is on its way. -/
def State.hostBusy (s : State) (job : BitVec 16) (i : Nat) : Bool :=
  let hits (a : Word) : Bool := match space true a with
    | .ok (.host k _) => k = i
    | _ => false
  (s.accs.any fun x => x.2.job = job && x.2.stage = .outside && hits x.2.addr) ||
    s.cores.any fun x => x.2.journal.any fun y => y.2.v && y.2.job = job && y.2.lanes.any fun l => hits l.addr

/-- HWREVOKE: the window is marked; its index is free once accepted accesses have completed (16 R293). -/
def State.hwrevoke (s : State) (f : From) (p : List Byte) : CmdRes :=
  let i := (pw p 0).toNat
  if p.length ≠ 8 ∨ bits (pw p 0) 12 52 ≠ 0 then s.badArg
  else match ((s.job? f.job).bind fun j => (j.hostwins.find? fun x => x.1 = i).map fun x => x.2) with
    | none => s.okData []
    | some w =>
      if s.hostBusy f.job i then
        (s.modJob f.job fun j => { j with hostwins := j.hostwins.put i { w with revoked := true } }, none)
      else (s.modJob f.job fun j => { j with hostwins := j.hostwins.del i }).okData []

/-- SEAL: waits for stores on their way to the page. -/
def State.sealFor (s : State) (f : From) (p : List Byte) : CmdRes :=
  let a := pw p 0
  match s.job? f.job with
  | none => s.badArg
  | some j =>
    if p.length ≠ 8 ∨ bits a 48 16 ≠ 0 ∨ !s.jobEntryOk j.jtbase f.job then s.badArg
    else match s.walkJob j.jtbase f.job a.toNat with
      | .error _ => s.badArg
      | .ok (e, level, pte) =>
        let lo := pteFrame e
        let hi := lo + pageSize level
        if !s.framesMatch j.fatbase e level ∨ pteTy e ≠ .wo ∨ !bit e 4 then s.badArg
        else if pteS e then s.okData []
        else if s.storesTo lo hi then (s, none)
        else (s.sealPage f.job a.toNat pte lo hi).okData []

/-- The restart summary (23 R398) for the items of one owner. -/
def Brim.summary (b : Brim) (owner : List Byte) : List Byte :=
  let seen (x : Saved) : Bool := match x.owner with
    | some o => o = owner
    | none => b.items.any fun y => y.job = x.job && y.owner = some owner
  let cnt (set : Bool) (cls : Nat) : Nat := (b.items.filter fun x => seen x && x.set = set && x.cls = cls).length
  let w0 := match b.dir with
    | some (g, c, d) => g.toNat + 2 ^ 16 * c.toNat + 2 ^ 18 * ofB d
    | none => 0
  let row (set : Bool) : Nat := cnt set 0 % 2 ^ 16 + 2 ^ 16 * (cnt set 1 % 2 ^ 16) + 2 ^ 32 * (cnt set 2 % 2 ^ 16)
  wordBytes w0 ++ wordBytes (row true) ++ wordBytes (row false) ++ List.replicate 40 0

/-- CNTREAD by its selector (16 R411). -/
def State.cntread (s : State) (f : From) (p : List Byte) : CmdRes :=
  let w := pw p 0
  let n := w.toNat
  if p.length ≠ 8 then s.badArg
  else if n = 0xFFFFFFFFFFFF0001 then
    s.okData (s.brim.summary ((sha256 (((s.job? f.job).map fun j => j.key).getD [])).take 16))
  else if n / 8 = 0xFFFFFFFFFFFE0000 / 8 then
    let q := s.port (n % 8)
    s.okData (wordBytes q.discards ++ wordBytes q.authFail ++ wordBytes q.retries ++ wordBytes 0)
  else if n / 0x10000 = 0xFFFFFFFFFFFD then
    let c := n % 0x10000 / 16
    if n % 16 < 12 ∧ s.inHoods f.job c then s.okData (wordBytes ((s.core c).sampled.getD (n % 16) 0)) else s.badArg
  else if n = 0xFFFFFFFFFFFC0000 then
    let k := s.corrections
    s.okData (wordBytes k.1 ++ wordBytes k.2.1 ++ wordBytes k.2.2.1 ++ wordBytes k.2.2.2)
  else match s.unit f.job w with
    | some (lv, m) => s.okData (wordBytes (s.counterWord f.job lv m).toNat)
    | none => s.badArg

/-- COLLSET (16 R297, R411; 21 R369). -/
def State.collset (s : State) (f : From) (p : List Byte) : CmdRes :=
  let w0 := pw p 0
  let w1 := pw p 1
  let nrank := bits w0 5 13
  let cnt := bits w1 5 21
  let devs := (payloadWords p).drop 4
  let ok := decide (p.length = 32 + 8 * nrank) && bits w0 30 34 = 0 && decide (1 ≤ nrank) && decide (nrank ≤ 4096) &&
    decide (bits w0 18 12 < nrank) && bits w1 26 38 = 0 && bits w1 0 2 ≠ 3 && decide (1 ≤ cnt) && decide (cnt ≤ 2 ^ 20) &&
    bits (pw p 2) 48 16 = 0 && bits (pw p 3) 14 50 = 0 && s.inHoods f.job (bits (pw p 3) 0 9) &&
    devs.all fun d => bits d 12 52 = 0
  if !ok then s.badArg
  else
    let c := bits w0 0 5
    let old := s.coll? f.job c
    let x : Coll := { rank := bits w0 18 12, devs := devs.map BitVec.toNat, op := bits w1 0 2, ty := bits w1 2 2,
                      arrival := bit w1 4, count := cnt, result := pw p 2, bcore := bits (pw p 3) 0 9,
                      bnum := Fin.ofNat 32 (bits (pw p 3) 9 5), gen := (old.map fun o => o.gen).getD 0, broken := false,
                      buf := [], gone := false, since := 0, bufp := [], parts := [] }
    (s.modJob f.job fun j => { j with colls := j.colls.put c x }).okData []

/-- Bytes in a field of `n`. -/
def fixed (n : Nat) (bs : List Byte) : List Byte := (bs ++ List.replicate n 0).take n

/-- The report of ATTEST (17 R307): of the running image, with the nonce as received, signed by the identity key. -/
def State.report (s : State) (nonce : List Byte) : List Byte :=
  let m := s.milliner
  let slot := if m.runB then m.slotB else m.slotA
  let head := leBytes 4 1 ++ leBytes 4 (ofB m.runB) ++ leBytes 8 ((slot.map fun x => x.version).getD 0) ++ nonce ++ m.mr0 ++
    m.mr1
  head ++ fixed 64 (Config.identitySign (sha256 head)) ++ Config.identityCert

/-- ATTEST. -/
def State.attest (s : State) (p : List Byte) : CmdRes := if p.length = 32 then s.okData (s.report p) else s.badArg

/-- JOBEND begins: the job is cancelled, its hoods are fenced to be freed (22 R379, R390). -/
def State.beginEnd (s : State) (job : BitVec 16) : State :=
  let hs := s.hoods.filter fun h => h.job = job
  let s := (s.cancelUnit job .job 0).modJob job fun j => { j with ending := true }
  let s := (hs.flatMap Hood.cores).foldl State.withdraw s
  let s := hs.foldl (fun s h => s.fence h.leader true) s
  s.modHoods (fun h => h.job = job) fun h => { h with ending := true }

/-- JOBEND is done once the hoods are freed: the job's tiles, windows, keys and number go (21 R364), and the commands that
wait behind it (log entry 128). -/
def State.finishEnd (s : State) (job : BitVec 16) : State :=
  let f (w : Wale) : Wale := if w.job = job ∧ w.st ≠ .free then { Wale.empty with gen := w.gen } else w
  { s with jobs := s.jobs.del job.toNat, wales := s.wales.map fun x => (x.1, f x.2) }

/-- JOBEND. -/
def State.jobend (s : State) (f : From) (p : List Byte) : CmdRes :=
  if p ≠ [] then s.badArg
  else
    let s := if (s.job? f.job).any fun j => j.ending then s else s.beginEnd f.job
    if s.hoods.any fun h => h.job = f.job then (s, none) else s.okData []

/-- A job whose JOBEND is complete, its record's status written, is gone. -/
def State.ifEnded (s : State) (job : BitVec 16) : State :=
  if ((s.job? job).any fun j => j.ending) && !(s.hoods.any fun h => h.job = job) then s.finishEnd job else s

/-! The batt log (16 R291). -/

/-- Whether a command of a code is logged. -/
def isLogged (code : BitVec 8) : Bool := code ≠ 0x01 && code ≠ 0x0C && code ≠ 0x0D

/-- The bytes in use in a job's batt log. -/
def Job.logUsed (j : Job) : Nat := logBytes j.log

/-- The bytes of a log record as the batt log holds it (16 R291). -/
def LogRec.bytes (r : LogRec) : List Byte :=
  let head := leBytes 8 (r.code.toNat + 2 ^ 16 * r.job.toNat + 2 ^ 32 * (r.seq % 2 ^ 32)) ++
    leBytes 8 (r.payload.length % 2 ^ 32 + 2 ^ 32 * r.status.toNat)
  head ++ r.payload ++ List.replicate (ceilDiv r.payload.length 16 * 16 - r.payload.length) 0

/-- Bytes written into a job's log area, `off` bytes from its first record's, wrapping at its end (log entry 75). -/
def State.logPut (s : State) (job : BitVec 16) (j : Job) (off : Nat) (bs : List Byte) : State :=
  let at0 := (j.logstart + off) % max 1 j.loglen
  let n := j.loglen - at0
  let put (s : State) (a : Nat) (b : List Byte) : State := s.writeLines job false (b.length / 128 + 2) a b
  put (put s (j.logbase + at0) (bs.take n)) j.logbase (bs.drop n)

/-- A record is appended to a job's log. -/
def State.logAppend (s : State) (job : BitVec 16) (r : LogRec) : State :=
  match s.job? job with
  | none => s
  | some j => (s.logPut job j j.logUsed r.bytes).modJob job fun j => { j with log := j.log ++ [r] }

/-- The completion status of a command is written into its record. -/
def State.logStatus (s : State) (job : BitVec 16) (seq status : Nat) : State :=
  match s.job? job with
  | none => s
  | some j =>
    if !j.log.any fun r => r.seq = seq then s
    else
      let at0 := logBytes (j.log.takeWhile fun r => r.seq ≠ seq)
      let f (r : LogRec) : LogRec := if r.seq = seq then { r with status := BitVec.ofNat 8 status } else r
      (s.logPut job j (at0 + 12) [BitVec.ofNat 8 status]).modJob job fun j => { j with log := j.log.map f }

/-! Executing a command. -/

/-- What a command does, by its code; LOGCTL apart. Every other code completes with BADCMD. -/
def State.runCode (s : State) (f : From) (code : BitVec 8) (p : List Byte) : CmdRes :=
  match code.toNat with
  | 0x02 => s.hoodset f p
  | 0x03 => s.mapPairs f p
  | 0x04 => s.attrPairs f p
  | 0x05 => s.loadBytes f p
  | 0x06 => s.readBytes f p
  | 0x07 => s.launchFor f p
  | 0x08 => s.hwgrant f p
  | 0x09 => s.hwrevoke f p
  | 0x0A => s.sealFor f p
  | 0x0B => s.cntread f p
  | 0x0D => s.attest p
  | 0x0E => s.collset f p
  | 0x0F => s.jobend f p
  | 0x10 => s.cregset f p
  | _ => (s, some (CmdStatus.badCmd, []))

/-- A completion leaves. -/
def State.complete (s : State) (port : Fin 8) (job : BitVec 16) (seq status : Nat) (d : List Byte) : State :=
  s.send (.completion port job seq (BitVec.ofNat 8 status) d)

/-- The next expected number after those completed already. -/
def skipDone (dones : List (Nat × BitVec 8 × List Byte)) : Nat → Nat → Nat
  | 0, n => n
  | fuel + 1, n => if dones.any fun x => x.1 = n then skipDone dones fuel (n + 1) else n

/-- A command of a job has been executed: its number is consumed and its completion recorded and sent. -/
def State.executed (s : State) (port : Fin 8) (job : BitVec 16) (seq status : Nat) (d : List Byte) : State :=
  let s := (s.logStatus job seq status).modJob job fun j =>
    let ds := j.dones ++ [(seq, BitVec.ofNat 8 status, d)]
    { j with
        dones := ds, nextSeq := skipDone ds ds.length (seq + 1), pending := j.pending.filter fun x => x.2.seq ≠ seq }
  (s.ifEnded job).complete port job seq status d

/-! Replay (22 R385, R386). -/

/-- One more command of a replay is executed again: the state, and whether it has completed. READ and CNTREAD send no
second completion. -/
def State.replayOne (s : State) (job : BitVec 16) (r : LogRec) : State × Bool :=
  match s.runCode ⟨job, r.port, r.owner⟩ r.code r.payload with
  | (s, none) => (s, false)
  | (s, some (st, d)) =>
    let s := s.logStatus job r.seq st
    ((if r.code = 0x06 ∨ r.code = 0x0B then s else s.complete r.port job r.seq st d).ifEnded job, true)

/-- Commands of a replay are executed again until one waits. -/
def State.replayRun (s : State) (job : BitVec 16) : Nat → State
  | 0 => s
  | fuel + 1 =>
    match (s.job? job).bind fun j => j.replaying with
    | some (true, r :: rest) =>
      (match s.replayOne job r with
        | (s, true) => State.replayRun (s.modJob job fun j => { j with replaying := some (true, rest) }) job fuel
        | (s, false) => s)
    | _ => s

/-- A replay goes on: it waits for the job's hoods, cancels the open phase, which one before it may have cancelled already,
and waits until no graph of it is left, then re-executes. The answer says whether it has ended. -/
def State.replayStep (s : State) (job : BitVec 16) : State × Bool :=
  match s.job? job with
  | none => (s, true)
  | some j =>
    if s.hoods.any fun h => h.job = job && h.st ≠ .active then (s, false)
    else
      let s := if j.replaying.isNone
        then ((s.cancelPhase job j.phase).cancelUnder job j.phase).modJob job fun j =>
          { j with replaying := some (false, j.log), mapping := none } else s
      let quiet := ((s.counter? job .phase j.phase).map fun c => decide (c.count ≤ 1)).getD true
      let s := if quiet then s.modJob job fun j =>
        { j with replaying := j.replaying.map fun x => (true, x.2) } else s
      let s := s.replayRun job (j.log.length + 1)
      match (s.job? job).bind fun j => j.replaying with
      | some (true, []) => (s.modJob job fun j => { j with replaying := none }, true)
      | _ => (s, false)

/-- LOGCTL: occupancy and boundary, or a replay. -/
def State.logctl (s : State) (f : From) (p : List Byte) : CmdRes :=
  let op := (pw p 0).toNat
  if p.length ≠ 8 ∨ 1 < op then s.badArg
  else match s.job? f.job with
    | none => s.badArg
    | some j =>
      if op = 0 then s.okData (wordBytes j.logUsed ++ wordBytes j.boundary)
      else
        let (s, ended) := s.replayStep f.job
        if ended then s.okData [] else (s, none)

/-! Order (16 R290). -/

/-- What one attempt at a job's next command comes to. -/
inductive Attempt
  | done (s : State)
  | stuck (s : State)

/-- The command whose turn it is is attempted: logged before it executes, where it is of those logged. -/
def State.attempt (s : State) (job : BitVec 16) (j : Job) (code : BitVec 8) (c : Cmd) : Attempt :=
  let f : From := ⟨job, c.port, c.key = j.creator⟩
  let here := j.log.any fun r => r.seq = c.seq
  if isLogged code && !here && decide (j.loglen < j.logUsed + logSize c.payload) then
    .stuck ((s.modJob job fun j => { j with pending := j.pending.filter fun x => x.2.seq ≠ c.seq }).complete c.port job c.seq
      CmdStatus.logFull [])
  else
    let r : LogRec := { code := code, job := job, seq := c.seq, payload := c.payload, status := 0xFF, phase := j.phase, port := c.port,
                        owner := f.owner }
    let s := if isLogged code && !here
      then s.logAppend job r else s
    match if code = 0x0C then s.logctl f c.payload else s.runCode f code c.payload with
    | (s, some (st, d)) => .done (s.executed c.port job c.seq st d)
    | (s, none) => .stuck s

/-- Commands held for a job are executed in order until one waits, or none is next. -/
def State.pump (s : State) (job : BitVec 16) : Nat → State
  | 0 => s
  | fuel + 1 =>
    match s.job? job with
    | none => s
    | some j =>
      match j.pending.find? fun x => x.2.seq = j.nextSeq with
      | none => s
      | some (code, c) =>
        match s.attempt job j code c with
        | .done s => State.pump s job fuel
        | .stuck s => s

/-- A job's front end goes on with what it holds. -/
def State.pumpJob (s : State) (job : BitVec 16) : State :=
  s.pump job (((s.job? job).map fun j => j.pending.length).getD 0 + 1)

/-- A second replay asked for during one is refused at once (22 R386). -/
def Job.refusesReplay (j : Job) (code : BitVec 8) (c : Cmd) : Bool :=
  code = 0x0C && j.pending.any fun x => x.1 = 0x0C && x.2.seq = j.nextSeq && x.2.seq ≠ c.seq && x.2.payload = wordBytes 1 &&
    c.payload = wordBytes 1

/-- A command arrives at the front end (16 R285, R287, R290; 23 R388). -/
def State.command (s : State) (code : BitVec 8) (c : Cmd) : State :=
  if s.brim.st ≠ .idle ∨ s.milliner.hot then s
  else if code = 0x01 then
    let (s, st, d) := s.jobnew c.key c.payload
    s.complete c.port (BitVec.ofNat 16 (leNat d)) c.seq st d
  else match s.job? c.job with
    | none => s.complete c.port c.job c.seq CmdStatus.noJob []
    | some j =>
      if c.key ≠ j.key ∧ c.key ≠ j.creator then
        s.modPort c.port.val fun q => { q with authFail := q.authFail + 1 }
      else match j.dones.find? fun x => x.1 = c.seq with
        | some (_, st, d) => s.complete c.port c.job c.seq st.toNat d
        | none =>
          if c.seq < j.nextSeq ∨ j.nextSeq + 64 < c.seq then s.complete c.port c.job c.seq CmdStatus.seq []
          else if j.refusesReplay code c then
            (s.modJob c.job fun j => { j with dones := j.dones ++ [(c.seq, BitVec.ofNat 8 CmdStatus.badArg, [])] }).complete
              c.port c.job c.seq CmdStatus.badArg []
          else
            let s := if j.pending.any fun x => x.2.seq = c.seq then s
              else s.modJob c.job fun j => { j with pending := j.pending ++ [(code, c)] }
            s.pumpJob c.job

/-! The steps. -/

/-- JOBNEW. -/
def execJobnew (c : Cmd) (s : State) : Res := .next (s.command 0x01 c)
/-- HOODSET. -/
def execHoodset (c : Cmd) (s : State) : Res := .next (s.command 0x02 c)
/-- MAP. -/
def execMapCmd (c : Cmd) (s : State) : Res := .next (s.command 0x03 c)
/-- ATTR. -/
def execAttrCmd (c : Cmd) (s : State) : Res := .next (s.command 0x04 c)
/-- LOAD. -/
def execLoadCmd (c : Cmd) (s : State) : Res := .next (s.command 0x05 c)
/-- READ. -/
def execReadCmd (c : Cmd) (s : State) : Res := .next (s.command 0x06 c)
/-- LAUNCH. -/
def execLaunchCmd (c : Cmd) (s : State) : Res := .next (s.command 0x07 c)
/-- HWGRANT. -/
def execHwgrant (c : Cmd) (s : State) : Res := .next (s.command 0x08 c)
/-- HWREVOKE. -/
def execHwrevoke (c : Cmd) (s : State) : Res := .next (s.command 0x09 c)
/-- SEAL. -/
def execSealCmd (c : Cmd) (s : State) : Res := .next (s.command 0x0A c)
/-- CNTREAD of a counter word. -/
def execCntreadCounter (c : Cmd) (s : State) : Res := .next (s.command 0x0B c)
/-- CNTREAD of the restart summary. -/
def execCntreadRestartSummary (c : Cmd) (s : State) : Res := .next (s.command 0x0B c)
/-- CNTREAD of a port. -/
def execCntreadPort (c : Cmd) (s : State) : Res := .next (s.command 0x0B c)
/-- CNTREAD of a core's counter. -/
def execCntreadCore (c : Cmd) (s : State) : Res := .next (s.command 0x0B c)
/-- CNTREAD of the corrections. -/
def execCntreadCorrections (c : Cmd) (s : State) : Res := .next (s.command 0x0B c)
/-- LOGCTL, query. -/
def execLogctlQuery (c : Cmd) (s : State) : Res := .next (s.command 0x0C c)
/-- LOGCTL, replay. -/
def execLogctlReplay (c : Cmd) (s : State) : Res := .next (s.command 0x0C c)
/-- ATTEST. -/
def execAttest (c : Cmd) (s : State) : Res := .next (s.command 0x0D c)
/-- COLLSET. -/
def execCollset (c : Cmd) (s : State) : Res := .next (s.command 0x0E c)
/-- JOBEND. -/
def execJobend (c : Cmd) (s : State) : Res := .next (s.command 0x0F c)
/-- CREGSET. -/
def execCregset (c : Cmd) (s : State) : Res := .next (s.command 0x10 c)
/-- Whether a code is one of the command set (16 R288). -/
def isCommand (code : BitVec 8) : Bool := decide (1 ≤ code.toNat) && decide (code.toNat ≤ 0x10)
/-- A command whose code no row of the set has: BADCMD. -/
def execBadcmd (code : BitVec 8) (c : Cmd) (s : State) : Res := .next (s.command (if isCommand code then 0 else code) c)

end Sys2Proof.Machine
end

