-- ==== Sys2Proof/Machine/Fabric.lean ====
section
/-!
DEFINITION. Ports, links and peers (16 R282 to R286, R292 to R296; 20 R352; 22 R373), and collectives (16 R297 to
R299; 21 R367 to R369).
-/

namespace Sys2Proof.Machine

/-! Grants to and from peers (16 R292, R293). -/

/-- A grant notice reaches the grantee: recorded and acknowledged. -/
def State.grantNoticed (s : State) (dev : Nat) (job : BitVec 16) (n : Notice) : State :=
  (s.modJob job fun j =>
    { j with notices := (j.notices.filter fun x => !(x.dev = dev && x.idx = n.idx)) ++ [n] }).send (.noted dev job n.idx)

/-- A revocation notice reaches the grantee, which refuses later accesses. -/
def State.revokeNoticed (s : State) (dev : Nat) (job : BitVec 16) (i : Nat) : State :=
  let f (x : Notice) : Notice := if x.dev = dev ∧ x.idx = i then { x with revoked := true } else x
  (s.modJob job fun j => { j with notices := j.notices.map f }).send (.noted dev job i)

/-- GRANT_NOTICE. -/
def execGrantNotice (dev : Nat) (job : BitVec 16) (idx len : Nat) (r w a : Bool) (s : State) : Res :=
  .next (s.heard (·.grantNoticed dev job ⟨dev, idx, len, r, w, a, false⟩))

/-- REVOCATION_NOTICE. -/
def execRevocationNotice (dev : Nat) (job : BitVec 16) (idx : Nat) (s : State) : Res :=
  .next (s.heard (·.revokeNoticed dev job idx))

/-! An access of a peer (16 R292, R293, R295, R296; 20 R352). -/

/-- Whether a peer's access is a load. -/
def peerLoads : PeerOp → Bool
  | .load _ => true
  | _ => false

/-- The bytes that a peer's access asks for. -/
def peerSize : PeerOp → Nat
  | .load n | .store n _ => n
  | .amo _ dw _ _ => if dw then 8 else 4

/-- Whether a window allows an access. -/
def Grant.allows (g : Grant) : PeerOp → Bool
  | .load _ => g.r
  | .store .. => g.w
  | .amo .. => g.a

/-- What an access wants of a page. -/
def needOf : PeerOp → Need
  | .load _ => Need.load
  | .store .. => Need.store
  | .amo .. => Need.amo

/-- The job, one of `own`, that granted window `idx` to a job of a device. -/
def State.grantor (s : State) (own : BitVec 16 → Bool) (dev : Nat) (job : BitVec 16) (idx : Nat) :
    Option (BitVec 16 × Job × Grant) :=
  firstSome (fun x => if !own (BitVec.ofNat 16 x.1) then none else
    (x.2.grants.find? fun g => g.1 = idx && g.2.dev = dev && g.2.gjob = job).map fun g =>
      (BitVec.ofNat 16 x.1, x.2, g.2)) s.jobs

/-- No core: the tower of an access from outside the part (a number beyond the towers). -/
def outsideCore : Nat := 512

/-- The party that an access of a peer is made as: outside, for a job, with its tables. -/
def State.outsider (s : State) (job : BitVec 16) : Agent :=
  ⟨outsideCore, job, false, match s.job? job with
    | some j => ⟨j.jtbase, j.fatbase⟩
    | none => ⟨0, 0⟩⟩

/-- A peer's access performed at its home. A page once sealed stays so for peers until the XLINV of its reopening (16 R296). -/
def State.peerAt (s : State) (job : BitVec 16) (pa : Nat) (ty : PageTy) (shut : Bool) (op : PeerOp) : Got Nat :=
  let ag := s.outsider job
  match op with
  | .load n =>
    let s := if ty = .rc then s.privAccess (towerOf outsideCore) pa n false else s
    if s.poisoned pa n then .bad s Cause.poison else .ok s (s.homeRead pa n)
  | .store n v =>
    let bs := leBytes n v
    if ty = .wo ∧ s.sealedFor pa then .bad s Cause.woSealed
    else if ty = .wo then
      (match s.writeWo ag pa shut bs with
        | .ok s _ => .ok s 0
        | .bad s c => .bad s c
        | .invalid s e p => .invalid s e p)
    else
      let s := if ty = .rc then s.privAccess (towerOf outsideCore) pa n true else s
      .ok (s.homeWrite job pa bs) 0
  | .amo fn dw b cmp =>
    let n := if dw then 8 else 4
    let x : Amo := ⟨fn, n, b.toNat % 2 ^ (8 * n), cmp.toNat % 2 ^ (8 * n)⟩
    match ty with
    | .wo | .ip => .bad s Cause.attrOp
    | .rc => (s.privAccess (towerOf outsideCore) pa n true).amoHome job pa x
    | .sc => s.amoHome job pa x

/-- A peer's access translated through the grantor job's tables, with the checks of a leaf. -/
def State.peerVirt (s : State) (dev : Nat) (job : BitVec 16) (j : Job) (va : Nat) (op : PeerOp) : Got Nat :=
  if !s.jobEntryOk j.jtbase job then .bad s Cause.xlFault
  else match s.walkJob j.jtbase job va with
    | .error _ => .bad s Cause.xlFault
    | .ok (e, level, a) =>
      match s.leafCheck j.fatbase outsideCore e level va (needOf op) a 0 with
      | .bad c => .bad s c
      | .invalid .. => .bad s Cause.xlFault
      | .ok pa ty shut _ _ _ =>
        let copy : Nat × BitVec 16 × Nat := (dev, job, va / 0x10000)
        let held := s.sealedAt.any fun x => x.2 = copy.2
        let keep := ty = .wo && (shut || s.sealedFor pa || held) && peerLoads op && !s.sealedAt.contains copy
        (if keep then { s with sealedAt := s.sealedAt ++ [copy] } else s).peerAt job pa ty (shut || held) op

/-- A peer's access through a window that a job of `own` has granted: refused, with REVOKED first of all (16 R293), or
performed; the answer leaves at once. -/
def State.peer (s : State) (own : BitVec 16 → Bool) (dev : Nat) (job : BitVec 16) (idx off : Nat) (op : PeerOp) : State :=
  let n := peerSize op
  let no (c : BitVec 8) : State := s.send (.answer dev (c.setWidth 6) 0)
  match s.grantor own dev job idx with
  | none => no Cause.winDeny
  | some (owner, j, g) =>
    if g.revoked then no Cause.revoked
    else if !([1, 2, 4, 8].contains n) ∨ off % n ≠ 0 then no Cause.align
    else if !g.allows op ∨ g.len < off + n then no Cause.winDeny
    else match s.peerVirt dev owner j (g.base + off) op with
      | .ok s v => s.send (.answer dev 0 (word v))
      | .bad s c => s.send (.answer dev (c.setWidth 6) 0)
      | .invalid s _ _ => s.send (.answer dev (Cause.xlFault.setWidth 6) 0)

/-- PEER_ACCESS. -/
def execPeerAccess (dev : Nat) (job : BitVec 16) (idx off : Nat) (op : PeerOp) (s : State) : Res :=
  .next (s.heard (·.peer (fun _ => true) dev job idx off op))

/-! Collectives: values (16 R297, R299). -/

/-- Bytes of an element as contributed. -/
def collIn (ty : Nat) : Nat := if ty = 1 then 8 else if ty = 3 then 2 else 4

/-- Bytes of an element of the result: BF16 results are F32. -/
def collOut (ty : Nat) : Nat := if ty = 1 then 8 else 4

/-- The elements of a contribution, BF16 widened to F32, a NaN to the canonical one (06 R112). -/
def collElems (ty count : Nat) (bs : List Byte) : List Nat :=
  (chunks (collIn ty) count bs).map fun b => if ty = 3 then f32Rne (fpIn .bf16 false (leNat b)) else leNat b

/-- Two elements combined. -/
def collCombine (op ty a b : Nat) : Nat :=
  if ty ≤ 1 then
    let w := 8 * collOut ty
    match op with
    | 0 => (a + b) % 2 ^ w
    | 1 => if sint a w < sint b w then b else a
    | _ => if sint b w < sint a w then b else a
  else
    let x := fpIn .f32 false a
    let y := fpIn .f32 false b
    match op with
    | 0 => f32Rne (Fp.add .rne x y)
    | 1 => f32Rne (x.greatest y)
    | _ => f32Rne (x.least y)

/-- Two contributions combined element by element. -/
def collAdd (op ty : Nat) (a b : List Nat) : List Nat := List.zipWith (collCombine op ty) a b

/-- One level of the fixed tree; an unpaired value passes up unchanged. -/
def collLevel (op ty : Nat) : List (List Nat) → List (List Nat)
  | a :: b :: xs => collAdd op ty a b :: collLevel op ty xs
  | xs => xs

/-- The fixed tree over ranks. -/
def collTree (op ty : Nat) : Nat → List (List Nat) → List Nat
  | 0, xs => xs.headD []
  | n + 1, xs => if xs.length ≤ 1 then xs.headD [] else collTree op ty n (collLevel op ty xs)

/-! Collectives: generations. -/

/-- The contributions of the open generation. -/
def Coll.now (x : Coll) : List (Nat × Option (List Nat)) :=
  (x.parts.filter fun p => p.1 = x.gen + 1).map fun p => p.2

/-- Whether one of the contributions of the open generation holds poison. -/
def Coll.poisoned (x : Coll) : Bool := x.now.any fun p => p.2.isNone

/-- A rank's elements. -/
def Coll.part (x : Coll) (r : Nat) : Option (List Nat) := (x.now.find? fun p => p.1 = r).bind fun p => p.2

/-- The result of the open generation where every contribution is there: by the tree over ranks, or, in arrival mode,
in the order they came to rank 0's unit; the other units of that mode take the result that rank 0 sends. -/
def Coll.total (x : Coll) : Option (List Nat) :=
  let n := x.devs.length
  if x.arrival ∧ x.rank ≠ 0 then x.part 0
  else if !((List.range n).all fun r => (x.part r).isSome) then none
  else if x.arrival then
    match x.now.filterMap fun p => p.2 with
    | a :: xs => some (xs.foldl (collAdd x.op x.ty) a)
    | [] => none
  else some (collTree x.op x.ty n ((List.range n).filterMap x.part))

/-- The result is written element by element; the first write that fails ends it. -/
def State.collResult (s : State) (ag : Agent) (a : Word) (w : Nat) : List Nat → State × Option (BitVec 8)
  | [] => (s, none)
  | v :: vs =>
    let step := if a.toNat % w = 0 then w else 1
    let put (r : State × Option (BitVec 8)) (b : Word × List Byte) : State × Option (BitVec 8) :=
      match r.2 with
      | some _ => r
      | none => match r.1.writeAt ag b.1 b.2 false with
        | .ok s _ => (s, none)
        | .bad s c => (s, some c)
        | .invalid s _ _ => (s, some Cause.xlFault)
    let parts := (chunks step (w / step) (leBytes w v)).zipIdx.map fun b => (a + word (step * b.2), b.1)
    match parts.foldl put (s, none) with
    | (s, none) => State.collResult s ag (a + word w) w vs
    | r => r

/-- The open generation completes where it can: RESULT is written, then one arrival goes to the barrier; a poisoned
contribution completes it in an error phase at every member (22 R376). -/
def State.collTry (s : State) (job : BitVec 16) (c : Nat) : State :=
  match s.coll? job c with
  | none => s
  | some x =>
    let tell (d : List Nat) (code : BitVec 8) (s : State) : State :=
      if x.arrival ∧ x.rank = 0 then s.send (.result job c (x.gen + 1) d code) else s
    if !x.gone then s
    else if x.poisoned then tell [] (FaultCode.operand Cause.poison) (s.failGen job c (FaultCode.operand Cause.poison))
    else match x.total with
      | none => s
      | some d =>
        let (s, r) := (tell d 0 s).collResult (s.party x.bcore job false) x.result (collOut x.ty) d
        match r with
        | some e => s.failGen job c (FaultCode.operand e)
        | none =>
          let next := x.parts.filter fun p => x.gen + 1 < p.1
          (s.modColl job c fun x => { x with gen := x.gen + 1, gone := false, parts := next }).packet job x.bcore x.bcore
            (.arrive x.bnum)

/-- A contribution reaches the unit: one of a completed generation, or to a broken collective, is dropped. -/
def State.contribute (s : State) (job : BitVec 16) (c rank gen : Nat) (d : Option (List Nat)) : State :=
  match s.coll? job c with
  | none => s
  | some x =>
    if x.broken ∨ gen ≤ x.gen ∨ x.devs.length ≤ rank ∨ (x.parts.any fun p => p.1 = gen && p.2.1 = rank) then s
    else (s.modColl job c fun x => { x with parts := x.parts ++ [(gen, rank, d)] }).collTry job c

/-- Whether the vector in the unit's buffer touches a poisoned word (22 R376). -/
def Coll.spoilt (x : Coll) : Bool := x.bufp.any fun w => 8 * w < x.count * collIn x.ty

/-- The go word of the open generation is accepted: the buffer is read and contributed; a poisoned word in it makes the
contribution one that stands for poison. -/
def State.collGo (s : State) (job : BitVec 16) (c : Nat) (x : Coll) : State :=
  if x.broken then s.failGen job c FaultCode.memberLost
  else
    let d := if x.spoilt then none else some (collElems x.ty x.count (x.buf.bytes 0 (x.count * collIn x.ty)))
    let now := (s.island (20 + c % 2)).cycle.toNat
    let s := (s.modColl job c fun x => { x with gone := true, since := now }).send
      (.contribution job c x.rank (x.gen + 1) (d.getD []))
    s.contribute job c x.rank (x.gen + 1) d

/-- The posted store that holds a go word of a collective with a generation: its core and journal entry. -/
def State.goEntry (s : State) (job : BitVec 16) (c : Nat) (gen : Word) : Option (Nat × Nat) :=
  firstSome (fun x => ((x.2.journal.find? fun y => y.2.v && y.2.job = job &&
      !s.earlierTo x.1 y.2.slot y.2.seq (y.2.lanes.map Lane.target) &&
      y.2.lanes.any fun l => l.v = gen.toNat && s.goOf l = some c).map fun y =>
    (x.1, y.1))) s.cores

/-- A go word of a collective reaches the unit: the next generation is contributed; any other, and a second go word of the open
one, is refused with GENREF; without a definition, with WINDENY. -/
def State.goLane (s : State) (job : BitVec 16) (c gen : Nat) : Fate :=
  match s.coll? job c with
  | none => .refused Cause.winDeny
  | some x => if gen ≠ x.gen + 1 ∨ x.gone then .refused Cause.genRef else .done (s.collGo job c x)

/-- GO_WORD: the posted store that holds it is answered, with every other part of it (11 R234). -/
def execGoWord (job : BitVec 16) (c : Fin 32) (gen : Word) (s : State) : Res :=
  .next (match s.goEntry job c.val gen with
    | none => s
    | some (k, j) =>
      let e := (s.core k).jent j
      s.answer k j fun s l => match s.goOf l with
        | some c => s.goLane job c l.v
        | none => s.perform k e l)

/-- The elements that a packet of a contribution or a result carries; none where it stands for poison. -/
def Coll.packetElems (x : Coll) (bs : List Byte) : Option (List Nat) :=
  if bs = [] then none
  else some ((chunks (collOut x.ty) x.count bs).map leNat)

/-- A packet with another rank's contribution, or in arrival mode rank 0's result, reaches the unit. -/
def State.contributed (s : State) (job : BitVec 16) (c rank gen : Nat) (d : List Byte) : State :=
  match s.coll? job c with
  | some x => if rank = x.rank then s else s.contribute job c rank gen (x.packetElems d)
  | none => s

/-- COLLECTIVE_CONTRIBUTION. -/
def execCollectiveContribution (job : BitVec 16) (c : Fin 32) (rank gen : Nat) (data : List Byte) (s : State) : Res :=
  .next (s.heard (·.contributed job c.val rank gen data))

/-- LOSS_NOTICE. -/
def execLossNotice (job : BitVec 16) (c : Fin 32) (_rank : Nat) (s : State) : Res :=
  .next (s.heard (·.breakColl job c.val))

/-- Whether 2^24 cycles of the unit's island have passed since the go word of the open generation came (21 R367). -/
def State.collLate (s : State) (c : Nat) (x : Coll) : Bool :=
  x.gone && decide (2 ^ 24 ≤ ((s.island (20 + c % 2)).cycle - word x.since).toNat)

/-- COLLECTIVE_TIMEOUT: contributions are missing 2^24 cycles after the go word: a member counts as lost. -/
def execCollectiveTimeout (job : BitVec 16) (c : Fin 32) (s : State) : Res :=
  .next (match s.coll? job c.val with
    | some x => if s.collLate c.val x then s.breakColl job c.val else s
    | none => s)

/-! Joining and leaving the domain. -/

/-- The part joins the domain under a number that supervisor software gives it (16 R295). -/
def State.join (s : State) (dev : Nat) : State := { s with device := dev }

/-- The part leaves the domain: it is lost as a member of every collective (21 R367). -/
def State.leave (s : State) : State :=
  let all := s.jobs.flatMap fun x => x.2.colls.map fun y => (BitVec.ofNat 16 x.1, y.1)
  all.foldl (fun s x => s.loseMember x.1 x.2) s

/-! Ports and links. -/

/-- What a packet authenticated with the keys of job `own` brings. -/
def State.delivered (s : State) (own : BitVec 16) : Inbound → State
  | .cmd code c => s.command code c
  | .peer dev job idx off op => s.peer (· = own) dev job idx off op
  | .grantNotice dev job idx len r w a => s.grantNoticed dev job ⟨dev, idx, len, r, w, a, false⟩
  | .revokeNotice dev job idx => s.revokeNoticed dev job idx
  | .contribution job c rank gen d => s.contributed job c.val rank gen d
  | .loss job c _ => s.breakColl job c.val

/-- The job of this part that the body of a packet acts on, where it names it. -/
def inboundJob : Inbound → Option (BitVec 16)
  | .cmd .. | .peer .. => none
  | .grantNotice _ job .. | .revokeNotice _ job _ | .contribution job .. | .loss job .. => some job

/-- Whether a packet of a security association authenticates: a command, against the keys that the front end knows
(16 R288, R289); any other, against the keys of the job that its association names, which is the job it acts on. -/
def State.authentic (s : State) (job : BitVec 16) (key : List Byte) : Inbound → Bool
  | .cmd _ c => c.key = key
  | b => ((s.job? job).any fun j => j.key = key) && (inboundJob b).all fun j => j = job

/-- PACKET_RECEIVE (16 R282, R285): one that uses an option the part lacks is discarded and counted, one that does not
authenticate likewise; nothing of either is delivered. -/
def execPacketReceive (port : Fin 8) (supported : Bool) (job : BitVec 16) (key : List Byte) (body : Inbound) (s : State) : Res :=
  .next (s.heard fun s =>
    if !supported then s.modPort port.val fun q => { q with discards := q.discards + 1 }
    else if !s.authentic job key body then s.modPort port.val fun q => { q with authFail := q.authFail + 1 }
    else s.delivered job body)

/-- LINK_RETRY (22 R373): a flit is sent again and counted; on an Ethernet link the port counts it. -/
def execLinkRetry (port : Option (Fin 8)) (s : State) : Res :=
  .next (match port with
    | some p => s.modPort p.val fun q => { q with retries := q.retries + 1 }
    | none =>
      let k := s.corrections
      { s with corrections := (k.1, k.2.1, k.2.2.1, k.2.2.2 + 1) })

end Sys2Proof.Machine
end

