-- ==== Sys2Proof/Machine/Preempt.lean ====
section
/-!
DEFINITION. Pre-emption of a core (18 R319 to R324): its start, the stream of its context, its end at the destination,
and the forwarding of what is addressed to a vacated core.
-/

namespace Sys2Proof.Machine

/-! Start (18 R319, R320 steps 1 and 2). -/

/-- Whether a core is vacant. -/
def Core.vacant (k : Core) : Bool :=
  (allSlots.all fun n => !(k.strand n).live) && k.deque = [] && k.dspill = [] && k.box false = [] && k.box true = [] &&
    k.boxSpill false = [] && k.boxSpill true = [] && k.sq false = [] && k.sq true = [] && !k.matrix.busy &&
    k.matrix.queued.isNone && k.copies = [] && k.fwd.isNone

/-- Whether a strand has still to take a trap raised before the stop (18 R324): it waits for its accesses or its replay. The
boundary at which it stops comes after. -/
def State.owesTrap (s : State) (c n : Nat) : Bool :=
  let t := s.strand c n
  t.traps ≠ [] && !t.intrap && (t.accOut || s.replays c n)

/-- The traps raised before the stop are taken at the source (18 R324). -/
def State.takeOwed (s : State) (c : Nat) : State := allSlots.foldl (fun s n => s.takeAsync c n) s

/-- Whether a pre-emption may start. -/
def State.mayPreempt (s : State) (src dst : Nat) : Bool :=
  src ≠ dst && decide (src < 512) && decide (dst < 512) && s.brim.st = .idle && (s.hoodOf src).isSome && (s.core src).fwd.isNone &&
    !(allSlots.any (s.owesTrap src)) && s.inHoods (s.coreJob src) dst && (s.core dst).vacant && !s.shut src && !s.shut dst &&
    !s.preempts.any fun p => p.src = src || p.dst = src || p.src = dst || p.dst = dst

/-- Every strand stops: windows are written, a lead stream's followers detach; one whose RPT replays stops at the end of
the replay (08 R158). -/
def State.stopIssue (s : State) (c : Nat) : State :=
  allSlots.foldl (fun s n =>
    let t := s.strand c n
    if t.live ∧ !s.replays c n then (s.unlead c n t.pc).modStrand c n Strand.closeWindows else s) s

/-- An operation that can no longer be abandoned, or has faulted, ends as it would (07 R136, 12 R244). -/
def Tile.settled (t : Tile) : Bool := t.final || t.fault.isSome

/-- What is in progress on the matrix unit is abandoned, once all that handlers of it have issued is performed; it is kept
for the destination, which the answer says may execute it again (18 R322). -/
def State.abandonUnit (s : State) (c : Nat) : State × Bool :=
  let k := s.core c
  let s := s.failLoad c FaultCode.preempted
  match k.matrix.tile with
  | none => (s, true)
  | some t =>
    if t.settled ∨ k.matrix.load.isSome ∨ (t.ran.map rowSlot).any (s.stillActs c) then (s, true)
    else
      let s := s.modMatrix c fun m => { m with tile := none, again := some t, bufs := [], held := none }
      (s.endHandlers c (k.handlers t), !t.aq && !(t.drain && k.rowsOut))

/-- The abandonment of a pre-emption's step 2, as far as it can be done now. -/
def State.abandonStep (s : State) (p : Preempt) : State :=
  if (s.core p.src).matrix.tile.isNone ∧ (s.core p.src).matrix.load.isNone then s
  else
    let (s, redo) := s.abandonUnit p.src
    let f (x : Preempt) : Preempt := if x.src = p.src then { x with redo := x.redo && redo } else x
    { s with preempts := s.preempts.map f }

/-- PREEMPTION_START. -/
def execPreemptionStart (src dst : Nat) (s : State) : Res :=
  .next (
    if !s.mayPreempt src dst then s
    else
      let p : Preempt := ⟨src, dst, 3, true⟩
      let s := s.takeOwed src
      ({ s with preempts := s.preempts ++ [p] } : State).stopIssue src |>.abandonStep p)

/-! Drain and stream (steps 3 and 4). -/

/-- Whether a core has drained: its copies complete or faulted, its stores acknowledged, the results of its strands
returned, its migrations answered, its matrix unit idle. -/
def State.drained (s : State) (c : Nat) : Bool :=
  let k := s.core c
  !(allSlots.any (s.replays c)) && (k.copies.all fun x => x.fault.isSome || x.complete) && k.usc = 0 &&
    k.matrix.tile.isNone && k.matrix.load.isNone && (allSlots.all fun n => (k.strand n).outs = []) && !s.moves.any fun m => m.src = c

/-- PREEMPTION_STREAM: from here on what is addressed to the source is held at its router. -/
def execPreemptionStream (src : Nat) (s : State) : Res :=
  .next (match s.preempts.find? fun p => p.src = src with
    | none => s
    | some p =>
      if p.step ≠ 3 then s
      else
        let s := (s.stopIssue src).abandonStep p
        if !s.drained src then s
        else
          let f (x : Preempt) : Preempt := if x.src = src then { x with step := 4 } else x
          { s with preempts := s.preempts.map f })

/-! The destination (step 5, 18 R321, R322). -/

/-- The core that holds the context: what belongs to the place, its stealing and its sampled counters, stays its own. -/
def Core.moved (k old : Core) : Core :=
  { k with lines := [], thief := old.thief, asked := old.asked, fwd := none, recent := old.recent, issued := old.issued,
           idle := old.idle, refusals := old.refusals, window := old.window, due := old.due, sampled := old.sampled }

/-- What is on its way for strands of the source, and what they wait on, belongs to the destination. -/
def State.rename (s : State) (src dst : Nat) : State :=
  let c (x : Nat) : Nat := if x = src then dst else x
  let acc (a : Access) : Access := { a with core := c a.core }
  let req (r : WaleReq) : WaleReq := { r with core := c r.core }
  { s with accs := s.accs.map fun x => (x.1, acc x.2), wreqs := s.wreqs.map fun x => (x.1, req x.2),
           waits := s.waits.map fun w => (w.1, w.2.1, c w.2.2.1, w.2.2.2) }

/-- A tile operation as it was sampled. -/
def Tile.afresh (t : Tile) : Tile := { t with next := 0, passed := 0, sums := [], fmtf := false, ran := [] }

/-- The abandoned operation is executed again, or completes in an error phase; a record that has waited at the unit
begins. -/
def State.reexecute (s : State) (c : Nat) (redo : Bool) : State :=
  match (s.core c).matrix.again with
  | none => s.loadEnds c
  | some t =>
    let s := s.modMatrix c fun m => { m with again := none }
    if redo then s.modCore c fun k => { k.zeroRows with matrix := { k.matrix with tile := some t.afresh, rows := 0 } }
    else ((s.modMatrix c (·.ended t FaultCode.preempted)).tileEnds c t FaultCode.preempted).loadEnds c

/-- PREEMPTION_RESUME: the destination accepts the context; the source keeps its forwarding entry and runs nothing. -/
def execPreemptionResume (src : Nat) (s : State) : Res :=
  .next (match s.preempts.find? fun p => p.src = src with
    | none => s
    | some p =>
      if p.step ≠ 4 then s
      else
        let s := ((s.dropLines src fun _ => true).dropLines p.dst fun _ => true).withdraw p.dst
        let k := s.core src
        let s := s.setCore p.dst (k.moved (s.core p.dst))
        let s := s.setCore src { Core.reset with fwd := some p.dst, asked := k.asked }
        let s := { s with preempts := s.preempts.filter fun x => x.src ≠ src }
        ((s.rename src p.dst).reexecute p.dst p.redo).releaseHold p.dst)

/-! Forwarding (18 R323). -/

/-- FORWARD: a record or a packet addressed to a vacated core goes on to the core that holds its context, unless the hood of the
vacated core refuses it (22 R381). A packet follows the earlier ones of its source; a record's header keeps the number that it
was sent to, by which its sender's records are ordered. -/
def execForward (id : Nat) (s : State) : Res :=
  let mail (m : Mail) : Mail := if m.id = id && !s.shut m.dst then { m with dst := s.reach m.dst } else m
  let first (p : Packet) : Bool := !(s.packets.any fun q => q.id < p.id && q.src = p.src && q.dst = p.dst)
  let pack (p : Packet) : Packet := if p.id = id && !s.shut p.dst && first p then { p with dst := s.reach p.dst } else p
  .next { s with mails := s.mails.map mail, packets := s.packets.map pack }

end Sys2Proof.Machine
end

