-- ==== Sys2Proof/Machine/Brim.lean ====
section
/-!
DEFINITION. The brim sequence (23 R387 to R400): detection, the end of Phase A, and the save engine.
-/

namespace Sys2Proof.Machine

/-! Detection (23 R388, R392). -/

/-- The generation after one (23 R395). -/
def nextGen (g : BitVec 16) : BitVec 16 := if g = BitVec.allOnes 16 then 1 else g + 1

/-- The entries that the Milliner's event log holds (17 R304): 4 MiB of 32 bytes each. -/
def logEntries : Nat := 131072

/-- An event is logged; the oldest entry of a full log goes. -/
def Milliner.note (m : Milliner) (code island : Nat) (data : List Byte) : Milliner :=
  let l := m.log ++ [⟨m.time, code, island, (data ++ List.replicate 16 0).take 16⟩]
  { m with log := l.drop (l.length - logEntries) }

/-- ISLAND where no island applies. -/
def noIsland : Nat := 0xFF

/-- The slot of a core's declaring strand, where it still exists on that core. -/
def State.declarerOf (s : State) (c : Nat) : Option Nat :=
  match (s.core c).declarer with
  | none => none
  | some id => allSlots.find? fun n =>
      let t := s.strand c n
      t.live && t.strid = id && t.job = s.coreJob c && t.st ≠ .stopped && !s.gone c n

/-- PFAIL is raised for the declaring strand of a core. -/
def State.raisePFail (s : State) (c : Nat) : State :=
  match s.declarerOf c with
  | some n => s.raise c n ⟨Cause.pFail, 0, none, 0, none⟩
  | none => s

/-- The engines of a core stop: a load is refused and a tile operation completes in an error phase, unless it is
complete or has faulted already (23 R392). -/
def State.stopUnit (s : State) (c : Nat) : State :=
  let s := ((s.failLoad c FaultCode.preempted).abandonTile c FaultCode.preempted)
  match (s.core c).matrix.tile with
  | none => s
  | some t => (s.endHandlers c (s.ending c t)).faultEnds c

/-- Commands held and not yet executed are discarded, replays are not resumed. -/
def Job.powerFail (j : Job) : Job := { j with pending := [], replaying := none }

/-- Detection: clocks at 600 MHz, ports and front ends stopped, pre-emptions abandoned, engines stopped, PFAIL raised. -/
def State.detect (s : State) (thermal : Bool) : State :=
  if s.brim.st ≠ .idle then s
  else
    let slow (i : Nat) : Nat × Island := (i, { s.island i with set := 600, mhz := 600, droop := false })
    let g := nextGen s.brim.gen
    let jobs := s.jobs.map fun x => (x.1, x.2.powerFail)
    let s : State := { s with
                      islands := (List.range 24).map slow, jobs := jobs,
                      brim := { s.brim with st := .phaseA, thermal := thermal },
                      milliner := s.milliner.note 4 noIsland (leBytes 2 g.toNat) }
    let s := s.preempts.foldl State.abandonPreempt s
    let cs := s.cores.map fun x => x.1
    cs.foldl State.raisePFail (cs.foldl State.stopUnit s)

/-- A thermal trip is recorded, and holds every island in reset (17 R302). -/
def State.trip (s : State) (island : Nat) (data : List Byte) : State :=
  if s.milliner.hot then s
  else { s with milliner := { s.milliner.note 3 island data with hot := true } }

/-- SUPPLY_LOSS: of the supply, or of a trip that names no island. -/
def execSupplyLoss (thermal : Bool) (s : State) : Res :=
  .next ((if thermal then s.trip noIsland [] else s).detect thermal)

/-! Who runs on (23 R392 to R394). -/

/-- Whether a strand's power and place let it issue: after detection only one in a trap handler and a core's declarer, until
Phase A ends; on a core that is pre-empted only one whose RPT replays (08 R158); none on a core that was vacated, and no
handler of an operation that is being abandoned. -/
def State.mayRun (s : State) (c n : Nat) : Bool :=
  let k := s.core c
  (k.fwd.isNone && (!k.rowStopped n || (s.brim.st ≠ .idle && k.strands.any fun x => x.1 = n && x.2.intrap)) &&
    (!s.preempted c || s.replays c n)) && match s.brim.st with
  | .idle => !s.milliner.hot
  | .phaseA => (s.strand c n).intrap || s.declarerOf c = some n
  | _ => false

/-- Whether a core's Phase A is done. -/
def State.phaseADone (s : State) (c : Nat) : Bool := (s.declarerOf c).isNone

/-! The end of Phase A (23 R394). -/

/-- A part of a posted store that has a target within the package is performed; one to a window of a device or the host
is discarded. -/
def State.flushLane (e : JEnt) (c : Nat) (s : State) (l : Lane) : State :=
  let inside := match space true l.addr with
    | .ok (.dom ..) | .ok (.host ..) => l.pa.isSome
    | _ => true
  if !inside then s
  else match s.perform c e l with
    | .done s => s
    | _ => s

/-- The occupied journal entries of a core, oldest first. -/
def Core.inOrder (k : Core) : List JEnt :=
  ((k.journal.map fun x => x.2).filter fun e => e.v).mergeSort fun a b => decide (a.seq ≤ b.seq)

/-- The posted stores of a core are performed. -/
def State.flushJournal (s : State) (c : Nat) : State :=
  let s := (s.core c).inOrder.foldl (fun s e => e.lanes.foldl (State.flushLane e c) s) s
  let done (e : JEnt) : JEnt := if e.v then { e with v := false } else e
  s.modCore c fun k => { k with journal := k.journal.map fun x => (x.1, done x.2) }

/-- A store in flight is performed at its home. -/
def State.flushStore (s : State) (a : Access) : State :=
  let got {α : Type} (r : Got α) : State := match r with
    | .ok s _ => s
    | .bad s _ => s
    | .invalid s _ _ => s
  match a.kind, a.stage with
  | .store _, .home pa ty tag => got (s.homeAcc a pa ty tag)
  | .store v, .bank => s.scrWrite a.core (bits a.addr 0 20) (leBytes a.size v.toNat)
  | .store v, .xlate _ => got (s.writeVirt a.agent (bits a.addr 0 48) (leBytes a.size v.toNat) true)
  | _, _ => s

/-- A strand stops at its boundary, its windows written. -/
def Strand.halted (t : Strand) : Strand := if t.live then { t.closeWindows with st := .stopped } else t

/-- PHASE_A_END: when every core is done or 40 µs have passed. -/
def execPhaseAEnd (s : State) : Res :=
  .next (
    if s.brim.st ≠ .phaseA then s
    else
      let halt (k : Core) : Core := { k with strands := k.strands.map fun x => (x.1, x.2.halted) }
      let s : State := { s with cores := s.cores.map fun x => (x.1, halt x.2) }
      let s := (s.cores.map fun x => x.1).foldl State.flushJournal s
      let s : State := s.accs.foldl (fun s x => s.flushStore x.2) s
      let s := ({ s with accs := [] } : State).dropAllLines fun l => l.dirty ≠ 0
      let s : State := { s with priv := [] }
      { s with brim := { s.brim with st := .drained } })

/-! The save engine (23 R395, R396). -/

/-- The save store's base, and the size of a half. -/
def saveBase : Nat := 0x8000000000
/-- Bytes of a half of the save store. -/
def saveHalf : Nat := 0x4000000
/-- Bytes of a directory, and of a segment. -/
def seg64 : Nat := 0x10000

/-- One segment: its job and core, whether it is of a set, its number among how many, VA or SEQ, STRID, its length, its
data with the places of the words that were read as poisoned, or none where it does not translate. -/
structure SaveItem where
  job   : BitVec 16
  core  : Nat
  set   : Bool
  seg   : Nat
  nseg  : Nat
  va    : Nat
  strid : BitVec 32
  len   : Nat
  data  : Option (List Byte × List Nat)

/-- KIND of an item. -/
def SaveItem.kind (x : SaveItem) : Nat := if x.set then 1 else 2

/-- Where each record of a log begins in its stream, with its SEQ. -/
def logStarts : List LogRec → Nat → List (Nat × Nat)
  | [], _ => []
  | r :: rs, at0 => (at0, r.seq) :: logStarts rs (at0 + r.bytes.length)

/-- Data padded to a multiple of 64 bytes. -/
def pad64 (bs : List Byte) : List Byte := bs ++ List.replicate (ceilDiv bs.length 64 * 64 - bs.length) 0

/-- The segments of a job's batt log. -/
def logItems (job : BitVec 16) (log : List LogRec) : List SaveItem :=
  let stream := log.flatMap LogRec.bytes
  let starts := logStarts log 0
  let n := ceilDiv stream.length seg64
  (List.range n).map fun i =>
    let d := pad64 ((stream.drop (i * seg64)).take seg64)
    let first := (starts.find? fun x => i * seg64 ≤ x.1 && x.1 < (i + 1) * seg64).map fun x => x.2
    { job := job, core := 0, set := false, seg := i, nseg := n, va := first.getD 0, strid := 0, len := d.length,
      data := some (d, []) }

/-- `n` bytes of a set from `va` up, as their homes hold them, through the tables of the declaring core; none where a
granule does not translate or lacks R. -/
def State.saveRead (s : State) (c : Nat) (job : BitVec 16) : Nat → Nat → Nat → Option (List Byte × List Nat)
  | 0, _, n => if n = 0 then some ([], []) else none
  | fuel + 1, va, n =>
    if n = 0 then some ([], [])
    else
      let k := s.core c
      if !s.jobEntryOk k.jtbase job then none
      else match s.walkJob k.jtbase job va with
        | .error _ => none
        | .ok (e, level, _) =>
          if !s.framesMatch k.fatbase e level ∨ !bit e 3 then none
          else
            let pa := leafPa e level va
            let m := min n (0x10000 - va % 0x10000)
            let bad := if s.pois = [] then [] else (List.range (m / 8)).filter fun i => s.pois.contains (pa / 8 + i)
            (State.saveRead s c job fuel (va + m) (n - m)).map fun r =>
              (s.homeBytes pa m ++ r.1, bad ++ r.2.map (· + m / 8))

/-- The segments of a core's set. -/
def State.setItems (s : State) (c : Nat) : List SaveItem :=
  let k := s.core c
  let job := s.coreJob c
  let len := k.mslen.toNat
  let n := ceilDiv len seg64
  (List.range n).map fun i =>
    let va := k.msbase.toNat + i * seg64
    let m := min seg64 (len - i * seg64)
    { job := job, core := c, set := true, seg := i, nseg := n, va := va, strid := k.declarer.getD 0, len := m,
      data := s.saveRead c job 3 va m }

/-- Everything to be saved, in order. -/
def State.saveItems (s : State) : List SaveItem :=
  (s.jobs.flatMap fun x => logItems (BitVec.ofNat 16 x.1) x.2.log) ++ s.cores.flatMap fun x => s.setItems x.1

/-- Word 1 of an item's header. -/
def SaveItem.ident (x : SaveItem) : Nat := x.job.toNat + 2 ^ 16 * x.core + 2 ^ 32 * x.seg + 2 ^ 48 * x.nseg

/-- An item's header. -/
def SaveItem.header (x : SaveItem) (gen : BitVec 16) (owner : List Byte) : List Byte :=
  wordBytes (0x4D495242 + 2 ^ 32 * gen.toNat + 2 ^ 48 * x.kind) ++ wordBytes x.ident ++ wordBytes x.va ++ wordBytes x.len ++
    owner ++ wordBytes x.strid.toNat ++ wordBytes 0

/-- An item's trailer. -/
def SaveItem.trailer (x : SaveItem) (gen : BitVec 16) (d : List Byte) : List Byte :=
  wordBytes (0x4C494154 + 2 ^ 32 * gen.toNat) ++ wordBytes x.ident ++ wordBytes (crc32c d).toNat ++ List.replicate 40 0

/-- The first 16 bytes of SHA-256 over a job's key set. -/
def State.ownerOf (s : State) (job : BitVec 16) : List Byte :=
  (sha256 (((s.job? job).map fun j => j.key).getD [])).take 16

/-- The offset of each item in the save store: items go alternately to the halves, back to back in each. -/
def placeItems : List SaveItem → Bool → Nat → Nat → List (SaveItem × Nat)
  | [], _, _, _ => []
  | x :: xs, f1, o0, o1 =>
    let n := 128 + x.len
    if f1 then (x, saveHalf + o1) :: placeItems xs false o0 (o1 + n)
    else (x, o0) :: placeItems xs true (o0 + n) o1

/-- A directory entry. -/
def dirEntry (x : SaveItem × Nat) : Nat :=
  x.2 / 64 + 2 ^ 21 * x.1.kind + 2 ^ 23 * x.1.core + 2 ^ 32 * x.1.seg + 2 ^ 48 * x.1.job.toNat

/-- A directory. -/
def dirBytes (gen : BitVec 16) (thermal done : Bool) (items : List (SaveItem × Nat)) : List Byte :=
  wordBytes (0x52494442 + 2 ^ 32 * gen.toNat + 2 ^ 48 * (if thermal then 2 else 1) + 2 ^ 50 * ofB done) ++
    wordBytes items.length ++ List.replicate 48 0 ++ items.flatMap fun x => wordBytes (dirEntry x)

/-- Bytes written by the save engine at an offset of the save store. -/
def State.saveWrite (s : State) (off : Nat) (bs : List Byte) : State :=
  { s with mem := s.mem.putBytes (saveBase + off) bs, pois := clears s.pois (saveBase + off) bs.length }

/-- An item is written as far as the reserve lasts, `room` being what each half takes behind its directory. -/
def State.saveItem (gen : BitVec 16) (room : Nat) (s : State) (x : SaveItem × Nat) : State :=
  match x.1.data with
  | none => s
  | some (d, bad) =>
    let left := seg64 + 64 * room - x.2 % saveHalf
    let bs := (x.1.header gen (s.ownerOf x.1.job) ++ d ++ x.1.trailer gen d).take left
    let s := s.saveWrite x.2 bs
    let marks := (bad.filter fun i => 64 + 8 * i < bs.length).map fun i => (saveBase + x.2 + 64) / 8 + i
    { s with pois := s.pois ++ marks }

/-- Whether the reserve lasts for an item. -/
def itemFits (room : Nat) (x : SaveItem × Nat) : Bool :=
  x.1.data.isNone || decide (x.2 % saveHalf + 128 + x.1.len ≤ seg64 + 64 * room)

/-- The directories and the items are written; DONE where the reserve lasts for all. -/
def State.saveAll (s : State) (room : Nat) (xs : List SaveItem) : State :=
  let gen := nextGen s.brim.gen
  let items := placeItems xs false seg64 seg64
  let dir (done : Bool) (s : State) : State :=
    let d := dirBytes gen s.brim.thermal done items
    (s.saveWrite 0 d).saveWrite saveHalf d
  let s := items.foldl (State.saveItem gen room) (dir false s)
  let s := if items.all (itemFits room) then dir true s else s
  { s with brim := { s.brim with gen := gen } }

/-- PHASE_B: with nothing to save nothing is written (23 R399). Then the part is without power. -/
def execPhaseB (room : Nat) (s : State) : Res :=
  .next (
    if s.brim.st ≠ .drained then s
    else
      let xs := s.saveItems
      let s := if xs = [] then s else s.saveAll room xs
      { s with brim := { s.brim with st := .off } })

end Sys2Proof.Machine
end

