-- ==== Sys2Proof/Machine/Check.lean ====
section
/-!
DEFINITION. Checksums (11 R236 to R238) and vector leases (11 R221, 02 R25).
-/

namespace Sys2Proof.Machine

/-- CKCLR. -/
def execCkclr (c : CReg) (s : State) : Res := s.vec fun t => t.putC c 0

/-- CKA: an exact sum. -/
def execCka (c : CReg) (a : VReg) (k : KReg) (ty : IntTy) (s : State) : Res :=
  s.vec fun t =>
    let xs := ((List.range (laneCount ty.width)).filter (t.kr k).getLsbD).map (laneInt ty (t.vr a.val))
    (t.flagBad (anyBadT2 ty (t.kr k) (t.vr a.val))).putC c (t.cr c + word (wrap 64 xs.sum))

/-- The sum of a tree under RNE, FTZ ignored. -/
def treeRne (l : List Nat) : Nat := (tree .rne false 6 l 0).1.getD 0 0

/-- CKAF: two trees, then two folds, all RNE (11 R237). -/
def execCkaf (c : CReg) (a : VReg) (k : KReg) (ty : FltTy) (s : State) : Res :=
  s.vec fun t =>
    let u := treeRne (treeLanes ty false false (t.kr k) (t.vr a.val))
    let v := treeRne (treeLanes ty false true (t.kr k) (t.vr a.val))
    let x := t.cr c
    t.putC c (word (add32 .rne 0 false (bits x 0 32) u + 2 ^ 32 * add32 .rne 0 false (bits x 32 32) v))

/-- Whether an F32 code is finite. -/
def finite32 (c : Nat) : Bool :=
  match fpOf .f32 c with
  | .fin .. => true
  | _ => false

/-- The float test of CKCHK (11 R238): |Sa - Sb| ≤ τ × max(Aa, Ab), exactly. -/
def ckFloat (sa aa sb ab tau : Nat) : Bool :=
  if [sa, sb, aa, ab, tau].all finite32 then
    let d := (Fp.add .rne (fpOf .f32 sa) (fpOf .f32 sb).neg).abs
    let m := Fp.greatest (fpOf .f32 aa) (fpOf .f32 ab)
    !(Fp.mul (fpOf .f32 tau) m).lt d
  else sa = sb

/-- The test of CKCHK by mode. -/
def Strand.ckPass (t : Strand) (g : GReg) (a : CReg) (b : CkArg) : Bool :=
  let x := t.cr a
  let int (y : Word) : Bool := (x - y).toInt.natAbs ≤ (t.g g).toNat
  match b with
  | .i c => int (t.cr c)
  | .ig h => int (t.g h)
  | .f c => ckFloat (bits x 0 32) (bits x 32 32) (bits (t.cr c) 0 32) (bits (t.cr c) 32 32) (bits (t.g g) 0 32)
  | .fg h =>
    let sb := bits (t.g h) 0 32
    ckFloat (bits x 0 32) (bits x 32 32) sb (sb % 2 ^ 31) (bits (t.g g) 0 32)

/-- CKCHK: no effect, or CKFAIL with FADDR 0 (11 R238). -/
def execCkchk (g : GReg) (a : CReg) (b : CkArg) (s : State) : Res :=
  if hasVec s.cur.slot s.me && !s.me.ckPass g a b then .next (s.trap Cause.ckFail 0) else s.vec id

/-- VLEASE (11 R221): granted at once while fewer than four are held, else parked until granted in issue order. -/
def execVlease (s : State) : Res :=
  .next (
    if !isGeneral s.cur.slot then s.trapPc Cause.hPark
    else if s.me.vl then s.advance
    else if s.mine.leases < 4 then (s.modMe Strand.leased).advance
    else (s.park .lease).modMine fun k => { k with leaseq := k.leaseq ++ [s.cur.slot] })

/-- VFREE (11 R221): the contents are lost, and the oldest waiter is granted the lease. -/
def execVfree (s : State) : Res :=
  .next (
    if isRow s.cur.slot then s.trapPc Cause.hPark
    else if isGeneral s.cur.slot ∧ s.me.vl then
      ((s.modMe fun t => { t with vl := false, regs := t.regs.clearVec }).advance).modMine Core.grantLease
    else s.advance)

end Sys2Proof.Machine
end

