-- ==== Sys2Proof/Machine/Platform.lean ====
section
/-!
DEFINITION. The platform (17 R300 to R306): clocks, droop, the Milliner's samples, its firmware, and the boot with the
classification of what a brim sequence saved (23 R397).
-/

namespace Sys2Proof.Machine

/-! Clocks (17 R300, R301). -/

/-- A change to the Milliner. -/
def State.modMilliner (s : State) (f : Milliner → Milliner) : State := { s with milliner := f s.milliner }

/-- CLOCK_CHANGE: a multiple of 100 MHz from 600 MHz to 1.6 GHz. -/
def execClockChange (i : Fin 24) (mhz : Nat) (s : State) : Res :=
  .next (
    if s.deaf ∨ mhz < 600 ∨ 1600 < mhz ∨ mhz % 100 ≠ 0 then s
    else s.modIsland i.val fun x => { x with set := mhz, mhz := mhz })

/-- The 32 bytes of an entry of the event log (17 R304). -/
def Event.bytes (e : Event) : List Byte :=
  leBytes 8 e.time ++ leBytes 2 e.code ++ leBytes 1 e.island ++ List.replicate 5 0 ++ (e.data ++ List.replicate 16 0).take 16

/-- What is logged of a reading, in an order of the model's (log entry 116). -/
def readingBytes (r : Reading) : List Byte :=
  leBytes 4 r.temp ++ leBytes 4 r.volt ++ leBytes 4 r.current ++ leBytes 4 r.power

/-- DROOP: the island runs at half its set frequency; one episode is counted and logged. -/
def execDroop (i : Fin 24) (s : State) : Res :=
  .next (
    if s.brim.st = .off ∨ (s.island i.val).droop then s
    else
      let d := readingBytes (s.island i.val).last
      (s.modIsland i.val fun x => { x with droop := true, droops := x.droops + 1 }).modMilliner (·.note 1 i.val d))

/-- DROOP_RECOVERY. -/
def execDroopRecovery (i : Fin 24) (s : State) : Res :=
  .next (s.modIsland i.val fun x => { x with droop := false })

/-! The Milliner's sample (17 R302, R304). Temperatures are in eighths of a degree. -/

/-- The clock after a sample: 100 MHz less at 100 °C, 100 MHz more below 95 °C, between 600 MHz and what is set. -/
def Island.cooled (i : Island) (t : Nat) : Nat :=
  if 800 ≤ t then (if i.mhz < 700 then 600 else i.mhz - 100)
  else if t < 760 then min i.set (i.mhz + 100)
  else i.mhz

/-- One island is sampled. -/
def State.sampleIsland (s : State) (i : Nat) (r : Reading) : State :=
  let x := s.island i
  let mhz := if s.deaf then x.mhz else x.cooled r.temp
  let s := s.modIsland i fun x => { x with mhz := mhz, last := r }
  if mhz < x.mhz then s.modMilliner (·.note 2 i (readingBytes r)) else s

/-- MILLINER_SAMPLE: every island is sampled; one at 110 °C trips the part, which is held until all are below 90 °C. -/
def execMillinerSample (rs : List Reading) (s : State) : Res :=
  let rd (i : Nat) : Reading := rs.getD i (s.island i).last
  let s := s.modMilliner fun m => { m with time := m.time + 10 }
  let s := (List.range 24).foldl (fun s i => s.sampleIsland i (rd i)) s
  .next (match (List.range 24).find? fun i => 880 ≤ (rd i).temp with
    | some i => if s.milliner.hot then s else (s.trip i (readingBytes (rd i))).detect true
    | none =>
      if (List.range 24).all fun i => decide ((rd i).temp < 720) then s.modMilliner fun m => { m with hot := false } else s)

/-! Firmware (17 R305). -/

/-- Whether an image is accepted: its signature over its digest, and its version. -/
def Milliner.accepts (m : Milliner) (image sig : List Byte) (version : Nat) : Bool :=
  Config.firmwareVerifies (sha256 image) sig && decide (m.minVer ≤ version)

/-- The slot that does not run holds something. -/
def Milliner.putIdle (m : Milliner) (x : Option FwSlot) : Milliner :=
  if m.runB then { m with slotA := x } else { m with slotB := x }

/-- FIRMWARE_STAGE: staged when it verifies, else erased; a supply loss meanwhile leaves it unverified. -/
def execFirmwareStage (image sig : List Byte) (version : Nat) (s : State) : Res :=
  let slot (ok : Bool) : Option FwSlot := some ⟨image, sig, version, ok, ok⟩
  .next (s.modMilliner fun m =>
    if s.deaf then m.putIdle (slot false)
    else if m.accepts image sig version then (m.putIdle (slot true)).note 6 noIsland (leBytes 8 version)
    else (m.putIdle none).note 7 noIsland (leBytes 8 version))

/-- Whether a slot is a candidate of the boot ROM. -/
def bootable : Option FwSlot → Bool
  | some x => x.verified || x.staged
  | none => false

/-- Whether slot B comes first: of two candidates the higher version. -/
def Milliner.firstB (m : Milliner) : Bool :=
  bootable m.slotB && (!bootable m.slotA || decide ((m.slotA.map fun x => x.version).getD 0 < (m.slotB.map fun x => x.version).getD 0))

/-- Whether a slot's image verifies as it is about to run. -/
def Milliner.runs (m : Milliner) (b : Bool) : Bool :=
  match if b then m.slotB else m.slotA with
  | some x => Config.firmwareVerifies (sha256 x.image) x.sig
  | none => false

/-- A measurement register extended with a digest (17 R306). -/
def extendMr (mr digest : List Byte) : List Byte := sha256 (mr ++ digest)

/-- The Milliner after a boot: the slot that runs, its measurements, its log. -/
def Milliner.boot (m : Milliner) (microcode : List (List Byte)) : Milliner :=
  let first := m.firstB
  let b := if bootable (if first then m.slotB else m.slotA) && !m.runs first then !first else first
  let zero : List Byte := List.replicate 32 0
  let img := ((if b then m.slotB else m.slotA).map fun x => x.image).getD []
  let ver := ((if b then m.slotB else m.slotA).map fun x => x.version).getD 0
  let ran (x : FwSlot) : FwSlot := { x with verified := true, staged := false }
  let m := { m with time := 0, runB := b, hot := false, up := true, mr0 := extendMr zero (sha256 img),
                    mr1 := microcode.foldl (fun r i => extendMr r (sha256 i)) zero,
                    slotA := if b then m.slotA else m.slotA.map ran, slotB := if b then m.slotB.map ran else m.slotB }
  let m := if b = first then m else m.note 8 noIsland (leBytes 8 ver)
  m.note 5 noIsland (leBytes 8 ver)

/-! Restart (23 R397). -/

/-- Word `i` of the save store from an address. -/
def State.saveWord (s : State) (a i : Nat) : Word := word (s.mem.read (a + 8 * i) 8)

/-- The directory that is read: the first half's, or the second's where the first is unreadable or lacks MAGIC. -/
def State.saveDir (s : State) : Option Nat :=
  [saveBase, saveBase + saveHalf].find? fun a => !s.poisoned a seg64 && bits (s.saveWord a 0) 0 32 = 0x52494442

/-- One directory entry classified. -/
def State.classify (s : State) (gen : Nat) (e : Word) : Saved :=
  let a := saveBase + 64 * bits e 0 21
  let w (i : Nat) : Word := s.saveWord a i
  let head := !s.poisoned a 64 && bits (w 0) 0 32 = 0x4D495242 && bits (w 0) 32 16 = gen && bits (w 0) 48 2 = bits e 21 2 &&
    bits (w 1) 32 16 = bits e 32 16 && bits (w 1) 0 16 = bits e 48 16
  let len := bits (w 3) 0 17
  let t := a + 64 + len
  let whole := bits (s.saveWord t 0) 0 32 = 0x4C494154 && bits (s.saveWord t 0) 32 16 = gen && s.saveWord t 1 = w 1 &&
    bits (s.saveWord t 2) 0 32 = (crc32c (s.mem.bytes (a + 64) len)).toNat && !s.poisoned a (len + 128)
  { job := BitVec.ofNat 16 (bits e 48 16), set := bits e 21 2 = 1, cls := if !head then 2 else if whole then 0 else 1,
    owner := if head then some (s.mem.bytes (a + 32) 16) else none }

/-- What the restart finds. -/
def State.restart (s : State) (b : Brim) : Brim :=
  match s.saveDir with
  | none => { b with dir := none, items := [] }
  | some a =>
    let d := s.saveWord a 0
    let n := min (bits (s.saveWord a 1) 0 16) (seg64 / 8 - 8)
    { b with dir := some (BitVec.ofNat 16 (bits d 32 16), BitVec.ofNat 2 (bits d 48 2), bit d 50),
             items := (List.range n).map fun i => s.classify (bits d 32 16) (s.saveWord a (8 + i)) }

/-- BOOT: at power-on, and after a brim sequence once no island is hot. No job survives; the save store, the Milliner's
flash and the part's place in its domain do; the directory is classified. -/
def execBoot (microcode : List (List Byte)) (s : State) : Res :=
  let kept : Memory := s.mem.filter fun x => isSave x.1
  let b : Brim := { st := .idle, thermal := false, gen := s.brim.gen, budget := 0, dir := none, items := [] }
  .next (
    if s.milliner.hot ∨ (s.milliner.up ∧ s.brim.st ≠ .off) then s
    else
      let r := { State.reset with agenda := s.agenda, split := s.split, free := s.free, serial := s.serial, device := s.device,
                                  mem := kept, pois := s.pois.filter fun w => isSave (8 * w),
                                  milliner := s.milliner.boot microcode }
      { r with brim := r.restart b })

end Sys2Proof.Machine
end

