-- ==== Sys2Proof/Machine/Sys.lean ====
section
/-!
DEFINITION. Control registers (09 R181 to R188), traps and their return (12 R261, 18 R313), JRNL, the must-save
declaration and the end of its handler (23 R389, R393), and the two ways an instruction fails before it is one.
-/

namespace Sys2Proof.Machine

/-! Control registers. -/

/-- What user mode may do with a control register (09 R184): read, write. -/
def crUser : CrName → Bool × Bool
  | .prio | .role | .frm | .srseed | .fmtbad | .fmta | .fmtb | .scla | .sclb | .schedmode | .agewin | .fpctl => (true, true)
  | .tvec | .sscr | .jtbase | .fatbase | .wvring _ => (false, false)
  | _ => (true, false)

/-- Whether supervisor mode may write a control register; it may read every one (09 R184). -/
def crSupWrites : CrName → Bool
  | .strid | .jobid | .coreid | .tags | .usc | .bankcfg | .msbase | .mslen | .cycle => false
  | _ => true

/-- The checks of R182, without the value's: PRIV, or ILLEGAL for a register that no mode writes. -/
def crRefuses (c : CrName) (sup wr : Bool) : Option (BitVec 8) :=
  if !sup && !(crUser c).1 then some Cause.priv
  else if wr && !(if sup then crSupWrites c else (crUser c).2) then
    some (if crSupWrites c then Cause.priv else Cause.illegal)
  else none

/-- The value of a control register as the issuing strand reads it. -/
def State.cr (s : State) (c : CrName) : Word :=
  let t := s.me
  let k := s.mine
  match c with
  | .status => t.status
  | .strid => t.strid.zeroExtend 64
  | .jobid => t.job.zeroExtend 64
  | .prio => t.prio.zeroExtend 64
  | .role => t.role.zeroExtend 64
  | .frm => word (Rm.code t.frm)
  | .srseed => t.regs.srseed
  | .fmtbad => word (ofB t.regs.fmtbad)
  | .fmta => t.fmta.zeroExtend 64
  | .fmtb => t.fmtb.zeroExtend 64
  | .scla => t.scla.zeroExtend 64
  | .sclb => t.sclb.zeroExtend 64
  | .coreid => word s.cur.core
  | .cause => k.cause
  | .epc => k.epc
  | .faddr => k.faddr
  | .schedmode => word (ofB k.mode)
  | .agewin => k.agewin.zeroExtend 64
  | .fpctl => word (ofB k.ftz)
  | .tags => k.tags
  | .usc => word k.usc
  | .bankcfg => k.bankcfg
  | .htbase => k.htbase
  | .msbase => k.msbase
  | .mslen => k.mslen.zeroExtend 64
  | .cycle => (s.island (islandOf s.cur.core)).cycle
  | .stageasn => k.stageasn.zeroExtend 64
  | .tvec => k.tvec
  | .sscr => k.sscr
  | .jtbase => k.jtbase
  | .fatbase => k.fatbase
  | .wvring n => (s.weaver (towerOf s.cur.core)).rings.look n.val 0

/-- The bits of a value that a control register stores (09 R181, R186 to R188). -/
def crMask : CrName → Nat
  | .cause => 0x3FFFFFFF
  | .htbase => 2 ^ 64 - 1 - 0x7000
  | .tvec => 2 ^ 64 - 4
  | .wvring _ => 2 ^ 64 - 1 - 0x3E
  | .scla => 0x7FFFC
  | .sclb => 0x7FFFE
  | _ => 2 ^ 64 - 1

/-- WriteValue of R181, written: reserved bits take zero, and a register's own rule applies. A supervisor write to
STAGEASN discards a move that the weaver has decided (R188). -/
def State.setCr (s : State) (c : CrName) (x : Word) : State :=
  let v := x &&& word (crMask c)
  let me (f : Strand → Strand) : State := s.modMe f
  let mine (f : Core → Core) : State := s.modMine f
  match c with
  | .status => me fun t => { t with sup := bit v 0 }
  | .prio => me fun t => { t with prio := v.setWidth 2 }
  | .role => me fun t => { t with role := v.setWidth 2 }
  | .frm => me fun t => { t with frm := rmOfFrm (bits v 0 3) }
  | .srseed => me fun t => { t with regs := { t.regs with srseed := v } }
  | .fmtbad => me fun t => { t with regs := { t.regs with fmtbad := bit v 0 } }
  | .fmta => me fun t => { t with fmta := v.setWidth 5 }
  | .fmtb => me fun t => { t with fmtb := v.setWidth 5 }
  | .scla => me fun t => { t with scla := v.setWidth 19 }
  | .sclb => me fun t => { t with sclb := v.setWidth 19 }
  | .cause => mine fun k => { k with cause := v }
  | .epc => mine fun k => { k with epc := v }
  | .faddr => mine fun k => { k with faddr := v }
  | .schedmode => mine fun k => { k with mode := bit v 0 }
  | .agewin => mine fun k => { k with agewin := if bits v 0 16 < 16 then 16 else v.setWidth 16 }
  | .fpctl => mine fun k => { k with ftz := bit v 0 }
  | .htbase => mine fun k => { k with htbase := v }
  | .stageasn => mine fun k => { k with stageasn := v.setWidth 9, wvmove := none }
  | .tvec => mine fun k => { k with tvec := v }
  | .sscr => mine fun k => { k with sscr := v }
  | .jtbase => mine fun k => { k with jtbase := v }
  | .fatbase => mine fun k => { k with fatbase := v }
  | .wvring n => s.modWeaver (towerOf s.cur.core) fun w => { w with rings := w.rings.put n.val v }
  | .strid | .jobid | .coreid | .tags | .usc | .bankcfg | .msbase | .mslen | .cycle => s

/-- A write of a control register: the value that R182 check 4 refuses, or the state after it. -/
def State.wrCr (s : State) (c : CrName) (v : Word) (k : State → State) : State :=
  match crRefuses c s.me.sup true with
  | some e => s.trapPc e
  | none =>
    if (c = CrName.tvec ∨ c = CrName.jtbase ∨ c = CrName.fatbase) ∧ !isPhysForm v then s.trap Cause.badAddr v
    else k (s.setCr c v)

/-- CTLR. -/
def execCtlr (a : GReg) (c : CrName) (l : La) (s : State) : Res :=
  .next (match crRefuses c s.me.sup false with
    | some e => s.trapPc e
    | none => s.writeLate a (s.cr c) l)
/-- CTLW. -/
def execCtlw (b : GReg) (c : CrName) (s : State) : Res := .next (s.wrCr c (s.rg b) State.advance)
/-- CTLX: the old value goes to ga, gb's value before it to the register. -/
def execCtlx (a b : GReg) (c : CrName) (l : La) (s : State) : Res :=
  let old := s.cr c
  .next (s.wrCr c (s.rg b) fun s => s.writeLate a old l)

/-! Traps. -/

/-- TRAP: SOFT, with the pc after it saved (18 R308). -/
def execTrap (n : Fin 32) (s : State) : Res :=
  .next (s.takeTrap s.cur.core s.cur.slot ⟨Cause.soft, 0, none, word n.val, none⟩ (s.me.pc + 4))
/-- ERET (18 R313). -/
def execEret (s : State) : Res := .next (if !s.me.sup then s.trapPc Cause.priv else s.eret)
/-- JRNL. -/
def execJrnl (a b : GReg) (l : La) (s : State) : Res :=
  let v := s.rg b
  .next (if bits v 6 58 ≠ 0 then s.trap Cause.badAddr v
    else s.writeLate a (s.mine.jent (bits v 0 6)).word l)

/-- A word that is no instruction (08 R159). -/
def execIllegalInstruction (_w : BitVec 32) (s : State) : Res := .next (s.trapPc Cause.illegal)

/-- A fetch that fails (09 R178). -/
def execFetchFault (c : BitVec 6) (a : Word) (s : State) : Res := .next (s.trap (c.setWidth 8) a)

/-! The must-save set (23 R389, R393). -/

/-- The package's bound on declared bytes. -/
def mustSaveMax : Nat := 96 * 2 ^ 20

/-- Whether every granule met by a range translates with R for the issuing strand; nothing parks or traps. -/
def State.translatesR (s : State) (lo n : Nat) : Bool :=
  if n = 0 then true
  else (upFrom (lo / 0x10000) ((lo + n - 1) / 0x10000 - lo / 0x10000 + 1)).all fun g =>
    match (s.translate s.agent (g * 0x10000) .load).2 with
    | .ok .. => true
    | _ => false

/-- Whether MSDECL of a base and length is refused. -/
def State.declRefused (s : State) (b n : Word) : Bool :=
  b.toNat % 64 ≠ 0 || n.toNat % 64 ≠ 0 || bits b 48 16 ≠ 0 || 2 ^ 48 < b.toNat + n.toNat || !isGeneral s.cur.slot ||
    s.me.intrap || s.brim.st ≠ .idle || mustSaveMax < s.brim.budget - s.mine.mslen.toNat + n.toNat ||
    !s.translatesR b.toNat n.toNat

/-- MSDECL. -/
def execMsdecl (a b c : GReg) (l : La) (s : State) : Res :=
  let v := s.rg b
  let n := s.rg c
  .next (
    if s.declRefused v n then s.writeLate a 1 l
    else
      let s := { s with brim := { s.brim with budget := s.brim.budget - s.mine.mslen.toNat + n.toNat } }
      let id := s.me.strid
      let s := s.modMine fun k => { k with
        msbase := v, mslen := n.setWidth 32, declarer := if n = 0 then none else some id }
      s.writeLate a 0 l)

/-- MSDONE: in the PFAIL handler a release, then the strand stops for good; elsewhere nothing. -/
def execMsdone (s : State) : Res :=
  .next (
    if !s.me.pfail then s.advance
    else if s.fenceWait then s.block
    else ((s.fenced .pkg).relDone.released .pkg).advance.modMe fun t => { t with st := .stopped })

end Sys2Proof.Machine
end

