-- ==== Sys2Proof/Machine/VInt.lean ====
section
/-!
DEFINITION. Vector integer instructions, major 0x30 (11 R222 to R224).
-/

namespace Sys2Proof.Machine

/-- Each active lane of `vd` is a function of the lanes' codes (11 R222). -/
def State.intOp (s : State) (d a b : VReg) (k : KReg) (ty : IntTy) (f : Nat → Nat → Nat) : Res :=
  let w := ty.width
  s.vec fun t => t.putV d.val
    (masked w (t.kr k) (t.vr d.val) fun i => f (lane w (t.vr a.val) i) (lane w (t.vr b.val) i))

/-- A lane operation on exact values, wrapped to the width. -/
def onInts (ty : IntTy) (f : Int → Int → Int) (a b : Nat) : Nat :=
  wrap ty.width (f (intOf ty a).1 (intOf ty b).1)

/-- VADD. -/
def execVadd (d a b : VReg) (k : KReg) (ty : IntTy) (s : State) : Res := s.intOp d a b k ty (onInts ty (· + ·))
/-- VSUB. -/
def execVsub (d a b : VReg) (k : KReg) (ty : IntTy) (s : State) : Res := s.intOp d a b k ty (onInts ty (· - ·))
/-- VMUL: the low half of the product. -/
def execVmul (d a b : VReg) (k : KReg) (ty : IntTy) (s : State) : Res := s.intOp d a b k ty (onInts ty (· * ·))
/-- VMULH: the high half of the exact product, signed or unsigned by type. -/
def execVmulh (d a b : VReg) (k : KReg) (ty : IntTy) (s : State) : Res :=
  s.intOp d a b k ty (onInts ty fun x y => x * y / 2 ^ ty.width)
/-- VMIN. -/
def execVmin (d a b : VReg) (k : KReg) (ty : IntTy) (s : State) : Res :=
  s.intOp d a b k ty (onInts ty fun x y => if x < y then x else y)
/-- VMAX. -/
def execVmax (d a b : VReg) (k : KReg) (ty : IntTy) (s : State) : Res :=
  s.intOp d a b k ty (onInts ty fun x y => if x < y then y else x)
/-- VAND. -/
def execVand (d a b : VReg) (k : KReg) (ty : IntTy) (s : State) : Res := s.intOp d a b k ty (· &&& ·)
/-- VOR. -/
def execVor (d a b : VReg) (k : KReg) (ty : IntTy) (s : State) : Res := s.intOp d a b k ty (· ||| ·)
/-- VXOR. -/
def execVxor (d a b : VReg) (k : KReg) (ty : IntTy) (s : State) : Res := s.intOp d a b k ty (· ^^^ ·)
/-- VSHL: by b mod w. -/
def execVshl (d a b : VReg) (k : KReg) (ty : IntTy) (s : State) : Res :=
  s.intOp d a b k ty fun x y => x * 2 ^ (y % ty.width)
/-- VSHR: with zeros. -/
def execVshr (d a b : VReg) (k : KReg) (ty : IntTy) (s : State) : Res :=
  s.intOp d a b k ty fun x y => x / 2 ^ (y % ty.width)
/-- VSRA: with copies of the top bit, whatever the type. -/
def execVsra (d a b : VReg) (k : KReg) (ty : IntTy) (s : State) : Res :=
  s.intOp d a b k ty fun x y => wrap ty.width (sint x ty.width / 2 ^ (y % ty.width))
/-- VABS: -2^(w-1) stays. -/
def execVabs (d a : VReg) (k : KReg) (ty : IntTy) (s : State) : Res :=
  s.intOp d a a k ty fun x _ => wrap ty.width (intOf ty x).1.natAbs
/-- VNEG. -/
def execVneg (d a : VReg) (k : KReg) (ty : IntTy) (s : State) : Res :=
  s.intOp d a a k ty fun x _ => wrap ty.width (-(intOf ty x).1)

/-- The mask that a comparison of the active lanes gives; every other bit is cleared (11 R223). -/
def cmpMask (w : Nat) (k : KWord) (p : Nat → Bool) : KWord :=
  BitVec.ofNat 512 ((List.range (laneCount w)).foldr (fun i acc => ofB (k.getLsbD i && p i) + 2 * acc) 0)

/-- A condition on two integers. -/
def condInt (c : Cond) (x y : Int) : Bool :=
  match c with
  | .eq => x = y
  | .ne => x ≠ y
  | .lt => x < y
  | .ge => y ≤ x

/-- VCMP (11 R223). -/
def execVcmp (c : Cond) (q : KReg) (a b : VReg) (k : KReg) (ty : IntTy) (s : State) : Res :=
  s.vec fun t => t.putK q (cmpMask ty.width (t.kr k) fun i =>
    condInt c (laneInt ty (t.vr a.val) i) (laneInt ty (t.vr b.val) i))

/-- VSEL: the k field selects (11 R224). -/
def execVsel (d a b : VReg) (k : KReg) (ty : IntTy) (s : State) : Res :=
  let w := ty.width
  s.vec fun t => t.putV d.val (ofLanes w ((List.range (laneCount w)).map fun i =>
    if (t.kr k).getLsbD i then lane w (t.vr a.val) i else lane w (t.vr b.val) i))

end Sys2Proof.Machine
end

