-- ==== Sys2Proof/Machine/VFloat.lean ====
section
/-!
DEFINITION. Vector float instructions, major 0x31 (11 R223, R225; 06 R116 to R118).
-/

namespace Sys2Proof.Machine

/-- A rounded operation on two lanes (11 R225). -/
def State.fltOp2 (s : State) (d a b : VReg) (k : KReg) (ty : FltTy) (f : Rm → Fp → Fp → Fp) : Res :=
  let z := s.mine.ftz
  s.vec fun t => t.fltOp z ty d k fun i => f t.frm (fLane ty z (t.vr a.val) i) (fLane ty z (t.vr b.val) i)

/-- A rounded operation on one lane. -/
def State.fltOp1 (s : State) (d a : VReg) (k : KReg) (ty : FltTy) (f : Fp → Fp) : Res :=
  let z := s.mine.ftz
  s.vec fun t => t.fltOp z ty d k fun i => f (fLane ty z (t.vr a.val) i)

/-- A fused operation: vd[i] plus a function of the product (11 R225). -/
def State.fltFused (s : State) (d a b : VReg) (k : KReg) (ty : FltTy) (f : Fp → Fp) : Res :=
  let z := s.mine.ftz
  s.vec fun t => t.fltOp z ty d k fun i =>
    Fp.add t.frm (fLane ty z (t.vr d.val) i)
      (f (Fp.mul (fLane ty z (t.vr a.val) i) (fLane ty z (t.vr b.val) i)))

/-- A result that the rule says is not rounded, and so takes no stochastic step (log entry 14). -/
def State.fltPick2 (s : State) (d a b : VReg) (k : KReg) (ty : FltTy) (f : Fp → Fp → Fp) : Res :=
  let z := s.mine.ftz
  s.vec fun t => t.fltPick z ty d k fun i => f (fLane ty z (t.vr a.val) i) (fLane ty z (t.vr b.val) i)

/-- VFADD. -/
def execVfadd (d a b : VReg) (k : KReg) (ty : FltTy) (s : State) : Res := s.fltOp2 d a b k ty Fp.add
/-- VFSUB: a + (-b). -/
def execVfsub (d a b : VReg) (k : KReg) (ty : FltTy) (s : State) : Res :=
  s.fltOp2 d a b k ty fun md x y => Fp.add md x y.neg
/-- VFMUL. -/
def execVfmul (d a b : VReg) (k : KReg) (ty : FltTy) (s : State) : Res := s.fltOp2 d a b k ty fun _ => Fp.mul
/-- VFMA: one rounding. -/
def execVfma (d a b : VReg) (k : KReg) (ty : FltTy) (s : State) : Res := s.fltFused d a b k ty fun p => p
/-- VFMS: one rounding. -/
def execVfms (d a b : VReg) (k : KReg) (ty : FltTy) (s : State) : Res := s.fltFused d a b k ty Fp.neg
/-- VFMIN. -/
def execVfmin (d a b : VReg) (k : KReg) (ty : FltTy) (s : State) : Res := s.fltOp2 d a b k ty fun _ => Fp.least
/-- VFMAX. -/
def execVfmax (d a b : VReg) (k : KReg) (ty : FltTy) (s : State) : Res := s.fltOp2 d a b k ty fun _ => Fp.greatest
/-- VFABS. -/
def execVfabs (d a : VReg) (k : KReg) (ty : FltTy) (s : State) : Res := s.fltPick2 d a a k ty fun x _ => x.abs
/-- VRCP. -/
def execVrcp (d a : VReg) (k : KReg) (ty : FltTy) (s : State) : Res := s.fltOp1 d a k ty Fp.rcp
/-- VRSQ. -/
def execVrsq (d a : VReg) (k : KReg) (ty : FltTy) (s : State) : Res := s.fltOp1 d a k ty Fp.rsq
/-- VEXP2. -/
def execVexp2 (d a : VReg) (k : KReg) (ty : FltTy) (s : State) : Res := s.fltOp1 d a k ty Fp.exp2
/-- VLOG2. -/
def execVlog2 (d a : VReg) (k : KReg) (ty : FltTy) (s : State) : Res := s.fltOp1 d a k ty Fp.log2

/-- A condition on two float values: with a NaN only NE holds (11 R223). -/
def condFlt (c : Cond) (x y : Fp) : Bool :=
  match c with
  | .eq => x.eq y
  | .ne => !x.eq y
  | .lt => x.lt y
  | .ge => Fp.real2 x y && !x.lt y

/-- VFCMP: subnormals are compared as they are (06 R118). -/
def execVfcmp (c : Cond) (q : KReg) (a b : VReg) (k : KReg) (ty : FltTy) (s : State) : Res :=
  s.vec fun t => t.putK q (cmpMask (fltLane ty) (t.kr k) fun i =>
    condFlt c (fLane ty false (t.vr a.val) i) (fLane ty false (t.vr b.val) i))

end Sys2Proof.Machine
end

