-- ==== Sys2Proof/Machine/VMem.lean ====
section
/-!
DEFINITION. Vector memory, major 0x33 (11 R233, R234).
-/

namespace Sys2Proof.Machine

/-- Where an element of a vector store goes once its checks have passed. -/
inductive Dest
  | scratch (off : Nat)
  | posted (pa : Option Nat) (tag : Nat) (shut : Bool)
  | page (va pa : Nat) (ty : PageTy)
  | phys (pa : Nat)

/-- The checks of one element (11 R234): alignment, space, window, translation. -/
def State.laneCheck (s : State) (a : Word) (n : Nat) (nd : Need) : Got Dest :=
  match s.check a n nd with
  | .error c => .bad s c
  | .ok (.pkg c off) => .ok s (if c = s.cur.core then .scratch off else .posted none 0 false)
  | .ok (.dom ..) | .ok (.host ..) => .ok s (.posted none 0 false)
  | .ok (.phys pa) => .ok s (.phys pa)
  | .ok (.virt va) =>
    match s.translate s.agent va nd with
    | (s, .bad c) => .bad s c
    | (s, .invalid e v0 park) => .invalid s e (v0 && park)
    | (s, .ok pa ty shut _ _ tag) => .ok s (if ty = .wo then .posted (some pa) tag shut else .page va pa ty)

/-- The active elements checked in ascending order: where each goes, or the first that fails. -/
def State.laneChecks (s : State) (n : Nat) (nd : Need) : List (Nat × Word) → Except (State × Stop) (State × List Dest)
  | [] => .ok (s, [])
  | (_, a) :: xs =>
    match s.laneCheck a n nd with
    | .bad s c => .error (s, .bad c a)
    | .invalid s e p => .error (s, .invalid e p a)
    | .ok s d =>
      match State.laneChecks s n nd xs with
      | .error x => .error x
      | .ok (s, ds) => .ok (s, d :: ds)

/-- The active elements read in ascending order. -/
def State.laneReads (s : State) (n : Nat) : List (Nat × Word) → Except (State × Stop) (State × List (Nat × Nat))
  | [] => .ok (s, [])
  | (i, a) :: xs =>
    match s.readAt s.agent a n .strand with
    | .bad s c => .error (s, .bad c a)
    | .invalid s e p => .error (s, .invalid e p a)
    | .ok s v =>
      match State.laneReads s n xs with
      | .error x => .error x
      | .ok (s, vs) => .ok (s, (i, v) :: vs)

/-- The active lanes with their addresses. -/
def State.lanes (s : State) (w : Nat) (k : KReg) (f : Nat → Word) : List (Nat × Word) :=
  ((List.range (laneCount w)).filter (s.me.kr k).getLsbD).map fun i => (i, f i)

/-- Whether an element that is read waits for the strand's earlier accesses to pages of its type, or for its stores and
atomics to the same bytes (05 R94, R99). -/
def State.readWaits (s : State) (n : Nat) (d : Dest) : Bool :=
  match d with
  | .page _ pa ty => s.tyBefore s.cur.core s.cur.slot s.serial ty || s.readAfter pa n
  | .posted (some pa) .. | .phys pa => s.readAfter pa n
  | _ => false

/-- A vector load: all checks, then the reads; a trapped load leaves vd as it was. -/
def State.vload (s : State) (d : VReg) (k : KReg) (ty : IntTy) (f : Nat → Word) : Res :=
  let w := ty.width
  let xs := s.lanes w k f
  if !hasVec s.cur.slot s.me then .next (s.trapPc Cause.noLease)
  else match s.laneChecks (w / 8) .load xs with
  | .error (s, e) => .next (e.land s)
  | .ok (s, ds) =>
    if s.held || s.pending false (xs.map fun x => (x.2, w / 8)) || ds.any (s.readWaits (w / 8)) then .next s.block
    else match s.laneReads (w / 8) xs with
    | .error (s, e) => .next (e.land s)
    | .ok (s, vs) => s.vec fun t =>
        t.putV d.val (masked w (t.kr k) (t.vr d.val) fun i => Tab.look vs i 0)

/-- An element of a vector store that is not posted is written. -/
def State.putElem (s : State) (d : Dest) (bs : List Byte) : State :=
  match d with
  | .scratch off => s.scrWrite s.cur.core off bs
  | .page va pa ty => s.writeHome s.agent va pa ty bs true
  | .phys pa => s.homeWrite s.me.job pa bs
  | .posted .. => s

/-- Whether an element that is written at once waits for an earlier store of the strand to the same home slice (22 R383), for
its accesses in flight to pages of the type, or to the same bytes (05 R94). -/
def State.elemWaits (s : State) (n : Nat) (d : Dest) : Bool :=
  match d with
  | .page _ pa ty => s.posting pa || s.tyBefore s.cur.core s.cur.slot s.serial ty ||
      s.flightOver s.cur.core s.cur.slot s.serial pa n true
  | .phys pa => s.posting pa || s.flightOver s.cur.core s.cur.slot s.serial pa n true
  | _ => false

/-- The ranges of physical memory and of the own scratch that the elements of a vector store are written to at once. -/
def Dest.ranges (n : Nat) (ds : List Dest) : List (Nat × Nat) × List (Nat × Nat) :=
  (ds.filterMap fun d => match d with
      | .page _ pa _ | .phys pa => some (pa, n)
      | _ => none,
    ds.filterMap fun d => match d with
      | .scratch off => some (off, n)
      | _ => none)

/-- The lanes of a posted vector store, which hold one journal entry together. -/
def postLanes (n : Nat) : List (Nat × Word) → List Dest → (Nat → Nat) → List Lane
  | (i, a) :: xs, .posted pa tag shut :: ds, v => ⟨a, pa, tag, shut, n, v i⟩ :: postLanes n xs ds v
  | _ :: xs, _ :: ds, v => postLanes n xs ds v
  | _, _, _ => []

/-- A vector store: all checks, then the writes in ascending order, posted lanes in one journal entry. Where lanes
overlap, the higher one stands (11 R234; for VSTS log entry 52). -/
def State.vstore (s : State) (d : VReg) (k : KReg) (ty : IntTy) (f : Nat → Word) : State :=
  let w := ty.width
  let xs := s.lanes w k f
  let v (i : Nat) : Nat := lane w (s.me.vr d.val) i
  if !hasVec s.cur.slot s.me then s.trapPc Cause.noLease
  else match s.laneChecks (w / 8) .store xs with
  | .error (s, e) => e.land s
  | .ok (s, ds) =>
    let ls := postLanes (w / 8) xs ds v
    if s.held || s.pendingAcc true (xs.map fun x => (x.2, w / 8)) || s.relStill || ds.any (s.elemWaits (w / 8)) ||
        (ls ≠ [] && s.mine.freeEntry.isNone) then s.block
    else
      let s := (xs.zip ds).foldl (fun s x => s.putElem x.2 (leBytes (w / 8) (v x.1.1))) s.relDone
      let s := s.storedAll s.cur.core (Dest.ranges (w / 8) ds).1 (Dest.ranges (w / 8) ds).2
      if ls = [] then s.advance else s.post ls 3 false

/-- VLD. -/
def execVld (d : VReg) (a : GReg) (k : KReg) (ty : IntTy) (s : State) : Res :=
  s.vload d k ty fun i => s.rg a + word (i * (ty.width / 8))
/-- VST. -/
def execVst (d : VReg) (a : GReg) (k : KReg) (ty : IntTy) (s : State) : Res :=
  .next (s.vstore d k ty fun i => s.rg a + word (i * (ty.width / 8)))
/-- VLDS: a stride in bytes, modulo 2^64. -/
def execVlds (d : VReg) (a b : GReg) (k : KReg) (ty : IntTy) (s : State) : Res :=
  s.vload d k ty fun i => s.rg a + word i * s.rg b
/-- VSTS. -/
def execVsts (d : VReg) (a b : GReg) (k : KReg) (ty : IntTy) (s : State) : Res :=
  .next (s.vstore d k ty fun i => s.rg a + word i * s.rg b)
/-- VGATH: offsets in bytes, read signed. -/
def execVgath (d : VReg) (a : GReg) (b : VReg) (k : KReg) (ty : IntTy) (s : State) : Res :=
  s.vload d k ty fun i => s.rg a + sext (lane ty.width (s.me.vr b.val) i) ty.width
/-- VSCAT. -/
def execVscat (d : VReg) (a : GReg) (b : VReg) (k : KReg) (ty : IntTy) (s : State) : Res :=
  .next (s.vstore d k ty fun i => s.rg a + sext (lane ty.width (s.me.vr b.val) i) ty.width)

end Sys2Proof.Machine
end

