-- ==== Sys2Proof/Machine/VPerm.lean ====
section
/-!
DEFINITION. Broadcasts, permutations, reductions, conversions, packing and masks, major 0x32 (11 R226 to R232).
-/

namespace Sys2Proof.Machine

/-! Moves (11 R226). -/

/-- VBCAST. -/
def execVbcast (d : VReg) (a : GReg) (k : KReg) (ty : IntTy) (s : State) : Res :=
  s.vec fun t => t.putV d.val (masked ty.width (t.kr k) (t.vr d.val) fun _ => (t.g a).toNat)

/-- VEXT: sign-extended for In, zero-extended for Nn and T2. -/
def execVext (d : GReg) (a : VReg) (b : GReg) (ty : IntTy) (s : State) : Res :=
  s.vec fun t =>
    let c := lane ty.width (t.vr a.val) ((t.g b).toNat % laneCount ty.width)
    t.wg d (if intSigned ty ∧ ty ≠ .t2 then sext c ty.width else word c)

/-- VINS. -/
def execVins (d : VReg) (a b : GReg) (k : KReg) (ty : IntTy) (s : State) : Res :=
  s.vec fun t =>
    let j := (t.g b).toNat % laneCount ty.width
    t.putV d.val (masked ty.width (t.kr k) (t.vr d.val) fun i =>
      if i = j then (t.g a).toNat else lane ty.width (t.vr d.val) i)

/-- VPERM. -/
def execVperm (d a b : VReg) (k : KReg) (ty : IntTy) (s : State) : Res :=
  s.intOp d b b k ty fun x _ => lane ty.width (s.me.vr a.val) (x % laneCount ty.width)

/-- VSLIDE. -/
def execVslide (d a : VReg) (b : GReg) (k : KReg) (ty : IntTy) (s : State) : Res :=
  let n := laneCount ty.width
  s.vec fun t => t.putV d.val (masked ty.width (t.kr k) (t.vr d.val) fun i =>
    let j := (i : Int) + (t.g b).toInt
    if 0 ≤ j ∧ j < n then lane ty.width (t.vr a.val) j.toNat else 0)

/-! Reductions (11 R227, R228). -/

/-- The values of the active lanes. -/
def activeInts (ty : IntTy) (k : KWord) (x : VWord) : List Int :=
  ((List.range (laneCount ty.width)).filter k.getLsbD).map (laneInt ty x)

/-- VREDADD: the exact sum modulo 2^64. -/
def execVredadd (d a : VReg) (k : KReg) (ty : IntTy) (s : State) : Res :=
  s.vec fun t => (t.flagBad (anyBadT2 ty (t.kr k) (t.vr a.val))).putV d.val
    (BitVec.ofNat 1024 (wrap 64 (activeInts ty (t.kr k) (t.vr a.val)).sum))

/-- VREDMAX: the least value of the type where no lane is active. -/
def execVredmax (d a : VReg) (k : KReg) (ty : IntTy) (s : State) : Res :=
  s.vec fun t => (t.flagBad (anyBadT2 ty (t.kr k) (t.vr a.val))).putV d.val
    (BitVec.ofNat 1024 (wrap 64 ((activeInts ty (t.kr k) (t.vr a.val)).foldl max (intLeast ty))))

/-- VREDFADD: the tree of 06 R123, each addition rounded with FRM and FTZ. -/
def execVredfadd (d a : VReg) (k : KReg) (ty : FltTy) (s : State) : Res :=
  let z := s.mine.ftz
  s.vec fun t =>
    let (l, seed) := tree t.frm z 6 (treeLanes ty z false (t.kr k) (t.vr a.val)) t.regs.srseed
    (t.seeded false seed).putV d.val (BitVec.ofNat 1024 (l.getD 0 0))

/-- VREDFMAX: -∞ where no lane is active. -/
def execVredfmax (d a : VReg) (k : KReg) (ty : FltTy) (s : State) : Res :=
  let z := s.mine.ftz
  s.vec fun t =>
    let xs := ((List.range (laneCount (fltLane ty))).filter (t.kr k).getLsbD).map (fLane ty z (t.vr a.val))
    t.putV d.val (BitVec.ofNat 1024 (f32Rne (xs.foldl Fp.greatest (.inf true))))

/-! Conversions (11 R229, R230). -/

/-- The mode that a rounding field names. -/
def Strand.mode (t : Strand) (r : RmField) : Rm :=
  match r with
  | .mode m => m
  | .frm => t.frm

/-- The lane width of a conversion's source. -/
def srcWidth : CvtSrc → Nat
  | .int t => t.width
  | .flt t => fltLane t

/-- A source lane as a value, with whether a reserved T2 code was read. -/
def srcFp (st : CvtSrc) (ftz : Bool) (c : Nat) : Fp × Bool :=
  match st with
  | .int t => let (v, bad) := intOf t c; (fpInt v, bad)
  | .flt t => (fpIn t ftz c, false)

/-- Convert to an integer type. -/
def cvtToInt (st : CvtSrc) (tt : IntTy) (md : Rm) (c r : Nat) : Nat × Bool :=
  match st with
  | .int t => let (v, bad) := intOf t c; (intSat tt v, bad)
  | .flt t => fpToInt tt md r (fpOf t c)

/-- Convert to a float type, FTZ read where the target is a wide one (06 R118). -/
def cvtToFlt (st : CvtSrc) (tt : FltTy) (ftz : Bool) (md : Rm) (c r : Nat) : Nat × Bool :=
  let (x, bad) := srcFp st (ftz && tt.isWide) c
  let (y, bad') := fpCode tt md r ftz x
  (y, bad || bad')

/-- A whole register of converted lanes: `m` of them, the rest cleared (11 R229). -/
def Strand.cvt (t : Strand) (md : Rm) (ws wt : Nat) (d a : VReg) (f : Nat → Nat → Nat × Bool) : Strand :=
  let (cs, bad, seed) := runLanes (md = .sr) (fun _ => true) (fun _ => 0)
    (fun i r => f (lane ws (t.vr a.val) i) r) (List.range (1024 / max ws wt)) t.regs.srseed
  (t.seeded bad seed).putV d.val (ofLanes wt cs)

/-- VCVT to an integer type. -/
def execVcvtInt (d a : VReg) (st : CvtSrc) (r : RmField) (tt : IntTy) (s : State) : Res :=
  s.vec fun t => t.cvt (t.mode r) (srcWidth st) tt.width d a (cvtToInt st tt (t.mode r))

/-- VCVT to a float type. -/
def execVcvtFloat (d a : VReg) (st : CvtSrc) (r : RmField) (tt : FltTy) (s : State) : Res :=
  let z := s.mine.ftz
  s.vec fun t => t.cvt (t.mode r) (srcWidth st) (fltLane tt) d a (cvtToFlt st tt z (t.mode r))

/-- emax of the block formats (06 R113). -/
def blockEmax : FltTy → Int
  | .e4m3 => 8 | .e5m2 => 15 | .e2m3 => 2 | .e3m2 => 4 | _ => 2

/-- The scale that VQMX chooses for the lanes of a block (11 R230). -/
def blockScale (ty : FltTy) (xs : List Fp) : Nat :=
  if xs.any (· = .nan) then 0xFF
  else match xs.foldl (fun a x => Fp.greatest a x.abs) (.fin false 0 0) with
    | .fin _ m e =>
      if m = 0 then 0
      else (127 + min (max ((Nat.log2 m : Int) + e - blockEmax ty) (-127)) 127).toNat
    | _ => 0xFE

/-- VQMX: 32 lanes in every case, each taking a step in SR; FMTBAD is never set. -/
def execVqmx (d a : VReg) (r : RmField) (ty : FltTy) (s : State) : Res :=
  s.vec fun t =>
    let md := t.mode r
    let xs := (List.range 32).map fun i => fpOf .f32 (lane 32 (t.vr a.val) i)
    let x := blockScale ty xs
    let f (i n : Nat) : Nat × Bool :=
      if x = 0xFF then (0, false)
      else ((fpCode ty md n false ((xs.getD i .nan).scale (127 - x))).1, false)
    let (cs, _, seed) := runLanes (md = .sr) (fun _ => true) (fun _ => 0) f (List.range 32) t.regs.srseed
    (t.seeded false seed).putV d.val (ofLanes (fltLane ty) cs ||| BitVec.ofNat 1024 (x * 2 ^ 1016))

/-- VDQMX: RNE; a scale of 0xFF gives NaN in every lane and sets FMTBAD. -/
def execVdqmx (d a : VReg) (ty : FltTy) (s : State) : Res :=
  let z := s.mine.ftz
  s.vec fun t =>
    let x := bits (t.vr a.val) 1016 8
    let f (i : Nat) : Nat :=
      (fpCode .f32 .rne 0 z (if x = 0xFF then .nan
        else (fpOf ty (lane (fltLane ty) (t.vr a.val) i)).scale ((x : Int) - 127))).1
    (t.flagBad (x = 0xFF)).putV d.val (ofLanes 32 ((List.range 32).map f))

/-! Packing (11 R231). -/

/-- VPACK: truncates. -/
def execVpack (d a b : VReg) (k : KReg) (ty : IntTy) (s : State) : Res :=
  let w := ty.width
  let h := laneCount w / 2
  s.vec fun t => t.putV d.val (masked w (t.kr k) (t.vr d.val) fun i =>
    if i < h then lane (2 * w) (t.vr a.val) i else lane (2 * w) (t.vr b.val) (i - h))

/-- VUNPACK: widened by type; T2 as the I4 value. -/
def execVunpack (d a : VReg) (h : Bool) (k : KReg) (ty : IntTy) (s : State) : Res :=
  let w := ty.width
  let base := ofB h * (laneCount w / 2)
  s.vec fun t =>
    let src (i : Nat) : Int × Bool := intOf ty (lane w (t.vr a.val) (base + i))
    let bad := (List.range (laneCount w / 2)).any fun i => (t.kr k).getLsbD i && (src i).2
    (t.flagBad bad).putV d.val (masked (2 * w) (t.kr k) (t.vr d.val) fun i => wrap (2 * w) (src i).1)

/-! Masks (11 R232). -/

/-- KAND. -/
def execKand (d a b : KReg) (s : State) : Res := s.vec fun t => t.putK d (t.kr a &&& t.kr b)
/-- KOR. -/
def execKor (d a b : KReg) (s : State) : Res := s.vec fun t => t.putK d (t.kr a ||| t.kr b)
/-- KNOT. -/
def execKnot (d a : KReg) (s : State) : Res := s.vec fun t => t.putK d (~~~ (t.kr a))
/-- KMOV. -/
def execKmov (d a : KReg) (s : State) : Res := s.vec fun t => t.putK d (t.kr a)
/-- KPOPC. -/
def execKpopc (d : GReg) (a : KReg) (s : State) : Res :=
  s.vec fun t => t.wg d (word ((List.range 512).filter (t.kr a).getLsbD).length)

end Sys2Proof.Machine
end

