-- ==== Sys2Proof/Machine/Dispatch.lean ====
section
/-!
DEFINITION. One arm per constructor of Instr: a direct call of its meaning, or a rejection by name.
-/

namespace Sys2Proof.Machine

def exec (i : Instr) (s : State) : Host.Outcome State Fault Refusal :=
  match i with
  | .add d a b => Sys2Proof.Machine.execAdd d a b s
  | .sub d a b => Sys2Proof.Machine.execSub d a b s
  | .mul d a b => Sys2Proof.Machine.execMul d a b s
  | .mulh d a b => Sys2Proof.Machine.execMulh d a b s
  | .mulhn d a b => Sys2Proof.Machine.execMulhn d a b s
  | .div d a b => Sys2Proof.Machine.execDiv d a b s
  | .divn d a b => Sys2Proof.Machine.execDivn d a b s
  | .rem d a b => Sys2Proof.Machine.execRem d a b s
  | .remn d a b => Sys2Proof.Machine.execRemn d a b s
  | .and d a b => Sys2Proof.Machine.execAnd d a b s
  | .or d a b => Sys2Proof.Machine.execOr d a b s
  | .xor d a b => Sys2Proof.Machine.execXor d a b s
  | .andn d a b => Sys2Proof.Machine.execAndn d a b s
  | .orn d a b => Sys2Proof.Machine.execOrn d a b s
  | .shl d a b => Sys2Proof.Machine.execShl d a b s
  | .shr d a b => Sys2Proof.Machine.execShr d a b s
  | .sra d a b => Sys2Proof.Machine.execSra d a b s
  | .rot d a b => Sys2Proof.Machine.execRot d a b s
  | .clz d a => Sys2Proof.Machine.execClz d a s
  | .ctz d a => Sys2Proof.Machine.execCtz d a s
  | .popc d a => Sys2Proof.Machine.execPopc d a s
  | .min d a b => Sys2Proof.Machine.execMin d a b s
  | .max d a b => Sys2Proof.Machine.execMax d a b s
  | .minn d a b => Sys2Proof.Machine.execMinn d a b s
  | .maxn d a b => Sys2Proof.Machine.execMaxn d a b s
  | .slt d a b => Sys2Proof.Machine.execSlt d a b s
  | .sltn d a b => Sys2Proof.Machine.execSltn d a b s
  | .seq d a b => Sys2Proof.Machine.execSeq d a b s
  | .sel d a b => Sys2Proof.Machine.execSel d a b s
  | .bfx d a b => Sys2Proof.Machine.execBfx d a b s
  | .bfi d a b => Sys2Proof.Machine.execBfi d a b s
  | .addi d a z => Sys2Proof.Machine.execAddi d a z s
  | .andi d a z => Sys2Proof.Machine.execAndi d a z s
  | .ori d a z => Sys2Proof.Machine.execOri d a z s
  | .xori d a z => Sys2Proof.Machine.execXori d a z s
  | .shli d a n => Sys2Proof.Machine.execShli d a n s
  | .shri d a n => Sys2Proof.Machine.execShri d a n s
  | .srai d a n => Sys2Proof.Machine.execSrai d a n s
  | .slti d a z => Sys2Proof.Machine.execSlti d a z s
  | .sltni d a z => Sys2Proof.Machine.execSltni d a z s
  | .li d z => Sys2Proof.Machine.execLi d z s
  | .lis d z => Sys2Proof.Machine.execLis d z s
  | .addpc d z => Sys2Proof.Machine.execAddpc d z s
  | .lea d a z => Sys2Proof.Machine.execLea d a z s
  | .mkwin d a z => Sys2Proof.Machine.execMkwin d a z s
  | .myid d x => Sys2Proof.Machine.execMyid d x s
  | .beq a b p => Sys2Proof.Machine.execBeq a b p s
  | .bne a b p => Sys2Proof.Machine.execBne a b p s
  | .blt a b p => Sys2Proof.Machine.execBlt a b p s
  | .bge a b p => Sys2Proof.Machine.execBge a b p s
  | .bltn a b p => Sys2Proof.Machine.execBltn a b p s
  | .bgen a b p => Sys2Proof.Machine.execBgen a b p s
  | .jmp p => Sys2Proof.Machine.execJmp p s
  | .call p => Sys2Proof.Machine.execCall p s
  | .jr a => Sys2Proof.Machine.execJr a s
  | .callr a => Sys2Proof.Machine.execCallr a s
  | .ret => Sys2Proof.Machine.execRet s
  | .rpt len a sd sa sb => Sys2Proof.Machine.execRpt len a sd sa sb s
  | .follow => Sys2Proof.Machine.execFollow s
  | .unfollow => Sys2Proof.Machine.execUnfollow s
  | .ldb d a o x l p => Sys2Proof.Machine.execLdb d a o x l p s
  | .ldbn d a o x l p => Sys2Proof.Machine.execLdbn d a o x l p s
  | .ldh d a o x l p => Sys2Proof.Machine.execLdh d a o x l p s
  | .ldhn d a o x l p => Sys2Proof.Machine.execLdhn d a o x l p s
  | .ldw d a o x l p => Sys2Proof.Machine.execLdw d a o x l p s
  | .ldwn d a o x l p => Sys2Proof.Machine.execLdwn d a o x l p s
  | .ldd d a o x l p => Sys2Proof.Machine.execLdd d a o x l p s
  | .stb d a o x p => Sys2Proof.Machine.execStb d a o x p s
  | .sth d a o x p => Sys2Proof.Machine.execSth d a o x p s
  | .stw d a o x p => Sys2Proof.Machine.execStw d a o x p s
  | .std d a o x p => Sys2Proof.Machine.execStd d a o x p s
  | .ldbit a b pm p n l => Sys2Proof.Machine.execLdbit a b pm p n l s
  | .ldbits a b pm p n l => Sys2Proof.Machine.execLdbits a b pm p n l s
  | .stbit a b pm p n => Sys2Proof.Machine.execStbit a b pm p n s
  | .amoadd d a b w o x l => Sys2Proof.Machine.execAmoadd d a b w o x l s
  | .amoand d a b w o x l => Sys2Proof.Machine.execAmoand d a b w o x l s
  | .amoor d a b w o x l => Sys2Proof.Machine.execAmoor d a b w o x l s
  | .amoxor d a b w o x l => Sys2Proof.Machine.execAmoxor d a b w o x l s
  | .amomin d a b w o x l => Sys2Proof.Machine.execAmomin d a b w o x l s
  | .amomax d a b w o x l => Sys2Proof.Machine.execAmomax d a b w o x l s
  | .amominn d a b w o x l => Sys2Proof.Machine.execAmominn d a b w o x l s
  | .amomaxn d a b w o x l => Sys2Proof.Machine.execAmomaxn d a b w o x l s
  | .amoswp d a b w o x l => Sys2Proof.Machine.execAmoswp d a b w o x l s
  | .amocas d a b w o x l => Sys2Proof.Machine.execAmocas d a b w o x l s
  | .amofadd d a b o x l => Sys2Proof.Machine.execAmofadd d a b o x l s
  | .fenceAcq x => Sys2Proof.Machine.execFenceAcq x s
  | .fenceRel x => Sys2Proof.Machine.execFenceRel x s
  | .fenceAr x => Sys2Proof.Machine.execFenceAr x s
  | .fenceSc => Sys2Proof.Machine.execFenceSc s
  | .pref a w x p => Sys2Proof.Machine.execPref a w x p s
  | .flush d a x => Sys2Proof.Machine.execFlush d a x s
  | .binit a n => Sys2Proof.Machine.execBinit a n s
  | .barr a n => Sys2Proof.Machine.execBarr a n s
  | .bwait a b n l => Sys2Proof.Machine.execBwait a b n l s
  | .baw a n l => Sys2Proof.Machine.execBaw a n l s
  | .bstat a n l => Sys2Proof.Machine.execBstat a n l s
  | .breset n => Sys2Proof.Machine.execBreset n s
  | .cpy t d x p c q r => Sys2Proof.Machine.execCpy t d x p c q r s
  | .tagwany a b l => Sys2Proof.Machine.execTagwany a b l s
  | .tagwall b => Sys2Proof.Machine.execTagwall b s
  | .tagff a b l => Sys2Proof.Machine.execTagff a b l s
  | .tagclr b => Sys2Proof.Machine.execTagclr b s
  | .rginit a => Sys2Proof.Machine.execRginit a s
  | .rgfill a b q r c => Sys2Proof.Machine.execRgfill a b q r c s
  | .rgawait a b n l => Sys2Proof.Machine.execRgawait a b n l s
  | .rgrel a => Sys2Proof.Machine.execRgrel a s
  | .bankset b => Sys2Proof.Machine.execBankset b s
  | .qbindFifo a c => Sys2Proof.Machine.execQbindFifo a c s
  | .qbindStream a b c => Sys2Proof.Machine.execQbindStream a b c s
  | .qbindMa c => Sys2Proof.Machine.execQbindMa c s
  | .qbindMb c => Sys2Proof.Machine.execQbindMb c s
  | .qbindMout c => Sys2Proof.Machine.execQbindMout c s
  | .qbindMbox a c => Sys2Proof.Machine.execQbindMbox a c s
  | .qpush b c => Sys2Proof.Machine.execQpush b c s
  | .qpop a c l => Sys2Proof.Machine.execQpop a c l s
  | .vqpush c n => Sys2Proof.Machine.execVqpush c n s
  | .vqpop c n => Sys2Proof.Machine.execVqpop c n s
  | .qstat a c => Sys2Proof.Machine.execQstat a c s
  | .qfree c => Sys2Proof.Machine.execQfree c s
  | .vadd d a b k t => Sys2Proof.Machine.execVadd d a b k t s
  | .vsub d a b k t => Sys2Proof.Machine.execVsub d a b k t s
  | .vmul d a b k t => Sys2Proof.Machine.execVmul d a b k t s
  | .vmulh d a b k t => Sys2Proof.Machine.execVmulh d a b k t s
  | .vmin d a b k t => Sys2Proof.Machine.execVmin d a b k t s
  | .vmax d a b k t => Sys2Proof.Machine.execVmax d a b k t s
  | .vand d a b k t => Sys2Proof.Machine.execVand d a b k t s
  | .vor d a b k t => Sys2Proof.Machine.execVor d a b k t s
  | .vxor d a b k t => Sys2Proof.Machine.execVxor d a b k t s
  | .vshl d a b k t => Sys2Proof.Machine.execVshl d a b k t s
  | .vshr d a b k t => Sys2Proof.Machine.execVshr d a b k t s
  | .vsra d a b k t => Sys2Proof.Machine.execVsra d a b k t s
  | .vabs d a k t => Sys2Proof.Machine.execVabs d a k t s
  | .vneg d a k t => Sys2Proof.Machine.execVneg d a k t s
  | .vcmp c q a b k t => Sys2Proof.Machine.execVcmp c q a b k t s
  | .vsel d a b k t => Sys2Proof.Machine.execVsel d a b k t s
  | .vfadd d a b k t => Sys2Proof.Machine.execVfadd d a b k t s
  | .vfsub d a b k t => Sys2Proof.Machine.execVfsub d a b k t s
  | .vfmul d a b k t => Sys2Proof.Machine.execVfmul d a b k t s
  | .vfma d a b k t => Sys2Proof.Machine.execVfma d a b k t s
  | .vfms d a b k t => Sys2Proof.Machine.execVfms d a b k t s
  | .vfmin d a b k t => Sys2Proof.Machine.execVfmin d a b k t s
  | .vfmax d a b k t => Sys2Proof.Machine.execVfmax d a b k t s
  | .vfabs d a k t => Sys2Proof.Machine.execVfabs d a k t s
  | .vrcp d a k t => Sys2Proof.Machine.execVrcp d a k t s
  | .vrsq d a k t => Sys2Proof.Machine.execVrsq d a k t s
  | .vexp2 d a k t => Sys2Proof.Machine.execVexp2 d a k t s
  | .vlog2 d a k t => Sys2Proof.Machine.execVlog2 d a k t s
  | .vfcmp c q a b k t => Sys2Proof.Machine.execVfcmp c q a b k t s
  | .vbcast d a k t => Sys2Proof.Machine.execVbcast d a k t s
  | .vext d a b t => Sys2Proof.Machine.execVext d a b t s
  | .vins d a b k t => Sys2Proof.Machine.execVins d a b k t s
  | .vperm d a b k t => Sys2Proof.Machine.execVperm d a b k t s
  | .vslide d a b k t => Sys2Proof.Machine.execVslide d a b k t s
  | .vredadd d a k t => Sys2Proof.Machine.execVredadd d a k t s
  | .vredfadd d a k t => Sys2Proof.Machine.execVredfadd d a k t s
  | .vredmax d a k t => Sys2Proof.Machine.execVredmax d a k t s
  | .vredfmax d a k t => Sys2Proof.Machine.execVredfmax d a k t s
  | .vcvtInt d a x r t => Sys2Proof.Machine.execVcvtInt d a x r t s
  | .vcvtFloat d a x r t => Sys2Proof.Machine.execVcvtFloat d a x r t s
  | .vqmx d a r t => Sys2Proof.Machine.execVqmx d a r t s
  | .vdqmx d a t => Sys2Proof.Machine.execVdqmx d a t s
  | .vpack d a b k t => Sys2Proof.Machine.execVpack d a b k t s
  | .vunpack d a h k t => Sys2Proof.Machine.execVunpack d a h k t s
  | .kand d a b => Sys2Proof.Machine.execKand d a b s
  | .kor d a b => Sys2Proof.Machine.execKor d a b s
  | .knot d a => Sys2Proof.Machine.execKnot d a s
  | .kmov d a => Sys2Proof.Machine.execKmov d a s
  | .kpopc d a => Sys2Proof.Machine.execKpopc d a s
  | .vld d a k t => Sys2Proof.Machine.execVld d a k t s
  | .vst d a k t => Sys2Proof.Machine.execVst d a k t s
  | .vlds d a b k t => Sys2Proof.Machine.execVlds d a b k t s
  | .vsts d a b k t => Sys2Proof.Machine.execVsts d a b k t s
  | .vgath d a b k t => Sys2Proof.Machine.execVgath d a b k t s
  | .vscat d a b k t => Sys2Proof.Machine.execVscat d a b k t s
  | .vldbit d z p e k t => Sys2Proof.Machine.execVldbit d z p e k t s
  | .vstbit d z p e k t => Sys2Proof.Machine.execVstbit d z p e k t s
  | .ckclr c => Sys2Proof.Machine.execCkclr c s
  | .cka c a k t => Sys2Proof.Machine.execCka c a k t s
  | .ckaf c a k t => Sys2Proof.Machine.execCkaf c a k t s
  | .ckchk g a b => Sys2Proof.Machine.execCkchk g a b s
  | .vlease => Sys2Proof.Machine.execVlease s
  | .vfree => Sys2Proof.Machine.execVfree s
  | .mload a b => Sys2Proof.Machine.execMload a b s
  | .mloadQ b => Sys2Proof.Machine.execMloadQ b s
  | .mtile a b c n => Sys2Proof.Machine.execMtile a b c n s
  | .mcancel => Sys2Proof.Machine.execMcancel s
  | .mstat a l => Sys2Proof.Machine.execMstat a l s
  | .rowgetF b n => Sys2Proof.Machine.execRowgetF b n s
  | .rowgetS b n => Sys2Proof.Machine.execRowgetS b n s
  | .rowpass => Sys2Proof.Machine.execRowpass s
  | .warm a b l => Sys2Proof.Machine.execWarm a b l s
  | .wadd a b c n l => Sys2Proof.Machine.execWadd a b c n l s
  | .wstat a b l => Sys2Proof.Machine.execWstat a b l s
  | .wwait b => Sys2Proof.Machine.execWwait b s
  | .wreadF a b n l => Sys2Proof.Machine.execWreadF a b n l s
  | .wreadI a b n l => Sys2Proof.Machine.execWreadI a b n l s
  | .wdrop a b l => Sys2Proof.Machine.execWdrop a b l s
  | .wfree a b l => Sys2Proof.Machine.execWfree a b l s
  | .ttsub a b l => Sys2Proof.Machine.execTtsub a b l s
  | .ttstat a b l => Sys2Proof.Machine.execTtstat a b l s
  | .send b => Sys2Proof.Machine.execSend b s
  | .reply b => Sys2Proof.Machine.execReply b s
  | .spawn a b c l => Sys2Proof.Machine.execSpawn a b c l s
  | .exit => Sys2Proof.Machine.execExit s
  | .yield => Sys2Proof.Machine.execYield s
  | .park => Sys2Proof.Machine.execPark s
  | .wake b c => Sys2Proof.Machine.execWake b c s
  | .migrate b => Sys2Proof.Machine.execMigrate b s
  | .monarm b => Sys2Proof.Machine.execMonarm b s
  | .monwait => Sys2Proof.Machine.execMonwait s
  | .prio b => Sys2Proof.Machine.execPrio b s
  | .role b => Sys2Proof.Machine.execRole b s
  | .cntarm b c => Sys2Proof.Machine.execCntarm b c s
  | .launch a b l => Sys2Proof.Machine.execLaunch a b l s
  | .join a b l => Sys2Proof.Machine.execJoin a b l s
  | .cancel b => Sys2Proof.Machine.execCancel b s
  | .cntstat a b l => Sys2Proof.Machine.execCntstat a b l s
  | .phaseend b => Sys2Proof.Machine.execPhaseend b s
  | .ctlr a c l => Sys2Proof.Machine.execCtlr a c l s
  | .ctlw b c => Sys2Proof.Machine.execCtlw b c s
  | .ctlx a b c l => Sys2Proof.Machine.execCtlx a b c l s
  | .trap n => Sys2Proof.Machine.execTrap n s
  | .eret => Sys2Proof.Machine.execEret s
  | .halt => Sys2Proof.Machine.execHalt s
  | .xlinv b c => Sys2Proof.Machine.execXlinv b c s
  | .attrset b c => Sys2Proof.Machine.execAttrset b c s
  | .sealPage b => Sys2Proof.Machine.execSealPage b s
  | .msdecl a b c l => Sys2Proof.Machine.execMsdecl a b c l s
  | .msdone => Sys2Proof.Machine.execMsdone s
  | .jrnl a b l => Sys2Proof.Machine.execJrnl a b l s
  | .wingrant a b l => Sys2Proof.Machine.execWingrant a b l s
  | .winrev b => Sys2Proof.Machine.execWinrev b s
  | .jobnew c => Sys2Proof.Machine.execJobnew c s
  | .hoodset c => Sys2Proof.Machine.execHoodset c s
  | .mapCmd c => Sys2Proof.Machine.execMapCmd c s
  | .attrCmd c => Sys2Proof.Machine.execAttrCmd c s
  | .loadCmd c => Sys2Proof.Machine.execLoadCmd c s
  | .readCmd c => Sys2Proof.Machine.execReadCmd c s
  | .launchCmd c => Sys2Proof.Machine.execLaunchCmd c s
  | .hwgrant c => Sys2Proof.Machine.execHwgrant c s
  | .hwrevoke c => Sys2Proof.Machine.execHwrevoke c s
  | .sealCmd c => Sys2Proof.Machine.execSealCmd c s
  | .cntreadCounter c => Sys2Proof.Machine.execCntreadCounter c s
  | .cntreadRestartSummary c => Sys2Proof.Machine.execCntreadRestartSummary c s
  | .cntreadPort c => Sys2Proof.Machine.execCntreadPort c s
  | .cntreadCore c => Sys2Proof.Machine.execCntreadCore c s
  | .cntreadCorrections c => Sys2Proof.Machine.execCntreadCorrections c s
  | .logctlQuery c => Sys2Proof.Machine.execLogctlQuery c s
  | .logctlReplay c => Sys2Proof.Machine.execLogctlReplay c s
  | .attest c => Sys2Proof.Machine.execAttest c s
  | .collset c => Sys2Proof.Machine.execCollset c s
  | .jobend c => Sys2Proof.Machine.execJobend c s
  | .cregset c => Sys2Proof.Machine.execCregset c s
  | .badcmd code c => Sys2Proof.Machine.execBadcmd code c s
  | .packetReceive port supported job key body => Sys2Proof.Machine.execPacketReceive port supported job key body s
  | .linkRetry port => Sys2Proof.Machine.execLinkRetry port s
  | .peerAccess dev job idx off op => Sys2Proof.Machine.execPeerAccess dev job idx off op s
  | .grantNotice dev job idx len r w a => Sys2Proof.Machine.execGrantNotice dev job idx len r w a s
  | .wingrantAck job idx => Sys2Proof.Machine.execWingrantAck job idx s
  | .revocationNotice dev job idx => Sys2Proof.Machine.execRevocationNotice dev job idx s
  | .winrevComplete job idx => Sys2Proof.Machine.execWinrevComplete job idx s
  | .translation id => Sys2Proof.Machine.execTranslation id s
  | .homeAccess id => Sys2Proof.Machine.execHomeAccess id s
  | .bankAccess id => Sys2Proof.Machine.execBankAccess id s
  | .packageWindowAtomic id => Sys2Proof.Machine.execPackageWindowAtomic id s
  | .accessReply id refusal v => Sys2Proof.Machine.execAccessReply id refusal v s
  | .storeAck core j => Sys2Proof.Machine.execStoreAck core j s
  | .postedStoreRefusal core j cause => Sys2Proof.Machine.execPostedStoreRefusal core j cause s
  | .moved id => Sys2Proof.Machine.execMoved id s
  | .asyncTrap core slot => Sys2Proof.Machine.execAsyncTrap core slot s
  | .copyComplete core id => Sys2Proof.Machine.execCopyComplete core id s
  | .copyFault core id => Sys2Proof.Machine.execCopyFault core id s
  | .edgeRefusal core id hint => Sys2Proof.Machine.execEdgeRefusal core id hint s
  | .edgeResend core id => Sys2Proof.Machine.execEdgeResend core id s
  | .streamReadahead core q => Sys2Proof.Machine.execStreamReadahead core q s
  | .bankModeChangeComplete core bank => Sys2Proof.Machine.execBankModeChangeComplete core bank s
  | .flushComplete core slot => Sys2Proof.Machine.execFlushComplete core slot s
  | .sealComplete core slot => Sys2Proof.Machine.execSealComplete core slot s
  | .xlinvComplete core slot => Sys2Proof.Machine.execXlinvComplete core slot s
  | .attrsetComplete core slot => Sys2Proof.Machine.execAttrsetComplete core slot s
  | .mloadComplete core => Sys2Proof.Machine.execMloadComplete core s
  | .mloadRefused core => Sys2Proof.Machine.execMloadRefused core s
  | .rowEntry core => Sys2Proof.Machine.execRowEntry core s
  | .rowHandlerStart core h => Sys2Proof.Machine.execRowHandlerStart core h s
  | .tileOperationComplete core => Sys2Proof.Machine.execTileOperationComplete core s
  | .tileOperationFault core => Sys2Proof.Machine.execTileOperationFault core s
  | .tileSchedulerIssue cluster => Sys2Proof.Machine.execTileSchedulerIssue cluster s
  | .barrierArrival core n => Sys2Proof.Machine.execBarrierArrival core n s
  | .errorArrival core n => Sys2Proof.Machine.execErrorArrival core n s
  | .warmArrival id => Sys2Proof.Machine.execWarmArrival id s
  | .waddArrival id => Sys2Proof.Machine.execWaddArrival id s
  | .wstatArrival id => Sys2Proof.Machine.execWstatArrival id s
  | .wreadArrival id => Sys2Proof.Machine.execWreadArrival id s
  | .wdropArrival id => Sys2Proof.Machine.execWdropArrival id s
  | .wfreeArrival id => Sys2Proof.Machine.execWfreeArrival id s
  | .waleAddDone slice slot => Sys2Proof.Machine.execWaleAddDone slice slot s
  | .dequePop core => Sys2Proof.Machine.execDequePop core s
  | .dequePush id => Sys2Proof.Machine.execDequePush id s
  | .dequeRefill core => Sys2Proof.Machine.execDequeRefill core s
  | .mailboxArrival id => Sys2Proof.Machine.execMailboxArrival id s
  | .messageHandlerStart core => Sys2Proof.Machine.execMessageHandlerStart core s
  | .steal core => Sys2Proof.Machine.execSteal core s
  | .stealAnswer core => Sys2Proof.Machine.execStealAnswer core s
  | .grant core => Sys2Proof.Machine.execGrant core s
  | .empty core => Sys2Proof.Machine.execEmpty core s
  | .remoteSteal core => Sys2Proof.Machine.execRemoteSteal core s
  | .stealBackoffExpiry core => Sys2Proof.Machine.execStealBackoffExpiry core s
  | .stageRingTake core => Sys2Proof.Machine.execStageRingTake core s
  | .weaverSample die => Sys2Proof.Machine.execWeaverSample die s
  | .counterSample core => Sys2Proof.Machine.execCounterSample core s
  | .completionCounterEvent job lv n ev => Sys2Proof.Machine.execCompletionCounterEvent job lv n ev s
  | .launchEntryPlacement job lid => Sys2Proof.Machine.execLaunchEntryPlacement job lid s
  | .migrationSend core slot => Sys2Proof.Machine.execMigrationSend core slot s
  | .migrationArrival core slot => Sys2Proof.Machine.execMigrationArrival core slot s
  | .migrationAccept core slot => Sys2Proof.Machine.execMigrationAccept core slot s
  | .migrationRefuse core slot => Sys2Proof.Machine.execMigrationRefuse core slot s
  | .wakeArrival id => Sys2Proof.Machine.execWakeArrival id s
  | .followerDetach core => Sys2Proof.Machine.execFollowerDetach core s
  | .followTimeout core => Sys2Proof.Machine.execFollowTimeout core s
  | .preemptionStart src dst => Sys2Proof.Machine.execPreemptionStart src dst s
  | .preemptionStream src => Sys2Proof.Machine.execPreemptionStream src s
  | .preemptionResume src => Sys2Proof.Machine.execPreemptionResume src s
  | .forward id => Sys2Proof.Machine.execForward id s
  | .uncorrectableError core slot => Sys2Proof.Machine.execUncorrectableError core slot s
  | .hoodReset leader => Sys2Proof.Machine.execHoodReset leader s
  | .hoodResetEnd leader => Sys2Proof.Machine.execHoodResetEnd leader s
  | .refresh word correctable uncorrectable => Sys2Proof.Machine.execRefresh word correctable uncorrectable s
  | .goWord job c gen => Sys2Proof.Machine.execGoWord job c gen s
  | .collectiveContribution job c rank gen data => Sys2Proof.Machine.execCollectiveContribution job c rank gen data s
  | .lossNotice job c rank => Sys2Proof.Machine.execLossNotice job c rank s
  | .collectiveTimeout job c => Sys2Proof.Machine.execCollectiveTimeout job c s
  | .millinerSample r => Sys2Proof.Machine.execMillinerSample r s
  | .clockChange island mhz => Sys2Proof.Machine.execClockChange island mhz s
  | .droop island => Sys2Proof.Machine.execDroop island s
  | .droopRecovery island => Sys2Proof.Machine.execDroopRecovery island s
  | .firmwareStage image sig version => Sys2Proof.Machine.execFirmwareStage image sig version s
  | .boot microcode => Sys2Proof.Machine.execBoot microcode s
  | .supplyLoss thermal => Sys2Proof.Machine.execSupplyLoss thermal s
  | .phaseAEnd => Sys2Proof.Machine.execPhaseAEnd s
  | .phaseB room => Sys2Proof.Machine.execPhaseB room s
  | .illegalInstruction w => Sys2Proof.Machine.execIllegalInstruction w s
  | .fetchFault cause addr => Sys2Proof.Machine.execFetchFault cause addr s
  | .recordDeparture core vn => Sys2Proof.Machine.execRecordDeparture core vn s
  | .peerXlinv dev idx off => Sys2Proof.Machine.execPeerXlinv dev idx off s

end Sys2Proof.Machine
end

