-- ==== Sys2Proof/Machine/Spill.lean ====
section
/-!
DEFINITION. Spill rings as they lie in device memory (03 R57; 20 R343, R355, R356): the units of a job's spill area that each
takes, and the bytes of its entries there (log entry 66).
-/

namespace Sys2Proof.Machine

/-- A spill ring: its number, the job-table register of its place and its job, and its entries, oldest first: the words of a
record, or none where the manual does not say how the entry is laid out. -/
structure SpillRing where
  key  : Nat
  jt   : Word
  job  : BitVec 16
  ents : List (Option Rec)
  deriving DecidableEq

/-- What a spilled deque entry is stored as. -/
def DqEnt.stored : DqEnt → Option Rec
  | .one r => some (r.take 8)
  | .range .. => none

/-- The number of a core's spill ring: that of its deque, or of a mailbox. -/
def coreRing (c : Nat) (which : Nat) : Nat := 4 * c + which

/-- The number of a stage ring's spill ring. -/
def stageRing (die i : Nat) : Nat := 2048 + 16 * die + i

/-- The spill rings of a core's queues. -/
def State.coreRings (s : State) (c : Nat) (k : Core) : List SpillRing :=
  let r (which : Nat) (xs : List (Option Rec)) : SpillRing := ⟨coreRing c which, k.jtbase, s.coreJob c, xs⟩
  [r 0 (k.dspill.map DqEnt.stored), r 1 ((k.boxSpill false).map fun x => some (x.take 8)),
   r 2 ((k.boxSpill true).map fun x => some (x.take 8))]

/-- The spill rings of a die's stage rings, which its weaver fills for the lowest core of the job there. -/
def State.stageRings (s : State) (die : Nat) (w : Weaver) : List SpillRing :=
  w.spill.map fun x =>
    let job := w.ringJob x.1
    ⟨stageRing die x.1, (((s.ringCore die job).map s.core).map fun k => k.jtbase).getD 0, job, x.2.map fun r => some (r.take 8)⟩

/-- The wait rings: the entries of each job beyond the 512 that a slice holds. -/
def State.waitRings (s : State) : List SpillRing :=
  if s.waits.length ≤ 512 then []
  else (s.waits.map waitSlice).eraseDups.flatMap fun sl =>
    let more := (s.waitsAt sl).drop 512
    (more.map fun w => (s.strand w.2.2.1 w.2.2.2).job).eraseDups.map fun job =>
      let mine := more.filter fun w => (s.strand w.2.2.1 w.2.2.2).job = job
      ⟨4096 + 512 * job.toNat + sl, ((mine.head?.map fun w => (s.core w.2.2.1).jtbase).getD 0), job, mine.map fun _ => none⟩

/-- The spill rings that hold something. -/
def State.spillRings (s : State) : List SpillRing :=
  (s.cores.flatMap (fun x => s.coreRings x.1 x.2) ++ s.weavers.flatMap (fun x => s.stageRings x.1 x.2) ++ s.waitRings).filter
    fun r => r.ents ≠ []

/-- The address of the job's spill area. -/
def State.spillBase (s : State) (jt : Word) (job : BitVec 16) : Nat := bits (s.jobEntry jt job 2) 12 36 * 4096

/-- The units, by their addresses, that a ring of `n` entries takes: those that it has, then the lowest free ones of the
area. -/
def State.unitsFor (s : State) (r : SpillRing) : List Nat :=
  let need := unitsOf r.ents.length
  let own := (s.spills.look r.key []).take need
  let used := own ++ (s.spills.filter fun x => x.1 ≠ r.key).flatMap (·.2)
  let base := s.spillBase r.jt r.job
  let size := bits (s.jobEntry r.jt r.job 4) 0 32
  let room := ((List.range (min size (used.length + need))).map fun i => base + 4096 * i).filter fun a => !used.contains a
  own ++ room.take (need - own.length)

/-- Where entry `i` of a ring lies. -/
def State.entryAt (s : State) (key i : Nat) : Option Nat :=
  ((s.spills.look key [])[i / 64]?).bind fun a => if isDram a then some (a + 64 * (i % 64)) else none

/-- The words that an entry is stored as: free ones where its layout is open. -/
def State.entryWords (s : State) (e : Option Rec) : List Word :=
  match e with
  | some r => r.take 8
  | none => (List.range 8).map fun i => Config.freeValue (s.free + i)

/-- An entry is written at its place. -/
def State.storeEnt (job : BitVec 16) (key : Nat) (s : State) (x : Option Rec × Nat) : State :=
  match s.entryAt key x.2 with
  | some a =>
    let bs := (s.entryWords x.1).flatMap fun w => leBytes 8 w.toNat
    let s := s.homeWrite job a bs
    if x.1.isNone then { s with free := s.free + 8 } else s
  | none => s

/-- A ring that has changed is laid out: its units are taken, or returned, and its entries written. -/
def State.layOut (s : State) (r : SpillRing) : State :=
  let us := s.unitsFor r
  let s := { s with spills := if us = [] then s.spills.del r.key else s.spills.put r.key us }
  r.ents.zipIdx.foldl (State.storeEnt r.job r.key) s

/-- A spilled record as memory holds it. -/
def State.reread (s : State) (key i : Nat) (r : Rec) : Rec :=
  match s.entryAt key i with
  | some a => (List.range 8).map (fun j => word (s.homeRead (a + 8 * j) 8)) ++ r.drop 8
  | none => r

/-- The spill rings hold what memory holds: a store into the spill area changes what comes back from there. -/
def State.spillsRead (s : State) : State :=
  let recs (key : Nat) (rs : List Rec) : List Rec := rs.zipIdx.map fun x => s.reread key x.2 x.1
  let ent (key : Nat) (x : DqEnt × Nat) : DqEnt := match x.1 with
    | .one r => .one (s.reread key x.2 r)
    | e => e
  let core (c : Nat) (k : Core) : Core :=
    { k with dspill := k.dspill.zipIdx.map (ent (coreRing c 0)),
             mspill := k.mspill.map fun x => (x.1, recs (coreRing c (x.1 + 1)) x.2) }
  let weaver (die : Nat) (w : Weaver) : Weaver :=
    { w with spill := w.spill.map fun x => (x.1, recs (stageRing die x.1) x.2) }
  { s with cores := s.cores.map fun x => (x.1, core x.1 x.2), weavers := s.weavers.map fun x => (x.1, weaver x.1 x.2) }

/-- After a step from `s0`: the rings that it has changed are laid out, those that returned units first; the others hold what
memory holds. -/
def State.spilt (s s0 : State) : State :=
  let new := s.spillRings
  let old := s0.spillRings
  if new = [] ∧ s.spills = [] then s
  else
    let gone := (s.spills.filter fun x => !(new.any fun r => r.key = x.1)).map (·.1)
    let s := { s with spills := s.spills.filter fun x => !gone.contains x.1 }
    let changed := new.filter fun r => !old.contains r
    if changed = [] then s.spillsRead
    else changed.foldl State.layOut s

end Sys2Proof.Machine
end

