-- ==== Sys2Proof/Machine/Turns.lean ====
section
/-!
DEFINITION. What a step does: issuing the next instruction of a strand (02 R24; 03 R48 to R51, R63, R64; 08 R154 to
R158; 18 R310, R312), the turns of the agenda, and what happens where the agenda is empty (log entry 4).
-/

namespace Sys2Proof.Machine

/-! Whether a strand may issue. -/

/-- The first instruction after a window waits for its result (08 R154 item 4), and nothing issues past a store with ord
11 until it is acknowledged (08 R153). -/
def Strand.windowOver (t : Strand) : Bool :=
  t.outs.any fun o => o.left = 0 && o.acc.isSome && (o.dst.isSome || o.full)

/-- Majors whose instructions are confined to the strand's registers and pc, and loads (08 R155, R159). -/
def confined (w : BitVec 32) : Bool :=
  let m := bits w 26 6
  (decide (1 ≤ m) && decide (m ≤ 0x0C)) || (decide (0x10 ≤ m) && decide (m ≤ 0x19)) || m = 0x20 ||
    (decide (0x30 ≤ m) && decide (m ≤ 0x32)) || m = 0x34

/-- Majors of the memory and engine units but for loads, stores, atomics and fences (08 R159, 03 R410). -/
def beyondScalar (w : BitVec 32) : Bool :=
  let m := bits w 26 6
  m = 0x22 || (decide (0x28 ≤ m) && decide (m ≤ 0x2B)) || m = 0x33 || decide (0x35 ≤ m)

/-- Whether an instruction waits until earlier memory instructions of its strand are known not to fault: any but those
confined, while a late writer is not complete (08 R155). One that uses the own scratch otherwise than by address waits for the
strand's stores there. -/
def State.mustWait (s : State) (c n : Nat) (w : BitVec 32) : Bool :=
  let t := s.strand c n
  (!confined w && t.accOut && t.outs.any fun o => !s.isStoreOut o) ||
    (beyondScalar w && s.accs.any fun x => x.2.core = c && x.2.slot = n && x.2.stage = .bank && x.2.kind.isStore)

/-- The unit that an instruction word needs, by its major opcode (03 R410). -/
def unitOf (w : BitVec 32) : FuncUnit :=
  let m := bits w 26 6
  if m ≤ 0x1A then .scalar
  else if (0x30 ≤ m ∧ m ≤ 0x32) ∨ m = 0x34 then .vector
  else if (0x20 ≤ m ∧ m ≤ 0x24) ∨ (0x29 ≤ m ∧ m ≤ 0x2B) ∨ m = 0x33 then .memory
  else .engine

/-- How many units of a kind a core has. -/
def FuncUnit.count : FuncUnit → Nat
  | .scalar | .vector => 2
  | _ => 1

/-- Whether the core has an issue slot of this cycle, and a unit of a kind, to give to a strand that has not issued in it
(03 R48). -/
def Core.room (k : Core) (n : Nat) (u : FuncUnit) : Bool :=
  decide (k.slots.length < 2) && !(k.slots.any fun x => x.1 = n) && decide ((k.slots.map (·.2)).count u < u.count)

/-- Whether a strand may issue, its turn apart: it is READY, its power and place allow it, it does not follow another. -/
def State.mayIssue (s : State) (c n : Nat) : Bool :=
  let t := s.strand c n
  t.isReady && s.mayRun c n && !(s.core c).halted && t.fl ≠ .follower && t.fl ≠ .waitLead

/-- Whether a follower can execute what its lead issues, the word `w`. -/
def State.mayFollow (s : State) (w : BitVec 32) (c n : Nat) : Bool :=
  let t := s.strand c n
  t.runs && t.fl = .follower && s.mayRun c n && !(s.core c).halted && t.held.isNone && (s.nextAsync c n).isNone &&
    !t.windowOver && !s.mustWait c n w && (s.core c).room n (unitOf w)

/-! Executing one instruction for a strand. -/

/-- The state that a meaning answers. -/
def resState (r : Res) (s : State) : State :=
  match r with
  | .next s => s
  | _ => s

/-- A strand of the core has filled an issue slot (03 R48, 17 R303). -/
def State.counted (s : State) (c n : Nat) (u : FuncUnit) : State :=
  s.modCore c fun k =>
    { k with issued := k.issued + 1, slots := k.slots ++ [(n, u)], recent := n :: k.recent.filter (· ≠ n) }

/-- Whether a strand has executed what it was given: it did not block. -/
def State.went (s : State) (c n : Nat) : Bool := (s.strand c n).st ≠ .blocked

/-- An instruction, the word `w`, executed for a strand: it fills an issue slot unless the strand cannot go on. -/
def State.execFor (s : State) (c n : Nat) (w : BitVec 32) (i : Instr) : Res :=
  match exec i { s with cur := ⟨c, n⟩ } with
  | .next t => .next (if t.went c n then t.counted c n (unitOf w) else { t with cur := s.cur })
  | r => r

/-- What a fetch brings in place of an instruction happens to a strand: it fills no issue slot. -/
def State.metFor (s : State) (c n : Nat) (f : State → Res) : Res :=
  match f { s with cur := ⟨c, n⟩ } with
  | .next t => .next (if t.went c n then t else { t with cur := s.cur })
  | r => r

/-! Lead streams (03 R63, R64). -/

/-- Strands of the lead's job in its cluster that wait for a lead become its followers, at its pc. -/
def State.gather (s : State) (cl : Nat) (job : BitVec 16) (pc : Word) : State :=
  let f (t : Strand) : Strand := if t.fl = .waitLead ∧ t.job = job then { t with fl := .follower, pc := pc, age := 0 } else t
  (clusterCores cl).foldl (fun s c =>
    if (s.core c).strands.any fun x => x.2.fl = .waitLead
    then s.modCore c fun k => { k with strands := k.strands.map fun x => (x.1, f x.2) } else s) s

/-- Each follower executes the instruction on its own registers; the answer says whether one blocked. -/
def State.followAll (w : BitVec 32) (i : Instr) : List (Nat × Nat) → State → State × Bool
  | [], s => (s, true)
  | (c, n) :: xs, s =>
    if (s.strand c n).fl ≠ .follower then State.followAll w i xs s
    else
      let s := resState (s.execFor c n w i) s
      if s.went c n then State.followAll w i xs s else (s, false)

/-- The instructions at which each follower computes its own next pc (03 R64). -/
def ownPc : Instr → Bool
  | .beq .. | .bne .. | .blt .. | .bge .. | .bltn .. | .bgen .. | .jr _ | .callr _ | .ret => true
  | _ => false

/-- After such an instruction, followers whose next pc differs from the lead's detach (03 R64). -/
def State.part (s : State) (i : Instr) (xs : List (Nat × Nat)) (pc : Word) : State :=
  if !ownPc i then s
  else xs.foldl (fun s x =>
    let t := s.strand x.1 x.2
    if t.fl = .follower ∧ t.pc ≠ pc then s.modStrand x.1 x.2 fun t => { t with fl := .none } else s) s

/-- The strand waits: it is BLOCKED until what it waits for has come (02 R24). -/
def State.stall (s : State) (c n : Nat) : State := s.modStrand c n fun t => { t with st := .blocked }

/-- Whether a strand has been given an instruction that it has not executed, nor will go on from: it blocks, it parks on a
translation, its trap is held. -/
def Strand.pends (t : Strand) : Bool :=
  match t.st with
  | .blocked | .parked (.xlate _) => true
  | _ => t.held.isSome

/-- A follower that has executed the instruction that it owed follows on. -/
def State.paid (s : State) (c n : Nat) : State :=
  s.modStrand c n fun t => if t.fl = .owes ∧ !t.pends then { t with fl := .follower } else t

/-- A strand executes an instruction, the word `w`; a lead does so with its followers, and only when each of them can. -/
def State.execLed (s : State) (c n : Nat) (w : BitVec 32) (i : Instr) : Res :=
  if (s.strand c n).fl ≠ .lead then
    match s.execFor c n w i with
    | .next t => .next (if (s.strand c n).fl = .owes then t.paid c n else t)
    | r => r
  else
    let g := s.gather (clusterOf c) (s.strand c n).job (s.strand c n).pc
    let xs := g.followers (clusterOf c)
    if !xs.all fun x => g.mayFollow w x.1 x.2 then .next (s.stall c n)
    else match g.execFor c n w i with
      | .next l =>
        if (l.strand c n).pends ∨ (l.strand c n).fl ≠ .lead then .next l
        else
          let (f, ok) := State.followAll w i xs l
          .next (if ok then f.part i xs (f.strand c n).pc else s.stall c n)
      | r => r

/-! Issue. -/

/-- A replay after one of its instructions has issued: every strand that executed it stays at the RPT until the body has
been replayed (08 R157). -/
def State.replayed (s : State) (c : Nat) (r : Replay) (pc : Word) : State :=
  let npc := if r.next.isSome then pc else pc + 4 + 4 * word r.body.length
  let move (s : State) (x : Nat × Nat) : State := s.modStrand x.1 x.2 fun t => { t with pc := npc }
  let xs := (s.followers (clusterOf c)).filter fun _ => (s.strand c r.slot).fl = .lead
  ((move s (c, r.slot)) |> xs.foldl move).modCore c fun k => { k with replay := r.next }

/-- The next instruction of a replay issues. -/
def State.issueReplay (s : State) (c n : Nat) (r : Replay) : Res :=
  match r.instr with
  | none => .next s
  | some i =>
    match s.execLed c n (r.body.getD r.j 0) i with
    | .next t => .next (if t.went c n then t.replayed c r (s.strand c n).pc else t)
    | x => x

/-- The word at the strand's pc is fetched and executed (08 R159; 09 R178; 20 R344). A pc that is not aligned, which only
ERET can leave, traps as a jump to it does (18 R313). -/
def State.issueFetch (s : State) (c n : Nat) : Res :=
  let t := s.strand c n
  if t.pc.toNat % 4 ≠ 0 then s.metFor c n (execFetchFault (Cause.badAddr.setWidth 6) t.pc)
  else match s.fetch (s.party c t.job t.sup) t.pc with
  | .bad s e => s.metFor c n (execFetchFault (e.setWidth 6) t.pc)
  | .invalid s e p => s.metFor c n fun s => .next (s.invalidAt e p t.pc)
  | .ok s w =>
    match decode w with
    | .error _ => s.metFor c n (execIllegalInstruction w)
    | .ok i => if s.mustWait c n w then .next (s.stall c n) else s.execLed c n w i

/-- What is left of a replay goes on in the core's sequencer buffer (03 R63). -/
def State.resumeReplay (s : State) (c n : Nat) (r : Replay) : Res :=
  ((s.modStrand c n fun t => { t with rest := none }).modCore c fun k => { k with replay := some r }).issueReplay c n r

/-- A strand goes on: a trap held for it is taken, then an asynchronous one (18 R312), else its next instruction is
executed. It is BLOCKED where it must wait. -/
def State.runNext (s : State) (c n : Nat) : Res :=
  let t := s.strand c n
  match t.held with
  | some (i, epc) => .next ((s.modStrand c n fun t => { t with held := none }).takeTrap c n i epc)
  | none =>
    if (s.nextAsync c n).isSome then .next (s.takeAsync c n)
    else if t.windowOver then .next (s.stall c n)
    else match (s.core c).replay, t.rest with
      | some r, none => if r.slot = n then s.issueReplay c n r else s.issueFetch c n
      | some _, some _ => .next (s.stall c n)
      | none, some r => s.resumeReplay c n r
      | none, none => s.issueFetch c n

/-! Who issues (03 R48). -/

/-- Whether a strand that has executed YIELD takes no issue slot in this cycle: another strand of the core is a candidate in
it (12 R255). -/
def State.yieldsTo (s : State) (c n : Nat) : Bool :=
  (s.strand c n).yields && isGeneral n && (s.core c).strands.any fun x =>
    x.1 ≠ n && (s.mayIssue c x.1 || (s.core c).slots.any fun y => y.1 = x.1)

/-- The classes of waiting strands that a strand inherits (03 R50). -/
def State.classOf (s : State) (c n : Nat) : Nat :=
  let k := s.core c
  let t := k.strand n
  let lifts (x : Nat × Strand) : Option Nat := match x.2.st with
    | .parked (.bar b ..) => if isGeneral x.1 ∧ !((k.bar b).who.contains n) then some x.2.prio.toNat else none
    | _ => none
  (k.strands.filterMap lifts).foldl min t.prio.toNat

/-- The order of a core's strands for issue, equals apart (03 R48, R50, R51): lower goes first. -/
def State.rankOf (s : State) (c n : Nat) : Nat × Nat × Nat :=
  let k := s.core c
  let t := k.strand n
  let bound := if k.mode then k.agewin.toNat else 2 ^ 20
  if isGeneral n ∧ bound ≤ t.age then (0, 2 ^ 64 - t.age, n)
  else if isRow n then (1, n, 0)
  else if n = msgSlot then (2, 0, 0)
  else (3, if k.mode then 3 - t.role.toNat else s.classOf c n, 0)

/-- A strand's place among its equals: round robin by slot number, starting after the slot that issued last among
them. -/
def State.turnOf (s : State) (c n : Nat) : Nat :=
  let k := s.core c
  let last := (k.recent.find? fun m => (k.strand m).live && s.rankOf c m = s.rankOf c n).getD 15
  (n + 16 - (last + 1) % 16) % 16

/-- Whether strand `a` of a core goes before strand `b`. -/
def State.before (s : State) (c a b : Nat) : Bool :=
  let x := s.rankOf c a
  let y := s.rankOf c b
  x.1 < y.1 || (x.1 = y.1 && (x.2.1 < y.2.1 || (x.2.1 = y.2.1 && (x.2.2 < y.2.2 ||
    (x.2.2 = y.2.2 && s.turnOf c a < s.turnOf c b)))))

/-- The unit that a strand's next instruction needs; a fetch that fails takes a scalar unit. -/
def State.unitNext (s : State) (c n : Nat) : FuncUnit :=
  let t := s.strand c n
  match t.rest, (s.core c).replay with
  | some r, _ => unitOf (r.body.getD r.j 0)
  | none, some r => if r.slot = n then unitOf (r.body.getD r.j 0) else fetched t
  | none, none => fetched t
where
  fetched (t : Strand) : FuncUnit := match s.fetch (s.party c t.job t.sup) t.pc with
    | .ok _ w => unitOf w
    | _ => .scalar

/-- Whether a strand may take an issue slot of this cycle: it may issue, it has not issued in it nor yields it, and the unit
it needs is free. -/
def State.candidate (s : State) (c n : Nat) : Bool :=
  s.mayIssue c n && !s.yieldsTo c n && ((s.core c).slots = [] || (s.core c).room n (s.unitNext c n))

/-- The candidate that a core's next issue slot of this cycle goes to: the highest in the order of 03 R48. -/
def State.nextCand (s : State) (c : Nat) : Option Nat :=
  ((s.core c).strands.filter fun x => s.candidate c x.1).foldl (fun b x => match b with
    | none => some x.1
    | some m => if s.before c x.1 m then some x.1 else b) none

/-- A strand's turn to issue: nothing happens where the core's next issue slot of this cycle is not its. -/
def State.issue (s : State) (c n : Nat) : Res := if s.nextCand c = some n then s.runNext c n else .next s

/-- A BLOCKED strand is READY once what it waits for has come (02 R24): its instruction could go on. -/
def State.unblock1 (s : State) (c n : Nat) (t : Strand) : Strand :=
  if t.st ≠ .blocked then t
  else
    let s := s.modStrand c n fun t => { t with st := .ready }
    match s.runNext c n with
    | .next u => if u.went c n then { t with st := .ready } else t
    | _ => { t with st := .ready }

/-- After a step, BLOCKED strands for which the awaited event has occurred are READY. -/
def State.unblocked (s : State) : State :=
  let f (c : Nat) (k : Core) : Core :=
    if k.strands.any fun x => x.2.st = .blocked then
      { k with strands := k.strands.map fun x => (x.1, s.unblock1 c x.1 x.2) }
    else k
  { s with cores := s.cores.map fun x => (x.1, f x.1 x.2) }

/-! Time. -/

/-- `n` cycles pass for a core, the first of them cycle `at0` of 1024, and none beyond its end: strands age that wait to
issue (03 R48), new issue slots are there, a core without a READY strand counts its cycles, and its counts are taken when the
1024 cycles are whole (17 R303); a back-off runs down (03 R54). -/
def Core.tick (k : Core) (at0 n : Nat) : Core :=
  let old (t : Strand) : Strand := if t.live then { t with age := t.age + n } else t
  let idle := if k.strands.any fun x => x.2.isReady then k.idle else k.idle + n
  let k := { k with strands := k.strands.map fun x : Nat × Strand => (x.1, old x.2), slots := [],
                    thief := { k.thief with backoff := k.thief.backoff.map (· - n) } }
  if at0 + n < 1024 then { k with idle := idle }
  else { k with window := (k.issued, idle), issued := 0, idle := 0, due := true }

/-- Strands that have yielded a cycle to another candidate do so no more (12 R255): the one that passes, or one of `n - 1`
more. -/
def State.yielded (s : State) (c n : Nat) (k : Core) : Core :=
  let slot (m : Nat) : Bool := k.slots.any fun y => y.1 = m
  let gave (m : Nat) : Bool := k.strands.any fun x =>
    x.1 ≠ m && ((decide (1 < n) && s.mayIssue c x.1) || (!slot m && (slot x.1 || s.mayIssue c x.1)))
  if k.strands.any fun x => x.2.yields then
    { k with strands := k.strands.map fun x => (x.1, if x.2.yields ∧ gave x.1 then { x.2 with yields := false } else x.2) }
  else k

/-- The samples of an island that are due are taken, before its next cycle (17 R303, 03 R59). -/
def State.takeDue (s : State) (i : Nat) : State :=
  let s := ((s.cores.filter fun x => islandOf x.1 = i && x.2.due).map (·.1)).foldl State.sampleCore s
  if i % 4 = 0 && (s.weaver (i / 4)).due then s.sampleDie (i / 4) else s

/-- Cycles of an island pass: `n`, or as many as end at its next sample. CYCLE counts them (17 R300), and so do its cores and
the weaver of its die. -/
def State.tick (s : State) (i : Nat) (n : Nat) : State :=
  let s := s.takeDue i
  let at0 := (s.island i).cycle.toNat
  let n := min n (1024 - at0 % 1024)
  let t := s.modIsland i fun x => { x with cycle := x.cycle + word n }
  let t := { t with cores := t.cores.map fun x =>
    (x.1, if islandOf x.1 = i then (s.yielded x.1 n x.2).tick (at0 % 1024) n else x.2) }
  if i % 4 = 0 ∧ 0 < n ∧ (at0 + n) % 4096 = 0 then t.modWeaver (i / 4) fun w => { w with due := true } else t

/-- One cycle of every island passes. -/
def State.cycle (s : State) : State := (List.range 24).foldl (fun s i => s.tick i 1) s

/-! Turns of the agenda. -/

/-- Whether a step is an event: it has no encoding, and is not one that a fetch brings. -/
def isEvent : Instr → Bool
  | .illegalInstruction _ | .fetchFault .. => false
  | i => (encode i).isNone

/-- A packet on its way arrives: a wake, an arrival at a barrier, an answer of a steal. -/
def State.arrives (s : State) (id : Nat) : Res :=
  match s.packets.find? fun p => p.id = id with
  | none => .next s
  | some p => match p.flit with
    | .wake .. => execWakeArrival id s
    | .arrive _ | .errArrive .. => .next (s.arrival p.dst p)
    | .grant _ => execGrant p.dst s
    | .empty => execEmpty p.dst s

/-- One turn. -/
def State.turn (s : State) : Turn → Res
  | .issue c n => if coreOk c && slotOk n then s.issue c n else .fault .badTurn
  | .event i => if isEvent i && i.wf then exec i s else .fault .badTurn
  | .tick i n => .next (s.tick i.val n)
  | .copyElem c id n => if coreOk c then .next (s.copyElems c id n) else .fault .badTurn
  | .xlEvict n => .next { s with xlates := s.xlates.eraseIdx n }
  | .writeBack line bad => .next (s.writeBackHome line bad)
  | .correct w => .next (s.correct w.val)
  | .spoil at_ => .next (s.spoil at_)
  | .offer die ring r => .next (s.ringOffer die ring r)
  | .packet id => s.arrives id
  | .peerAck n => .next (s.peerAck n)
  | .join dev => .next (s.join dev.val)
  | .leave => .next s.leave

/-- The state after a step from `s0`: spill rings stand in memory, strands are READY whose wait the step has ended. -/
def State.settled (s s0 : State) : State := (s.spilt s0).unblocked

/-- What a turn answers, settled. -/
def settledFrom (s0 : State) (r : Res) : Res :=
  match r with
  | .next s => .next (s.settled s0)
  | r => r

/-! What happens where the agenda is empty (log entry 4). In one cycle of every 64 of island 0: the first event on its way
that can happen; else the job whose front end can go on; else work starts on a core; else the strand that 03 R48 picks on
the next core that has one. In the other cycles a strand goes first. Where nothing can happen, a cycle passes. -/

/-- What an event does. -/
abbrev Event1 := State → Res

/-- Events of accesses, wale operations, records, packets and counters on their way. -/
def State.inFlight (s : State) : List Event1 :=
  let acc (x : Nat × Access) : List Event1 := match x.2.stage with
    | .xlate _ => [execTranslation x.1]
    | .home .. => [execMoved x.1, execHomeAccess x.1]
    | .bank => [execBankAccess x.1]
    | .pwa => [execPackageWindowAtomic x.1]
    | .outside => []
  let wale (x : Nat × WaleReq) : Event1 := match x.2.op with
    | .warm _ => execWarmArrival x.1
    | .wadd .. => execWaddArrival x.1
    | .wstat _ => execWstatArrival x.1
    | .wread .. => execWreadArrival x.1
    | .wdrop _ => execWdropArrival x.1
    | .wfree _ => execWfreeArrival x.1
  let pack (p : Packet) : Event1 := match p.flit with
    | .wake .. => execWakeArrival p.id
    | .arrive n => execBarrierArrival p.dst n
    | .errArrive n _ => execErrorArrival p.dst n
    | .grant _ => execGrant p.dst
    | .empty => execEmpty p.dst
  s.accs.flatMap acc ++ s.wreqs.map wale ++ (s.packets.flatMap fun p => [execForward p.id, pack p]) ++
    (s.mails.flatMap fun m => [execForward m.id, execMailboxArrival m.id, execDequePush m.id]) ++
    s.ctrs.map fun x => execCompletionCounterEvent x.job x.lv x.n x.ev

/-- Events of the engines and queues of a core. -/
def State.ofCore (s : State) (c : Nat) : List Event1 :=
  let k := s.core c
  let entry (x : Nat × JEnt) : List Event1 :=
    if x.2.v then
      [execStoreAck c (Fin.ofNat 64 x.1)] ++ x.2.lanes.filterMap fun l =>
        (s.collWindow true l.addr).map fun w => execGoWord x.2.job (Fin.ofNat 32 w.1) (word l.v)
    else []
  let strand (x : Nat × Strand) : List Event1 :=
    (if x.2.traps ≠ [] ∧ !x.2.runs then [execAsyncTrap c x.1] else []) ++
    match x.2.st with
    | .waiting (.flush ..) => [execFlushComplete c x.1]
    | .waiting (.xlinv ..) => [execXlinvComplete c x.1]
    | .waiting (.attrset ..) => [execAttrsetComplete c x.1]
    | .waiting (.sealing ..) => [execSealComplete c x.1]
    | .moving _ => [execMigrationSend c x.1, execMigrationArrival c x.1, execMigrationAccept c x.1, execMigrationRefuse c x.1]
    | _ => []
  let copies := k.copies.flatMap fun x => [execEdgeResend c x.id, execCopyComplete c x.id, execCopyFault c x.id]
  k.journal.flatMap entry ++ k.strands.flatMap strand ++ copies ++
    (k.queues.map fun x => execStreamReadahead c (Fin.ofNat 8 x.1)) ++
    (k.busy.map fun x => execBankModeChangeComplete c (Fin.ofNat 16 x.1)) ++
    (if k.matrix.busy then
      [execMloadComplete c, execMloadRefused c, execTileOperationFault c, execTileOperationComplete c,
       execRowHandlerStart c 0, execRowHandlerStart c 1, execRowEntry c] else []) ++
    [execRecordDeparture c true, execRecordDeparture c false, execStealAnswer c, execMessageHandlerStart c]

/-- Events of the schedulers, the wale arrays, launches held and pre-emptions. -/
def State.ofPart (s : State) : List Event1 :=
  (s.scheds.map fun x => execTileSchedulerIssue x.1) ++
    (s.wales.map fun x => execWaleAddDone (x.1 / 64) (x.1 % 64)) ++
    (s.jobs.flatMap fun x => (x.2.launches.filter fun l => l.2.entry.isSome).map fun l =>
      execLaunchEntryPlacement (BitVec.ofNat 16 x.1) l.1) ++
    (s.preempts.flatMap fun p => [execPreemptionStream p.src, execPreemptionResume p.src]) ++
    s.hoods.flatMap fun h => [execHoodReset h.leader, execHoodResetEnd h.leader]

/-- Where a core takes work of its own. -/
def startsOf (c : Nat) : List Event1 := [execDequePop c, execDequeRefill c, execStageRingTake c, execStealBackoffExpiry c]

/-- Where a core asks others for work. -/
def stealsOf (c : Nat) : List Event1 := [execSteal c, execRemoteSteal c]

/-- Whether an event would change the state. -/
def State.moves1 (s : State) (e : Event1) : Bool :=
  match e s with
  | .next t => t ≠ s
  | _ => false

/-- Issue slots of this cycle filled on a core, as far as `n` attempts go. -/
def State.issueN (c : Nat) : Nat → State → State
  | 0, s => s
  | k + 1, s => match s.nextCand c with
    | some n => State.issueN c k (resState (s.runNext c n) s)
    | none => s

/-- One cycle of issue on a core: at most two instructions of different strands (03 R48). -/
def State.issueCore (s : State) (c : Nat) : State := State.issueN c 40 s

/-- A cycle of issue on the first core of those given where it changes the state. -/
def State.issueOn (s : State) (cs : Tab Core) : Option State :=
  firstSome (fun x => let t := s.issueCore x.1; if t ≠ s then some t else none) cs

/-- Cores take turns, from the one after the core that issued last; a cycle of every island passes each time the first
core has its turn again. -/
def State.pickIssue (s : State) : Option State :=
  (s.issueOn (s.cores.filter fun x => s.cur.core < x.1)).or
    (s.cycle.issueOn (s.cores.filter fun x => x.1 ≤ s.cur.core))

/-- The first event of a list that changes the state, done. -/
def State.pickEvent (s : State) (l : List Event1) : Option State :=
  (l.find? s.moves1).map fun e => resState (e s) s

/-- The front end of a job that can go on. -/
def State.pickJob (s : State) : Option State :=
  firstSome (fun x =>
    let t := s.pumpJob (BitVec.ofNat 16 x.1)
    if t ≠ s then some t else none) s.jobs

/-- An event, a front end or a start of work, where one can happen. -/
def State.pickOther (s : State) : Option State :=
  let cs := s.cores.map fun x => x.1
  ((s.pickEvent (s.inFlight ++ cs.flatMap s.ofCore ++ s.ofPart)).or s.pickJob).or
    (s.pickEvent (cs.flatMap startsOf ++ cs.flatMap stealsOf))

/-- What happens where the agenda is empty. -/
def State.onward (s : State) : State :=
  (if (s.island 0).cycle.toNat % 64 = 0 then s.pickOther.or s.pickIssue else s.pickIssue.or s.pickOther).getD s.cycle

/-! Placing an instruction (log entry 3). -/

/-- A word stands at the start of DRAM, slot 0 of core 0 holds a READY strand in a trap handler at that physical address,
and the next turn is its issue. -/
def State.placed (s : State) (nbits w : Nat) : State :=
  let t : Strand := { Strand.empty with st := .ready, sup := true, intrap := true, pc := physForm 0 }
  { s.setStrand 0 0 t with mem := s.mem.putBytes 0 (leBytes 4 (w % 2 ^ nbits)), agenda := [.issue 0 0] }

end Sys2Proof.Machine
end

