-- ==== Sys2Proof/Machine/Step.lean ====
section
/-!
DEFINITION. One step of the part: the first turn of the agenda, or what happens of itself where there is none; and the
placing of one instruction where the next step fetches.
-/

namespace Sys2Proof.Machine

/-- One step. -/
def step (s : State) : Host.Outcome State Fault Refusal :=
  match s.agenda with
  | t :: rest => settledFrom s (({ s with agenda := rest } : State).turn t)
  | [] => .next (s.onward.settled s)

/-- The state with a word placed where the next step fetches (log entry 3). -/
def State.withFetchWord (s : State) (nbits w : Nat) : State := s.placed nbits w

end Sys2Proof.Machine
end

