-- ==== Sys2Proof/Safety.lean ====
section
/-!
DEFINITION. What is asked of a state: the canonical form of its memories.
-/

namespace Sys2Proof.Machine

/-- Every memory of the part is in canonical form: DRAM with the save store, and every core's local scratch. -/
def State.MemoriesWf (s : State) : Prop := s.mem.wf = true ∧ ∀ x ∈ s.cores, x.2.scratch.wf = true

end Sys2Proof.Machine
end

