-- ==== Sys2Proof/Certificates/Slice0/Obligations.lean ====
section
/-!
DEFINITION. The statements for the provers. The first part is their vocabulary: what rules of spec/ compute, said in
terms of bits, integers and lists, apart from the meanings; then the statements, by family.
-/

open Sys2Proof Sys2Proof.Machine

namespace Sys2Proof.Claims

/-! Vocabulary. -/

/-- Nothing that the issuing strand has executed is outstanding: no open window, no access that has not returned. -/
def Quiet (s : State) : Prop := s.me.outs = []

/-- The issuing strand after an instruction that goes on at `p`, where nothing was outstanding. -/
def wentOn (t : Strand) (p : Word) : Strand :=
  { t with pc := p, st := .ready, age := 0, nohint := false }

/-- The state with the issuing strand replaced. -/
def withMe (s : State) (t : Strand) : State := s.setStrand s.cur.core s.cur.slot t

/-- A truth value as a word. -/
def truth (p : Prop) [Decidable p] : Word := if p then 1 else 0

/-- The longest run of positions from 0 up, of 64, at which a test holds. -/
def run64 (p : Nat → Bool) : Word := BitVec.ofNat 64 ((List.range 64).takeWhile p).length

/-- The value that R170 and R171's SEL give an instruction of major 0x01, with the register it goes to. -/
def regReg (r : GReg → Word) : Instr → Option (GReg × Word)
  | .add d a b => some (d, r a + r b)
  | .sub d a b => some (d, r a - r b)
  | .mul d a b => some (d, BitVec.ofNat 64 ((r a).toNat * (r b).toNat))
  | .mulh d a b => some (d, (((r a).signExtend 128 * (r b).signExtend 128) >>> 64).setWidth 64)
  | .mulhn d a b => some (d, (((r a).zeroExtend 128 * (r b).zeroExtend 128) >>> 64).setWidth 64)
  | .div d a b => some (d, if r b = 0 then 0xFFFFFFFFFFFFFFFF else (r a).sdiv (r b))
  | .divn d a b => some (d, if r b = 0 then 0xFFFFFFFFFFFFFFFF else (r a).udiv (r b))
  | .rem d a b => some (d, if r b = 0 then r a else (r a).srem (r b))
  | .remn d a b => some (d, if r b = 0 then r a else (r a).umod (r b))
  | .and d a b => some (d, r a &&& r b)
  | .or d a b => some (d, r a ||| r b)
  | .xor d a b => some (d, r a ^^^ r b)
  | .andn d a b => some (d, r a &&& ~~~(r b))
  | .orn d a b => some (d, r a ||| ~~~(r b))
  | .shl d a b => some (d, r a <<< ((r b).setWidth 6).toNat)
  | .shr d a b => some (d, r a >>> ((r b).setWidth 6).toNat)
  | .sra d a b => some (d, BitVec.ofInt 64 ((r a).toInt / 2 ^ ((r b).setWidth 6).toNat))
  | .rot d a b => some (d, let n := ((r b).setWidth 6).toNat; (r a <<< n) ||| (r a >>> (64 - n)))
  | .clz d a => some (d, run64 fun i => !(r a).getLsbD (63 - i))
  | .ctz d a => some (d, run64 fun i => !(r a).getLsbD i)
  | .popc d a => some (d, BitVec.ofNat 64 ((List.range 64).countP fun i => (r a).getLsbD i))
  | .min d a b => some (d, if (r a).toInt ≤ (r b).toInt then r a else r b)
  | .max d a b => some (d, if (r a).toInt ≤ (r b).toInt then r b else r a)
  | .minn d a b => some (d, if (r a).toNat ≤ (r b).toNat then r a else r b)
  | .maxn d a b => some (d, if (r a).toNat ≤ (r b).toNat then r b else r a)
  | .slt d a b => some (d, truth ((r a).toInt < (r b).toInt))
  | .sltn d a b => some (d, truth ((r a).toNat < (r b).toNat))
  | .seq d a b => some (d, truth (r a = r b))
  | .sel d a b => some (d, if r d = 0 then r b else r a)
  | _ => none

/-- The value that R173 gives an immediate instruction, with the register it goes to. `pc` is its own address. -/
def regImm (r : GReg → Word) (pc : Word) : Instr → Option (GReg × Word)
  | .addi d a i => some (d, r a + BitVec.ofInt 64 i.toInt)
  | .andi d a i => some (d, r a &&& BitVec.ofNat 64 i.toNat)
  | .ori d a i => some (d, r a ||| BitVec.ofNat 64 i.toNat)
  | .xori d a i => some (d, r a ^^^ BitVec.ofNat 64 i.toNat)
  | .shli d a n => some (d, r a <<< n.toNat)
  | .shri d a n => some (d, r a >>> n.toNat)
  | .srai d a n => some (d, BitVec.ofInt 64 ((r a).toInt / 2 ^ n.toNat))
  | .slti d a i => some (d, truth ((r a).toInt < i.toInt))
  | .sltni d a i => some (d, truth ((r a).toNat < i.toNat))
  | .li d i => some (d, BitVec.ofInt 64 i.toInt)
  | .lis d i => some (d, (r d <<< 18) ||| BitVec.ofNat 64 i.toNat)
  | .addpc d i => some (d, pc + BitVec.ofInt 64 (4 * i.toInt))
  | _ => none

/-- The condition and the displacement of a compare-and-branch (R175). -/
def branchOf (r : GReg → Word) : Instr → Option (Bool × BitVec 18)
  | .beq a b p => some (decide (r a = r b), p)
  | .bne a b p => some (decide (r a ≠ r b), p)
  | .blt a b p => some (decide ((r a).toInt < (r b).toInt), p)
  | .bge a b p => some (decide ((r b).toInt ≤ (r a).toInt), p)
  | .bltn a b p => some (decide ((r a).toNat < (r b).toNat), p)
  | .bgen a b p => some (decide ((r b).toNat ≤ (r a).toNat), p)
  | _ => none

end Sys2Proof.Claims

open Sys2Proof.Claims

/-! ## Encodings and the step -/

/-- 08 R149 to R166: the word that the encoding tables give a well-formed instruction decodes to that instruction, whatever
its operands. -/
def Obligations.DecodeEncode : Prop :=
  ∀ (i : Instr) (x : BitVec 32), i.wf = true → encode i = some x → decode x = .ok i

/-- 08 R151, R159: a legal word stands for one well-formed instruction, and that instruction has no other word: no reserved
bit or value is overlooked. -/
def Obligations.EncodeDecode : Prop :=
  ∀ (x : BitVec 32) (i : Instr), decode x = .ok i → i.wf = true ∧ encode i = some x

/-- Words that the spec writes out: 09 R173, R174, R177, R179, R181; 08 R157, R159; 10 R191. -/
def Obligations.SpecWords : Prop :=
  decode 0x188C0087 = .ok (.srai 2 3 7) ∧ decode 0x24400004 = .ok (.li 1 4) ∧
  decode 0x28423456 = .ok (.lis 1 0x23456) ∧ decode 0x30420000 = .ok (.myid 1 .core) ∧
  decode 0x60000002 = .ok .ret ∧ decode 0x68000000 = .ok .follow ∧ decode 0x68200000 = .ok .unfollow ∧
  decode 0x64142108 = .ok (.rpt 0 5 1 1 1) ∧ decode 0xF8060050 = .ok (.ctlr 3 .frm 0) ∧
  decode 0xF8468250 = .ok (.ctlx 3 4 .agewin 0) ∧ decode 0x84AE5000 = .ok (.stw 2 11 .rel .pkg 0) ∧ decode 0 = .error .majorOpcode

/-- 08 R159, 09 R178: a word of a major opcode that the map marks illegal is no instruction; a word that is none traps with
ILLEGAL and FADDR ← its pc; a fetch that fails traps at its target with the cause of the failure, FADDR ← the address that
failed. -/
def Obligations.IllegalTraps : Prop :=
  (∀ x : BitVec 32, x.toNat / 2 ^ 26 ∈ [0x00, 0x0D, 0x0E, 0x0F, 0x1B, 0x1C, 0x1D, 0x1E, 0x1F, 0x25, 0x26, 0x27, 0x2C, 0x2D,
      0x2E, 0x2F, 0x36, 0x37, 0x3D, 0x3F] → ∀ i, decode x ≠ .ok i) ∧
  (∀ (x : BitVec 32) (s : State), exec (.illegalInstruction x) s = .next (s.trap Cause.illegal s.me.pc)) ∧
  ∀ (c : BitVec 6) (a : Word) (s : State), exec (.fetchFault c a) s = .next (s.trap (c.zeroExtend 8) a)

namespace Sys2Proof.Claims

/-- The state after a strand has executed an instruction that needs a unit: an issue slot of the cycle is filled, unless the
strand is BLOCKED (02 R24, 03 R48, R410). `old` is the party that issued before. -/
def afterIssue (t : State) (c n : Nat) (u : FuncUnit) (old : Cur) : State :=
  if (t.strand c n).st = .blocked then { t with cur := old }
  else t.modCore c fun k =>
    { k with issued := k.issued + 1, slots := k.slots ++ [(n, u)], recent := n :: k.recent.filter (· ≠ n) }

end Sys2Proof.Claims

/-- A turn to issue (log entry 4) at the strand to which the core's next issue slot goes by 03 R48 fetches the word at its
pc, decodes it and executes it for that strand; a strand that does not block fills an issue slot and takes a unit (02 R24, 03
R410). What the step adds beside is `settled`: the spill rings that it has changed are laid out (log entry 66) and strands
whose wait it has ended are READY; with neither a spill ring nor a BLOCKED strand it adds nothing. -/
def Sys2Proof.Claims.StepRuns : Prop :=
  (∀ (s s1 t : State) (rest : List Turn) (c n : Nat) (w : BitVec 32) (i : Instr),
    s.agenda = .issue c n :: rest → c < 512 → n < 19 → ({ s with agenda := rest } : State).nextCand c = some n →
    (s.strand c n).held = none → ({ s with agenda := rest } : State).nextAsync c n = none →
    (s.strand c n).windowOver = false → (s.core c).replay = none → (s.strand c n).rest = none →
    (s.strand c n).fl = .none → (s.strand c n).pc.toNat % 4 = 0 →
    ({ s with agenda := rest } : State).fetch (s.party c (s.strand c n).job (s.strand c n).sup) (s.strand c n).pc = .ok s1 w →
    decode w = .ok i → s1.mustWait c n w = false → (s1.strand c n).fl = .none →
    exec i { s1 with cur := ⟨c, n⟩ } = .next t →
    step s = .next ((afterIssue t c n (unitOf w) s1.cur).settled { s with agenda := rest })) ∧
  (∀ (s : State) (rest : List Turn) (c n : Nat), s.agenda = .issue c n :: rest → c < 512 → n < 19 →
    ({ s with agenda := rest } : State).nextCand c ≠ some n →
    step s = .next (({ s with agenda := rest } : State).settled { s with agenda := rest })) ∧
  ∀ s s0 : State, s.spillRings = [] → s.spills = [] →
    (∀ x ∈ s.cores, ∀ y ∈ x.2.strands, y.2.st ≠ .blocked) → s.settled s0 = s

/-- 02 R24: after a step a BLOCKED strand is READY where what it waited for has come: where its instruction, were it READY,
would not block. A strand that is not BLOCKED stays as it is. -/
def Sys2Proof.Claims.BlockedStrandsWake : Prop :=
  ∀ (s : State) (c n : Nat), s.unblocked.strand c n =
    if (s.strand c n).st ≠ .blocked then s.strand c n
    else match (s.modStrand c n fun t => { t with st := .ready }).runNext c n with
      | .next u => if (u.strand c n).st = .blocked then s.strand c n else { s.strand c n with st := .ready }
      | _ => { s.strand c n with st := .ready }

/-- The word that withFetchWord places on the machine after reset (log entry 3) is the one that the next step executes, for the
strand in slot 0 of core 0. -/
def Sys2Proof.Claims.PlacedWordRuns : Prop :=
  ∀ (x : BitVec 32) (i : Instr) (t : State), decode x = .ok i →
    exec i { State.reset.withFetchWord 32 x.toNat with agenda := [] } = .next t →
    step (State.reset.withFetchWord 32 x.toNat) = .next ((afterIssue t 0 0 (unitOf x) ⟨0, 0⟩).settled
      { State.reset.withFetchWord 32 x.toNat with agenda := [] })

/-- A step runs the instruction that stands at the pc of the strand it issues for, and a BLOCKED strand is READY once it
would not block; a word placed for the first strand after reset is that instruction. Choices of the model that it states: log
3, 4, 66. -/
def Obligations.StepRunsDecoded : Prop :=
  Claims.StepRuns ∧ Claims.BlockedStrandsWake ∧ Claims.PlacedWordRuns

/-! ## Scalar instructions -/

/-- 09 R170: each register-register instruction gives the table's result, whatever its operands hold, and goes on at the next
instruction. -/
def Sys2Proof.Claims.RegisterRegister : Prop :=
  ∀ (i : Instr) (s : State) (d : GReg) (v : Word), regReg s.rg i = some (d, v) → exec i s = .next (s.write d v)

/-- 09 R171: BFX extracts and BFI inserts w bits at pos, pos = gb[5:0] and w = gb[13:8] + 1; bits beyond bit 63 read as 0 or
are dropped. -/
def Sys2Proof.Claims.BitFields : Prop :=
  ∀ (d a b : GReg) (s : State),
    (∃ v, exec (.bfx d a b) s = .next (s.write d v) ∧ ∀ j < 64, v.getLsbD j =
      (decide (j < (s.rg b).toNat / 2 ^ 8 % 64 + 1) && (s.rg a).getLsbD ((s.rg b).toNat % 64 + j))) ∧
    ∃ v, exec (.bfi d a b) s = .next (s.write d v) ∧ ∀ j < 64, v.getLsbD j =
      if (s.rg b).toNat % 64 ≤ j ∧ j < (s.rg b).toNat % 64 + ((s.rg b).toNat / 2 ^ 8 % 64 + 1)
      then (s.rg a).getLsbD (j - (s.rg b).toNat % 64) else (s.rg d).getLsbD j

/-- 09 R170, R171: register-register instructions and bit-field instructions. -/
def Obligations.RegisterArithmetic : Prop :=
  Claims.RegisterRegister ∧ Claims.BitFields

/-- 09 R173: each immediate instruction gives the table's result and goes on at the next instruction. -/
def Sys2Proof.Claims.Immediate : Prop :=
  ∀ (i : Instr) (s : State) (d : GReg) (v : Word), regImm s.rg s.me.pc i = some (d, v) → exec i s = .next (s.write d v)

/-- 09 R174: LEA adds its displacement, MKWIN makes a package window address, MYID reads who and where the strand is. -/
def Sys2Proof.Claims.AddressInstructions : Prop :=
  ∀ (d a : GReg) (i : BitVec 16) (s : State),
    exec (.lea d a i) s = .next (s.write d (s.rg a + BitVec.ofInt 64 i.toInt)) ∧
    exec (.mkwin d a i) s = .next (s.write d
      (0x8000000000000000 ||| (((s.rg a).setWidth 9).zeroExtend 64 <<< 43) ||| BitVec.ofNat 64 (8 * i.toNat))) ∧
    exec (.myid d .core) s = .next (s.write d (BitVec.ofNat 64 s.cur.core)) ∧
    exec (.myid d .cluster) s = .next (s.write d (BitVec.ofNat 64
      (s.cur.core / 128 * 8 + s.cur.core / 16 % 8 / 4 * 4 + s.cur.core % 16 / 4))) ∧
    exec (.myid d .strand) s = .next (s.write d (s.me.strid.zeroExtend 64)) ∧
    exec (.myid d .job) s = .next (s.write d (s.me.job.zeroExtend 64)) ∧
    exec (.myid d .device) s = .next (s.write d (BitVec.ofNat 64 s.device))

/-- 09 R173, R174: immediate instructions and the instructions that form addresses. -/
def Obligations.ImmediateArithmetic : Prop :=
  Claims.Immediate ∧ Claims.AddressInstructions

/-- What an instruction that writes `d` and nothing else leaves (its frame): where nothing is outstanding, `d` holds the
result, the pc is the next instruction's, and every other register of the strand, every other strand, every bank and all
of memory are as before. -/
def Sys2Proof.Claims.RegisterWriteFrame : Prop :=
  ∀ (s : State) (d : GReg) (v : Word), Quiet s →
    s.write d v = withMe s { wentOn s.me (s.me.pc + 4) with regs := { s.me.regs with g := s.me.regs.g.put d.val v } } ∧
    (s.write d v).rg d = v ∧ (∀ e, e ≠ d → (s.write d v).rg e = s.rg e) ∧
    (∀ n, (s.write d v).me.vr n = s.me.vr n) ∧ (∀ n, (s.write d v).me.kr n = s.me.kr n) ∧
    (∀ n, (s.write d v).me.cr n = s.me.cr n) ∧ (∀ n, (s.write d v).me.bp n = s.me.bp n) ∧
    (∀ c n, ¬(c = s.cur.core ∧ n = s.cur.slot) → (s.write d v).strand c n = s.strand c n) ∧
    (∀ a, (s.write d v).mem.get a = s.mem.get a) ∧
    ∀ c a, ((s.write d v).core c).scratch.get a = (s.core c).scratch.get a

/-- 08 R154: with lookahead n, d holds its old value for the n instructions after a late writer, and the result from the
last of them on; with n = 0 at once; a write of d in the window stands. -/
def Sys2Proof.Claims.LookaheadWindow : Prop :=
  ∀ (t : Strand) (d : GReg) (v w : Word) (l : La) (p q : Word) (ps : List Word), t.outs = [] →
    (ps.length < l.val → ((ps.foldl Strand.retire (t.late d v l p)).g d = t.g d)) ∧
    (l.val ≤ ps.length → ((ps.foldl Strand.retire (t.late d v l p)).g d = v)) ∧
    (0 < l.val → (ps.foldl Strand.retire (((t.late d v l p).wg d w).retire q)).g d = w)

/-- 08 R154 and the frame of an instruction that writes one register. -/
def Obligations.RegisterWrites : Prop :=
  Claims.RegisterWriteFrame ∧ Claims.LookaheadWindow

/-! ## Control flow -/

/-- 09 R175: a compare-and-branch goes to pc + 4·disp where its condition holds, else to pc + 4, and changes nothing else. -/
def Sys2Proof.Claims.Branches : Prop :=
  ∀ (i : Instr) (s : State) (c : Bool) (p : BitVec 18), branchOf s.rg i = some (c, p) →
    exec i s = .next (s.goto (if c then s.me.pc + BitVec.ofInt 64 (4 * p.toInt) else s.me.pc + 4)) ∧
    (Quiet s → exec i s = .next (withMe s (wentOn s.me
      (if c then s.me.pc + BitVec.ofInt 64 (4 * p.toInt) else s.me.pc + 4))))

/-- 09 R176, R177: JMP and CALL go to pc + 4·disp, JR, CALLR and RET to the register, CALL and CALLR with g15 ← pc + 4. -/
def Sys2Proof.Claims.Jumps : Prop :=
  ∀ (s : State) (p : BitVec 26) (a : GReg),
    exec (.jmp p) s = .next (s.goto (s.me.pc + BitVec.ofInt 64 (4 * p.toInt))) ∧
    exec (.call p) s = .next (s.modMe fun t =>
      (t.wg 15 (s.me.pc + 4)).retire (s.me.pc + BitVec.ofInt 64 (4 * p.toInt))) ∧
    ((s.rg a).toNat % 4 = 0 → exec (.jr a) s = .next (s.goto (s.rg a)) ∧
      exec (.callr a) s = .next (s.modMe fun t => (t.wg 15 (s.me.pc + 4)).retire (s.rg a))) ∧
    ((s.rg 15).toNat % 4 = 0 → exec .ret s = .next (s.goto (s.rg 15)))

/-- 09 R177: JR, CALLR and RET to an address that is not a multiple of 4 trap with BADADDR and that address, pc and g15
unchanged. -/
def Sys2Proof.Claims.MisalignedJumpTraps : Prop :=
  ∀ (s : State) (a : GReg),
    ((s.rg a).toNat % 4 ≠ 0 → exec (.jr a) s = .next (s.trap Cause.badAddr (s.rg a)) ∧
      exec (.callr a) s = .next (s.trap Cause.badAddr (s.rg a))) ∧
    ((s.rg 15).toNat % 4 ≠ 0 → exec .ret s = .next (s.trap Cause.badAddr (s.rg 15)))

/-- 09 R175 to R177: branches and jumps, and where a jump traps. -/
def Obligations.ControlFlow : Prop :=
  Claims.Branches ∧ Claims.Jumps ∧ Claims.MisalignedJumpTraps

/-! ## Traps, privilege and control registers -/

namespace Sys2Proof.Claims

/-- A precise trap of the issuing strand is taken at once: the strand is not in its handler, no other strand of the core is,
the core does not drain for a pre-emption, and the strand has no part in a lead stream. -/
structure TrapOpen (s : State) : Prop where
  outside : s.me.intrap = false
  alone : s.mine.trapHeld s.cur.slot = false
  staying : s.preempted s.cur.core = false
  single : s.me.fl = .none

/-- What taking a trap with a cause leaves of the issuing strand, its core and the rest of the part (18 R310). -/
structure Trapped (s t : State) (code : BitVec 8) (epc faddr : Word) : Prop where
  cur : t.cur = s.cur
  cause : t.mine.cause = code.zeroExtend 64
  epc : t.mine.epc = epc
  faddr : t.mine.faddr = faddr
  sup : t.me.sup = true
  intrap : t.me.intrap = true
  pc : t.me.pc = s.mine.tvec &&& ~~~3#64
  ready : t.me.st = .ready
  regs : t.me.regs = s.me.regs
  others : ∀ c n, ¬(c = s.cur.core ∧ n = s.cur.slot) → t.strand c n = s.strand c n
  mem : ∀ a, t.mem.get a = s.mem.get a
  scratch : ∀ c a, ((t.core c).scratch).get a = ((s.core c).scratch).get a

/-- The instructions that only supervisor mode may execute (12 R261). -/
def supervisorOnly : Instr → Bool
  | .eret | .halt | .xlinv .. | .attrset .. => true
  | _ => false

/-- A register that supervisor mode writes whole, but for bits that read as zero: those bits (09 R186 to R188; 02 R33). -/
def zeroBits : CrName → Option Word
  | .cause => some 0xFFFFFFFFC0000000
  | .epc | .faddr | .sscr | .srseed => some 0
  | .htbase => some 0x7000
  | .prio | .role => some 0xFFFFFFFFFFFFFFFC
  | .schedmode | .fpctl | .fmtbad => some 0xFFFFFFFFFFFFFFFE
  | .fmta | .fmtb => some 0xFFFFFFFFFFFFFFE0
  | .stageasn => some 0xFFFFFFFFFFFFFE00
  | .wvring _ => some 0x3E
  | _ => none

end Sys2Proof.Claims

/-- 18 R310: a trap is taken with CAUSE, EPC and FADDR written, supervisor mode and INTRAP set and the pc at TVEC; g registers,
other strands, memory and banks are not changed. -/
def Sys2Proof.Claims.TakesTrap : Prop :=
  ∀ (s : State) (code : BitVec 8) (addr : Word), code.toNat < 64 → Quiet s → TrapOpen s →
    Trapped s (s.trap code addr) code s.me.pc addr

/-- 12 R261, 18 R308: TRAP n traps with cause SOFT, FADDR ← n and EPC ← pc + 4. -/
def Sys2Proof.Claims.SoftwareTrap : Prop :=
  ∀ (n : Fin 32) (s : State), Quiet s → TrapOpen s →
    ∃ t, exec (.trap n) s = .next t ∧ Trapped s t 0x03 (s.me.pc + 4) (BitVec.ofNat 64 n.val)

/-- 18 R310: taking a trap; TRAP takes one. -/
def Obligations.Traps : Prop :=
  Claims.TakesTrap ∧ Claims.SoftwareTrap

/-- 18 R310: while another strand of the core is in its handler a precise trap is held: the strand waits, its registers, pc and
the core's CAUSE, EPC and FADDR as they were, with the trap as it was raised. -/
def Sys2Proof.Claims.TrapHeldBehindHandler : Prop :=
  ∀ (s : State) (code : BitVec 8) (addr : Word), code.toNat < 64 → Quiet s → s.me.intrap = false →
    s.mine.trapHeld s.cur.slot = true →
    s.trap code addr = withMe s { s.me with
      st := .waiting .trapHold, held := some (⟨code, 0, none, addr, none⟩, s.me.pc) }

/-- 18 R310: a held trap is taken as it was raised, at the strand's next turn to issue (log entry 4)
after the hold is released. -/
def Sys2Proof.Claims.HeldTrapTaken : Prop :=
  ∀ (s : State) (rest : List Turn) (code : BitVec 8) (addr epc : Word), code.toNat < 64 →
    s.agenda = .issue s.cur.core s.cur.slot :: rest → s.cur.core < 512 → s.cur.slot < 19 →
    ({ s with agenda := rest } : State).nextCand s.cur.core = some s.cur.slot → s.me.held = some (⟨code, 0, none, addr, none⟩, epc) → Quiet s → TrapOpen s →
    ∃ t, step s = .next (State.settled t { s with agenda := rest }) ∧ Trapped s t code epc addr

/-- 18 R311: a precise trap in the handler ends the strand as a CANCEL ends it, with its launch's ERR to be set; CAUSE, EPC and
FADDR keep the values of the first trap. Where accesses are kept in flight the launch's count is an event on its way. -/
def Sys2Proof.Claims.DoubleTrap : Prop :=
  ∀ (s : State) (code : BitVec 8) (addr : Word), code.toNat < 64 → Quiet s → s.me.intrap = true → s.me.fl = .none →
    s.split = true → s.cur.slot < 16 → s.me.st = .ready →
    let t := s.trap code addr
    (t.strand s.cur.core s.cur.slot).st = .free ∧ t.mine.cause = s.mine.cause ∧ t.mine.epc = s.mine.epc ∧
    t.mine.faddr = s.mine.faddr ∧ t.ctrs = s.ctrs ++ [⟨s.me.job, .launch, s.me.lid.toNat, .decErr⟩]

/-- 18 R310, R311: traps of a core whose handler is running. Choices of the model that it states: log 4. -/
def Obligations.TrapsBehindHandlers : Prop :=
  Claims.TrapHeldBehindHandler ∧ Claims.HeldTrapTaken ∧ Claims.DoubleTrap

/-- 18 R308, R312: an asynchronous trap is taken between two instructions, at the strand's pc, with ASYNC set; a blocked or
parked strand's wait is abandoned for it. -/
def Sys2Proof.Claims.AsynchronousTrap : Prop :=
  ∀ (s : State) (i : TrapInfo), s.nextAsync s.cur.core s.cur.slot = some i → 64 ≤ i.code.toNat → i.ring = none →
    i.copy = none → (s.me.st = .ready ∨ s.me.st = .blocked ∨ s.me.st = .parked .park) → Quiet s → TrapOpen s →
    ∃ t, exec (.asyncTrap s.cur.core s.cur.slot) s = .next t ∧
      (t.strand s.cur.core s.cur.slot).pc = s.mine.tvec &&& ~~~3#64 ∧
      (t.strand s.cur.core s.cur.slot).sup = true ∧ (t.strand s.cur.core s.cur.slot).intrap = true ∧
      (t.strand s.cur.core s.cur.slot).st = .ready ∧ (t.strand s.cur.core s.cur.slot).wtok = s.me.wtok ∧
      (t.strand s.cur.core s.cur.slot).regs = s.me.regs ∧ t.mine.epc = s.me.pc ∧ t.mine.faddr = i.faddr ∧
      t.mine.cause = BitVec.ofNat 64 (i.code.toNat + 2 ^ 8 + 2 ^ 9 * i.jent.toNat)

/-- 18 R313: ERET goes to EPC in user mode, out of the handler, and releases the traps held on the core. -/
def Sys2Proof.Claims.ReturnFromTrap : Prop :=
  ∀ s : State, Quiet s → s.me.sup = true → s.mine.epc.toNat % 4 = 0 → s.me.st = .ready →
    ∃ t, exec .eret s = .next t ∧ t.me.pc = s.mine.epc ∧ t.me.sup = false ∧ t.me.intrap = false ∧ t.me.st = .ready ∧
      t.me.regs = s.me.regs ∧ (∀ n, (s.strand s.cur.core n).st = .waiting .trapHold →
        n ≠ s.cur.slot → (t.strand s.cur.core n).st = .ready) ∧
      t.mine.cause = s.mine.cause ∧ t.mine.epc = s.mine.epc ∧ t.mine.faddr = s.mine.faddr ∧ t.mem = s.mem

/-- 18 R312, R313: asynchronous traps, and ERET. -/
def Obligations.AsynchronousTrapsAndReturn : Prop :=
  Claims.AsynchronousTrap ∧ Claims.ReturnFromTrap

/-- 12 R261, 09 R182: an instruction marked S in user mode traps with PRIV and FADDR ← its pc, as does an access to a register
that user mode may not use, and a write of one that supervisor mode may write; a write of one that no mode writes is
ILLEGAL; TVEC, JTBASE and FATBASE take supervisor physical addresses alone. -/
def Sys2Proof.Claims.PrivilegeTraps : Prop :=
  (∀ (i : Instr) (s : State), supervisorOnly i = true → s.me.sup = false → exec i s = .next (s.trap 0x02 s.me.pc)) ∧
  (∀ (a b : GReg) (l : La) (c : CrName) (s : State), s.me.sup = false →
    ((∃ n, c = .wvring n) ∨ c ∈ [CrName.tvec, .sscr, .jtbase, .fatbase]) →
    exec (.ctlr a c l) s = .next (s.trap 0x02 s.me.pc) ∧ exec (.ctlw b c) s = .next (s.trap 0x02 s.me.pc) ∧
    exec (.ctlx a b c l) s = .next (s.trap 0x02 s.me.pc)) ∧
  (∀ (a b : GReg) (l : La) (c : CrName) (s : State), s.me.sup = false →
    c ∈ [CrName.status, .cause, .epc, .faddr, .htbase, .stageasn] →
    exec (.ctlw b c) s = .next (s.trap 0x02 s.me.pc) ∧ exec (.ctlx a b c l) s = .next (s.trap 0x02 s.me.pc)) ∧
  (∀ (a b : GReg) (l : La) (c : CrName) (s : State),
    c ∈ [CrName.strid, .jobid, .coreid, .tags, .usc, .bankcfg, .msbase, .mslen, .cycle] →
    exec (.ctlw b c) s = .next (s.trap 0x01 s.me.pc) ∧ exec (.ctlx a b c l) s = .next (s.trap 0x01 s.me.pc)) ∧
  ∀ (a b : GReg) (l : La) (c : CrName) (s : State), s.me.sup = true → c ∈ [CrName.tvec, .jtbase, .fatbase] →
    ¬((s.rg b).toNat / 2 ^ 61 = 7 ∧ (s.rg b).toNat / 2 ^ 48 % 2 ^ 13 = 0) →
    exec (.ctlw b c) s = .next (s.trap 0x05 (s.rg b)) ∧ exec (.ctlx a b c l) s = .next (s.trap 0x05 (s.rg b))

/-- 09 R181, R184, R187: CTLR returns the register's value as it issues, in supervisor mode every register's, in user mode those
that the map lets it read. -/
def Sys2Proof.Claims.ControlRegisterRead : Prop :=
  ∀ (a : GReg) (l : La) (s : State),
    (∀ c : CrName, (s.me.sup = true ∨ ¬((∃ n, c = .wvring n) ∨ c ∈ [CrName.tvec, .sscr, .jtbase, .fatbase])) →
      exec (.ctlr a c l) s = .next (s.writeLate a (s.cr c) l)) ∧
    s.cr .strid = s.me.strid.zeroExtend 64 ∧ s.cr .jobid = s.me.job.zeroExtend 64 ∧ s.cr .prio = s.me.prio.zeroExtend 64 ∧
    s.cr .coreid = BitVec.ofNat 64 s.cur.core ∧ s.cr .epc = s.mine.epc ∧ s.cr .faddr = s.mine.faddr ∧
    s.cr .cause = s.mine.cause ∧ s.cr .tags = s.mine.tags ∧
    s.cr .usc = BitVec.ofNat 64 ((List.range 64).countP fun j => (s.mine.jent j).v) ∧
    (s.cr .status).getLsbD 0 = s.me.sup ∧ (s.cr .status).getLsbD 4 = s.me.vl ∧ (s.cr .status).getLsbD 5 = s.me.intrap ∧
    (s.cr .status).toNat < 64 ∧ (s.cr .status).getLsbD 1 = false

/-- 09 R181, R186 to R188: in supervisor mode CTLW stores the value with zero in the reserved bits, AGEWIN never less than 16,
and CTLX returns the value before it; a value written then reads back. -/
def Sys2Proof.Claims.ControlRegisterWrite : Prop :=
  ∀ (a b : GReg) (l : La) (s : State), s.me.sup = true → Quiet s →
    (∀ (c : CrName) (z : Word), zeroBits c = some z →
      (∃ t, exec (.ctlw b c) s = .next t ∧ t.cr c = s.rg b &&& ~~~z ∧ t.me.pc = s.me.pc + 4 ∧ (∀ e, t.rg e = s.rg e) ∧
        ∀ x, t.mem.get x = s.mem.get x) ∧
      ∃ t, exec (.ctlx a b c l) s = .next t ∧ t.cr c = s.rg b &&& ~~~z ∧ t.me.pc = s.me.pc + 4 ∧
        (l = 0 → t.rg a = s.cr c) ∧ (∀ e, e ≠ a → t.rg e = s.rg e) ∧ ∀ x, t.mem.get x = s.mem.get x) ∧
    (∃ t, exec (.ctlw b .agewin) s = .next t ∧
      t.cr .agewin = BitVec.ofNat 64 (max 16 ((s.rg b).toNat % 2 ^ 16))) ∧
    ∀ c ∈ [CrName.tvec, .jtbase, .fatbase], (s.rg b).toNat / 2 ^ 61 = 7 → (s.rg b).toNat / 2 ^ 48 % 2 ^ 13 = 0 →
      ∃ t, exec (.ctlw b c) s = .next t ∧ t.me.pc = s.me.pc + 4 ∧
        t.cr c = if c = .tvec then s.rg b &&& ~~~3#64 else s.rg b

/-- 09 R181 to R188, 12 R261: privileged instructions, control register reads and writes. -/
def Obligations.ControlRegisters : Prop :=
  Claims.PrivilegeTraps ∧ Claims.ControlRegisterRead ∧ Claims.ControlRegisterWrite

/-! ## Scalar memory -/

namespace Sys2Proof.Claims

/-- Nothing of the issuing strand is on its way: nothing outstanding, no posted store of its core unanswered, no access in
flight. Nothing then makes an access wait. -/
structure Calm (s : State) : Prop where
  quiet : Quiet s
  journal : (s.mine.journal.all fun x => !x.2.v) = true
  flight : s.accs = []

/-- The number that `n` bytes hold, least significant first (00 R1). -/
def number (f : Nat → Byte) : Nat → Nat
  | 0 => 0
  | n + 1 => (f 0).toNat + 256 * number (fun i => f (i + 1)) n

/-- A number of `n` bytes as a load's result. -/
def loaded (signed : Bool) (n x : Nat) : Word :=
  if signed ∧ 2 ^ (8 * n - 1) ≤ x then BitVec.ofInt 64 (x - 2 ^ (8 * n) : Int) else BitVec.ofNat 64 x

/-- A load's form: signed, bytes, destination, base, ord, scope, lookahead, displacement (10 R190). -/
def loadForm : Instr → Option (Bool × Nat × GReg × GReg × LdOrd × Scope × La × BitVec 6)
  | .ldb d a o s l p => some (true, 1, d, a, o, s, l, p)
  | .ldbn d a o s l p => some (false, 1, d, a, o, s, l, p)
  | .ldh d a o s l p => some (true, 2, d, a, o, s, l, p)
  | .ldhn d a o s l p => some (false, 2, d, a, o, s, l, p)
  | .ldw d a o s l p => some (true, 4, d, a, o, s, l, p)
  | .ldwn d a o s l p => some (false, 4, d, a, o, s, l, p)
  | .ldd d a o s l p => some (false, 8, d, a, o, s, l, p)
  | _ => none

/-- A store's form: bytes, source, base, ord, scope, displacement (10 R191). -/
def storeForm : Instr → Option (Nat × GReg × GReg × StOrd × Scope × BitVec 6)
  | .stb d a o s p => some (1, d, a, o, s, p)
  | .sth d a o s p => some (2, d, a, o, s, p)
  | .stw d a o s p => some (4, d, a, o, s, p)
  | .std d a o s p => some (8, d, a, o, s, p)
  | _ => none

/-- An atomic's form: operation, double word, destination with the compare value, address, operand, ord, scope, lookahead. -/
def amoForm : Instr → Option (AmoFn × Bool × GReg × GReg × GReg × AmOrd × Scope × La)
  | .amoadd d a b w o s l => some (.add, w, d, a, b, o, s, l)
  | .amoand d a b w o s l => some (.and, w, d, a, b, o, s, l)
  | .amoor d a b w o s l => some (.or, w, d, a, b, o, s, l)
  | .amoxor d a b w o s l => some (.xor, w, d, a, b, o, s, l)
  | .amomin d a b w o s l => some (.min, w, d, a, b, o, s, l)
  | .amomax d a b w o s l => some (.max, w, d, a, b, o, s, l)
  | .amominn d a b w o s l => some (.minn, w, d, a, b, o, s, l)
  | .amomaxn d a b w o s l => some (.maxn, w, d, a, b, o, s, l)
  | .amoswp d a b w o s l => some (.swp, w, d, a, b, o, s, l)
  | .amocas d a b w o s l => some (.cas, w, d, a, b, o, s, l)
  | .amofadd d a b o s l => some (.fadd, false, d, a, b, o, s, l)
  | _ => none

/-- What 10 R199 writes where memory held `old`: the second operand is gb, the third the compare value of CAS. -/
def amoNew {k : Nat} (fn : AmoFn) (old b cmp : BitVec k) : BitVec k :=
  match fn with
  | .add => old + b
  | .and => old &&& b
  | .or => old ||| b
  | .xor => old ^^^ b
  | .min => if b.toInt ≤ old.toInt then b else old
  | .max => if b.toInt ≤ old.toInt then old else b
  | .minn => if b.toNat ≤ old.toNat then b else old
  | .maxn => if b.toNat ≤ old.toNat then old else b
  | .swp => b
  | .cas => if old = cmp then b else old
  | .fadd => BitVec.ofNat k (add32 .rne 0 false old.toNat b.toNat)

/-- The address of a scalar access: base plus displacement in units of the size (10 R189). -/
def accessAddr (s : State) (b : GReg) (p : BitVec 6) (n : Nat) : Word := s.rg b + BitVec.ofInt 64 (p.toInt * n)

/-- The state with the acquire that an ord asks for: RC lines of the core's L1 are dropped at scope CLU or wider (04 R80). -/
def acquiring (s : State) (acq : Bool) (sc : Scope) : State :=
  if acq = true ∧ sc ≠ .str ∧ sc ≠ .cor then s.invalidateRc s.cur.core else s

/-- Bit `x` of the issuing core's scratch (06 R114). -/
def scratchBit (s : State) (x : Nat) : Bool := (s.mine.scratch.get (x / 8)).getLsbD (x % 8)

end Sys2Proof.Claims

/-- 04 R65: the space of an address is its top three bits; addresses of no space, or with reserved bits set, are BADADDR, and
supervisor physical addresses in user mode PRIV. -/
def Sys2Proof.Claims.AddressSpaces : Prop :=
  ∀ (sup : Bool) (a : Word),
    (a.toNat < 2 ^ 48 → space sup a = .ok (.virt a.toNat)) ∧
    (∀ c off, c < 512 → off < 2 ^ 19 → a.toNat = 2 ^ 63 + c * 2 ^ 43 + off → space sup a = .ok (.pkg c off)) ∧
    (∀ d i off, d < 2 ^ 12 → i < 2 ^ 9 → off < 2 ^ 40 → a.toNat = 5 * 2 ^ 61 + d * 2 ^ 49 + i * 2 ^ 40 + off →
      space sup a = .ok (.dom d i off)) ∧
    (∀ i off, i < 2 ^ 12 → off < 2 ^ 40 → a.toNat = 6 * 2 ^ 61 + i * 2 ^ 40 + off → space sup a = .ok (.host i off)) ∧
    (∀ pa, isDram pa = true ∨ isSave pa = true → a.toNat = 7 * 2 ^ 61 + pa →
      space sup a = if sup then .ok (.phys pa) else .error Cause.priv) ∧
    (a.toNat / 2 ^ 61 ∈ [1, 2, 3] → space sup a = .error Cause.badAddr) ∧
    (2 ^ 48 ≤ a.toNat → a.toNat < 2 ^ 61 → space sup a = .error Cause.badAddr) ∧
    (a.toNat / 2 ^ 61 = 4 → (a.toNat / 2 ^ 52 % 2 ^ 9 ≠ 0 ∨ a.toNat / 2 ^ 19 % 2 ^ 24 ≠ 0) →
      space sup a = .error Cause.badAddr) ∧
    (a.toNat / 2 ^ 61 = 6 → a.toNat / 2 ^ 52 % 2 ^ 9 ≠ 0 → space sup a = .error Cause.badAddr) ∧
    (a.toNat / 2 ^ 61 = 7 → space false a = .error Cause.priv) ∧
    (a.toNat / 2 ^ 61 = 7 → (2 ^ 48 ≤ a.toNat % 2 ^ 61 ∨
      (isDram (a.toNat % 2 ^ 61) = false ∧ isSave (a.toNat % 2 ^ 61) = false)) → space true a = .error Cause.badAddr)

/-- 04 R65, 10 R189: a load, a store or an atomic whose address breaks its space's layout, or that names supervisor physical
space from user mode, traps precisely with that cause and FADDR ← the address. -/
def Sys2Proof.Claims.BadSpaceTraps : Prop :=
  (∀ (i : Instr) (s : State) (g : Bool) (n : Nat) (d b : GReg) (o : LdOrd) (sc : Scope) (l : La) (p : BitVec 6)
    (c : BitVec 8), loadForm i = some (g, n, d, b, o, sc, l, p) → (accessAddr s b p n).toNat % n = 0 →
    space s.me.sup (accessAddr s b p n) = .error c → exec i s = .next (s.trap c (accessAddr s b p n))) ∧
  (∀ (i : Instr) (s : State) (n : Nat) (d b : GReg) (o : StOrd) (sc : Scope) (p : BitVec 6)
    (c : BitVec 8), storeForm i = some (n, d, b, o, sc, p) → (accessAddr s b p n).toNat % n = 0 →
    space s.me.sup (accessAddr s b p n) = .error c → exec i s = .next (s.trap c (accessAddr s b p n))) ∧
  ∀ (i : Instr) (s : State) (fn : AmoFn) (w : Bool) (d a b : GReg) (o : AmOrd) (sc : Scope) (l : La)
    (c : BitVec 8), amoForm i = some (fn, w, d, a, b, o, sc, l) → (s.rg a).toNat % (if w then 8 else 4) = 0 →
    space s.me.sup (s.rg a) = .error c → exec i s = .next (s.trap c (s.rg a))

/-- 10 R189: an access whose address is not a multiple of its size traps with ALIGN and that address. -/
def Sys2Proof.Claims.MisalignedAccessTraps : Prop :=
  (∀ (i : Instr) (s : State) (g : Bool) (n : Nat) (d b : GReg) (o : LdOrd) (sc : Scope) (l : La) (p : BitVec 6),
    loadForm i = some (g, n, d, b, o, sc, l, p) → (accessAddr s b p n).toNat % n ≠ 0 →
    exec i s = .next (s.trap Cause.align (accessAddr s b p n))) ∧
  (∀ (i : Instr) (s : State) (n : Nat) (d b : GReg) (o : StOrd) (sc : Scope) (p : BitVec 6),
    storeForm i = some (n, d, b, o, sc, p) → (accessAddr s b p n).toNat % n ≠ 0 →
    exec i s = .next (s.trap Cause.align (accessAddr s b p n))) ∧
  ∀ (i : Instr) (s : State) (fn : AmoFn) (w : Bool) (d a b : GReg) (o : AmOrd) (sc : Scope) (l : La),
    amoForm i = some (fn, w, d, a, b, o, sc, l) → (s.rg a).toNat % (if w then 8 else 4) ≠ 0 →
    exec i s = .next (s.trap Cause.align (s.rg a))

/-- 04 R65, 10 R189: the spaces of addresses, and the traps of a bad or misaligned address. -/
def Obligations.AddressesAndAlignment : Prop :=
  Claims.AddressSpaces ∧ Claims.BadSpaceTraps ∧ Claims.MisalignedAccessTraps

/-- 10 R190: a load returns the bytes at its address, least significant first, zero- or sign-extended as its mnemonic says, and
writes them late: from the core's own scratch, and from supervisor physical memory where accesses are performed at once (log
entry 5); where they are not, one to the own scratch leaves for the banks. -/
def Sys2Proof.Claims.OwnLoads : Prop :=
  ∀ (i : Instr) (s : State) (g : Bool) (n : Nat) (d b : GReg) (o : LdOrd) (sc : Scope) (l : La) (p : BitVec 6),
    loadForm i = some (g, n, d, b, o, sc, l, p) → Calm s → (accessAddr s b p n).toNat % n = 0 →
    (∀ off, space s.me.sup (accessAddr s b p n) = .ok (.pkg s.cur.core off) →
      s.inHoods s.me.job s.cur.core = true → s.mine.scratchOk off n = true → s.reach s.cur.core = s.cur.core →
      touches s.mine.spois off n = false →
      (s.split = false → exec i s = .next ((acquiring s (o = .acq ∨ o = .ar) sc).writeLate d
        (loaded g n (number (fun j => s.mine.scratch.get (off + j)) n)) l)) ∧
      (s.split = true → ∃ t, exec i s = .next t ∧ t.accs = [(s.serial, ⟨s.cur.core, s.cur.slot, s.me.job, s.me.sup,
        s.mine.bases, .load g, accessAddr s b p n, n, ldAmOrd o, sc, .bank⟩)] ∧ t.me.pc = s.me.pc + 4 ∧ t.me.st = .ready ∧
        (∀ e, t.rg e = s.rg e) ∧ t.mem = s.mem ∧ ∀ k, (t.core k).scratch = (s.core k).scratch)) ∧
    ∀ pa, space s.me.sup (accessAddr s b p n) = .ok (.phys pa) → s.split = false → s.poisoned pa n = false →
      exec i s = .next ((acquiring s (o = .acq ∨ o = .ar) sc).writeLate d
        (loaded g n (number (fun j => s.mem.get (pa + j)) n)) l)

/-- 10 R190, 04 R72: a load of virtual memory returns the bytes that its translation leads to; here from an SC page whose line
no L1 holds, with no bank in cache mode. -/
def Sys2Proof.Claims.VirtualLoads : Prop :=
  ∀ (i : Instr) (s s1 : State) (g : Bool) (n : Nat) (d b : GReg) (o : LdOrd) (sc : Scope) (l : La) (p : BitVec 6)
    (va pa pte tag : Nat) (ver : BitVec 16),
    loadForm i = some (g, n, d, b, o, sc, l, p) → o ≠ .mig → Calm s → (accessAddr s b p n).toNat % n = 0 →
    space s.me.sup (accessAddr s b p n) = .ok (.virt va) → s.split = false → s.l1 s.cur.core s.me.job va = none →
    s.translate s.agent va .load = (s1, .ok pa .sc false ver pte tag) → s1.mine.cacheBanks = [] →
    s1.poisoned pa n = false →
    exec i s = .next ((acquiring s1 (o = .acq ∨ o = .ar) sc).writeLate d
      (loaded g n (number (fun j => s1.mem.get (pa + j)) n)) l)

/-- Loads of the own scratch, of DRAM by physical address, and through the tables. Choices of the model that it states: log
5. -/
def Obligations.Loads : Prop :=
  Claims.OwnLoads ∧ Claims.VirtualLoads

/-- 10 R191: a store writes the low bytes of gd at its address, least significant first, and changes no other byte, register
or strand: to the core's own scratch, and to supervisor physical memory where accesses are performed at once (log entry 5)
and nobody waits for a write; where they are not, one to the own scratch leaves for the banks. -/
def Sys2Proof.Claims.OwnStores : Prop :=
  ∀ (i : Instr) (s : State) (n : Nat) (d b : GReg) (o : StOrd) (sc : Scope) (p : BitVec 6),
    storeForm i = some (n, d, b, o, sc, p) → Calm s → (accessAddr s b p n).toNat % n = 0 →
    (∀ off, space s.me.sup (accessAddr s b p n) = .ok (.pkg s.cur.core off) →
      s.inHoods s.me.job s.cur.core = true → s.mine.scratchOk off n = true →
      (s.split = false →
      ∃ t, exec i s = .next t ∧ (∀ j < n, t.mine.scratch.get (off + j) = (s.rg d).extractLsb' (8 * j) 8) ∧
        (∀ x, ¬(off ≤ x ∧ x < off + n) → t.mine.scratch.get x = s.mine.scratch.get x) ∧
        (∀ c x, c ≠ s.cur.core → ((t.core c).scratch).get x = ((s.core c).scratch).get x) ∧
        (∀ x, t.mem.get x = s.mem.get x) ∧ t.me = { wentOn s.me (s.me.pc + 4) with rel := none } ∧
        ∀ c m, ¬(c = s.cur.core ∧ m = s.cur.slot) → t.strand c m = s.strand c m) ∧
      (s.split = true → ∃ t, exec i s = .next t ∧ t.accs = [(s.serial, ⟨s.cur.core, s.cur.slot, s.me.job, s.me.sup,
        s.mine.bases, .store (s.rg d), accessAddr s b p n, n, stAmOrd o, sc, .bank⟩)] ∧ t.me.pc = s.me.pc + 4 ∧
        t.me.st = .ready ∧ (∀ e, t.rg e = s.rg e) ∧ t.mem = s.mem ∧ ∀ k, (t.core k).scratch = (s.core k).scratch)) ∧
    ∀ pa, space s.me.sup (accessAddr s b p n) = .ok (.phys pa) → s.split = false → s.waits = [] →
      ∃ t, exec i s = .next t ∧ (∀ j < n, t.mem.get (pa + j) = (s.rg d).extractLsb' (8 * j) 8) ∧
        (∀ x, ¬(pa ≤ x ∧ x < pa + n) → t.mem.get x = s.mem.get x) ∧
        (∀ c x, ((t.core c).scratch).get x = ((s.core c).scratch).get x) ∧
        t.me = { wentOn s.me (s.me.pc + 4) with rel := none } ∧ ∀ c m, ¬(c = s.cur.core ∧ m = s.cur.slot) → t.strand c m = s.strand c m

/-- 04 R85, 18 R314, R315: a store to another core's window is posted: it takes the lowest free journal entry with the store's
pc, slot and size, and the strand goes on; its acknowledgement performs it at the target and frees the entry. -/
def Sys2Proof.Claims.PostedStores : Prop :=
  (∀ (i : Instr) (s : State) (n : Nat) (d b : GReg) (o : StOrd) (sc : Scope) (p : BitVec 6) (c off : Nat),
    storeForm i = some (n, d, b, o, sc, p) → o ≠ .ar → Calm s → (accessAddr s b p n).toNat % n = 0 →
    space s.me.sup (accessAddr s b p n) = .ok (.pkg c off) → c ≠ s.cur.core → s.inHoods s.me.job c = true →
    s.bankHeld c = false → s.mine.journal = [] →
    ∃ t, exec i s = .next t ∧ (t.mine.jent 0).v = true ∧ (t.mine.jent 0).slot = s.cur.slot ∧
      (t.mine.jent 0).pc = s.me.pc ∧ (t.mine.jent 0).sz.toNat = Nat.log2 n ∧ t.mine.usc = 1 ∧ t.me.pc = s.me.pc + 4 ∧
      t.me.st = .ready ∧ (∀ x, t.mem.get x = s.mem.get x) ∧
      ∀ c x, ((t.core c).scratch).get x = ((s.core c).scratch).get x) ∧
  ∀ (s : State) (c k off : Nat) (e : JEnt) (l : Lane), (s.core c).jent 0 = e → e.v = true → e.taken = false →
    e.lanes = [l] → l.pa = none → space true l.addr = .ok (.pkg k off) → (s.core c).journal = [(0, e)] → s.accs = [] →
    s.bankHeld k = false → s.reach k = k → (k = c ∨ (s.shut k = false ∧ s.inHoods e.job k = true)) → (s.core k).scratchOk off l.n = true → 0 < l.n →
    ∃ t, exec (.storeAck c 0) s = .next t ∧ ((t.core c).jent 0).v = false ∧ ((t.core c).jent 0).fail = false ∧
      (∀ j < l.n, ((t.core k).scratch).get (off + j) = BitVec.ofNat 8 (l.v / 256 ^ j)) ∧
      ∀ x, ¬(off ≤ x ∧ x < off + l.n) → ((t.core k).scratch).get x = ((s.core k).scratch).get x

/-- 18 R315, 20 R352: a posted store that a device or the host refuses leaves its entry with FAIL and the cause, and raises a
trap of origin 01 with the entry's number for its strand. The cause is the one that a device names, of those that 18 R309
gives a posted store, else REVOKED (log entry 6). -/
def Sys2Proof.Claims.PostedStoreRefused : Prop :=
  ∀ (s : State) (c : Nat) (x : Space) (code : BitVec 6) (e : JEnt) (l : Lane), (s.core c).journal = [(5, e)] → s.accs = [] →
    e.v = true → e.taken = false → e.lanes = [l] → l.pa = none → space true l.addr = .ok x → s.deaf = false →
    ((∃ d i off, x = .dom d i off ∧ ¬(d = s.device ∧ 480 ≤ i)) ∨ ∃ i off, x = .host i off) →
    (s.strand c e.slot).st = .ready → (s.strand c e.slot).outs = [] →
    let z : BitVec 6 := if l.addr.toNat / 2 ^ 61 = 5 ∧ code ∈ [0x06, 0x07, 0x08, 0x0A, 0x0B] then code else 0x0E
    ∃ t, exec (.postedStoreRefusal c 5 code) s = .next t ∧ ((t.core c).jent 5).v = false ∧
      ((t.core c).jent 5).fail = true ∧ ((t.core c).jent 5).cause = z ∧
      (t.strand c e.slot).traps = (s.strand c e.slot).traps ++ [⟨0x40 ||| z.zeroExtend 8, 5, none, l.addr, none⟩]

/-- Stores performed at once, posted stores, and posted stores that are refused. Choices of the model that it states: log 5,
6. -/
def Obligations.Stores : Prop :=
  Claims.OwnStores ∧ Claims.PostedStores ∧ Claims.PostedStoreRefused

/-- 10 R199: an atomic returns the old value and writes what Combine gives, as one operation: on the core's own scratch, and on
DRAM by supervisor physical address where accesses are performed at once and nobody waits for a write. -/
def Sys2Proof.Claims.AtomicAccess : Prop :=
  ∀ (i : Instr) (s : State) (fn : AmoFn) (w : Bool) (d a b : GReg) (o : AmOrd) (sc : Scope) (n : Nat),
    amoForm i = some (fn, w, d, a, b, o, sc, 0) → n = (if w then 8 else 4) → Calm s → (s.rg a).toNat % n = 0 →
    (∀ off, space s.me.sup (s.rg a) = .ok (.pkg s.cur.core off) → s.inHoods s.me.job s.cur.core = true →
      s.mine.scratchOk off n = true → s.reach s.cur.core = s.cur.core → touches s.mine.spois off n = false →
      ∃ t, exec i s = .next t ∧ t.rg d = BitVec.ofNat 64 (number (fun j => s.mine.scratch.get (off + j)) n) ∧
        number (fun j => t.mine.scratch.get (off + j)) n = (amoNew (k := 8 * n) fn
          (BitVec.ofNat _ (number (fun j => s.mine.scratch.get (off + j)) n)) ((s.rg b).setWidth _)
          ((s.rg d).setWidth _)).toNat ∧
        (∀ x, ¬(off ≤ x ∧ x < off + n) → t.mine.scratch.get x = s.mine.scratch.get x) ∧
        (∀ x, t.mem.get x = s.mem.get x) ∧ t.me.pc = s.me.pc + 4 ∧ ∀ e, e ≠ d → t.rg e = s.rg e) ∧
    ∀ pa, space s.me.sup (s.rg a) = .ok (.phys pa) → isDram pa = true → s.split = false → s.waits = [] →
      s.poisoned pa n = false →
      ∃ t, exec i s = .next t ∧ t.rg d = BitVec.ofNat 64 (number (fun j => s.mem.get (pa + j)) n) ∧
        number (fun j => t.mem.get (pa + j)) n = (amoNew (k := 8 * n) fn
          (BitVec.ofNat _ (number (fun j => s.mem.get (pa + j)) n)) ((s.rg b).setWidth _) ((s.rg d).setWidth _)).toNat ∧
        (∀ x, ¬(pa ≤ x ∧ x < pa + n) → t.mem.get x = s.mem.get x) ∧ t.me.pc = s.me.pc + 4 ∧
        ∀ e, e ≠ d → t.rg e = s.rg e

/-- 10 R193, R194: LDBIT and LDBITS return w bits of scratch from a bit pointer, STBIT writes them and no other bit; .INC and
.SET leave the pointer past them, .XCH exchanges it. -/
def Sys2Proof.Claims.BitAccess : Prop :=
  ∀ (a b : GReg) (pm : PtrMode) (p : BpReg) (n : Fin 32) (l : La) (s : State) (bp : BitVec 22), Calm s →
    bp = (if pm = .setp then (s.rg b).setWidth 22 else s.me.bp p) →
    (let old := s.me.bp p
     exec (.ldbit a b .xch p n l) s = .next ((s.modMe fun t => t.putBp p ((s.rg b).setWidth 22)).writeLate a
      (old.zeroExtend 64) l)) ∧
    (pm ≠ .xch → bp.toNat + n.val + 1 ≤ 2 ^ 22 →
      s.mine.scratchOk (bp.toNat / 8) ((bp.toNat + n.val) / 8 - bp.toNat / 8 + 1) = true →
      let s' := if pm = .keep then s else s.modMe fun t => t.putBp p (bp + BitVec.ofNat 22 (n.val + 1))
      (touches s.mine.spois (bp.toNat / 8) ((bp.toNat + n.val) / 8 - bp.toNat / 8 + 1) = false →
        (∃ v, exec (.ldbit a b pm p n l) s = .next (s'.writeLate a v l) ∧
          ∀ j < 64, v.getLsbD j = (decide (j ≤ n.val) && scratchBit s (bp.toNat + j))) ∧
        ∃ v, exec (.ldbits a b pm p n l) s = .next (s'.writeLate a v l) ∧
          ∀ j < 64, v.getLsbD j = scratchBit s (bp.toNat + min j n.val)) ∧
      ∃ t, exec (.stbit a b pm p n) s = .next t ∧
        (∀ x < 2 ^ 22, scratchBit t x = if bp.toNat ≤ x ∧ x ≤ bp.toNat + n.val then (s.rg a).getLsbD (x - bp.toNat)
          else scratchBit s x) ∧
        t.me.bp p = (if pm = .keep then s.me.bp p else bp + BitVec.ofNat 22 (n.val + 1)) ∧ t.me.pc = s.me.pc + 4 ∧
        (∀ e, t.rg e = s.rg e) ∧ ∀ x, t.mem.get x = s.mem.get x)

/-- 10 R193, R194, R198, R199: atomics and bit accesses. -/
def Obligations.Atomics : Prop :=
  Claims.AtomicAccess ∧ Claims.BitAccess

/-- 05 R93, 10 R195: with nothing outstanding a fence goes on; one with acquire of scope CLU or wider drops the core's RC
lines (04 R80; log entry 96); none writes a register or a byte. FENCE.REL goes on though stores are not acknowledged, and
then holds what must follow them. One with release is remembered for what the strand sends (05 R98; log entry 96). -/
def Sys2Proof.Claims.Fences : Prop :=
  (∀ (c : Scope) (s : State), Calm s →
    exec (.fenceAcq c) s = .next (acquiring s true c).advance ∧
    (∃ t, exec (.fenceRel c) s = .next t ∧
      t.me = { wentOn s.me (s.me.pc + 4) with rel := none, fence := some (widest s.me.fence c) } ∧ t.mem = s.mem ∧
      ∀ k, (t.core k).scratch = (s.core k).scratch ∧ (t.core k).lines = (s.core k).lines) ∧
    (∃ t, exec (.fenceAr c) s = .next t ∧
      t.me = { wentOn s.me (s.me.pc + 4) with rel := none, fence := some (widest s.me.fence c) } ∧ t.mem = s.mem ∧
      (∀ k, (t.core k).scratch = (s.core k).scratch) ∧
      t.mine.lines = if c = .str ∨ c = .cor then s.mine.lines else s.mine.lines.filter fun x => decide (x.ty ≠ .rc)) ∧
    ∃ t, exec .fenceSc s = .next t ∧
      t.me = { wentOn s.me (s.me.pc + 4) with rel := none, fence := some (widest s.me.fence .sys) } ∧ t.mem = s.mem ∧
      (∀ k, (t.core k).scratch = (s.core k).scratch) ∧ t.mine.lines = s.mine.lines.filter fun x => decide (x.ty ≠ .rc)) ∧
  ∀ (c : Scope) (s : State) (j : Nat) (e : JEnt), Quiet s → s.mine.journal = [(j, e)] → e.v = true → e.slot = s.cur.slot →
    ∃ t, exec (.fenceRel c) s = .next t ∧ t.mem = s.mem ∧ (∀ k, (t.core k).scratch = (s.core k).scratch) ∧
      t.me = { wentOn s.me (s.me.pc + 4) with rel := some (widest s.me.rel c), fence := some (widest s.me.fence c) }

/-- 10 R196, R197: PREF never traps, whatever its address, and writes no register of the strand and no byte of scratch, nor of
memory where no bank is in cache mode (log entry 99). FLUSH of no bytes goes on at once; one of a physical or a virtual range
waits for the visits to its lines, and goes on when they are done: for a physical range always, for a virtual one of
one granule where its translation succeeds. A length of 2^40 bytes or more traps with BADADDR. -/
def Sys2Proof.Claims.PrefetchAndFlush : Prop :=
  (∀ (a : GReg) (w : Bool) (c : Scope) (p : BitVec 6) (s : State), Quiet s →
    ∃ t, exec (.pref a w c p) s = .next t ∧ t.me = wentOn s.me (s.me.pc + 4) ∧
      (∀ k, (t.core k).scratch = (s.core k).scratch) ∧ (s.mine.cacheBanks = [] → t.mem = s.mem)) ∧
  (∀ (d a : GReg) (c : Scope) (s : State), s.rg d = 0 → exec (.flush d a c) s = .next s.advance) ∧
  (∀ (d a : GReg) (c : Scope) (s : State) (x : Nat) (phys : Bool), 0 < (s.rg d).toNat → (s.rg d).toNat < 2 ^ 40 →
    space s.me.sup (s.rg a) = .ok (if phys then .phys x else .virt x) →
    exec (.flush d a c) s = .next (withMe s { s.me with
      st := .waiting (.flush (x / 128 * 128) ((x + (s.rg d).toNat + 127) / 128 * 128) phys c) })) ∧
  (∀ (d a : GReg) (c : Scope) (s : State), 2 ^ 40 ≤ (s.rg d).toNat →
    ((∃ v, space s.me.sup (s.rg a) = .ok (.virt v)) ∨ ∃ v, space s.me.sup (s.rg a) = .ok (.phys v)) →
    exec (.flush d a c) s = .next (s.trap Cause.badAddr (s.rg a))) ∧
  (∀ (lo hi : Nat) (c : Scope) (s : State), Quiet s → s.me.st = .waiting (.flush lo hi true c) →
    s.storesOut s.cur.core s.cur.slot = false →
    ∃ t, exec (.flushComplete s.cur.core s.cur.slot) s = .next t ∧ t.me = wentOn s.me (s.me.pc + 4)) ∧
  ∀ (lo hi : Nat) (c : Scope) (s s1 : State) (pa pte tag : Nat) (ty : PageTy) (shut : Bool) (ver : BitVec 16), Quiet s →
    s.me.st = .waiting (.flush lo hi false c) → s.storesOut s.cur.core s.cur.slot = false → lo < hi → hi ≤ 2 ^ 48 →
    lo / 2 ^ 16 = (hi - 1) / 2 ^ 16 →
    (withMe s { s.me with st := .ready }).translate s.agent lo .load = (s1, .ok pa ty shut ver pte tag) →
    ∃ t, exec (.flushComplete s.cur.core s.cur.slot) s = .next t ∧ t.me = wentOn s.me (s.me.pc + 4)

/-- Fences, prefetches and flushes. Choices of the model that it states: log 96, 99. -/
def Obligations.FencesAndFlushes : Prop :=
  Claims.Fences ∧ Claims.PrefetchAndFlush

/-! ## Replay, lead streams and barriers -/

namespace Sys2Proof.Claims

/-- Whether a legal word may stand in an RPT's body: its major, or its being CKCLR, CKA or CKAF (08 R157). -/
def inBody (x : BitVec 32) (i : Instr) : Bool :=
  x.toNat / 2 ^ 26 ∈ [0x01, 0x02, 0x03, 0x04, 0x05, 0x06, 0x07, 0x08, 0x09, 0x0A, 0x30, 0x31, 0x32] ||
  match i with
  | .ckclr _ | .cka .. | .ckaf .. => true
  | _ => false

/-- The strand parked at a barrier's phase goes on with the phase's wait status, written late (10 R202). -/
def Woken (t t' : Strand) (d : GReg) (l : La) (w : Word) : Prop :=
  t'.st = .ready ∧ t'.pc = t.pc + 4 ∧ (l = 0 → t'.g d = w) ∧ ∀ e, e ≠ d → t'.g e = t.g e

/-- What a wait status holds (10 R202): for an error phase bit 63 and the fault code, and bit 62 for an older phase. -/
def waitWord (err : Bool) (fault : BitVec 8) (older : Bool) : Word :=
  BitVec.ofNat 64 ((if err then 2 ^ 63 + fault.toNat else 0) + if older then 2 ^ 62 else 0)

/-- A follower of core `c`'s cluster, in slot `n`, is left with this of its lead's replay when it detaches (log entry 93). -/
def leadRest (s : State) (c n : Nat) : Option Replay :=
  let k := s.core (leaderOf (clusterOf c))
  match k.replay with
  | some r => if (k.strand r.slot).fl = .lead then some { r with slot := n } else none
  | none => none

/-- A follower that has detached: it goes on at `pc`, unless it waits in an instruction that it has executed. -/
def apart (t : Strand) (pc : Word) (rest : Option Replay) : Strand :=
  if t.runs then { t with fl := .none, rest := rest, pc := pc, st := .ready } else { t with fl := .none, rest := rest }

/-- A barrier of the issuing core whose strands waiting for the current phase are parked, of this core, with nothing else
outstanding. -/
def WaitersQuiet (s : State) (n : BarNo) : Prop :=
  ∀ m d l p, (s.strand s.cur.core m).st = .parked (.bar n p d l) → m ≠ s.cur.slot ∧ (s.strand s.cur.core m).outs = []

end Sys2Proof.Claims

/-- 08 R157: RPT checks its body in order: a word that cannot be fetched, one that may not stand in a body, then the lease;
a follower takes part in its lead's replay; while
another strand replays it waits; with a count of 0 it goes past the body, else the replay begins at the RPT, which
executes the body's words with the strides added to their register numbers (shown for ADD, ADDI, LI, VFMA and CKCLR). -/
def Sys2Proof.Claims.Replays : Prop :=
  (∀ (len : Fin 16) (a : GReg) (sd sa sb : Fin 32) (s s1 : State) (c : BitVec 8) (p : Word),
    s.fetchWords s.agent (s.me.pc + 4) (len.val + 1) = .error (s1, .bad c p) →
    exec (.rpt len a sd sa sb) s = .next (s1.trap c p)) ∧
  (∀ (len : Fin 16) (a : GReg) (sd sa sb : Fin 32) (s s1 : State) (ws : List (BitVec 32)),
    s.fetchWords s.agent (s.me.pc + 4) (len.val + 1) = .ok (s1, ws) →
    ((∃ w ∈ ws, ∀ i, decode w = .ok i → inBody w i = false) →
      exec (.rpt len a sd sa sb) s = .next (s1.trap 0x18 s1.me.pc)) ∧
    ((∀ w ∈ ws, ∃ i, decode w = .ok i ∧ inBody w i = true) →
      ((∃ w ∈ ws, 0x30 ≤ w.toNat / 2 ^ 26) → s.me.vl = false → s.cur.slot < 17 →
        exec (.rpt len a sd sa sb) s = .next (s1.trap 0x11 s1.me.pc)) ∧
      (s.me.vl = true ∨ s.cur.slot ∈ [17, 18] ∨ (∀ w ∈ ws, w.toNat / 2 ^ 26 < 0x30) →
        (s.me.fl = .follower ∨ s.me.fl = .owes →
          exec (.rpt len a sd sa sb) s = .next (s1.goto (s1.leadPc s.cur.core))) ∧
        (s.me.fl ≠ .follower → s.me.fl ≠ .owes → (∃ r, s1.mine.replay = some r ∧ r.slot ≠ s.cur.slot) → exec (.rpt len a sd sa sb) s = .next s1.block) ∧
        (s.me.fl ≠ .follower → s.me.fl ≠ .owes → (s.rg a).toNat % 2 ^ 12 = 0 → s1.mine.replay = none → exec (.rpt len a sd sa sb) s = .next (s1.goto (s.me.pc + 8 + BitVec.ofNat 64 (4 * len.val)))) ∧
        (s.me.fl ≠ .follower → s.me.fl ≠ .owes → (s.rg a).toNat % 2 ^ 12 ≠ 0 → s1.mine.replay = none →
          exec (.rpt len a sd sa sb) s = .next ((s1.goto s.me.pc).modMine fun k => { k with
            replay := some ⟨s.cur.slot, ws, (s.rg a).toNat % 2 ^ 12, 0, 0, sd.val, sa.val, sb.val⟩ }))))) ∧
  ∀ (r : Replay) (w : BitVec 32), r.body.getD r.j 0 = w →
    (∀ d a b, decode w = .ok (.add d a b) →
      r.instr = some (.add (Fin.ofNat 16 (d + r.i * r.sd)) (Fin.ofNat 16 (a + r.i * r.sa)) (Fin.ofNat 16 (b + r.i * r.sb)))) ∧
    (∀ d a i, decode w = .ok (.addi d a i) →
      r.instr = some (.addi (Fin.ofNat 16 (d + r.i * r.sd)) (Fin.ofNat 16 (a + r.i * r.sa)) i)) ∧
    (∀ d i, decode w = .ok (.li d i) → r.instr = some (.li (Fin.ofNat 16 (d + r.i * r.sd)) i)) ∧
    (∀ d a b k t, decode w = .ok (.vfma d a b k t) →
      r.instr = some (.vfma (Fin.ofNat 32 (d + r.i * r.sd)) (Fin.ofNat 32 (a + r.i * r.sa)) (Fin.ofNat 32 (b + r.i * r.sb)) k t)) ∧
    ∀ c, decode w = .ok (.ckclr c) → r.instr = some (.ckclr c)

/-- 03 R63, R64, 09 R179: FOLLOW makes a strand of the leader core its cluster's lead stream and a strand of another core
wait for one; UNFOLLOW by the lead releases every follower, one that is not waiting or parked at the pc after it, and does
nothing by a strand with no part; a follower that has not issued for 64 cycles detaches where it stands, with what is left of
its lead's replay (log entry 93), one that found no lead for 4096 goes on. -/
def Sys2Proof.Claims.LeadStreams : Prop :=
  (∀ s : State, Quiet s → 16 ≤ s.cur.slot → exec .follow s = .next (s.trap 0x12 s.me.pc) ∧
    exec .unfollow s = .next (s.trap 0x12 s.me.pc)) ∧
  (∀ s : State, Quiet s → s.cur.slot < 16 → s.me.intrap = false →
    (s.mine.strands.all fun x => decide (x.2.fl = .none)) = true → exec .follow s = .next (withMe s { wentOn s.me (s.me.pc + 4) with
      fl := if leaderOf (clusterOf s.cur.core) = s.cur.core then .lead else .waitLead }) ∧
    exec .unfollow s = .next s.advance) ∧
  (∀ s : State, Quiet s → s.cur.slot < 16 → s.me.intrap = false → s.me.fl = .lead →
    ∃ t, exec .unfollow s = .next t ∧ t.me = { wentOn s.me (s.me.pc + 4) with fl := .none } ∧
      ∀ c n, c < 512 → clusterOf c = clusterOf s.cur.core → n < 19 → (s.strand c n).fl = .follower →
        t.strand c n = apart (s.strand c n) (s.me.pc + 4) (leadRest s c n)) ∧
  ∀ (s : State) (c n : Nat), n < 19 → (∀ m, m ≠ n → (s.strand c m).fl = .none) →
    ((s.strand c n).fl = .follower → 64 ≤ (s.strand c n).age →
      exec (.followerDetach c) s = .next (s.setStrand c n (apart (s.strand c n) (s.strand c n).pc (leadRest s c n)))) ∧
    ((s.strand c n).fl = .owes → 64 ≤ (s.strand c n).age →
      exec (.followerDetach c) s = .next (s.setStrand c n { s.strand c n with fl := .none })) ∧
    ((s.strand c n).fl = .waitLead → 4096 ≤ (s.strand c n).age →
      exec (.followTimeout c) s = .next (s.setStrand c n (if (s.strand c n).runs
        then { s.strand c n with fl := .none, st := .ready } else { s.strand c n with fl := .none })))

/-- RPT replays, and FOLLOW. Choices of the model that it states: log 93. -/
def Obligations.Streams : Prop :=
  Claims.Replays ∧ Claims.LeadStreams

/-- 10 R202, R203: BINIT sets COUNT and zeroes the rest; an arrival that does not complete its phase adds 1 to ARRIVED; the one
that completes it clears ERR and FAULT, steps PHASE and makes every strand parked for the phase READY with status 0; an
error arrival and BRESET complete the phase at once, with ERR set. -/
def Sys2Proof.Claims.BarrierArrivals : Prop :=
  ∀ (a : GReg) (n : BarNo) (s : State), Calm s → s.me.st = .ready → WaitersQuiet s n →
    (let b := s.mine.bar n
     ((s.rg a).toNat % 2 ^ 16 = 0 → exec (.binit a n) s = .next (s.trap 0x19 s.me.pc)) ∧
     ((s.rg a).toNat % 2 ^ 16 ≠ 0 → b.arrived ≠ 0 → exec (.binit a n) s = .next (s.trap 0x1A s.me.pc)) ∧
     ((s.rg a).toNat % 2 ^ 16 ≠ 0 → b.arrived = 0 → s.mine.barParked n = false →
       ∃ t, exec (.binit a n) s = .next t ∧ t.mine.bar n = ⟨(s.rg a).setWidth 16, 0, 0, false, 0, []⟩ ∧
         (∀ m, m ≠ n → t.mine.bar m = s.mine.bar m) ∧ t.me = wentOn s.me (s.me.pc + 4) ∧ t.mem = s.mem) ∧
     (b.count = 0 → exec (.barr a n) s = .next (s.trap 0x19 s.me.pc) ∧ exec (.breset n) s = .next s.advance) ∧
     (b.count ≠ 0 → b.arrived + 1 ≠ b.count.toNat →
       ∃ t, exec (.barr a n) s = .next t ∧ t.mine.bar n = { b with arrived := b.arrived + 1, who := b.who ++ [s.cur.slot] } ∧
         t.rg a = b.phase.zeroExtend 64 ∧ t.me.pc = s.me.pc + 4 ∧ (∀ e, e ≠ a → t.rg e = s.rg e) ∧ t.mem = s.mem ∧
         ∀ m, m ≠ s.cur.slot → t.strand s.cur.core m = s.strand s.cur.core m) ∧
     (b.count ≠ 0 → b.arrived + 1 = b.count.toNat →
       ∃ t, exec (.barr a n) s = .next t ∧ t.mine.bar n = ⟨b.count, b.phase + 1, 0, false, 0, []⟩ ∧
         t.rg a = b.phase.zeroExtend 64 ∧ t.me.pc = s.me.pc + 4 ∧
         ∀ m d l, (s.strand s.cur.core m).st = .parked (.bar n b.phase d l) →
           Woken (s.strand s.cur.core m) (t.strand s.cur.core m) d l 0) ∧
     (b.count ≠ 0 →
       ∃ t, exec (.breset n) s = .next t ∧ t.mine.bar n = ⟨0, b.phase + 1, 0, true, 0, []⟩ ∧ t.me.pc = s.me.pc + 4 ∧
         ∀ m d l, (s.strand s.cur.core m).st = .parked (.bar n b.phase d l) →
           Woken (s.strand s.cur.core m) (t.strand s.cur.core m) d l 0x8000000000000000)) ∧
    ∀ (c id src : Nat) (job : BitVec 16) (code : BitVec 8), s.reach c = c → s.routerHeld c = false → s.shut c = false →
      (src = c ∨ s.inHoods job c = true) →
      (let b := (s.core c).bar n
       (s.packets = [⟨id, job, src, c, .arrive n⟩] → ∃ t, exec (.barrierArrival c n) s = .next t ∧ t.packets = [] ∧
         (t.core c).bar n = if b.count = 0 then b else if b.arrived + 1 = b.count.toNat then ⟨b.count, b.phase + 1, 0, false, 0, []⟩
           else { b with arrived := b.arrived + 1 }) ∧
       (s.packets = [⟨id, job, src, c, .errArrive n code⟩] → ∃ t, exec (.errorArrival c n) s = .next t ∧ t.packets = [] ∧
         (t.core c).bar n = if b.count = 0 then b else ⟨b.count, b.phase + 1, 0, true, code, []⟩))

/-- 10 R202, 19 R335: BWAIT parks for the phase that goes on, returns at once the status of one that has completed, and traps
where the barrier is uninitialised or the distance too great; BAW arrives and waits; neither parks a handler strand; BSTAT
returns the state word. Bit 62 of a status stands beside the status kept of the last phase (log entry 19). -/
def Sys2Proof.Claims.BarrierWaits : Prop :=
  ∀ (a g : GReg) (n : BarNo) (l : La) (s : State), Calm s → s.me.st = .ready →
    let b := s.mine.bar n
    let d := (b.phase - (s.rg g).setWidth 16).toNat
    (b.count = 0 → d = 0 → exec (.bwait a g n l) s = .next (s.trap 0x19 s.me.pc)) ∧
    (2 ^ 15 ≤ d → exec (.bwait a g n l) s = .next (s.trap 0x19 s.me.pc)) ∧
    (b.count ≠ 0 → d = 0 → exec (.bwait a g n l) s = .next (
      if s.cur.slot < 16 then withMe s { s.me with st := .parked (.bar n b.phase a l) } else s.trap 0x12 s.me.pc)) ∧
    (1 ≤ d → d < 2 ^ 15 → exec (.bwait a g n l) s = .next (s.writeLate a (waitWord b.err b.fault (1 < d)) l)) ∧
    (b.count = 0 → exec (.baw a n l) s = .next (s.trap 0x19 s.me.pc)) ∧
    (b.count ≠ 0 → b.arrived + 1 ≠ b.count.toNat → 16 ≤ s.cur.slot → exec (.baw a n l) s = .next (s.trap 0x12 s.me.pc)) ∧
    (b.count ≠ 0 → b.arrived + 1 ≠ b.count.toNat → s.cur.slot < 16 →
      ∃ t, exec (.baw a n l) s = .next t ∧ t.me = { s.me with st := .parked (.bar n b.phase a l) } ∧
        t.mine.bar n = { b with arrived := b.arrived + 1, who := b.who ++ [s.cur.slot] }) ∧
    (b.count ≠ 0 → b.arrived + 1 = b.count.toNat →
      ∃ t, exec (.baw a n l) s = .next t ∧ t.me.st = .ready ∧ t.me.pc = s.me.pc + 4 ∧ (l = 0 → t.rg a = 0) ∧
        (∀ e, e ≠ a → t.rg e = s.rg e) ∧ t.mine.bar n = ⟨b.count, b.phase + 1, 0, false, 0, []⟩) ∧
    (b.arrived < 2 ^ 16 → exec (.bstat a n l) s = .next (s.writeLate a (BitVec.ofNat 64 (b.count.toNat + 2 ^ 16 * b.arrived +
      2 ^ 32 * b.phase.toNat + 2 ^ 48 * b.fault.toNat + (if b.err then 2 ^ 62 else 0) + if b.count = 0 then 0 else 2 ^ 63)) l))

/-- 10 R201 to R204: barriers. Choices of the model that it states: log 19. -/
def Obligations.Barriers : Prop :=
  Claims.BarrierArrivals ∧ Claims.BarrierWaits

/-! ## Copies, tags, rings and banks -/

namespace Sys2Proof.Claims

/-- Bits [lo + n − 1 : lo] of a word. -/
def field (w : Word) (lo n : Nat) : Nat := w.toNat / 2 ^ lo % 2 ^ n

/-- ValidPattern of 10 R206 on the 17 words of a block. -/
def GoodPattern (ws : List Word) : Prop :=
  let n := field (ws.getD 0 0) 0 4
  1 ≤ n ∧ n ≤ 8 ∧ field (ws.getD 0 0) 8 24 ≠ 0 ∧ field (ws.getD 0 0) 4 4 = 0 ∧ field (ws.getD 0 0) 32 32 = 0 ∧
  (∀ d < n, field (ws.getD (1 + 2 * d) 0) 0 24 ≠ 0 ∧ field (ws.getD (2 + 2 * d) 0) 0 24 = 0) ∧
  ∀ j < 17, 1 + 2 * n ≤ j → ws.getD j 0 = 0

/-- The pattern of a block: bytes per element; count and signed strides of each dimension (10 R205). -/
def blockPattern (ws : List Word) : Pattern :=
  { esize := field (ws.getD 0 0) 8 24,
    dims := (List.range (field (ws.getD 0 0) 0 4)).map fun d =>
      (field (ws.getD (1 + 2 * d) 0) 0 24, (ws.getD (1 + 2 * d) 0).toInt / 2 ^ 24, (ws.getD (2 + 2 * d) 0).toInt / 2 ^ 24) }

/-- A naturally aligned word of a core's own scratch that a party of a job may use: its offset. -/
structure OwnWord (s : State) (c : Nat) (job : BitVec 16) (sup : Bool) (a : Word) (off : Nat) : Prop where
  space : space sup a = .ok (.pkg c off)
  aligned : a.toNat % 8 = 0
  hood : s.inHoods job c = true
  here : s.reach c = c

/-- A copy whose next element may be performed. -/
structure Going (s : State) (c : Nat) (x : Copy) : Prop where
  only : (s.core c).copies = [x]
  powered : s.deaf = false
  sound : x.fault = none
  asked : x.hint = none
  open_ : x.complete = false
  left : x.done < x.pat.total

/-- The 32-bit field `i` of the ring object at a scratch offset: 2 SLOTS, 3 SLOTSZ, 4 RD, 5 WR, 6 FILL, 7 reserved (04 R88). -/
def ringField (s : State) (c off i : Nat) : Nat := number (fun j => (s.core c).scratch.get (off + 4 * i + j)) 4

/-- BASE of a ring. -/
def ringBase (s : State) (c off : Nat) : Nat := ringField s c off 0 + 2 ^ 32 * ringField s c off 1

/-- A sound ring object of the issuing core at an address (04 R88). -/
structure GoodRing (s : State) (r : Word) (off : Nat) : Prop where
  space : space s.me.sup r = .ok (.pkg s.cur.core off)
  aligned : r.toNat % 32 = 0
  scratch : s.mine.scratchOk off 32 = true
  clean : touches s.mine.spois off 32 = false
  slots : ∃ e, 1 ≤ e ∧ e ≤ 16 ∧ ringField s s.cur.core off 2 = 2 ^ e
  size : ringField s s.cur.core off 3 % 8 = 0 ∧ 8 ≤ ringField s s.cur.core off 3 ∧ ringField s s.cur.core off 3 ≤ 65536
  reserved : ringField s s.cur.core off 7 = 0

/-- The address of slot `i` of a ring. -/
def ringSlot (s : State) (off i : Nat) : Word :=
  BitVec.ofNat 64 (ringBase s s.cur.core off + ringField s s.cur.core off 3 * (i % ringField s s.cur.core off 2))

/-- Everything but bytes [lo, lo + n) of a core's scratch is as it was in memory and banks. -/
def OnlyScratch (s t : State) (c lo n : Nat) : Prop :=
  (∀ x, ¬(lo ≤ x ∧ x < lo + n) → (t.core c).scratch.get x = (s.core c).scratch.get x) ∧
  (∀ k x, k ≠ c → (t.core k).scratch.get x = (s.core k).scratch.get x) ∧ ∀ x, t.mem.get x = s.mem.get x

end Sys2Proof.Claims

/-- 10 R205, R206: CPY reads its pattern block, traps on one that is misaligned or not valid, waits while its tag is busy or
16 copies are held, and else clears its tag and queues the copy with the block's element size, counts and signed strides. -/
def Sys2Proof.Claims.CopyStarts : Prop :=
  ∀ (t : Fin 64) (d r p : GReg) (c : Scope) (q rel : Bool) (s : State),
    ((s.rg p).toNat % 8 ≠ 0 → exec (.cpy t d r p c q rel) s = .next (s.trap 0x04 (s.rg p))) ∧
    ∀ (s1 : State) (ws : List Word), (s.rg p).toNat % 8 = 0 → s.words (s.rg p) 17 = .ok (s1, ws) → s1.cur = s.cur →
      (¬GoodPattern ws → exec (.cpy t d r p c q rel) s = .next (s1.trap 0x1B (s.rg p))) ∧
      (GoodPattern ws → (∃ x, space s1.me.sup (s.rg r) = .ok x) → (∃ x, space s1.me.sup (s.rg d) = .ok x) →
        ((s1.mine.copies.any fun x => x.ring.isNone && x.tag = t) = true ∨ 16 ≤ s1.mine.copies.length →
          exec (.cpy t d r p c q rel) s = .next s1.block) ∧
        ((s1.mine.copies.any fun x => x.ring.isNone && x.tag = t) = false → s1.mine.copies.length < 16 → Calm s1 →
          ∃ t' : State, exec (.cpy t d r p c q rel) s = .next t' ∧ ∃ x : Copy, t'.mine.copies = s1.mine.copies ++ [x] ∧
            x.dst = s.rg d ∧ x.src = s.rg r ∧ x.pat = blockPattern ws ∧ x.tag = t ∧ x.ring = none ∧ x.done = 0 ∧
            x.scope = c ∧ x.acq = q ∧ x.rel = rel ∧ x.slot = s.cur.slot ∧ x.job = s1.me.job ∧ x.bases = s1.mine.bases ∧
            t'.mine.tags = s1.mine.tags &&& ~~~(1#64 <<< t.val) ∧ t'.me = { wentOn s1.me (s1.me.pc + 4) with rel := none } ∧
            t'.mem = s1.mem ∧ t'.mine.scratch = s1.mine.scratch))

/-- 10 R205, R207, 04 R86: element (i0, …) lies at Σ i·SSTR and Σ i·DSTR, i0 varying fastest; an element of one word of
scratch is copied and nothing else written; an element that faults stops the copy with the fault of its address. -/
def Sys2Proof.Claims.CopyElements : Prop :=
  (∀ (n i j : Nat) (ss ds : Int) (dims : List (Nat × Int × Int)), i < n →
    elemOffsets ((n, ss, ds) :: dims) (i + n * j) =
      ((elemOffsets dims j).1 + i * ss, (elemOffsets dims j).2 + i * ds)) ∧
  ∀ (s : State) (c id oa ob : Nat) (x : Copy) (a b : Word), s.agenda = [.copyElem c id 1] → c < 512 → x.id = id →
    Going s c x → x.pat.esize = 8 →
    a = x.src + BitVec.ofInt 64 (elemOffsets x.pat.dims x.done).1 →
    b = x.dst + BitVec.ofInt 64 (elemOffsets x.pat.dims x.done).2 →
    OwnWord s c x.job x.sup a oa → OwnWord s c x.job x.sup b ob → touches (s.core c).spois oa 8 = false →
    ((s.core c).scratchOk oa 8 = true → (s.core c).scratchOk ob 8 = true →
      ∃ t, step s = .next (State.settled t { s with agenda := [] }) ∧ (∀ j < 8, (t.core c).scratch.get (ob + j) = (s.core c).scratch.get (oa + j)) ∧
        OnlyScratch s t c ob 8 ∧ (t.core c).copies.map (·.done) = [x.done + 1]) ∧
    ((s.core c).scratchOk oa 8 = false → x.ring = none →
      ∃ t, step s = .next (State.settled t { s with agenda := [] }) ∧ OnlyScratch s t c 0 0 ∧
        (t.core c).copies = [{ x with fault := some ⟨0x90, BitVec.ofNat 6 x.tag.val, none, a, some id⟩ }])

/-- 10 R206, R207, R210, 02 R41, 04 R87: a copy whose elements are all performed sets its tag and leaves, a ring copy passes WR
over its slot, the tag of a strand that was cancelled is cleared; a fault reaches the strand as a trap; a refused request
of an edge engine backs off, is counted (17 R303) and is sent again. -/
def Sys2Proof.Claims.CopyEnds : Prop :=
  ∀ (s : State) (c : Nat) (x : Copy), (s.core c).copies = [x] → x.hint = none →
    (x.fault = none → x.complete = false → x.pat.total ≤ x.done → x.ring = none →
      ∃ t, exec (.copyComplete c x.id) s = .next t ∧ (t.core c).copies = [] ∧
        (t.core c).tags = (if x.orphan then (s.core c).tags &&& ~~~(1#64 <<< x.tag.val)
          else (s.core c).tags ||| (1#64 <<< x.tag.val)) ∧ OnlyScratch s t c 0 0) ∧
    (∀ off, x.fault = none → x.complete = false → x.pat.total ≤ x.done →
      x.ring = some (off, ringField s c off 5) →
      ∃ t, exec (.copyComplete c x.id) s = .next t ∧ (t.core c).copies = [] ∧
        ringField t c off 5 = (ringField s c off 5 + 1) % 2 ^ 32 ∧ ringField t c off 4 = ringField s c off 4 ∧
        (t.core c).tags = (s.core c).tags ∧ OnlyScratch s t c (off + 16) 8) ∧
    (∀ i, x.fault = some i → x.complete = false → x.orphan = false → (s.strand c x.slot).st ≠ .free →
      (s.strand c x.slot).strid = x.strid → (s.strand c x.slot).traps = [] → (s.strand c x.slot).held = none →
      exec (.copyFault c x.id) s = .next (s.setStrand c x.slot { s.strand c x.slot with traps := [i] })) ∧
    (∀ (e : Fin 4) (h : Fin 4096), x.edge = some e → x.done = 0 → x.fault = none → 16 ≤ h.val →
      exec (.edgeRefusal c x.id h) s = .next (s.setCore c { s.core c with
        copies := [{ x with hint := some h.val }], refusals := (s.core c).refusals + 1 }) ∧
      exec (.edgeResend c x.id) (s.setCore c { s.core c with copies := [{ x with hint := some h.val }] }) =
        .next (s.setCore c { s.core c with copies := [x] }))

/-- 10 R205 to R211: copies. -/
def Obligations.Copies : Prop :=
  Claims.CopyStarts ∧ Claims.CopyElements ∧ Claims.CopyEnds

/-- 10 R208, 05 R98 (log entry 96): TAGWANY returns the tags of its mask that are set, once one is; TAGWALL goes on once all
are; TAGFF returns the lowest, or 64; TAGCLR clears them. -/
def Sys2Proof.Claims.Tags : Prop :=
  ∀ (a b : GReg) (l : La) (s : State),
    let m := s.mine.tags &&& s.rg b
    (m = 0 → exec (.tagwany a b l) s = .next s.block) ∧
    (m ≠ 0 → exec (.tagwany a b l) s = .next ((acquiring s true .clu).writeLate a m l)) ∧
    (m ≠ s.rg b → exec (.tagwall b) s = .next s.block) ∧
    (m = s.rg b → exec (.tagwall b) s = .next (acquiring s true .clu).advance) ∧
    (∃ n, exec (.tagff a b l) s = .next ((acquiring s true .clu).writeLate a (BitVec.ofNat 64 n) l) ∧ n ≤ 64 ∧
      (n < 64 → m.getLsbD n = true) ∧ ∀ j < n, m.getLsbD j = false) ∧
    (Quiet s → ∃ t, exec (.tagclr b) s = .next t ∧ t.mine.tags = s.mine.tags &&& ~~~(s.rg b) ∧
      t.me = wentOn s.me (s.me.pc + 4) ∧ t.mem = s.mem ∧ t.mine.scratch = s.mine.scratch)

/-- 10 R209, 04 R88, 19 R336: the ring instructions on a sound ring object of the core's own scratch: RGINIT zeroes RD, WR and
FILL; RGFILL issues the copy of slot FILL and steps FILL, or waits while the ring is full; RGAWAIT returns the address of
slot RD + j once it is filled; RGREL steps RD, and traps on an empty ring. RGAWAIT acquires (05 R98; log entry 96). -/
def Sys2Proof.Claims.Rings : Prop :=
  ∀ (a b : GReg) (q r : Bool) (c : Scope) (n : Fin 32) (l : La) (s : State) (off : Nat), Calm s → GoodRing s (s.rg b) off →
    let f := ringField s s.cur.core off
    (ringBase s s.cur.core off % 8 ≠ 0 → exec (.rginit b) s = .next (s.trap 0x1C (s.rg b))) ∧
    (ringBase s s.cur.core off % 8 = 0 → ∃ t, exec (.rginit b) s = .next t ∧
      (∀ i, 4 ≤ i → i < 7 → ringField t s.cur.core off i = 0) ∧ OnlyScratch s t s.cur.core (off + 16) 16 ∧
      t.me = wentOn s.me (s.me.pc + 4)) ∧
    ((f 6 + 2 ^ 32 - f 4) % 2 ^ 32 = f 2 ∨ 16 ≤ s.mine.copies.length → exec (.rgfill b a q r c) s = .next s.block) ∧
    ((f 6 + 2 ^ 32 - f 4) % 2 ^ 32 ≠ f 2 → s.mine.copies.length < 16 →
      ∃ t : State, exec (.rgfill b a q r c) s = .next t ∧ ∃ x : Copy, t.mine.copies = s.mine.copies ++ [x] ∧
        x.dst = ringSlot s off (f 6) ∧ x.src = s.rg a ∧ x.pat = ⟨f 3, [(1, 0, 0)]⟩ ∧ x.ring = some (off, f 6) ∧
        x.done = 0 ∧ x.scope = c ∧ x.acq = q ∧ x.rel = r ∧ ringField t s.cur.core off 6 = (f 6 + 1) % 2 ^ 32 ∧
        OnlyScratch s t s.cur.core (off + 24) 8 ∧ t.me = { wentOn s.me (s.me.pc + 4) with rel := none }) ∧
    (f 2 ≤ n.val → exec (.rgawait a b n l) s = .next (s.trap 0x1C (s.rg b))) ∧
    (n.val < f 2 → exec (.rgawait a b n l) s = .next (if (f 5 + 2 ^ 32 - f 4) % 2 ^ 32 ≤ n.val then s.block
      else (acquiring s true .clu).writeLate a (ringSlot s off (f 4 + n.val)) l)) ∧
    (f 4 = f 5 → exec (.rgrel b) s = .next (s.trap 0x1C (s.rg b))) ∧
    (f 4 ≠ f 5 → ∃ t, exec (.rgrel b) s = .next t ∧ ringField t s.cur.core off 4 = (f 4 + 1) % 2 ^ 32 ∧
      ringField t s.cur.core off 5 = f 5 ∧ OnlyScratch s t s.cur.core (off + 16) 8 ∧ t.me = wentOn s.me (s.me.pc + 4))

/-- Tags and ring objects. Choices of the model that it states: log 96. -/
def Obligations.TagsAndRings : Prop :=
  Claims.Tags ∧ Claims.Rings

/-- 10 R211, 04 R76: BANKSET traps on reserved bits or mode 11 of a selected bank, then on a bound FIFO bank that would leave
its mode; else it waits while a bank it selects is changing; every selected bank whose mode differs then begins to change
and the strand waits, or where none differs goes on; a change that is complete leaves the bank in its new mode, reading as
zero, and the BANKSET that began it returns. -/
def Obligations.BankModes : Prop :=
  (∀ (b : GReg) (s : State),
    let w := s.rg b
    let sel (i : Nat) : Prop := i < 16 ∧ w.getLsbD (32 + i) = true
    (field w 48 16 ≠ 0 ∨ (∃ i, sel i ∧ field w (2 * i) 2 = 3) → exec (.bankset b) s = .next (s.trap 0x1D s.me.pc)) ∧
    (field w 48 16 = 0 → (∀ i, sel i → field w (2 * i) 2 ≠ 3) →
      ((∃ i, sel i ∧ s.mine.bank i = .fifo ∧ field w (2 * i) 2 ≠ 2 ∧ s.mine.bankBound i = true) →
        exec (.bankset b) s = .next (s.trap 0x1E s.me.pc)) ∧
      ((∀ i, sel i → s.mine.bank i = .fifo → field w (2 * i) 2 ≠ 2 → s.mine.bankBound i = false) → s.mine.bankq = [] →
        ((∃ x ∈ s.mine.busy, sel x.1) →
          ∃ t, exec (.bankset b) s = .next t ∧ t.me = { s.me with st := .waiting .bankset } ∧ t.mine.busy = s.mine.busy) ∧
        ((∀ x ∈ s.mine.busy, ¬sel x.1) →
          ((∀ i, sel i → field w (2 * i) 2 = (s.mine.bank i).code) → exec (.bankset b) s = .next s.advance) ∧
          ((∃ i, sel i ∧ field w (2 * i) 2 ≠ (s.mine.bank i).code) →
            ∃ t, exec (.bankset b) s = .next t ∧ t.me = { s.me with st := .waiting .bankset } ∧
              ∀ i m, (i, m) ∈ t.mine.busy ↔ (i, m) ∈ s.mine.busy ∨
                (sel i ∧ field w (2 * i) 2 = m.code ∧ s.mine.bank i ≠ m)))))) ∧
  ∀ (s : State) (c : Nat) (b : Fin 16) (m : BankMode), (s.core c).busy = [(b.val, m)] → (s.core c).lines = [] →
    (s.cores.all fun x => x.2.copies.isEmpty) = true → (∀ x ∈ s.accs, x.2.stage ≠ .bank) →
    ((s.core c).bankq = [] →
      ∃ t, exec (.bankModeChangeComplete c b) s = .next t ∧ (t.core c).bank b.val = m ∧ (t.core c).busy = [] ∧
        (∀ i, i ≠ b.val → (t.core c).bank i = (s.core c).bank i) ∧ (t.core c).fifo b.val = [] ∧
        (∀ x, x / 0x8000 = b.val → (t.core c).scratch.get x = 0) ∧
        OnlyScratch s t c (b.val * 0x8000) 0x8000) ∧
    ∀ (n : Nat) (set : List (Nat × BankMode)), (s.core c).bankq = [⟨n, set, some [b.val]⟩] → (s.strand c n).outs = [] →
      ∃ t, exec (.bankModeChangeComplete c b) s = .next t ∧ (t.core c).bank b.val = m ∧ (t.core c).busy = [] ∧
        (t.core c).bankq = [] ∧ t.strand c n = wentOn (s.strand c n) ((s.strand c n).pc + 4)

/-! ## Queue registers -/

namespace Sys2Proof.Claims

/-- Everything the issuing strand's next instruction may go on after, with a queue register of its core rebound. -/
def Bound (s t : State) (c : QReg) (b : Option QBind) : Prop :=
  t.mine.queue c = b ∧ (∀ d, d ≠ c → t.mine.queue d = s.mine.queue d) ∧ t.me.pc = s.me.pc + 4 ∧ t.me.st = .ready ∧
  (∀ e, t.rg e = s.rg e) ∧ (∀ x, t.mem.get x = s.mem.get x) ∧ t.mine.scratch = s.mine.scratch

/-- Word `i` of a vector register. -/
def vword (x : VWord) (i : Nat) : Word := x.extractLsb' (64 * i) 64

end Sys2Proof.Claims

/-- 10 R212, R213, R217: QBIND binds an unbound queue register for its strand and traps with QBOUND on a bound one; a FIFO
binding needs its bank in FIFO mode, a matrix port waits for the operation in progress, a mailbox binding takes the
records of its handler index; QFREE unbinds, a mailbox's records going back to the head of the mailbox. The
FADDR of BANKMODE is log entry 47's, and a mailbox that then holds more than 64 records log entry 105's. -/
def Sys2Proof.Claims.QueueBindings : Prop :=
  ∀ (a b : GReg) (c : QReg) (s : State), Quiet s →
    (s.mine.queue c ≠ none → ∀ i, i ∈ [Instr.qbindFifo a c, .qbindStream a b c, .qbindMa c, .qbindMb c, .qbindMout c,
      .qbindMbox a c] → exec i s = .next (s.trap 0x1E s.me.pc)) ∧
    (s.mine.queue c = none →
      (exec (.qfree c) s = .next s.advance) ∧
      (let n : Fin 16 := Fin.ofNat 16 (field (s.rg a) 0 4)
       (s.mine.bank n.val ≠ .fifo → exec (.qbindFifo a c) s = .next (s.trap 0x10 s.me.pc)) ∧
       (s.mine.bank n.val = .fifo → s.mine.busy = [] → ∃ t, exec (.qbindFifo a c) s = .next t ∧
        Bound s t c (some ⟨s.cur.slot, .fifo n⟩) ∧ t.mine.fifos = s.mine.fifos)) ∧
      (∀ s1 ws, (s.rg b).toNat % 8 = 0 → s.words (s.rg b) 17 = .ok (s1, ws) → Quiet s1 → GoodPattern ws →
        ∃ t, exec (.qbindStream a b c) s = .next t ∧
          Bound s1 t c (some ⟨s1.cur.slot, .stream (s1.rg a) (blockPattern ws) s1.me.sup s1.mine.bases [] 0 none⟩)) ∧
      (∀ i k, (i, k) ∈ [(Instr.qbindMa c, QKind.ma), (.qbindMb c, .mb), (.qbindMout c, .mout)] →
        (s.cur.slot ∈ [17, 18] → exec i s = .next (s.trap 0x1E s.me.pc)) ∧
        (s.cur.slot < 17 → (s.mine.queues.all fun x => decide (x.2.kind ≠ k)) = true →
          (s.mine.matrix.tile ≠ none → exec i s = .next s.block) ∧
          (s.mine.matrix.tile = none → ∃ t, exec i s = .next t ∧ Bound s t c (some ⟨s.cur.slot, k⟩)))) ∧
      (let h := field (s.rg a) 0 12
       (s.mine.queues.all fun x => !x.2.kind.diverts (BitVec.ofNat 12 h)) = true → s.mine.boxSpill false = [] →
        ∃ t, exec (.qbindMbox a c) s = .next t ∧
          Bound s t c (some ⟨s.cur.slot, .mbox (BitVec.ofNat 12 h)
            (((s.mine.box false).filter fun r => decide (field (r.getD 0 0) 0 12 = h)).flatMap (·.take 8))⟩) ∧
          t.mine.box false = (s.mine.box false).filter fun r => decide (field (r.getD 0 0) 0 12 ≠ h))) ∧
    ∀ k, s.mine.queue c = some ⟨s.cur.slot, k⟩ →
      (k = .ma ∧ (∃ t, s.mine.matrix.tile = some t ∧ t.aq = true) ∨ k = .mb ∧ (∃ x, s.mine.matrix.load = some x ∧ x.src = none) ∨
        k = .mout ∧ s.mine.matrix.tile ≠ none → exec (.qfree c) s = .next s.block) ∧
      ((∃ n, k = .fifo n) ∨ (∃ u p v o x n y, k = .stream u p v o x n y) ∨ s.mine.matrix.tile = none ∧ s.mine.matrix.load = none →
        ∃ t, exec (.qfree c) s = .next t ∧ Bound s t c none ∧ t.mine.fifos = s.mine.fifos ∧
          ∀ h (rs : List Rec), k = .mbox h rs.flatten → (∀ r ∈ rs, r.length = 8) → (t.mine.box false).map (·.take 8) =
            rs ++ (s.mine.box false).map (·.take 8))

/-- 10 R213, R214, R217, 02 R36: pushes and pops of a FIFO bank take and return its oldest words first, and wait where there is
no place or no word; a handler strand does not wait for a word; a matrix input port takes words; a stream's pop returns its
next element zero-extended, or QEND; an unbound register, another strand's and a kind of the wrong direction trap. -/
def Sys2Proof.Claims.QueueTransfers : Prop :=
  ∀ (a : GReg) (c : QReg) (n : VReg) (l : La) (s : State), Quiet s →
    (s.mine.queue c = none → exec (.qpush a c) s = .next (s.trap 0x1F s.me.pc) ∧
      exec (.qpop a c l) s = .next (s.trap 0x1F s.me.pc)) ∧
    (∀ m k, s.mine.queue c = some ⟨m, k⟩ → m ≠ s.cur.slot → exec (.qpush a c) s = .next (s.trap 0x20 s.me.pc) ∧
      exec (.qpop a c l) s = .next (s.trap 0x20 s.me.pc) ∧ exec (.qfree c) s = .next (s.trap 0x20 s.me.pc)) ∧
    (s.me.vl = false → s.cur.slot < 17 → exec (.vqpush c n) s = .next (s.trap 0x11 s.me.pc) ∧
      exec (.vqpop c n) s = .next (s.trap 0x11 s.me.pc)) ∧
    (∀ b, s.mine.queue c = some ⟨s.cur.slot, .fifo b⟩ →
      let ws := s.mine.fifo b.val
      (4096 ≤ ws.length → exec (.qpush a c) s = .next s.block) ∧
      (ws.length < 4096 → ∃ t, exec (.qpush a c) s = .next t ∧ t.mine.fifo b.val = ws ++ [s.rg a] ∧
        t.me = wentOn s.me (s.me.pc + 4) ∧ t.mem = s.mem ∧ t.mine.scratch = s.mine.scratch) ∧
      (ws = [] → exec (.qpop a c l) s = .next (if s.cur.slot < 16 then s.block else s.trap 0x12 s.me.pc)) ∧
      (∀ x xs, ws = x :: xs → exec (.qpop a c l) s =
        .next ((s.setCore s.cur.core { s.mine with fifos := s.mine.fifos.put b.val xs }).writeLate a x l)) ∧
      (s.me.vl = true → 4080 < ws.length → exec (.vqpush c n) s = .next s.block) ∧
      (s.me.vl = true → ws.length ≤ 4080 → ∃ t, exec (.vqpush c n) s = .next t ∧
        t.mine.fifo b.val = ws ++ (List.range 16).map (vword (s.me.vr n.val)) ∧ t.me = wentOn s.me (s.me.pc + 4)) ∧
      (s.me.vl = true → 16 ≤ ws.length → ∃ t, exec (.vqpop c n) s = .next t ∧ t.mine.fifo b.val = ws.drop 16 ∧
        (∀ i < 16, vword (t.me.vr n.val) i = ws.getD i 0) ∧ (∀ m : VReg, m ≠ n → t.me.vr m.val = s.me.vr m.val) ∧
        t.me.pc = s.me.pc + 4 ∧ ∀ e, t.rg e = s.rg e)) ∧
    (s.mine.queue c = some ⟨s.cur.slot, .ma⟩ → s.mine.matrix.porta.length < 512 →
      ∃ t, exec (.qpush a c) s = .next t ∧ t.mine.matrix = { s.mine.matrix with porta := s.mine.matrix.porta ++ [s.rg a] } ∧
        t.me = wentOn s.me (s.me.pc + 4)) ∧
    (∀ src p sup o rest read, ∀ b : List Byte,
      s.mine.queue c = some ⟨s.cur.slot, .stream src p sup o (.bytes b :: rest) read (some false)⟩ →
      (p.esize = 1 ∨ p.esize = 2 ∨ p.esize = 4 ∨ p.esize = 8) → b.length = p.esize →
      ∃ t : State, exec (.qpop a c l) s = .next (t.writeLate a (BitVec.ofNat 64 (number (fun j => b.getD j 0) p.esize)) l) ∧
        t.mine.queue c = some ⟨s.cur.slot, .stream src p sup o rest read (some false)⟩ ∧ t.me = s.me ∧
        exec (.qpush a c) s = .next (s.trap 0x21 s.me.pc)) ∧
    (∀ src p sup o read st, s.mine.queue c = some ⟨s.cur.slot, .stream src p sup o [] read st⟩ → st ≠ some true → p.esize = 8 →
      p.total * 8 ≤ read → exec (.qpop a c l) s = .next (s.trap 0x22 s.me.pc)) ∧
    ∀ h w ws, s.mine.queue c = some ⟨s.cur.slot, .mbox h (w :: ws)⟩ →
      ∃ t : State, exec (.qpop a c l) s = .next (t.writeLate a w l) ∧ t.mine.queue c = some ⟨s.cur.slot, .mbox h ws⟩ ∧ t.me = s.me

/-- 10 R215, R216, 04 R89: the copy unit reads a stream's elements ahead in order; VQPOP of the row output returns 32 values and
passes the row with its last strip; QSTAT returns the binding's word, 0 for an unbound register, and the free places of
the send queues. -/
def Sys2Proof.Claims.QueueStatus : Prop :=
  ∀ (a : GReg) (c : QReg) (n : VReg) (s : State), Quiet s →
    (∀ k oa src p sup o ahead i st, (s.core k).queue c = some ⟨st, .stream src p sup o ahead (8 * i) none⟩ → p.esize = 8 →
      i < p.total → ahead.length < 16 → (∀ x ∈ ahead, ∃ b, x = .bytes b) →
      OwnWord s k (s.strand k st).job sup (src + BitVec.ofInt 64 (elemOffsets p.dims i).1) oa →
      (s.core k).scratchOk oa 8 = true → touches (s.core k).spois oa 8 = false →
      ∃ t, exec (.streamReadahead k c) s = .next t ∧ (t.core k).queue c = some ⟨st, .stream src p sup o
        (ahead ++ [.bytes ((List.range 8).map fun j => (s.core k).scratch.get (oa + j))]) (8 * (i + 1)) none⟩ ∧
        OnlyScratch s t k 0 0) ∧
    (∀ r b, s.mine.queue c = some ⟨s.cur.slot, .mout⟩ → s.me.vl = true → s.mine.matrix.bufs = [(r, b)] → b.r % 2 = r →
      ∃ t, exec (.vqpop c n) s = .next t ∧ t.me.pc = s.me.pc + 4 ∧
        (∀ i < 32, (t.me.vr n.val).extractLsb' (32 * i) 32 = b.vals.getD (32 * b.strips + i) 0) ∧
        (32 * (b.strips + 1) < b.vals.length → t.mine.matrix.bufs = [(r, { b with strips := b.strips + 1 })] ∧
          t.mine.matrix.rows = s.mine.matrix.rows) ∧
        (b.vals.length ≤ 32 * (b.strips + 1) → s.mine.matrix.held = none → t.mine.matrix.bufs = [] ∧
          t.mine.matrix.rows = s.mine.matrix.rows + 1)) ∧
    ∃ v w, exec (.qstat a (.q c)) s = .next (s.write a v) ∧ exec (.qstat a .sq) s = .next (s.write a w) ∧
      (s.mine.queue c = none → v = 0) ∧
      (∀ m b, s.mine.queue c = some ⟨m, .fifo b⟩ → (s.mine.fifo b.val).length ≤ 4096 →
        v.toNat = 2 ^ 63 + 2 ^ 32 * (s.mine.fifo b.val).length + (4096 - (s.mine.fifo b.val).length)) ∧
      (∀ m, s.mine.queue c = some ⟨m, .ma⟩ → s.mine.matrix.porta.length ≤ 512 →
        v.toNat = 2 ^ 63 + 2 ^ 59 + (512 - s.mine.matrix.porta.length)) ∧
      (∀ m h ws, s.mine.queue c = some ⟨m, .mbox h ws⟩ → v.toNat = 2 ^ 63 + 2 ^ 58 * 5 + 2 ^ 32 * min ws.length 65535) ∧
      ((s.mine.sq false).length ≤ 16 → (s.mine.sq true).length ≤ 16 →
        w.toNat = (16 - (s.mine.sq false).length) + 2 ^ 8 * (16 - (s.mine.sq true).length))

/-- 10 R212 to R217: queue registers. Choices of the model that it states: log 47, 105. -/
def Obligations.Queues : Prop :=
  Claims.QueueBindings ∧ Claims.QueueTransfers ∧ Claims.QueueStatus

/-! ## Vectors -/

namespace Sys2Proof.Claims

/-- Lane `i` of width `w` (11 R219). -/
def vlane (w : Nat) (x : VWord) (i : Nat) : BitVec w := x.extractLsb' (w * i) w

/-- Whether a type's values are signed (06 R109). -/
def signedTy (ty : IntTy) : Bool := ty ∈ [.i8, .i16, .i32, .i64, .i4, .t2]

/-- The value of a lane: signed or unsigned by type, the reserved T2 code as 0 (06 R109). -/
def laneValue (ty : IntTy) (x : BitVec ty.width) : Int :=
  if ty = .t2 ∧ x.toNat = 2 then 0 else if signedTy ty then x.toInt else x.toNat

/-- The strand may use vector state (11 R218). -/
def Leased (s : State) : Prop := s.me.vl = true ∨ s.cur.slot ∈ [17, 18]

/-- What a vector instruction leaves as it was, but for the v, k and g register named. -/
structure VecStep (s t : State) (d : Option VReg) (q : Option KReg) (g : Option GReg) : Prop where
  pc : t.me.pc = s.me.pc + 4
  ready : t.me.st = .ready
  vs : ∀ m : VReg, d ≠ some m → t.me.vr m.val = s.me.vr m.val
  ks : ∀ m : KReg, q ≠ some m → t.me.kr m = s.me.kr m
  gs : ∀ e : GReg, g ≠ some e → t.rg e = s.rg e
  cs : ∀ m : CReg, t.me.cr m = s.me.cr m
  mem : ∀ x, t.mem.get x = s.mem.get x
  scratch : ∀ c x, (t.core c).scratch.get x = (s.core c).scratch.get x

/-- FMTBAD and SRSEED are as they were. -/
def SameModes (s t : State) : Prop := t.me.regs.fmtbad = s.me.regs.fmtbad ∧ t.me.regs.srseed = s.me.regs.srseed

/-- Bit `j` of a mask register, k0 being all ones (11 R219). -/
def active (s : State) (k : KReg) (j : Nat) : Bool := (s.me.kr k).getLsbD j

/-- The lanes of `vd` after a masked instruction: `f` where active, the old lane elsewhere (11 R220). -/
def MaskedLanes (s t : State) (w : Nat) (d : VReg) (k : KReg) (f : Nat → BitVec w) : Prop :=
  ∀ j < 1024 / w, vlane w (t.me.vr d.val) j = if active s k j then f j else vlane w (s.me.vr d.val) j

/-- What 11 R222 gives for an instruction of major 0x30: vd, va, vb, mask, type and the lane's result. -/
def intForm : Instr → Option (VReg × VReg × VReg × KReg × IntTy × (∀ w, BitVec w → BitVec w → BitVec w))
  | .vadd d a b k t => some (d, a, b, k, t, fun _ x y => x + y)
  | .vsub d a b k t => some (d, a, b, k, t, fun _ x y => x - y)
  | .vmul d a b k t => some (d, a, b, k, t, fun _ x y => x * y)
  | .vmulh d a b k t => some (d, a, b, k, t, fun w x y =>
      if signedTy t then ((x.signExtend (2 * w) * y.signExtend (2 * w)) >>> w).setWidth w
      else ((x.zeroExtend (2 * w) * y.zeroExtend (2 * w)) >>> w).setWidth w)
  | .vmin d a b k t => some (d, a, b, k, t, fun _ x y =>
      if (if signedTy t then x.toInt ≤ y.toInt else x.toNat ≤ y.toNat) then x else y)
  | .vmax d a b k t => some (d, a, b, k, t, fun _ x y =>
      if (if signedTy t then x.toInt ≤ y.toInt else x.toNat ≤ y.toNat) then y else x)
  | .vand d a b k t => some (d, a, b, k, t, fun _ x y => x &&& y)
  | .vor d a b k t => some (d, a, b, k, t, fun _ x y => x ||| y)
  | .vxor d a b k t => some (d, a, b, k, t, fun _ x y => x ^^^ y)
  | .vshl d a b k t => some (d, a, b, k, t, fun w x y => x <<< (y.toNat % w))
  | .vshr d a b k t => some (d, a, b, k, t, fun w x y => x >>> (y.toNat % w))
  | .vsra d a b k t => some (d, a, b, k, t, fun w x y => BitVec.ofInt w (x.toInt / 2 ^ (y.toNat % w)))
  | .vabs d a k t => some (d, a, a, k, t, fun _ x _ => if signedTy t ∧ x.toInt < 0 then -x else x)
  | .vneg d a k t => some (d, a, a, k, t, fun _ x _ => -x)
  | _ => none

/-- A comparison of two integers (11 R223). -/
def compares (c : Cond) (x y : Int) : Prop :=
  match c with
  | .eq => x = y
  | .ne => x ≠ y
  | .lt => x < y
  | .ge => y ≤ x

/-- The steps of SRSEED (06 R117). -/
def seedAfter : Nat → Word → Word
  | 0, s => s
  | n + 1, s =>
    let x := seedAfter n s
    let x := if x = 0 then 0x9E3779B97F4A7C15#64 else x
    let x := x ^^^ (x <<< 13)
    let x := x ^^^ (x >>> 7)
    x ^^^ (x <<< 17)

/-- The stochastic number of the n-th step from a seed. -/
def drawn (seed : Word) (n : Nat) : Nat := (seedAfter n seed).toNat / 2 ^ 32

/-- How many lanes below `j` a mask activates. -/
def activeBelow (s : State) (k : KReg) (j : Nat) : Nat := (List.range j).countP (active s k)

/-- What 11 R225 gives for an instruction of major 0x31 that rounds: vd, va, vb, mask, type, and the exact result from the mode
and the lanes of vd, va and vb. -/
def floatForm : Instr → Option (VReg × VReg × VReg × KReg × FltTy × (Rm → Fp → Fp → Fp → Fp))
  | .vfadd d a b k t => some (d, a, b, k, t, fun m _ x y => Fp.add m x y)
  | .vfsub d a b k t => some (d, a, b, k, t, fun m _ x y => Fp.add m x y.neg)
  | .vfmul d a b k t => some (d, a, b, k, t, fun _ _ x y => Fp.mul x y)
  | .vfma d a b k t => some (d, a, b, k, t, fun m z x y => Fp.add m z (Fp.mul x y))
  | .vfms d a b k t => some (d, a, b, k, t, fun m z x y => Fp.add m z (Fp.mul x y).neg)
  | .vfmin d a b k t => some (d, a, b, k, t, fun _ _ x y => Fp.least x y)
  | .vfmax d a b k t => some (d, a, b, k, t, fun _ _ x y => Fp.greatest x y)
  | .vrcp d a k t => some (d, a, a, k, t, fun _ _ x _ => x.rcp)
  | .vrsq d a k t => some (d, a, a, k, t, fun _ _ x _ => x.rsq)
  | .vexp2 d a k t => some (d, a, a, k, t, fun _ _ x _ => x.exp2)
  | .vlog2 d a k t => some (d, a, a, k, t, fun _ _ x _ => x.log2)
  | _ => none

/-- What R225 gives for the one that rounds nothing: vd, va, vb, mask, type, and the value. -/
def choiceForm : Instr → Option (VReg × VReg × VReg × KReg × FltTy × (Fp → Fp → Fp))
  | .vfabs d a k t => some (d, a, a, k, t, fun x _ => x.abs)
  | _ => none

/-- Result `i` of level n of the pairwise tree over `lanes` F32 codes (06 R123); the stochastic steps go level by level, and
within a level in ascending result index (11 R228). -/
def treeSum (m : Rm) (ftz : Bool) (seed : Word) (lanes : Nat) (f : Nat → Nat) : Nat → Nat → Nat
  | 0, i => f i
  | n + 1, i => (fpCode .f32 m (drawn seed (lanes - lanes / 2 ^ n + i + 1)) ftz
      (Fp.add m (fpIn .f32 ftz (treeSum m ftz seed lanes f n (2 * i)))
        (fpIn .f32 ftz (treeSum m ftz seed lanes f n (2 * i + 1))))).1

/-- log2 of the lanes of a wide float type. -/
def treeDepth (ty : FltTy) : Nat := if ty = .f32 then 5 else 6

end Sys2Proof.Claims

/-- 11 R219, R220, R222: each active lane of an integer instruction takes what its row of the table gives for the type, every
other lane keeps its value, and nothing else is written. -/
def Sys2Proof.Claims.VectorIntegers : Prop :=
  ∀ (i : Instr) (s : State) (d a b : VReg) (k : KReg) (ty : IntTy) (f : ∀ w, BitVec w → BitVec w → BitVec w),
    intForm i = some (d, a, b, k, ty, f) → i.wf = true → Quiet s → Leased s →
    ∃ t, exec i s = .next t ∧ VecStep s t (some d) none none ∧ SameModes s t ∧
      MaskedLanes s t ty.width d k fun j => f ty.width (vlane ty.width (s.me.vr a.val) j) (vlane ty.width (s.me.vr b.val) j)

/-- 11 R218: a vector, checksum or vector memory instruction of a strand that holds no lease traps with NOLEASE, before any
other of its causes. -/
def Sys2Proof.Claims.LeaseRequired : Prop :=
  ∀ (i : Instr) (s : State) (x : BitVec 32), encode i = some x → x.toNat / 2 ^ 26 ∈ [0x30, 0x31, 0x32, 0x33, 0x34] →
    i.wf = true → ¬Leased s → exec i s = .next (s.trap 0x11 s.me.pc)

/-- 11 R223, R224, R232: comparisons write the mask bit of each active lane and clear every other; a NaN compares unequal only;
VSEL takes each lane by its selector; the mask instructions act on all 512 bits, and k0 counts 512. -/
def Sys2Proof.Claims.ComparesAndMasks : Prop :=
  ∀ (s : State), Quiet s → Leased s →
    (∀ (c : Cond) (q k : KReg) (a b : VReg) (ty : IntTy), q ≠ 0 → ty ≠ .t2 →
      ∃ t, exec (.vcmp c q a b k ty) s = .next t ∧ VecStep s t none (some q) none ∧ SameModes s t ∧
        ∀ j < 512, (t.me.kr q).getLsbD j = (decide (j < 1024 / ty.width) && active s k j &&
          match c with
          | .eq => decide (laneValue ty (vlane _ (s.me.vr a.val) j) = laneValue ty (vlane _ (s.me.vr b.val) j))
          | .ne => decide (laneValue ty (vlane _ (s.me.vr a.val) j) ≠ laneValue ty (vlane _ (s.me.vr b.val) j))
          | .lt => decide (laneValue ty (vlane _ (s.me.vr a.val) j) < laneValue ty (vlane _ (s.me.vr b.val) j))
          | .ge => decide (laneValue ty (vlane _ (s.me.vr b.val) j) ≤ laneValue ty (vlane _ (s.me.vr a.val) j)))) ∧
    (∀ (c : Cond) (q k : KReg) (a b : VReg) (ty : FltTy), q ≠ 0 → ty.isWide = true →
      ∃ t, exec (.vfcmp c q a b k ty) s = .next t ∧ VecStep s t none (some q) none ∧ SameModes s t ∧
        ∀ j < 512, let x := fpOf ty (vlane (fltLane ty) (s.me.vr a.val) j).toNat
          let y := fpOf ty (vlane (fltLane ty) (s.me.vr b.val) j).toNat
          ((t.me.kr q).getLsbD j = true → j < 1024 / fltLane ty ∧ active s k j = true) ∧
          (j < 1024 / fltLane ty → active s k j = true →
            ((x = .nan ∨ y = .nan) → (t.me.kr q).getLsbD j = decide (c = .ne)) ∧
            (x ≠ .nan → y ≠ .nan → (t.me.kr q).getLsbD j = match c with
              | .eq => !x.lt y && !y.lt x
              | .ne => x.lt y || y.lt x
              | .lt => x.lt y
              | .ge => !x.lt y))) ∧
    (∀ (d a b : VReg) (k : KReg) (ty : IntTy), ∃ t, exec (.vsel d a b k ty) s = .next t ∧ VecStep s t (some d) none none ∧
      SameModes s t ∧ ∀ j < 1024 / ty.width, vlane ty.width (t.me.vr d.val) j =
        if active s k j then vlane ty.width (s.me.vr a.val) j else vlane ty.width (s.me.vr b.val) j) ∧
    ∀ (q a b : KReg) (d : GReg), q ≠ 0 →
      (∃ t, exec (.kand q a b) s = .next t ∧ VecStep s t none (some q) none ∧ t.me.kr q = s.me.kr a &&& s.me.kr b) ∧
      (∃ t, exec (.kor q a b) s = .next t ∧ VecStep s t none (some q) none ∧ t.me.kr q = s.me.kr a ||| s.me.kr b) ∧
      (∃ t, exec (.knot q a) s = .next t ∧ VecStep s t none (some q) none ∧ t.me.kr q = ~~~(s.me.kr a)) ∧
      (∃ t, exec (.kmov q a) s = .next t ∧ VecStep s t none (some q) none ∧ t.me.kr q = s.me.kr a) ∧
      (∃ t, exec (.kpopc d a) s = .next t ∧ VecStep s t none none (some d) ∧
        t.rg d = BitVec.ofNat 64 ((List.range 512).countP (active s a))) ∧ s.me.kr 0 = BitVec.allOnes 512

/-- Integer vector instructions, comparisons and masks. -/
def Obligations.VectorIntegersAndCompares : Prop :=
  Claims.VectorIntegers ∧ Claims.ComparesAndMasks

/-- 11 R226, R231: broadcasts, extraction, insertion, permutation and slides move lanes as their rows state; VPACK truncates
pairs of lanes, VUNPACK widens a half by type. -/
def Sys2Proof.Claims.VectorMoves : Prop :=
  ∀ (d a b : VReg) (g h : GReg) (k : KReg) (ty : IntTy) (s : State), Quiet s → Leased s →
    let w := ty.width
    let n := 1024 / w
    (∃ t, exec (.vbcast d g k ty) s = .next t ∧ VecStep s t (some d) none none ∧ SameModes s t ∧
      MaskedLanes s t w d k fun _ => (s.rg g).setWidth w) ∧
    (∃ t, exec (.vext g a h ty) s = .next t ∧ VecStep s t none none (some g) ∧ SameModes s t ∧
      let x := vlane w (s.me.vr a.val) ((s.rg h).toNat % n)
      t.rg g = if ty ∈ [.i8, .i16, .i32, .i64, .i4] then x.signExtend 64 else x.zeroExtend 64) ∧
    (∃ t, exec (.vins d g h k ty) s = .next t ∧ VecStep s t (some d) none none ∧ SameModes s t ∧
      MaskedLanes s t w d k fun j => if j = (s.rg h).toNat % n then (s.rg g).setWidth w else vlane w (s.me.vr d.val) j) ∧
    (∃ t, exec (.vperm d a b k ty) s = .next t ∧ VecStep s t (some d) none none ∧ SameModes s t ∧
      MaskedLanes s t w d k fun j => vlane w (s.me.vr a.val) ((vlane w (s.me.vr b.val) j).toNat % n)) ∧
    (∃ t, exec (.vslide d a h k ty) s = .next t ∧ VecStep s t (some d) none none ∧ SameModes s t ∧
      MaskedLanes s t w d k fun j =>
        if 0 ≤ (j : Int) + (s.rg h).toInt ∧ (j : Int) + (s.rg h).toInt < n then
          vlane w (s.me.vr a.val) ((j : Int) + (s.rg h).toInt).toNat else 0) ∧
    (ty.packs = true →
      (∃ t, exec (.vpack d a b k ty) s = .next t ∧ VecStep s t (some d) none none ∧ SameModes s t ∧
        MaskedLanes s t w d k fun j => if j < n / 2 then (vlane (2 * w) (s.me.vr a.val) j).setWidth w
          else (vlane (2 * w) (s.me.vr b.val) (j - n / 2)).setWidth w) ∧
      ∀ hi : Bool, ∃ t, exec (.vunpack d a hi k ty) s = .next t ∧ VecStep s t (some d) none none ∧
        (MaskedLanes s t (2 * w) d k fun j => BitVec.ofInt (2 * w)
          (laneValue ty (vlane w (s.me.vr a.val) ((if hi then n / 2 else 0) + j)))) ∧
        t.me.regs.srseed = s.me.regs.srseed ∧
        (t.me.regs.fmtbad = true ↔ s.me.regs.fmtbad = true ∨ (ty = .t2 ∧ ∃ j < n / 2, active s k j = true ∧
          (vlane w (s.me.vr a.val) ((if hi then n / 2 else 0) + j)).toNat = 2)))

/-- 11 R227, R228, 06 R123: integer reductions give the exact sum modulo 2^64 and the greatest active value, or the least
value of the type; float sums go by the pairwise tree, inactive lanes −0, with SR one step of SRSEED for each addition; the
float maximum is the canonical NaN where an active lane is one, −∞ with no active lane, else the greatest active lane, +0
above −0; the rest of vd is cleared. The maximum takes no step (log entry 14). -/
def Sys2Proof.Claims.Reductions : Prop :=
  ∀ (d a : VReg) (k : KReg) (s : State), Quiet s → Leased s →
    (∀ ty : IntTy,
      let vals := ((List.range (1024 / ty.width)).filter (active s k)).map fun j => laneValue ty (vlane ty.width (s.me.vr a.val) j)
      let bad : Prop := ty = .t2 ∧ ∃ j < 1024 / ty.width, active s k j = true ∧ (vlane ty.width (s.me.vr a.val) j).toNat = 2
      (∃ t, exec (.vredadd d a k ty) s = .next t ∧ VecStep s t (some d) none none ∧
        t.me.vr d.val = (BitVec.ofInt 64 vals.sum).zeroExtend 1024 ∧ t.me.regs.srseed = s.me.regs.srseed ∧
        (t.me.regs.fmtbad = true ↔ s.me.regs.fmtbad = true ∨ bad)) ∧
      ∃ t : State, exec (.vredmax d a k ty) s = .next t ∧ ∃ m : Int, VecStep s t (some d) none none ∧
        t.me.vr d.val = (BitVec.ofInt 64 m).zeroExtend 1024 ∧ (∀ v ∈ vals, v ≤ m) ∧
        (m ∈ vals ∨ vals = [] ∧ m = if ty = .t2 then -1 else if signedTy ty then -2 ^ (ty.width - 1) else 0) ∧
        (t.me.regs.fmtbad = true ↔ s.me.regs.fmtbad = true ∨ bad)) ∧
    ∀ ty : FltTy, ty.isWide = true →
      let x (j : Nat) : Fp := fpIn ty s.mine.ftz (vlane (fltLane ty) (s.me.vr a.val) j).toNat
      let n := 1024 / fltLane ty
      (∃ t, exec (.vredfadd d a k ty) s = .next t ∧ VecStep s t (some d) none none ∧
        t.me.vr d.val = BitVec.ofNat 1024 (treeSum s.me.frm s.mine.ftz s.me.regs.srseed n
          (fun j => if active s k j then f32Rne (x j) else 0x80000000) (treeDepth ty) 0) ∧
        (t.me.vr d.val).toNat < 2 ^ 32 ∧ t.me.regs.fmtbad = s.me.regs.fmtbad ∧
        t.me.regs.srseed = if s.me.frm = .sr then seedAfter (n - 1) s.me.regs.srseed else s.me.regs.srseed) ∧
      ∃ t, exec (.vredfmax d a k ty) s = .next t ∧ VecStep s t (some d) none none ∧ SameModes s t ∧
        (t.me.vr d.val).toNat < 2 ^ 32 ∧
        ((∃ j < n, active s k j = true ∧ x j = .nan) → t.me.vr d.val = 0x7FC00000) ∧
        ((∀ j < n, active s k j = false) → t.me.vr d.val = 0xFF800000) ∧
        ((∀ j < n, active s k j = true → x j ≠ .nan) → (∃ j < n, active s k j = true) →
          ∃ j < n, active s k j = true ∧ t.me.vr d.val = BitVec.ofNat 1024 (f32Rne (x j)) ∧
            ∀ i < n, active s k i = true → (x j).lt (x i) = false ∧
              (fpOf .f32 (t.me.vr d.val).toNat).lt (x i) = false ∧
              ((∃ e, x i = .fin false 0 e) → ¬∃ e, x j = .fin true 0 e))

/-- Vector moves, permutations and reductions. Choices of the model that it states: log 14. -/
def Obligations.VectorMovesAndReductions : Prop :=
  Claims.VectorMoves ∧ Claims.Reductions

/-- 11 R220, R225, 06 R116 to R118: each active lane of a float instruction is the exact result of its operands, read under
FTZ, rounded once with FRM; with FRM = SR each active lane takes one step of SRSEED in ascending order, in other modes none;
VFABS rounds nothing.
VFMIN and VFMAX take a step and VFABS none by log entry 14; VRCP, VRSQ, VEXP2 and VLOG2 round as log entry 13 says. -/
def Sys2Proof.Claims.FloatLanes : Prop :=
  ∀ (i : Instr) (s : State) (d a b : VReg) (k : KReg) (ty : FltTy), i.wf = true → Quiet s → Leased s →
    let w := fltLane ty
    let x (r : VReg) (j : Nat) : Fp := fpIn ty s.mine.ftz (vlane w (s.me.vr r.val) j).toNat
    (∀ f, floatForm i = some (d, a, b, k, ty, f) →
      ∃ t, exec i s = .next t ∧ VecStep s t (some d) none none ∧
        (MaskedLanes s t w d k fun j => BitVec.ofNat w
          (fpCode ty s.me.frm (drawn s.me.regs.srseed (activeBelow s k j + 1)) s.mine.ftz (f s.me.frm (x d j) (x a j) (x b j))).1) ∧
        t.me.regs.srseed = (if s.me.frm = .sr then seedAfter (activeBelow s k (1024 / w)) s.me.regs.srseed
          else s.me.regs.srseed) ∧ t.me.regs.fmtbad = s.me.regs.fmtbad) ∧
    ∀ f, choiceForm i = some (d, a, b, k, ty, f) →
      ∃ t, exec i s = .next t ∧ VecStep s t (some d) none none ∧ SameModes s t ∧
        MaskedLanes s t w d k fun j => BitVec.ofNat w (fpCode ty .rne 0 s.mine.ftz (f (x a j) (x b j))).1

/-- 06 R116, R119, 11 R225: rounding to a grid of step 2^n takes the neighbour that the mode names; the special values of the
reciprocal, root, exponential and logarithm, and the signs of exact zeros (log entry 13). -/
def Sys2Proof.Claims.Rounding : Prop :=
  (∀ (r m n : Nat) (neg : Bool) (e : Int),
    let q (md : Rm) : Nat := roundTo md r neg m e (e + n)
    q .rtz = m / 2 ^ n ∧ q .rup = (if neg then m / 2 ^ n else (m + 2 ^ n - 1) / 2 ^ n) ∧
    q .rdn = (if neg then (m + 2 ^ n - 1) / 2 ^ n else m / 2 ^ n) ∧ q .rna = (2 * m + 2 ^ n) / 2 ^ (n + 1) ∧
    2 * q .rne * 2 ^ n ≤ 2 * m + 2 ^ n ∧ 2 * m ≤ 2 * q .rne * 2 ^ n + 2 ^ n ∧
    ((2 * q .rne * 2 ^ n = 2 * m + 2 ^ n ∨ 2 * m = 2 * q .rne * 2 ^ n + 2 ^ n) → q .rne % 2 = 0) ∧
    (neg = false → r < 2 ^ 32 → q .sr = m / 2 ^ n + if r < 2 ^ 32 * (m % 2 ^ n) / 2 ^ n then 1 else 0) ∧
    ∀ (md : Rm) (k : Nat), roundTo md r neg m (e + k) e = m * 2 ^ k) ∧
  (∀ s, Fp.rcp (.fin s 0 0) = .inf s ∧ Fp.rcp (.inf s) = .fin s 0 0 ∧ Fp.rsq (.fin s 0 0) = .inf s ∧
    Fp.exp2 (.fin s 0 0) = .fin false 1 0 ∧ Fp.log2 (.fin s 0 0) = .inf true) ∧
  (∀ m e, 0 < m → Fp.rsq (.fin true m e) = .nan ∧ Fp.log2 (.fin true m e) = .nan) ∧
  Fp.rsq (.inf false) = .fin false 0 0 ∧ Fp.rsq (.inf true) = .nan ∧ Fp.exp2 (.inf false) = .inf false ∧
  Fp.exp2 (.inf true) = .fin false 0 0 ∧ Fp.log2 (.inf false) = .inf false ∧ Fp.log2 (.inf true) = .nan ∧
  (∀ md a b m e, 0 < m → Fp.add md (.fin a m e) (.fin (!a) m e) = .fin (md = .rdn) 0 0 ∧
    Fp.add md (.fin b 0 e) (.fin b 0 e) = .fin b 0 0 ∧ Fp.mul (.fin a m e) (.fin b 0 0) = .fin (a != b) 0 e) ∧
  ∀ md r s, fpCode .e4m3 md r false (.inf s) = ((if s then 0xFE else 0x7E), false) ∧
    fpCode .e5m2 md r false (.fin s 1 40) = ((if s then 0xFB else 0x7B), false) ∧
    fpCode .e2m1 md r false .nan = (0, true) ∧ fpCode .f32 .rtz r false (.fin s 1 200) = ((if s then 0xFF7FFFFF else 0x7F7FFFFF), false)

/-- Float vector instructions and rounding. Choices of the model that it states: log 13, 14. -/
def Obligations.VectorFloats : Prop :=
  Claims.FloatLanes ∧ Claims.Rounding

/-- 11 R229, R230, 06 R119: a conversion reads each lane of the source type and writes it rounded once and saturated or
overflowed as its target says, clearing the lanes above; VQMX chooses the block's scale from its greatest magnitude, VDQMX
multiplies by it. -/
def Obligations.Conversions : Prop :=
  ∀ (d a : VReg) (r : RmField) (s : State), Quiet s → Leased s →
    let md : Rm := match r with
      | .mode m => m
      | .frm => s.me.frm
    let seed (n : Nat) : Word := if md = .sr then seedAfter n s.me.regs.srseed else s.me.regs.srseed
    (∀ (st tt : IntTy), ∃ t, exec (.vcvtInt d a (.int st) r tt) s = .next t ∧ VecStep s t (some d) none none ∧
      let m := 1024 / max st.width tt.width
      (∀ j < 1024 / tt.width, vlane tt.width (t.me.vr d.val) j = if j < m then BitVec.ofInt tt.width
        (min (max (laneValue st (vlane st.width (s.me.vr a.val) j)) (intLeast tt)) (intGreatest tt)) else 0) ∧
      t.me.regs.srseed = seed m) ∧
    (∀ (st : FltTy) (tt : IntTy), ∃ t, exec (.vcvtInt d a (.flt st) r tt) s = .next t ∧ VecStep s t (some d) none none ∧
      let m := 1024 / max (fltLane st) tt.width
      (∀ j < 1024 / tt.width, vlane tt.width (t.me.vr d.val) j = if j < m then
        match fpOf st (vlane (fltLane st) (s.me.vr a.val) j).toNat with
        | .nan => 0
        | .inf neg => BitVec.ofInt tt.width (if neg then intLeast tt else intGreatest tt)
        | .fin neg x e =>
          let q : Int := roundTo md (drawn s.me.regs.srseed (j + 1)) neg x e 0
          BitVec.ofInt tt.width (min (max (if neg then -q else q) (intLeast tt)) (intGreatest tt)) else 0) ∧
      t.me.regs.srseed = seed m ∧
      (t.me.regs.fmtbad = true ↔ s.me.regs.fmtbad = true ∨
        ∃ j < m, fpOf st (vlane (fltLane st) (s.me.vr a.val) j).toNat = .nan)) ∧
    (∀ (st tt : FltTy), st ≠ .e8m0 → tt ≠ .e8m0 →
      ∃ t, exec (.vcvtFloat d a (.flt st) r tt) s = .next t ∧ VecStep s t (some d) none none ∧
      let m := 1024 / max (fltLane st) (fltLane tt)
      (∀ j < 1024 / fltLane tt, vlane (fltLane tt) (t.me.vr d.val) j = if j < m then BitVec.ofNat (fltLane tt)
        (fpCode tt md (drawn s.me.regs.srseed (j + 1)) s.mine.ftz
          (fpIn st (s.mine.ftz && tt.isWide) (vlane (fltLane st) (s.me.vr a.val) j).toNat)).1 else 0) ∧
      t.me.regs.srseed = seed m) ∧
    (∀ (st : IntTy) (tt : FltTy), tt ≠ .e8m0 →
      ∃ t, exec (.vcvtFloat d a (.int st) r tt) s = .next t ∧ VecStep s t (some d) none none ∧
      let m := 1024 / max st.width (fltLane tt)
      (∀ j < 1024 / fltLane tt, vlane (fltLane tt) (t.me.vr d.val) j = if j < m then
        let v := laneValue st (vlane st.width (s.me.vr a.val) j)
        BitVec.ofNat (fltLane tt) (fpCode tt md (drawn s.me.regs.srseed (j + 1)) s.mine.ftz (.fin (v < 0) v.natAbs 0)).1 else 0) ∧
      t.me.regs.srseed = seed m) ∧
    ∀ ty : FltTy, ty.isNarrow = true →
      let el (j : Nat) : Fp := fpOf .f32 (vlane 32 (s.me.vr a.val) j).toNat
      (∃ t, exec (.vqmx d a r ty) s = .next t ∧ VecStep s t (some d) none none ∧
        let x := (vlane 8 (t.me.vr d.val) 127).toNat
        t.me.regs.fmtbad = s.me.regs.fmtbad ∧ t.me.regs.srseed = seed 32 ∧
        ((∃ j < 32, el j = .nan) → x = 255 ∧ ∀ j < 32, vlane (fltLane ty) (t.me.vr d.val) j = 0) ∧
        ((∀ j < 32, el j ≠ .nan) →
          ((∀ j < 32, ∃ neg e, el j = .fin neg 0 e) → x = 0) ∧
          (∀ j < 32, ∀ neg, el j = .inf neg → x = 0xFE) ∧
          (∀ j < 32, ∀ neg m e, el j = .fin neg m e → 0 < m → (∀ i < 32, Fp.lt (el j).abs (el i).abs = false) →
            (x : Int) = 127 + min (max ((Nat.log2 m : Int) + e - blockEmax ty) (-127)) 127) ∧
          ∀ j < 32, vlane (fltLane ty) (t.me.vr d.val) j = BitVec.ofNat (fltLane ty)
            (fpCode ty md (drawn s.me.regs.srseed (j + 1)) false ((el j).scale (127 - (x : Int)))).1)) ∧
      ∃ t, exec (.vdqmx d a ty) s = .next t ∧ VecStep s t (some d) none none ∧
        let x := (vlane 8 (s.me.vr a.val) 127).toNat
        (∀ j < 32, vlane 32 (t.me.vr d.val) j = if x = 255 then 0x7FC00000 else BitVec.ofNat 32 (fpCode .f32 .rne 0 s.mine.ftz
          ((fpOf ty (vlane (fltLane ty) (s.me.vr a.val) j).toNat).scale ((x : Int) - 127))).1) ∧
        t.me.regs.srseed = s.me.regs.srseed ∧ t.me.regs.fmtbad = (s.me.regs.fmtbad || decide (x = 255))

/-! ## Vector memory, checksums and leases -/

namespace Sys2Proof.Claims

/-- Element addresses of the vector loads: vd, mask, type, address of element `j` (11 R233). -/
def vloadForm (s : State) : Instr → Option (VReg × KReg × IntTy × (Nat → Word))
  | .vld d a k ty => some (d, k, ty, fun j => s.rg a + BitVec.ofNat 64 (j * (ty.width / 8)))
  | .vlds d a b k ty => some (d, k, ty, fun j => s.rg a + BitVec.ofNat 64 j * s.rg b)
  | .vgath d a b k ty => some (d, k, ty, fun j => s.rg a + (vlane ty.width (s.me.vr b.val) j).signExtend 64)
  | _ => none

/-- Element addresses of the vector stores. -/
def vstoreForm (s : State) : Instr → Option (VReg × KReg × IntTy × (Nat → Word))
  | .vst d a k ty => some (d, k, ty, fun j => s.rg a + BitVec.ofNat 64 (j * (ty.width / 8)))
  | .vsts d a b k ty => some (d, k, ty, fun j => s.rg a + BitVec.ofNat 64 j * s.rg b)
  | .vscat d a b k ty => some (d, k, ty, fun j => s.rg a + (vlane ty.width (s.me.vr b.val) j).signExtend 64)
  | _ => none

/-- An element in the issuing core's own scratch that may be read and written. -/
structure OwnElement (s : State) (a : Word) (off n : Nat) : Prop where
  space : space s.me.sup a = .ok (.pkg s.cur.core off)
  aligned : a.toNat % n = 0
  hood : s.inHoods s.me.job s.cur.core = true
  scratch : s.mine.scratchOk off n = true
  clean : touches s.mine.spois off n = false
  here : s.reach s.cur.core = s.cur.core

/-- The bytes that bits [b, b + n) of scratch lie in may be accessed. -/
def BitsOk (s : State) (b n : Nat) : Prop :=
  b + n ≤ 2 ^ 22 ∧ s.mine.scratchOk (b / 8) ((b % 8 + n + 7) / 8) = true ∧
  touches s.mine.spois (b / 8) ((b % 8 + n + 7) / 8) = false

/-- A finite F32 code's value as a multiple of 2^-149. -/
def f32Value (c : Nat) : Int :=
  match fpOf .f32 c with
  | .fin neg m e => (if neg then -1 else 1) * m * 2 ^ (e + 149).toNat
  | _ => 0

/-- Whether an F32 code is a finite number. -/
def f32Finite (c : Nat) : Bool := c / 2 ^ 23 % 256 ≠ 255

/-- The float test of 11 R238 on the codes of Sa, Aa, Sb, Ab and τ. -/
def FloatCheck (sa aa sb ab tau : Nat) : Prop :=
  if f32Finite sa ∧ f32Finite aa ∧ f32Finite sb ∧ f32Finite ab ∧ f32Finite tau then
    |f32Value sa - f32Value sb| * 2 ^ 149 ≤ f32Value tau * max (f32Value aa) (f32Value ab)
  else sa = sb

/-- Whether a CKCHK passes (11 R238). -/
def CheckPasses (s : State) (g : GReg) (a : CReg) : CkArg → Prop
  | .i c => |(s.me.cr a - s.me.cr c).toInt| ≤ (s.rg g).toNat
  | .ig h => |(s.me.cr a - s.rg h).toInt| ≤ (s.rg g).toNat
  | .f c => FloatCheck (field (s.me.cr a) 0 32) (field (s.me.cr a) 32 32) (field (s.me.cr c) 0 32) (field (s.me.cr c) 32 32)
      (field (s.rg g) 0 32)
  | .fg h => FloatCheck (field (s.me.cr a) 0 32) (field (s.me.cr a) 32 32) (field (s.rg h) 0 32) (field (s.rg h) 0 31)
      (field (s.rg g) 0 32)

end Sys2Proof.Claims

/-- 11 R233, R234: vector loads and stores of elements in the core's own scratch: each active lane is read from, or written
to, its element's address; where elements overlap the higher lane stands (of VSTS by log entry 52); a misaligned element
traps with its address, and nothing is read or written. -/
def Sys2Proof.Claims.VectorAccesses : Prop :=
  ∀ (i : Instr) (s : State) (d : VReg) (k : KReg) (ty : IntTy) (f : Nat → Word) (off : Nat → Nat), i.wf = true → Calm s →
    Leased s → (vloadForm s i = some (d, k, ty, f) ∨ vstoreForm s i = some (d, k, ty, f)) →
    (∀ m, m < 1024 / ty.width → active s k m = true → (f m).toNat % (ty.width / 8) ≠ 0 →
      (∀ j < m, active s k j = true → OwnElement s (f j) (off j) (ty.width / 8)) →
      exec i s = .next (s.trap 0x04 (f m))) ∧
    ((∀ j < 1024 / ty.width, active s k j = true → OwnElement s (f j) (off j) (ty.width / 8)) →
      (vloadForm s i = some (d, k, ty, f) → ∃ t, exec i s = .next t ∧ VecStep s t (some d) none none ∧ SameModes s t ∧
        MaskedLanes s t ty.width d k fun j =>
          BitVec.ofNat ty.width (number (fun n => s.mine.scratch.get (off j + n)) (ty.width / 8))) ∧
      (vstoreForm s i = some (d, k, ty, f) → ∃ t, exec i s = .next t ∧ t.me = { wentOn s.me (s.me.pc + 4) with rel := none } ∧
        (∀ c x, c ≠ s.cur.core → (t.core c).scratch.get x = (s.core c).scratch.get x) ∧ (∀ x, t.mem.get x = s.mem.get x) ∧
        (∀ x, (∀ j < 1024 / ty.width, active s k j = true → ¬(off j ≤ x ∧ x < off j + ty.width / 8)) →
          t.mine.scratch.get x = s.mine.scratch.get x) ∧
        ∀ x j, j < 1024 / ty.width → active s k j = true → off j ≤ x → x < off j + ty.width / 8 →
          (∀ m, j < m → m < 1024 / ty.width → active s k m = true → ¬(off m ≤ x ∧ x < off m + ty.width / 8)) →
          t.mine.scratch.get x = (vlane ty.width (s.me.vr d.val) j).extractLsb' (8 * (x - off j)) 8))

/-- 11 R235: VLDBIT extends packed elements of e bits into the active lanes, VSTBIT writes the low e bits of the active lanes
and no other bit; with INC the pointer passes every element; bits beyond 2^22 trap with BADADDR. VLDBIT of T2
leaves FMTBAD by log entry 107. -/
def Sys2Proof.Claims.PackedElements : Prop :=
  ∀ (d : VReg) (inc : Bool) (p : BpReg) (e : Fin 32) (k : KReg) (ty : IntTy) (s : State), Calm s → Leased s →
    (Instr.vldbit d inc p e k ty).wf = true →
    let b := (s.me.bp p).toNat
    let w := ty.width
    let n := 1024 / w
    let past := if inc then s.me.bp p + BitVec.ofNat 22 (n * (e.val + 1)) else s.me.bp p
    (2 ^ 22 < b + n * (e.val + 1) → exec (.vldbit d inc p e k ty) s = .next (s.trap 0x05 (BitVec.ofNat 64 b)) ∧
      exec (.vstbit d inc p e k ty) s = .next (s.trap 0x05 (BitVec.ofNat 64 b))) ∧
    (BitsOk s b (n * (e.val + 1)) →
      (∃ t, exec (.vldbit d inc p e k ty) s = .next t ∧ VecStep s t (some d) none none ∧ SameModes s t ∧ t.me.bp p = past ∧
        ∀ j < n, ∀ m < w, (vlane w (t.me.vr d.val) j).getLsbD m =
          if active s k j then
            (if m ≤ e.val then scratchBit s (b + j * (e.val + 1) + m)
             else signedTy ty && decide (ty ≠ .t2) && scratchBit s (b + j * (e.val + 1) + e.val))
          else (vlane w (s.me.vr d.val) j).getLsbD m) ∧
      ∃ t, exec (.vstbit d inc p e k ty) s = .next t ∧ t.me.pc = s.me.pc + 4 ∧ t.me.bp p = past ∧ (∀ g, t.rg g = s.rg g) ∧
        (∀ m : VReg, t.me.vr m.val = s.me.vr m.val) ∧ (∀ x, t.mem.get x = s.mem.get x) ∧
        ∀ x < 2 ^ 22, scratchBit t x = if b ≤ x ∧ x < b + n * (e.val + 1) ∧ active s k ((x - b) / (e.val + 1)) = true then
          (vlane w (s.me.vr d.val) ((x - b) / (e.val + 1))).getLsbD ((x - b) % (e.val + 1)) else scratchBit s x)

/-- Vector memory instructions and packed elements. Choices of the model that it states: log 52, 107. -/
def Obligations.VectorMemory : Prop :=
  Claims.VectorAccesses ∧ Claims.PackedElements

/-- 11 R236 to R238: CKCLR clears a checksum; CKA adds the exact sum of the active lanes; CKAF folds the tree sums of lanes and
magnitudes in RNE; CKCHK has no effect where it passes and traps with CKFAIL where it fails. -/
def Obligations.Checksums : Prop :=
  ∀ (c : CReg) (a : VReg) (k : KReg) (s : State), Quiet s → Leased s →
    let holds (v : Word) (bad : Bool) : State := withMe s { wentOn s.me (s.me.pc + 4) with
      regs := { s.me.regs with c := s.me.regs.c.put c.val v, fmtbad := s.me.regs.fmtbad || bad } }
    exec (.ckclr c) s = .next (holds 0 false) ∧
    (∀ ty : IntTy,
      let js := (List.range (1024 / ty.width)).filter (active s k)
      exec (.cka c a k ty) s = .next (holds
        (s.me.cr c + BitVec.ofInt 64 ((js.map fun j => laneValue ty (vlane ty.width (s.me.vr a.val) j)).sum))
        (js.any fun j => decide (ty = .t2) && decide ((vlane ty.width (s.me.vr a.val) j).toNat = 2)))) ∧
    (∀ ty : FltTy, ty.isWide = true →
      let x (j : Nat) : Fp := fpOf ty (vlane (fltLane ty) (s.me.vr a.val) j).toNat
      let u := treeSum .rne false 0 (1024 / fltLane ty) (fun j => if active s k j then f32Rne (x j) else 0x80000000) (treeDepth ty) 0
      let v := treeSum .rne false 0 (1024 / fltLane ty) (fun j => if active s k j then f32Rne (x j).abs else 0x80000000) (treeDepth ty) 0
      let sum (p q : Nat) : Nat := f32Rne (Fp.add .rne (fpOf .f32 p) (fpOf .f32 q))
      exec (.ckaf c a k ty) s = .next (holds
        (BitVec.ofNat 64 (sum (field (s.me.cr c) 0 32) u + 2 ^ 32 * sum (field (s.me.cr c) 32 32) v)) false)) ∧
    ∀ (g : GReg) (b : CkArg), (CheckPasses s g c b → exec (.ckchk g c b) s = .next s.advance) ∧
      (¬CheckPasses s g c b → exec (.ckchk g c b) s = .next (s.trap 0x27 0))

/-- 02 R25, 11 R221: a lease is granted at once, with its state zeroed, while fewer than four are held, else the strand parks in
the queue; VFREE loses the contents and the oldest waiter is granted the lease. -/
def Sys2Proof.Claims.Leases : Prop :=
  ∀ s : State, Quiet s → s.me.st = .ready →
    (16 ≤ s.cur.slot → exec .vlease s = .next (s.trap 0x12 s.me.pc) ∧
      (s.cur.slot ∈ [17, 18] → exec .vfree s = .next (s.trap 0x12 s.me.pc)) ∧
      (s.cur.slot = 16 → exec .vfree s = .next s.advance)) ∧
    (s.cur.slot < 16 →
      (s.me.vl = true → exec .vlease s = .next s.advance) ∧ (s.me.vl = false → exec .vfree s = .next s.advance) ∧
      (s.me.vl = false → s.mine.leases < 4 → exec .vlease s = .next (withMe s { wentOn s.me (s.me.pc + 4) with
        vl := true, regs := { s.me.regs with v := [], k := [], c := [] } })) ∧
      (s.me.vl = false → 4 ≤ s.mine.leases → ∃ t, exec .vlease s = .next t ∧
        t.me = { s.me with st := .parked .lease } ∧ t.mine.leaseq = s.mine.leaseq ++ [s.cur.slot]) ∧
      (s.me.vl = true → ∃ t, exec .vfree s = .next t ∧ (s.cur.slot ∉ s.mine.leaseq →
          t.me = { wentOn s.me (s.me.pc + 4) with vl := false, regs := { s.me.regs with v := [], k := [], c := [] } }) ∧
        (s.mine.leaseq = [] → t.mine.leaseq = []) ∧
        ∀ n ns, s.mine.leaseq = n :: ns → n ≠ s.cur.slot → s.mine.leases ≤ 4 → (s.strand s.cur.core n).outs = [] →
          t.mine.leaseq = ns ∧ (t.strand s.cur.core n).vl = true ∧ (t.strand s.cur.core n).st = .ready ∧
          (t.strand s.cur.core n).pc = (s.strand s.cur.core n).pc + 4 ∧ (t.strand s.cur.core n).regs.v = [] ∧
          (t.strand s.cur.core n).regs.k = [] ∧ (t.strand s.cur.core n).regs.c = []))

/-- Vector leases. -/
def Obligations.VectorLeases : Prop :=
  Claims.LeaseRequired ∧ Claims.Leases

/-! ## The matrix unit -/

namespace Sys2Proof.Claims

/-- A B descriptor that 12 R241 admits for a format of B: T2 (9) or I8 (0), in geometry `g` at most 256 · 2^g deep and
1024 / 2^g columns wide, an eighth of them for I8 (07 R125). -/
def GoodDesc (d : Word) (fmtb : BitVec 5) : Prop :=
  field d 32 8 = 0 ∧ field d 40 2 ≠ 3 ∧ 1 ≤ field d 42 11 ∧ field d 42 11 ≤ 256 * 2 ^ field d 40 2 ∧
  (fmtb = 9 ∧ field d 53 11 + 1 ≤ 1024 / 2 ^ field d 40 2 ∨ fmtb = 0 ∧ field d 53 11 + 1 ≤ 128 / 2 ^ field d 40 2)

/-- The load that a descriptor asks for. -/
def descLoad (s : State) (src : Option Word) (d : Word) : Load :=
  ⟨src, BitVec.ofNat 32 (field d 0 32), BitVec.ofNat 2 (field d 40 2), field d 42 11, field d 53 11 + 1,
    s.me.fmtb.zeroExtend 8, s.me.job, s.mine.bases, []⟩

/-- The unit of a core is idle. -/
def Idle (m : Matrix) : Prop := m.tile = none ∧ m.load = none

/-- The tile operation that an MTILE asks for, with its sampled parameters (12 R243). -/
def askedTile (s : State) (a b c : GReg) (n : BarNo) : Tile :=
  let w := s.rg b
  ⟨field w 0 16, w.getLsbD 16, w.getLsbD 17, w.getLsbD 19, BitVec.ofNat 12 (field w 20 12), s.rg c, s.rg a, field w 32 32,
    s.me.fmta.zeroExtend 8, s.me.fmtb.zeroExtend 8, s.me.scla, s.me.sclb, s.cur.core, s.me.job, s.mine.bases,
    s.me.lid, if w.getLsbD 18 then some (s.cur.core, n) else none, none, 0, 0, [], false, none, []⟩

/-- The unit supports the operation's formats and holds what it needs (12 R243, 07 R131). -/
def Fits (m : Matrix) (t : Tile) : Prop :=
  ∃ r, m.res = some r ∧ t.fmta.toNat ∈ [0x00, 0x08, 0x09, 0x13, 0x14] ∧ t.fmtb.toNat ∈ [0, 9] ∧ t.fmtb = r.fmtb ∧
    (t.acc = true → m.accv = true ∧ m.bnout = r.nout)

/-- The sum of an I8 row of A, given by the words at the input port, against column `n` (06 R120). -/
def portSum (ws : List Word) (r : Resident) (n : Nat) : Int :=
  ((List.range r.k).map fun i => ((ws.getD (i / 8) 0).extractLsb' (8 * (i % 8)) 8).toInt * (r.cells.getD i []).getD n 0).sum

/-- The cells of a resident B fill its rows. -/
def Shaped (r : Resident) : Prop := r.cells.length = r.k ∧ ∀ x ∈ r.cells, x.length = r.nout

end Sys2Proof.Claims

/-- 12 R241, R243 to R245, 07 R127, R131, R135, R137: MLOAD, MLOAD.Q and MTILE check their descriptor, wait for an idle unit and
start; a tile that does not fit completes at once in an error phase with FMTFAULT; MCANCEL abandons what is in progress; MSTAT
returns the status word. That no B is resident and ROWS is 0 from the start is log entry 34, FMTF after a load that is abandoned
log entry 111. -/
def Sys2Proof.Claims.MatrixStarts : Prop :=
  ∀ (a b c : GReg) (n : BarNo) (l : La) (s : State), Quiet s →
    let m := s.mine.matrix
    let x := askedTile s a b c n
    (s.cur.slot ∈ [17, 18] → exec (.mload a b) s = .next (s.trap 0x12 s.me.pc) ∧
      exec (.mloadQ b) s = .next (s.trap 0x12 s.me.pc) ∧ exec (.mtile a b c n) s = .next (s.trap 0x12 s.me.pc)) ∧
    (s.cur.slot < 17 →
      (¬GoodDesc (s.rg b) s.me.fmtb → exec (.mload a b) s = .next (s.trap 0x23 s.me.pc) ∧
        exec (.mloadQ b) s = .next (s.trap 0x23 s.me.pc)) ∧
      (GoodDesc (s.rg b) s.me.fmtb →
        (¬Idle m → exec (.mload a b) s = .next s.block) ∧
        (Idle m → ∃ t, exec (.mload a b) s = .next t ∧ t.me = wentOn s.me (s.me.pc + 4) ∧ t.mem = s.mem ∧
          t.mine.matrix = { m with load := some (descLoad s (some (s.rg a)) (s.rg b)), res := none, rows := 0 }) ∧
        ((s.mine.queues.all fun y => decide (y.2.kind ≠ .mb)) = true → exec (.mloadQ b) s = .next (s.trap 0x1F s.me.pc)) ∧
        (Idle m → m.portb = [] → (∃ q, s.mine.queue q = some ⟨s.cur.slot, .mb⟩) →
          ∃ t, exec (.mloadQ b) s = .next t ∧ t.me = wentOn s.me (s.me.pc + 4) ∧
            t.mine.matrix = { m with load := some (descLoad s none (s.rg b)), res := none, rows := 0 })) ∧
      (x.m = 0 ∨ ((x.acc = true ∨ x.drain = false) ∧ 32 < x.m) → exec (.mtile a b c n) s = .next (s.trap 0x23 s.me.pc)) ∧
      (x.m ≠ 0 → (x.m ≤ 32 ∨ (x.acc = false ∧ x.drain = true)) →
        (x.aq = true → (s.mine.queues.all fun y => decide (y.2.kind ≠ .ma)) = true →
          exec (.mtile a b c n) s = .next (s.trap 0x1F s.me.pc)) ∧
        (x.aq = false → ¬Idle m → exec (.mtile a b c n) s = .next s.block) ∧
        (x.aq = false → Idle m → ∀ s1, s.launchInc s.me.job s.me.lid.toNat = (s1, true) →
          (Fits m x → ∃ t, exec (.mtile a b c n) s = .next t ∧ t.mine.matrix = { m with tile := some x, rows := 0 } ∧
            t.me = wentOn s.me (s.me.pc + 4) ∧ t.jobs = s1.jobs) ∧
          (¬Fits m x → s.split = true → ∃ t, exec (.mtile a b c n) s = .next t ∧ t.mine.matrix.tile = none ∧
            t.mine.matrix.err = true ∧ t.mine.matrix.fault = 0x01 ∧ t.mine.matrix.bank = m.bank ∧
            t.ctrs = s.ctrs ++ [⟨s.me.job, .launch, s.me.lid.toNat, .decErr⟩] ∧
            ((s.rg b).getLsbD 18 = true → t.packets = s.packets ++
              [⟨s.serial, s.me.job, s.cur.core, s.cur.core, .errArrive n 0x01⟩]))))) ∧
    (∀ y, m.load = some y → m.tile = none → m.queued = none → ∃ t, exec .mcancel s = .next t ∧
      (∃ f, t.mine.matrix = { m with load := none, res := none, err := true, fault := 0x02, fmtf := f } ∧ (y.got = [] → f = false)) ∧
      t.me = wentOn s.me (s.me.pc + 4)) ∧
    (∀ y, m.load = none → m.tile = some y → y.fault = none → (if y.drain then y.passed ≠ y.m else y.next ≠ y.m) →
      ∃ t, exec .mcancel s = .next t ∧ t.mine.matrix = { m with tile := some { y with fault := some 0x02 } } ∧
        t.me = wentOn s.me (s.me.pc + 4)) ∧
    (Idle m → ∃ t, exec .mcancel s = .next t ∧ t.mine.matrix = m ∧ t.me = wentOn s.me (s.me.pc + 4)) ∧
    (m.rows < 2 ^ 16 → ∃ v, exec (.mstat a l) s = .next (s.writeLate a v l) ∧
      v.toNat = (match m.res with | some r => r.tag.toNat + 2 ^ 58 * r.geom.toNat | none => 0) + 2 ^ 32 * m.rows +
        2 ^ 48 * m.fault.toNat + (if m.accv then 2 ^ 60 else 0) + (if m.fmtf then 2 ^ 61 else 0) +
        (if m.err then 2 ^ 62 else 0) + if m.load = none ∧ m.tile = none then 0 else 2 ^ 63)

/-- 12 R241, R242, 07 R127, R137, 21 R360: a load whose image has come fills the cells, byte by byte or two bits at a time, and
makes B resident with ERR and FAULT 0; one whose image cannot be read leaves no B, with ERR and the fault code of the
read. The unit reads as the user party (log entry 55); FMTF is then log entry 111's. -/
def Sys2Proof.Claims.MatrixLoads : Prop :=
  ∀ (c : Nat) (s : State) (l : Load), (s.core c).matrix.load = some l → (s.core c).matrix.tile = none →
    (s.core c).matrix.queued = none → 1 ≤ l.k → 1 ≤ l.nout →
    (∀ row, l.src = none → (l.fmtb = 9 ∧ row = (l.nout + 3) / 4 ∨ l.fmtb = 0 ∧ row = l.nout) → row * l.k ≤ 8 * l.got.length →
      ∃ t : State, exec (.mloadComplete c) s = .next t ∧ ∃ r : Resident, (t.core c).matrix.res = some r ∧
        (t.core c).matrix.load = none ∧ (t.core c).matrix.err = false ∧ (t.core c).matrix.fault = 0 ∧
        (t.core c).matrix.fmtf = r.flag ∧ r.tag = l.tag ∧ r.geom = l.geom ∧ r.k = l.k ∧ r.nout = l.nout ∧ r.fmtb = l.fmtb ∧
        Shaped r ∧ ∀ i < l.k, ∀ n < l.nout,
          let at_ := if l.fmtb = 9 then row * i + n / 4 else row * i + n
          let byte : Byte := (l.got.getD (at_ / 8) 0).extractLsb' (8 * (at_ % 8)) 8
          (r.cells.getD i []).getD n 0 = if l.fmtb = 9 then (if field (byte.setWidth 64) (2 * (n % 4)) 2 = 2 then 0
            else (byte.extractLsb' (2 * (n % 4)) 2).toInt) else byte.toInt) ∧
    ∀ (a : Word) (code : BitVec 8), l.src = some a → (l.fmtb = 9 ∨ l.fmtb = 0) → space false a = .error code →
      ((s.core c).queues.all fun q => decide (q.2.slot < 19)) = true →
      let m := { (s.core c).matrix with load := none, res := none, err := true, fault := 0x40 ||| code, fmtf := false }
      exec (.mloadRefused c) s = .next (s.setCore c { s.core c with matrix := m })

/-- The matrix unit: its instructions, and the loading of B. Choices of the model that it states: log 34, 55, 111. -/
def Obligations.MatrixUnit : Prop :=
  Claims.MatrixStarts ∧ Claims.MatrixLoads

/-- 06 R120, R122, 07 R133, R136: a row of an I8 operation is the exact sum of its products with each column, added to the
committed bank's row modulo 2^48 with ACC; drained without scales it enters its buffer with its F32 values; a failed A read,
made as the user party (log entry 55), makes the operation fault. -/
def Sys2Proof.Claims.MatrixRows : Prop :=
  ∀ (c : Nat) (s : State) (x : Tile) (r : Resident), (s.core c).matrix.tile = some x → (s.core c).matrix.res = some r →
    Shaped r → (s.core c).matrix.load = none → (s.core c).matrix.held = none → x.fault = none → x.next < x.m →
    x.fmta = 0 → s.preempts = [] →
    (x.aq = true → (r.k + 7) / 8 ≤ (s.core c).matrix.porta.length → x.m ≤ 32 →
      (x.acc = true → ((s.core c).matrix.bank.getD x.next []).length = r.nout) →
      let m := (s.core c).matrix
      let sums := (List.range r.nout).map fun n =>
        if x.acc then (BitVec.ofInt 48 ((m.bank.getD x.next []).getD n 0 + portSum m.porta r n)).toInt else portSum m.porta r n
      let after := { x with next := x.next + 1, sums := x.sums ++ [sums] }
      (x.drain = false → ∃ t, exec (.rowEntry c) s = .next t ∧
        (t.core c).matrix = { m with tile := some after, porta := m.porta.drop ((r.k + 7) / 8) }) ∧
      (x.drain = true → x.scla = 0 → x.sclb = 0 → m.bufs = [] → ∃ t, exec (.rowEntry c) s = .next t ∧
        (t.core c).matrix = { m with
          tile := some after, porta := m.porta.drop ((r.k + 7) / 8),
          bufs := [(x.next % 2, ⟨x.next, sums, sums.map fun v => BitVec.ofNat 32 (f32Rne (fpInt v)), false, 0⟩)] })) ∧
    ∀ code, x.aq = false → 1 ≤ r.k → space false (x.asrc + BitVec.ofNat 64 (x.next * x.astride)) = .error code →
      ∃ t, exec (.rowEntry c) s = .next t ∧
        (t.core c).matrix = { (s.core c).matrix with tile := some { x with fault := some (0x40 ||| code) } }

/-- 07 R133 to R136, 12 R246: a buffered row starts its handler with the row, NOUT and the handler's argument; ROWGET.F and
ROWGET.S read the row held and ROWPASS frees its buffer, and each traps with NOROW where none is held; an operation whose
rows are done swaps the banks and arrives at its barrier; one that faults leaves the bank and ends in an error phase. -/
def Sys2Proof.Claims.RowHandlers : Prop :=
  (∀ (c : Nat) (h : Fin 2) (s s1 : State) (x : Tile) (b : RowBuf) (pc : Word), (s.core c).matrix.tile = some x →
    x.fault = none → (s.core c).matrix.bufs = [(h.val, b)] → b.started = false →
    ((s.core c).queues.all fun y => decide (y.2.kind ≠ .mout)) = true → (s.strand c (17 + h.val)).st = .free →
    s.opens c = true → s.handlerEntry c x.hidx.toNat = (s1, .ok pc) → s1.core c = s.core c →
    ∃ t, exec (.rowHandlerStart c h) s = .next t ∧ (t.strand c (17 + h.val)).st = .ready ∧
      (t.strand c (17 + h.val)).pc = pc ∧ (t.strand c (17 + h.val)).job = x.job ∧ (t.strand c (17 + h.val)).lid = x.lid ∧
      (t.strand c (17 + h.val)).row = some b.r ∧ (t.strand c (17 + h.val)).sup = false ∧
      (t.strand c (17 + h.val)).g 0 = 0 ∧ (t.strand c (17 + h.val)).g 1 = BitVec.ofNat 64 b.r ∧
      (t.strand c (17 + h.val)).g 2 = BitVec.ofNat 64 b.sums.length ∧ (t.strand c (17 + h.val)).g 3 = x.harg ∧
      (∀ e : GReg, 4 ≤ e.val → (t.strand c (17 + h.val)).g e = 0) ∧
      (t.core c).matrix.bufs = [(h.val, { b with started := true })]) ∧
  (∀ (g : GReg) (n : VReg) (s : State), Quiet s →
    (s.me.row = none ∨ s.cur.slot < 17 → exec (.rowgetF g n) s = .next (s.trap 0x17 s.me.pc) ∧
      exec (.rowgetS g n) s = .next (s.trap 0x17 s.me.pc) ∧ exec .rowpass s = .next (s.trap 0x17 s.me.pc)) ∧
    ∀ h b, h < 2 → s.cur.slot = 17 + h → s.me.row ≠ none → s.mine.matrix.bufs = [(h, b)] →
      (∃ t, exec (.rowgetF g n) s = .next t ∧ VecStep s t (some n) none none ∧ ∀ j < 32, vlane 32 (t.me.vr n.val) j =
        b.vals.getD (32 * (s.rg g).toNat + j) 0) ∧
      (∃ t, exec (.rowgetS g n) s = .next t ∧ VecStep s t (some n) none none ∧ ∀ j < 16, vlane 64 (t.me.vr n.val) j =
        BitVec.ofInt 64 (b.sums.getD (16 * (s.rg g).toNat + j) 0)) ∧
      (Calm s → s.mine.matrix.held = none → ∃ t, exec .rowpass s = .next t ∧ t.mine.matrix.bufs = [] ∧
        t.mine.matrix.rows = s.mine.matrix.rows + 1 ∧ t.mine.matrix.tile = s.mine.matrix.tile.map (fun x =>
          { x with passed := x.passed + 1 }) ∧ t.me = { wentOn s.me (s.me.pc + 4) with row := none })) ∧
  ∀ (c : Nat) (s : State) (x : Tile), (s.core c).matrix.tile = some x → (s.core c).matrix.load = none → s.split = true →
    x.task = none →
    let m := (s.core c).matrix
    (x.fault = none → (if x.drain then x.passed = x.m else x.next = x.m) →
      ∃ t, exec (.tileOperationComplete c) s = .next t ∧ (t.core c).matrix.tile = none ∧ (t.core c).matrix.err = false ∧
        (t.core c).matrix.fault = 0 ∧ t.ctrs = s.ctrs ++ [⟨x.job, .launch, x.lid.toNat, .dec⟩] ∧
        (∀ k n, x.bar = some (k, n) → t.packets = s.packets ++ [⟨s.serial, x.job, c, k, .arrive n⟩]) ∧
        (32 < x.m → (t.core c).matrix.bank = m.bank ∧ (t.core c).matrix.accv = m.accv) ∧
        (x.m ≤ 32 → x.sums.length = x.m → (t.core c).matrix.accv = true ∧ (t.core c).matrix.bank.length = 32 ∧
          (∀ j < x.m, (t.core c).matrix.bank.getD j [] = x.sums.getD j []) ∧
          ∀ j < 32, x.m ≤ j → ∀ v ∈ (t.core c).matrix.bank.getD j [], v = 0)) ∧
    ∀ code, x.fault = some code → code ≠ 0 → x.ran = [] →
      ∃ t, exec (.tileOperationFault c) s = .next t ∧ (t.core c).matrix.tile = none ∧ (t.core c).matrix.err = true ∧
        (t.core c).matrix.fault = code ∧ (t.core c).matrix.bank = m.bank ∧ (t.core c).matrix.bufs = [] ∧
        (∀ k n, x.bar = some (k, n) → t.packets = s.packets ++ [⟨s.serial, x.job, c, k, .errArrive n code⟩]) ∧
        t.ctrs = s.ctrs ++ [⟨x.job, .launch, x.lid.toNat, if code = 0x02 then .dec else .decErr⟩]

/-- The rows of a tile operation and their handlers. Choices of the model that it states: log 55. -/
def Obligations.TileRows : Prop :=
  Claims.MatrixRows ∧ Claims.RowHandlers

/-! ## Wale tiles -/

namespace Sys2Proof.Claims

/-- A handle: generation, slot and slice (07 R140). -/
def handle (gen : BitVec 16) (slot slice : Nat) : Word := BitVec.ofNat 64 (gen.toNat * 2 ^ 16 + slot * 2 ^ 9 + slice)

/-- Extents as 07 R141 keeps them: nonempty, ascending, neither meeting nor adjacent. -/
def GoodExts (es : List (Nat × Nat)) : Prop := (∀ e ∈ es, e.1 < e.2) ∧ es.Pairwise fun e f => e.2 < f.1

/-- Whether a position is covered by extents. -/
def Covers (es : List (Nat × Nat)) (x : Nat) : Prop := ∃ e ∈ es, e.1 ≤ x ∧ x < e.2

/-- The tile in slot `j` of a slice, held, ready for a handle of a job: nothing left to add, no error found in it. -/
structure Held (s : State) (j sl : Nat) (w : Wale) (job : BitVec 16) : Prop where
  slot : j < 64
  slice : sl < 512
  rec_ : s.wale (sl * 64 + j) = w
  adds : w.adds = []
  sound : w.pois = false
  job : w.job = job

/-- The wale operations that go to a slice, with the register and lookahead of their status; WADD and WREAD apart, which need
vector state (12 R247, R249). -/
def waleForm (s : State) : Instr → Option (GReg × La × WaleOp)
  | .warm a b l => some (a, l, .warm (s.rg b))
  | .wstat a b l => some (a, l, .wstat (s.rg b))
  | .wdrop a b l => some (a, l, .wdrop (s.rg b))
  | .wfree a b l => some (a, l, .wfree (s.rg b))
  | _ => none

/-- WREAD's forms. -/
def wreadForm (s : State) : Instr → Option (GReg × VReg × La × WaleOp)
  | .wreadF a b n l => some (a, n, l, .wread (s.rg b) n false)
  | .wreadI a b n l => some (a, n, l, .wread (s.rg b) n true)
  | _ => none

/-- The event by which an operation arrives at its slice. -/
def ArrivalOf (id : Nat) (i : Instr) : WaleOp → Prop
  | .warm _ => i = .warmArrival id
  | .wadd .. => i = .waddArrival id
  | .wstat _ => i = .wstatArrival id
  | .wread .. => i = .wreadArrival id
  | .wdrop _ => i = .wdropArrival id
  | .wfree _ => i = .wfreeArrival id

/-- The elements of a contribution of 12 R248, read from registers `v` up. -/
def Elements (s : State) (v : VReg) (iv : Word) (es : List Int) : Prop :=
  ∀ e < es.length, es.getD e 0 =
    if field iv 48 2 = 2 then (vlane 64 (s.me.vr (v.val + e / 16)) (e % 16)).toInt
    else if field iv 48 2 = 0 then ((vlane 32 (s.me.vr (v.val + e / 32)) (e % 32)).toNat : Int)
    else (vlane 32 (s.me.vr (v.val + e / 32)) (e % 32)).toInt

/-- The request of the issuing strand on its way to its slice, the strand waiting for the answer. -/
def sentWale (s : State) (d : GReg) (l : La) (op : WaleOp) : State :=
  withMe { s with wreqs := s.wreqs.put s.serial ⟨s.cur.core, s.cur.slot, s.me.job, s.me.lid, d, l, op⟩, serial := s.serial + 1 }
    { s.me with st := .waiting (.wale s.serial) }

end Sys2Proof.Claims

/-- 12 R247, 07 R140, R142: WARM refuses a reserved mode or bit with SHAPE, K = 0 or a foreign barrier core with RANGE, a full
slice with NOSPACE, each with bit 63 set; else it arms the lowest free slot, or even pair, with the next generation and
answers the handle. The odd slot of a pair stays FREE (log entry 40). -/
def Sys2Proof.Claims.WaleArms : Prop :=
  ∀ (s : State) (job : BitVec 16) (lid : BitVec 12) (w : Word),
    let sl := field w 36 9
    let fail (n : Nat) : State × WaleAns := (s, .stat (BitVec.ofNat 64 (2 ^ 63 + n)))
    (field w 24 2 = 3 ∨ field w 60 4 ≠ 0 → s.waleAt job lid (.warm w) = fail 4) ∧
    (field w 24 2 ≠ 3 → field w 60 4 = 0 →
      (field w 0 24 = 0 ∨ (w.getLsbD 45 = true ∧ s.inHoods job (field w 46 9) = false) →
        s.waleAt job lid (.warm w) = fail 3) ∧
      (field w 0 24 ≠ 0 → (w.getLsbD 45 = false ∨ s.inHoods job (field w 46 9) = true) →
        (field w 24 2 ≠ 0 → (∀ j < 64, s.slotFree (sl * 64 + j) = false) → s.waleAt job lid (.warm w) = fail 9) ∧
        (∀ j, field w 24 2 ≠ 0 → j < 64 → s.slotFree (sl * 64 + j) = true → (∀ i < j, s.slotFree (sl * 64 + i) = false) →
          ∃ t, s.waleAt job lid (.warm w) = (t, .stat (handle ((s.wale (sl * 64 + j)).gen + 1) j sl)) ∧
            (∀ i, i ≠ sl * 64 + j → t.wale i = s.wale i) ∧
            let x := t.wale (sl * 64 + j)
            x.gen = (s.wale (sl * 64 + j)).gen + 1 ∧ x.st = .opened ∧ x.k = field w 0 24 ∧ x.exts = [] ∧ x.staged = [] ∧
            x.rows = field w 26 5 + 1 ∧ x.cols = field w 31 5 + 1 ∧ x.job = job ∧ x.lid = lid ∧
            x.data = List.replicate (x.rows * x.cols) 0 ∧
            x.bar = if w.getLsbD 45 then some (field w 46 9, Fin.ofNat 32 (field w 55 5)) else none) ∧
        (∀ j, field w 24 2 = 0 → j < 32 → s.slotFree (sl * 64 + 2 * j) = true → s.slotFree (sl * 64 + 2 * j + 1) = true →
          (∀ i < j, s.slotFree (sl * 64 + 2 * i) = false ∨ s.slotFree (sl * 64 + 2 * i + 1) = false) →
          let g := (if (s.wale (sl * 64 + 2 * j)).gen.toNat < (s.wale (sl * 64 + 2 * j + 1)).gen.toNat
            then (s.wale (sl * 64 + 2 * j + 1)).gen else (s.wale (sl * 64 + 2 * j)).gen) + 1
          ∃ t, s.waleAt job lid (.warm w) = (t, .stat (handle g (2 * j) sl)) ∧ (t.wale (sl * 64 + 2 * j)).gen = g ∧
            (t.wale (sl * 64 + 2 * j)).mode = .exact ∧ (t.wale (sl * 64 + 2 * j + 1)).gen = g ∧
            (t.wale (sl * 64 + 2 * j + 1)).st = .free ∧ t.slotFree (sl * 64 + 2 * j + 1) = false)))

/-- 07 R142 to R144, 06 R124: a slice answers a WADD by the first of its tests, leaving the tile as it was unless the answer is
DONE; then the interval is recorded, joined with those it touches, and the data is added, or staged in ORDER mode where it
does not extend the covered prefix; what then follows it in staging keeps its entry until it is added. -/
def Sys2Proof.Claims.WaleContributions : Prop :=
  ∀ (s : State) (job : BitVec 16) (lid : BitVec 12) (h iv : Word) (es : List Int) (j sl : Nat) (w : Wale),
    Held s j sl w job → h = handle w.gen j sl → GoodExts w.exts →
    let lo := field iv 0 24
    let hi := field iv 24 24
    let p := match w.exts.head? with
      | some e => if e.1 = 0 then e.2 else 0
      | none => 0
    let touch : Prop := ∃ e ∈ w.exts, e.2 = lo ∨ e.1 = hi
    let meets : Prop := ∃ e ∈ w.exts, e.1 < hi ∧ lo < e.2
    let fits : Prop := field iv 50 14 = 0 ∧ (if w.mode = .exact then field iv 48 2 = 1 ∨ field iv 48 2 = 2 else field iv 48 2 = 0)
    let stages : Prop := w.mode = .order ∧ p < lo
    let answers (n : Nat) : Prop := s.waleAt job lid (.wadd h iv es) = (s, .stat (BitVec.ofNat 64 n))
    (w.st = .dead ∨ w.st = .free → answers 5) ∧
    (w.st = .opened ∨ w.st = .complete →
      (¬fits → answers 4) ∧ (fits → (hi ≤ lo ∨ w.k < hi) → answers 3) ∧
      (fits → lo < hi → hi ≤ w.k → (meets → answers 1) ∧
        (¬meets → (¬touch → w.exts.length = 8 → answers 2) ∧
          (touch ∨ w.exts.length ≠ 8 → (stages → 16 ≤ s.stagedIn sl → answers 6) ∧
            (¬stages ∨ s.stagedIn sl < 16 → ∃ t, s.waleAt job lid (.wadd h iv es) = (t, .stat 0) ∧
              (∀ i, i ≠ sl * 64 + j → t.wale i = s.wale i) ∧
              let x := t.wale (sl * 64 + j)
              GoodExts x.exts ∧ (∀ a, Covers x.exts a ↔ Covers w.exts a ∨ (lo ≤ a ∧ a < hi)) ∧
              x.data = w.data ∧ x.gen = w.gen ∧ x.st = w.st ∧ x.mode = w.mode ∧
              (stages → x.staged = w.staged ++ [(lo, hi, es)] ∧ x.adds = []) ∧
              (¬stages → w.staged = [] ∨ w.mode ≠ .order → x.adds = [(lo, es)] ∧ x.staged = w.staged) ∧
              (∀ m c, w.mode = .order → lo = p → w.staged = [(hi, m, c)] → hi < m →
                x.adds = [(lo, es), (hi, c)] ∧ x.staged = w.staged))))))

/-- Wale tiles: arming and contributions. Choices of the model that it states: log 40. -/
def Obligations.WaleAccumulation : Prop :=
  Claims.WaleArms ∧ Claims.WaleContributions

/-- 07 R140, R142, R145 to R147, 12 R249, R250: a handle of another generation or job, or of a DEAD or FREE tile, answers DEAD,
and WSTAT the DEAD state, with nothing changed; WSTAT answers the word of the record; WREAD the data of a COMPLETE tile in
its form; WDROP makes the tile DEAD with an error arrival where it was OPEN; WFREE frees a COMPLETE or DEAD tile. -/
def Sys2Proof.Claims.WaleTiles : Prop :=
  ∀ (s : State) (job : BitVec 16) (lid : BitVec 12) (j sl : Nat) (w : Wale), Held s j sl w w.job →
    (∀ (g : BitVec 16) (op : WaleOp), w.gen ≠ g ∨ w.job ≠ job ∨ w.st = .free →
      (op = .wdrop (handle g j sl) ∨ op = .wfree (handle g j sl) ∨ ∃ v i, op = .wread (handle g j sl) v i) →
      s.waleAt job lid op = (s, .stat 5) ∧
      s.waleAt job lid (.wstat (handle g j sl)) = (s, .stat 0x8000000000000000)) ∧
    (w.st = .dead → (∀ v i, s.waleAt w.job lid (.wread (handle w.gen j sl) v i) = (s, .stat 5)) ∧
      s.waleAt w.job lid (.wdrop (handle w.gen j sl)) = (s, .stat 5) ∧
      s.waleAt w.job lid (.wstat (handle w.gen j sl)) = (s, .stat 0x8000000000000000)) ∧
    (w.st = .opened ∨ w.st = .complete →
      (GoodExts w.exts → w.exts.length ≤ 8 → w.staged.length ≤ 16 → (∀ e ∈ w.exts, e.2 ≤ w.k) → w.k < 2 ^ 24 →
        ∃ v, s.waleAt w.job lid (.wstat (handle w.gen j sl)) = (s, .stat v) ∧
          v.toNat = (if w.st = .complete then 2 ^ 62 else 0) + 2 ^ 58 * w.exts.length + 2 ^ 53 * w.staged.length +
            2 ^ 24 * (w.exts.map fun e => e.2 - e.1).sum + (match w.exts.head? with
              | some e => if e.1 = 0 then e.2 else 0
              | none => 0)) ∧
      (∃ t, s.waleAt w.job lid (.wdrop (handle w.gen j sl)) = (t, .stat 0) ∧
        t.wale (sl * 64 + j) = { w with st := .dead, data := [], staged := [], adds := [] } ∧
        t.packets = s.packets ++ match w.bar with
          | some (c, n) => if w.st = .opened then [⟨s.serial, w.job, sl, c, .errArrive n 0x05⟩] else []
          | none => [])) ∧
    (w.st = .opened → (∀ v i, s.waleAt w.job lid (.wread (handle w.gen j sl) v i) = (s, .stat 7)) ∧
      s.waleAt w.job lid (.wfree (handle w.gen j sl)) = (s, .stat 8)) ∧
    (w.st = .complete → (∀ v, (w.mode ≠ .exact → s.waleAt w.job lid (.wread (handle w.gen j sl) v true) = (s, .stat 4)) ∧
      (w.mode = .exact → s.waleAt w.job lid (.wread (handle w.gen j sl) v true) =
        (s, .data 64 (w.data.map fun x => (BitVec.ofInt 64 x).toNat))) ∧
      s.waleAt w.job lid (.wread (handle w.gen j sl) v false) =
        (s, .data 32 (w.data.map fun x => if w.mode = .exact then f32Rne (fpInt x) else x.toNat)))) ∧
    (w.st = .complete ∨ w.st = .dead → ∃ t, s.waleAt w.job lid (.wfree (handle w.gen j sl)) = (t, .stat 0) ∧
      (t.wale (sl * 64 + j)).st = .free ∧ (t.wale (sl * 64 + j)).gen = w.gen)

/-- 12 R247 to R250, 07 R145, R148: a wale operation goes to its slice, its strand waiting, or is performed there at once where
nothing is kept in flight; its status goes to ga late, data to the vector registers; WADD sends the elements it reads at
issue; WWAIT parks while the tile is OPEN; the datapath adds one contribution after another and completes the tile once
all is added. That WWAIT drops RC lines and WADD is remembered as a fence is log entry 96. -/
def Sys2Proof.Claims.WaleInstructions : Prop :=
  (∀ (i : Instr) (s : State) (d : GReg) (l : La) (op : WaleOp), (waleForm s i = some (d, l, op) ∨
      ∃ n, wreadForm s i = some (d, n, l, op) ∧ Leased s) →
    (s.split = true → exec i s = .next (sentWale s d l op)) ∧
    ∀ t v, s.split = false → s.waleAt s.me.job s.me.lid op = (t, .stat v) → t.cur = s.cur →
      exec i s = .next (t.writeLate d v l)) ∧
  (∀ (a b c : GReg) (n : VReg) (l : La) (s : State), Calm s → Leased s → s.split = true →
    ∃ es s', exec (.wadd a b c n l) s = .next (sentWale s' a l (.wadd (s.rg b) (s.rg c) es)) ∧
      s'.me = { s.me with rel := none, fence := some (widest s.me.fence .pkg) } ∧ s'.wales = s.wales ∧
      Elements s n (s.rg c) es ∧ ∀ g j sl, j < 64 → sl < 512 → s.rg b = handle g j sl →
        es.length = (s.wale (sl * 64 + j)).rows * (s.wale (sl * 64 + j)).cols) ∧
  (∀ (i : Instr) (s : State) (id : Nat) (r : WaleReq), ArrivalOf id i r.op → s.wreqs = [(id, r)] → (s.strand r.core r.slot).st = .waiting (.wale id) →
    (∀ t v, ({ s with wreqs := [] } : State).waleAt r.job r.lid r.op = (t, .stat v) →
      (t.strand r.core r.slot).st = .waiting (.wale id) →
      exec i s = .next (t.modStrand r.core r.slot fun u => u.late r.d v r.l (u.pc + 4))) ∧
    ∀ t w vals h (v : VReg) f, r.op = .wread h v f → ({ s with wreqs := [] } : State).waleAt r.job r.lid r.op = (t, .data w vals) →
      (w = 32 ∨ w = 64) → vals.length ≤ 32 * (1024 / w) → (t.strand r.core r.slot).st = .waiting (.wale id) →
      (t.strand r.core r.slot).outs = [] →
      ∃ u, exec i s = .next u ∧ (u.strand r.core r.slot).st = .ready ∧
        (r.l = 0 → (u.strand r.core r.slot).g r.d = 0) ∧ (u.strand r.core r.slot).pc = (t.strand r.core r.slot).pc + 4 ∧
        ∀ e < vals.length, lane w ((u.strand r.core r.slot).vr (v.val + e / (1024 / w))) (e % (1024 / w)) = vals.getD e 0 % 2 ^ w) ∧
  (∀ (b : GReg) (s : State) (j sl : Nat) (w : Wale), Held s j sl w s.me.job → s.rg b = handle w.gen j sl → Quiet s →
    (16 ≤ s.cur.slot → exec (.wwait b) s = .next (s.trap 0x12 s.me.pc)) ∧
    (s.cur.slot < 16 → w.st = .opened → s.waits = [] → ∃ t, exec (.wwait b) s = .next t ∧
      t.me = { s.me with st := .parked (.wale (s.rg b)) }) ∧
    (s.cur.slot < 16 → w.st ≠ .opened → exec (.wwait b) s = .next (acquiring s true .clu).advance)) ∧
  ∀ (s : State) (j sl : Nat) (w : Wale) (p : Nat) (c : List Int) (cs : List (Nat × List Int)), j < 64 → sl < 512 → s.wale (sl * 64 + j) = w →
    w.adds = (p, c) :: cs → w.pois = false → w.data.length = c.length → w.st = .opened →
    let st := w.staged.filter fun x => decide (x.1 ≠ p)
    let sum (x y : Int) : Int := if w.mode = .exact then (BitVec.ofInt 64 (x + y)).toInt
      else (f32Rne (Fp.add .rne (fpOf .f32 x.toNat) (fpOf .f32 y.toNat)) : Nat)
    ∃ t, exec (.waleAddDone sl j) s = .next t ∧ (t.wale (sl * 64 + j)).adds = cs ∧ (t.wale (sl * 64 + j)).staged = st ∧
      (t.wale (sl * 64 + j)).data.length = c.length ∧
      (∀ e < c.length, (t.wale (sl * 64 + j)).data.getD e 0 = sum (w.data.getD e 0) (c.getD e 0)) ∧
      (cs ≠ [] ∨ w.exts ≠ [(0, w.k)] ∨ st ≠ [] → (t.wale (sl * 64 + j)).st = .opened ∧ t.packets = s.packets) ∧
      (cs = [] → w.exts = [(0, w.k)] → st = [] → (t.wale (sl * 64 + j)).st = .complete ∧
        (∀ k n, w.bar = some (k, n) → t.packets = s.packets ++ [⟨s.serial, w.job, sl, k, .arrive n⟩]) ∧
        ∀ k n h, (s.strand k n).st = .parked (.wale h) → h = handle w.gen j sl → (t.strand k n).st = .ready ∧
          (t.strand k n).pc = (s.strand k n).pc + 4)

/-- Wale tiles: their ends, and the wale instructions of a strand. Choices of the model that it states: log 96. -/
def Obligations.Wales : Prop :=
  Claims.WaleTiles ∧ Claims.WaleInstructions

/-! ## Tile tasks, records and messages -/

namespace Sys2Proof.Claims

/-- A tile-task record that 12 R251 admits: reserved bits zero, sizes within the geometry, its barrier within the hoods. -/
def GoodTask (s : State) (ws : List Word) : Prop :=
  let w (i : Nat) : Word := ws.getD i 0
  field (w 3) 26 6 = 0 ∧ field (w 4) 19 13 = 0 ∧ field (w 4) 51 13 = 0 ∧ field (w 6) 27 37 = 0 ∧ field (w 3) 0 16 ≠ 0 ∧
  field (w 1) 40 2 ≠ 3 ∧ 1 ≤ field (w 1) 42 11 ∧ field (w 1) 42 11 ≤ 256 * 2 ^ field (w 1) 40 2 ∧
  field (w 1) 53 11 + 1 ≤ (if field (w 1) 32 8 = 0 then 128 else 1024) / 2 ^ field (w 1) 40 2 ∧
  ((w 6).getLsbD 26 = true → s.inHoods s.me.job (field (w 6) 12 9) = true)

/-- The tile operation of a record (07 R138). -/
def recordTile (k : Task) (cl : Nat) (b : Bases) : Tile :=
  let w (i : Nat) : Word := k.words.getD i 0
  ⟨field (w 3) 0 16, (w 3).getLsbD 24, (w 3).getLsbD 25, false, BitVec.ofNat 12 (field (w 6) 0 12), w 7, w 2,
    field (w 3) 32 32, BitVec.ofNat 8 (field (w 3) 16 8), BitVec.ofNat 8 (field (w 1) 32 8), BitVec.ofNat 19 (field (w 4) 0 19),
    BitVec.ofNat 19 (field (w 4) 32 19), k.core, k.job, b, k.lid,
    if (w 6).getLsbD 26 then some (field (w 6) 12 9, Fin.ofNat 32 (field (w 6) 21 5)) else none, some (cl, k.ticket), 0, 0, [],
    false, none, []⟩

/-- The matrix unit of a core of the cluster is free: no tile operation, none of its ports bound, its core serving. A strand's
load in progress does not keep it from being free. -/
def FreeUnit (s : State) (cl c : Nat) : Prop :=
  c < 512 ∧ clusterOf c = cl ∧ s.opens c = true ∧ (s.core c).matrix.tile = none ∧ (s.core c).matrix.queued = none ∧
  ((s.core c).queues.all fun x => decide (x.2.kind ≠ .ma ∧ x.2.kind ≠ .mb ∧ x.2.kind ≠ .mout)) = true

/-- A core's unit holds a B under the record's tag. -/
def HasTag (s : State) (k : Task) (c : Nat) : Prop :=
  ((s.core c).matrix.res.any fun r => r.tag.toNat = field (k.words.getD 1 0) 0 32) = true

/-- The unit that takes a record (03 R62): the lowest free one with its tag, else the lowest free one. -/
def UnitFor (s : State) (cl : Nat) (k : Task) (c : Nat) : Prop :=
  FreeUnit s cl c ∧
  (HasTag s k c ∧ (∀ e < c, FreeUnit s cl e → ¬HasTag s k e) ∨
    (∀ e < 512, FreeUnit s cl e → ¬HasTag s k e) ∧ ∀ e < c, ¬FreeUnit s cl e)

/-- The model's mark of a strand's fences (log entry 96): the code of the widest scope of its fences with release, if any. -/
def fencesOf (s : State) : List Word :=
  match s.me.fence with
  | some c => [BitVec.ofNat 64 (scopeCode c)]
  | none => []

/-- A record as the part sends it (02 R31, R32): JOB, FROM and LID of the sender, DEST, VN and KIND as given, argument words
beyond ARGC zero; after them the mark of its fences. -/
def sentRec (s : State) (ws : List Word) (dest vn kind : Nat) : Rec :=
  let h := ws.getD 0 0
  BitVec.ofNat 64 (field h 0 12 + 2 ^ 12 * s.me.lid.toNat + 2 ^ 24 * field h 24 3 + 2 ^ 27 * kind + 2 ^ 28 * vn + 2 ^ 30 * dest +
      2 ^ 39 * s.cur.core + 2 ^ 48 * s.me.job.toNat) ::
    ((List.range 7).map fun j => if j < field h 24 3 then ws.getD (j + 1) 0 else 0) ++ fencesOf s

/-- The model's marks of a record's way in a send queue (log entry 96): its sender, and its place in the order of sending. -/
def wayOf (s : State) : List Word := [BitVec.ofNat 64 (2 ^ 32 + s.me.strid.toNat), BitVec.ofNat 64 (2 ^ 40 + s.serial)]

/-- A record as it arrives: of its marks only that of the fences stays. -/
def arrived (r : Rec) : Rec := r.take 8 ++ (r.drop 8).filter fun m => decide (m.toNat < 8)

/-- A record that may arrive: it is on its way under the number, nothing that its sender has sent before to the same core, on
the same network, is on its way or in a send queue, and its core has not been vacated. -/
def Arriving (s : State) (id : Nat) (m : Mail) : Prop :=
  s.mails.find? (fun x => decide (x.id = id)) = some m ∧
  (∀ r ∈ (s.mails.filter fun x => decide (x.vn = m.vn)).map (·.body) ++ s.cores.flatMap fun k => k.2.sq m.vn,
    field (r.getD 0 0) 48 16 = field (m.body.getD 0 0) 48 16 → field (r.getD 0 0) 30 9 = field (m.body.getD 0 0) 30 9 →
    Rec.sender r = Rec.sender m.body → Rec.place m.body ≤ Rec.place r) ∧
  s.preempts = [] ∧ (s.core m.dst).fwd = none

/-- The message strand of core `c` is BLOCKED on a full send queue of requests whose oldest goes to core `d`. -/
def StuckOn (s : State) (c d : Nat) : Prop :=
  (s.strand c 16).st = .blocked ∧ 16 ≤ ((s.core c).sq false).length ∧
  ∃ r rs, (s.core c).sq false = r :: rs ∧ s.reach (field (r.getD 0 0) 30 9) = d

/-- A strand that a record has started (02 R34): the header in g0, the arguments up to ARGC after it, zero beyond, no vector
state, and the state of a new strand. -/
def Started (t : Strand) (r : Rec) (pc : Word) (job : BitVec 16) : Prop :=
  t.st = .ready ∧ t.pc = pc ∧ t.job = job ∧ t.lid.toNat = field (r.getD 0 0) 12 12 ∧ t.strid ≠ 0 ∧ t.prio = 3 ∧ t.role = 0 ∧
  t.frm = .rne ∧ t.regs.fmtbad = false ∧ t.regs.srseed = 0 ∧ t.sup = false ∧ t.intrap = false ∧ t.vl = false ∧ t.outs = [] ∧
  t.g 0 = r.getD 0 0 ∧ ∀ j : Fin 16, j ≠ 0 → t.g j = if j.val ≤ field (r.getD 0 0) 24 3 then r.getD j.val 0 else 0

/-- The handler's entry word is read for the core at the address that HTBASE and HIDX give (02 R33). -/
def EntryRead (s : State) (c : Nat) (h : Word) (s1 : State) (v : Nat) : Prop :=
  let ht := (s.core c).htbase
  field h 0 12 ≤ field ht 0 12 ∧
  s.readAt (s.party c (s.coreJob c) false) (BitVec.ofNat 64 (field ht 15 49 * 2 ^ 15 + 8 * field h 0 12)) 8 .engine = .ok s1 v

end Sys2Proof.Claims

/-- 12 R251, R252, 03 R62, 07 R138, R139: TTSUB checks its record, waits while 64 are held and gives the next ticket; TTSTAT
reads what is remembered of a ticket (its BADTT has the FADDR of log entry 57; NOUT for an unsupported FMTB is bounded as log
entry 58 says, and TTSUB is remembered as a fence by log entry 96); the oldest record with no dependence goes to the lowest
free unit with its tag, else the lowest free one, which loads B unless it is resident, once no load of a strand is in
progress there. -/
def Obligations.TileTasks : Prop :=
  (∀ (a b : GReg) (l : La) (s : State),
    ((s.rg b).toNat % 8 ≠ 0 → exec (.ttsub a b l) s = .next (s.trap 0x04 (s.rg b))) ∧
    (∀ s1 ws, (s.rg b).toNat % 8 = 0 → s.words (s.rg b) 8 = .ok (s1, ws) →
      (¬GoodTask s1 ws → exec (.ttsub a b l) s = .next (s1.trap 0x24 (s.rg b))) ∧
      (GoodTask s1 ws → Calm s1 →
        let cl := clusterOf s.cur.core
        let d := s1.sched cl
        let s3 := ((s1.fenced .pkg).relDone).released .pkg
        (64 ≤ d.held.length → exec (.ttsub a b l) s = .next s3.block) ∧
        (d.held.length < 64 → ∀ s2, s3.launchInc s1.me.job s1.me.lid.toNat = (s2, true) →
          ∃ t : State, exec (.ttsub a b l) s = .next (t.writeLate a (d.next.zeroExtend 64) l) ∧
            t.me = { s1.me with rel := none, fence := some (widest s1.me.fence .pkg) } ∧ t.jobs = s2.jobs ∧
            t.sched cl = ⟨d.held ++ [⟨d.next, ws, s1.cur.core, s1.me.job, s1.me.lid⟩], d.next + 1,
              (d.tickets ++ [((d.next, ⟨0, false, 0⟩) : BitVec 16 × Ticket)]).drop (d.tickets.length + 1 - 256)⟩))) ∧
    (2 ^ 16 ≤ (s.rg b).toNat → exec (.ttstat a b l) s = .next (s.trap 0x24 (s.rg b))) ∧
    ((s.rg b).toNat < 2 ^ 16 → ∃ v, exec (.ttstat a b l) s = .next (s.writeLate a v l) ∧
      match (s.sched (clusterOf s.cur.core)).tickets.find? (fun x => decide (x.1.toNat = (s.rg b).toNat)) with
      | none => v = 0xC000000000000000
      | some (_, x) => x.unit < 512 → v.toNat = x.unit + (if x.err then 2 ^ 61 else 0) + 2 ^ 62 * x.st.toNat)) ∧
  ∀ (cl c : Nat) (s : State) (k : Task) (ks : List Task), s.deaf = false → (s.sched cl).held = k :: ks →
    (∀ x ∈ ks, x.ticket ≠ k.ticket) → k.words.getD 5 0 = 0 → UnitFor s cl k c →
    let x := recordTile k cl (s.core c).bases
    let w := k.words.getD 1 0
    x.fmta.toNat ∈ [0x00, 0x08, 0x09, 0x13, 0x14] → x.fmtb.toNat ∈ [0, 9] → (x.m ≤ 32 ∨ (x.acc = false ∧ x.drain = true)) →
    ∃ t, exec (.tileSchedulerIssue cl) s = .next t ∧ (t.sched cl).held = ks ∧
      (t.sched cl).tickets = (s.sched cl).tickets.map (fun y => if y.1 = k.ticket then (k.ticket, ⟨1, false, c⟩) else y) ∧
      ((s.core c).matrix.load.isSome = true → (t.core c).matrix = { (s.core c).matrix with queued := some (cl, k) }) ∧
      (∀ r, (s.core c).matrix.load = none → (s.core c).matrix.res = some r → r.tag.toNat ≠ 0 → r.tag.toNat = field w 0 32 → r.fmtb = x.fmtb →
        r.geom.toNat = field w 40 2 → r.k = field w 42 11 → r.nout = field w 53 11 + 1 → x.acc = false →
        (t.core c).matrix = { (s.core c).matrix with tile := some x, rows := 0 }) ∧
      ((s.core c).matrix.load = none → (field w 0 32 = 0 ∨ ¬HasTag s k c) → (t.core c).matrix = { (s.core c).matrix with
        load := some ⟨some (k.words.getD 0 0), BitVec.ofNat 32 (field w 0 32), BitVec.ofNat 2 (field w 40 2), field w 42 11,
          field w 53 11 + 1, x.fmtb, k.job, (s.core c).bases, []⟩,
        res := none, rows := 0, tile := some x })

/-- 12 R253, R254, 02 R32: SEND and REPLY check the record, complete its header and queue it, or push it on the own core's
deque; a full queue blocks, or traps with SQFULL in a message strand on the reply network; REPLY goes to the sender of the
record being handled. 05 R93: both wait while a FENCE.REL before them has stores to wait for. The marks behind a record's
eight words are log entry 96's. -/
def Sys2Proof.Claims.SendsAndReplies : Prop :=
  ∀ (b : GReg) (s : State),
    ((s.rg b).toNat % 8 ≠ 0 → exec (.send b) s = .next (s.trap 0x04 (s.rg b))) ∧
    (s.cur.slot ≠ 16 ∨ s.me.sender = none → exec (.reply b) s = .next (s.trap 0x16 s.me.pc)) ∧
    ∀ s1 ws, (s.rg b).toNat % 8 = 0 → s.words (s.rg b) 8 = .ok (s1, ws) → Quiet s1 → s1.cur.core < 512 →
      let h := ws.getD 0 0
      let dest := field h 30 9
      let vn := field h 28 2
      let kind := field h 27 1
      (2 ≤ vn ∨ (vn = 1 ∧ kind = 1) → exec (.send b) s = .next (s1.trap 0x14 (s.rg b))) ∧
      (vn < 2 → ¬(vn = 1 ∧ kind = 1) →
        (s1.inHoods s1.me.job dest = false → exec (.send b) s = .next (s1.trap 0x0D (BitVec.ofNat 64 dest))) ∧
        (s1.inHoods s1.me.job dest = true → s1.relStill = true → exec (.send b) s = .next s1.block) ∧
        (s1.inHoods s1.me.job dest = true → s1.relStill = false →
          (kind = 0 ∨ dest ≠ s1.cur.core → 16 ≤ (s1.mine.sq (decide (vn = 1))).length →
            exec (.send b) s = .next (if s1.cur.slot = 16 ∧ vn = 1 then s1.relDone.trap 0x15 s1.me.pc else s1.relDone.block)) ∧
          ∀ s2, s1.relDone.launchInc s1.me.job s1.me.lid.toNat = (s2, true) →
            (kind = 1 → dest = s1.cur.core → s1.mine.deque.length < 256 → ∃ t, exec (.send b) s = .next t ∧
              t.mine.deque = s1.mine.deque ++ [.one (sentRec s1 ws dest vn kind)] ∧
              t.me = { wentOn s1.me (s1.me.pc + 4) with rel := none } ∧ t.jobs = s2.jobs ∧ t.mem = s1.mem) ∧
            (kind = 0 ∨ dest ≠ s1.cur.core → (s1.mine.sq (decide (vn = 1))).length < 16 → ∃ t, exec (.send b) s = .next t ∧
              t.mine.sq (decide (vn = 1)) = s1.mine.sq (decide (vn = 1)) ++ [sentRec s1 ws dest vn kind ++ wayOf s1] ∧
              t.me = { wentOn s1.me (s1.me.pc + 4) with rel := none } ∧ t.jobs = s2.jobs ∧ t.mem = s1.mem))) ∧
      ∀ (c : BitVec 9) s2, s.cur.slot = 16 → s.me.sender = some c → s1.inHoods s1.me.job c.toNat = true →
        s1.relStill = false → (s1.mine.sq true).length < 16 → s1.relDone.launchInc s1.me.job s1.me.lid.toNat = (s2, true) →
        ∃ t, exec (.reply b) s = .next t ∧ t.mine.sq true = s1.mine.sq true ++ [sentRec s1 ws c.toNat 1 0 ++ wayOf s1] ∧
          t.me = { wentOn s1.me (s1.me.pc + 4) with rel := none } ∧ t.jobs = s2.jobs ∧ t.mem = s1.mem

/-- 02 R33 to R36, 22 R381, 03 R52, R53, R57, 24 R401: a record leaves its send queue in order, enters the mailbox or the
deque it is for, and starts on the message strand or a FREE general slot with the strand R34 describes; a fenced core, or one
of another job (16 R286), discards it, and a record with no handler is discarded with its launch's ERR and an event. It
starts in the lowest FREE slot (log entry 63); a push waits for the core's own pop (R52); the requests of two message strands
that are each BLOCKED on a full queue towards the other stay (24 R403). The marks that a record carries are log entry 96's.
-/
def Sys2Proof.Claims.RecordsArriveAndStart : Prop :=
  (∀ (c d : Nat) (s : State), c ≠ d → StuckOn s c d → StuckOn s d c → exec (.recordDeparture c false) s = .next s) ∧
  (∀ (c : Nat) (vn : Bool) (s : State) (r : Rec) (rs : List Rec), (s.core c).sq vn = r :: rs →
    (vn = false → ∀ d, c ≠ d → ¬(StuckOn s c d ∧ StuckOn s d c)) →
    ∃ t, exec (.recordDeparture c vn) s = .next t ∧ (t.core c).sq vn = rs ∧ t.mem = s.mem ∧
      t.mails = s.mails ++ [⟨s.serial, c, field (r.getD 0 0) 30 9, vn, r⟩]) ∧
  (∀ (id : Nat) (s : State) (m : Mail), Arriving s id m → field (m.body.getD 0 0) 27 1 = 0 →
    (s.shut m.dst = false → BitVec.ofNat 16 (field (m.body.getD 0 0) 48 16) = s.coreJob m.dst → (s.core m.dst).boxSpill m.vn = [] → ((s.core m.dst).box m.vn).length < 64 →
      ((s.core m.dst).queues.all fun x => !x.2.kind.diverts (BitVec.ofNat 12 (field (m.body.getD 0 0) 0 12))) = true →
      ∃ t, exec (.mailboxArrival id) s = .next t ∧ (t.core m.dst).box m.vn = (s.core m.dst).box m.vn ++ [arrived m.body] ∧
        t.mails = s.mails.filter fun x => x.id ≠ id) ∧
    (s.shut m.dst = true ∨ BitVec.ofNat 16 (field (m.body.getD 0 0) 48 16) ≠ s.coreJob m.dst → s.split = true → ∃ t, exec (.mailboxArrival id) s = .next t ∧
      (t.core m.dst).box m.vn = (s.core m.dst).box m.vn ∧ (t.mails = s.mails.filter fun x => x.id ≠ id) ∧
      t.ctrs = s.ctrs ++ [⟨BitVec.ofNat 16 (field (m.body.getD 0 0) 48 16), .launch, field (m.body.getD 0 0) 12 12, .decErr⟩])) ∧
  (∀ (id : Nat) (s : State) (m : Mail), Arriving s id m → field (m.body.getD 0 0) 27 1 = 1 → s.shut m.dst = false →
    BitVec.ofNat 16 (field (m.body.getD 0 0) 48 16) = s.coreJob m.dst →
    (∀ x, s.counter? (s.coreJob m.dst) .launch (field (m.body.getD 0 0) 12 12) = some x → x.canc = false) →
    (s.core m.dst).deque.length < 256 → (s.opens m.dst = false ∨ (∀ n < 16, (s.strand m.dst n).st ≠ .free) ∨
      (s.core m.dst).deque = []) → ∃ t, exec (.dequePush id) s = .next t ∧
      (t.core m.dst).deque = (s.core m.dst).deque ++ [.one (arrived m.body)] ∧ t.mails = s.mails.filter fun x => x.id ≠ id) ∧
  (∀ (c : Nat) (s s1 : State) (r : Rec) (rs : List Rec) (vn : Bool), (s.core c).strand 16 = Strand.empty → s.opens c = true →
    (s.core c).box vn = r :: rs → (vn = true ∨ (s.core c).box true = []) → (s.core c).boxSpill vn = [] →
    let s0 := s.setCore c { s.core c with mbox := (s.core c).mbox.put (if vn then 1 else 0) rs }
    (∀ v, EntryRead s0 c (r.getD 0 0) s1 v → v % 2 = 1 →
      ∃ t, exec (.messageHandlerStart c) s = .next t ∧ (t.core c).box vn = (s1.core c).box vn ∧
        Started (t.strand c 16) r (BitVec.ofNat 64 (v / 4 % 2 ^ 46 * 4)) (s.coreJob c) ∧
        (t.strand c 16).sender = some (BitVec.ofNat 9 (field (r.getD 0 0) 39 9))) ∧
    (field (s.core c).htbase 0 12 < field (r.getD 0 0) 0 12 → s.split = true →
      ∃ t, exec (.messageHandlerStart c) s = .next t ∧ (t.core c).box vn = rs ∧ t.strand c 16 = Strand.empty ∧
        t.events = s.events ++ [.badHandler (s.coreJob c) (r.getD 0 0) 0] ∧
        t.ctrs = s.ctrs ++ [⟨s.coreJob c, .launch, field (r.getD 0 0) 12 12, .decErr⟩])) ∧
  (∀ (c n : Nat) (s s1 : State) (q : List DqEnt) (r : Rec) (v : Nat), s.opens c = true → n < 16 →
    (s.core c).strand n = Strand.empty → (∀ m < n, (s.strand c m).st ≠ .free) →
    let s0 (q' : List DqEnt) := s.setCore c { s.core c with deque := q' }
    ((s.core c).deque = q ++ [.one r] → EntryRead (s0 q) c (r.getD 0 0) s1 v → v % 2 = 1 →
      ∃ t, exec (.dequePop c) s = .next t ∧ (t.core c).deque = (s1.core c).deque ∧
        Started (t.strand c n) r (BitVec.ofNat 64 (v / 4 % 2 ^ 46 * 4)) (s.coreJob c)) ∧
    ∀ h lo hi count base stride sh, (s.core c).deque = q ++ [.range h lo hi count base stride sh] → lo + 1 < hi →
      EntryRead (s0 (q ++ [.range h (lo + 1) hi count base stride sh])) c h s1 v → v % 2 = 1 →
      field h 24 3 = 7 → 4 ≤ sh.length →
      ∃ t, exec (.dequePop c) s = .next t ∧ (t.core c).deque = (s1.core c).deque ∧
        Started (t.strand c n) (h :: BitVec.ofNat 64 lo :: (base + BitVec.ofNat 64 lo * stride) :: (sh.take 4 ++ [BitVec.ofNat 64 count]))
          (BitVec.ofNat 64 (v / 4 % 2 ^ 46 * 4)) (s.coreJob c)) ∧
  ∀ (c : Nat) (s : State), (s.core c).deque = [] →
    ∃ t, exec (.dequeRefill c) s = .next t ∧
      (t.core c).dspill ++ (t.core c).deque = (s.core c).dspill ∧ (t.core c).deque.length = min 64 (s.core c).dspill.length

/-- Records: sending, arriving and starting. Choices of the model that it states: log 63, 96. -/
def Obligations.Records : Prop :=
  Claims.SendsAndReplies ∧ Claims.RecordsArriveAndStart

/-! ## Strands -/

namespace Sys2Proof.Claims

/-- Slot `n` is the lowest FREE general slot of a core. -/
def LowestFree (s : State) (c n : Nat) : Prop :=
  n < 16 ∧ (s.strand c n).st = .free ∧ ∀ m < n, (s.strand c m).st ≠ .free

/-- The issuing strand may leave its core (02 R26): a general strand with no lease, no binding and no copy of its own. -/
def MayMove (s : State) : Prop :=
  s.cur.slot < 16 ∧ s.me.vl = false ∧ (s.mine.queues.all fun x => decide (x.2.slot ≠ s.cur.slot)) = true ∧
  (s.mine.copies.all fun x => decide (x.slot ≠ s.cur.slot) || decide (x.strid ≠ s.me.strid)) = true

/-- The strand as an image carries it (02 R29): STATUS, pc, the registers and control registers, LID and the wake token; no
lease, no window, no monitor (log entry 42); it counts as after a FENCE.AR.SYS (02 R30). -/
def Carried (t u : Strand) : Prop :=
  u.st = .ready ∧ u.pc = t.pc ∧ u.sup = t.sup ∧ u.intrap = t.intrap ∧ u.job = t.job ∧ u.strid = t.strid ∧ u.frm = t.frm ∧
  u.prio = t.prio ∧ u.role = t.role ∧ u.fmta = t.fmta ∧ u.fmtb = t.fmtb ∧ u.scla = t.scla ∧ u.sclb = t.sclb ∧ u.lid = t.lid ∧
  u.wtok = t.wtok ∧ u.regs.fmtbad = t.regs.fmtbad ∧ u.regs.srseed = t.regs.srseed ∧ (∀ j, u.g j = t.g j) ∧
  (∀ j, u.bp j = t.bp j) ∧ u.vl = false ∧ u.outs = [] ∧ u.mon = none ∧ u.fence = some .sys

/-- The migration of the strand in a slot is the one given, and no other of that slot is in flight. -/
def Moving (s : State) (m : Move) : Prop :=
  s.moves.find? (fun x => decide (x.src = m.src) && decide (x.slot = m.slot)) = some m

/-- Record `h`, as CNTARM arms it (12 R257): KIND 1, the target as DEST, JOB, FROM and LID of the strand. -/
def armWordOk (w : Word) : Prop := field w 4 4 = 0 ∧ field w 25 7 = 0 ∧ field w 8 8 < 12

end Sys2Proof.Claims

/-- 12 R255, R256, 02 R36, R38: SPAWN checks its slot and address, gives 0 where no general slot is FREE, else creates the
strand in the lowest one (log entry 63) and gives its STRID, never 0, or gives 0 in a cancelled launch (log entry 59); EXIT
ends the strand, its slot FREE, its launch's count to lose 1. -/
def Sys2Proof.Claims.SpawnAndExit : Prop :=
  ∀ (a b c : GReg) (l : La) (s : State), Calm s →
    (16 ≤ s.cur.slot → exec (.spawn a b c l) s = .next (s.trap 0x12 s.me.pc)) ∧
    (s.cur.slot < 16 → (s.rg b).toNat % 4 ≠ 0 → exec (.spawn a b c l) s = .next (s.trap 0x05 (s.rg b))) ∧
    (s.cur.slot < 16 → (s.rg b).toNat % 4 = 0 → (∀ n < 16, (s.strand s.cur.core n).st ≠ .free) →
      exec (.spawn a b c l) s = .next (s.writeLate a 0 l)) ∧
    (∀ n k, s.cur.slot < 16 → (s.rg b).toNat % 4 = 0 → LowestFree s s.cur.core n → s.me.st ≠ .free →
      s.counter? s.me.job .launch s.me.lid.toNat = some k → k.done = false →
      (k.canc = true → exec (.spawn a b c l) s = .next (s.writeLate a 0 l)) ∧
      (k.canc = false → ∃ (t : State) (id : BitVec 32), exec (.spawn a b c l) s = .next (t.writeLate a (id.zeroExtend 64) l) ∧
        id ≠ 0 ∧ t.me = s.me ∧ t.mem = s.mem ∧
        t.counter? s.me.job .launch s.me.lid.toNat = some { k with count := k.count + 1 } ∧
        let u := t.strand s.cur.core n
        u.st = .ready ∧ u.pc = s.rg b ∧ u.job = s.me.job ∧ u.lid = s.me.lid ∧ u.strid = id ∧ u.prio = 3 ∧ u.role = 0 ∧
        u.frm = .rne ∧ u.sup = false ∧ u.vl = false ∧ u.outs = [] ∧ u.g 1 = s.rg c ∧ ∀ j, j ≠ 1 → u.g j = 0)) ∧
    (s.cur.slot < 17 → s.me.fl = .none → s.me.st ≠ .free → s.split = true → ∃ t, exec .exit s = .next t ∧
      (t.strand s.cur.core s.cur.slot).st = .free ∧ t.mem = s.mem ∧
      t.ctrs = s.ctrs ++ [⟨s.me.job, .launch, s.me.lid.toNat, .dec⟩] ∧
      (s.me.vl = true → (t.strand s.cur.core s.cur.slot).vl = false))

/-- 12 R255, R257, 03 R49, R61, 04 R74: YIELD, which keeps its age, PRIO, ROLE; PARK parks, or uses up the wake token; WAKE
and its arrival; MONARM arms the strand's one monitor on the line of its address, MONWAIT parks until the line is written;
CNTARM arms. A WAKE leaves its token with a strand parked elsewhere (log entry 113); the order of CNTARM's tests and the
FADDR of BADREC are log entry 62's. -/
def Sys2Proof.Claims.StrandGroup : Prop :=
  ∀ (b c : GReg) (s : State), Quiet s →
    (exec .yield s = .next (withMe s { wentOn s.me (s.me.pc + 4) with
      yields := decide (s.cur.slot < 16) || s.me.yields, age := if s.cur.slot < 16 then s.me.age else 0 })) ∧
    (exec (.prio b) s = .next (withMe s { wentOn s.me (s.me.pc + 4) with prio := (s.rg b).setWidth 2 })) ∧
    (exec (.role b) s = .next (withMe s { wentOn s.me (s.me.pc + 4) with role := (s.rg b).setWidth 2 })) ∧
    (16 ≤ s.cur.slot → exec .park s = .next (s.trap 0x12 s.me.pc) ∧ exec .monwait s = .next (s.trap 0x12 s.me.pc)) ∧
    (s.cur.slot < 16 → exec .park s = .next (if s.me.wtok then withMe s { wentOn s.me (s.me.pc + 4) with wtok := false }
      else withMe s { s.me with st := .parked .park })) ∧
    (let d := field (s.rg c) 0 9
     (s.inHoods s.me.job d = false → exec (.wake b c) s = .next (s.trap 0x0D (BitVec.ofNat 64 d))) ∧
     (s.inHoods s.me.job d = true → ∃ t, exec (.wake b c) s = .next t ∧ t.me = wentOn s.me (s.me.pc + 4) ∧
       t.packets = s.packets ++ [⟨s.serial, s.me.job, s.cur.core, d, .wake s.me.job ((s.rg b).setWidth 32)⟩] ∧ t.mem = s.mem)) ∧
    (∀ id pj src d n job sid, s.packets.find? (fun p => decide (p.id = id)) = some ⟨id, pj, src, d, .wake job sid⟩ →
      s.preempts = [] → s.moves = [] → (s.core d).fwd = none → s.shut d = false → n < 19 → (s.strand d n).st ≠ .free →
      (s.strand d n).job = job → (s.strand d n).strid = sid → (∀ m < n, (s.strand d m).strid ≠ sid) → (s.strand d n).outs = [] →
      ∃ t, exec (.wakeArrival id) s = .next t ∧ (t.packets = s.packets.filter fun p => p.id ≠ id) ∧
        t.strand d n = if (s.strand d n).st = .parked .park then wentOn (s.strand d n) ((s.strand d n).pc + 4)
          else { s.strand d n with wtok := true }) ∧
    (2 ^ 48 ≤ (s.rg b).toNat → exec (.monarm b) s = .next (s.trap 0x05 (s.rg b))) ∧
    (∀ s1 pa ty shut ver pte tag, (s.rg b).toNat < 2 ^ 48 →
      s.translate s.agent (s.rg b).toNat .load = (s1, .ok pa ty shut ver pte tag) → Quiet s1 → s1.waits = [] →
      ∃ t, exec (.monarm b) s = .next t ∧ t.me = { wentOn s1.me (s1.me.pc + 4) with mon := some (pa / 128, false) } ∧
        t.waits = [(false, pa / 128, s1.cur.core, s1.cur.slot)] ∧ t.mem = s1.mem) ∧
    (∀ x, s.cur.slot < 16 → s.me.mon = some (x, false) → exec .monwait s = .next (withMe s { s.me with st := .parked .mon })) ∧
    (s.cur.slot < 16 → (s.me.mon = none ∨ ∃ x, s.me.mon = some (x, true)) → ∃ t, exec .monwait s = .next t ∧
      t.me = { wentOn s.me (s.me.pc + 4) with mon := none } ∧ t.mem = s.mem ∧
      t.waits = s.waits.filter fun w => !(!w.1 && w.2.1 < 2 ^ 60 && w.2.2 = (s.cur.core, s.cur.slot))) ∧
    ((s.rg c).toNat % 8 ≠ 0 → exec (.cntarm b c) s = .next (s.trap 0x04 (s.rg c))) ∧
    ∀ s1 ws, (s.rg c).toNat % 8 = 0 → s.words (s.rg c) 8 = .ok (s1, ws) → Quiet s1 → s1.cur.core < 512 →
      let w := s.rg b
      let d := field w 16 9
      (¬armWordOk w ∨ field (ws.getD 0 0) 28 2 ≠ 0 → exec (.cntarm b c) s = .next (s1.trap 0x14 (s.rg c))) ∧
      (armWordOk w → field (ws.getD 0 0) 28 2 = 0 →
        (s1.inHoods s1.me.job d = false → exec (.cntarm b c) s = .next (s1.trap 0x0D (BitVec.ofNat 64 d))) ∧
        (s1.inHoods s1.me.job d = true → ∃ t, exec (.cntarm b c) s = .next t ∧ t.me = wentOn s1.me (s1.me.pc + 4) ∧
          t.mine.arms = s1.mine.arms.put (field w 0 3) ⟨w.getLsbD 3, BitVec.ofNat 8 (field w 8 8), d, field w 32 32,
            (sentRec s1 ws d 0 1).take 8, s1.me.job, s1.me.lid⟩ ∧ t.mem = s1.mem))

/-- Strands: their making and end, and the instructions of strand control. Choices of the model that it states: log 59, 62,
63, 113. -/
def Obligations.Strands : Prop :=
  Claims.SpawnAndExit ∧ Claims.StrandGroup

/-- 02 R26 to R30, 19 R325, R337: MIGRATE checks its strand and its core, also where that is its own (log entry 112), then
stops it; a follower detaches first (09 R179); the image leaves when nothing is outstanding; it is accepted into the lowest
FREE slot (log entry 63) of a core of the job's hoods that serves, without its monitor (log entry 42) and as after a
FENCE.AR.SYS (log entry 96), else refused; accepted, the source slot is FREE; refused, the strand goes on where it was. -/
def Obligations.Migration : Prop :=
  (∀ (b : GReg) (s : State), s.me.fl = .follower →
    exec (.migrate b) s = exec (.migrate b) (withMe s (apart s.me s.me.pc (leadRest s s.cur.core s.cur.slot)))) ∧
  (∀ (b : GReg) (s : State), Quiet s → s.me.fl ≠ .follower → s.me.fl ≠ .owes →
    (16 ≤ s.cur.slot → exec (.migrate b) s = .next (s.trap 0x12 s.me.pc)) ∧
    (s.cur.slot < 16 → s.me.intrap = true → exec (.migrate b) s = .next s.advance) ∧
    (s.cur.slot < 16 → s.me.intrap = false →
      (512 ≤ (s.rg b).toNat → exec (.migrate b) s = .next (s.trap 0x05 (s.rg b))) ∧
      ((s.rg b).toNat < 512 → ¬MayMove s → exec (.migrate b) s = .next (s.trap 0x13 s.me.pc)) ∧
      ((s.rg b).toNat = s.cur.core → s.cur.core < 512 → MayMove s → exec (.migrate b) s = .next s.advance) ∧
      ((s.rg b).toNat < 512 → (s.rg b).toNat ≠ s.cur.core → MayMove s → s.me.fl = .none →
        ∃ t, exec (.migrate b) s = .next t ∧
          t.me = { wentOn s.me (s.me.pc + 4) with st := .moving (s.rg b).toNat } ∧ t.mem = s.mem ∧
          t.moves = s.moves ++ [⟨s.cur.core, s.cur.slot, (s.rg b).toNat, false, false, none⟩]))) ∧
  ∀ (s : State) (m : Move), Moving s m →
    (m.sent = false → (s.strand m.src m.slot).traps = [] → (s.strand m.src m.slot).outs = [] →
      ((s.core m.src).journal.all fun x => !x.2.v || decide (x.2.slot ≠ m.slot)) = true →
      ∃ t, exec (.migrationSend m.src m.slot) s = .next t ∧ Moving t { m with sent := true } ∧ t.mem = s.mem) ∧
    (m.sent = true → m.ok = none → (s.core m.dst).fwd = none →
      (∀ n, LowestFree s m.dst n → s.inHoods (s.strand m.src m.slot).job m.dst = true → s.opens m.dst = true →
        ¬(m.src = m.dst) → ∃ t, exec (.migrationArrival m.src m.slot) s = .next t ∧
          Carried (s.strand m.src m.slot) (t.strand m.dst n) ∧ Moving t { m with ok := some true }) ∧
      (s.inHoods (s.strand m.src m.slot).job m.dst = false ∨ s.opens m.dst = false ∨
          (∀ n < 16, (s.strand m.dst n).st ≠ .free) →
        ∃ t, exec (.migrationArrival m.src m.slot) s = .next t ∧ Moving t { m with ok := some false } ∧ t.cores = s.cores)) ∧
    (m.ok = some true → ∃ t, exec (.migrationAccept m.src m.slot) s = .next t ∧ t.strand m.src m.slot = Strand.empty ∧
      t.moves = s.moves.filter fun x => !(x.src = m.src && x.slot = m.slot)) ∧
    (m.ok = some false → ∃ t, exec (.migrationRefuse m.src m.slot) s = .next t ∧
      t.strand m.src m.slot = { s.strand m.src m.slot with st := .ready, age := 0, nohint := m.hint } ∧
      t.moves = s.moves.filter fun x => !(x.src = m.src && x.slot = m.slot))

/-! ## The work hierarchy -/

namespace Sys2Proof.Claims

/-- The launch entry of a descriptor (12 R258): its records' header, their arguments' base and stride, the shared words, the
mark of the launcher's fences. -/
def entryOf (s : State) (frm lid : Nat) (d : List Word) : DqEnt :=
  let w := d.getD 0 0
  .range (BitVec.ofNat 64 (field w 32 12 + 2 ^ 12 * lid + 2 ^ 24 * 7 + 2 ^ 27 + 2 ^ 30 * field w 52 9 + 2 ^ 39 * frm +
    2 ^ 48 * s.me.job.toNat)) 0 (field w 0 32) (field w 0 32) (d.getD 1 0) (d.getD 3 0) ((d.drop 4).take 4 ++ fencesOf s)

/-- The header of a deque entry. -/
def entryHdr : DqEnt → Word
  | .one r => r.getD 0 0
  | .range h .. => h

/-- The launches that a descriptor waits for: used, of its graph, and incomplete. -/
def Awaited (j : Job) (d : List Word) (n : Nat) : Prop :=
  ∃ i < 4, (d.getD 2 0).getLsbD (48 + i) = true ∧ field (d.getD 2 0) (12 * i) 12 = n ∧
    ((j.launch? n).any fun k => decide (k.graph = field (d.getD 0 0) 44 8) && !k.ctr.done) = true

/-- The unit that a selector names (12 R259): the phase level names the open phase. -/
def unitOf (j : Job) (w : Word) : Option (Level × Nat) :=
  if field w 12 50 ≠ 0 ∨ (2 ≤ field w 62 2 ∧ field w 0 12 ≠ 0) then none
  else if field w 62 2 = 0 then some (.launch, field w 0 12)
  else if field w 62 2 = 1 then some (.graph, field w 0 12)
  else if field w 62 2 = 2 then some (.phase, j.phase) else some (.job, 0)

/-- A counter word (02 R40); a unit that is not live reads as DONE (12 R259). -/
def ctrWord (c : Option Counter) : Word :=
  match c with
  | none => 0x8000000000000000
  | some c => BitVec.ofNat 64 (c.count % 2 ^ 32 + (if c.err then 2 ^ 61 else 0) + (if c.canc then 2 ^ 62 else 0) +
      if c.done then 2 ^ 63 else 0)

/-- A launch made for a descriptor in a job (12 R258): COUNT, its graph, the launches it waits for; the graph counts it, and
a graph that was not live is opened in the open phase, which counts it. -/
def Launched (j j' : Job) (lid : Nat) (d : List Word) (e : Option (Nat × DqEnt)) : Prop :=
  let g := field (d.getD 0 0) 44 8
  (∃ l, j'.launch? lid = some l ∧ l.ctr = ⟨field (d.getD 0 0) 0 32, false, false, false⟩ ∧ l.graph = g ∧ l.entry = e ∧
    ∀ n, n ∈ l.waits ↔ Awaited j d n) ∧
  (∀ m, m ≠ lid → j'.launch? m = j.launch? m) ∧
  (∀ x, j.graph? g = some x → j'.graph? g = some { x with ctr := { x.ctr with count := x.ctr.count + 1 } }) ∧
  (j.graph? g = none → j'.graph? g = some ⟨⟨1, false, false, false⟩, j.phase⟩ ∧
    ∀ p, j.phase? j.phase = some p → j'.phase? j.phase = some { p with ctr := { p.ctr with count := p.ctr.count + 1 } })

end Sys2Proof.Claims

/-- 12 R258: LAUNCH checks its descriptor, waits for a free number, and makes the launch of the lowest one; its entry enters the
own deque at once where nothing is waited for, else it is held, until LAUNCH_ENTRY_PLACEMENT places it,
after the core's own pop (03 R52). 05 R93: it waits while
a FENCE.REL before it has stores to wait for. -/
def Obligations.Launches : Prop :=
  (∀ (a b : GReg) (l : La) (s s1 : State) (d : List Word) (j : Job),
    ((s.rg b).toNat % 8 ≠ 0 → exec (.launch a b l) s = .next (s.trap 0x04 (s.rg b))) ∧
    ((s.rg b).toNat % 8 = 0 → s.words (s.rg b) 8 = .ok (s1, d) → s1.job? s1.me.job = some j → s1.cur.core < 512 →
      (field (d.getD 0 0) 61 3 ≠ 0 ∨ field (d.getD 2 0) 52 12 ≠ 0 → exec (.launch a b l) s = .next (s1.trap 0x25 (s.rg b))) ∧
      (field (d.getD 0 0) 61 3 = 0 → field (d.getD 2 0) 52 12 = 0 →
        let dst := field (d.getD 0 0) 52 9
        (s1.inHoods s1.me.job dst = false → exec (.launch a b l) s = .next (s1.trap 0x0D (s.rg b))) ∧
        (s1.inHoods s1.me.job dst = true → s1.relStill = true → exec (.launch a b l) s = .next s1.block) ∧
        (s1.inHoods s1.me.job dst = true → s1.relStill = false →
          ((∀ n < 4096, j.launch? n ≠ none) → exec (.launch a b l) s = .next s1.block) ∧
          (∀ lid < 4096, j.launch? lid = none → (∀ n < lid, j.launch? n ≠ none) → field (d.getD 0 0) 0 32 ≠ 0 →
            (dst = s1.cur.core → (∀ n, ¬Awaited j d n) → s1.mine.deque.length < 256 →
              ∃ (t : State) (j' : Job), exec (.launch a b l) s = .next (t.writeLate a (BitVec.ofNat 64 lid) l) ∧ t.me = { s1.me with rel := none } ∧
                t.job? s1.me.job = some j' ∧ Launched j j' lid d none ∧ t.mem = s1.mem ∧
                t.mine.deque = s1.mine.deque ++ [entryOf s1 s1.cur.core lid d]) ∧
            (dst ≠ s1.cur.core ∨ (∃ n, Awaited j d n) →
              ∃ (t : State) (j' : Job), exec (.launch a b l) s = .next (t.writeLate a (BitVec.ofNat 64 lid) l) ∧ t.me = { s1.me with rel := none } ∧
                t.job? s1.me.job = some j' ∧ t.cores = s1.relDone.cores ∧ t.mem = s1.mem ∧
                Launched j j' lid d (some (dst, entryOf s1 s1.cur.core lid d)))) ∧
          ∀ lid < 4096, ∀ x, j.launch? lid = none → (∀ n < lid, j.launch? n ≠ none) → field (d.getD 0 0) 0 32 = 0 →
            j.graph? (field (d.getD 0 0) 44 8) = some x → x.ctr.done = false → 1 ≤ x.ctr.count →
            ∃ t : State, exec (.launch a b l) s = .next (t.writeLate a (BitVec.ofNat 64 lid) l) ∧ t.mem = s1.mem ∧
              t.counter? s1.me.job .launch lid = some ⟨0, true, false, false⟩ ∧
              t.counter? s1.me.job .graph (field (d.getD 0 0) 44 8) = some x.ctr)))) ∧
  ∀ (job : BitVec 16) (lid c : Nat) (s : State) (j : Job) (l : Launch) (e : DqEnt), s.job? job = some j → j.launch? lid = some l →
    l.entry = some (c, e) →
    (l.waits ≠ [] → exec (.launchEntryPlacement job lid) s = .next s) ∧
    (l.waits = [] → s.preempts = [] → (s.core c).fwd = none → s.shut c = false →
      BitVec.ofNat 16 (field (entryHdr e) 48 16) = s.coreJob c →
      (∀ x, s.counter? (s.coreJob c) .launch (field (entryHdr e) 12 12) = some x → x.canc = false) → (s.core c).deque.length < 256 →
      (s.opens c = false ∨ (∀ n < 16, (s.strand c n).st ≠ .free) ∨ (s.core c).deque = []) →
      ∃ t : State, exec (.launchEntryPlacement job lid) s = .next t ∧ (t.core c).deque = (s.core c).deque ++ [e] ∧
        ∃ j', t.job? job = some j' ∧ j'.launch? lid = some { l with entry := none } ∧ t.mem = s.mem)

/-- 12 R259, R260, 02 R41, R43, 05 R98: CNTSTAT reads a unit's counter word; JOIN gives it at once for a complete unit, else
parks; CANCEL goes to the counter; PHASEEND closes the open phase and opens the next, and marks what the strand sends from then
on as a fence of system scope does (05 R98); a selector or operand with a zero bit set traps with BADLNCH. The model's choices:
CNTSTAT and JOIN of a complete unit drop the core's stale RC lines (log 96), the boundary is the last phase that completed and
the log's records of that phase and of earlier ones go (log 26). -/
def Sys2Proof.Claims.Units : Prop :=
  ∀ (a b : GReg) (l : La) (s : State) (j : Job), s.job? s.me.job = some j → Quiet s →
    (16 ≤ s.cur.slot → exec (.join a b l) s = .next (s.trap 0x12 s.me.pc)) ∧
    (unitOf j (s.rg b) = none → exec (.cntstat a b l) s = .next (s.trap 0x25 s.me.pc) ∧
      exec (.cancel b) s = .next (s.trap 0x25 s.me.pc) ∧
      (s.cur.slot < 16 → exec (.join a b l) s = .next (s.trap 0x25 s.me.pc))) ∧
    (∀ lv n, unitOf j (s.rg b) = some (lv, n) →
      let c := j.counter? lv n
      let seen := if (∀ x, c = some x → x.done = true) then s.invalidateRc s.cur.core else s
      exec (.cntstat a b l) s = .next (seen.writeLate a (ctrWord c) l) ∧
      (s.cur.slot < 16 → (∀ x, c = some x → x.done = true) → exec (.join a b l) s = .next (seen.writeLate a (ctrWord c) l)) ∧
      (s.cur.slot < 16 → (∃ x, c = some x ∧ x.done = false) → exec (.join a b l) s = .next (withMe s { s.me with
        st := .parked (.join lv n a l) })) ∧
      (s.split = true → ∃ t, exec (.cancel b) s = .next t ∧ t.me = wentOn s.me (s.me.pc + 4) ∧
        t.ctrs = s.ctrs ++ [⟨s.me.job, lv, n, .cancel⟩] ∧ t.jobs = s.jobs ∧ t.mem = s.mem)) ∧
    (2 ≤ (s.rg b).toNat → exec (.phaseend b) s = .next (s.trap 0x25 s.me.pc)) ∧
    ((s.rg b).toNat < 2 → Calm s → ∀ p, j.phase? j.phase = some p → p.ctr.done = false → 1 ≤ p.ctr.count → 1 ≤ j.ctr.count →
      ∃ t : State, exec (.phaseend b) s = .next t ∧ ∃ j', t.job? s.me.job = some j' ∧ j'.phase = j.phase + 1 ∧
        j'.phase? (j.phase + 1) = some ⟨⟨1, false, false, false⟩, false, (s.rg b).getLsbD 0⟩ ∧ t.mem = s.mem ∧
        (2 ≤ p.ctr.count → t.me = { wentOn s.me (s.me.pc + 4) with rel := none, fence := some (widest s.me.fence .sys) } ∧ j'.ctr.count = j.ctr.count + 1 ∧
          j'.phase? j.phase = some { p with ctr := { p.ctr with count := p.ctr.count - 1 }, closed := true }) ∧
        (p.ctr.count = 1 → j'.phase? j.phase = none ∧ j'.ctr.count = j.ctr.count ∧ j'.boundary = j.phase ∧
          ∀ r ∈ j'.log, j.phase < r.phase))

/-- 02 R38, R40 to R42, 03 R49: what reaches a launch's counter: an increment, refused once a CANCEL has reached it; a
decrement, with ERR where the member ended so; the last one makes it DONE, its JOINs return and its graph counts one less; a
CANCEL sets CANC, discards its records that have not started and stops its strands; a second one has no effect. A graph takes
the ERR of its launch with the launch's decrement (log 25). -/
def Sys2Proof.Claims.CounterEvents : Prop :=
  ∀ (job : BitVec 16) (n : Nat) (s : State) (l : Launch), s.counter? job .launch n = some l.ctr →
    ((s.job? job).bind fun j => j.launch? n) = some l → l.ctr.done = false →
    (s.ctrs.contains ⟨job, .launch, n, .inc⟩ = true → ∃ t, exec (.completionCounterEvent job .launch n .inc) s = .next t ∧
      t.counter? job .launch n = some (if l.ctr.canc then l.ctr else { l.ctr with count := l.ctr.count + 1 }) ∧
      t.cores = s.cores ∧ t.mem = s.mem) ∧
    (∀ e, s.ctrs.contains ⟨job, .launch, n, if e then .decErr else .dec⟩ = true → 2 ≤ l.ctr.count →
      ∃ t, exec (.completionCounterEvent job .launch n (if e then .decErr else .dec)) s = .next t ∧
        t.counter? job .launch n = some { l.ctr with count := l.ctr.count - 1, err := l.ctr.err || e } ∧
        t.cores = s.cores ∧ t.mem = s.mem) ∧
    (∀ e g, s.ctrs.contains ⟨job, .launch, n, if e then .decErr else .dec⟩ = true → l.ctr.count = 1 →
      s.counter? job .graph l.graph = some g → g.done = false → 2 ≤ g.count →
      ∃ t, exec (.completionCounterEvent job .launch n (if e then .decErr else .dec)) s = .next t ∧
        t.counter? job .launch n = some { l.ctr with count := 0, err := l.ctr.err || e, done := true } ∧
        t.counter? job .graph l.graph = some { g with count := g.count - 1, err := g.err || l.ctr.err || e } ∧ t.mem = s.mem ∧
        ∀ c m d la, (s.strand c m).job = job → (s.strand c m).st = .parked (.join .launch n d la) → (s.strand c m).outs = [] →
          (t.strand c m).st = .ready ∧ (t.strand c m).pc = (s.strand c m).pc + 4 ∧
          (la = 0 → (t.strand c m).g d = ctrWord (some { l.ctr with count := 0, err := l.ctr.err || e, done := true }))) ∧
    (s.ctrs.contains ⟨job, .launch, n, .cancel⟩ = true → l.ctr.canc = true →
      exec (.completionCounterEvent job .launch n .cancel) s = .next { s with ctrs := s.ctrs.erase ⟨job, .launch, n, .cancel⟩ }) ∧
    (s.ctrs.contains ⟨job, .launch, n, .cancel⟩ = true → l.ctr.canc = false → s.split = true →
      ∃ t, exec (.completionCounterEvent job .launch n .cancel) s = .next t ∧ t.mem = s.mem ∧
        (∀ k, t.counter? job .launch n = some k → k.canc = true) ∧
        (∀ c m, c < 512 → m < 19 → (s.strand c m).st ≠ .free → (s.strand c m).job = job → (s.strand c m).lid.toNat = n →
          s.moves = [] → (t.strand c m).st = .free) ∧
        ∀ c, ∀ e ∈ (t.core c).deque, ¬(field (entryHdr e) 48 16 = job.toNat ∧ field (entryHdr e) 12 12 = n))

/-- Joins, cancels and phases, and what reaches a completion counter. Choices of the model that it states: log 25, 26, 96. -/
def Obligations.UnitsAndCounters : Prop :=
  Claims.Units ∧ Claims.CounterEvents

/-! ## Pages, windows and the must-save set -/

namespace Sys2Proof.Claims

/-- The cores that a scope covers, seen from a core (05 R92). -/
def inScope (sc : Scope) (c d : Nat) : Bool :=
  match sc with
  | .str | .cor => c = d
  | .clu => d < 512 && clusterOf c = clusterOf d
  | .twr => d < 512 && c / 128 = d / 128
  | _ => d < 512

/-- The strand in a slot goes on at the next instruction. -/
def Resumed (s t : State) (c n : Nat) : Prop :=
  (t.strand c n).st = .ready ∧ (t.strand c n).pc = (s.strand c n).pc + 4 ∧ ∀ d, (t.strand c n).g d = (s.strand c n).g d

/-- No core holds an L1 line. -/
def NoLines (s : State) : Prop := (s.cores.all fun x => decide (x.2.lines = [])) = true

/-- What has left the part once something more is sent: nothing leaves after detection of a supply loss (23 R388). -/
def sentWith (s : State) (x : Sent) : List Sent := if s.brim.st = .idle then s.sent ++ [x] else s.sent

/-- A sealed copy that a peer holds, as device, job and granule, of a job's span. -/
def InSpan (job : BitVec 16) (lo hi : Nat) (x : Nat × BitVec 16 × Nat) : Prop :=
  x.2.1 = job ∧ lo ≤ x.2.2 * 2 ^ 16 ∧ x.2.2 * 2 ^ 16 < hi

/-- A grant descriptor as 16 R292 states. -/
def GoodGrant (w : List Word) : Prop :=
  field (w.getD 0 0) 48 16 = 0 ∧ field (w.getD 1 0) 40 24 = 0 ∧ field (w.getD 2 0) 31 33 = 0 ∧ w.getD 3 0 = 0 ∧
  field (w.getD 1 0) 0 40 ≠ 0 ∧ field (w.getD 1 0) 0 40 % 2 ^ 16 = 0 ∧ field (w.getD 0 0) 0 48 % 2 ^ 16 = 0 ∧
  field (w.getD 0 0) 0 48 + field (w.getD 1 0) 0 40 ≤ 2 ^ 48

/-- The span of an XLINV (12 R262). -/
def spanOf (b : Word) (code : Nat) : Nat × Nat :=
  if code = 3 then (0, 2 ^ 48)
  else
    let z := if code = 0 then 2 ^ 16 else if code = 1 then 2 ^ 21 else 2 ^ 29
    (field b 0 48 / z * z, field b 0 48 / z * z + z)

end Sys2Proof.Claims

/-- 12 R261, 18 R314, 23 R389, R393: JRNL reads a journal entry; MSDECL declares the core's must-save set, or is refused; MSDONE
ends the PFAIL handler after a release, which marks what the strand sends (05 R98, log 96), and is nothing elsewhere. -/
def Obligations.JournalAndMustSave : Prop :=
  ∀ (a b c : GReg) (l : La) (s : State), Quiet s →
    (64 ≤ (s.rg b).toNat → exec (.jrnl a b l) s = .next (s.trap 0x05 (s.rg b))) ∧
    ((s.rg b).toNat < 64 → ∃ v, exec (.jrnl a b l) s = .next (s.writeLate a v l) ∧
      let e := s.mine.jent (s.rg b).toNat
      (e.v = false → e.fail = false → v = 0) ∧
      ((e.v = true ∨ e.fail = true) → e.slot < 32 → e.pc.toNat < 2 ^ 48 → e.pc.toNat % 4 = 0 →
        v.toNat = e.pc.toNat + 2 ^ 49 * e.slot + 2 ^ 54 * e.sz.toNat + (if e.fail then 2 ^ 56 * e.cause.toNat + 2 ^ 62 else 0) +
          if e.v then 2 ^ 63 else 0)) ∧
    (let lo := (s.rg b).toNat
     let n := (s.rg c).toNat
     (lo % 64 ≠ 0 ∨ n % 64 ≠ 0 ∨ 2 ^ 48 ≤ lo ∨ 2 ^ 48 < lo + n ∨ 16 ≤ s.cur.slot ∨ s.me.intrap = true ∨ s.brim.st ≠ .idle ∨
         96 * 2 ^ 20 < s.brim.budget - s.mine.mslen.toNat + n ∨
         (n ≠ 0 ∧ ∃ g, lo / 2 ^ 16 ≤ g ∧ g * 2 ^ 16 < lo + n ∧ ∀ pa ty shut ver pte tag,
           (s.translate s.agent (g * 2 ^ 16) .load).2 ≠ .ok pa ty shut ver pte tag) →
       exec (.msdecl a b c l) s = .next (s.writeLate a 1 l)) ∧
     (lo % 64 = 0 → n % 64 = 0 → lo < 2 ^ 48 → lo + n ≤ 2 ^ 48 → s.cur.slot < 16 → s.me.intrap = false → s.brim.st = .idle →
       s.brim.budget - s.mine.mslen.toNat + n ≤ 96 * 2 ^ 20 →
       (n ≠ 0 → ∀ g, lo / 2 ^ 16 ≤ g → g * 2 ^ 16 < lo + n → ∃ pa ty shut ver pte tag,
         (s.translate s.agent (g * 2 ^ 16) .load).2 = .ok pa ty shut ver pte tag) →
       ∃ t : State, exec (.msdecl a b c l) s = .next (t.writeLate a 0 l) ∧ t.me = s.me ∧ t.mem = s.mem ∧ t.mine.msbase = s.rg b ∧
         t.mine.mslen.toNat = n ∧ t.mine.declarer = (if n = 0 then none else some s.me.strid) ∧
         t.brim = { s.brim with budget := s.brim.budget - s.mine.mslen.toNat + n })) ∧
    (s.me.pfail = false → exec .msdone s = .next s.advance) ∧
    (s.me.pfail = true → Calm s → ∃ t, exec .msdone s = .next t ∧ t.mem = s.mem ∧
      t.me = { wentOn s.me (s.me.pc + 4) with
        st := .stopped, rel := none, fence := some (widest s.me.fence .pkg) })

/-- 12 R262, R263, 10 R197, 16 R296, 20 R347, R349, R351, 04 R70, R82, R83: XLINV, ATTRSET and SEAL check their operands and
wait; an XLINV tells the peers that hold sealed copies in its span (16 R296) and awaits them, and a peer's own is
acknowledged; when each is complete the job's translations in the span and the lines held through them are gone, the frame
has its new type and no copy of it remains, the page's entry is sealed with the next version and nothing of it is written,
and peers see the page sealed until an XLINV after its reopening; the lines of a FLUSH of a physical range are gone; and the
strand goes on. ATTRSET changes the table whose base the core had when it was issued. XLINV and SEAL mark what the strand
sends from then on (05 R98, log 96). The model's choices: the FADDR of these traps is the operand's value (log 37); bits
63:48 of XLINV's base do not count (log 126). -/
def Obligations.PageChanges : Prop :=
  (∀ (b c : GReg) (s : State), Quiet s → s.me.sup = true →
    (2 ^ 18 ≤ (s.rg c).toNat → exec (.xlinv b c) s = .next (s.trap 0x05 (s.rg c))) ∧
    ((s.rg c).toNat < 2 ^ 18 → Calm s → ∃ t, exec (.xlinv b c) s = .next t ∧ t.mem = s.mem ∧
      t.me = { s.me with
        rel := none, fence := some (widest s.me.fence .sys),
        st := .waiting (.xlinv ((s.rg c).setWidth 16) (spanOf (s.rg b) (field (s.rg c) 16 2)).1
          (spanOf (s.rg b) (field (s.rg c) 16 2)).2) }) ∧
    (4 ≤ (s.rg c).toNat ∨ ¬(field (s.rg b) 48 16 = 0xE000 ∧ field (s.rg b) 0 16 = 0 ∧ field (s.rg b) 0 48 < 0x6000000000) →
      exec (.attrset b c) s = .next (s.trap 0x05 (s.rg b))) ∧
    (∀ ty : PageTy, (s.rg c).toNat = ty.code → field (s.rg b) 48 16 = 0xE000 → field (s.rg b) 0 16 = 0 →
      field (s.rg b) 0 48 < 0x6000000000 → exec (.attrset b c) s = .next (withMe s { s.me with
        st := .waiting (.attrset s.mine.fatbase (field (s.rg b) 16 32) ty) }))) ∧
  (∀ (b : GReg) (s : State),
    (2 ^ 61 ≤ (s.rg b).toNat → (s.rg b).toNat < 2 ^ 63 → exec (.sealPage b) s = .next (s.trap 0x05 (s.rg b))) ∧
    ∀ s1 pa ty shut ver pte tag, (s.rg b).toNat < 2 ^ 48 → s.translate s.agent (s.rg b).toNat .seal = (s1, .ok pa ty shut ver pte tag) →
      (ty ≠ .wo → exec (.sealPage b) s = .next (s1.trap 0x09 (s.rg b))) ∧
      (ty = .wo → shut = true → exec (.sealPage b) s = .next s1.advance) ∧
      ∀ e p, ty = .wo → shut = false → s1.walkJob s1.mine.jtbase s1.me.job (s.rg b).toNat = .ok (e, 0, p) → Calm s1 →
        ∃ t, exec (.sealPage b) s = .next t ∧ t.mem = s1.mem ∧
          t.me = { s1.me with
            rel := none, fence := some (widest s1.me.fence .sys),
            st := .waiting (.sealing (s.rg b) p (field e 16 32 * 2 ^ 16) (field e 16 32 * 2 ^ 16 + 2 ^ 16)) }) ∧
  (∀ (dev idx off : Nat) (s : State), exec (.peerXlinv dev idx off) s = .next (if s.brim.st = .idle ∧ s.milliner.hot = false then
    { s with sent := s.sent ++ [.dropped dev idx off] } else s)) ∧
  ∀ (c n : Nat) (s : State), (s.strand c n).outs = [] →
    (∀ job lo hi, (s.strand c n).st = .waiting (.xlinv job lo hi) → (∃ x ∈ s.acks ++ s.sealedAt, InSpan job lo hi x) →
      ∃ t, exec (.xlinvComplete c n) s = .next t ∧ t.cores = s.cores ∧ t.xlates = s.xlates ∧ t.mem = s.mem ∧
        (∀ x ∈ t.sealedAt, ¬InSpan job lo hi x) ∧
        ∀ x ∈ s.sealedAt, InSpan job lo hi x → x ∈ t.acks ∧ (s.brim.st = .idle → .dropPage x.1 x.2.1 x.2.2 ∈ t.sent)) ∧
    (∀ job lo hi, (s.strand c n).st = .waiting (.xlinv job lo hi) → (∀ x ∈ s.acks ++ s.sealedAt, ¬InSpan job lo hi x) →
      ∃ t, exec (.xlinvComplete c n) s = .next t ∧ Resumed s t c n ∧
      (∀ x ∈ t.xlates, ¬(x.job = job ∧ lo ≤ x.gran * 2 ^ 16 ∧ x.gran * 2 ^ 16 < hi)) ∧
      (∀ x ∈ s.xlates, x.job = job → lo ≤ x.gran * 2 ^ 16 → x.gran * 2 ^ 16 < hi → x.tag ∈ t.dropped) ∧
      (∀ d, ∀ y ∈ (t.core d).lines, ¬(y.job = job ∧ lo ≤ y.va ∧ y.va < hi)) ∧
      ∀ x ∈ t.seals, x.job = job → lo ≤ x.va → x.va < hi → s.sealHolds x = true) ∧
    (∀ fat f ty, (s.strand c n).st = .waiting (.attrset fat f ty) → f < 0x600000 → ∃ t, exec (.attrsetComplete c n) s = .next t ∧
      (t.strand c n).st = .ready ∧ (t.strand c n).pc = (s.strand c n).pc + 4 ∧
      t.mem.read (field fat 0 48 + 8 * (f / 32)) 8 / 4 ^ (f % 32) % 4 = ty.code ∧
      (∀ d, ∀ y ∈ (t.core d).lines, y.frame ≠ f * 2 ^ 16) ∧
      (NoLines s → ∀ a, (a < field fat 0 48 + 8 * (f / 32) ∨ field fat 0 48 + 8 * (f / 32) + 8 ≤ a) →
        t.mem.get a = s.mem.get a)) ∧
    (∀ va p lo hi, (s.strand c n).st = .waiting (.sealing va p lo hi) → s.storesTo lo hi = false → NoLines s →
      (BitVec.ofNat 64 (s.mem.read p 8)).getLsbD 6 = false →
      ∃ t, exec (.sealComplete c n) s = .next t ∧ (t.strand c n).st = .ready ∧ (t.strand c n).pc = (s.strand c n).pc + 4 ∧
        t.mem.read p 8 = s.mem.read p 8 % 2 ^ 48 + 2 ^ 6 +
          2 ^ 48 * (if s.mem.read p 8 / 2 ^ 48 = 0xFFFF then 1 else s.mem.read p 8 / 2 ^ 48 + 1) ∧
        (∀ a, a < p ∨ p + 8 ≤ a → t.mem.get a = s.mem.get a) ∧
        (∀ x, lo ≤ 128 * x → 128 * x < hi → t.written.look x 0 = 0) ∧
        ∃ y ∈ t.seals, y.lo = lo ∧ y.hi = hi ∧ y.pte = p ∧ y.job = (s.strand c n).job) ∧
    ∀ lo hi sc, (s.strand c n).st = .waiting (.flush lo hi true sc) →
      ((s.core c).journal.all fun x => !x.2.v || decide (x.2.slot ≠ n)) = true →
      ∃ t, exec (.flushComplete c n) s = .next t ∧ Resumed s t c n ∧
        ∀ d, inScope sc c d = true → ∀ y ∈ (t.core d).lines, ¬(lo ≤ y.frame + y.va % 2 ^ 16 ∧ y.frame + y.va % 2 ^ 16 < hi)

/-- 16 R292, R293: WINGRANT checks its descriptor, gives all ones where no index of 0 to 479 is free, else records the grant
under the lowest, tells the grantee and waits; the index is returned when the grantee has acknowledged; WINREV marks a
live window revoked, tells the grantee and waits; the index is then free. -/
def Obligations.WindowGrants : Prop :=
  (∀ (a b : GReg) (l : La) (s s1 : State) (ws : List Word) (j : Job),
    ((s.rg b).toNat % 8 ≠ 0 → exec (.wingrant a b l) s = .next (s.trap 0x04 (s.rg b))) ∧
    ((s.rg b).toNat % 8 = 0 → s.words (s.rg b) 4 = .ok (s1, ws) → s1.job? s1.me.job = some j →
      (¬GoodGrant ws → exec (.wingrant a b l) s = .next (s1.trap 0x26 (s.rg b))) ∧
      (GoodGrant ws → (∀ i < 480, i ∈ j.grants.map Prod.fst) →
        exec (.wingrant a b l) s = .next (s1.writeLate a 0xFFFFFFFFFFFFFFFF l)) ∧
      (GoodGrant ws → ∀ i < 480, i ∉ j.grants.map Prod.fst → (∀ k < i, k ∈ j.grants.map Prod.fst) →
        ∃ t, exec (.wingrant a b l) s = .next t ∧ t.me = { s1.me with st := .waiting (.wingrant i a l) } ∧ t.mem = s1.mem ∧
          let w := ws.getD 2 0
          t.grant? s1.me.job i = some ⟨field (ws.getD 0 0) 0 48, field (ws.getD 1 0) 0 40, field w 0 12,
            BitVec.ofNat 16 (field w 12 16), w.getLsbD 28, w.getLsbD 29, w.getLsbD 30, false, false⟩ ∧
          t.sent = sentWith s1 (.grant (field w 0 12) (BitVec.ofNat 16 (field w 12 16)) i (field (ws.getD 1 0) 0 40)
            (w.getLsbD 28) (w.getLsbD 29) (w.getLsbD 30))))) ∧
  (∀ (b : GReg) (s : State), Quiet s →
    (2 ^ 12 ≤ (s.rg b).toNat → exec (.winrev b) s = .next (s.trap 0x05 (s.rg b))) ∧
    ((s.rg b).toNat < 2 ^ 12 → s.grant? s.me.job (s.rg b).toNat = none → exec (.winrev b) s = .next s.advance) ∧
    (∀ g, (s.rg b).toNat < 2 ^ 12 → s.grant? s.me.job (s.rg b).toNat = some g → g.revoked = false → ∃ t,
      exec (.winrev b) s = .next t ∧ t.grant? s.me.job (s.rg b).toNat = some { g with revoked := true } ∧
      t.sent = sentWith s (.revoke g.dev g.gjob (s.rg b).toNat) ∧ t.mem = s.mem ∧
      t.me = { s.me with st := .waiting (.winrev (s.rg b).toNat) })) ∧
  ∀ (job : BitVec 16) (i : Nat) (s : State) (g : Grant), s.grant? job i = some g → s.deaf = false →
    (g.acked = false → ∃ t, exec (.wingrantAck job i) s = .next t ∧ t.grant? job i = some { g with acked := true } ∧
      ∀ c n d l, (s.strand c n).st = .waiting (.wingrant i d l) → (s.strand c n).job = job → (s.strand c n).outs = [] →
        (t.strand c n).st = .ready ∧ (t.strand c n).pc = (s.strand c n).pc + 4 ∧ (l = 0 → (t.strand c n).g d = BitVec.ofNat 64 i)) ∧
    (g.revoked = true → ∃ t, exec (.winrevComplete job i) s = .next t ∧ t.grant? job i = none ∧
      ∀ c n, (s.strand c n).st = .waiting (.winrev i) → (s.strand c n).job = job → (s.strand c n).outs = [] → Resumed s t c n)

/-! ## The command front end -/

namespace Sys2Proof.Claims

/-- Word `i` of a payload, least significant byte first (16 R411). -/
def pword (p : List Byte) (i : Nat) : Word := BitVec.ofNat 64 (number (fun j => p.getD (8 * i + j) 0) 8)

/-- Bytes that a record takes in the batt log (16 R291). -/
def recordBytes (p : List Byte) : Nat := 16 + (p.length + 15) / 16 * 16

/-- A supervisor physical address in the form of 04 R412. -/
def PhysForm (w : Word) : Prop := field w 48 16 = 0xE000

/-- The front end serves a command of the job: the part is powered, the command comes with a key set of the job, it is the one
expected next and nothing is held; its record fits in the log. -/
def InTurn (s : State) (c : Cmd) (j : Job) : Prop :=
  s.brim.st = .idle ∧ s.milliner.hot = false ∧ s.job? c.job = some j ∧ (c.key = j.key ∨ c.key = j.creator) ∧
  c.seq = j.nextSeq ∧ j.pending = [] ∧ (∀ x ∈ j.dones, x.1 < c.seq) ∧ (∀ r ∈ j.log, r.seq < c.seq) ∧
  (j.log.map fun r => recordBytes r.payload).sum + recordBytes c.payload ≤ j.loglen

/-- An address of a job's log area. -/
def InLog (j : Job) (a : Nat) : Prop := j.logbase ≤ a ∧ a < j.logbase + j.loglen

/-- Memory is as it was but for the job's log area, in which commands are recorded (16 R291). -/
def LogOnly (s t : State) (j : Job) : Prop := ∀ a, ¬InLog j a → t.mem.get a = s.mem.get a

/-- Nothing watches memory: no L1 line is held, no wait table has an entry. -/
def Unwatched (s : State) : Prop := NoLines s ∧ s.waits = []

/-- The state in which a logged command executes: its record stands in the log, with no status yet (16 R291). -/
def logged (s : State) (code : BitVec 8) (c : Cmd) (j : Job) : State :=
  s.logAppend c.job ⟨code, c.job, c.seq, c.payload, 0xFF, j.phase, c.port, decide (c.key = j.creator)⟩

/-- Byte `k` of a command's record as 16 R291 lays it out, with a status. -/
def recordByte (code : BitVec 8) (c : Cmd) (status k : Nat) : Byte :=
  if k < 8 then BitVec.ofNat 8 ((code.toNat + 2 ^ 16 * c.job.toNat + 2 ^ 32 * (c.seq % 2 ^ 32)) / 256 ^ k)
  else if k < 12 then BitVec.ofNat 8 (c.payload.length % 2 ^ 32 / 256 ^ (k - 8))
  else if k = 12 then BitVec.ofNat 8 status
  else if k < 16 then 0 else c.payload.getD (k - 16) 0

/-- A completion has left, after whatever else left (16 R287). -/
def Done (s t : State) (c : Cmd) (status : Nat) (data : List Byte) : Prop :=
  ∃ xs, t.sent = s.sent ++ xs ++ [.completion c.port c.job c.seq (BitVec.ofNat 8 status) data]

/-- A logged command has been executed: its number is consumed, its record carries its status, its completion has left. -/
def Executed (s t : State) (code : BitVec 8) (c : Cmd) (status : Nat) (data : List Byte) : Prop :=
  Done s t c status data ∧ ∃ j, t.job? c.job = some j ∧ j.nextSeq = c.seq + 1 ∧
    ∃ r ∈ j.log, r.code = code ∧ r.seq = c.seq ∧ r.payload = c.payload ∧ r.status = BitVec.ofNat 8 status

/-- The commands of the set with their codes (16 R288). -/
def commandOf (c : Cmd) : Instr → Option (BitVec 8)
  | .hoodset d => if d = c then some 0x02 else none
  | .mapCmd d => if d = c then some 0x03 else none
  | .attrCmd d => if d = c then some 0x04 else none
  | .loadCmd d => if d = c then some 0x05 else none
  | .readCmd d => if d = c then some 0x06 else none
  | .launchCmd d => if d = c then some 0x07 else none
  | .hwgrant d => if d = c then some 0x08 else none
  | .hwrevoke d => if d = c then some 0x09 else none
  | .sealCmd d => if d = c then some 0x0A else none
  | .cntreadCounter d | .cntreadRestartSummary d | .cntreadPort d | .cntreadCore d | .cntreadCorrections d =>
    if d = c then some 0x0B else none
  | .logctlQuery d | .logctlReplay d => if d = c then some 0x0C else none
  | .attest d => if d = c then some 0x0D else none
  | .collset d => if d = c then some 0x0E else none
  | .jobend d => if d = c then some 0x0F else none
  | .cregset d => if d = c then some 0x10 else none
  | _ => none

/-- A JOBNEW payload as 16 R411 states. -/
def GoodJobnew (p : List Byte) : Prop :=
  let n := (pword p 1).toNat
  let k := (pword p 4).toNat
  PhysForm (pword p 0) ∧ field (pword p 0) 0 16 = 0 ∧ n ≠ 0 ∧ n % 2 ^ 16 = 0 ∧ field (pword p 0) 0 48 + n ≤ 0x6000000000 ∧
  PhysForm (pword p 2) ∧ PhysForm (pword p 3) ∧ k < 2 ^ 16 ∧ p.length = 40 + (k + 7) / 8 * 8 ∧ ∀ x ∈ p.drop (40 + k), x = 0

/-- The register block of 16 R289 in a payload from word 1, as the job may give it. -/
def GoodBlock (j : Job) (p : List Byte) : Prop :=
  p.length = 56 ∧ PhysForm (pword p 1) ∧ pword p 3 = j.jtbase ∧ pword p 4 = j.fatbase ∧ pword p 6 = 0

/-- A core holds the block. -/
def HasBlock (k : Core) (p : List Byte) : Prop :=
  k.tvec = pword p 1 &&& ~~~3#64 ∧ k.htbase = pword p 2 &&& ~~~0x7000#64 ∧ k.jtbase = pword p 3 ∧ k.fatbase = pword p 4 ∧
  k.sscr = pword p 5

/-- A core of the rectangle that a HOODSET word describes. -/
def inRect (w : Word) (c : Nat) : Prop :=
  c < 512 ∧ c / 128 = field w 0 2 ∧ field w 2 3 ≤ c / 16 % 8 ∧ c / 16 % 8 < field w 2 3 + 4 * (field w 9 1 + 1) ∧
  field w 5 4 ≤ c % 16 ∧ c % 16 < field w 5 4 + 4 * (field w 10 2 + 1)

/-- A HOODSET word that describes whole clusters of one die. -/
def GoodRect (w : Word) : Prop :=
  field w 12 52 = 0 ∧ field w 2 3 % 4 = 0 ∧ field w 5 4 % 4 = 0 ∧ field w 2 3 + 4 * (field w 9 1 + 1) ≤ 8 ∧
  field w 5 4 + 4 * (field w 10 2 + 1) ≤ 16

/-- A COLLSET payload as 16 R297 and R411 state, with the barrier in the job's hoods. -/
def GoodCollset (s : State) (c : Cmd) : Prop :=
  let p := c.payload
  let n := field (pword p 0) 5 13
  p.length = 32 + 8 * n ∧ field (pword p 0) 30 34 = 0 ∧ 1 ≤ n ∧ n ≤ 4096 ∧ field (pword p 0) 18 12 < n ∧
  field (pword p 1) 26 38 = 0 ∧ field (pword p 1) 0 2 ≠ 3 ∧ 1 ≤ field (pword p 1) 5 21 ∧ field (pword p 1) 5 21 ≤ 2 ^ 20 ∧
  field (pword p 2) 48 16 = 0 ∧ field (pword p 3) 14 50 = 0 ∧ s.inHoods c.job (field (pword p 3) 0 9) = true ∧
  ∀ i < n, field (pword p (4 + i)) 12 52 = 0

end Sys2Proof.Claims

/-- 16 R285, R287, R288, R290, R291: which command is executed: NOJOB for no job; an unauthenticated one is counted and dropped;
a repeated one's recorded completion is sent again; SEQ for a number out of reach; one ahead of its turn is held; LOGFULL
where its record does not fit; BADCMD for a code of no command. A logged command's record stands in the log area, back to back
with those before it, round the area's end (log entry 75 for the place), with its status. -/
def Sys2Proof.Claims.CommandOrder : Prop :=
  ∀ (i : Instr) (code : BitVec 8) (c : Cmd) (s : State), commandOf c i = some code → s.brim.st = .idle → s.milliner.hot = false →
    (s.job? c.job = none → exec i s = .next (s.send (.completion c.port c.job c.seq 6 []))) ∧
    ∀ j, s.job? c.job = some j →
      (c.key ≠ j.key → c.key ≠ j.creator → ∃ t, exec i s = .next t ∧ t.sent = s.sent ∧ t.jobs = s.jobs ∧
        (t.port c.port.val).authFail = (s.port c.port.val).authFail + 1) ∧
      (c.key = j.key ∨ c.key = j.creator →
        (∀ q st d, j.dones.find? (fun x => decide (x.1 = c.seq)) = some (q, st, d) →
          exec i s = .next (s.send (.completion c.port c.job c.seq st d))) ∧
        ((∀ x ∈ j.dones, x.1 ≠ c.seq) →
          (c.seq < j.nextSeq ∨ j.nextSeq + 64 < c.seq → exec i s = .next (s.send (.completion c.port c.job c.seq 5 []))) ∧
          (j.pending = [] → j.nextSeq < c.seq → c.seq ≤ j.nextSeq + 64 → ∃ t j', exec i s = .next t ∧ t.job? c.job = some j' ∧
            j'.pending = [(code, c)] ∧ j'.nextSeq = j.nextSeq ∧ j'.log = j.log ∧ t.sent = s.sent ∧ t.mem = s.mem) ∧
          (c.seq = j.nextSeq → j.pending = [] → (∀ r ∈ j.log, r.seq ≠ c.seq) → code ≠ 0x0C → code ≠ 0x0D →
            j.loglen < (j.log.map fun r => recordBytes r.payload).sum + recordBytes c.payload →
            ∃ t j', exec i s = .next t ∧ t.job? c.job = some j' ∧ j'.nextSeq = j.nextSeq ∧ j'.log = j.log ∧ j'.pending = [] ∧
              t.sent = s.sent ++ [.completion c.port c.job c.seq 4 []] ∧ t.mem = s.mem ∧ t.cores = s.cores) ∧
          (∀ x : BitVec 8, 0x10 < x.toNat → InTurn s c j → ∃ t, exec (.badcmd x c) s = .next t ∧ Executed s t x c 1 [] ∧
            (Unwatched s → t.cores = s.cores) ∧ LogOnly s t j ∧ ∀ k < recordBytes c.payload,
              t.mem.get (j.logbase + (j.logstart + (j.log.map fun r => recordBytes r.payload).sum + k) % j.loglen) =
                recordByte x c 1 k)))

/-- 16 R288, R289, R411: JOBNEW makes the lowest free job; HOODSET makes a hood whose cores start from reset with the block;
CREGSET writes the block into a hood's cores; JOBEND fences the job's hoods and ends when they are gone. -/
def Sys2Proof.Claims.JobForms : Prop :=
  (∀ (c : Cmd) (s : State), s.brim.st = .idle → s.milliner.hot = false →
    (¬GoodJobnew c.payload → ∃ t, exec (.jobnew c) s = .next t ∧ t.jobs = s.jobs ∧
      t.sent = s.sent ++ [.completion c.port 0 c.seq 2 []]) ∧
    (GoodJobnew c.payload → 24 * 2 ^ 20 < (s.jobs.map fun x => x.2.loglen).sum + (pword c.payload 1).toNat →
      ∃ t, exec (.jobnew c) s = .next t ∧ t.jobs = s.jobs ∧ t.sent = s.sent ++ [.completion c.port 0 c.seq 3 []]) ∧
    (∀ id, GoodJobnew c.payload → (s.jobs.map fun x => x.2.loglen).sum + (pword c.payload 1).toNat ≤ 24 * 2 ^ 20 → 1 ≤ id →
      id < 65536 → s.job? (BitVec.ofNat 16 id) = none → (∀ k, 1 ≤ k → k < id → s.job? (BitVec.ofNat 16 k) ≠ none) →
      ∃ t, exec (.jobnew c) s = .next t ∧ ∃ j, t.job? (BitVec.ofNat 16 id) = some j ∧ t.cores = s.cores ∧ t.mem = s.mem ∧
        t.sent = s.sent ++ [.completion c.port (BitVec.ofNat 16 id) c.seq 0 (leBytes 8 id)] ∧
        j.key = (c.payload.drop 40).take (pword c.payload 4).toNat ∧ j.creator = c.key ∧ j.logbase = field (pword c.payload 0) 0 48 ∧
        j.loglen = (pword c.payload 1).toNat ∧ j.jtbase = pword c.payload 2 ∧ j.fatbase = pword c.payload 3 ∧ j.log = [] ∧
        j.nextSeq = 1 ∧ j.phase = 1 ∧ j.phase? 1 = some ⟨⟨1, false, false, false⟩, false, true⟩ ∧
        j.ctr = ⟨1, false, false, false⟩ ∧ j.grants = [] ∧ j.launches = [])) ∧
  ∀ (c : Cmd) (s : State) (j : Job), InTurn s c j →
    let p := c.payload
    let w := pword p 0
    (¬GoodBlock j p ∨ ¬GoodRect w → ∃ t, exec (.hoodset c) s = .next t ∧ Executed s t 0x02 c 2 [] ∧ t.hoods = s.hoods) ∧
    (GoodBlock j p → GoodRect w → (∃ x < 512, inRect w x ∧ s.hoodOf x ≠ none) →
      ∃ t, exec (.hoodset c) s = .next t ∧ Executed s t 0x02 c 3 [] ∧ t.hoods = s.hoods) ∧
    (GoodBlock j p → GoodRect w → (∀ x < 512, inRect w x → s.hoodOf x = none) →
      ∃ t, exec (.hoodset c) s = .next t ∧ Executed s t 0x02 c 0 [] ∧ ∃ h, t.hoods = s.hoods ++ [h] ∧ h.job = c.job ∧ h.st = .active ∧
        (∀ x, h.holds x = true ↔ inRect w x) ∧ (∀ x < 512, inRect w x → HasBlock (t.core x) p ∧ (t.core x).strands = [] ∧
          (t.core x).scratch = [] ∧ (t.core x).deque = []) ∧ (Unwatched s → ∀ x, ¬inRect w x → t.core x = s.core x)) ∧
    ((∀ h ∈ s.hoods, ¬(h.job = c.job ∧ h.leader = w.toNat)) ∨ ¬GoodBlock j p →
      ∃ t, exec (.cregset c) s = .next t ∧ Executed s t 0x10 c 2 [] ∧ (Unwatched s → t.cores = s.cores)) ∧
    (∀ h, s.hoods.find? (fun h => decide (h.job = c.job) && decide (h.leader = w.toNat)) = some h → GoodBlock j p →
      ∃ t, exec (.cregset c) s = .next t ∧ Executed s t 0x10 c 0 [] ∧ (∀ x, h.holds x = true → HasBlock (t.core x) p) ∧
        (Unwatched s → ∀ x, h.holds x = false → t.core x = s.core x)) ∧
    (p ≠ [] → ∃ t, exec (.jobend c) s = .next t ∧ Executed s t 0x0F c 2 [] ∧ (Unwatched s → t.cores = s.cores)) ∧
    (p = [] → (s.hoods.all fun h => decide (h.job ≠ c.job)) = true → ∃ t, exec (.jobend c) s = .next t ∧ t.job? c.job = none ∧
      Done s t c 0 [] ∧ ∀ x, (s.wale x).job = c.job → (t.wale x).st = .free) ∧
    (∀ h, p = [] → s.hoods = [h] → h.job = c.job → h.st = .active → j.ctr.done = false → ∃ t j', exec (.jobend c) s = .next t ∧
      t.job? c.job = some j' ∧ j'.ctr.canc = true ∧ (∃ h', t.hoods = [h'] ∧ h'.st = .fenced ∧ h'.ending = true) ∧
      ∀ d, .completion c.port c.job c.seq 0 d ∉ t.sent.drop s.sent.length)

/-- Commands: their order, and those that make and end jobs and hoods. Choices of the model that it states: log 75. -/
def Obligations.JobCommands : Prop :=
  Claims.CommandOrder ∧ Claims.JobForms

/-- 16 R288, R291, R294, R297, R411, 17 R307, 22 R385: LAUNCH, HWGRANT, HWREVOKE, COLLSET, ATTEST, CNTREAD and LOGCTL, each
with its payload's checks, its effect and its completion data; ATTEST and LOGCTL are not logged. The model's choices: a
replay's completions carry the numbers of the replayed commands and LOGCTL's own comes last (log 74), a HWREVOKE waits,
undone, while an access through its window is in flight (log 76), and HWGRANT of no bytes is a BADARG (log 94). -/
def Obligations.ServiceCommands : Prop :=
  ∀ (c : Cmd) (s : State) (j : Job), InTurn s c j →
    let p := c.payload
    let w := pword p 0
    let d := (List.range 8).map (pword p)
    (∀ lid < 4096, p.length = 64 → field w 61 3 = 0 → field (pword p 2) 52 12 = 0 → field w 0 32 ≠ 0 →
      s.inHoods c.job (field w 52 9) = true → j.launch? lid = none → (∀ n < lid, j.launch? n ≠ none) →
      ∃ t j', exec (.launchCmd c) s = .next t ∧ Executed s t 0x07 c 0 (leBytes 8 lid) ∧ t.job? c.job = some j' ∧
        (Unwatched s → t.cores = s.cores) ∧ ∃ e, Launched j j' lid d (some (field w 52 9, e))) ∧
    (p.length ≠ 64 → ∃ t, exec (.launchCmd c) s = .next t ∧ Executed s t 0x07 c 2 []) ∧
    ((p.length ≠ 32 ∨ field w 25 39 ≠ 0 ∨ field (pword p 3) 40 24 ≠ 0 ∨ pword p 3 = 0 ∨ field w 0 12 ∈ j.hostwins.map Prod.fst) →
      ∃ t, exec (.hwgrant c) s = .next t ∧ Executed s t 0x08 c 2 []) ∧
    (p.length = 32 → field w 25 39 = 0 → field (pword p 3) 40 24 = 0 → pword p 3 ≠ 0 → field w 0 12 ∉ j.hostwins.map Prod.fst →
      ∃ t j', exec (.hwgrant c) s = .next t ∧ Executed s t 0x08 c 0 [] ∧ t.job? c.job = some j' ∧
        (field w 0 12, ⟨pword p 1, pword p 2, (pword p 3).toNat, w.getLsbD 12, w.getLsbD 13, w.getLsbD 14,
          BitVec.ofNat 10 (field w 15 10), c.port, false⟩) ∈ j'.hostwins) ∧
    (p.length = 8 → field w 12 52 = 0 → s.accs = [] → (s.cores.all fun x => decide (x.2.journal = [])) = true →
      ∃ t j', exec (.hwrevoke c) s = .next t ∧ Executed s t 0x09 c 0 [] ∧ t.job? c.job = some j' ∧
        w.toNat ∉ j'.hostwins.map Prod.fst) ∧
    (∀ x, p.length = 8 → field w 12 52 = 0 → (j.hostwins.find? fun y => decide (y.1 = w.toNat)) = some (w.toNat, x) →
      s.hostBusy c.job w.toNat = true → ∃ t j', exec (.hwrevoke c) s = .next t ∧ t.sent = s.sent ∧ t.job? c.job = some j' ∧
        j'.pending = [(0x09, c)] ∧ (w.toNat, { x with revoked := true }) ∈ j'.hostwins) ∧
    (¬GoodCollset s c → ∃ t, exec (.collset c) s = .next t ∧ Executed s t 0x0E c 2 []) ∧
    (GoodCollset s c → ∃ t, exec (.collset c) s = .next t ∧ Executed s t 0x0E c 0 [] ∧ ∃ x, t.coll? c.job (field w 0 5) = some x ∧
      x.rank = field w 18 12 ∧ x.devs = ((List.range (field w 5 13)).map fun i => (pword p (4 + i)).toNat) ∧
      x.op = field (pword p 1) 0 2 ∧ x.ty = field (pword p 1) 2 2 ∧ x.arrival = (pword p 1).getLsbD 4 ∧
      x.count = field (pword p 1) 5 21 ∧ x.result = pword p 2 ∧ x.bcore = field (pword p 3) 0 9 ∧ x.broken = false ∧
      x.bnum.val = field (pword p 3) 9 5 ∧ x.parts = [] ∧ (s.coll? c.job (field w 0 5) = none → x.gen = 0)) ∧
    (let m := s.milliner
     let slot := if m.runB then m.slotB else m.slotA
     let head := leBytes 4 1 ++ leBytes 4 (if m.runB then 1 else 0) ++ leBytes 8 ((slot.map fun x => x.version).getD 0) ++ p ++
       m.mr0 ++ m.mr1
     (p.length ≠ 32 → ∃ t, exec (.attest c) s = .next t ∧ Done s t c 2 [] ∧ t.mem = s.mem) ∧
     (p.length = 32 → ∃ t j', exec (.attest c) s = .next t ∧ t.job? c.job = some j' ∧ j'.log = j.log ∧
       Done s t c 0 (head ++ (Config.identitySign (sha256 head) ++ List.replicate 64 0).take 64 ++ Config.identityCert) ∧ t.mem = s.mem ∧ t.cores = s.cores)) ∧
    (∀ i, i ∈ [Instr.cntreadCounter c, .cntreadRestartSummary c, .cntreadPort c, .cntreadCore c, .cntreadCorrections c] →
      p.length = 8 → let x := w.toNat
      (∀ lv n, unitOf j w = some (lv, n) → (x < 2 ^ 63 + 2 ^ 62 + 1) →
        ∃ t, exec i s = .next t ∧ Executed s t 0x0B c 0 (leBytes 8 (ctrWord (j.counter? lv n)).toNat)) ∧
      (∀ q < 8, x = 0xFFFFFFFFFFFE0000 + q → ∃ t, exec i s = .next t ∧ Executed s t 0x0B c 0
        (leBytes 8 (s.port q).discards ++ leBytes 8 (s.port q).authFail ++ leBytes 8 (s.port q).retries ++ leBytes 8 0)) ∧
      (∀ k < 512, ∀ n < 12, x = 0xFFFFFFFFFFFD0000 + 16 * k + n → s.inHoods c.job k = true →
        ∃ t, exec i s = .next t ∧ Executed s t 0x0B c 0 (leBytes 8 ((s.core k).sampled.getD n 0))) ∧
      (x = 0xFFFFFFFFFFFC0000 → ∃ t, exec i s = .next t ∧ Executed s t 0x0B c 0 (leBytes 8 s.corrections.1 ++
        leBytes 8 s.corrections.2.1 ++ leBytes 8 s.corrections.2.2.1 ++ leBytes 8 s.corrections.2.2.2)) ∧
      (x = 0xFFFFFFFFFFFF0001 → ∃ t data, exec i s = .next t ∧ Executed s t 0x0B c 0 data ∧ data.length = 64 ∧
        ∀ g r d, s.brim.dir = some (g, r, d) → number (fun k => data.getD k 0) 8 = g.toNat + 2 ^ 16 * r.toNat + if d then 2 ^ 18 else 0)) ∧
    (p = leBytes 8 0 → ∃ t j', exec (.logctlQuery c) s = .next t ∧ t.job? c.job = some j' ∧ j'.log = j.log ∧ t.mem = s.mem ∧
      Done s t c 0 (leBytes 8 (j.log.map fun r => recordBytes r.payload).sum ++ leBytes 8 j.boundary)) ∧
    (p ≠ leBytes 8 0 → p ≠ leBytes 8 1 → ∃ t, exec (.logctlReplay c) s = .next t ∧ Done s t c 2 [] ∧ t.mem = s.mem) ∧
    (p = leBytes 8 1 → j.replaying = none →
      ((s.hoods.any fun h => decide (h.job = c.job) && decide (h.st ≠ .active)) = true → ∃ t j', exec (.logctlReplay c) s = .next t ∧
        t.job? c.job = some j' ∧ j'.pending = [(0x0C, c)] ∧ j'.nextSeq = j.nextSeq ∧ t.sent = s.sent) ∧
      ((s.hoods.all fun h => decide (h.job = c.job → h.st = .active)) = true → j.graphs = [] →
        (∀ ph, j.phase? j.phase = some ph → ph.ctr.count ≤ 1) →
        (j.log = [] → ∃ t j', exec (.logctlReplay c) s = .next t ∧ t.job? c.job = some j' ∧ j'.nextSeq = c.seq + 1 ∧
          j'.replaying = none ∧ t.sent = s.sent ++ [.completion c.port c.job c.seq 0 []]) ∧
        ∀ r, j.log = [r] → r.code = 0x08 → r.payload.length ≠ 32 → ∃ t j', exec (.logctlReplay c) s = .next t ∧
          t.job? c.job = some j' ∧ j'.nextSeq = c.seq + 1 ∧ j'.replaying = none ∧
          t.sent = s.sent ++ [.completion r.port c.job r.seq 2 [], .completion c.port c.job c.seq 0 []]))

/-- 16 R288, R289, R411, 20 R349, 04 R83: MAP writes an entry of the job's tables, and waits where the entry was valid while
peers hold sealed copies of its span; ATTR writes a frame's type, LOAD bytes, READ returns them, SEAL seals a WO page; a
payload or an address they do not take completes with BADARG. ATTR and physical addresses are for the host that sent JOBNEW.
Memory is read as it is once the command is in the log. LOAD's data take the bytes that its length names, with no padding
(log 24). -/
def Obligations.MemoryCommands : Prop :=
  ∀ (c : Cmd) (s : State) (j : Job), InTurn s c j → NoLines s →
    let p := c.payload
    let w := pword p 0
    (∀ tab, let s1 := logged s 0x03 c j
      p.length = 24 → w = 1 → field (pword p 1) 50 14 = 0 → s1.jobEntryOk j.jtbase c.job = true →
      s1.tableAt (field (pword p 1) 0 48) (field (pword p 1) 48 2) 4 (field (s1.jobEntry j.jtbase c.job 0) 0 48) = some tab →
      let a := tab + 8 * levelIndex (field (pword p 1) 0 48) (field (pword p 1) 48 2)
      (∀ k < 8, ¬InLog j (a + k)) →
      (s.acks ++ s.sealedAt = [] ∨ (s1.mem.get a).getLsbD 0 = false → ∃ t, exec (.mapCmd c) s = .next t ∧
        Executed s t 0x03 c 0 (leBytes 8 1) ∧ t.mem.read a 8 = (pword p 2).toNat ∧
        ∀ x, x < a ∨ a + 8 ≤ x → ¬InLog j x → t.mem.get x = s.mem.get x) ∧
      ((s1.mem.get a).getLsbD 0 = true →
        (∃ x ∈ s.acks ++ s.sealedAt, InSpan c.job (spanOf (pword p 1) (field (pword p 1) 48 2)).1
          (spanOf (pword p 1) (field (pword p 1) 48 2)).2 x) →
        ∃ t j', exec (.mapCmd c) s = .next t ∧ t.mem.read a 8 = (pword p 2).toNat ∧ t.job? c.job = some j' ∧
          j'.mapping = some 0 ∧ j'.pending = [(0x03, c)] ∧ ∀ st d, .completion c.port c.job c.seq st d ∉ t.sent.drop s.sent.length)) ∧
    (p.length = 24 → w = 1 → field (pword p 1) 50 14 = 0 → (logged s 0x03 c j).jobEntryOk j.jtbase c.job = false →
      ∃ t, exec (.mapCmd c) s = .next t ∧ Executed s t 0x03 c 2 (leBytes 8 0) ∧ LogOnly s t j) ∧
    (p.length < 24 → ∃ t, exec (.mapCmd c) s = .next t ∧ Executed s t 0x03 c 2 [] ∧ LogOnly s t j) ∧
    (c.key ≠ j.creator → ∃ t, exec (.attrCmd c) s = .next t ∧ Executed s t 0x04 c 2 [] ∧ LogOnly s t j) ∧
    (∀ ty : PageTy, c.key = j.creator → p.length = 24 → w = 1 → PhysForm (pword p 1) → field (pword p 1) 0 16 = 0 →
      field (pword p 1) 0 48 < 0x6000000000 → (pword p 2).toNat = ty.code →
      let f := field (pword p 1) 16 32
      let a := field j.fatbase 0 48 + 8 * (f / 32)
      (∀ k < 8, ¬InLog j (a + k)) → ∃ t, exec (.attrCmd c) s = .next t ∧ Executed s t 0x04 c 0 (leBytes 8 1) ∧
        t.mem.read a 8 / 4 ^ (f % 32) % 4 = ty.code) ∧
    (let a := field w 0 48
     let n := (pword p 2).toNat
     PhysForm w → pword p 1 = 0 → p.length = 24 + n →
      (c.key ≠ j.creator → ∃ t, exec (.loadCmd c) s = .next t ∧ Executed s t 0x05 c 2 [] ∧ LogOnly s t j) ∧
      (c.key = j.creator → a + n ≤ 0x6000000000 → ∃ t, exec (.loadCmd c) s = .next t ∧ Executed s t 0x05 c 0 [] ∧
        (∀ k < n, ¬InLog j (a + k) → t.mem.get (a + k) = p.getD (24 + k) 0) ∧
        ∀ x, x < a ∨ a + n ≤ x → ¬InLog j x → t.mem.get x = s.mem.get x)) ∧
    (∀ e q, let s1 := logged s 0x05 c j
      field w 48 16 = 0 → pword p 1 = 0 → p.length = 24 + (pword p 2).toNat → 1 ≤ (pword p 2).toNat →
      w.toNat % 2 ^ 16 + (pword p 2).toNat ≤ 2 ^ 16 → s1.jobEntryOk j.jtbase c.job = true →
      s1.walkJob j.jtbase c.job w.toNat = .ok (e, 0, q) → s1.framesMatch j.fatbase e 0 = true → field e 1 2 ≠ 2 →
      ∃ t, exec (.loadCmd c) s = .next t ∧ Executed s t 0x05 c 0 [] ∧ let a := field e 16 32 * 2 ^ 16 + w.toNat % 2 ^ 16
        (∀ k < (pword p 2).toNat, ¬InLog j (a + k) → t.mem.get (a + k) = p.getD (24 + k) 0) ∧
        ∀ x, x < a ∨ a + (pword p 2).toNat ≤ x → ¬InLog j x → t.mem.get x = s.mem.get x) ∧
    (let a := field w 0 48
     let n := (pword p 1).toNat
     PhysForm w → p.length = 16 → 1 ≤ n → n ≤ 2 ^ 24 - 16 →
      (c.key ≠ j.creator → ∃ t, exec (.readCmd c) s = .next t ∧ Executed s t 0x06 c 2 [] ∧ LogOnly s t j) ∧
      (c.key = j.creator → a + n ≤ 0x6000000000 → s.pois = [] → ∃ t, exec (.readCmd c) s = .next t ∧ LogOnly s t j ∧
        Executed s t 0x06 c 0 ((List.range n).map fun k => (logged s 0x06 c j).mem.get (a + k)))) ∧
    ∀ e q, let s1 := logged s 0x0A c j
      p.length = 8 → field w 48 16 = 0 → s1.jobEntryOk j.jtbase c.job = true →
      s1.walkJob j.jtbase c.job w.toNat = .ok (e, 0, q) → s1.framesMatch j.fatbase e 0 = true →
      (field e 1 2 ≠ 2 ∨ e.getLsbD 4 = false → ∃ t, exec (.sealCmd c) s = .next t ∧ Executed s t 0x0A c 2 [] ∧ LogOnly s t j) ∧
      (field e 1 2 = 2 → e.getLsbD 4 = true → e.getLsbD 6 = true → ∃ t, exec (.sealCmd c) s = .next t ∧
        Executed s t 0x0A c 0 [] ∧ LogOnly s t j) ∧
      (field e 1 2 = 2 → e.getLsbD 4 = true → e.getLsbD 6 = false → s1.mem.read q 8 = e.toNat → (∀ k < 8, ¬InLog j (q + k)) →
        s.storesTo (field e 16 32 * 2 ^ 16) (field e 16 32 * 2 ^ 16 + 2 ^ 16) = false →
        ∃ t, exec (.sealCmd c) s = .next t ∧ Executed s t 0x0A c 0 [] ∧ t.mem.read q 8 = e.toNat % 2 ^ 48 + 2 ^ 6 +
          2 ^ 48 * (if e.toNat / 2 ^ 48 = 0xFFFF then 1 else e.toNat / 2 ^ 48 + 1) ∧
          ∀ x, x < q ∨ q + 8 ≤ x → ¬InLog j x → t.mem.get x = s.mem.get x)

/-! ## Accesses in flight, links and peers -/

namespace Sys2Proof.Claims

/-- One access of a strand is in flight, the only one of the part; the strand has issued nothing after it, and its result goes
to `d` at once. -/
def InFlight (s : State) (id : Nat) (a : Access) (d : GReg) : Prop :=
  s.accs = [(id, a)] ∧ ∃ o, (s.strand a.core a.slot).outs = [o] ∧ o.acc = some id ∧ o.dst = some d ∧ o.left = 0 ∧ id < 2 ^ 64

/-- The access has returned `v`: nothing is in flight, `d` holds it, and the strand is otherwise as it was. -/
def Returned (s t : State) (a : Access) (d : GReg) (v : Word) : Prop :=
  t.accs = [] ∧ (t.strand a.core a.slot).outs = [] ∧ (t.strand a.core a.slot).g d = v ∧
  (∀ e, e ≠ d → (t.strand a.core a.slot).g e = (s.strand a.core a.slot).g e) ∧
  (t.strand a.core a.slot).pc = (s.strand a.core a.slot).pc

/-- The window that a peer's access names is granted to it, by the one job of the part. -/
def Granted (s : State) (dev : Nat) (job : BitVec 16) (idx : Nat) (owner : BitVec 16) (j : Job) (g : Grant) : Prop :=
  s.jobs = [(owner.toNat, j)] ∧ j.grants = [(idx, g)] ∧ g.dev = dev ∧ g.gjob = job

/-- A peer's operation: its size, and whether the grant allows it (16 R292, R295). -/
def peerForm (g : Grant) : PeerOp → Nat × Bool
  | .load n => (n, g.r)
  | .store n _ => (n, g.w)
  | .amo _ dw _ _ => (if dw then 8 else 4, g.a)

/-- A peer is replyTo with a cause, 0 for none, and a value: all that happens. -/
def replyTo (s : State) (dev : Nat) (code : BitVec 6) (v : Word) : State :=
  { s with sent := s.sent ++ [.answer dev code v] }

end Sys2Proof.Claims

/-- 04 R72, 20 R347, R350, 05 R106, R107, 24 R401: an access in flight goes to its translation slice, which gives it the address
and the type of its page; then to its home, where a load reads memory and a store writes it; a bank access reads its
core's scratch; the target's message strand performs a window atomic; a reply from outside returns; one that carries a
dropped translation goes back to be translated again. One that a core of another job receives is refused (16 R286). -/
def Obligations.AccessPath : Prop :=
  (∀ (s : State) (id : Nat) (a : Access) (v : Word) (pa : Nat), s.accs = [(id, a)] → a.kind = .store v →
    a.stage = .home pa .sc (2 ^ 64) → s.waits = [] → (s.cores.all fun x => decide (x.2.journal = [])) = true → a.size ≤ 8 →
    ∃ t, exec (.homeAccess id) s = .next t ∧ t.accs = [] ∧ (∀ j < a.size, t.mem.get (pa + j) = v.extractLsb' (8 * j) 8) ∧
      ∀ x, x < pa ∨ pa + a.size ≤ x → t.mem.get x = s.mem.get x) ∧
  ∀ (s : State) (id : Nat) (a : Access) (d : GReg), InFlight s id a d →
    (∀ sgn again s1 pa ty shut ver pte tag, a.kind = .load sgn → a.stage = .xlate again →
      s.translate ⟨a.core, a.job, a.sup, a.bases⟩ (field a.addr 0 48) .load = (s1, .ok pa ty shut ver pte tag) →
      ∃ t, exec (.translation id) s = .next t ∧ t.acc? id = some { a with stage := .home pa ty tag } ∧ t.cores = s1.cores ∧
        t.mem = s1.mem) ∧
    (∀ sgn pa ty tag, a.kind = .load sgn → a.ord = .plain → a.stage = .home pa ty tag → s.dropped.contains tag = false →
      s.poisoned (field a.bases.fat 0 48 + 8 * (pa / 2 ^ 21)) 8 = false → s.frameTy a.bases.fat pa = ty → s.poisoned pa a.size = false →
      (s.core a.core).cacheBanks = [] →
      (s.core a.core).lines = [] → (s.core a.core).journal = [] →
      ∃ t, exec (.homeAccess id) s = .next t ∧ Returned s t a d (loaded sgn a.size (number (fun j => s.mem.get (pa + j)) a.size)) ∧
        t.mem = s.mem) ∧
    (∀ sgn c off, a.kind = .load sgn → a.ord = .plain → a.stage = .bank → space true a.addr = .ok (.pkg c off) → s.preempts = [] →
      (s.core c).fwd = none → (c = a.core ∨ s.shut c = false ∧ s.inHoods a.job c = true) → (s.core c).scratchOk off a.size = true →
      touches (s.core c).spois off a.size = false →
      ∃ t, exec (.bankAccess id) s = .next t ∧ t.mem = s.mem ∧
        Returned s t a d (loaded sgn a.size (number (fun j => (s.core c).scratch.get (off + j)) a.size))) ∧
    (∀ sgn c off, a.kind = .load sgn → a.stage = .bank → space true a.addr = .ok (.pkg c off) → s.preempts = [] →
      (s.core c).fwd = none → c ≠ a.core → (s.shut c = true ∨ s.inHoods a.job c = false) → (s.strand a.core a.slot).intrap = false →
      s.preempted a.core = false → (s.core a.core).trapHeld a.slot = false → (s.strand a.core a.slot).fl = .none →
      (∃ o, (s.strand a.core a.slot).outs = [o] ∧ o.prior = []) →
      ∃ t, exec (.bankAccess id) s = .next t ∧ t.accs = [] ∧ t.mem = s.mem ∧ field (t.core a.core).cause 0 8 = 0x0D ∧
        (t.core a.core).faddr = a.addr ∧ (t.strand a.core a.slot).intrap = true) ∧
    (∀ fn b cmp c off, a.kind = .amo fn b cmp → a.ord = .plain → a.stage = .pwa → (a.size = 4 ∨ a.size = 8 ∧ fn ≠ .fadd) →
      space true a.addr = .ok (.pkg c off) → s.preempts = [] → (s.core c).fwd = none → s.shut c = false →
      s.inHoods a.job c = true → c ≠ a.core →
      (s.core c).scratchOk off a.size = true → touches (s.core c).spois off a.size = false → ((s.core c).strand 16).st = .free →
      (s.core c).box true = [] → (s.core c).box false = [] → (s.cores.all fun x => decide (x.2.sq false = [])) = true → s.mails = [] →
      let old := number (fun j => (s.core c).scratch.get (off + j)) a.size
      ∃ t, exec (.packageWindowAtomic id) s = .next t ∧ t.mem = s.mem ∧ Returned s t a d (BitVec.ofNat 64 old) ∧
        number (fun j => (t.core c).scratch.get (off + j)) a.size =
          (amoNew (k := 8 * a.size) fn (BitVec.ofNat _ old) (b.setWidth _) (cmp.setWidth _)).toNat ∧
        ∀ x, x < off ∨ off + a.size ≤ x → (t.core c).scratch.get x = (s.core c).scratch.get x) ∧
    (∀ sgn v, a.kind = .load sgn → a.ord = .plain → a.stage = .outside → s.deaf = false → ∃ t, exec (.accessReply id none v) s = .next t ∧
      Returned s t a d (loaded sgn a.size (v.toNat % 2 ^ (8 * a.size))) ∧ t.mem = s.mem) ∧
    (∀ pa ty tag, a.stage = .home pa ty tag → tag ∈ s.dropped → ∃ t, exec (.moved id) s = .next t ∧
      t.acc? id = some { a with stage := .xlate true } ∧ t.cores = s.cores ∧ t.mem = s.mem)

/-- 16 R282, R285, R292, R293, R295, R296, 20 R352, R353, 22 R373: a packet that uses what the part lacks, or does not
authenticate, or acts on another job than its association's, is counted and dropped, any other does what its body says; a
grant notice, a revocation notice, a contribution and a loss notice that come under their job's keys do what the events of
those names do; a peer's access is refused as its grant and its page say, REVOKED first, else performed at its home and
answered, a sealed copy being remembered (log 80); a store to a page that the peers' translations still hold sealed is
refused with WOSEALED (16 R296). A misaligned access of a peer is answered with ALIGN (log 79). -/
def Obligations.LinksAndPeers : Prop :=
  (∀ (p : Fin 8) (job : BitVec 16) (key : List Byte) (b : Inbound) (s : State), s.deaf = false →
    let counted (t : State) (f : Port → Nat) : Prop := f (t.port p.val) = f (s.port p.val) + 1 ∧ t.sent = s.sent ∧
      t.cores = s.cores ∧ t.jobs = s.jobs ∧ t.hoods = s.hoods ∧ t.mem = s.mem
    (∃ t, exec (.packetReceive p false job key b) s = .next t ∧ counted t Port.discards) ∧
    ((∀ j, s.job? job = some j → j.key ≠ key) → (∀ code c, b ≠ .cmd code c) →
      ∃ t, exec (.packetReceive p true job key b) s = .next t ∧ counted t Port.authFail) ∧
    (∀ other c d i n r w x g, job ≠ other → b ∈ [Inbound.grantNotice d other i n r w x, .revokeNotice d other i,
        .contribution other c d n [], .loss other c g] →
      ∃ t, exec (.packetReceive p true job key b) s = .next t ∧ counted t Port.authFail) ∧
    (∀ j, s.job? job = some j → j.key = key →
      (∀ d g i o op, s.jobs = [(job.toNat, j)] →
        exec (.packetReceive p true job key (.peer d g i o op)) s = exec (.peerAccess d g i o op) s) ∧
      (∀ d g i o op other k, s.jobs = [(job.toNat, j), (BitVec.toNat (w := 16) other, k)] → job ≠ other → j.grants = [] →
        exec (.packetReceive p true job key (.peer d g i o op)) s = .next (replyTo s d 0x0F 0)) ∧
      (∀ d i n r w x, exec (.packetReceive p true job key (.grantNotice d job i n r w x)) s = exec (.grantNotice d job i n r w x) s) ∧
      (∀ d i, exec (.packetReceive p true job key (.revokeNotice d job i)) s = exec (.revocationNotice d job i) s) ∧
      (∀ c r g d, exec (.packetReceive p true job key (.contribution job c r g d)) s = exec (.collectiveContribution job c r g d) s) ∧
      ∀ c r, exec (.packetReceive p true job key (.loss job c r)) s = exec (.lossNotice job c r) s) ∧
    ∀ c, (c.key = key → exec (.packetReceive p true job key (.cmd 0x02 c)) s = exec (.hoodset c) s) ∧
      (c.key ≠ key → ∃ t, exec (.packetReceive p true job key (.cmd 0x02 c)) s = .next t ∧ counted t Port.authFail)) ∧
  ∀ (dev idx off : Nat) (job owner : BitVec 16) (j : Job) (g : Grant) (op : PeerOp) (s : State), s.deaf = false →
    (s.jobs = [] → exec (.peerAccess dev job idx off op) s = .next (replyTo s dev 0x0F 0)) ∧
    (Granted s dev job idx owner j g →
      let n := (peerForm g op).1
      (g.revoked = true → exec (.peerAccess dev job idx off op) s = .next (replyTo s dev 0x0E 0)) ∧
      (g.revoked = false →
        (n ∉ [1, 2, 4, 8] ∨ off % n ≠ 0 → exec (.peerAccess dev job idx off op) s = .next (replyTo s dev 0x04 0)) ∧
        (n ∈ [1, 2, 4, 8] → off % n = 0 →
          ((peerForm g op).2 = false ∨ g.len < off + n →
            exec (.peerAccess dev job idx off op) s = .next (replyTo s dev 0x0F 0)) ∧
          ((peerForm g op).2 = true → off + n ≤ g.len →
            (s.jobEntryOk j.jtbase owner = false ∨ (∃ x, s.walkJob j.jtbase owner (g.base + off) = .error x) →
              exec (.peerAccess dev job idx off op) s = .next (replyTo s dev 0x06 0)) ∧
            ∀ e q, s.jobEntryOk j.jtbase owner = true → s.walkJob j.jtbase owner (g.base + off) = .ok (e, 0, q) →
              s.framesMatch j.fatbase e 0 = true → s.fatPoisoned j.fatbase e 0 = false →
              let pa := field e 16 32 * 2 ^ 16 + (g.base + off) % 2 ^ 16
              let old := number (fun k => s.mem.get (pa + k)) n
              (∀ m, op = .load m → e.getLsbD 3 = false → exec (.peerAccess dev job idx off op) s = .next (replyTo s dev 0x07 0)) ∧
              (∀ m, op = .load m → e.getLsbD 3 = true → field e 1 2 = 3 →
                exec (.peerAccess dev job idx off op) s = .next (replyTo s dev 0x0C 0)) ∧
              (∀ m, op = .load m → e.getLsbD 3 = true → field e 1 2 ≠ 3 → s.poisoned pa n = false →
                ∃ t, exec (.peerAccess dev job idx off op) s = .next t ∧ t.sent = s.sent ++ [.answer dev 0 (BitVec.ofNat 64 old)] ∧
                  t.mem = s.mem ∧ t.cores = s.cores ∧
                  (field e 1 2 = 2 → e.getLsbD 6 = true → (dev, owner, (g.base + off) / 2 ^ 16) ∈ t.sealedAt)) ∧
              (∀ m v, op = .store m v → e.getLsbD 4 = true → field e 1 2 < 2 →
                ∃ t, exec (.peerAccess dev job idx off op) s = .next t ∧ t.sent = s.sent ++ [.answer dev 0 0] ∧
                  (∀ k < n, t.mem.get (pa + k) = BitVec.ofNat 8 (v / 256 ^ k)) ∧
                  ∀ x, x < pa ∨ pa + n ≤ x → t.mem.get x = s.mem.get x) ∧
              (∀ m v, op = .store m v → e.getLsbD 4 = true → field e 1 2 = 2 → (∃ x ∈ s.seals, x.lo ≤ pa ∧ pa < x.hi) →
                exec (.peerAccess dev job idx off op) s = .next (replyTo s dev 0x0A 0)) ∧
              ∀ fn dw b cmp, op = .amo fn dw b cmp → e.getLsbD 3 = true → e.getLsbD 4 = true →
                (2 ≤ field e 1 2 → exec (.peerAccess dev job idx off op) s = .next (replyTo s dev 0x09 0)) ∧
                (field e 1 2 < 2 → s.poisoned pa n = false → (dw = true → fn ≠ .fadd) →
                  ∃ t, exec (.peerAccess dev job idx off op) s = .next t ∧
                    t.sent = s.sent ++ [.answer dev 0 (BitVec.ofNat 64 old)] ∧
                    number (fun k => t.mem.get (pa + k)) n = (amoNew (k := 8 * n) fn (BitVec.ofNat _ old) (b.setWidth _)
                      (cmp.setWidth _)).toNat ∧ ∀ x, x < pa ∨ pa + n ≤ x → t.mem.get x = s.mem.get x)))))

/-- 16 R292, R293, R295, R296, 22 R373: what each of these events completes with while packets are taken in: a retry is
counted, on a port where it is an Ethernet link's; a peer's load of a readable page through a window granted to it is
answered with the bytes that stand there; a notice is recorded for its job and acknowledged; a peer's invalidation is
acknowledged; a packet with a grant notice under its job's keys does as the notice. -/
def Obligations.LinkEvents : Prop :=
  (∀ (p : Fin 8) (s : State), ∃ t, exec (.linkRetry (some p)) s = .next t ∧ (t.port p.val).retries = (s.port p.val).retries + 1 ∧
    (∀ q, q ≠ p.val → t.port q = s.port q) ∧ t.corrections = s.corrections ∧ t.cores = s.cores ∧ t.mem = s.mem) ∧
  (∀ s : State, exec (.linkRetry none) s = .next { s with corrections := (s.corrections.1, s.corrections.2.1,
    s.corrections.2.2.1, s.corrections.2.2.2 + 1) }) ∧
  (∀ (dev idx off n q : Nat) (job owner : BitVec 16) (j : Job) (g : Grant) (e : Word) (s : State), s.deaf = false →
    Granted s dev job idx owner j g → g.revoked = false → g.r = true → n ∈ [1, 2, 4, 8] → off % n = 0 → off + n ≤ g.len →
    s.jobEntryOk j.jtbase owner = true → s.walkJob j.jtbase owner (g.base + off) = .ok (e, 0, q) →
    s.framesMatch j.fatbase e 0 = true → s.fatPoisoned j.fatbase e 0 = false → e.getLsbD 3 = true → field e 1 2 ≠ 3 →
    let pa := field e 16 32 * 2 ^ 16 + (g.base + off) % 2 ^ 16
    s.poisoned pa n = false → ∃ t, exec (.peerAccess dev job idx off (.load n)) s = .next t ∧ t.mem = s.mem ∧ t.cores = s.cores ∧
      t.sent = s.sent ++ [.answer dev 0 (BitVec.ofNat 64 (number (fun k => s.mem.get (pa + k)) n))]) ∧
  ∀ (p : Fin 8) (dev i n : Nat) (job : BitVec 16) (r w a : Bool) (key : List Byte) (j : Job) (s : State), s.deaf = false →
    s.job? job = some j →
    (∃ t j', exec (.grantNotice dev job i n r w a) s = .next t ∧ t.job? job = some j' ∧ t.sent = s.sent ++ [.noted dev job i] ∧
      ⟨dev, i, n, r, w, a, false⟩ ∈ j'.notices ∧ (∀ x ∈ j.notices, x.dev ≠ dev ∨ x.idx ≠ i → x ∈ j'.notices) ∧
      (∀ x ∈ j'.notices, x.dev = dev → x.idx = i → x = ⟨dev, i, n, r, w, a, false⟩) ∧ t.cores = s.cores ∧ t.mem = s.mem) ∧
    (j.key = key → ∃ t j', exec (.packetReceive p true job key (.grantNotice dev job i n r w a)) s = .next t ∧
      t.job? job = some j' ∧ t.sent = s.sent ++ [.noted dev job i] ∧ ⟨dev, i, n, r, w, a, false⟩ ∈ j'.notices) ∧
    (∃ t j', exec (.revocationNotice dev job i) s = .next t ∧ t.job? job = some j' ∧ t.sent = s.sent ++ [.noted dev job i] ∧
      j'.notices = j.notices.map (fun x => if x.dev = dev ∧ x.idx = i then { x with revoked := true } else x) ∧
      t.cores = s.cores ∧ t.mem = s.mem) ∧
    exec (.peerXlinv dev i n) s = .next { s with sent := s.sent ++ [.dropped dev i n] }

/-! ## Stealing, stage rings, the weaver and counters -/

namespace Sys2Proof.Claims

/-- A core may look for work elsewhere: it serves in a hood, a general slot is FREE, its deque and its spill ring are empty. -/
def Hungry (s : State) (c n : Nat) : Prop :=
  s.opens c = true ∧ s.hoodOf c ≠ none ∧ LowestFree s c n ∧ (s.core c).deque = [] ∧ (s.core c).dspill = []

/-- A core works for no stage. -/
def NoStage (s : State) (c : Nat) : Prop := (s.core c).wvmove = none ∧ (s.core c).stageasn.getLsbD 8 = false

/-- A core's own pop waits at its arbiter: it serves, a general slot is FREE, its deque holds a record. -/
def PopWaits (s : State) (v : Nat) : Prop :=
  s.opens v = true ∧ (∃ n < 16, (s.strand v n).st = .free) ∧ (s.core v).deque ≠ []

/-- The records of an entry are of a core's job, and their launch is not cancelled. -/
def Welcome (s : State) (c : Nat) (h : Word) : Prop :=
  BitVec.ofNat 16 (field h 48 16) = s.coreJob c ∧ ∀ x, s.counter? (s.coreJob c) .launch (field h 12 12) = some x → x.canc = false

/-- A core after a ring take: a move that the weaver has decided is written (03 R60). -/
def moved (k : Core) : Core :=
  match k.wvmove with
  | some m => { k with stageasn := BitVec.ofNat 9 (256 + m.toNat), wvmove := none }
  | none => k

/-- The next number of a list after `x`, wrapping round. -/
def NextOf (l : List Nat) (x v : Nat) : Prop :=
  v ∈ l ∧ (x < v ∧ (∀ w ∈ l, x < w → v ≤ w) ∨ (∀ w ∈ l, w ≤ x) ∧ ∀ w ∈ l, v ≤ w)

/-- The other cores of a core's job on its die. -/
def mates (s : State) (c : Nat) : List Nat :=
  (List.range 512).filter fun x => s.inHoods (s.coreJob c) x && decide (x / 128 = c / 128) && decide (x ≠ c)

/-- The cores of a core's job on a die. -/
def coresOn (s : State) (c d : Nat) : List Nat :=
  (List.range 512).filter fun x => s.inHoods (s.coreJob c) x && decide (x / 128 = d)

/-- The other dies with cores of a core's job. -/
def dies (s : State) (c : Nat) : List Nat := (List.range 4).filter fun d => decide (d ≠ c / 128) && decide (coresOn s c d ≠ [])

/-- What a thief is after the answer to its steal (03 R54): after a remote one it waits 256 cycles. -/
def answered (t : Thief) (v : Nat) (remote granted : Bool) (u : Thief) : Prop :=
  t.out = some (v, remote) ∧ u.out = none ∧ u.last = t.last ∧
  (remote = true → u.tried = 0 ∧ u.backoff = some 256) ∧
  (remote = false → u.backoff = t.backoff ∧ u.tried = if granted then 0 else t.tried)

end Sys2Proof.Claims

/-- 03 R52 to R55: a thief asks the next core of its job on its die, after a full round one of another die; the victim's
arbiter, after the core's own pop, gives its oldest entry, the record of a launch entry's one index, the upper part of a
launch entry of more, or EMPTY; a granted record starts in the lowest FREE slot (log 63), a launch entry enters the own
deque, and what is of another job than the core's is discarded (16 R286); after a remote steal the thief waits 256 cycles, as
it does where no other die has a core of the job (log 22). -/
def Obligations.Stealing : Prop :=
  (∀ (c v n x : Nat) (s : State), Hungry s c n → NoStage s c → (s.core c).thief.out = none → (s.core c).thief.backoff = none →
    (s.core c).thief.last = some x →
    ((s.core c).thief.tried < (mates s c).length → NextOf (mates s c) x v → ∃ t, exec (.steal c) s = .next t ∧
      (t.core c).thief = { (s.core c).thief with last := some v, out := some (v, false), tried := (s.core c).thief.tried + 1 } ∧
      (t.core v).asked = (s.core v).asked ++ [(c, s.coreJob c, false)] ∧ t.mem = s.mem) ∧
    ((mates s c).length ≤ (s.core c).thief.tried → exec (.steal c) s = .next s ∧
      (∀ d e, (s.core c).thief.lastDie = some e → NextOf (dies s c) e d →
        (s.core c).thief.lastOn = [] → v ∈ coresOn s c d → (∀ y ∈ coresOn s c d, v ≤ y) → v ≠ c → ∃ t, exec (.remoteSteal c) s = .next t ∧
          (t.core c).thief = { (s.core c).thief with out := some (v, true), lastDie := some d, lastOn := [(d, v)] } ∧
          (t.core v).asked = (s.core v).asked ++ [(c, s.coreJob c, true)] ∧ t.mem = s.mem) ∧
      (dies s c = [] → ∃ t, exec (.remoteSteal c) s = .next t ∧ t.mem = s.mem ∧
        (t.core c).thief = { (s.core c).thief with tried := 0, backoff := some 256 }))) ∧
  (∀ (c v : Nat) (job : BitVec 16) (remote : Bool) (s : State) (q : List DqEnt), (s.core v).asked = [(c, job, remote)] →
    (PopWaits s v → exec (.stealAnswer v) s = .next s) ∧
    (¬PopWaits s v → job ≠ s.coreJob v ∨ s.shut v = true ∨ s.preempted v = true ∨ ((s.core v).deque = [] ∧ (s.core v).dspill = []) →
      ∃ t, exec (.stealAnswer v) s = .next t ∧ t.packets = s.packets ++ [⟨s.serial, job, v, c, .empty⟩] ∧ (t.core v).asked = [] ∧
        (t.core v).deque = (s.core v).deque ∧ t.mem = s.mem) ∧
    (¬PopWaits s v → job = s.coreJob v → s.shut v = false → (s.core v).fwd = none → s.preempted v = false → (s.core v).dspill = [] →
      (∀ r, (s.core v).deque = .one r :: q → ∃ t, exec (.stealAnswer v) s = .next t ∧ (t.core v).deque = q ∧
        t.packets = s.packets ++ [⟨s.serial, job, v, c, .grant (.one r)⟩] ∧ t.mem = s.mem) ∧
      (∀ h lo k b st sh, (s.core v).deque = .range h lo (lo + 1) k b st sh :: q → ∃ t, exec (.stealAnswer v) s = .next t ∧
        (t.core v).deque = q ∧ t.mem = s.mem ∧ t.packets = s.packets ++ [⟨s.serial, job, v, c, .grant (.one ([h, BitVec.ofNat 64 lo,
          b + BitVec.ofNat 64 lo * st, sh.getD 0 0, sh.getD 1 0, sh.getD 2 0, sh.getD 3 0, BitVec.ofNat 64 k] ++ sh.drop 4))⟩]) ∧
      ∀ h lo hi k b st sh, (s.core v).deque = .range h lo hi k b st sh :: q → lo + 2 ≤ hi → ∃ t, exec (.stealAnswer v) s = .next t ∧
        let m := lo + (hi - lo + 1) / 2
        (t.core v).deque = .range h lo m k b st sh :: q ∧ t.mem = s.mem ∧
        t.packets = s.packets ++ [⟨s.serial, job, v, c, .grant (.range h m hi k b st sh)⟩])) ∧
  (∀ (id c v n : Nat) (pj : BitVec 16) (remote : Bool) (s : State), s.preempts = [] → (s.core c).fwd = none →
    (s.core c).thief.out = some (v, remote) →
    (s.packets = [⟨id, pj, v, c, .empty⟩] → ∃ t, exec (.empty c) s = .next t ∧ t.packets = [] ∧ t.mem = s.mem ∧
      answered (s.core c).thief v remote false (t.core c).thief) ∧
    (∀ h lo hi k b st sh, s.packets = [⟨id, pj, v, c, .grant (.range h lo hi k b st sh)⟩] → s.shut c = false → Welcome s c h →
      (s.core c).deque.length < 256 → ∃ t, exec (.grant c) s = .next t ∧ t.packets = [] ∧ t.mem = s.mem ∧
        answered (s.core c).thief v remote true (t.core c).thief ∧
        (t.core c).deque = (s.core c).deque ++ [.range h lo hi k b st sh]) ∧
    (∀ e, s.packets = [⟨id, pj, v, c, .grant e⟩] → BitVec.ofNat 16 (field (entryHdr e) 48 16) ≠ s.coreJob c →
      ∃ t, exec (.grant c) s = .next t ∧ (t.core c).deque = (s.core c).deque ∧ t.mem = s.mem ∧
        ∀ m, (s.strand c m).st = .free → (t.strand c m).st = .free) ∧
    ∀ r s0 s1 x, s.packets = [⟨id, pj, v, c, .grant (.one r)⟩] → Hungry s c n →
      BitVec.ofNat 16 (field (r.getD 0 0) 48 16) = s.coreJob c →
      (∀ k, s.counter? (BitVec.ofNat 16 (field (r.getD 0 0) 48 16)) .launch (field (r.getD 0 0) 12 12) = some k → k.canc = false) →
      (∃ u, answered (s.core c).thief v remote true u ∧ u.lastDie = (s.core c).thief.lastDie ∧
        u.lastOn = (s.core c).thief.lastOn ∧ s0 = ({ s with packets := [] } : State).setCore c { s.core c with thief := u }) →
      EntryRead s0 c (r.getD 0 0) s1 x → x % 2 = 1 →
      ∃ t, exec (.grant c) s = .next t ∧ t.packets = s1.packets ∧ (t.core c).deque = (s1.core c).deque ∧
        Started (t.strand c n) r (BitVec.ofNat 64 (x / 4 % 2 ^ 46 * 4)) (s.coreJob c)) ∧
  ∀ (c : Nat) (s : State),
    ((s.core c).thief.backoff = some 0 → ∃ t, exec (.stealBackoffExpiry c) s = .next t ∧
      (t.core c).thief = { (s.core c).thief with backoff := none } ∧ t.mem = s.mem) ∧
    ((s.core c).thief.backoff ≠ some 0 → exec (.stealBackoffExpiry c) s = .next s)

/-- 03 R58 to R61, 17 R303: a core takes HEAD's record of its stage's ring by an atomic increment and starts it in the lowest
FREE slot (log 63); the weaver, once 4096 cycles of its die's first island have ended, counts its samples and moves the
highest core of a stage starved twice to one congested twice; a sample of the counters, once 1024 cycles have ended, keeps
them and fires the arms whose counters have crossed. A cycle of an island that ends at a multiple of 4096 makes the weaver's
sample due, and no further one passes before it is taken. -/
def Obligations.StagesAndCounters : Prop :=
  (∀ (c n i h : Nat) (s s1 s2 : State) (r : Ring) (x : Rec) (v : Nat), Hungry s c n → s.ringReady c = some (i, r) →
    s.incHead c (s.coreJob c) r = some (s1, h) → s1.ringRecord c (s.coreJob c) r h = some x → (s1.weaver (c / 128)).spill = [] →
    (s1.weaver (c / 128)).gone = [] →
    (s1.counter? (BitVec.ofNat 16 (field (x.getD 0 0) 48 16)) .launch (field (x.getD 0 0) 12 12)).all (fun k => !k.canc) = true →
    let s' := s1.setCore c (moved (s1.core c))
    EntryRead s' c (x.getD 0 0) s2 v → v % 2 = 1 →
    ∃ t, exec (.stageRingTake c) s = .next t ∧ Started (t.strand c n) x (BitVec.ofNat 64 (v / 4 % 2 ^ 46 * 4)) (s1.coreJob c) ∧
      (t.core c).stageasn = (moved (s1.core c)).stageasn ∧ (t.core c).wvmove = none ∧ t.mem = s2.mem) ∧
  (∀ (c h : Nat) (s s0 s1 : State) (job : BitVec 16) (r : Ring) (pa pte tag : Nat) (ver : BitVec 16), s.waits = [] →
    s.translate (s.party c job false) (field (r.addr + 16) 0 48) .amo = (s0, .ok pa .sc false ver pte tag) →
    s.incHead c job r = some (s1, h) → s0.waits = [] →
    h = s0.mem.read pa 8 ∧ s1.mem.read pa 8 = (h + 1) % 2 ^ 64 ∧ ∀ a, a < pa ∨ pa + 8 ≤ a → s1.mem.get a = s0.mem.get a) ∧
  (∀ (die : Nat) (s : State), (s.weaver die).due = false → exec (.weaverSample die) s = .next s) ∧
  (∀ (die : Nat) (s : State), (s.weaver die).due = true → (∀ i < 16, ((s.weaver die).rings.look i 0).getLsbD 0 = false) →
    ∃ t, exec (.weaverSample die) s = .next t ∧ t.cores = s.cores ∧ (t.weaver die).samples = (s.weaver die).samples + 1 ∧ (t.weaver die).due = false ∧
      (t.weaver die).starved = [] ∧ (t.weaver die).congested = [] ∧ (t.weaver die).rings = (s.weaver die).rings ∧ (t.weaver die).seen = (s.weaver die).rings ∧ t.mem = s.mem) ∧
  (∀ (die c e m k : Nat) (s : State) (x y : Seen), (s.weaver die).due = true → (s.weaver die).seen = (s.weaver die).rings → s.seenRings die = [x, y] → x.above = some m → x.below = none → y.below = some k →
    y.above = none → x.job = y.job → x.stage ≠ y.stage → x.stage < 256 →
    x.job.toNat * 2 ^ 16 + x.stage ∈ (s.weaver die).congested → y.job.toNat * 2 ^ 16 + y.stage ∈ (s.weaver die).starved →
    let works (z : Nat) : Prop := s.inHoods y.job z = true ∧ z / 128 = die ∧ (s.core z).wvmove = none ∧
      (s.core z).stageasn.toNat = 256 + y.stage
    (∀ z, z < 512 → (s.core z).wvmove = none) → works c → c < 512 → works e → e < c → (∀ z, z < 512 → works z → z ≤ c) →
    (s.weaver die).movedAt = [] →
    ∃ t, exec (.weaverSample die) s = .next t ∧ (t.core c).wvmove = some (BitVec.ofNat 8 x.stage) ∧
      (t.weaver die).movedAt = [(c, (s.weaver die).samples + 1)] ∧ t.mem = s.mem) ∧
  (∀ (die n : Nat) (s : State),
    (((s.island (4 * die)).cycle.toNat + 1) % 4096 = 0 → ((s.tick (4 * die) 1).weaver die).due = true) ∧
    ((s.weaver die).due = true → ((s.tick (4 * die) n).weaver die).samples = (s.weaver die).samples + 1)) ∧
  ∀ (c : Nat) (s : State),
    ((s.core c).due = false → exec (.counterSample c) s = .next s) ∧
    ((s.core c).due = true →
      ((s.core c).arms = [] → ∃ t, exec (.counterSample c) s = .next t ∧ (t.core c).due = false ∧
        (t.core c).sampled.length = 12 ∧ (t.core c).sampled.getD 0 0 = (s.core c).window.1 ∧
        (t.core c).sampled.getD 1 0 = (s.core c).window.2 ∧
        (t.core c).sampled.getD 2 0 = (s.core c).deque.length + (s.core c).dspill.length ∧
        (t.core c).sampled.getD 9 0 = (s.island (c / 128 * 4 + c % 16 / 4)).droops ∧
        (t.core c).sampled.getD 11 0 = (s.core c).refusals ∧ t.mails = s.mails ∧ t.mem = s.mem) ∧
      ∀ i a, (s.core c).arms = [(i, a)] → a.cnt = 2 → a.falling = false →
        ((s.core c).deque.length + (s.core c).dspill.length < a.thresh → ∃ t, exec (.counterSample c) s = .next t ∧
          (t.core c).arms = [(i, a)] ∧ t.mails = s.mails) ∧
        (a.thresh ≤ (s.core c).deque.length + (s.core c).dspill.length → ∀ s1, s.launchInc a.job a.lid.toNat = (s1, true) →
          ∃ t, exec (.counterSample c) s = .next t ∧ (t.core c).arms = [] ∧ t.jobs = s1.jobs ∧
            t.mails = s.mails ++ [⟨s.serial, c, a.target, false, a.record⟩]))

/-! ## Containment -/

namespace Sys2Proof.Claims

/-- The cores of a hood lead and follow no stream, lease no vector unit and run no tile operation; no job has a launch left,
nothing migrates or is pre-empted, no access to a bank is in flight. -/
def Resting (s : State) (h : Hood) : Prop :=
  s.preempts = [] ∧ s.moves = [] ∧ (s.accs.all fun x => decide (x.2.stage ≠ .bank)) = true ∧ (s.jobs.all fun x => decide (x.2.launches = [])) = true ∧
  ∀ c < 512, h.holds c = true → (s.core c).matrix.tile = none ∧ (s.core c).leaseq = [] ∧
    ((s.core c).strands.all fun x => decide (x.2.fl = .none)) = true

/-- A hood has been fenced (22 R380): no core of it holds a strand, a record or a copy, every other core is as it was. -/
def FencedNow (s t : State) (h : Hood) : Prop :=
  t.hoods = s.hoods.map (fun x => if x.leader = h.leader then { x with st := .fenced } else x) ∧ t.mem = s.mem ∧
  (∀ c, h.holds c = true → (∀ n < 19, (t.strand c n).st = .free) ∧ (t.core c).deque = [] ∧ (t.core c).dspill = [] ∧
    (t.core c).mbox = [] ∧ (t.core c).mspill = [] ∧ (t.core c).sendq = [] ∧ (t.core c).copies = [] ∧ (t.core c).scratch = (s.core c).scratch) ∧
  ∀ c, h.holds c = false → t.core c = s.core c

/-- The registers of the block of 16 R289 stand in a core that is otherwise `k`. -/
def blockIn (k : Core) (b : Block) : Core :=
  { k with tvec := b.tvec &&& 0xFFFFFFFFFFFFFFFC#64, htbase := b.htbase &&& 0xFFFFFFFFFFFF8FFF#64, jtbase := b.jtbase,
           fatbase := b.fatbase, sscr := b.sscr }

end Sys2Proof.Claims

/-- 12 R261, 22 R374, R378 to R380, R382, 23 R400: HALT and an uncorrectable error in what a core's strands share fence the
hood, one in a strand's own state ends the strand with ERR; HOOD_RESET, once the operations of its cores have ended and while
no supply loss has been detected, takes every core of a fenced hood to its state at reset, steals that wait there answered
EMPTY (R381), and at its end the latest register block stands in them and the hood is ACTIVE; a refresh corrects a word or
marks it. That a core of no hood is stopped alone is the model's (log entry 69). -/
def Obligations.Containment : Prop :=
  (∀ s : State, Quiet s → s.me.sup = true → s.hoodOf s.cur.core = none → exec .halt s =
    .next ((withMe s (wentOn s.me (s.me.pc + 4))).setCore s.cur.core
      { (withMe s (wentOn s.me (s.me.pc + 4))).core s.cur.core with halted := true })) ∧
  (∀ (s : State) (h : Hood), s.me.sup = true → s.hoodOf s.cur.core = some h → s.hoods = [h] → h.st = .active → Resting s h →
    ∃ t, exec .halt s = .next t ∧ FencedNow s t h ∧ (t.core s.cur.core).halted = true ∧ t.events = s.events) ∧
  (∀ (c : Nat) (s : State) (h : Hood) (rest : List Hood), s.hoodOf c = some h → h.st = .active → Resting s h →
    s.hoods = h :: rest → (∀ x ∈ rest, x.leader ≠ h.leader) → ∃ t, exec (.uncorrectableError c none) s = .next t ∧ FencedNow s t h ∧
      t.events = if ∃ x ∈ rest, x.job = h.job then s.events ++ [.hoodFence h.job h.leader] else s.events) ∧
  (∀ (c n : Nat) (s : State), isGeneral n = true → (s.strand c n).st ≠ .free → s.moves = [] → s.split = true →
    (s.strand c n).fl = .none → ∃ t, exec (.uncorrectableError c (some n)) s = .next t ∧ t.strand c n = Strand.empty ∧
      t.ctrs = s.ctrs ++ [⟨(s.strand c n).job, .launch, (s.strand c n).lid.toNat, .decErr⟩] ∧ t.mem = s.mem ∧ t.hoods = s.hoods ∧
      ∀ x, x ≠ c → t.core x = s.core x) ∧
  (∀ (s : State) (h : Hood), s.hoods.find? (fun x => x.leader = h.leader) = some h →
    (h.st = .fenced → s.brim.st = .idle → (∀ c, h.holds c = true → (s.core c).matrix.tile = none) →
      (∀ j, s.job? h.job = some j → ∀ x ∈ j.colls, h.holds x.2.bcore = false) →
      ∃ t, exec (.hoodReset h.leader) s = .next t ∧ t.mem = s.mem ∧ (∀ c, h.holds c = true → t.core c = Core.reset ∧
          ∀ x ∈ (s.core c).asked, ∃ p ∈ t.packets, p.src = c ∧ p.dst = x.1 ∧ p.flit = .empty) ∧
        (∀ c, h.holds c = false → t.core c = s.core c) ∧
        t.hoods = s.hoods.map fun x => if x.leader = h.leader then { x with st := .resetting } else x) ∧
    (h.st = .resetting → h.ending = false → ∃ t, exec (.hoodResetEnd h.leader) s = .next t ∧ t.mem = s.mem ∧
      (∀ c, h.holds c = true → t.core c = blockIn (s.core c) h.block) ∧ (∀ c, h.holds c = false → t.core c = s.core c) ∧
      t.hoods = s.hoods.map fun x => if x.leader = h.leader then { x with st := .active } else x) ∧
    (h.st = .resetting → h.ending = true → exec (.hoodResetEnd h.leader) s =
      .next { s with hoods := s.hoods.filter fun x => decide (x.leader ≠ h.leader) }) ∧
    (h.st ≠ .fenced ∨ s.brim.st ≠ .idle ∨ (∃ c < 512, h.holds c = true ∧ (s.core c).matrix.tile ≠ none) →
      exec (.hoodReset h.leader) s = .next s) ∧ (h.st ≠ .resetting → exec (.hoodResetEnd h.leader) s = .next s)) ∧
  ∀ (w : Nat) (a : Bool) (s : State), 32 * w < 0x6000000000 →
    (∃ t, exec (.refresh w a true) s = .next t ∧ t.mem = s.mem ∧ t.cores = s.cores ∧ t.corrections = s.corrections ∧
      ∀ x, x ∈ t.pois ↔ x ∈ s.pois ∨ x / 4 = w) ∧
    exec (.refresh w true false) s = .next { s with corrections := (s.corrections.1, s.corrections.2.1 + 1, s.corrections.2.2) } ∧
    exec (.refresh w false false) s = .next s

/-! ## Pre-emption -/

namespace Sys2Proof.Claims

/-- A core that is vacant (18 R319) and does nothing. -/
def Vacated (k : Core) : Prop :=
  k.strands = [] ∧ k.deque = [] ∧ k.dspill = [] ∧ k.mbox = [] ∧ k.mspill = [] ∧ k.sendq = [] ∧ k.matrix = Matrix.reset ∧
  k.copies = [] ∧ k.fwd = none ∧ k.lines = [] ∧ k.halted = false

/-- Nothing holds up a pre-emption of the core: no engine works, no replay runs, no store or access is outstanding (18 R320). -/
def Drained (s : State) (c : Nat) : Prop :=
  (s.core c).matrix.tile = none ∧ (s.core c).matrix.load = none ∧ (s.core c).replay = none ∧ (s.core c).copies = [] ∧
  (s.core c).journal = [] ∧ s.moves = [] ∧
  ((s.core c).strands.all fun x => decide (x.2.outs = []) && decide (x.2.fl = .none) && decide (x.2.rest = none)) = true

/-- A tile operation from its beginning (18 R322). -/
def anew (t : Tile) : Tile := { t with next := 0, passed := 0, sums := [], fmtf := false, ran := [] }

end Sys2Proof.Claims

/-- 18 R319 to R324: a pre-emption starts where the destination is a vacant core of the source's job, traps raised before it are
taken at the source, and every open window of the source is written; a strand whose replay runs stops at its end (08 R158); once
nothing of the source is outstanding its context is streamed; the destination then holds it whole but for its lines, executes an
abandoned operation again with zero rows (log 32) or completes it in error, and the source forwards, unless its hood refuses (22
R381). The model's choices: which core of the two keeps the state of its own stealing and sampling (log 86), that the source's
must-save declaration takes the place of the destination's (log 85), and that a forwarded record or packet changes in its
destination alone (log 87). -/
def Obligations.PreEmption : Prop :=
  (∀ (src dst : Nat) (s : State) (h g : Hood), src ≠ dst → src < 512 → dst < 512 → s.brim.st = .idle → s.hoodOf src = some h →
    s.hoodOf dst = some g → g ∈ s.hoods → g.job = h.job → h.st = .active → g.st = .active → (s.core src).fwd = none →
    (s.core src).halted = false → Vacated (s.core dst) → s.preempts = [] → (s.core src).replay = none → (s.core src).matrix.tile = none →
    (s.core src).matrix.load = none → ((s.core src).strands.all fun x => decide (x.2.fl = .none) && decide (x.2.traps = []) && decide (x.2.rest = none)) = true →
    ∃ t, exec (.preemptionStart src dst) s = .next t ∧ t.preempts = [⟨src, dst, 3, true⟩] ∧ t.mem = s.mem ∧
      (∀ c, c ≠ src → t.core c = s.core c) ∧ (∀ n, (t.strand src n).pc = (s.strand src n).pc ∧ (t.strand src n).st = (s.strand src n).st) ∧
      (∀ n, (s.strand src n).outs = [] → t.strand src n = s.strand src n) ∧
      ∀ n < 19, ∀ o d v, (s.strand src n).st ≠ .free → (s.strand src n).outs = [o] → o.acc = none → o.dst = some d → o.val = some v →
        (t.strand src n).outs = [] ∧ ∀ e, (t.strand src n).g e = if e = d then v else (s.strand src n).g e) ∧
  (∀ (src dst n : Nat) (s : State) (h : Hood) (i : TrapInfo), src ≠ dst → src < 512 → dst < 512 → s.brim.st = .idle →
    s.hoods = [h] → h.holds src = true → h.holds dst = true → h.st = .active → (s.core src).fwd = none → (s.core src).halted = false →
    Vacated (s.core dst) → s.preempts = [] → (s.core src).replay = none → (s.core src).matrix.tile = none →
    (s.core src).matrix.load = none → n < 16 → (s.core src).strands = [(n, s.strand src n)] → (s.strand src n).st = .ready →
    (s.strand src n).traps = [i] → (s.strand src n).intrap = false → (s.strand src n).held = none → (s.strand src n).outs = [] →
    (s.strand src n).fl = .none → (s.strand src n).rest = none →
    ∃ t, exec (.preemptionStart src dst) s = .next t ∧ t.preempts = [⟨src, dst, 3, true⟩] ∧ t.mem = s.mem ∧
      (t.core src).cause = i.cause ∧ (t.core src).epc = (s.strand src n).pc ∧ (t.strand src n).intrap = true ∧
      (t.strand src n).traps = [] ∧ (t.strand src n).pc = (s.core src).tvec &&& 0xFFFFFFFFFFFFFFFC#64) ∧
  (∀ (src dst : Nat) (s : State), src = dst ∨ s.hoodOf src = none ∨ (s.core src).fwd ≠ none ∨ (s.core dst).fwd ≠ none ∨
    (s.core dst).deque ≠ [] ∨ (s.core dst).copies ≠ [] ∨ (s.core dst).matrix.tile ≠ none ∨ (∃ n < 19, (s.strand dst n).st ≠ .free) ∨
    s.inHoods (s.coreJob src) dst = false → exec (.preemptionStart src dst) s = .next s) ∧
  (∀ (src dst : Nat) (redo : Bool) (s : State), s.preempts = [⟨src, dst, 3, redo⟩] →
    (Drained s src → ∃ t, exec (.preemptionStream src) s = .next t ∧ t.preempts = [⟨src, dst, 4, redo⟩] ∧ t.mem = s.mem ∧
      (∀ n, t.strand src n = s.strand src n) ∧ ∀ c, c ≠ src → t.core c = s.core c) ∧
    (∀ r, (s.core src).replay = some r → r.slot < 19 → (s.strand src r.slot).fl = .none → (s.core src).matrix.tile = none →
      (s.core src).matrix.load = none → ∃ t, exec (.preemptionStream src) s = .next t ∧ t.preempts = s.preempts ∧ t.mem = s.mem ∧
        t.strand src r.slot = s.strand src r.slot ∧ ∀ c, c ≠ src → t.core c = s.core c)) ∧
  (∀ (src dst : Nat) (redo : Bool) (s : State), s.preempts = [⟨src, dst, 4, redo⟩] → src ≠ dst → (s.core src).lines = [] →
    (s.core dst).lines = [] → (∀ x ∈ (s.core src).strands, x.2.st ≠ .waiting .trapHold) →
    (s.core src).matrix.queued = none → (∀ x ∈ (s.core src).queues, x.2.slot < 19) →
    ∃ t, exec (.preemptionResume src) s = .next t ∧ t.preempts = [] ∧ t.mem = s.mem ∧ t.core src = { Core.reset with fwd := some dst, asked := (s.core src).asked } ∧
      (∀ c, c ≠ src → c ≠ dst → t.core c = s.core c) ∧
      let k := { s.core src with lines := [], thief := (s.core dst).thief, asked := (s.core dst).asked, fwd := none,
                                 recent := (s.core dst).recent, issued := (s.core dst).issued, idle := (s.core dst).idle,
                                 refusals := (s.core dst).refusals, window := (s.core dst).window, due := (s.core dst).due,
                                 sampled := (s.core dst).sampled }
      ((s.core src).matrix.again = none → t.core dst = k) ∧
      ∀ op, (s.core src).matrix.again = some op →
        (redo = true → t.core dst = { k.zeroRows with matrix := { k.matrix with again := none, tile := some (anew op), rows := 0 } }) ∧
        (redo = false → s.split = true → op.bar = none → op.task = none → (t.core dst).matrix.tile = none ∧ (t.core dst).matrix.err = true ∧
          (t.core dst).matrix.fault = 3 ∧ t.ctrs = s.ctrs ++ [⟨op.job, .launch, op.lid.toNat, .decErr⟩])) ∧
  ∀ (id d e x : Nat) (pj : BitVec 16) (s : State) (vn : Bool) (r : Rec) (f : Flit), (s.core d).fwd = some e → (s.core e).fwd = none →
    s.mails = [⟨id, x, d, vn, r⟩] → s.packets = [⟨id, pj, x, d, f⟩] →
    (s.shut d = false →
      exec (.forward id) s = .next { s with mails := [⟨id, x, e, vn, r⟩], packets := [⟨id, pj, x, e, f⟩] }) ∧
    (s.shut d = true → exec (.forward id) s = .next s) ∧ ∀ i, i ≠ id → exec (.forward i) s = .next s

/-! ## Collectives -/

namespace Sys2Proof.Claims

/-- The only posted store outstanding is a go word of collective `c`: entry `j` of core `k`, of the strand in slot `n`. -/
def GoHeld (s : State) (k j n c : Nat) (job : BitVec 16) (gen a : Word) : Prop :=
  s.accs = [] ∧ (∃ z, s.cores = [(k, z)]) ∧ (∃ e l, (s.core k).journal = [(j, e)] ∧ e.v = true ∧ e.taken = false ∧ e.job = job ∧
    e.slot = n ∧ e.lanes = [l] ∧ l.addr = a ∧ l.v = gen.toNat) ∧ space true a = .ok (.dom s.device (480 + c) 0xFFFFFFFFF8) ∧
  (s.strand k n).st = .ready ∧ (s.strand k n).outs = []

/-- The posted store of entry `j` has failed with a cause, and raises a trap of origin 01 (18 R315). -/
def GoRefused (s t : State) (k j n : Nat) (a : Word) (cause : BitVec 6) : Prop :=
  ((t.core k).jent j).v = false ∧ ((t.core k).jent j).fail = true ∧ ((t.core k).jent j).cause = cause ∧
  (t.strand k n).traps = (s.strand k n).traps ++ [⟨0x40 ||| cause.zeroExtend 8, BitVec.ofNat 6 j, none, a, none⟩] ∧
  t.jobs = s.jobs ∧ t.mem = s.mem

/-- Width in bytes of an element of a type (16 R297): I32, I64, F32, BF16. -/
def elemWidth (ty : Nat) : Nat := if ty = 1 then 8 else if ty = 3 then 2 else 4

/-- The open generation of a collective has ended in error: an error arrival goes to its barrier (21 R368). -/
def Failed (s t : State) (job : BitVec 16) (c : Nat) (x : Coll) (code : BitVec 8) : Prop :=
  (∃ y, t.coll? job c = some y ∧ y.gen = x.gen + 1 ∧ y.gone = false) ∧ t.mem = s.mem ∧
  t.packets = s.packets ++ [⟨s.serial, job, x.bcore, x.bcore, .errArrive x.bnum code⟩]

/-- What SUM, MAX and MIN of integers of `w` bits are (16 R299). -/
def IntCombined (op w : Nat) (vs : List Nat) (r : Nat) : Prop :=
  (∀ v ∈ vs, v < 2 ^ w) ∧
  ((op = 0 ∧ r = vs.sum % 2 ^ w) ∨
   (op = 1 ∧ r ∈ vs ∧ ∀ v ∈ vs, (BitVec.ofNat w v).toInt ≤ (BitVec.ofNat w r).toInt) ∨
   (op = 2 ∧ r ∈ vs ∧ ∀ v ∈ vs, (BitVec.ofNat w r).toInt ≤ (BitVec.ofNat w v).toInt))

/-- The bytes of a vector as contributed, at element `i` (16 R297): a BF16 element is widened to F32. -/
def elemOf (x : Coll) (i : Nat) : Nat :=
  let v := number (fun m => x.buf.get (elemWidth x.ty * i + m)) (elemWidth x.ty)
  if x.ty = 3 then (fpCode .f32 .rne 0 false (fpIn .bf16 false v)).1 else v

/-- A poisoned word of the buffer lies in the vector (22 R375, R376). -/
def Spoilt (x : Coll) : Prop := ∃ w ∈ x.bufp, 8 * w < x.count * elemWidth x.ty

/-- Cycles of the unit's island since the go word came. -/
def goneFor (s : State) (c : Nat) (x : Coll) : Nat := ((s.island (20 + c % 2)).cycle - BitVec.ofNat 64 x.since).toNat

/-- The F32 sum of two codes, rounded with RNE. -/
def f32Sum (a b : Nat) : Nat := (fpCode .f32 .rne 0 false (Fp.add .rne (fpIn .f32 false a) (fpIn .f32 false b))).1

/-- The contributions of every rank but `rank` to the open generation, each of one element. -/
def OthersThere (x : Coll) (rank : Nat) (vs : List Nat) : Prop :=
  x.devs.length = vs.length ∧ rank < vs.length ∧ (∀ p ∈ x.parts, p.1 = x.gen + 1 ∧ p.2.1 ≠ rank ∧ p.2.2 ≠ none) ∧
  ∀ r < vs.length, r ≠ rank → x.parts.find? (fun p => p.1 = x.gen + 1 ∧ p.2.1 = r) = some (x.gen + 1, r, some [vs.getD r 0])

/-- An ordered collective of one element whose go word has come. -/
def OneElement (s : State) (job : BitVec 16) (c : Nat) (x : Coll) : Prop :=
  s.deaf = false ∧ s.coll? job c = some x ∧ x.broken = false ∧ x.gone = true ∧ x.arrival = false ∧ x.count = 1 ∧
  x.result.toNat % 8 = 0

/-- The last contribution completes the generation with result `r` of `w` bytes: it is written, then one arrival is sent. -/
def Completes (s : State) (i : Instr) (job : BitVec 16) (c : Nat) (x : Coll) (part : Nat × Nat × Option (List Nat)) (w r : Nat) : Prop :=
  ∀ s1 s2 u, s1 = s.modColl job c (fun x => { x with parts := x.parts ++ [part] }) → s2.jobs = s1.jobs →
    s1.writeAt (s1.party x.bcore job false) x.result (leBytes w r) false = .ok s2 u →
    ∃ t, exec i s = .next t ∧ t.mem = s2.mem ∧ t.packets = s2.packets ++ [⟨s2.serial, job, x.bcore, x.bcore, .arrive x.bnum⟩] ∧
      ∃ y, t.coll? job c = some y ∧ y.gen = x.gen + 1 ∧ y.gone = false ∧ y.parts = []

end Sys2Proof.Claims

/-- 16 R298, R299, 21 R367 to R369, 22 R376: a go word of the next generation contributes what the unit's buffer holds, any
other is refused with GENREF, one without a definition with WINDENY; the last contribution of a generation writes the
combined result, the sum, maximum or minimum of integers and the ordered tree of F32 sums, and sends one arrival; a late
contribution is dropped, a poisoned one, and poison in the unit's own buffer, end the generation in error; a loss notice and
2^24 cycles without the rest of the contributions break the collective. The model's choices: a second go word of the open
generation is refused with GENREF (log 81), a contribution of no data stands for poison (log 83), and bytes of the buffer
that nothing has written read as zero (log 101). -/
def Obligations.Collectives : Prop :=
  (∀ (s : State) (k j n : Nat) (c : Fin 32) (job : BitVec 16) (gen a : Word), j < 64 → GoHeld s k j n c.val job gen a →
    (s.coll? job c.val = none → ∃ t, exec (.goWord job c gen) s = .next t ∧ GoRefused s t k j n a 0xF) ∧
    ∀ x, s.coll? job c.val = some x →
      (gen.toNat ≠ x.gen + 1 ∨ x.gone = true → ∃ t, exec (.goWord job c gen) s = .next t ∧ GoRefused s t k j n a 0x2A) ∧
      (gen.toNat = x.gen + 1 → x.gone = false → x.broken = true → ∃ t, exec (.goWord job c gen) s = .next t ∧
        Failed s t job c.val x 6 ∧ ((t.core k).jent j).v = false ∧ ((t.core k).jent j).fail = false) ∧
      (gen.toNat = x.gen + 1 → x.gone = false → x.broken = false → x.parts = [] → x.arrival = false → x.rank < x.devs.length →
        ∃ t, exec (.goWord job c gen) s = .next t ∧ ((t.core k).jent j).v = false ∧ ((t.core k).jent j).fail = false ∧
          (Spoilt x → Failed s t job c.val x 0x68 ∧
            t.sent = sentWith s (.contribution job c.val x.rank (x.gen + 1) [])) ∧
          (¬ Spoilt x → 2 ≤ x.devs.length → t.mem = s.mem ∧ t.packets = s.packets ∧
            ∃ d : List Nat, d.length = x.count ∧ t.sent = sentWith s (.contribution job c.val x.rank (x.gen + 1) d) ∧
              (∀ i < x.count, d.getD i 0 = elemOf x i) ∧
              (x.ty = 3 → ∀ i < x.count, 0x7F80 < number (fun m => x.buf.get (2 * i + m)) 2 % 2 ^ 15 → d.getD i 0 = 0x7FC00000) ∧
              t.coll? job c.val = some { x with gone := true, since := (s.island (20 + c.val % 2)).cycle.toNat, parts := [(x.gen + 1, x.rank, some d)] }))) ∧
  (∀ (s : State) (job : BitVec 16) (c : Fin 32) (x : Coll) (rank r : Nat) (vs : List Nat), OneElement s job c.val x → rank ≠ x.rank →
    OthersThere x rank vs → x.ty ≤ 1 → IntCombined x.op (8 * elemWidth x.ty) vs r →
    Completes s (.collectiveContribution job c rank (x.gen + 1) (leBytes (elemWidth x.ty) (vs.getD rank 0))) job c.val x
      (x.gen + 1, rank, some [vs.getD rank 0]) (elemWidth x.ty) r) ∧
  (∀ (s : State) (job : BitVec 16) (c : Fin 32) (x : Coll) (rank a b d e : Nat), OneElement s job c.val x → rank ≠ x.rank →
    OthersThere x rank [a, b, d, e] → (∀ v ∈ [a, b, d, e], v < 2 ^ 32) → x.op = 0 → (x.ty = 2 ∨ x.ty = 3) →
    Completes s (.collectiveContribution job c rank (x.gen + 1) (leBytes 4 ([a, b, d, e].getD rank 0))) job c.val x
      (x.gen + 1, rank, some [[a, b, d, e].getD rank 0]) 4 (f32Sum (f32Sum a b) (f32Sum d e))) ∧
  (∀ (s : State) (job : BitVec 16) (c : Fin 32) (x : Coll) (rank gen : Nat) (data : List Byte), s.coll? job c.val = some x →
    (x.broken = true ∨ gen ≤ x.gen ∨ x.devs.length ≤ rank ∨ rank = x.rank →
      exec (.collectiveContribution job c rank gen data) s = .next s) ∧
    (s.deaf = false → x.broken = false → x.gone = true → x.arrival = false → x.parts.any (fun p => p.1 = x.gen + 1 ∧ p.2.1 = rank) = false →
      rank < x.devs.length → rank ≠ x.rank →
      ∃ t, exec (.collectiveContribution job c rank (x.gen + 1) []) s = .next t ∧ Failed s t job c.val x 0x68)) ∧
  ∀ (s : State) (job : BitVec 16) (c : Fin 32) (x : Coll) (rank : Nat), s.coll? job c.val = some x →
    (x.broken = true → exec (.lossNotice job c rank) s = .next s ∧ exec (.collectiveTimeout job c) s = .next s) ∧
    (x.gone = false ∨ goneFor s c.val x < 2 ^ 24 → exec (.collectiveTimeout job c) s = .next s) ∧
    (x.broken = false → s.deaf = false → ∃ t, exec (.lossNotice job c rank) s = .next t ∧ Failed s t job c.val x 6 ∧
      (t.coll? job c.val).map (·.broken) = some true) ∧
    (x.broken = false → x.gone = true → 2 ^ 24 ≤ goneFor s c.val x → ∃ t, exec (.collectiveTimeout job c) s = .next t ∧ Failed s t job c.val x 6 ∧
      (t.coll? job c.val).map (·.broken) = some true)

/-! ## The platform -/

namespace Sys2Proof.Claims

/-- An event has been logged, in a log that is not full (17 R304). -/
def Logged (m n : Milliner) (code island : Nat) (data : List Byte) : Prop :=
  n.log = m.log ++ [⟨n.time, code, island, data⟩]

/-- The clock of an island after a sample of temperature `t`, in eighths of a degree (17 R302). -/
def clockAfter (mhz set t : Nat) : Nat :=
  if t ≥ 100 * 8 then max 600 (mhz - 100) else if t < 95 * 8 then min set (mhz + 100) else mhz

/-- A reading as DATA holds it, in the model's order (log entry 116). -/
def readingData (r : Reading) : List Byte := leBytes 4 r.temp ++ leBytes 4 r.volt ++ leBytes 4 r.current ++ leBytes 4 r.power

/-- 16 zero bytes but for what stands first. -/
def sixteen (bs : List Byte) : List Byte := bs ++ List.replicate (16 - bs.length) 0

/-- Word `i` of the save store from an address. -/
def storeWord (m : Memory) (a i : Nat) : Word := BitVec.ofNat 64 (number (fun j => m.get (a + 8 * i + j)) 8)

/-- The header at `a` is the one that the entry `e` of a directory of generation `g` names (23 R397). -/
def HeaderOf (m : Memory) (g : Nat) (e : Word) (a : Nat) : Prop :=
  field (storeWord m a 0) 0 32 = 0x4D495242 ∧ field (storeWord m a 0) 32 16 = g ∧ field (storeWord m a 0) 48 2 = field e 21 2 ∧
  field (storeWord m a 1) 32 16 = field e 32 16 ∧ field (storeWord m a 1) 0 16 = field e 48 16

/-- The trailer `len` bytes after the header's end has its MAGIC, GEN, ID and the data's CRC (23 R396, R397). -/
def TrailerOf (m : Memory) (g a len : Nat) : Prop :=
  let t := a + 64 + len
  field (storeWord m t 0) 0 32 = 0x4C494154 ∧ field (storeWord m t 0) 32 16 = g ∧ storeWord m t 1 = storeWord m a 1 ∧
  field (storeWord m t 2) 0 32 = (crc32c ((List.range len).map fun j => m.get (a + 64 + j))).toNat

/-- A slot that the boot ROM considers (17 R305). -/
def Candidate (x : FwSlot) : Prop := x.verified = true ∨ x.staged = true

/-- Nothing keeps the part from starting. -/
def MayStart (s : State) : Prop := s.milliner.hot = false ∧ (s.milliner.up = false ∨ s.brim.st = .off)

end Sys2Proof.Claims

/-- 17 R300 to R302, R304 to R306, 23 R397, R398: clocks change by 100 MHz from 600 to 1600; a droop is counted and logged;
every 10 us each island is sampled, its clock lowered at 100 degrees and raised below 95, and 110 degrees trip the part; an
image is staged or erased; at a boot the higher of two candidates runs where it verifies, else the other, it and the
microcode are measured, nothing survives but the save store, whose directory is classified. A droop counts and a trip is
recorded during a brim sequence too. That temperatures are read in eighths of a degree, what DATA holds for codes 1, 3, 5, 6
and 7, what DRAM reads as after a boot and that the Milliner's time is zero then are the model's (log entries 88, 116, 1, 2).
-/
def Obligations.Platform : Prop :=
  (∀ (i : Fin 24) (m : Nat) (s : State),
    (s.deaf = false → (∃ k, 6 ≤ k ∧ k ≤ 16 ∧ m = 100 * k) → ∃ t, exec (.clockChange i m) s = .next t ∧
      t.island i.val = { s.island i.val with set := m, mhz := m } ∧ (∀ j, j ≠ i.val → t.island j = s.island j) ∧ t.cores = s.cores ∧ t.mem = s.mem) ∧
    ((¬∃ k, 6 ≤ k ∧ k ≤ 16 ∧ m = 100 * k) → exec (.clockChange i m) s = .next s) ∧
    (s.brim.st ≠ .off → (s.island i.val).droop = false → s.milliner.log.length < 131072 → ∃ t, exec (.droop i) s = .next t ∧
      t.island i.val = { s.island i.val with droop := true, droops := (s.island i.val).droops + 1 } ∧ t.cores = s.cores ∧ t.mem = s.mem ∧
      (∀ j, j ≠ i.val → t.island j = s.island j) ∧ Logged s.milliner t.milliner 1 i.val (readingData (s.island i.val).last) ∧ t.milliner.time = s.milliner.time) ∧
    ∃ t, exec (.droopRecovery i) s = .next t ∧ t.island i.val = { s.island i.val with droop := false } ∧ t.cores = s.cores ∧ t.mem = s.mem ∧
      ∀ j, j ≠ i.val → t.island j = s.island j) ∧
  (∀ (rs : List Reading) (s : State), rs.length = 24 →
    (s.deaf = false → (∀ r ∈ rs, r.temp < 110 * 8) → ∃ t, exec (.millinerSample rs) s = .next t ∧
      t.milliner.time = s.milliner.time + 10 ∧ t.cores = s.cores ∧ t.mem = s.mem ∧ t.brim = s.brim ∧
      ∀ i < 24, ∀ r, rs[i]? = some r → t.island i = { s.island i with last := r, mhz := clockAfter (s.island i).mhz (s.island i).set r.temp }) ∧
    (s.milliner.hot = true → (∀ r ∈ rs, r.temp < 90 * 8) → ∃ t, exec (.millinerSample rs) s = .next t ∧ t.milliner.hot = false ∧
      ∀ i < 24, (t.island i).mhz = (s.island i).mhz) ∧
    (s.milliner.hot = true → (∃ r ∈ rs, 90 * 8 ≤ r.temp) → ∃ t, exec (.millinerSample rs) s = .next t ∧ t.milliner.hot = true) ∧
    (s.milliner.hot = false → s.brim.st = .idle → (∃ r ∈ rs, 110 * 8 ≤ r.temp) → ∃ t, exec (.millinerSample rs) s = .next t ∧
      t.milliner.hot = true ∧ t.brim.st = .phaseA ∧ t.brim.thermal = true ∧ t.mem = s.mem ∧
      ∀ i < 24, (t.island i).set = 600 ∧ (t.island i).mhz = 600) ∧
    (s.milliner.hot = false → s.brim.st ≠ .idle → s.milliner.log.length < 131072 → ∀ i < 24, (∀ r, rs[i]? = some r → 110 * 8 ≤ r.temp) →
      (∀ j < i, ∀ r, rs[j]? = some r → r.temp < 110 * 8) → ∃ t, exec (.millinerSample rs) s = .next t ∧ t.milliner.hot = true ∧
      t.brim = s.brim ∧ Logged s.milliner t.milliner 3 i (readingData (rs.getD i ⟨0, 0, 0, 0⟩)))) ∧
  (∀ (img sig : List Byte) (v : Nat) (s : State), s.milliner.runB = false → s.milliner.log.length < 131072 → v < 2 ^ 64 →
    ∃ t, exec (.firmwareStage img sig v) s = .next t ∧ t.milliner.slotA = s.milliner.slotA ∧ t.mem = s.mem ∧ t.cores = s.cores ∧
      (s.deaf = true → t.milliner.slotB = some ⟨img, sig, v, false, false⟩ ∧ t.milliner.log = s.milliner.log) ∧
      (s.deaf = false → if Config.firmwareVerifies (sha256 img) sig = true ∧ s.milliner.minVer ≤ v then
          t.milliner.slotB = some ⟨img, sig, v, true, true⟩ ∧ Logged s.milliner t.milliner 6 0xFF (sixteen (leBytes 8 v))
        else t.milliner.slotB = none ∧ Logged s.milliner t.milliner 7 0xFF (sixteen (leBytes 8 v)))) ∧
  (∀ (mc : List (List Byte)) (s : State), ¬MayStart s → exec (.boot mc) s = .next s) ∧
  (∀ (m1 m2 : List Byte) (s : State) (a b : FwSlot), MayStart s → s.milliner.slotA = some a → s.milliner.slotB = some b → Candidate a →
    Candidate b → a.version < b.version → s.milliner.log.length < 131071 → ∃ t, exec (.boot [m1, m2]) s = .next t ∧
      t.milliner.up = true ∧ t.milliner.time = 0 ∧ t.cores = [] ∧ t.jobs = [] ∧ t.hoods = [] ∧ t.islands = [] ∧ t.brim.st = .idle ∧
      t.brim.gen = s.brim.gen ∧
      (∀ x, t.mem.get x = if 0x8000000000 ≤ x ∧ x ≤ 0x8007FFFFFF then s.mem.get x else Memory.unlisted) ∧
      t.milliner.mr1 = sha256 (sha256 (List.replicate 32 0 ++ sha256 m1) ++ sha256 m2) ∧
      if Config.firmwareVerifies (sha256 b.image) b.sig = true then
        t.milliner.runB = true ∧ t.milliner.mr0 = sha256 (List.replicate 32 0 ++ sha256 b.image) ∧
        Logged s.milliner t.milliner 5 0xFF (sixteen (leBytes 8 b.version))
      else t.milliner.runB = false ∧ t.milliner.mr0 = sha256 (List.replicate 32 0 ++ sha256 a.image) ∧
        t.milliner.log.map (·.code) = s.milliner.log.map (·.code) ++ [8, 5]) ∧
  ∀ (mc : List (List Byte)) (s : State), MayStart s → s.pois = [] →
    (field (storeWord s.mem 0x8000000000 0) 0 32 ≠ 0x52494442 → field (storeWord s.mem 0x8004000000 0) 0 32 ≠ 0x52494442 →
      ∃ t, exec (.boot mc) s = .next t ∧ t.brim.dir = none ∧ t.brim.items = []) ∧
    (field (storeWord s.mem 0x8000000000 0) 0 32 = 0x52494442 → field (storeWord s.mem 0x8000000000 1) 0 16 = 1 →
      ∃ t, exec (.boot mc) s = .next t ∧ ∃ x, t.brim.items = [x] ∧
        let d := storeWord s.mem 0x8000000000 0
        let e := storeWord s.mem 0x8000000000 8
        let a := 0x8000000000 + 64 * field e 0 21
        let len := field (storeWord s.mem a 3) 0 17
        t.brim.dir = some (BitVec.ofNat 16 (field d 32 16), BitVec.ofNat 2 (field d 48 2), d.getLsbD 50) ∧
        x.job.toNat = field e 48 16 ∧ (x.set = true ↔ field e 21 2 = 1) ∧
        (¬HeaderOf s.mem (field d 32 16) e a → x.cls = 2 ∧ x.owner = none) ∧
        (HeaderOf s.mem (field d 32 16) e a → x.owner = some ((List.range 16).map fun j => s.mem.get (a + 32 + j)) ∧
          (a + 128 + len ≤ 0x8008000000 → (TrailerOf s.mem (field d 32 16) a len → x.cls = 0) ∧ (¬TrailerOf s.mem (field d 32 16) a len → x.cls = 1))))

/-! ## The brim sequence -/

namespace Sys2Proof.Claims

/-- The generation that the next save writes (23 R395). -/
def genAfter (s : State) : Nat := if s.brim.gen.toNat = 65535 then 1 else s.brim.gen.toNat + 1

/-- The part has seen the loss of its supply (23 R388): clocks, the front ends, the log, the cause. -/
def Detected (s t : State) (thermal : Bool) : Prop :=
  t.brim.st = .phaseA ∧ t.brim.thermal = thermal ∧ t.brim.gen = s.brim.gen ∧ t.mem = s.mem ∧
  (∀ i < 24, (t.island i).mhz = 600 ∧ (t.island i).set = 600 ∧ (t.island i).droop = false) ∧
  t.milliner.hot = (s.milliner.hot || thermal) ∧ t.milliner.log = s.milliner.log ++
    (if thermal = true ∧ s.milliner.hot = false then [⟨s.milliner.time, 3, 0xFF, sixteen []⟩] else []) ++
    [⟨s.milliner.time, 4, 0xFF, sixteen (leBytes 2 (genAfter s))⟩]

/-- The one item of a save, at the first place of the F0 half, and both directories (23 R395, R396): a set of `len` bytes `d`
declared on core `c` of job `j` from `va` by strand `id`. -/
def SavedSet (s t : State) (c len va id : Nat) (j : BitVec 16) (d : List Byte) : Prop :=
  let m := t.mem
  let a := 0x8000010000
  let ident := BitVec.ofNat 64 (j.toNat + 2 ^ 16 * c + 2 ^ 48)
  (∀ b ∈ [0x8000000000, 0x8004000000],
    storeWord m b 0 = BitVec.ofNat 64 (0x52494442 + 2 ^ 32 * genAfter s + 2 ^ 48 * (if s.brim.thermal then 2 else 1) + 2 ^ 50) ∧
    storeWord m b 1 = 1 ∧ (∀ i, 2 ≤ i → i < 8 → storeWord m b i = 0) ∧
    storeWord m b 8 = BitVec.ofNat 64 (0x400 + 2 ^ 21 + 2 ^ 23 * c + 2 ^ 48 * j.toNat)) ∧
  storeWord m a 0 = BitVec.ofNat 64 (0x4D495242 + 2 ^ 32 * genAfter s + 2 ^ 48) ∧ storeWord m a 1 = ident ∧
  storeWord m a 2 = BitVec.ofNat 64 va ∧ storeWord m a 3 = BitVec.ofNat 64 len ∧
  (∀ i < 16, ∀ key, (s.job? j).map (·.key) = some key → m.get (a + 32 + i) = (sha256 key).getD i 0) ∧
  storeWord m a 6 = BitVec.ofNat 64 id ∧ storeWord m a 7 = 0 ∧ (∀ i < len, m.get (a + 64 + i) = d.getD i 0) ∧
  storeWord m (a + 64 + len) 0 = BitVec.ofNat 64 (0x4C494154 + 2 ^ 32 * genAfter s) ∧ storeWord m (a + 64 + len) 1 = ident ∧
  storeWord m (a + 64 + len) 2 = BitVec.ofNat 64 (crc32c d).toNat ∧ ∀ i, 3 ≤ i → i < 8 → storeWord m (a + 64 + len) i = 0

end Sys2Proof.Claims

/-- 23 R388, R392, R394 to R396, R399: a supply loss lowers every clock, discards commands held, is logged with the
generation to come (a trip also as such, and holds the part hot), stops the engines with PREEMPTED and raises PFAIL for a
declaring strand; at the end of Phase A every strand stops, stores within the package are performed, those to windows
discarded, dirty IP bytes are written back; Phase B writes directory, header, data and trailer of a set, or nothing at all.
The model's choices: the log's entry of a trip that is no island's has island 0xFF and zero DATA (log 88); OWNER is the
SHA-256 of the job's key (log 16). -/
def Obligations.BrimSequence : Prop :=
  (∀ (b : Bool) (s : State), s.brim.st ≠ .idle → (b = true → s.milliner.hot = true) → exec (.supplyLoss b) s = .next s) ∧
  (∀ s : State, s.brim.st ≠ .idle → s.milliner.hot = false → s.milliner.log.length < 131072 → exec (.supplyLoss true) s = .next
    { s with milliner := { s.milliner with hot := true, log := s.milliner.log ++ [⟨s.milliner.time, 3, 0xFF, sixteen []⟩] } }) ∧
  (∀ (b : Bool) (s : State) (c : Nat), s.brim.st = .idle → s.preempts = [] → s.milliner.log.length < 131071 →
    (∃ k, s.cores = [(c, k)]) →
    ((s.core c).matrix.tile = none → (s.core c).matrix.load = none → ∃ t, exec (.supplyLoss b) s = .next t ∧ Detected s t b ∧
      (∀ j, t.job? j = (s.job? j).map fun x => { x with pending := [], replaying := none }) ∧
      ((s.core c).declarer = none → t.core c = s.core c) ∧
      ∀ id n, (s.core c).declarer = some id → n < 19 → (s.strand c n).strid = id → (s.strand c n).job = s.coreJob c →
        (s.strand c n).st = .ready → s.moves = [] → (∀ m, m ≠ n → (s.strand c m).strid ≠ id) →
        t.strand c n = { s.strand c n with traps := (s.strand c n).traps ++ [⟨0xF0, 0, none, 0, none⟩] } ∧
        ∀ m, m ≠ n → t.strand c m = s.strand c m) ∧
    (∀ op d nb, (s.core c).matrix.load = none → (s.core c).matrix.tile = some op → (s.core c).declarer = none → op.fault = none →
      op.passed < op.m → op.next < op.m → op.ran = [] → op.bar = some (d, nb) → op.task = none → s.split = true →
      ∃ t, exec (.supplyLoss b) s = .next t ∧ Detected s t b ∧ (t.core c).matrix.tile = none ∧ (t.core c).matrix.err = true ∧
        (t.core c).matrix.fault = 3 ∧ t.packets = s.packets ++ [⟨s.serial, op.job, c, d, .errArrive nb 3⟩]) ∧
    (∀ l, (s.core c).matrix.load = some l → (s.core c).matrix.tile = none → (s.core c).declarer = none →
      ∃ t, exec (.supplyLoss b) s = .next t ∧ Detected s t b ∧ (t.core c).matrix.load = none ∧ (t.core c).matrix.res = none ∧
        (t.core c).matrix.fault = 3)) ∧
  (∀ s : State, s.brim.st ≠ .phaseA → exec .phaseAEnd s = .next s) ∧
  (∀ (s : State) (c : Nat), s.brim.st = .phaseA → s.accs = [] → s.waits = [] → s.preempts = [] → (∃ k, s.cores = [(c, k)]) →
    ((s.core c).lines = [] → (s.core c).journal = [] → ∃ t, exec .phaseAEnd s = .next t ∧ t.brim.st = .drained ∧ t.mem = s.mem ∧
      ∀ n, ((s.strand c n).st ≠ .free → (t.strand c n).st = .stopped) ∧ (t.strand c n).pc = (s.strand c n).pc ∧
        ((s.strand c n).outs = [] → (t.strand c n).regs = (s.strand c n).regs)) ∧
    (∀ e l off, (s.core c).lines = [] → (s.core c).journal = [(0, e)] → e.v = true → e.lanes = [l] → l.pa = none → (s.core c).fwd = none →
      space true l.addr = .ok (.pkg c off) → (s.core c).scratchOk off l.n = true → ∃ t, exec .phaseAEnd s = .next t ∧
        t.brim.st = .drained ∧ ((t.core c).jent 0).v = false ∧ t.mem = s.mem ∧
        (∀ j < l.n, (t.core c).scratch.get (off + j) = BitVec.ofNat 8 (l.v / 256 ^ j)) ∧
        ∀ x, ¬(off ≤ x ∧ x < off + l.n) → (t.core c).scratch.get x = (s.core c).scratch.get x) ∧
    (∀ e l i off, (s.core c).lines = [] → (s.core c).journal = [(0, e)] → e.v = true → e.lanes = [l] → l.pa = none →
      space true l.addr = .ok (.host i off) → ∃ t, exec .phaseAEnd s = .next t ∧ t.brim.st = .drained ∧ ((t.core c).jent 0).v = false ∧
        t.mem = s.mem ∧ t.sent = s.sent ∧ (t.core c).scratch = (s.core c).scratch) ∧
    (∀ l, (s.core c).lines = [l] → (s.core c).journal = [] → l.ty = .ip → ∃ t, exec .phaseAEnd s = .next t ∧ t.brim.st = .drained ∧
      t.priv = [] ∧ (∀ j, j < 128 → l.dirty.getLsbD j = true → t.mem.get (l.frame + l.va % 0x10000 + j) = l.data.getD j 0) ∧
      ∀ x, ¬(∃ j, j < 128 ∧ l.dirty.getLsbD j = true ∧ x = l.frame + l.va % 0x10000 + j) → t.mem.get x = s.mem.get x)) ∧
  (∀ (room : Nat) (s : State), s.brim.st ≠ .drained → exec (.phaseB room) s = .next s) ∧
  (∀ (room : Nat) (s : State), s.brim.st = .drained → (∀ x ∈ s.jobs, x.2.log = []) → (∀ x ∈ s.cores, (s.core x.1).mslen = 0) →
    exec (.phaseB room) s = .next { s with brim := { s.brim with st := .off } }) ∧
  ∀ (room c : Nat) (s : State) (d : List Byte), s.brim.st = .drained → (∀ x ∈ s.jobs, x.2.log = []) → (∃ k, s.cores = [(c, k)]) → c < 512 →
    (s.core c).mslen.toNat ≠ 0 → (s.core c).mslen.toNat % 64 = 0 → (s.core c).mslen.toNat ≤ 0x10000 →
    (s.core c).mslen.toNat + 128 ≤ 64 * room → d.length = (s.core c).mslen.toNat →
    s.saveRead c (s.coreJob c) 3 (s.core c).msbase.toNat (s.core c).mslen.toNat = some (d, []) →
    ∃ t, exec (.phaseB room) s = .next t ∧ t.brim.st = .off ∧ t.brim.gen.toNat = genAfter s ∧
      SavedSet s t c d.length (s.core c).msbase.toNat ((s.core c).declarer.getD 0).toNat (s.coreJob c) d ∧
      (∀ x, x < 0x8000000000 ∨ 0x8008000000 ≤ x → t.mem.get x = s.mem.get x) ∧ t.cores = s.cores ∧ t.jobs = s.jobs

/-! ## Reset and the memories' form -/

/-- 09 R184 to R188, 03 R47, 17 R300, 22 R382, 07 R140: what reset leaves in every core's control registers, banks, barriers,
journal and queues, in the weavers' ring registers, in the wale arrays and in the islands; a new strand's STATUS, PRIO and
ROLE. Log entry 2 names what no rule gives, log entry 1 what memory reads as. -/
def Obligations.ResetValues : Prop :=
  (∀ c : Nat, let k := State.reset.core c
    k.cause = 0 ∧ k.epc = 0 ∧ k.faddr = 0 ∧ k.agewin = 256 ∧ k.tags = 0 ∧ k.usc = 0 ∧ k.msbase = 0 ∧ k.mslen = 0 ∧
    k.stageasn = 0 ∧ k.tvec = 0 ∧ k.sscr = 0 ∧ k.lines = [] ∧ k.copies = [] ∧ k.deque = [] ∧ k.fwd = none ∧ k.matrix.res = none ∧
    (∀ b, k.bank b = .scratch) ∧ (∀ x, k.scratch.get x = 0) ∧ (∀ b, k.bar b = ⟨0, 0, 0, false, 0, []⟩) ∧ (∀ q, k.queue q = none) ∧
    ∀ n, (k.strand n).st = .free ∧ (k.strand n).sup = false ∧ (k.strand n).intrap = false ∧ (k.strand n).prio = 3 ∧
      (k.strand n).role = 0 ∧ (k.strand n).regs.srseed = 0) ∧
  (∀ i, (State.reset.island i).set = 1600 ∧ (State.reset.island i).mhz = 1600 ∧ (State.reset.island i).cycle = 0) ∧
  (∀ d n, (State.reset.weaver d).rings.look n 0 = 0) ∧ (∀ i, (State.reset.wale i).gen = 0 ∧ (State.reset.wale i).st = .free) ∧
  ∀ x, State.reset.mem.get x = Memory.unlisted

/-- The memories of the part are in canonical form after reset. -/
def Obligations.ResetMemories : Prop := State.reset.MemoriesWf

/-- The canonical form of the memories is kept by every step: whatever an instruction or an event does, equal contents of DRAM,
save store and local scratch stay equal data. -/
def Obligations.StepKeepsMemories : Prop := ∀ s t : State, s.MemoriesWf → step s = .next t → t.MemoriesWf
end

