-- ==== Sys2Proof/Laws/Memory.lean ====
section
/-!
SUPPORT. Sparse tables and memory: read after write, and that every memory operation keeps the canonical form.
-/

namespace Sys2Proof

/-! Tables. -/

@[simp] theorem Tab.look_nil {α : Type} (k : Nat) (d : α) : Tab.look ([] : Tab α) k d = d := rfl

theorem Tab.look_cons {α : Type} (x : Nat × α) (t : Tab α) (k : Nat) (d : α) :
    Tab.look (x :: t) k d = if x.1 = k then x.2 else Tab.look t k d := by
  obtain ⟨k', v⟩ := x
  rfl

theorem Tab.put_cons {α : Type} (x : Nat × α) (t : Tab α) (k : Nat) (v : α) :
    Tab.put (x :: t) k v =
      if x.1 = k then (k, v) :: t else if k < x.1 then (k, v) :: x :: t else x :: Tab.put t k v := by
  obtain ⟨k', v'⟩ := x
  rfl

theorem Tab.del_cons {α : Type} (x : Nat × α) (t : Tab α) (k : Nat) :
    Tab.del (x :: t) k = if x.1 = k then Tab.del t k else x :: Tab.del t k := by
  obtain ⟨k', v'⟩ := x
  rfl

/-- A key that was put reads as what was put. -/
@[simp] theorem Tab.look_put_same {α : Type} (t : Tab α) (k : Nat) (v d : α) : (t.put k v).look k d = v := by
  induction t with
  | nil => simp [Tab.put, Tab.look]
  | cons x t ih =>
    rw [Tab.put_cons]
    split
    · simp [Tab.look]
    · split
      · simp [Tab.look]
      · rw [Tab.look_cons, if_neg ‹_›, ih]

/-- Every other key reads as before. -/
theorem Tab.look_put_ne {α : Type} (t : Tab α) {k k' : Nat} (v d : α) (h : k' ≠ k) :
    (t.put k v).look k' d = t.look k' d := by
  induction t with
  | nil => simp [Tab.put, Tab.look, Ne.symm h]
  | cons x t ih =>
    rw [Tab.put_cons]
    split
    · rename_i hx
      rw [Tab.look_cons, Tab.look_cons, if_neg (Ne.symm h), if_neg (by rw [hx]; exact Ne.symm h)]
    · split
      · rw [Tab.look_cons, if_neg (Ne.symm h)]
      · rw [Tab.look_cons, Tab.look_cons, ih]

theorem Tab.look_put {α : Type} (t : Tab α) (k k' : Nat) (v d : α) :
    (t.put k v).look k' d = if k' = k then v else t.look k' d := by
  split
  · subst k'
    exact Tab.look_put_same ..
  · exact Tab.look_put_ne _ _ _ ‹_›

@[simp] theorem Tab.look_del_same {α : Type} (t : Tab α) (k : Nat) (d : α) : (t.del k).look k d = d := by
  induction t with
  | nil => rfl
  | cons x t ih =>
    rw [Tab.del_cons]
    split
    · exact ih
    · rw [Tab.look_cons, if_neg ‹_›, ih]

theorem Tab.look_del_ne {α : Type} (t : Tab α) {k k' : Nat} (d : α) (h : k' ≠ k) :
    (t.del k).look k' d = t.look k' d := by
  induction t with
  | nil => rfl
  | cons x t ih =>
    rw [Tab.del_cons]
    split
    · rename_i hx
      rw [Tab.look_cons, if_neg (by rw [hx]; exact Ne.symm h), ih]
    · rw [Tab.look_cons, Tab.look_cons, ih]

theorem Tab.look_set {α : Type} [DecidableEq α] (t : Tab α) (k k' : Nat) (v d : α) :
    (t.set k v d).look k' d = if k' = k then v else t.look k' d := by
  unfold Tab.set
  split
  · split
    · subst k'
      simp [*]
    · exact Tab.look_del_ne _ _ ‹_›
  · exact Tab.look_put ..

/-- Putting twice at a key is putting the second. -/
@[simp] theorem Tab.put_put {α : Type} (t : Tab α) (k : Nat) (v w : α) : (t.put k v).put k w = t.put k w := by
  induction t with
  | nil => simp [Tab.put]
  | cons x t ih =>
    rw [Tab.put_cons, Tab.put_cons x t k w]
    split
    · simp [Tab.put]
    · split
      · simp [Tab.put]
      · rw [Tab.put_cons, if_neg ‹_›, if_neg ‹_›, ih]

/-! Keys rise. -/

/-- The keys of a table rise. -/
def Tab.rising {α : Type} (t : Tab α) : Prop := t.Pairwise fun x y => x.1 < y.1

theorem Tab.mem_put {α : Type} {t : Tab α} {k : Nat} {v : α} {y : Nat × α} (h : y ∈ t.put k v) :
    y = (k, v) ∨ y ∈ t := by
  induction t with
  | nil => simpa [Tab.put] using h
  | cons x t ih =>
    rw [Tab.put_cons] at h
    split at h
    · rcases List.mem_cons.1 h with h | h
      · exact .inl h
      · exact .inr (List.mem_cons_of_mem _ h)
    · split at h
      · rcases List.mem_cons.1 h with h | h
        · exact .inl h
        · exact .inr h
      · rcases List.mem_cons.1 h with h | h
        · exact .inr (h ▸ List.mem_cons_self ..)
        · exact (ih h).imp id (List.mem_cons_of_mem _)

theorem Tab.rising_put {α : Type} {t : Tab α} (h : t.rising) (k : Nat) (v : α) : (t.put k v).rising := by
  induction t with
  | nil => simp [Tab.put, Tab.rising]
  | cons x t ih =>
    have ⟨h1, h2⟩ := List.pairwise_cons.1 h
    rw [Tab.put_cons]
    split
    · rename_i hx
      exact List.pairwise_cons.2 ⟨fun y hy => hx ▸ h1 y hy, h2⟩
    · split
      · rename_i hlt
        refine List.pairwise_cons.2 ⟨fun y hy => ?_, h⟩
        rcases List.mem_cons.1 hy with hy | hy
        · exact hy ▸ hlt
        · exact lt_trans hlt (h1 y hy)
      · rename_i hne hnlt
        refine List.pairwise_cons.2 ⟨fun y hy => ?_, ih h2⟩
        rcases Tab.mem_put hy with hy | hy
        · subst hy
          exact lt_of_le_of_ne (not_lt.1 hnlt) hne
        · exact h1 y hy

theorem Tab.del_sublist {α : Type} (t : Tab α) (k : Nat) : List.Sublist (t.del k) t := by
  induction t with
  | nil => exact List.Sublist.refl _
  | cons x t ih =>
    rw [Tab.del_cons]
    split
    · exact ih.cons _
    · exact ih.cons_cons _

theorem Tab.rising_del {α : Type} {t : Tab α} (h : t.rising) (k : Nat) : (t.del k).rising :=
  List.Pairwise.sublist (t.del_sublist k) h

namespace Machine

/-! The canonical form. -/

theorem Memory.wf_iff (m : Memory) : m.wf = true ↔ (∀ x ∈ m, x.2 ≠ Memory.unlisted) ∧ Tab.rising m := by
  induction m with
  | nil => simp [Memory.wf, Tab.rising]
  | cons x m ih =>
    obtain ⟨a, b⟩ := x
    cases m with
    | nil => simp [Memory.wf, Tab.rising]
    | cons y m =>
      obtain ⟨a', b'⟩ := y
      have hw : Memory.wf ((a, b) :: (a', b') :: m) =
          (decide (b ≠ Memory.unlisted) && decide (a < a') && Memory.wf ((a', b') :: m)) := rfl
      rw [hw]
      simp only [Bool.and_eq_true, decide_eq_true_eq, ih, Tab.rising, List.pairwise_cons, List.forall_mem_cons]
      constructor
      · rintro ⟨⟨hb, hlt⟩, hn, hp, hr⟩
        exact ⟨⟨hb, hn⟩, ⟨hlt, fun z hz => lt_trans hlt (hp z hz)⟩, hp, hr⟩
      · rintro ⟨⟨hb, hn⟩, ⟨hlt, -⟩, hp, hr⟩
        exact ⟨⟨hb, hlt⟩, hn, hp, hr⟩

/-- Writing one byte keeps the canonical form. -/
theorem Memory.wf_put {m : Memory} (h : m.wf = true) (a : Nat) (b : Byte) : (m.put a b).wf = true := by
  rw [Memory.wf_iff] at h ⊢
  unfold Memory.put Tab.set
  split
  · exact ⟨fun x hx => h.1 x ((Tab.del_sublist m a).subset hx), Tab.rising_del h.2 a⟩
  · refine ⟨fun x hx => ?_, Tab.rising_put h.2 a b⟩
    rcases Tab.mem_put hx with hx | hx
    · rwa [hx]
    · exact h.1 x hx

/-- Writing bytes keeps the canonical form. -/
theorem Memory.wf_putBytes {m : Memory} (h : m.wf = true) (a : Nat) (bs : List Byte) :
    (m.putBytes a bs).wf = true := by
  induction bs generalizing m a with
  | nil => exact h
  | cons b bs ih => exact ih (Memory.wf_put h a b) (a + 1)

/-- Writing a number keeps the canonical form. -/
theorem Memory.wf_write {m : Memory} (h : m.wf = true) (a n v : Nat) : (m.write a n v).wf = true :=
  Memory.wf_putBytes h a _

/-! Read after write. -/

/-- A byte reads as written; every other byte reads as before. -/
theorem Memory.get_put (m : Memory) (a a' : Nat) (b : Byte) :
    (m.put a b).get a' = if a' = a then b else m.get a' := Tab.look_set ..

theorem Memory.get_putBytes_out (m : Memory) (a a' : Nat) (bs : List Byte) (h : a' < a ∨ a + bs.length ≤ a') :
    (m.putBytes a bs).get a' = m.get a' := by
  induction bs generalizing m a with
  | nil => rfl
  | cons b bs ih =>
    simp only [List.length_cons] at h
    have h' : a' ≠ a := by omega
    rw [Memory.putBytes, ih _ _ (by omega), Memory.get_put, if_neg h']

theorem Memory.bytes_congr {m m' : Memory} {a n : Nat} (h : ∀ i, a ≤ i → i < a + n → m.get i = m'.get i) :
    m.bytes a n = m'.bytes a n := by
  induction n generalizing a with
  | zero => rfl
  | succ n ih =>
    simp only [Memory.bytes]
    rw [h a (le_refl _) (by omega), ih fun i h1 h2 => h i (by omega) (by omega)]

/-- Bytes read as written. -/
theorem Memory.bytes_putBytes (m : Memory) (a : Nat) (bs : List Byte) :
    (m.putBytes a bs).bytes a bs.length = bs := by
  induction bs generalizing m a with
  | nil => rfl
  | cons b bs ih =>
    simp only [List.length_cons, Memory.bytes, Memory.putBytes]
    rw [ih, Memory.get_putBytes_out _ _ _ _ (.inl (Nat.lt_succ_self a)), Memory.get_put, if_pos rfl]

theorem Memory.bytes_putBytes_out (m : Memory) (a a' n : Nat) (bs : List Byte)
    (h : a' + n ≤ a ∨ a + bs.length ≤ a') : (m.putBytes a bs).bytes a' n = m.bytes a' n :=
  Memory.bytes_congr fun i h1 h2 => Memory.get_putBytes_out _ _ _ _ (by omega)

@[simp] theorem leBytes_length (n x : Nat) : (leBytes n x).length = n := by
  induction n generalizing x with
  | zero => rfl
  | succ n ih => simp [leBytes, ih]

/-- The bytes of a number hold it modulo their range (00 R1). -/
theorem leNat_leBytes (n x : Nat) : leNat (leBytes n x) = x % 2 ^ (8 * n) := by
  induction n generalizing x with
  | zero => simp [leBytes, leNat, Nat.mod_one]
  | succ n ih =>
    have h : 2 ^ (8 * (n + 1)) = 256 * 2 ^ (8 * n) := by
      rw [Nat.mul_succ, Nat.pow_add]
      omega
    rw [leBytes, leNat, ih, h, Nat.mod_mul]
    simp

/-- A number reads as written. -/
theorem Memory.read_write (m : Memory) (a n v : Nat) : (m.write a n v).read a n = v % 2 ^ (8 * n) := by
  have h := Memory.bytes_putBytes m a (leBytes n v)
  rw [leBytes_length] at h
  rw [Memory.read, Memory.write, h, leNat_leBytes]

/-- Other bytes read as before. -/
theorem Memory.read_write_out (m : Memory) (a a' n n' v : Nat) (h : a' + n' ≤ a ∨ a + n ≤ a') :
    (m.write a n v).read a' n' = m.read a' n' := by
  rw [Memory.read, Memory.write, Memory.bytes_putBytes_out _ _ _ _ _ (by simpa using h), Memory.read]

end Machine

end Sys2Proof
end

