-- ==== Sys2Proof/Laws/State.lean ====
section
/-!
SUPPORT. One lemma per field per update of the state, its cores and its strands, and what each part reads as after
an update.
-/

namespace Sys2Proof.Machine

section SetCore

variable (s : State) (c : Nat) (k : Core)

@[simp] theorem State.setCore_cur : (s.setCore c k).cur = s.cur := rfl
@[simp] theorem State.setCore_agenda : (s.setCore c k).agenda = s.agenda := rfl
@[simp] theorem State.setCore_split : (s.setCore c k).split = s.split := rfl
@[simp] theorem State.setCore_free : (s.setCore c k).free = s.free := rfl
@[simp] theorem State.setCore_serial : (s.setCore c k).serial = s.serial := rfl
@[simp] theorem State.setCore_mem : (s.setCore c k).mem = s.mem := rfl
@[simp] theorem State.setCore_pois : (s.setCore c k).pois = s.pois := rfl
@[simp] theorem State.setCore_written : (s.setCore c k).written = s.written := rfl
@[simp] theorem State.setCore_scfill : (s.setCore c k).scfill = s.scfill := rfl
@[simp] theorem State.setCore_priv : (s.setCore c k).priv = s.priv := rfl
@[simp] theorem State.setCore_writer : (s.setCore c k).writer = s.writer := rfl
@[simp] theorem State.setCore_xlates : (s.setCore c k).xlates = s.xlates := rfl
@[simp] theorem State.setCore_dropped : (s.setCore c k).dropped = s.dropped := rfl
@[simp] theorem State.setCore_accs : (s.setCore c k).accs = s.accs := rfl
@[simp] theorem State.setCore_wreqs : (s.setCore c k).wreqs = s.wreqs := rfl
@[simp] theorem State.setCore_wales : (s.setCore c k).wales = s.wales := rfl
@[simp] theorem State.setCore_mails : (s.setCore c k).mails = s.mails := rfl
@[simp] theorem State.setCore_packets : (s.setCore c k).packets = s.packets := rfl
@[simp] theorem State.setCore_ctrs : (s.setCore c k).ctrs = s.ctrs := rfl
@[simp] theorem State.setCore_moves : (s.setCore c k).moves = s.moves := rfl
@[simp] theorem State.setCore_preempts : (s.setCore c k).preempts = s.preempts := rfl
@[simp] theorem State.setCore_waits : (s.setCore c k).waits = s.waits := rfl
@[simp] theorem State.setCore_scheds : (s.setCore c k).scheds = s.scheds := rfl
@[simp] theorem State.setCore_weavers : (s.setCore c k).weavers = s.weavers := rfl
@[simp] theorem State.setCore_islands : (s.setCore c k).islands = s.islands := rfl
@[simp] theorem State.setCore_jobs : (s.setCore c k).jobs = s.jobs := rfl
@[simp] theorem State.setCore_hoods : (s.setCore c k).hoods = s.hoods := rfl
@[simp] theorem State.setCore_ports : (s.setCore c k).ports = s.ports := rfl
@[simp] theorem State.setCore_corrections : (s.setCore c k).corrections = s.corrections := rfl
@[simp] theorem State.setCore_device : (s.setCore c k).device = s.device := rfl
@[simp] theorem State.setCore_seals : (s.setCore c k).seals = s.seals := rfl
@[simp] theorem State.setCore_spills : (s.setCore c k).spills = s.spills := rfl
@[simp] theorem State.setCore_backs : (s.setCore c k).backs = s.backs := rfl
@[simp] theorem State.setCore_sealedAt : (s.setCore c k).sealedAt = s.sealedAt := rfl
@[simp] theorem State.setCore_acks : (s.setCore c k).acks = s.acks := rfl
@[simp] theorem State.setCore_milliner : (s.setCore c k).milliner = s.milliner := rfl
@[simp] theorem State.setCore_brim : (s.setCore c k).brim = s.brim := rfl
@[simp] theorem State.setCore_events : (s.setCore c k).events = s.events := rfl
@[simp] theorem State.setCore_sent : (s.setCore c k).sent = s.sent := rfl

end SetCore

section ModCore

variable (s : State) (c : Nat) (f : Core → Core)

@[simp] theorem State.modCore_cur : (s.modCore c f).cur = s.cur := rfl
@[simp] theorem State.modCore_agenda : (s.modCore c f).agenda = s.agenda := rfl
@[simp] theorem State.modCore_split : (s.modCore c f).split = s.split := rfl
@[simp] theorem State.modCore_free : (s.modCore c f).free = s.free := rfl
@[simp] theorem State.modCore_serial : (s.modCore c f).serial = s.serial := rfl
@[simp] theorem State.modCore_mem : (s.modCore c f).mem = s.mem := rfl
@[simp] theorem State.modCore_pois : (s.modCore c f).pois = s.pois := rfl
@[simp] theorem State.modCore_written : (s.modCore c f).written = s.written := rfl
@[simp] theorem State.modCore_scfill : (s.modCore c f).scfill = s.scfill := rfl
@[simp] theorem State.modCore_priv : (s.modCore c f).priv = s.priv := rfl
@[simp] theorem State.modCore_writer : (s.modCore c f).writer = s.writer := rfl
@[simp] theorem State.modCore_xlates : (s.modCore c f).xlates = s.xlates := rfl
@[simp] theorem State.modCore_dropped : (s.modCore c f).dropped = s.dropped := rfl
@[simp] theorem State.modCore_accs : (s.modCore c f).accs = s.accs := rfl
@[simp] theorem State.modCore_wreqs : (s.modCore c f).wreqs = s.wreqs := rfl
@[simp] theorem State.modCore_wales : (s.modCore c f).wales = s.wales := rfl
@[simp] theorem State.modCore_mails : (s.modCore c f).mails = s.mails := rfl
@[simp] theorem State.modCore_packets : (s.modCore c f).packets = s.packets := rfl
@[simp] theorem State.modCore_ctrs : (s.modCore c f).ctrs = s.ctrs := rfl
@[simp] theorem State.modCore_moves : (s.modCore c f).moves = s.moves := rfl
@[simp] theorem State.modCore_preempts : (s.modCore c f).preempts = s.preempts := rfl
@[simp] theorem State.modCore_waits : (s.modCore c f).waits = s.waits := rfl
@[simp] theorem State.modCore_scheds : (s.modCore c f).scheds = s.scheds := rfl
@[simp] theorem State.modCore_weavers : (s.modCore c f).weavers = s.weavers := rfl
@[simp] theorem State.modCore_islands : (s.modCore c f).islands = s.islands := rfl
@[simp] theorem State.modCore_jobs : (s.modCore c f).jobs = s.jobs := rfl
@[simp] theorem State.modCore_hoods : (s.modCore c f).hoods = s.hoods := rfl
@[simp] theorem State.modCore_ports : (s.modCore c f).ports = s.ports := rfl
@[simp] theorem State.modCore_corrections : (s.modCore c f).corrections = s.corrections := rfl
@[simp] theorem State.modCore_device : (s.modCore c f).device = s.device := rfl
@[simp] theorem State.modCore_seals : (s.modCore c f).seals = s.seals := rfl
@[simp] theorem State.modCore_spills : (s.modCore c f).spills = s.spills := rfl
@[simp] theorem State.modCore_backs : (s.modCore c f).backs = s.backs := rfl
@[simp] theorem State.modCore_sealedAt : (s.modCore c f).sealedAt = s.sealedAt := rfl
@[simp] theorem State.modCore_acks : (s.modCore c f).acks = s.acks := rfl
@[simp] theorem State.modCore_milliner : (s.modCore c f).milliner = s.milliner := rfl
@[simp] theorem State.modCore_brim : (s.modCore c f).brim = s.brim := rfl
@[simp] theorem State.modCore_events : (s.modCore c f).events = s.events := rfl
@[simp] theorem State.modCore_sent : (s.modCore c f).sent = s.sent := rfl

end ModCore

section SetStrand

variable (s : State) (c n : Nat) (t : Strand)

@[simp] theorem State.setStrand_cur : (s.setStrand c n t).cur = s.cur := rfl
@[simp] theorem State.setStrand_agenda : (s.setStrand c n t).agenda = s.agenda := rfl
@[simp] theorem State.setStrand_split : (s.setStrand c n t).split = s.split := rfl
@[simp] theorem State.setStrand_free : (s.setStrand c n t).free = s.free := rfl
@[simp] theorem State.setStrand_serial : (s.setStrand c n t).serial = s.serial := rfl
@[simp] theorem State.setStrand_mem : (s.setStrand c n t).mem = s.mem := rfl
@[simp] theorem State.setStrand_pois : (s.setStrand c n t).pois = s.pois := rfl
@[simp] theorem State.setStrand_written : (s.setStrand c n t).written = s.written := rfl
@[simp] theorem State.setStrand_scfill : (s.setStrand c n t).scfill = s.scfill := rfl
@[simp] theorem State.setStrand_priv : (s.setStrand c n t).priv = s.priv := rfl
@[simp] theorem State.setStrand_writer : (s.setStrand c n t).writer = s.writer := rfl
@[simp] theorem State.setStrand_xlates : (s.setStrand c n t).xlates = s.xlates := rfl
@[simp] theorem State.setStrand_dropped : (s.setStrand c n t).dropped = s.dropped := rfl
@[simp] theorem State.setStrand_accs : (s.setStrand c n t).accs = s.accs := rfl
@[simp] theorem State.setStrand_wreqs : (s.setStrand c n t).wreqs = s.wreqs := rfl
@[simp] theorem State.setStrand_wales : (s.setStrand c n t).wales = s.wales := rfl
@[simp] theorem State.setStrand_mails : (s.setStrand c n t).mails = s.mails := rfl
@[simp] theorem State.setStrand_packets : (s.setStrand c n t).packets = s.packets := rfl
@[simp] theorem State.setStrand_ctrs : (s.setStrand c n t).ctrs = s.ctrs := rfl
@[simp] theorem State.setStrand_moves : (s.setStrand c n t).moves = s.moves := rfl
@[simp] theorem State.setStrand_preempts : (s.setStrand c n t).preempts = s.preempts := rfl
@[simp] theorem State.setStrand_waits : (s.setStrand c n t).waits = s.waits := rfl
@[simp] theorem State.setStrand_scheds : (s.setStrand c n t).scheds = s.scheds := rfl
@[simp] theorem State.setStrand_weavers : (s.setStrand c n t).weavers = s.weavers := rfl
@[simp] theorem State.setStrand_islands : (s.setStrand c n t).islands = s.islands := rfl
@[simp] theorem State.setStrand_jobs : (s.setStrand c n t).jobs = s.jobs := rfl
@[simp] theorem State.setStrand_hoods : (s.setStrand c n t).hoods = s.hoods := rfl
@[simp] theorem State.setStrand_ports : (s.setStrand c n t).ports = s.ports := rfl
@[simp] theorem State.setStrand_corrections : (s.setStrand c n t).corrections = s.corrections := rfl
@[simp] theorem State.setStrand_device : (s.setStrand c n t).device = s.device := rfl
@[simp] theorem State.setStrand_seals : (s.setStrand c n t).seals = s.seals := rfl
@[simp] theorem State.setStrand_spills : (s.setStrand c n t).spills = s.spills := rfl
@[simp] theorem State.setStrand_backs : (s.setStrand c n t).backs = s.backs := rfl
@[simp] theorem State.setStrand_sealedAt : (s.setStrand c n t).sealedAt = s.sealedAt := rfl
@[simp] theorem State.setStrand_acks : (s.setStrand c n t).acks = s.acks := rfl
@[simp] theorem State.setStrand_milliner : (s.setStrand c n t).milliner = s.milliner := rfl
@[simp] theorem State.setStrand_brim : (s.setStrand c n t).brim = s.brim := rfl
@[simp] theorem State.setStrand_events : (s.setStrand c n t).events = s.events := rfl
@[simp] theorem State.setStrand_sent : (s.setStrand c n t).sent = s.sent := rfl

end SetStrand

section ModStrand

variable (s : State) (c n : Nat) (f : Strand → Strand)

@[simp] theorem State.modStrand_cur : (s.modStrand c n f).cur = s.cur := rfl
@[simp] theorem State.modStrand_agenda : (s.modStrand c n f).agenda = s.agenda := rfl
@[simp] theorem State.modStrand_split : (s.modStrand c n f).split = s.split := rfl
@[simp] theorem State.modStrand_free : (s.modStrand c n f).free = s.free := rfl
@[simp] theorem State.modStrand_serial : (s.modStrand c n f).serial = s.serial := rfl
@[simp] theorem State.modStrand_mem : (s.modStrand c n f).mem = s.mem := rfl
@[simp] theorem State.modStrand_pois : (s.modStrand c n f).pois = s.pois := rfl
@[simp] theorem State.modStrand_written : (s.modStrand c n f).written = s.written := rfl
@[simp] theorem State.modStrand_scfill : (s.modStrand c n f).scfill = s.scfill := rfl
@[simp] theorem State.modStrand_priv : (s.modStrand c n f).priv = s.priv := rfl
@[simp] theorem State.modStrand_writer : (s.modStrand c n f).writer = s.writer := rfl
@[simp] theorem State.modStrand_xlates : (s.modStrand c n f).xlates = s.xlates := rfl
@[simp] theorem State.modStrand_dropped : (s.modStrand c n f).dropped = s.dropped := rfl
@[simp] theorem State.modStrand_accs : (s.modStrand c n f).accs = s.accs := rfl
@[simp] theorem State.modStrand_wreqs : (s.modStrand c n f).wreqs = s.wreqs := rfl
@[simp] theorem State.modStrand_wales : (s.modStrand c n f).wales = s.wales := rfl
@[simp] theorem State.modStrand_mails : (s.modStrand c n f).mails = s.mails := rfl
@[simp] theorem State.modStrand_packets : (s.modStrand c n f).packets = s.packets := rfl
@[simp] theorem State.modStrand_ctrs : (s.modStrand c n f).ctrs = s.ctrs := rfl
@[simp] theorem State.modStrand_moves : (s.modStrand c n f).moves = s.moves := rfl
@[simp] theorem State.modStrand_preempts : (s.modStrand c n f).preempts = s.preempts := rfl
@[simp] theorem State.modStrand_waits : (s.modStrand c n f).waits = s.waits := rfl
@[simp] theorem State.modStrand_scheds : (s.modStrand c n f).scheds = s.scheds := rfl
@[simp] theorem State.modStrand_weavers : (s.modStrand c n f).weavers = s.weavers := rfl
@[simp] theorem State.modStrand_islands : (s.modStrand c n f).islands = s.islands := rfl
@[simp] theorem State.modStrand_jobs : (s.modStrand c n f).jobs = s.jobs := rfl
@[simp] theorem State.modStrand_hoods : (s.modStrand c n f).hoods = s.hoods := rfl
@[simp] theorem State.modStrand_ports : (s.modStrand c n f).ports = s.ports := rfl
@[simp] theorem State.modStrand_corrections : (s.modStrand c n f).corrections = s.corrections := rfl
@[simp] theorem State.modStrand_device : (s.modStrand c n f).device = s.device := rfl
@[simp] theorem State.modStrand_seals : (s.modStrand c n f).seals = s.seals := rfl
@[simp] theorem State.modStrand_spills : (s.modStrand c n f).spills = s.spills := rfl
@[simp] theorem State.modStrand_backs : (s.modStrand c n f).backs = s.backs := rfl
@[simp] theorem State.modStrand_sealedAt : (s.modStrand c n f).sealedAt = s.sealedAt := rfl
@[simp] theorem State.modStrand_acks : (s.modStrand c n f).acks = s.acks := rfl
@[simp] theorem State.modStrand_milliner : (s.modStrand c n f).milliner = s.milliner := rfl
@[simp] theorem State.modStrand_brim : (s.modStrand c n f).brim = s.brim := rfl
@[simp] theorem State.modStrand_events : (s.modStrand c n f).events = s.events := rfl
@[simp] theorem State.modStrand_sent : (s.modStrand c n f).sent = s.sent := rfl

end ModStrand

section ModMe

variable (s : State) (f : Strand → Strand)

@[simp] theorem State.modMe_cur : (s.modMe f).cur = s.cur := rfl
@[simp] theorem State.modMe_agenda : (s.modMe f).agenda = s.agenda := rfl
@[simp] theorem State.modMe_split : (s.modMe f).split = s.split := rfl
@[simp] theorem State.modMe_free : (s.modMe f).free = s.free := rfl
@[simp] theorem State.modMe_serial : (s.modMe f).serial = s.serial := rfl
@[simp] theorem State.modMe_mem : (s.modMe f).mem = s.mem := rfl
@[simp] theorem State.modMe_pois : (s.modMe f).pois = s.pois := rfl
@[simp] theorem State.modMe_written : (s.modMe f).written = s.written := rfl
@[simp] theorem State.modMe_scfill : (s.modMe f).scfill = s.scfill := rfl
@[simp] theorem State.modMe_priv : (s.modMe f).priv = s.priv := rfl
@[simp] theorem State.modMe_writer : (s.modMe f).writer = s.writer := rfl
@[simp] theorem State.modMe_xlates : (s.modMe f).xlates = s.xlates := rfl
@[simp] theorem State.modMe_dropped : (s.modMe f).dropped = s.dropped := rfl
@[simp] theorem State.modMe_accs : (s.modMe f).accs = s.accs := rfl
@[simp] theorem State.modMe_wreqs : (s.modMe f).wreqs = s.wreqs := rfl
@[simp] theorem State.modMe_wales : (s.modMe f).wales = s.wales := rfl
@[simp] theorem State.modMe_mails : (s.modMe f).mails = s.mails := rfl
@[simp] theorem State.modMe_packets : (s.modMe f).packets = s.packets := rfl
@[simp] theorem State.modMe_ctrs : (s.modMe f).ctrs = s.ctrs := rfl
@[simp] theorem State.modMe_moves : (s.modMe f).moves = s.moves := rfl
@[simp] theorem State.modMe_preempts : (s.modMe f).preempts = s.preempts := rfl
@[simp] theorem State.modMe_waits : (s.modMe f).waits = s.waits := rfl
@[simp] theorem State.modMe_scheds : (s.modMe f).scheds = s.scheds := rfl
@[simp] theorem State.modMe_weavers : (s.modMe f).weavers = s.weavers := rfl
@[simp] theorem State.modMe_islands : (s.modMe f).islands = s.islands := rfl
@[simp] theorem State.modMe_jobs : (s.modMe f).jobs = s.jobs := rfl
@[simp] theorem State.modMe_hoods : (s.modMe f).hoods = s.hoods := rfl
@[simp] theorem State.modMe_ports : (s.modMe f).ports = s.ports := rfl
@[simp] theorem State.modMe_corrections : (s.modMe f).corrections = s.corrections := rfl
@[simp] theorem State.modMe_device : (s.modMe f).device = s.device := rfl
@[simp] theorem State.modMe_seals : (s.modMe f).seals = s.seals := rfl
@[simp] theorem State.modMe_spills : (s.modMe f).spills = s.spills := rfl
@[simp] theorem State.modMe_backs : (s.modMe f).backs = s.backs := rfl
@[simp] theorem State.modMe_sealedAt : (s.modMe f).sealedAt = s.sealedAt := rfl
@[simp] theorem State.modMe_acks : (s.modMe f).acks = s.acks := rfl
@[simp] theorem State.modMe_milliner : (s.modMe f).milliner = s.milliner := rfl
@[simp] theorem State.modMe_brim : (s.modMe f).brim = s.brim := rfl
@[simp] theorem State.modMe_events : (s.modMe f).events = s.events := rfl
@[simp] theorem State.modMe_sent : (s.modMe f).sent = s.sent := rfl

end ModMe

section ModMine

variable (s : State) (f : Core → Core)

@[simp] theorem State.modMine_cur : (s.modMine f).cur = s.cur := rfl
@[simp] theorem State.modMine_agenda : (s.modMine f).agenda = s.agenda := rfl
@[simp] theorem State.modMine_split : (s.modMine f).split = s.split := rfl
@[simp] theorem State.modMine_free : (s.modMine f).free = s.free := rfl
@[simp] theorem State.modMine_serial : (s.modMine f).serial = s.serial := rfl
@[simp] theorem State.modMine_mem : (s.modMine f).mem = s.mem := rfl
@[simp] theorem State.modMine_pois : (s.modMine f).pois = s.pois := rfl
@[simp] theorem State.modMine_written : (s.modMine f).written = s.written := rfl
@[simp] theorem State.modMine_scfill : (s.modMine f).scfill = s.scfill := rfl
@[simp] theorem State.modMine_priv : (s.modMine f).priv = s.priv := rfl
@[simp] theorem State.modMine_writer : (s.modMine f).writer = s.writer := rfl
@[simp] theorem State.modMine_xlates : (s.modMine f).xlates = s.xlates := rfl
@[simp] theorem State.modMine_dropped : (s.modMine f).dropped = s.dropped := rfl
@[simp] theorem State.modMine_accs : (s.modMine f).accs = s.accs := rfl
@[simp] theorem State.modMine_wreqs : (s.modMine f).wreqs = s.wreqs := rfl
@[simp] theorem State.modMine_wales : (s.modMine f).wales = s.wales := rfl
@[simp] theorem State.modMine_mails : (s.modMine f).mails = s.mails := rfl
@[simp] theorem State.modMine_packets : (s.modMine f).packets = s.packets := rfl
@[simp] theorem State.modMine_ctrs : (s.modMine f).ctrs = s.ctrs := rfl
@[simp] theorem State.modMine_moves : (s.modMine f).moves = s.moves := rfl
@[simp] theorem State.modMine_preempts : (s.modMine f).preempts = s.preempts := rfl
@[simp] theorem State.modMine_waits : (s.modMine f).waits = s.waits := rfl
@[simp] theorem State.modMine_scheds : (s.modMine f).scheds = s.scheds := rfl
@[simp] theorem State.modMine_weavers : (s.modMine f).weavers = s.weavers := rfl
@[simp] theorem State.modMine_islands : (s.modMine f).islands = s.islands := rfl
@[simp] theorem State.modMine_jobs : (s.modMine f).jobs = s.jobs := rfl
@[simp] theorem State.modMine_hoods : (s.modMine f).hoods = s.hoods := rfl
@[simp] theorem State.modMine_ports : (s.modMine f).ports = s.ports := rfl
@[simp] theorem State.modMine_corrections : (s.modMine f).corrections = s.corrections := rfl
@[simp] theorem State.modMine_device : (s.modMine f).device = s.device := rfl
@[simp] theorem State.modMine_seals : (s.modMine f).seals = s.seals := rfl
@[simp] theorem State.modMine_spills : (s.modMine f).spills = s.spills := rfl
@[simp] theorem State.modMine_backs : (s.modMine f).backs = s.backs := rfl
@[simp] theorem State.modMine_sealedAt : (s.modMine f).sealedAt = s.sealedAt := rfl
@[simp] theorem State.modMine_acks : (s.modMine f).acks = s.acks := rfl
@[simp] theorem State.modMine_milliner : (s.modMine f).milliner = s.milliner := rfl
@[simp] theorem State.modMine_brim : (s.modMine f).brim = s.brim := rfl
@[simp] theorem State.modMine_events : (s.modMine f).events = s.events := rfl
@[simp] theorem State.modMine_sent : (s.modMine f).sent = s.sent := rfl

end ModMine

section Write

variable (s : State) (d : GReg) (v : Word)

@[simp] theorem State.write_cur : (s.write d v).cur = s.cur := rfl
@[simp] theorem State.write_agenda : (s.write d v).agenda = s.agenda := rfl
@[simp] theorem State.write_split : (s.write d v).split = s.split := rfl
@[simp] theorem State.write_free : (s.write d v).free = s.free := rfl
@[simp] theorem State.write_serial : (s.write d v).serial = s.serial := rfl
@[simp] theorem State.write_mem : (s.write d v).mem = s.mem := rfl
@[simp] theorem State.write_pois : (s.write d v).pois = s.pois := rfl
@[simp] theorem State.write_written : (s.write d v).written = s.written := rfl
@[simp] theorem State.write_scfill : (s.write d v).scfill = s.scfill := rfl
@[simp] theorem State.write_priv : (s.write d v).priv = s.priv := rfl
@[simp] theorem State.write_writer : (s.write d v).writer = s.writer := rfl
@[simp] theorem State.write_xlates : (s.write d v).xlates = s.xlates := rfl
@[simp] theorem State.write_dropped : (s.write d v).dropped = s.dropped := rfl
@[simp] theorem State.write_accs : (s.write d v).accs = s.accs := rfl
@[simp] theorem State.write_wreqs : (s.write d v).wreqs = s.wreqs := rfl
@[simp] theorem State.write_wales : (s.write d v).wales = s.wales := rfl
@[simp] theorem State.write_mails : (s.write d v).mails = s.mails := rfl
@[simp] theorem State.write_packets : (s.write d v).packets = s.packets := rfl
@[simp] theorem State.write_ctrs : (s.write d v).ctrs = s.ctrs := rfl
@[simp] theorem State.write_moves : (s.write d v).moves = s.moves := rfl
@[simp] theorem State.write_preempts : (s.write d v).preempts = s.preempts := rfl
@[simp] theorem State.write_waits : (s.write d v).waits = s.waits := rfl
@[simp] theorem State.write_scheds : (s.write d v).scheds = s.scheds := rfl
@[simp] theorem State.write_weavers : (s.write d v).weavers = s.weavers := rfl
@[simp] theorem State.write_islands : (s.write d v).islands = s.islands := rfl
@[simp] theorem State.write_jobs : (s.write d v).jobs = s.jobs := rfl
@[simp] theorem State.write_hoods : (s.write d v).hoods = s.hoods := rfl
@[simp] theorem State.write_ports : (s.write d v).ports = s.ports := rfl
@[simp] theorem State.write_corrections : (s.write d v).corrections = s.corrections := rfl
@[simp] theorem State.write_device : (s.write d v).device = s.device := rfl
@[simp] theorem State.write_seals : (s.write d v).seals = s.seals := rfl
@[simp] theorem State.write_spills : (s.write d v).spills = s.spills := rfl
@[simp] theorem State.write_backs : (s.write d v).backs = s.backs := rfl
@[simp] theorem State.write_sealedAt : (s.write d v).sealedAt = s.sealedAt := rfl
@[simp] theorem State.write_acks : (s.write d v).acks = s.acks := rfl
@[simp] theorem State.write_milliner : (s.write d v).milliner = s.milliner := rfl
@[simp] theorem State.write_brim : (s.write d v).brim = s.brim := rfl
@[simp] theorem State.write_events : (s.write d v).events = s.events := rfl
@[simp] theorem State.write_sent : (s.write d v).sent = s.sent := rfl

end Write

section WriteLate

variable (s : State) (d : GReg) (v : Word) (l : La)

@[simp] theorem State.writeLate_cur : (s.writeLate d v l).cur = s.cur := rfl
@[simp] theorem State.writeLate_agenda : (s.writeLate d v l).agenda = s.agenda := rfl
@[simp] theorem State.writeLate_split : (s.writeLate d v l).split = s.split := rfl
@[simp] theorem State.writeLate_free : (s.writeLate d v l).free = s.free := rfl
@[simp] theorem State.writeLate_serial : (s.writeLate d v l).serial = s.serial := rfl
@[simp] theorem State.writeLate_mem : (s.writeLate d v l).mem = s.mem := rfl
@[simp] theorem State.writeLate_pois : (s.writeLate d v l).pois = s.pois := rfl
@[simp] theorem State.writeLate_written : (s.writeLate d v l).written = s.written := rfl
@[simp] theorem State.writeLate_scfill : (s.writeLate d v l).scfill = s.scfill := rfl
@[simp] theorem State.writeLate_priv : (s.writeLate d v l).priv = s.priv := rfl
@[simp] theorem State.writeLate_writer : (s.writeLate d v l).writer = s.writer := rfl
@[simp] theorem State.writeLate_xlates : (s.writeLate d v l).xlates = s.xlates := rfl
@[simp] theorem State.writeLate_dropped : (s.writeLate d v l).dropped = s.dropped := rfl
@[simp] theorem State.writeLate_accs : (s.writeLate d v l).accs = s.accs := rfl
@[simp] theorem State.writeLate_wreqs : (s.writeLate d v l).wreqs = s.wreqs := rfl
@[simp] theorem State.writeLate_wales : (s.writeLate d v l).wales = s.wales := rfl
@[simp] theorem State.writeLate_mails : (s.writeLate d v l).mails = s.mails := rfl
@[simp] theorem State.writeLate_packets : (s.writeLate d v l).packets = s.packets := rfl
@[simp] theorem State.writeLate_ctrs : (s.writeLate d v l).ctrs = s.ctrs := rfl
@[simp] theorem State.writeLate_moves : (s.writeLate d v l).moves = s.moves := rfl
@[simp] theorem State.writeLate_preempts : (s.writeLate d v l).preempts = s.preempts := rfl
@[simp] theorem State.writeLate_waits : (s.writeLate d v l).waits = s.waits := rfl
@[simp] theorem State.writeLate_scheds : (s.writeLate d v l).scheds = s.scheds := rfl
@[simp] theorem State.writeLate_weavers : (s.writeLate d v l).weavers = s.weavers := rfl
@[simp] theorem State.writeLate_islands : (s.writeLate d v l).islands = s.islands := rfl
@[simp] theorem State.writeLate_jobs : (s.writeLate d v l).jobs = s.jobs := rfl
@[simp] theorem State.writeLate_hoods : (s.writeLate d v l).hoods = s.hoods := rfl
@[simp] theorem State.writeLate_ports : (s.writeLate d v l).ports = s.ports := rfl
@[simp] theorem State.writeLate_corrections : (s.writeLate d v l).corrections = s.corrections := rfl
@[simp] theorem State.writeLate_device : (s.writeLate d v l).device = s.device := rfl
@[simp] theorem State.writeLate_seals : (s.writeLate d v l).seals = s.seals := rfl
@[simp] theorem State.writeLate_spills : (s.writeLate d v l).spills = s.spills := rfl
@[simp] theorem State.writeLate_backs : (s.writeLate d v l).backs = s.backs := rfl
@[simp] theorem State.writeLate_sealedAt : (s.writeLate d v l).sealedAt = s.sealedAt := rfl
@[simp] theorem State.writeLate_acks : (s.writeLate d v l).acks = s.acks := rfl
@[simp] theorem State.writeLate_milliner : (s.writeLate d v l).milliner = s.milliner := rfl
@[simp] theorem State.writeLate_brim : (s.writeLate d v l).brim = s.brim := rfl
@[simp] theorem State.writeLate_events : (s.writeLate d v l).events = s.events := rfl
@[simp] theorem State.writeLate_sent : (s.writeLate d v l).sent = s.sent := rfl

end WriteLate

section Advance

variable (s : State)

@[simp] theorem State.advance_cur : (s.advance).cur = s.cur := rfl
@[simp] theorem State.advance_agenda : (s.advance).agenda = s.agenda := rfl
@[simp] theorem State.advance_split : (s.advance).split = s.split := rfl
@[simp] theorem State.advance_free : (s.advance).free = s.free := rfl
@[simp] theorem State.advance_serial : (s.advance).serial = s.serial := rfl
@[simp] theorem State.advance_mem : (s.advance).mem = s.mem := rfl
@[simp] theorem State.advance_pois : (s.advance).pois = s.pois := rfl
@[simp] theorem State.advance_written : (s.advance).written = s.written := rfl
@[simp] theorem State.advance_scfill : (s.advance).scfill = s.scfill := rfl
@[simp] theorem State.advance_priv : (s.advance).priv = s.priv := rfl
@[simp] theorem State.advance_writer : (s.advance).writer = s.writer := rfl
@[simp] theorem State.advance_xlates : (s.advance).xlates = s.xlates := rfl
@[simp] theorem State.advance_dropped : (s.advance).dropped = s.dropped := rfl
@[simp] theorem State.advance_accs : (s.advance).accs = s.accs := rfl
@[simp] theorem State.advance_wreqs : (s.advance).wreqs = s.wreqs := rfl
@[simp] theorem State.advance_wales : (s.advance).wales = s.wales := rfl
@[simp] theorem State.advance_mails : (s.advance).mails = s.mails := rfl
@[simp] theorem State.advance_packets : (s.advance).packets = s.packets := rfl
@[simp] theorem State.advance_ctrs : (s.advance).ctrs = s.ctrs := rfl
@[simp] theorem State.advance_moves : (s.advance).moves = s.moves := rfl
@[simp] theorem State.advance_preempts : (s.advance).preempts = s.preempts := rfl
@[simp] theorem State.advance_waits : (s.advance).waits = s.waits := rfl
@[simp] theorem State.advance_scheds : (s.advance).scheds = s.scheds := rfl
@[simp] theorem State.advance_weavers : (s.advance).weavers = s.weavers := rfl
@[simp] theorem State.advance_islands : (s.advance).islands = s.islands := rfl
@[simp] theorem State.advance_jobs : (s.advance).jobs = s.jobs := rfl
@[simp] theorem State.advance_hoods : (s.advance).hoods = s.hoods := rfl
@[simp] theorem State.advance_ports : (s.advance).ports = s.ports := rfl
@[simp] theorem State.advance_corrections : (s.advance).corrections = s.corrections := rfl
@[simp] theorem State.advance_device : (s.advance).device = s.device := rfl
@[simp] theorem State.advance_seals : (s.advance).seals = s.seals := rfl
@[simp] theorem State.advance_spills : (s.advance).spills = s.spills := rfl
@[simp] theorem State.advance_backs : (s.advance).backs = s.backs := rfl
@[simp] theorem State.advance_sealedAt : (s.advance).sealedAt = s.sealedAt := rfl
@[simp] theorem State.advance_acks : (s.advance).acks = s.acks := rfl
@[simp] theorem State.advance_milliner : (s.advance).milliner = s.milliner := rfl
@[simp] theorem State.advance_brim : (s.advance).brim = s.brim := rfl
@[simp] theorem State.advance_events : (s.advance).events = s.events := rfl
@[simp] theorem State.advance_sent : (s.advance).sent = s.sent := rfl

end Advance

section Goto

variable (s : State) (p : Word)

@[simp] theorem State.goto_cur : (s.goto p).cur = s.cur := rfl
@[simp] theorem State.goto_agenda : (s.goto p).agenda = s.agenda := rfl
@[simp] theorem State.goto_split : (s.goto p).split = s.split := rfl
@[simp] theorem State.goto_free : (s.goto p).free = s.free := rfl
@[simp] theorem State.goto_serial : (s.goto p).serial = s.serial := rfl
@[simp] theorem State.goto_mem : (s.goto p).mem = s.mem := rfl
@[simp] theorem State.goto_pois : (s.goto p).pois = s.pois := rfl
@[simp] theorem State.goto_written : (s.goto p).written = s.written := rfl
@[simp] theorem State.goto_scfill : (s.goto p).scfill = s.scfill := rfl
@[simp] theorem State.goto_priv : (s.goto p).priv = s.priv := rfl
@[simp] theorem State.goto_writer : (s.goto p).writer = s.writer := rfl
@[simp] theorem State.goto_xlates : (s.goto p).xlates = s.xlates := rfl
@[simp] theorem State.goto_dropped : (s.goto p).dropped = s.dropped := rfl
@[simp] theorem State.goto_accs : (s.goto p).accs = s.accs := rfl
@[simp] theorem State.goto_wreqs : (s.goto p).wreqs = s.wreqs := rfl
@[simp] theorem State.goto_wales : (s.goto p).wales = s.wales := rfl
@[simp] theorem State.goto_mails : (s.goto p).mails = s.mails := rfl
@[simp] theorem State.goto_packets : (s.goto p).packets = s.packets := rfl
@[simp] theorem State.goto_ctrs : (s.goto p).ctrs = s.ctrs := rfl
@[simp] theorem State.goto_moves : (s.goto p).moves = s.moves := rfl
@[simp] theorem State.goto_preempts : (s.goto p).preempts = s.preempts := rfl
@[simp] theorem State.goto_waits : (s.goto p).waits = s.waits := rfl
@[simp] theorem State.goto_scheds : (s.goto p).scheds = s.scheds := rfl
@[simp] theorem State.goto_weavers : (s.goto p).weavers = s.weavers := rfl
@[simp] theorem State.goto_islands : (s.goto p).islands = s.islands := rfl
@[simp] theorem State.goto_jobs : (s.goto p).jobs = s.jobs := rfl
@[simp] theorem State.goto_hoods : (s.goto p).hoods = s.hoods := rfl
@[simp] theorem State.goto_ports : (s.goto p).ports = s.ports := rfl
@[simp] theorem State.goto_corrections : (s.goto p).corrections = s.corrections := rfl
@[simp] theorem State.goto_device : (s.goto p).device = s.device := rfl
@[simp] theorem State.goto_seals : (s.goto p).seals = s.seals := rfl
@[simp] theorem State.goto_spills : (s.goto p).spills = s.spills := rfl
@[simp] theorem State.goto_backs : (s.goto p).backs = s.backs := rfl
@[simp] theorem State.goto_sealedAt : (s.goto p).sealedAt = s.sealedAt := rfl
@[simp] theorem State.goto_acks : (s.goto p).acks = s.acks := rfl
@[simp] theorem State.goto_milliner : (s.goto p).milliner = s.milliner := rfl
@[simp] theorem State.goto_brim : (s.goto p).brim = s.brim := rfl
@[simp] theorem State.goto_events : (s.goto p).events = s.events := rfl
@[simp] theorem State.goto_sent : (s.goto p).sent = s.sent := rfl

end Goto

section Block

variable (s : State)

@[simp] theorem State.block_cur : (s.block).cur = s.cur := rfl
@[simp] theorem State.block_agenda : (s.block).agenda = s.agenda := rfl
@[simp] theorem State.block_split : (s.block).split = s.split := rfl
@[simp] theorem State.block_free : (s.block).free = s.free := rfl
@[simp] theorem State.block_serial : (s.block).serial = s.serial := rfl
@[simp] theorem State.block_mem : (s.block).mem = s.mem := rfl
@[simp] theorem State.block_pois : (s.block).pois = s.pois := rfl
@[simp] theorem State.block_written : (s.block).written = s.written := rfl
@[simp] theorem State.block_scfill : (s.block).scfill = s.scfill := rfl
@[simp] theorem State.block_priv : (s.block).priv = s.priv := rfl
@[simp] theorem State.block_writer : (s.block).writer = s.writer := rfl
@[simp] theorem State.block_xlates : (s.block).xlates = s.xlates := rfl
@[simp] theorem State.block_dropped : (s.block).dropped = s.dropped := rfl
@[simp] theorem State.block_accs : (s.block).accs = s.accs := rfl
@[simp] theorem State.block_wreqs : (s.block).wreqs = s.wreqs := rfl
@[simp] theorem State.block_wales : (s.block).wales = s.wales := rfl
@[simp] theorem State.block_mails : (s.block).mails = s.mails := rfl
@[simp] theorem State.block_packets : (s.block).packets = s.packets := rfl
@[simp] theorem State.block_ctrs : (s.block).ctrs = s.ctrs := rfl
@[simp] theorem State.block_moves : (s.block).moves = s.moves := rfl
@[simp] theorem State.block_preempts : (s.block).preempts = s.preempts := rfl
@[simp] theorem State.block_waits : (s.block).waits = s.waits := rfl
@[simp] theorem State.block_scheds : (s.block).scheds = s.scheds := rfl
@[simp] theorem State.block_weavers : (s.block).weavers = s.weavers := rfl
@[simp] theorem State.block_islands : (s.block).islands = s.islands := rfl
@[simp] theorem State.block_jobs : (s.block).jobs = s.jobs := rfl
@[simp] theorem State.block_hoods : (s.block).hoods = s.hoods := rfl
@[simp] theorem State.block_ports : (s.block).ports = s.ports := rfl
@[simp] theorem State.block_corrections : (s.block).corrections = s.corrections := rfl
@[simp] theorem State.block_device : (s.block).device = s.device := rfl
@[simp] theorem State.block_seals : (s.block).seals = s.seals := rfl
@[simp] theorem State.block_spills : (s.block).spills = s.spills := rfl
@[simp] theorem State.block_backs : (s.block).backs = s.backs := rfl
@[simp] theorem State.block_sealedAt : (s.block).sealedAt = s.sealedAt := rfl
@[simp] theorem State.block_acks : (s.block).acks = s.acks := rfl
@[simp] theorem State.block_milliner : (s.block).milliner = s.milliner := rfl
@[simp] theorem State.block_brim : (s.block).brim = s.brim := rfl
@[simp] theorem State.block_events : (s.block).events = s.events := rfl
@[simp] theorem State.block_sent : (s.block).sent = s.sent := rfl

end Block

section Await

variable (s : State) (w : Wait)

@[simp] theorem State.await_cur : (s.await w).cur = s.cur := rfl
@[simp] theorem State.await_agenda : (s.await w).agenda = s.agenda := rfl
@[simp] theorem State.await_split : (s.await w).split = s.split := rfl
@[simp] theorem State.await_free : (s.await w).free = s.free := rfl
@[simp] theorem State.await_serial : (s.await w).serial = s.serial := rfl
@[simp] theorem State.await_mem : (s.await w).mem = s.mem := rfl
@[simp] theorem State.await_pois : (s.await w).pois = s.pois := rfl
@[simp] theorem State.await_written : (s.await w).written = s.written := rfl
@[simp] theorem State.await_scfill : (s.await w).scfill = s.scfill := rfl
@[simp] theorem State.await_priv : (s.await w).priv = s.priv := rfl
@[simp] theorem State.await_writer : (s.await w).writer = s.writer := rfl
@[simp] theorem State.await_xlates : (s.await w).xlates = s.xlates := rfl
@[simp] theorem State.await_dropped : (s.await w).dropped = s.dropped := rfl
@[simp] theorem State.await_accs : (s.await w).accs = s.accs := rfl
@[simp] theorem State.await_wreqs : (s.await w).wreqs = s.wreqs := rfl
@[simp] theorem State.await_wales : (s.await w).wales = s.wales := rfl
@[simp] theorem State.await_mails : (s.await w).mails = s.mails := rfl
@[simp] theorem State.await_packets : (s.await w).packets = s.packets := rfl
@[simp] theorem State.await_ctrs : (s.await w).ctrs = s.ctrs := rfl
@[simp] theorem State.await_moves : (s.await w).moves = s.moves := rfl
@[simp] theorem State.await_preempts : (s.await w).preempts = s.preempts := rfl
@[simp] theorem State.await_waits : (s.await w).waits = s.waits := rfl
@[simp] theorem State.await_scheds : (s.await w).scheds = s.scheds := rfl
@[simp] theorem State.await_weavers : (s.await w).weavers = s.weavers := rfl
@[simp] theorem State.await_islands : (s.await w).islands = s.islands := rfl
@[simp] theorem State.await_jobs : (s.await w).jobs = s.jobs := rfl
@[simp] theorem State.await_hoods : (s.await w).hoods = s.hoods := rfl
@[simp] theorem State.await_ports : (s.await w).ports = s.ports := rfl
@[simp] theorem State.await_corrections : (s.await w).corrections = s.corrections := rfl
@[simp] theorem State.await_device : (s.await w).device = s.device := rfl
@[simp] theorem State.await_seals : (s.await w).seals = s.seals := rfl
@[simp] theorem State.await_spills : (s.await w).spills = s.spills := rfl
@[simp] theorem State.await_backs : (s.await w).backs = s.backs := rfl
@[simp] theorem State.await_sealedAt : (s.await w).sealedAt = s.sealedAt := rfl
@[simp] theorem State.await_acks : (s.await w).acks = s.acks := rfl
@[simp] theorem State.await_milliner : (s.await w).milliner = s.milliner := rfl
@[simp] theorem State.await_brim : (s.await w).brim = s.brim := rfl
@[simp] theorem State.await_events : (s.await w).events = s.events := rfl
@[simp] theorem State.await_sent : (s.await w).sent = s.sent := rfl

end Await

section Park

variable (s : State) (p : Park)

@[simp] theorem State.park_cur : (s.park p).cur = s.cur := rfl
@[simp] theorem State.park_agenda : (s.park p).agenda = s.agenda := rfl
@[simp] theorem State.park_split : (s.park p).split = s.split := rfl
@[simp] theorem State.park_free : (s.park p).free = s.free := rfl
@[simp] theorem State.park_serial : (s.park p).serial = s.serial := rfl
@[simp] theorem State.park_mem : (s.park p).mem = s.mem := rfl
@[simp] theorem State.park_pois : (s.park p).pois = s.pois := rfl
@[simp] theorem State.park_written : (s.park p).written = s.written := rfl
@[simp] theorem State.park_scfill : (s.park p).scfill = s.scfill := rfl
@[simp] theorem State.park_priv : (s.park p).priv = s.priv := rfl
@[simp] theorem State.park_writer : (s.park p).writer = s.writer := rfl
@[simp] theorem State.park_xlates : (s.park p).xlates = s.xlates := rfl
@[simp] theorem State.park_dropped : (s.park p).dropped = s.dropped := rfl
@[simp] theorem State.park_accs : (s.park p).accs = s.accs := rfl
@[simp] theorem State.park_wreqs : (s.park p).wreqs = s.wreqs := rfl
@[simp] theorem State.park_wales : (s.park p).wales = s.wales := rfl
@[simp] theorem State.park_mails : (s.park p).mails = s.mails := rfl
@[simp] theorem State.park_packets : (s.park p).packets = s.packets := rfl
@[simp] theorem State.park_ctrs : (s.park p).ctrs = s.ctrs := rfl
@[simp] theorem State.park_moves : (s.park p).moves = s.moves := rfl
@[simp] theorem State.park_preempts : (s.park p).preempts = s.preempts := rfl
@[simp] theorem State.park_waits : (s.park p).waits = s.waits := rfl
@[simp] theorem State.park_scheds : (s.park p).scheds = s.scheds := rfl
@[simp] theorem State.park_weavers : (s.park p).weavers = s.weavers := rfl
@[simp] theorem State.park_islands : (s.park p).islands = s.islands := rfl
@[simp] theorem State.park_jobs : (s.park p).jobs = s.jobs := rfl
@[simp] theorem State.park_hoods : (s.park p).hoods = s.hoods := rfl
@[simp] theorem State.park_ports : (s.park p).ports = s.ports := rfl
@[simp] theorem State.park_corrections : (s.park p).corrections = s.corrections := rfl
@[simp] theorem State.park_device : (s.park p).device = s.device := rfl
@[simp] theorem State.park_seals : (s.park p).seals = s.seals := rfl
@[simp] theorem State.park_spills : (s.park p).spills = s.spills := rfl
@[simp] theorem State.park_backs : (s.park p).backs = s.backs := rfl
@[simp] theorem State.park_sealedAt : (s.park p).sealedAt = s.sealedAt := rfl
@[simp] theorem State.park_acks : (s.park p).acks = s.acks := rfl
@[simp] theorem State.park_milliner : (s.park p).milliner = s.milliner := rfl
@[simp] theorem State.park_brim : (s.park p).brim = s.brim := rfl
@[simp] theorem State.park_events : (s.park p).events = s.events := rfl
@[simp] theorem State.park_sent : (s.park p).sent = s.sent := rfl

end Park

section Send

variable (s : State) (x : Sent)

@[simp] theorem State.send_cur : (s.send x).cur = s.cur := rfl
@[simp] theorem State.send_agenda : (s.send x).agenda = s.agenda := rfl
@[simp] theorem State.send_split : (s.send x).split = s.split := rfl
@[simp] theorem State.send_free : (s.send x).free = s.free := rfl
@[simp] theorem State.send_serial : (s.send x).serial = s.serial := rfl
@[simp] theorem State.send_cores : (s.send x).cores = s.cores := rfl
@[simp] theorem State.send_mem : (s.send x).mem = s.mem := rfl
@[simp] theorem State.send_pois : (s.send x).pois = s.pois := rfl
@[simp] theorem State.send_written : (s.send x).written = s.written := rfl
@[simp] theorem State.send_scfill : (s.send x).scfill = s.scfill := rfl
@[simp] theorem State.send_priv : (s.send x).priv = s.priv := rfl
@[simp] theorem State.send_writer : (s.send x).writer = s.writer := rfl
@[simp] theorem State.send_xlates : (s.send x).xlates = s.xlates := rfl
@[simp] theorem State.send_dropped : (s.send x).dropped = s.dropped := rfl
@[simp] theorem State.send_accs : (s.send x).accs = s.accs := rfl
@[simp] theorem State.send_wreqs : (s.send x).wreqs = s.wreqs := rfl
@[simp] theorem State.send_wales : (s.send x).wales = s.wales := rfl
@[simp] theorem State.send_mails : (s.send x).mails = s.mails := rfl
@[simp] theorem State.send_packets : (s.send x).packets = s.packets := rfl
@[simp] theorem State.send_ctrs : (s.send x).ctrs = s.ctrs := rfl
@[simp] theorem State.send_moves : (s.send x).moves = s.moves := rfl
@[simp] theorem State.send_preempts : (s.send x).preempts = s.preempts := rfl
@[simp] theorem State.send_waits : (s.send x).waits = s.waits := rfl
@[simp] theorem State.send_scheds : (s.send x).scheds = s.scheds := rfl
@[simp] theorem State.send_weavers : (s.send x).weavers = s.weavers := rfl
@[simp] theorem State.send_islands : (s.send x).islands = s.islands := rfl
@[simp] theorem State.send_jobs : (s.send x).jobs = s.jobs := rfl
@[simp] theorem State.send_hoods : (s.send x).hoods = s.hoods := rfl
@[simp] theorem State.send_ports : (s.send x).ports = s.ports := rfl
@[simp] theorem State.send_corrections : (s.send x).corrections = s.corrections := rfl
@[simp] theorem State.send_device : (s.send x).device = s.device := rfl
@[simp] theorem State.send_seals : (s.send x).seals = s.seals := rfl
@[simp] theorem State.send_spills : (s.send x).spills = s.spills := rfl
@[simp] theorem State.send_backs : (s.send x).backs = s.backs := rfl
@[simp] theorem State.send_sealedAt : (s.send x).sealedAt = s.sealedAt := rfl
@[simp] theorem State.send_acks : (s.send x).acks = s.acks := rfl
@[simp] theorem State.send_milliner : (s.send x).milliner = s.milliner := rfl
@[simp] theorem State.send_brim : (s.send x).brim = s.brim := rfl
@[simp] theorem State.send_events : (s.send x).events = s.events := rfl

end Send

section Tell

variable (s : State) (e : SupEvent)

@[simp] theorem State.tell_cur : (s.tell e).cur = s.cur := rfl
@[simp] theorem State.tell_agenda : (s.tell e).agenda = s.agenda := rfl
@[simp] theorem State.tell_split : (s.tell e).split = s.split := rfl
@[simp] theorem State.tell_free : (s.tell e).free = s.free := rfl
@[simp] theorem State.tell_serial : (s.tell e).serial = s.serial := rfl
@[simp] theorem State.tell_cores : (s.tell e).cores = s.cores := rfl
@[simp] theorem State.tell_mem : (s.tell e).mem = s.mem := rfl
@[simp] theorem State.tell_pois : (s.tell e).pois = s.pois := rfl
@[simp] theorem State.tell_written : (s.tell e).written = s.written := rfl
@[simp] theorem State.tell_scfill : (s.tell e).scfill = s.scfill := rfl
@[simp] theorem State.tell_priv : (s.tell e).priv = s.priv := rfl
@[simp] theorem State.tell_writer : (s.tell e).writer = s.writer := rfl
@[simp] theorem State.tell_xlates : (s.tell e).xlates = s.xlates := rfl
@[simp] theorem State.tell_dropped : (s.tell e).dropped = s.dropped := rfl
@[simp] theorem State.tell_accs : (s.tell e).accs = s.accs := rfl
@[simp] theorem State.tell_wreqs : (s.tell e).wreqs = s.wreqs := rfl
@[simp] theorem State.tell_wales : (s.tell e).wales = s.wales := rfl
@[simp] theorem State.tell_mails : (s.tell e).mails = s.mails := rfl
@[simp] theorem State.tell_packets : (s.tell e).packets = s.packets := rfl
@[simp] theorem State.tell_ctrs : (s.tell e).ctrs = s.ctrs := rfl
@[simp] theorem State.tell_moves : (s.tell e).moves = s.moves := rfl
@[simp] theorem State.tell_preempts : (s.tell e).preempts = s.preempts := rfl
@[simp] theorem State.tell_waits : (s.tell e).waits = s.waits := rfl
@[simp] theorem State.tell_scheds : (s.tell e).scheds = s.scheds := rfl
@[simp] theorem State.tell_weavers : (s.tell e).weavers = s.weavers := rfl
@[simp] theorem State.tell_islands : (s.tell e).islands = s.islands := rfl
@[simp] theorem State.tell_jobs : (s.tell e).jobs = s.jobs := rfl
@[simp] theorem State.tell_hoods : (s.tell e).hoods = s.hoods := rfl
@[simp] theorem State.tell_ports : (s.tell e).ports = s.ports := rfl
@[simp] theorem State.tell_corrections : (s.tell e).corrections = s.corrections := rfl
@[simp] theorem State.tell_device : (s.tell e).device = s.device := rfl
@[simp] theorem State.tell_seals : (s.tell e).seals = s.seals := rfl
@[simp] theorem State.tell_spills : (s.tell e).spills = s.spills := rfl
@[simp] theorem State.tell_backs : (s.tell e).backs = s.backs := rfl
@[simp] theorem State.tell_sealedAt : (s.tell e).sealedAt = s.sealedAt := rfl
@[simp] theorem State.tell_acks : (s.tell e).acks = s.acks := rfl
@[simp] theorem State.tell_milliner : (s.tell e).milliner = s.milliner := rfl
@[simp] theorem State.tell_brim : (s.tell e).brim = s.brim := rfl
@[simp] theorem State.tell_sent : (s.tell e).sent = s.sent := rfl

end Tell

section Packet

variable (s : State) (j : BitVec 16) (a b : Nat) (f : Flit)

@[simp] theorem State.packet_cur : (s.packet j a b f).cur = s.cur := rfl
@[simp] theorem State.packet_agenda : (s.packet j a b f).agenda = s.agenda := rfl
@[simp] theorem State.packet_split : (s.packet j a b f).split = s.split := rfl
@[simp] theorem State.packet_free : (s.packet j a b f).free = s.free := rfl
@[simp] theorem State.packet_cores : (s.packet j a b f).cores = s.cores := rfl
@[simp] theorem State.packet_mem : (s.packet j a b f).mem = s.mem := rfl
@[simp] theorem State.packet_pois : (s.packet j a b f).pois = s.pois := rfl
@[simp] theorem State.packet_written : (s.packet j a b f).written = s.written := rfl
@[simp] theorem State.packet_scfill : (s.packet j a b f).scfill = s.scfill := rfl
@[simp] theorem State.packet_priv : (s.packet j a b f).priv = s.priv := rfl
@[simp] theorem State.packet_writer : (s.packet j a b f).writer = s.writer := rfl
@[simp] theorem State.packet_xlates : (s.packet j a b f).xlates = s.xlates := rfl
@[simp] theorem State.packet_dropped : (s.packet j a b f).dropped = s.dropped := rfl
@[simp] theorem State.packet_accs : (s.packet j a b f).accs = s.accs := rfl
@[simp] theorem State.packet_wreqs : (s.packet j a b f).wreqs = s.wreqs := rfl
@[simp] theorem State.packet_wales : (s.packet j a b f).wales = s.wales := rfl
@[simp] theorem State.packet_mails : (s.packet j a b f).mails = s.mails := rfl
@[simp] theorem State.packet_ctrs : (s.packet j a b f).ctrs = s.ctrs := rfl
@[simp] theorem State.packet_moves : (s.packet j a b f).moves = s.moves := rfl
@[simp] theorem State.packet_preempts : (s.packet j a b f).preempts = s.preempts := rfl
@[simp] theorem State.packet_waits : (s.packet j a b f).waits = s.waits := rfl
@[simp] theorem State.packet_scheds : (s.packet j a b f).scheds = s.scheds := rfl
@[simp] theorem State.packet_weavers : (s.packet j a b f).weavers = s.weavers := rfl
@[simp] theorem State.packet_islands : (s.packet j a b f).islands = s.islands := rfl
@[simp] theorem State.packet_jobs : (s.packet j a b f).jobs = s.jobs := rfl
@[simp] theorem State.packet_hoods : (s.packet j a b f).hoods = s.hoods := rfl
@[simp] theorem State.packet_ports : (s.packet j a b f).ports = s.ports := rfl
@[simp] theorem State.packet_corrections : (s.packet j a b f).corrections = s.corrections := rfl
@[simp] theorem State.packet_device : (s.packet j a b f).device = s.device := rfl
@[simp] theorem State.packet_seals : (s.packet j a b f).seals = s.seals := rfl
@[simp] theorem State.packet_spills : (s.packet j a b f).spills = s.spills := rfl
@[simp] theorem State.packet_backs : (s.packet j a b f).backs = s.backs := rfl
@[simp] theorem State.packet_sealedAt : (s.packet j a b f).sealedAt = s.sealedAt := rfl
@[simp] theorem State.packet_acks : (s.packet j a b f).acks = s.acks := rfl
@[simp] theorem State.packet_milliner : (s.packet j a b f).milliner = s.milliner := rfl
@[simp] theorem State.packet_brim : (s.packet j a b f).brim = s.brim := rfl
@[simp] theorem State.packet_events : (s.packet j a b f).events = s.events := rfl
@[simp] theorem State.packet_sent : (s.packet j a b f).sent = s.sent := rfl

end Packet

section UseFree

variable (s : State)

@[simp] theorem State.useFree_cur : (s.useFree).cur = s.cur := rfl
@[simp] theorem State.useFree_agenda : (s.useFree).agenda = s.agenda := rfl
@[simp] theorem State.useFree_split : (s.useFree).split = s.split := rfl
@[simp] theorem State.useFree_serial : (s.useFree).serial = s.serial := rfl
@[simp] theorem State.useFree_cores : (s.useFree).cores = s.cores := rfl
@[simp] theorem State.useFree_mem : (s.useFree).mem = s.mem := rfl
@[simp] theorem State.useFree_pois : (s.useFree).pois = s.pois := rfl
@[simp] theorem State.useFree_written : (s.useFree).written = s.written := rfl
@[simp] theorem State.useFree_scfill : (s.useFree).scfill = s.scfill := rfl
@[simp] theorem State.useFree_priv : (s.useFree).priv = s.priv := rfl
@[simp] theorem State.useFree_writer : (s.useFree).writer = s.writer := rfl
@[simp] theorem State.useFree_xlates : (s.useFree).xlates = s.xlates := rfl
@[simp] theorem State.useFree_dropped : (s.useFree).dropped = s.dropped := rfl
@[simp] theorem State.useFree_accs : (s.useFree).accs = s.accs := rfl
@[simp] theorem State.useFree_wreqs : (s.useFree).wreqs = s.wreqs := rfl
@[simp] theorem State.useFree_wales : (s.useFree).wales = s.wales := rfl
@[simp] theorem State.useFree_mails : (s.useFree).mails = s.mails := rfl
@[simp] theorem State.useFree_packets : (s.useFree).packets = s.packets := rfl
@[simp] theorem State.useFree_ctrs : (s.useFree).ctrs = s.ctrs := rfl
@[simp] theorem State.useFree_moves : (s.useFree).moves = s.moves := rfl
@[simp] theorem State.useFree_preempts : (s.useFree).preempts = s.preempts := rfl
@[simp] theorem State.useFree_waits : (s.useFree).waits = s.waits := rfl
@[simp] theorem State.useFree_scheds : (s.useFree).scheds = s.scheds := rfl
@[simp] theorem State.useFree_weavers : (s.useFree).weavers = s.weavers := rfl
@[simp] theorem State.useFree_islands : (s.useFree).islands = s.islands := rfl
@[simp] theorem State.useFree_jobs : (s.useFree).jobs = s.jobs := rfl
@[simp] theorem State.useFree_hoods : (s.useFree).hoods = s.hoods := rfl
@[simp] theorem State.useFree_ports : (s.useFree).ports = s.ports := rfl
@[simp] theorem State.useFree_corrections : (s.useFree).corrections = s.corrections := rfl
@[simp] theorem State.useFree_device : (s.useFree).device = s.device := rfl
@[simp] theorem State.useFree_seals : (s.useFree).seals = s.seals := rfl
@[simp] theorem State.useFree_spills : (s.useFree).spills = s.spills := rfl
@[simp] theorem State.useFree_backs : (s.useFree).backs = s.backs := rfl
@[simp] theorem State.useFree_sealedAt : (s.useFree).sealedAt = s.sealedAt := rfl
@[simp] theorem State.useFree_acks : (s.useFree).acks = s.acks := rfl
@[simp] theorem State.useFree_milliner : (s.useFree).milliner = s.milliner := rfl
@[simp] theorem State.useFree_brim : (s.useFree).brim = s.brim := rfl
@[simp] theorem State.useFree_events : (s.useFree).events = s.events := rfl
@[simp] theorem State.useFree_sent : (s.useFree).sent = s.sent := rfl

end UseFree

section ModIsland

variable (s : State) (i : Nat) (f : Island → Island)

@[simp] theorem State.modIsland_cur : (s.modIsland i f).cur = s.cur := rfl
@[simp] theorem State.modIsland_agenda : (s.modIsland i f).agenda = s.agenda := rfl
@[simp] theorem State.modIsland_split : (s.modIsland i f).split = s.split := rfl
@[simp] theorem State.modIsland_free : (s.modIsland i f).free = s.free := rfl
@[simp] theorem State.modIsland_serial : (s.modIsland i f).serial = s.serial := rfl
@[simp] theorem State.modIsland_cores : (s.modIsland i f).cores = s.cores := rfl
@[simp] theorem State.modIsland_mem : (s.modIsland i f).mem = s.mem := rfl
@[simp] theorem State.modIsland_pois : (s.modIsland i f).pois = s.pois := rfl
@[simp] theorem State.modIsland_written : (s.modIsland i f).written = s.written := rfl
@[simp] theorem State.modIsland_scfill : (s.modIsland i f).scfill = s.scfill := rfl
@[simp] theorem State.modIsland_priv : (s.modIsland i f).priv = s.priv := rfl
@[simp] theorem State.modIsland_writer : (s.modIsland i f).writer = s.writer := rfl
@[simp] theorem State.modIsland_xlates : (s.modIsland i f).xlates = s.xlates := rfl
@[simp] theorem State.modIsland_dropped : (s.modIsland i f).dropped = s.dropped := rfl
@[simp] theorem State.modIsland_accs : (s.modIsland i f).accs = s.accs := rfl
@[simp] theorem State.modIsland_wreqs : (s.modIsland i f).wreqs = s.wreqs := rfl
@[simp] theorem State.modIsland_wales : (s.modIsland i f).wales = s.wales := rfl
@[simp] theorem State.modIsland_mails : (s.modIsland i f).mails = s.mails := rfl
@[simp] theorem State.modIsland_packets : (s.modIsland i f).packets = s.packets := rfl
@[simp] theorem State.modIsland_ctrs : (s.modIsland i f).ctrs = s.ctrs := rfl
@[simp] theorem State.modIsland_moves : (s.modIsland i f).moves = s.moves := rfl
@[simp] theorem State.modIsland_preempts : (s.modIsland i f).preempts = s.preempts := rfl
@[simp] theorem State.modIsland_waits : (s.modIsland i f).waits = s.waits := rfl
@[simp] theorem State.modIsland_scheds : (s.modIsland i f).scheds = s.scheds := rfl
@[simp] theorem State.modIsland_weavers : (s.modIsland i f).weavers = s.weavers := rfl
@[simp] theorem State.modIsland_jobs : (s.modIsland i f).jobs = s.jobs := rfl
@[simp] theorem State.modIsland_hoods : (s.modIsland i f).hoods = s.hoods := rfl
@[simp] theorem State.modIsland_ports : (s.modIsland i f).ports = s.ports := rfl
@[simp] theorem State.modIsland_corrections : (s.modIsland i f).corrections = s.corrections := rfl
@[simp] theorem State.modIsland_device : (s.modIsland i f).device = s.device := rfl
@[simp] theorem State.modIsland_seals : (s.modIsland i f).seals = s.seals := rfl
@[simp] theorem State.modIsland_spills : (s.modIsland i f).spills = s.spills := rfl
@[simp] theorem State.modIsland_backs : (s.modIsland i f).backs = s.backs := rfl
@[simp] theorem State.modIsland_sealedAt : (s.modIsland i f).sealedAt = s.sealedAt := rfl
@[simp] theorem State.modIsland_acks : (s.modIsland i f).acks = s.acks := rfl
@[simp] theorem State.modIsland_milliner : (s.modIsland i f).milliner = s.milliner := rfl
@[simp] theorem State.modIsland_brim : (s.modIsland i f).brim = s.brim := rfl
@[simp] theorem State.modIsland_events : (s.modIsland i f).events = s.events := rfl
@[simp] theorem State.modIsland_sent : (s.modIsland i f).sent = s.sent := rfl

end ModIsland

section ModSched

variable (s : State) (i : Nat) (f : Sched → Sched)

@[simp] theorem State.modSched_cur : (s.modSched i f).cur = s.cur := rfl
@[simp] theorem State.modSched_agenda : (s.modSched i f).agenda = s.agenda := rfl
@[simp] theorem State.modSched_split : (s.modSched i f).split = s.split := rfl
@[simp] theorem State.modSched_free : (s.modSched i f).free = s.free := rfl
@[simp] theorem State.modSched_serial : (s.modSched i f).serial = s.serial := rfl
@[simp] theorem State.modSched_cores : (s.modSched i f).cores = s.cores := rfl
@[simp] theorem State.modSched_mem : (s.modSched i f).mem = s.mem := rfl
@[simp] theorem State.modSched_pois : (s.modSched i f).pois = s.pois := rfl
@[simp] theorem State.modSched_written : (s.modSched i f).written = s.written := rfl
@[simp] theorem State.modSched_scfill : (s.modSched i f).scfill = s.scfill := rfl
@[simp] theorem State.modSched_priv : (s.modSched i f).priv = s.priv := rfl
@[simp] theorem State.modSched_writer : (s.modSched i f).writer = s.writer := rfl
@[simp] theorem State.modSched_xlates : (s.modSched i f).xlates = s.xlates := rfl
@[simp] theorem State.modSched_dropped : (s.modSched i f).dropped = s.dropped := rfl
@[simp] theorem State.modSched_accs : (s.modSched i f).accs = s.accs := rfl
@[simp] theorem State.modSched_wreqs : (s.modSched i f).wreqs = s.wreqs := rfl
@[simp] theorem State.modSched_wales : (s.modSched i f).wales = s.wales := rfl
@[simp] theorem State.modSched_mails : (s.modSched i f).mails = s.mails := rfl
@[simp] theorem State.modSched_packets : (s.modSched i f).packets = s.packets := rfl
@[simp] theorem State.modSched_ctrs : (s.modSched i f).ctrs = s.ctrs := rfl
@[simp] theorem State.modSched_moves : (s.modSched i f).moves = s.moves := rfl
@[simp] theorem State.modSched_preempts : (s.modSched i f).preempts = s.preempts := rfl
@[simp] theorem State.modSched_waits : (s.modSched i f).waits = s.waits := rfl
@[simp] theorem State.modSched_weavers : (s.modSched i f).weavers = s.weavers := rfl
@[simp] theorem State.modSched_islands : (s.modSched i f).islands = s.islands := rfl
@[simp] theorem State.modSched_jobs : (s.modSched i f).jobs = s.jobs := rfl
@[simp] theorem State.modSched_hoods : (s.modSched i f).hoods = s.hoods := rfl
@[simp] theorem State.modSched_ports : (s.modSched i f).ports = s.ports := rfl
@[simp] theorem State.modSched_corrections : (s.modSched i f).corrections = s.corrections := rfl
@[simp] theorem State.modSched_device : (s.modSched i f).device = s.device := rfl
@[simp] theorem State.modSched_seals : (s.modSched i f).seals = s.seals := rfl
@[simp] theorem State.modSched_spills : (s.modSched i f).spills = s.spills := rfl
@[simp] theorem State.modSched_backs : (s.modSched i f).backs = s.backs := rfl
@[simp] theorem State.modSched_sealedAt : (s.modSched i f).sealedAt = s.sealedAt := rfl
@[simp] theorem State.modSched_acks : (s.modSched i f).acks = s.acks := rfl
@[simp] theorem State.modSched_milliner : (s.modSched i f).milliner = s.milliner := rfl
@[simp] theorem State.modSched_brim : (s.modSched i f).brim = s.brim := rfl
@[simp] theorem State.modSched_events : (s.modSched i f).events = s.events := rfl
@[simp] theorem State.modSched_sent : (s.modSched i f).sent = s.sent := rfl

end ModSched

section ModWeaver

variable (s : State) (i : Nat) (f : Weaver → Weaver)

@[simp] theorem State.modWeaver_cur : (s.modWeaver i f).cur = s.cur := rfl
@[simp] theorem State.modWeaver_agenda : (s.modWeaver i f).agenda = s.agenda := rfl
@[simp] theorem State.modWeaver_split : (s.modWeaver i f).split = s.split := rfl
@[simp] theorem State.modWeaver_free : (s.modWeaver i f).free = s.free := rfl
@[simp] theorem State.modWeaver_serial : (s.modWeaver i f).serial = s.serial := rfl
@[simp] theorem State.modWeaver_cores : (s.modWeaver i f).cores = s.cores := rfl
@[simp] theorem State.modWeaver_mem : (s.modWeaver i f).mem = s.mem := rfl
@[simp] theorem State.modWeaver_pois : (s.modWeaver i f).pois = s.pois := rfl
@[simp] theorem State.modWeaver_written : (s.modWeaver i f).written = s.written := rfl
@[simp] theorem State.modWeaver_scfill : (s.modWeaver i f).scfill = s.scfill := rfl
@[simp] theorem State.modWeaver_priv : (s.modWeaver i f).priv = s.priv := rfl
@[simp] theorem State.modWeaver_writer : (s.modWeaver i f).writer = s.writer := rfl
@[simp] theorem State.modWeaver_xlates : (s.modWeaver i f).xlates = s.xlates := rfl
@[simp] theorem State.modWeaver_dropped : (s.modWeaver i f).dropped = s.dropped := rfl
@[simp] theorem State.modWeaver_accs : (s.modWeaver i f).accs = s.accs := rfl
@[simp] theorem State.modWeaver_wreqs : (s.modWeaver i f).wreqs = s.wreqs := rfl
@[simp] theorem State.modWeaver_wales : (s.modWeaver i f).wales = s.wales := rfl
@[simp] theorem State.modWeaver_mails : (s.modWeaver i f).mails = s.mails := rfl
@[simp] theorem State.modWeaver_packets : (s.modWeaver i f).packets = s.packets := rfl
@[simp] theorem State.modWeaver_ctrs : (s.modWeaver i f).ctrs = s.ctrs := rfl
@[simp] theorem State.modWeaver_moves : (s.modWeaver i f).moves = s.moves := rfl
@[simp] theorem State.modWeaver_preempts : (s.modWeaver i f).preempts = s.preempts := rfl
@[simp] theorem State.modWeaver_waits : (s.modWeaver i f).waits = s.waits := rfl
@[simp] theorem State.modWeaver_scheds : (s.modWeaver i f).scheds = s.scheds := rfl
@[simp] theorem State.modWeaver_islands : (s.modWeaver i f).islands = s.islands := rfl
@[simp] theorem State.modWeaver_jobs : (s.modWeaver i f).jobs = s.jobs := rfl
@[simp] theorem State.modWeaver_hoods : (s.modWeaver i f).hoods = s.hoods := rfl
@[simp] theorem State.modWeaver_ports : (s.modWeaver i f).ports = s.ports := rfl
@[simp] theorem State.modWeaver_corrections : (s.modWeaver i f).corrections = s.corrections := rfl
@[simp] theorem State.modWeaver_device : (s.modWeaver i f).device = s.device := rfl
@[simp] theorem State.modWeaver_seals : (s.modWeaver i f).seals = s.seals := rfl
@[simp] theorem State.modWeaver_spills : (s.modWeaver i f).spills = s.spills := rfl
@[simp] theorem State.modWeaver_backs : (s.modWeaver i f).backs = s.backs := rfl
@[simp] theorem State.modWeaver_sealedAt : (s.modWeaver i f).sealedAt = s.sealedAt := rfl
@[simp] theorem State.modWeaver_acks : (s.modWeaver i f).acks = s.acks := rfl
@[simp] theorem State.modWeaver_milliner : (s.modWeaver i f).milliner = s.milliner := rfl
@[simp] theorem State.modWeaver_brim : (s.modWeaver i f).brim = s.brim := rfl
@[simp] theorem State.modWeaver_events : (s.modWeaver i f).events = s.events := rfl
@[simp] theorem State.modWeaver_sent : (s.modWeaver i f).sent = s.sent := rfl

end ModWeaver

section ModPort

variable (s : State) (i : Nat) (f : Port → Port)

@[simp] theorem State.modPort_cur : (s.modPort i f).cur = s.cur := rfl
@[simp] theorem State.modPort_agenda : (s.modPort i f).agenda = s.agenda := rfl
@[simp] theorem State.modPort_split : (s.modPort i f).split = s.split := rfl
@[simp] theorem State.modPort_free : (s.modPort i f).free = s.free := rfl
@[simp] theorem State.modPort_serial : (s.modPort i f).serial = s.serial := rfl
@[simp] theorem State.modPort_cores : (s.modPort i f).cores = s.cores := rfl
@[simp] theorem State.modPort_mem : (s.modPort i f).mem = s.mem := rfl
@[simp] theorem State.modPort_pois : (s.modPort i f).pois = s.pois := rfl
@[simp] theorem State.modPort_written : (s.modPort i f).written = s.written := rfl
@[simp] theorem State.modPort_scfill : (s.modPort i f).scfill = s.scfill := rfl
@[simp] theorem State.modPort_priv : (s.modPort i f).priv = s.priv := rfl
@[simp] theorem State.modPort_writer : (s.modPort i f).writer = s.writer := rfl
@[simp] theorem State.modPort_xlates : (s.modPort i f).xlates = s.xlates := rfl
@[simp] theorem State.modPort_dropped : (s.modPort i f).dropped = s.dropped := rfl
@[simp] theorem State.modPort_accs : (s.modPort i f).accs = s.accs := rfl
@[simp] theorem State.modPort_wreqs : (s.modPort i f).wreqs = s.wreqs := rfl
@[simp] theorem State.modPort_wales : (s.modPort i f).wales = s.wales := rfl
@[simp] theorem State.modPort_mails : (s.modPort i f).mails = s.mails := rfl
@[simp] theorem State.modPort_packets : (s.modPort i f).packets = s.packets := rfl
@[simp] theorem State.modPort_ctrs : (s.modPort i f).ctrs = s.ctrs := rfl
@[simp] theorem State.modPort_moves : (s.modPort i f).moves = s.moves := rfl
@[simp] theorem State.modPort_preempts : (s.modPort i f).preempts = s.preempts := rfl
@[simp] theorem State.modPort_waits : (s.modPort i f).waits = s.waits := rfl
@[simp] theorem State.modPort_scheds : (s.modPort i f).scheds = s.scheds := rfl
@[simp] theorem State.modPort_weavers : (s.modPort i f).weavers = s.weavers := rfl
@[simp] theorem State.modPort_islands : (s.modPort i f).islands = s.islands := rfl
@[simp] theorem State.modPort_jobs : (s.modPort i f).jobs = s.jobs := rfl
@[simp] theorem State.modPort_hoods : (s.modPort i f).hoods = s.hoods := rfl
@[simp] theorem State.modPort_corrections : (s.modPort i f).corrections = s.corrections := rfl
@[simp] theorem State.modPort_device : (s.modPort i f).device = s.device := rfl
@[simp] theorem State.modPort_seals : (s.modPort i f).seals = s.seals := rfl
@[simp] theorem State.modPort_spills : (s.modPort i f).spills = s.spills := rfl
@[simp] theorem State.modPort_backs : (s.modPort i f).backs = s.backs := rfl
@[simp] theorem State.modPort_sealedAt : (s.modPort i f).sealedAt = s.sealedAt := rfl
@[simp] theorem State.modPort_acks : (s.modPort i f).acks = s.acks := rfl
@[simp] theorem State.modPort_milliner : (s.modPort i f).milliner = s.milliner := rfl
@[simp] theorem State.modPort_brim : (s.modPort i f).brim = s.brim := rfl
@[simp] theorem State.modPort_events : (s.modPort i f).events = s.events := rfl
@[simp] theorem State.modPort_sent : (s.modPort i f).sent = s.sent := rfl

end ModPort

section ModHoods

variable (s : State) (p : Hood → Bool) (f : Hood → Hood)

@[simp] theorem State.modHoods_cur : (s.modHoods p f).cur = s.cur := rfl
@[simp] theorem State.modHoods_agenda : (s.modHoods p f).agenda = s.agenda := rfl
@[simp] theorem State.modHoods_split : (s.modHoods p f).split = s.split := rfl
@[simp] theorem State.modHoods_free : (s.modHoods p f).free = s.free := rfl
@[simp] theorem State.modHoods_serial : (s.modHoods p f).serial = s.serial := rfl
@[simp] theorem State.modHoods_cores : (s.modHoods p f).cores = s.cores := rfl
@[simp] theorem State.modHoods_mem : (s.modHoods p f).mem = s.mem := rfl
@[simp] theorem State.modHoods_pois : (s.modHoods p f).pois = s.pois := rfl
@[simp] theorem State.modHoods_written : (s.modHoods p f).written = s.written := rfl
@[simp] theorem State.modHoods_scfill : (s.modHoods p f).scfill = s.scfill := rfl
@[simp] theorem State.modHoods_priv : (s.modHoods p f).priv = s.priv := rfl
@[simp] theorem State.modHoods_writer : (s.modHoods p f).writer = s.writer := rfl
@[simp] theorem State.modHoods_xlates : (s.modHoods p f).xlates = s.xlates := rfl
@[simp] theorem State.modHoods_dropped : (s.modHoods p f).dropped = s.dropped := rfl
@[simp] theorem State.modHoods_accs : (s.modHoods p f).accs = s.accs := rfl
@[simp] theorem State.modHoods_wreqs : (s.modHoods p f).wreqs = s.wreqs := rfl
@[simp] theorem State.modHoods_wales : (s.modHoods p f).wales = s.wales := rfl
@[simp] theorem State.modHoods_mails : (s.modHoods p f).mails = s.mails := rfl
@[simp] theorem State.modHoods_packets : (s.modHoods p f).packets = s.packets := rfl
@[simp] theorem State.modHoods_ctrs : (s.modHoods p f).ctrs = s.ctrs := rfl
@[simp] theorem State.modHoods_moves : (s.modHoods p f).moves = s.moves := rfl
@[simp] theorem State.modHoods_preempts : (s.modHoods p f).preempts = s.preempts := rfl
@[simp] theorem State.modHoods_waits : (s.modHoods p f).waits = s.waits := rfl
@[simp] theorem State.modHoods_scheds : (s.modHoods p f).scheds = s.scheds := rfl
@[simp] theorem State.modHoods_weavers : (s.modHoods p f).weavers = s.weavers := rfl
@[simp] theorem State.modHoods_islands : (s.modHoods p f).islands = s.islands := rfl
@[simp] theorem State.modHoods_jobs : (s.modHoods p f).jobs = s.jobs := rfl
@[simp] theorem State.modHoods_ports : (s.modHoods p f).ports = s.ports := rfl
@[simp] theorem State.modHoods_corrections : (s.modHoods p f).corrections = s.corrections := rfl
@[simp] theorem State.modHoods_device : (s.modHoods p f).device = s.device := rfl
@[simp] theorem State.modHoods_seals : (s.modHoods p f).seals = s.seals := rfl
@[simp] theorem State.modHoods_spills : (s.modHoods p f).spills = s.spills := rfl
@[simp] theorem State.modHoods_backs : (s.modHoods p f).backs = s.backs := rfl
@[simp] theorem State.modHoods_sealedAt : (s.modHoods p f).sealedAt = s.sealedAt := rfl
@[simp] theorem State.modHoods_acks : (s.modHoods p f).acks = s.acks := rfl
@[simp] theorem State.modHoods_milliner : (s.modHoods p f).milliner = s.milliner := rfl
@[simp] theorem State.modHoods_brim : (s.modHoods p f).brim = s.brim := rfl
@[simp] theorem State.modHoods_events : (s.modHoods p f).events = s.events := rfl
@[simp] theorem State.modHoods_sent : (s.modHoods p f).sent = s.sent := rfl

end ModHoods

section CoreSetStrand

variable (k : Core) (n : Nat) (t : Strand)

@[simp] theorem Core.setStrand_cause : (k.setStrand n t).cause = k.cause := rfl
@[simp] theorem Core.setStrand_epc : (k.setStrand n t).epc = k.epc := rfl
@[simp] theorem Core.setStrand_faddr : (k.setStrand n t).faddr = k.faddr := rfl
@[simp] theorem Core.setStrand_mode : (k.setStrand n t).mode = k.mode := rfl
@[simp] theorem Core.setStrand_agewin : (k.setStrand n t).agewin = k.agewin := rfl
@[simp] theorem Core.setStrand_ftz : (k.setStrand n t).ftz = k.ftz := rfl
@[simp] theorem Core.setStrand_tags : (k.setStrand n t).tags = k.tags := rfl
@[simp] theorem Core.setStrand_htbase : (k.setStrand n t).htbase = k.htbase := rfl
@[simp] theorem Core.setStrand_msbase : (k.setStrand n t).msbase = k.msbase := rfl
@[simp] theorem Core.setStrand_mslen : (k.setStrand n t).mslen = k.mslen := rfl
@[simp] theorem Core.setStrand_declarer : (k.setStrand n t).declarer = k.declarer := rfl
@[simp] theorem Core.setStrand_stageasn : (k.setStrand n t).stageasn = k.stageasn := rfl
@[simp] theorem Core.setStrand_tvec : (k.setStrand n t).tvec = k.tvec := rfl
@[simp] theorem Core.setStrand_sscr : (k.setStrand n t).sscr = k.sscr := rfl
@[simp] theorem Core.setStrand_jtbase : (k.setStrand n t).jtbase = k.jtbase := rfl
@[simp] theorem Core.setStrand_fatbase : (k.setStrand n t).fatbase = k.fatbase := rfl
@[simp] theorem Core.setStrand_banks : (k.setStrand n t).banks = k.banks := rfl
@[simp] theorem Core.setStrand_busy : (k.setStrand n t).busy = k.busy := rfl
@[simp] theorem Core.setStrand_bankq : (k.setStrand n t).bankq = k.bankq := rfl
@[simp] theorem Core.setStrand_scratch : (k.setStrand n t).scratch = k.scratch := rfl
@[simp] theorem Core.setStrand_spois : (k.setStrand n t).spois = k.spois := rfl
@[simp] theorem Core.setStrand_lines : (k.setStrand n t).lines = k.lines := rfl
@[simp] theorem Core.setStrand_journal : (k.setStrand n t).journal = k.journal := rfl
@[simp] theorem Core.setStrand_bars : (k.setStrand n t).bars = k.bars := rfl
@[simp] theorem Core.setStrand_copies : (k.setStrand n t).copies = k.copies := rfl
@[simp] theorem Core.setStrand_queues : (k.setStrand n t).queues = k.queues := rfl
@[simp] theorem Core.setStrand_fifos : (k.setStrand n t).fifos = k.fifos := rfl
@[simp] theorem Core.setStrand_deque : (k.setStrand n t).deque = k.deque := rfl
@[simp] theorem Core.setStrand_dspill : (k.setStrand n t).dspill = k.dspill := rfl
@[simp] theorem Core.setStrand_mbox : (k.setStrand n t).mbox = k.mbox := rfl
@[simp] theorem Core.setStrand_mspill : (k.setStrand n t).mspill = k.mspill := rfl
@[simp] theorem Core.setStrand_sendq : (k.setStrand n t).sendq = k.sendq := rfl
@[simp] theorem Core.setStrand_matrix : (k.setStrand n t).matrix = k.matrix := rfl
@[simp] theorem Core.setStrand_arms : (k.setStrand n t).arms = k.arms := rfl
@[simp] theorem Core.setStrand_replay : (k.setStrand n t).replay = k.replay := rfl
@[simp] theorem Core.setStrand_leaseq : (k.setStrand n t).leaseq = k.leaseq := rfl
@[simp] theorem Core.setStrand_thief : (k.setStrand n t).thief = k.thief := rfl
@[simp] theorem Core.setStrand_asked : (k.setStrand n t).asked = k.asked := rfl
@[simp] theorem Core.setStrand_fwd : (k.setStrand n t).fwd = k.fwd := rfl
@[simp] theorem Core.setStrand_recent : (k.setStrand n t).recent = k.recent := rfl
@[simp] theorem Core.setStrand_slots : (k.setStrand n t).slots = k.slots := rfl
@[simp] theorem Core.setStrand_issued : (k.setStrand n t).issued = k.issued := rfl
@[simp] theorem Core.setStrand_idle : (k.setStrand n t).idle = k.idle := rfl
@[simp] theorem Core.setStrand_refusals : (k.setStrand n t).refusals = k.refusals := rfl
@[simp] theorem Core.setStrand_window : (k.setStrand n t).window = k.window := rfl
@[simp] theorem Core.setStrand_due : (k.setStrand n t).due = k.due := rfl
@[simp] theorem Core.setStrand_sampled : (k.setStrand n t).sampled = k.sampled := rfl
@[simp] theorem Core.setStrand_wvmove : (k.setStrand n t).wvmove = k.wvmove := rfl
@[simp] theorem Core.setStrand_halted : (k.setStrand n t).halted = k.halted := rfl

end CoreSetStrand

section StrandPutG

variable (t : Strand) (d : GReg) (v : Word)

@[simp] theorem Strand.putG_st : (t.putG d v).st = t.st := rfl
@[simp] theorem Strand.putG_pc : (t.putG d v).pc = t.pc := rfl
@[simp] theorem Strand.putG_sup : (t.putG d v).sup = t.sup := rfl
@[simp] theorem Strand.putG_intrap : (t.putG d v).intrap = t.intrap := rfl
@[simp] theorem Strand.putG_vl : (t.putG d v).vl = t.vl := rfl
@[simp] theorem Strand.putG_fl : (t.putG d v).fl = t.fl := rfl
@[simp] theorem Strand.putG_job : (t.putG d v).job = t.job := rfl
@[simp] theorem Strand.putG_strid : (t.putG d v).strid = t.strid := rfl
@[simp] theorem Strand.putG_frm : (t.putG d v).frm = t.frm := rfl
@[simp] theorem Strand.putG_prio : (t.putG d v).prio = t.prio := rfl
@[simp] theorem Strand.putG_role : (t.putG d v).role = t.role := rfl
@[simp] theorem Strand.putG_fmta : (t.putG d v).fmta = t.fmta := rfl
@[simp] theorem Strand.putG_fmtb : (t.putG d v).fmtb = t.fmtb := rfl
@[simp] theorem Strand.putG_scla : (t.putG d v).scla = t.scla := rfl
@[simp] theorem Strand.putG_sclb : (t.putG d v).sclb = t.sclb := rfl
@[simp] theorem Strand.putG_lid : (t.putG d v).lid = t.lid := rfl
@[simp] theorem Strand.putG_wtok : (t.putG d v).wtok = t.wtok := rfl
@[simp] theorem Strand.putG_outs : (t.putG d v).outs = t.outs := rfl
@[simp] theorem Strand.putG_rel : (t.putG d v).rel = t.rel := rfl
@[simp] theorem Strand.putG_fence : (t.putG d v).fence = t.fence := rfl
@[simp] theorem Strand.putG_mon : (t.putG d v).mon = t.mon := rfl
@[simp] theorem Strand.putG_traps : (t.putG d v).traps = t.traps := rfl
@[simp] theorem Strand.putG_held : (t.putG d v).held = t.held := rfl
@[simp] theorem Strand.putG_sender : (t.putG d v).sender = t.sender := rfl
@[simp] theorem Strand.putG_row : (t.putG d v).row = t.row := rfl
@[simp] theorem Strand.putG_age : (t.putG d v).age = t.age := rfl
@[simp] theorem Strand.putG_yields : (t.putG d v).yields = t.yields := rfl
@[simp] theorem Strand.putG_nohint : (t.putG d v).nohint = t.nohint := rfl
@[simp] theorem Strand.putG_pfail : (t.putG d v).pfail = t.pfail := rfl
@[simp] theorem Strand.putG_rest : (t.putG d v).rest = t.rest := rfl

end StrandPutG

section StrandPutV

variable (t : Strand) (n : Nat) (x : VWord)

@[simp] theorem Strand.putV_st : (t.putV n x).st = t.st := rfl
@[simp] theorem Strand.putV_pc : (t.putV n x).pc = t.pc := rfl
@[simp] theorem Strand.putV_sup : (t.putV n x).sup = t.sup := rfl
@[simp] theorem Strand.putV_intrap : (t.putV n x).intrap = t.intrap := rfl
@[simp] theorem Strand.putV_vl : (t.putV n x).vl = t.vl := rfl
@[simp] theorem Strand.putV_fl : (t.putV n x).fl = t.fl := rfl
@[simp] theorem Strand.putV_job : (t.putV n x).job = t.job := rfl
@[simp] theorem Strand.putV_strid : (t.putV n x).strid = t.strid := rfl
@[simp] theorem Strand.putV_frm : (t.putV n x).frm = t.frm := rfl
@[simp] theorem Strand.putV_prio : (t.putV n x).prio = t.prio := rfl
@[simp] theorem Strand.putV_role : (t.putV n x).role = t.role := rfl
@[simp] theorem Strand.putV_fmta : (t.putV n x).fmta = t.fmta := rfl
@[simp] theorem Strand.putV_fmtb : (t.putV n x).fmtb = t.fmtb := rfl
@[simp] theorem Strand.putV_scla : (t.putV n x).scla = t.scla := rfl
@[simp] theorem Strand.putV_sclb : (t.putV n x).sclb = t.sclb := rfl
@[simp] theorem Strand.putV_lid : (t.putV n x).lid = t.lid := rfl
@[simp] theorem Strand.putV_wtok : (t.putV n x).wtok = t.wtok := rfl
@[simp] theorem Strand.putV_outs : (t.putV n x).outs = t.outs := rfl
@[simp] theorem Strand.putV_rel : (t.putV n x).rel = t.rel := rfl
@[simp] theorem Strand.putV_fence : (t.putV n x).fence = t.fence := rfl
@[simp] theorem Strand.putV_mon : (t.putV n x).mon = t.mon := rfl
@[simp] theorem Strand.putV_traps : (t.putV n x).traps = t.traps := rfl
@[simp] theorem Strand.putV_held : (t.putV n x).held = t.held := rfl
@[simp] theorem Strand.putV_sender : (t.putV n x).sender = t.sender := rfl
@[simp] theorem Strand.putV_row : (t.putV n x).row = t.row := rfl
@[simp] theorem Strand.putV_age : (t.putV n x).age = t.age := rfl
@[simp] theorem Strand.putV_yields : (t.putV n x).yields = t.yields := rfl
@[simp] theorem Strand.putV_nohint : (t.putV n x).nohint = t.nohint := rfl
@[simp] theorem Strand.putV_pfail : (t.putV n x).pfail = t.pfail := rfl
@[simp] theorem Strand.putV_rest : (t.putV n x).rest = t.rest := rfl

end StrandPutV

section StrandPutC

variable (t : Strand) (n : CReg) (x : Word)

@[simp] theorem Strand.putC_st : (t.putC n x).st = t.st := rfl
@[simp] theorem Strand.putC_pc : (t.putC n x).pc = t.pc := rfl
@[simp] theorem Strand.putC_sup : (t.putC n x).sup = t.sup := rfl
@[simp] theorem Strand.putC_intrap : (t.putC n x).intrap = t.intrap := rfl
@[simp] theorem Strand.putC_vl : (t.putC n x).vl = t.vl := rfl
@[simp] theorem Strand.putC_fl : (t.putC n x).fl = t.fl := rfl
@[simp] theorem Strand.putC_job : (t.putC n x).job = t.job := rfl
@[simp] theorem Strand.putC_strid : (t.putC n x).strid = t.strid := rfl
@[simp] theorem Strand.putC_frm : (t.putC n x).frm = t.frm := rfl
@[simp] theorem Strand.putC_prio : (t.putC n x).prio = t.prio := rfl
@[simp] theorem Strand.putC_role : (t.putC n x).role = t.role := rfl
@[simp] theorem Strand.putC_fmta : (t.putC n x).fmta = t.fmta := rfl
@[simp] theorem Strand.putC_fmtb : (t.putC n x).fmtb = t.fmtb := rfl
@[simp] theorem Strand.putC_scla : (t.putC n x).scla = t.scla := rfl
@[simp] theorem Strand.putC_sclb : (t.putC n x).sclb = t.sclb := rfl
@[simp] theorem Strand.putC_lid : (t.putC n x).lid = t.lid := rfl
@[simp] theorem Strand.putC_wtok : (t.putC n x).wtok = t.wtok := rfl
@[simp] theorem Strand.putC_outs : (t.putC n x).outs = t.outs := rfl
@[simp] theorem Strand.putC_rel : (t.putC n x).rel = t.rel := rfl
@[simp] theorem Strand.putC_fence : (t.putC n x).fence = t.fence := rfl
@[simp] theorem Strand.putC_mon : (t.putC n x).mon = t.mon := rfl
@[simp] theorem Strand.putC_traps : (t.putC n x).traps = t.traps := rfl
@[simp] theorem Strand.putC_held : (t.putC n x).held = t.held := rfl
@[simp] theorem Strand.putC_sender : (t.putC n x).sender = t.sender := rfl
@[simp] theorem Strand.putC_row : (t.putC n x).row = t.row := rfl
@[simp] theorem Strand.putC_age : (t.putC n x).age = t.age := rfl
@[simp] theorem Strand.putC_yields : (t.putC n x).yields = t.yields := rfl
@[simp] theorem Strand.putC_nohint : (t.putC n x).nohint = t.nohint := rfl
@[simp] theorem Strand.putC_pfail : (t.putC n x).pfail = t.pfail := rfl
@[simp] theorem Strand.putC_rest : (t.putC n x).rest = t.rest := rfl

end StrandPutC

section StrandPutBp

variable (t : Strand) (n : BpReg) (x : BitVec 22)

@[simp] theorem Strand.putBp_st : (t.putBp n x).st = t.st := rfl
@[simp] theorem Strand.putBp_pc : (t.putBp n x).pc = t.pc := rfl
@[simp] theorem Strand.putBp_sup : (t.putBp n x).sup = t.sup := rfl
@[simp] theorem Strand.putBp_intrap : (t.putBp n x).intrap = t.intrap := rfl
@[simp] theorem Strand.putBp_vl : (t.putBp n x).vl = t.vl := rfl
@[simp] theorem Strand.putBp_fl : (t.putBp n x).fl = t.fl := rfl
@[simp] theorem Strand.putBp_job : (t.putBp n x).job = t.job := rfl
@[simp] theorem Strand.putBp_strid : (t.putBp n x).strid = t.strid := rfl
@[simp] theorem Strand.putBp_frm : (t.putBp n x).frm = t.frm := rfl
@[simp] theorem Strand.putBp_prio : (t.putBp n x).prio = t.prio := rfl
@[simp] theorem Strand.putBp_role : (t.putBp n x).role = t.role := rfl
@[simp] theorem Strand.putBp_fmta : (t.putBp n x).fmta = t.fmta := rfl
@[simp] theorem Strand.putBp_fmtb : (t.putBp n x).fmtb = t.fmtb := rfl
@[simp] theorem Strand.putBp_scla : (t.putBp n x).scla = t.scla := rfl
@[simp] theorem Strand.putBp_sclb : (t.putBp n x).sclb = t.sclb := rfl
@[simp] theorem Strand.putBp_lid : (t.putBp n x).lid = t.lid := rfl
@[simp] theorem Strand.putBp_wtok : (t.putBp n x).wtok = t.wtok := rfl
@[simp] theorem Strand.putBp_outs : (t.putBp n x).outs = t.outs := rfl
@[simp] theorem Strand.putBp_rel : (t.putBp n x).rel = t.rel := rfl
@[simp] theorem Strand.putBp_fence : (t.putBp n x).fence = t.fence := rfl
@[simp] theorem Strand.putBp_mon : (t.putBp n x).mon = t.mon := rfl
@[simp] theorem Strand.putBp_traps : (t.putBp n x).traps = t.traps := rfl
@[simp] theorem Strand.putBp_held : (t.putBp n x).held = t.held := rfl
@[simp] theorem Strand.putBp_sender : (t.putBp n x).sender = t.sender := rfl
@[simp] theorem Strand.putBp_row : (t.putBp n x).row = t.row := rfl
@[simp] theorem Strand.putBp_age : (t.putBp n x).age = t.age := rfl
@[simp] theorem Strand.putBp_yields : (t.putBp n x).yields = t.yields := rfl
@[simp] theorem Strand.putBp_nohint : (t.putBp n x).nohint = t.nohint := rfl
@[simp] theorem Strand.putBp_pfail : (t.putBp n x).pfail = t.pfail := rfl
@[simp] theorem Strand.putBp_rest : (t.putBp n x).rest = t.rest := rfl

end StrandPutBp

section StrandFlagBad

variable (t : Strand) (b : Bool)

@[simp] theorem Strand.flagBad_st : (t.flagBad b).st = t.st := rfl
@[simp] theorem Strand.flagBad_pc : (t.flagBad b).pc = t.pc := rfl
@[simp] theorem Strand.flagBad_sup : (t.flagBad b).sup = t.sup := rfl
@[simp] theorem Strand.flagBad_intrap : (t.flagBad b).intrap = t.intrap := rfl
@[simp] theorem Strand.flagBad_vl : (t.flagBad b).vl = t.vl := rfl
@[simp] theorem Strand.flagBad_fl : (t.flagBad b).fl = t.fl := rfl
@[simp] theorem Strand.flagBad_job : (t.flagBad b).job = t.job := rfl
@[simp] theorem Strand.flagBad_strid : (t.flagBad b).strid = t.strid := rfl
@[simp] theorem Strand.flagBad_frm : (t.flagBad b).frm = t.frm := rfl
@[simp] theorem Strand.flagBad_prio : (t.flagBad b).prio = t.prio := rfl
@[simp] theorem Strand.flagBad_role : (t.flagBad b).role = t.role := rfl
@[simp] theorem Strand.flagBad_fmta : (t.flagBad b).fmta = t.fmta := rfl
@[simp] theorem Strand.flagBad_fmtb : (t.flagBad b).fmtb = t.fmtb := rfl
@[simp] theorem Strand.flagBad_scla : (t.flagBad b).scla = t.scla := rfl
@[simp] theorem Strand.flagBad_sclb : (t.flagBad b).sclb = t.sclb := rfl
@[simp] theorem Strand.flagBad_lid : (t.flagBad b).lid = t.lid := rfl
@[simp] theorem Strand.flagBad_wtok : (t.flagBad b).wtok = t.wtok := rfl
@[simp] theorem Strand.flagBad_outs : (t.flagBad b).outs = t.outs := rfl
@[simp] theorem Strand.flagBad_rel : (t.flagBad b).rel = t.rel := rfl
@[simp] theorem Strand.flagBad_fence : (t.flagBad b).fence = t.fence := rfl
@[simp] theorem Strand.flagBad_mon : (t.flagBad b).mon = t.mon := rfl
@[simp] theorem Strand.flagBad_traps : (t.flagBad b).traps = t.traps := rfl
@[simp] theorem Strand.flagBad_held : (t.flagBad b).held = t.held := rfl
@[simp] theorem Strand.flagBad_sender : (t.flagBad b).sender = t.sender := rfl
@[simp] theorem Strand.flagBad_row : (t.flagBad b).row = t.row := rfl
@[simp] theorem Strand.flagBad_age : (t.flagBad b).age = t.age := rfl
@[simp] theorem Strand.flagBad_yields : (t.flagBad b).yields = t.yields := rfl
@[simp] theorem Strand.flagBad_nohint : (t.flagBad b).nohint = t.nohint := rfl
@[simp] theorem Strand.flagBad_pfail : (t.flagBad b).pfail = t.pfail := rfl
@[simp] theorem Strand.flagBad_rest : (t.flagBad b).rest = t.rest := rfl

end StrandFlagBad

section StrandDropDst

variable (t : Strand) (d : GReg)

@[simp] theorem Strand.dropDst_st : (t.dropDst d).st = t.st := rfl
@[simp] theorem Strand.dropDst_regs : (t.dropDst d).regs = t.regs := rfl
@[simp] theorem Strand.dropDst_pc : (t.dropDst d).pc = t.pc := rfl
@[simp] theorem Strand.dropDst_sup : (t.dropDst d).sup = t.sup := rfl
@[simp] theorem Strand.dropDst_intrap : (t.dropDst d).intrap = t.intrap := rfl
@[simp] theorem Strand.dropDst_vl : (t.dropDst d).vl = t.vl := rfl
@[simp] theorem Strand.dropDst_fl : (t.dropDst d).fl = t.fl := rfl
@[simp] theorem Strand.dropDst_job : (t.dropDst d).job = t.job := rfl
@[simp] theorem Strand.dropDst_strid : (t.dropDst d).strid = t.strid := rfl
@[simp] theorem Strand.dropDst_frm : (t.dropDst d).frm = t.frm := rfl
@[simp] theorem Strand.dropDst_prio : (t.dropDst d).prio = t.prio := rfl
@[simp] theorem Strand.dropDst_role : (t.dropDst d).role = t.role := rfl
@[simp] theorem Strand.dropDst_fmta : (t.dropDst d).fmta = t.fmta := rfl
@[simp] theorem Strand.dropDst_fmtb : (t.dropDst d).fmtb = t.fmtb := rfl
@[simp] theorem Strand.dropDst_scla : (t.dropDst d).scla = t.scla := rfl
@[simp] theorem Strand.dropDst_sclb : (t.dropDst d).sclb = t.sclb := rfl
@[simp] theorem Strand.dropDst_lid : (t.dropDst d).lid = t.lid := rfl
@[simp] theorem Strand.dropDst_wtok : (t.dropDst d).wtok = t.wtok := rfl
@[simp] theorem Strand.dropDst_rel : (t.dropDst d).rel = t.rel := rfl
@[simp] theorem Strand.dropDst_fence : (t.dropDst d).fence = t.fence := rfl
@[simp] theorem Strand.dropDst_mon : (t.dropDst d).mon = t.mon := rfl
@[simp] theorem Strand.dropDst_traps : (t.dropDst d).traps = t.traps := rfl
@[simp] theorem Strand.dropDst_held : (t.dropDst d).held = t.held := rfl
@[simp] theorem Strand.dropDst_sender : (t.dropDst d).sender = t.sender := rfl
@[simp] theorem Strand.dropDst_row : (t.dropDst d).row = t.row := rfl
@[simp] theorem Strand.dropDst_age : (t.dropDst d).age = t.age := rfl
@[simp] theorem Strand.dropDst_yields : (t.dropDst d).yields = t.yields := rfl
@[simp] theorem Strand.dropDst_nohint : (t.dropDst d).nohint = t.nohint := rfl
@[simp] theorem Strand.dropDst_pfail : (t.dropDst d).pfail = t.pfail := rfl
@[simp] theorem Strand.dropDst_rest : (t.dropDst d).rest = t.rest := rfl

end StrandDropDst

section StrandWg

variable (t : Strand) (d : GReg) (v : Word)

@[simp] theorem Strand.wg_st : (t.wg d v).st = t.st := rfl
@[simp] theorem Strand.wg_pc : (t.wg d v).pc = t.pc := rfl
@[simp] theorem Strand.wg_sup : (t.wg d v).sup = t.sup := rfl
@[simp] theorem Strand.wg_intrap : (t.wg d v).intrap = t.intrap := rfl
@[simp] theorem Strand.wg_vl : (t.wg d v).vl = t.vl := rfl
@[simp] theorem Strand.wg_fl : (t.wg d v).fl = t.fl := rfl
@[simp] theorem Strand.wg_job : (t.wg d v).job = t.job := rfl
@[simp] theorem Strand.wg_strid : (t.wg d v).strid = t.strid := rfl
@[simp] theorem Strand.wg_frm : (t.wg d v).frm = t.frm := rfl
@[simp] theorem Strand.wg_prio : (t.wg d v).prio = t.prio := rfl
@[simp] theorem Strand.wg_role : (t.wg d v).role = t.role := rfl
@[simp] theorem Strand.wg_fmta : (t.wg d v).fmta = t.fmta := rfl
@[simp] theorem Strand.wg_fmtb : (t.wg d v).fmtb = t.fmtb := rfl
@[simp] theorem Strand.wg_scla : (t.wg d v).scla = t.scla := rfl
@[simp] theorem Strand.wg_sclb : (t.wg d v).sclb = t.sclb := rfl
@[simp] theorem Strand.wg_lid : (t.wg d v).lid = t.lid := rfl
@[simp] theorem Strand.wg_wtok : (t.wg d v).wtok = t.wtok := rfl
@[simp] theorem Strand.wg_rel : (t.wg d v).rel = t.rel := rfl
@[simp] theorem Strand.wg_fence : (t.wg d v).fence = t.fence := rfl
@[simp] theorem Strand.wg_mon : (t.wg d v).mon = t.mon := rfl
@[simp] theorem Strand.wg_traps : (t.wg d v).traps = t.traps := rfl
@[simp] theorem Strand.wg_held : (t.wg d v).held = t.held := rfl
@[simp] theorem Strand.wg_sender : (t.wg d v).sender = t.sender := rfl
@[simp] theorem Strand.wg_row : (t.wg d v).row = t.row := rfl
@[simp] theorem Strand.wg_age : (t.wg d v).age = t.age := rfl
@[simp] theorem Strand.wg_yields : (t.wg d v).yields = t.yields := rfl
@[simp] theorem Strand.wg_nohint : (t.wg d v).nohint = t.nohint := rfl
@[simp] theorem Strand.wg_pfail : (t.wg d v).pfail = t.pfail := rfl
@[simp] theorem Strand.wg_rest : (t.wg d v).rest = t.rest := rfl

end StrandWg

section StrandSettle

variable (t : Strand)

@[simp] theorem Strand.settle_st : (t.settle).st = t.st := rfl
@[simp] theorem Strand.settle_pc : (t.settle).pc = t.pc := rfl
@[simp] theorem Strand.settle_sup : (t.settle).sup = t.sup := rfl
@[simp] theorem Strand.settle_intrap : (t.settle).intrap = t.intrap := rfl
@[simp] theorem Strand.settle_vl : (t.settle).vl = t.vl := rfl
@[simp] theorem Strand.settle_fl : (t.settle).fl = t.fl := rfl
@[simp] theorem Strand.settle_job : (t.settle).job = t.job := rfl
@[simp] theorem Strand.settle_strid : (t.settle).strid = t.strid := rfl
@[simp] theorem Strand.settle_frm : (t.settle).frm = t.frm := rfl
@[simp] theorem Strand.settle_prio : (t.settle).prio = t.prio := rfl
@[simp] theorem Strand.settle_role : (t.settle).role = t.role := rfl
@[simp] theorem Strand.settle_fmta : (t.settle).fmta = t.fmta := rfl
@[simp] theorem Strand.settle_fmtb : (t.settle).fmtb = t.fmtb := rfl
@[simp] theorem Strand.settle_scla : (t.settle).scla = t.scla := rfl
@[simp] theorem Strand.settle_sclb : (t.settle).sclb = t.sclb := rfl
@[simp] theorem Strand.settle_lid : (t.settle).lid = t.lid := rfl
@[simp] theorem Strand.settle_wtok : (t.settle).wtok = t.wtok := rfl
@[simp] theorem Strand.settle_rel : (t.settle).rel = t.rel := rfl
@[simp] theorem Strand.settle_fence : (t.settle).fence = t.fence := rfl
@[simp] theorem Strand.settle_mon : (t.settle).mon = t.mon := rfl
@[simp] theorem Strand.settle_traps : (t.settle).traps = t.traps := rfl
@[simp] theorem Strand.settle_held : (t.settle).held = t.held := rfl
@[simp] theorem Strand.settle_sender : (t.settle).sender = t.sender := rfl
@[simp] theorem Strand.settle_row : (t.settle).row = t.row := rfl
@[simp] theorem Strand.settle_age : (t.settle).age = t.age := rfl
@[simp] theorem Strand.settle_yields : (t.settle).yields = t.yields := rfl
@[simp] theorem Strand.settle_nohint : (t.settle).nohint = t.nohint := rfl
@[simp] theorem Strand.settle_pfail : (t.settle).pfail = t.pfail := rfl
@[simp] theorem Strand.settle_rest : (t.settle).rest = t.rest := rfl

end StrandSettle

section StrandAged

variable (t : Strand)

@[simp] theorem Strand.aged_st : (t.aged).st = t.st := rfl
@[simp] theorem Strand.aged_pc : (t.aged).pc = t.pc := rfl
@[simp] theorem Strand.aged_sup : (t.aged).sup = t.sup := rfl
@[simp] theorem Strand.aged_intrap : (t.aged).intrap = t.intrap := rfl
@[simp] theorem Strand.aged_vl : (t.aged).vl = t.vl := rfl
@[simp] theorem Strand.aged_fl : (t.aged).fl = t.fl := rfl
@[simp] theorem Strand.aged_job : (t.aged).job = t.job := rfl
@[simp] theorem Strand.aged_strid : (t.aged).strid = t.strid := rfl
@[simp] theorem Strand.aged_frm : (t.aged).frm = t.frm := rfl
@[simp] theorem Strand.aged_prio : (t.aged).prio = t.prio := rfl
@[simp] theorem Strand.aged_role : (t.aged).role = t.role := rfl
@[simp] theorem Strand.aged_fmta : (t.aged).fmta = t.fmta := rfl
@[simp] theorem Strand.aged_fmtb : (t.aged).fmtb = t.fmtb := rfl
@[simp] theorem Strand.aged_scla : (t.aged).scla = t.scla := rfl
@[simp] theorem Strand.aged_sclb : (t.aged).sclb = t.sclb := rfl
@[simp] theorem Strand.aged_lid : (t.aged).lid = t.lid := rfl
@[simp] theorem Strand.aged_wtok : (t.aged).wtok = t.wtok := rfl
@[simp] theorem Strand.aged_rel : (t.aged).rel = t.rel := rfl
@[simp] theorem Strand.aged_fence : (t.aged).fence = t.fence := rfl
@[simp] theorem Strand.aged_mon : (t.aged).mon = t.mon := rfl
@[simp] theorem Strand.aged_traps : (t.aged).traps = t.traps := rfl
@[simp] theorem Strand.aged_held : (t.aged).held = t.held := rfl
@[simp] theorem Strand.aged_sender : (t.aged).sender = t.sender := rfl
@[simp] theorem Strand.aged_row : (t.aged).row = t.row := rfl
@[simp] theorem Strand.aged_age : (t.aged).age = t.age := rfl
@[simp] theorem Strand.aged_yields : (t.aged).yields = t.yields := rfl
@[simp] theorem Strand.aged_nohint : (t.aged).nohint = t.nohint := rfl
@[simp] theorem Strand.aged_pfail : (t.aged).pfail = t.pfail := rfl
@[simp] theorem Strand.aged_rest : (t.aged).rest = t.rest := rfl

end StrandAged

section StrandCloseWindows

variable (t : Strand)

@[simp] theorem Strand.closeWindows_st : (t.closeWindows).st = t.st := rfl
@[simp] theorem Strand.closeWindows_pc : (t.closeWindows).pc = t.pc := rfl
@[simp] theorem Strand.closeWindows_sup : (t.closeWindows).sup = t.sup := rfl
@[simp] theorem Strand.closeWindows_intrap : (t.closeWindows).intrap = t.intrap := rfl
@[simp] theorem Strand.closeWindows_vl : (t.closeWindows).vl = t.vl := rfl
@[simp] theorem Strand.closeWindows_fl : (t.closeWindows).fl = t.fl := rfl
@[simp] theorem Strand.closeWindows_job : (t.closeWindows).job = t.job := rfl
@[simp] theorem Strand.closeWindows_strid : (t.closeWindows).strid = t.strid := rfl
@[simp] theorem Strand.closeWindows_frm : (t.closeWindows).frm = t.frm := rfl
@[simp] theorem Strand.closeWindows_prio : (t.closeWindows).prio = t.prio := rfl
@[simp] theorem Strand.closeWindows_role : (t.closeWindows).role = t.role := rfl
@[simp] theorem Strand.closeWindows_fmta : (t.closeWindows).fmta = t.fmta := rfl
@[simp] theorem Strand.closeWindows_fmtb : (t.closeWindows).fmtb = t.fmtb := rfl
@[simp] theorem Strand.closeWindows_scla : (t.closeWindows).scla = t.scla := rfl
@[simp] theorem Strand.closeWindows_sclb : (t.closeWindows).sclb = t.sclb := rfl
@[simp] theorem Strand.closeWindows_lid : (t.closeWindows).lid = t.lid := rfl
@[simp] theorem Strand.closeWindows_wtok : (t.closeWindows).wtok = t.wtok := rfl
@[simp] theorem Strand.closeWindows_rel : (t.closeWindows).rel = t.rel := rfl
@[simp] theorem Strand.closeWindows_fence : (t.closeWindows).fence = t.fence := rfl
@[simp] theorem Strand.closeWindows_mon : (t.closeWindows).mon = t.mon := rfl
@[simp] theorem Strand.closeWindows_traps : (t.closeWindows).traps = t.traps := rfl
@[simp] theorem Strand.closeWindows_held : (t.closeWindows).held = t.held := rfl
@[simp] theorem Strand.closeWindows_sender : (t.closeWindows).sender = t.sender := rfl
@[simp] theorem Strand.closeWindows_row : (t.closeWindows).row = t.row := rfl
@[simp] theorem Strand.closeWindows_age : (t.closeWindows).age = t.age := rfl
@[simp] theorem Strand.closeWindows_yields : (t.closeWindows).yields = t.yields := rfl
@[simp] theorem Strand.closeWindows_nohint : (t.closeWindows).nohint = t.nohint := rfl
@[simp] theorem Strand.closeWindows_pfail : (t.closeWindows).pfail = t.pfail := rfl
@[simp] theorem Strand.closeWindows_rest : (t.closeWindows).rest = t.rest := rfl

end StrandCloseWindows

section StrandRetire

variable (t : Strand) (p : Word)

@[simp] theorem Strand.retire_sup : (t.retire p).sup = t.sup := rfl
@[simp] theorem Strand.retire_intrap : (t.retire p).intrap = t.intrap := rfl
@[simp] theorem Strand.retire_vl : (t.retire p).vl = t.vl := rfl
@[simp] theorem Strand.retire_fl : (t.retire p).fl = t.fl := rfl
@[simp] theorem Strand.retire_job : (t.retire p).job = t.job := rfl
@[simp] theorem Strand.retire_strid : (t.retire p).strid = t.strid := rfl
@[simp] theorem Strand.retire_frm : (t.retire p).frm = t.frm := rfl
@[simp] theorem Strand.retire_prio : (t.retire p).prio = t.prio := rfl
@[simp] theorem Strand.retire_role : (t.retire p).role = t.role := rfl
@[simp] theorem Strand.retire_fmta : (t.retire p).fmta = t.fmta := rfl
@[simp] theorem Strand.retire_fmtb : (t.retire p).fmtb = t.fmtb := rfl
@[simp] theorem Strand.retire_scla : (t.retire p).scla = t.scla := rfl
@[simp] theorem Strand.retire_sclb : (t.retire p).sclb = t.sclb := rfl
@[simp] theorem Strand.retire_lid : (t.retire p).lid = t.lid := rfl
@[simp] theorem Strand.retire_wtok : (t.retire p).wtok = t.wtok := rfl
@[simp] theorem Strand.retire_rel : (t.retire p).rel = t.rel := rfl
@[simp] theorem Strand.retire_fence : (t.retire p).fence = t.fence := rfl
@[simp] theorem Strand.retire_mon : (t.retire p).mon = t.mon := rfl
@[simp] theorem Strand.retire_traps : (t.retire p).traps = t.traps := rfl
@[simp] theorem Strand.retire_held : (t.retire p).held = t.held := rfl
@[simp] theorem Strand.retire_sender : (t.retire p).sender = t.sender := rfl
@[simp] theorem Strand.retire_row : (t.retire p).row = t.row := rfl
@[simp] theorem Strand.retire_yields : (t.retire p).yields = t.yields := rfl
@[simp] theorem Strand.retire_pfail : (t.retire p).pfail = t.pfail := rfl
@[simp] theorem Strand.retire_rest : (t.retire p).rest = t.rest := rfl

end StrandRetire

/-! What is read after an update. -/

theorem State.core_setCore (s : State) (c c' : Nat) (k : Core) :
    (s.setCore c k).core c' = if c' = c then k else s.core c' := Tab.look_put ..

@[simp] theorem State.core_setCore_same (s : State) (c : Nat) (k : Core) : (s.setCore c k).core c = k :=
  Tab.look_put_same ..

theorem State.core_setCore_ne (s : State) {c c' : Nat} (k : Core) (h : c' ≠ c) :
    (s.setCore c k).core c' = s.core c' := Tab.look_put_ne _ _ _ h

@[simp] theorem State.setCore_setCore (s : State) (c : Nat) (k k' : Core) :
    (s.setCore c k).setCore c k' = s.setCore c k' := by
  simp [State.setCore]

@[simp] theorem State.core_modCore_same (s : State) (c : Nat) (f : Core → Core) :
    (s.modCore c f).core c = f (s.core c) := State.core_setCore_same ..

theorem State.core_modCore_ne (s : State) {c c' : Nat} (f : Core → Core) (h : c' ≠ c) :
    (s.modCore c f).core c' = s.core c' := State.core_setCore_ne _ _ h

@[simp] theorem Core.strand_setStrand_same (k : Core) (n : Nat) (t : Strand) : (k.setStrand n t).strand n = t :=
  Tab.look_put_same ..

theorem Core.strand_setStrand_ne (k : Core) {n n' : Nat} (t : Strand) (h : n' ≠ n) :
    (k.setStrand n t).strand n' = k.strand n' := Tab.look_put_ne _ _ _ h

@[simp] theorem Core.setStrand_setStrand (k : Core) (n : Nat) (t u : Strand) :
    (k.setStrand n t).setStrand n u = k.setStrand n u := by
  simp [Core.setStrand]

@[simp] theorem State.strand_setStrand_same (s : State) (c n : Nat) (t : Strand) :
    (s.setStrand c n t).strand c n = t := by
  simp [State.strand, State.setStrand]

/-- Every other strand reads as before. -/
theorem State.strand_setStrand_ne (s : State) {c n c' n' : Nat} (t : Strand) (h : ¬(c' = c ∧ n' = n)) :
    (s.setStrand c n t).strand c' n' = s.strand c' n' := by
  unfold State.strand State.setStrand
  by_cases hc : c' = c
  · subst hc
    rw [State.core_setCore_same, Core.strand_setStrand_ne _ _ fun hn => h ⟨rfl, hn⟩]
  · rw [State.core_setCore_ne _ _ hc]

@[simp] theorem State.setStrand_setStrand (s : State) (c n : Nat) (t u : Strand) :
    (s.setStrand c n t).setStrand c n u = s.setStrand c n u := by
  simp [State.setStrand]

@[simp] theorem State.strand_modStrand_same (s : State) (c n : Nat) (f : Strand → Strand) :
    (s.modStrand c n f).strand c n = f (s.strand c n) := State.strand_setStrand_same ..

theorem State.strand_modStrand_ne (s : State) {c n c' n' : Nat} (f : Strand → Strand) (h : ¬(c' = c ∧ n' = n)) :
    (s.modStrand c n f).strand c' n' = s.strand c' n' := State.strand_setStrand_ne _ _ h

@[simp] theorem State.me_modMe (s : State) (f : Strand → Strand) : (s.modMe f).me = f s.me :=
  State.strand_modStrand_same ..

@[simp] theorem State.mine_modMine (s : State) (f : Core → Core) : (s.modMine f).mine = f s.mine :=
  State.core_modCore_same ..

/-- Two changes of the issuing strand are one. -/
@[simp] theorem State.modMe_modMe (s : State) (f g : Strand → Strand) :
    (s.modMe f).modMe g = s.modMe fun t => g (f t) := by
  show ((s.setStrand s.cur.core s.cur.slot (f (s.strand s.cur.core s.cur.slot))).setStrand s.cur.core s.cur.slot
    (g ((s.setStrand s.cur.core s.cur.slot (f (s.strand s.cur.core s.cur.slot))).strand s.cur.core s.cur.slot))) = _
  rw [State.strand_setStrand_same, State.setStrand_setStrand]
  rfl

/-! Registers. -/

@[simp] theorem Strand.g_putG_same (t : Strand) (d : GReg) (v : Word) : (t.putG d v).g d = v :=
  Tab.look_put_same ..

theorem Strand.g_putG_ne (t : Strand) {d e : GReg} (v : Word) (h : e ≠ d) : (t.putG d v).g e = t.g e :=
  Tab.look_put_ne _ _ _ fun x => h (Fin.ext x)

@[simp] theorem Strand.vr_putV_same (t : Strand) (n : Nat) (x : VWord) : (t.putV n x).vr n = x :=
  Tab.look_put_same ..

theorem Strand.vr_putV_ne (t : Strand) {n m : Nat} (x : VWord) (h : m % 32 ≠ n % 32) :
    (t.putV n x).vr m = t.vr m := Tab.look_put_ne _ _ _ h

@[simp] theorem Strand.kr_putK_same (t : Strand) (n : KReg) (x : KWord) :
    (t.putK n x).kr n = if n = 0 then BitVec.allOnes 512 else x := by
  unfold Strand.putK Strand.kr
  split
  · rfl
  · exact Tab.look_put_same ..

theorem Strand.kr_putK_ne (t : Strand) {n m : KReg} (x : KWord) (h : m ≠ n) : (t.putK n x).kr m = t.kr m := by
  unfold Strand.putK
  split
  · rfl
  · unfold Strand.kr
    split
    · rfl
    · exact Tab.look_put_ne _ _ _ fun e => h (Fin.ext e)

@[simp] theorem Strand.cr_putC_same (t : Strand) (n : CReg) (x : Word) : (t.putC n x).cr n = x :=
  Tab.look_put_same ..

theorem Strand.cr_putC_ne (t : Strand) {n m : CReg} (x : Word) (h : m ≠ n) : (t.putC n x).cr m = t.cr m :=
  Tab.look_put_ne _ _ _ fun e => h (Fin.ext e)

@[simp] theorem Strand.bp_putBp_same (t : Strand) (n : BpReg) (x : BitVec 22) : (t.putBp n x).bp n = x :=
  Tab.look_put_same ..

theorem Strand.bp_putBp_ne (t : Strand) {n m : BpReg} (x : BitVec 22) (h : m ≠ n) :
    (t.putBp n x).bp m = t.bp m := Tab.look_put_ne _ _ _ fun e => h (Fin.ext e)

/-! An instruction retires (08 R154). -/

/-- A strand without an outstanding instruction has nothing to settle. -/
theorem Strand.settle_of_outs_nil {t : Strand} (h : t.outs = []) : t.settle = t := by
  cases t
  subst h
  rfl

theorem Strand.dropDst_of_outs_nil {t : Strand} (h : t.outs = []) (d : GReg) : t.dropDst d = t := by
  unfold Strand.dropDst
  simp only [h, List.map_nil, List.filter_nil]
  cases t
  subst h
  rfl

theorem Strand.aged_of_outs_nil {t : Strand} (h : t.outs = []) : t.aged = t := by
  have e : ({ t with outs := t.outs.map fun o => { o with left := o.left - 1 } } : Strand) = t := by
    simp only [h, List.map_nil]
    cases t
    subst h
    rfl
  rw [Strand.aged, e, Strand.settle_of_outs_nil h]

theorem Strand.closeWindows_of_outs_nil {t : Strand} (h : t.outs = []) : t.closeWindows = t := by
  have e : ({ t with outs := t.outs.map fun o => { o with left := 0 } } : Strand) = t := by
    simp only [h, List.map_nil]
    cases t
    subst h
    rfl
  rw [Strand.closeWindows, e, Strand.settle_of_outs_nil h]

/-- A strand with no outstanding instruction retires at `p`: only the pc and the issue marks change. -/
theorem Strand.retire_of_outs_nil {t : Strand} (h : t.outs = []) (p : Word) :
    t.retire p = { t with pc := p, st := .ready, age := 0, nohint := false } := by
  rw [Strand.retire, Strand.aged_of_outs_nil h]

/-- It writes `d`. -/
theorem Strand.wg_of_outs_nil {t : Strand} (h : t.outs = []) (d : GReg) (v : Word) : t.wg d v = t.putG d v := by
  rw [Strand.wg, Strand.dropDst_of_outs_nil h]

@[simp] theorem Strand.retire_pc (t : Strand) (p : Word) : (t.retire p).pc = p := rfl
@[simp] theorem Strand.retire_st (t : Strand) (p : Word) : (t.retire p).st = .ready := rfl
@[simp] theorem Strand.retire_age (t : Strand) (p : Word) : (t.retire p).age = 0 := rfl

@[simp] theorem Strand.regs_putAll_nil (r : Regs) : r.putAll [] = r := rfl

end Sys2Proof.Machine
end

