-- ==== Sys2Proof/Laws/Keeps.lean ====
section
/-!
SUPPORT. Which shared operations write no memory (`Silent`), and that those that write one keep its canonical form: a proof
about a step cites these lemmas and never unfolds an operation.
-/

namespace Sys2Proof.Machine

/-- What each step of a fold keeps, the fold keeps. -/
theorem foldl_keeps {α β : Type} {P : α → Prop} {f : α → β → α} (hf : ∀ s x, P s → P (f s x)) (l : List β) {s : α}
    (h : P s) : P (l.foldl f s) :=
  List.foldlRecOn l f h fun b hb a _ => hf b a hb

/-- What is found in a table is the default or stands in it. -/
theorem Tab.look_mem {α : Type} (t : Tab α) (k : Nat) (d : α) : t.look k d = d ∨ ∃ x ∈ t, x.2 = t.look k d := by
  induction t with
  | nil => exact .inl rfl
  | cons x t ih =>
    by_cases e : x.1 = k
    · exact .inr ⟨x, List.mem_cons_self .., by rw [Tab.look_cons, if_pos e]⟩
    · rw [Tab.look_cons, if_neg e]
      exact ih.imp_right fun ⟨y, hy, h⟩ => ⟨y, List.mem_cons_of_mem _ hy, h⟩

/-- A core's scratch is empty or stands in the table of cores. -/
theorem State.core_scratch_mem (s : State) (c : Nat) :
    (s.core c).scratch = [] ∨ ∃ y ∈ s.cores, (s.core c).scratch = y.2.scratch :=
  (Tab.look_mem s.cores c Core.reset).imp (fun e => congrArg Core.scratch e) fun ⟨y, hy, e⟩ => ⟨y, hy, congrArg Core.scratch e.symm⟩

/-! Operations that write no memory. -/

/-- From `s` to `t` no memory is written: DRAM and the save store stand, and every scratch of `t` is empty or one of `s`. -/
structure Silent (s t : State) : Prop where
  mem : t.mem = s.mem
  scratch : ∀ x ∈ t.cores, x.2.scratch = [] ∨ ∃ y ∈ s.cores, x.2.scratch = y.2.scratch

namespace Silent

variable {s t u : State}

/-- Memories in canonical form stay so. -/
theorem keeps (q : Silent s t) (h : s.MemoriesWf) : t.MemoriesWf :=
  ⟨q.mem ▸ h.1, fun x hx => (q.scratch x hx).elim (fun e => e ▸ rfl) fun ⟨y, hy, e⟩ => e ▸ h.2 y hy⟩

theorem trans (p : Silent s t) (q : Silent t u) : Silent s u :=
  ⟨q.mem.trans p.mem, fun x hx => (q.scratch x hx).elim .inl fun ⟨y, hy, e⟩ => e ▸ p.scratch y hy⟩

/-- Only DRAM and the cores matter. -/
theorem same (hm : t.mem = s.mem) (hc : t.cores = s.cores) : Silent s t := ⟨hm, fun x hx => .inr ⟨x, hc ▸ hx, rfl⟩⟩

theorem refl (s : State) : Silent s s := same rfl rfl

theorem ite {p : Prop} [Decidable p] (ht : Silent s t) (hu : Silent s u) : Silent s (if p then t else u) := by
  split <;> assumption

theorem fold {β : Type} {f : State → β → State} (hf : ∀ s x, Silent s (f s x)) (l : List β) (s : State) :
    Silent s (l.foldl f s) :=
  foldl_keeps (P := Silent s) (fun t x q => q.trans (hf t x)) l (refl s)

theorem setCore (s : State) (c : Nat) {k : Core} (hk : k.scratch = (s.core c).scratch) : Silent s (s.setCore c k) :=
  ⟨rfl, fun x hx => (Tab.mem_put hx).elim (fun e => by rw [e, hk]; exact s.core_scratch_mem c) fun hx => .inr ⟨x, hx, rfl⟩⟩

theorem modCore (s : State) (c : Nat) {f : Core → Core} (hf : ∀ k, (f k).scratch = k.scratch) : Silent s (s.modCore c f) :=
  setCore s c (hf _)

theorem mapCores (s : State) {f : Nat × Core → Core} (hf : ∀ x, (f x).scratch = x.2.scratch) :
    Silent s { s with cores := s.cores.map fun x => (x.1, f x) } :=
  ⟨rfl, fun x hx => by
    obtain ⟨y, hy, rfl⟩ := List.mem_map.mp hx
    exact .inr ⟨y, hy, hf _⟩⟩

theorem setStrand (s : State) (c n : Nat) (x : Strand) : Silent s (s.setStrand c n x) := setCore s c rfl
theorem modStrand (s : State) (c n : Nat) (f : Strand → Strand) : Silent s (s.modStrand c n f) := setCore s c rfl
theorem modMe (s : State) (f : Strand → Strand) : Silent s (s.modMe f) := modStrand ..
theorem goto (s : State) (p : Word) : Silent s (s.goto p) := modMe ..
theorem advance (s : State) : Silent s s.advance := modMe ..
theorem write (s : State) (d : GReg) (v : Word) : Silent s (s.write d v) := modMe ..
theorem writeLate (s : State) (d : GReg) (v : Word) (l : La) : Silent s (s.writeLate d v l) := modMe ..
theorem block (s : State) : Silent s s.block := modMe ..
theorem await (s : State) (w : Wait) : Silent s (s.await w) := modMe ..
theorem park (s : State) (p : Park) : Silent s (s.park p) := modMe ..

theorem modJob (s : State) (j : BitVec 16) (f : Job → Job) : Silent s (s.modJob j f) := by
  unfold State.modJob
  split <;> exact same rfl rfl

/-! Waiters, the L1, sharers. -/

theorem wake1 (m0 : Memory) (lo n : Nat) (s : State) (w : Bool × Nat × Nat × Nat) : Silent s (State.wake1 m0 lo n s w) := by
  have gone (f : Bool × Nat × Nat × Nat → Bool) : Silent s { s with waits := s.waits.filter f } := same rfl rfl
  obtain ⟨p, key, c, sl⟩ := w
  unfold State.wake1
  refine ite (ite (ite ((gone _).trans (setStrand ..)) (gone _)) (refl s)) (ite ?_ (refl s))
  split
  · exact ite ((gone _).trans (setStrand ..)) (refl s)
  · exact refl s

theorem wakeAll (s : State) (m0 : Memory) (lo n : Nat) : Silent s (s.wakeAll m0 lo n) := fold (wake1 m0 lo n) _ s

theorem updateSharers (s : State) (pa : Nat) (bs : List Byte) : Silent s (s.updateSharers pa bs) :=
  mapCores s fun x => by
    dsimp only
    split <;> rfl

theorem invalidateRc (s : State) (c : Nat) : Silent s (s.invalidateRc c) := modCore s c fun _ => rfl

/-! Streams that part, holds, counters. -/

theorem detach (s : State) (c n : Nat) (pc : Word) : Silent s (s.detach c n pc) := by
  unfold State.detach
  exact modStrand ..

theorem detachAll (s : State) (c : Nat) (pc : Word) : Silent s (s.detachAll c pc) := by
  have h (t : State) (x : Nat × Nat) : Silent t (t.detach x.1 x.2 pc) := detach ..
  unfold State.detachAll
  generalize s.followers (clusterOf c) = xs
  exact fold h xs s

theorem unlead (s : State) (c n : Nat) (pc : Word) : Silent s (s.unlead c n pc) := by
  unfold State.unlead
  split
  · exact (detachAll ..).trans (modStrand ..)
  · exact refl s
  · exact detach ..
  · exact modStrand ..

theorem releaseHold (s : State) (c : Nat) : Silent s (s.releaseHold c) := by
  unfold State.releaseHold
  exact modCore s c fun _ => rfl

theorem wakeJoins (s : State) (job : BitVec 16) (lv : Level) (n : Nat) (w : Word) : Silent s (s.wakeJoins job lv n w) := by
  unfold State.wakeJoins
  dsimp only
  refine mapCores s fun x => ?_
  split <;> rfl

theorem jobDec (s : State) (job : BitVec 16) (err : Bool) : Silent s (s.jobDec job err) := by
  unfold State.jobDec
  split
  · exact ite ((modJob ..).trans (wakeJoins ..)) (modJob ..)
  · exact refl s

theorem phaseDec (s : State) (job : BitVec 16) (p : Nat) (err : Bool) : Silent s (s.phaseDec job p err) := by
  unfold State.phaseDec
  split
  · exact ite (refl s) (ite ((((modJob ..).trans (wakeJoins ..)).trans (modJob ..)).trans (jobDec ..)) (modJob ..))
  · exact refl s

theorem freeLaunches (s : State) (job : BitVec 16) (g : Nat) : Silent s (s.freeLaunches job g) := by
  unfold State.freeLaunches
  dsimp only
  refine trans ?_ (modJob ..)
  exact same rfl rfl

theorem graphDec (s : State) (job : BitVec 16) (g : Nat) (err : Bool) : Silent s (s.graphDec job g err) := by
  unfold State.graphDec
  split
  · exact ite ((((modJob ..).trans (wakeJoins ..)).trans (freeLaunches ..)).trans (phaseDec ..)) (modJob ..)
  · exact refl s

theorem lapseArms (s : State) (job : BitVec 16) (lid : Nat) : Silent s (s.lapseArms job lid) := by
  unfold State.lapseArms
  exact mapCores s fun _ => rfl

theorem launchDec (s : State) (job : BitVec 16) (lid n : Nat) (err : Bool) : Silent s (s.launchDec job lid n err) := by
  unfold State.launchDec
  split
  · exact ite (refl s) (ite
      (((((modJob ..).trans (modJob ..)).trans (lapseArms ..)).trans (wakeJoins ..)).trans (graphDec ..)) (modJob ..))
  · exact refl s

theorem sendDec (s : State) (job : BitVec 16) (lid : Nat) (err : Bool) : Silent s (s.sendDec job lid err) :=
  ite (same rfl rfl) (launchDec ..)

theorem markErr (s : State) (job : BitVec 16) (lid : Nat) : Silent s (s.markErr job lid) := by
  unfold State.markErr
  split
  · exact ite (refl s) (modJob ..)
  · exact refl s

theorem launchInc (s : State) (job : BitVec 16) (lid : Nat) : Silent s (s.launchInc job lid).1 := by
  unfold State.launchInc
  repeat' split
  all_goals first | exact refl s | exact modJob ..

end Silent

/-! What a core's own operations do to its scratch. -/

theorem Core.unbind_scratch (k : Core) (q : Nat) : (k.unbind q).scratch = k.scratch := by
  unfold Core.unbind
  dsimp only
  split <;> rfl

theorem Core.unbindEnded_scratch (k : Core) (q : Nat) : (k.unbindEnded q).scratch = k.scratch := by
  unfold Core.unbindEnded
  split
  · split
    · rfl
    · exact Core.unbind_scratch k q
  · rfl

theorem Core.unbindAll_scratch (k : Core) (n : Nat) : (k.unbindAll n).scratch = k.scratch :=
  foldl_keeps (P := fun x : Core => x.scratch = k.scratch) (fun x q h => (x.unbindEnded_scratch q).trans h) _ rfl

theorem Core.stopReplay_scratch (k : Core) (n : Nat) : (k.stopReplay n).scratch = k.scratch := by
  unfold Core.stopReplay
  dsimp only
  repeat' split
  all_goals rfl

theorem Core.forget_scratch (k : Core) (n : Nat) : (k.forget n).scratch = k.scratch := k.stopReplay_scratch n

theorem Core.grantLease_scratch (k : Core) : k.grantLease.scratch = k.scratch := by
  unfold Core.grantLease
  repeat' split
  all_goals rfl

/-- Ring pointers are written into scratch, whose form stays canonical. -/
theorem Core.advanceRing_wf (off n : Nat) (k : Core) (h : k.scratch.wf = true) : (Core.advanceRing off n k).scratch.wf = true := by
  induction n generalizing k with
  | zero => exact h
  | succ n ih =>
    unfold Core.advanceRing
    split
    · exact ih _ (Memory.wf_write h ..)
    · exact h

theorem Core.finishCopy_wf (k : Core) (id : Nat) (h : k.scratch.wf = true) : (k.finishCopy id).scratch.wf = true := by
  unfold Core.finishCopy
  repeat' split
  all_goals first | exact h | exact Core.advanceRing_wf _ _ _ h

theorem Core.trapTaken_wf (k : Core) (i : TrapInfo) (h : k.scratch.wf = true) : (k.trapTaken i).scratch.wf = true := by
  unfold Core.trapTaken
  repeat' split
  all_goals first | exact h | exact Core.finishCopy_wf _ _ h

theorem Silent.waitsMoves {s t : State} (q : Silent s t) (ws : List (Bool × Nat × Nat × Nat)) (ms : List Move) :
    Silent s { t with waits := ws, moves := ms } := ⟨q.mem, q.scratch⟩

/-- The end of a strand writes no memory but what its stores in flight to its own scratch write. -/
theorem Silent.endStrand (s : State) (c n : Nat) (err abrupt : Bool) :
    Silent (((s.unlead c n (s.strand c n).pc).dropUntranslated c n).flushBanks c n) (s.endStrand c n err abrupt) := by
  have hk (k : Core) : (((k.unbindAll n).orphanJournal n).forget n).scratch = k.scratch :=
    (Core.forget_scratch ..).trans (Core.unbindAll_scratch ..)
  unfold State.endStrand
  refine trans (trans ?_ (ite (releaseHold ..) (refl _))) (ite (refl _) (ite (sendDec ..) (ite (markErr ..) (refl _))))
  refine waitsMoves (modCore _ c fun k => ?_) _ _
  dsimp only
  split
  · exact (Core.grantLease_scratch _).trans (hk k)
  · exact hk k

namespace State.MemoriesWf

variable {s : State}

theorem modCore (h : s.MemoriesWf) (c : Nat) {f : Core → Core} (hf : ∀ k, k.scratch.wf = true → (f k).scratch.wf = true) :
    (s.modCore c f).MemoriesWf :=
  ⟨h.1, fun x hx => (Tab.mem_put hx).elim
    (fun e => e ▸ hf _ ((s.core_scratch_mem c).elim (fun e => e ▸ rfl) fun ⟨y, hy, e⟩ => e ▸ h.2 y hy)) (h.2 x)⟩

/-! Writes of memory. -/

theorem scrWrite (h : s.MemoriesWf) (c off : Nat) (bs : List Byte) : (s.scrWrite c off bs).MemoriesWf :=
  h.modCore c fun _ hk => Memory.wf_putBytes hk off bs

theorem flushBanks (h : s.MemoriesWf) (c n : Nat) : (s.flushBanks c n).MemoriesWf := by
  unfold State.flushBanks
  refine (Silent.same rfl rfl).keeps (foldl_keeps (P := State.MemoriesWf) (fun t x ht => ?_) _ h)
  split
  · exact ht.scrWrite ..
  · exact ht

theorem endStrand (h : s.MemoriesWf) (c n : Nat) (err abrupt : Bool) : (s.endStrand c n err abrupt).MemoriesWf :=
  (Silent.endStrand ..).keeps (flushBanks (s := (s.unlead c n _).dropUntranslated c n)
    (((Silent.unlead ..).trans (Silent.same rfl rfl)).keeps h) c n)

theorem homePut (h : s.MemoriesWf) (j : BitVec 16) (pa : Nat) (bs : List Byte) : (s.homePut j pa bs).MemoriesWf :=
  (Silent.updateSharers _ pa bs).keeps ⟨Memory.wf_putBytes h.1 pa bs, h.2⟩

theorem homeWrite (h : s.MemoriesWf) (j : BitVec 16) (pa : Nat) (bs : List Byte) : (s.homeWrite j pa bs).MemoriesWf :=
  (Silent.wakeAll ..).keeps (h.homePut j pa bs)

theorem writeBackLine (h : s.MemoriesWf) (c : Nat) (l : Line) : (s.writeBackLine c l).MemoriesWf := by
  have q (bs : List Byte) : (s.homePut l.writer l.pa bs).MemoriesWf := h.homePut ..
  unfold State.writeBackLine
  split
  · exact h
  · dsimp only
    split
    · exact q _
    · exact q _

theorem mods (h : s.MemoriesWf) (c : Nat) {f : Core → Core} (hf : ∀ k, (f k).scratch = k.scratch) :
    (s.modCore c f).MemoriesWf := (Silent.modCore s c hf).keeps h

theorem dropLines (h : s.MemoriesWf) (c : Nat) (p : Line → Bool) : (s.dropLines c p).MemoriesWf := by
  unfold State.dropLines
  refine mods (foldl_keeps (fun _ l ht => ?_) _ h) c fun _ => ?_
  · exact writeBackLine ht c l
  · rfl

theorem dropAllLines (h : s.MemoriesWf) (p : Line → Bool) : (s.dropAllLines p).MemoriesWf := by
  unfold State.dropAllLines
  refine foldl_keeps (fun _ c ht => ?_) _ h
  exact dropLines ht c p

theorem l1Fill (h : s.MemoriesWf) (c : Nat) (l : Line) : (s.l1Fill c l).MemoriesWf := by
  have hu : s.useFree.MemoriesWf := h
  unfold State.l1Fill
  dsimp only
  split
  · refine mods h c fun _ => ?_
    rfl
  · split
    · refine mods (hu.writeBackLine c _) c fun _ => ?_
      rfl
    · exact h

theorem fill (h : s.MemoriesWf) (c : Nat) (j : BitVec 16) (va pa : Nat) (ty : PageTy) (ver : BitVec 16) (rd : Bool) :
    (s.fill c j va pa ty ver rd).MemoriesWf := by
  unfold State.fill
  split
  · exact h
  · dsimp only
    refine l1Fill (mods ?_ c fun _ => ?_) c _
    · split <;> exact h
    · rfl

/-! Traps. -/

theorem takeTrap (h : s.MemoriesWf) (c n : Nat) (i : TrapInfo) (epc : Word) : (s.takeTrap c n i epc).MemoriesWf := by
  unfold State.takeTrap
  dsimp only
  split
  · exact (Silent.modStrand ..).keeps h
  · split
    · exact endStrand h ..
    · split
      · exact (Silent.modStrand ..).keeps h
      · refine (Silent.modStrand ..).keeps ?_
        exact modCore ((Silent.unlead s c n _).keeps h) c (f := fun k => { k.trapTaken i with cause := i.cause, epc := epc, faddr := i.faddr })
          fun k hk => Core.trapTaken_wf k i hk

theorem trap (h : s.MemoriesWf) (cause : BitVec 8) (addr : Word) : (s.trap cause addr).MemoriesWf := h.takeTrap ..

theorem eret (h : s.MemoriesWf) : s.eret.MemoriesWf := by
  have q : ((s.modMe fun t => { t.retire s.mine.epc with intrap := false, sup := false, pfail := false }).releaseHold
      s.cur.core).MemoriesWf := ((Silent.modMe ..).trans (Silent.releaseHold ..)).keeps h
  unfold State.eret
  dsimp only
  split
  · exact q.trap ..
  · exact q

theorem takeAsync (h : s.MemoriesWf) (c n : Nat) : (s.takeAsync c n).MemoriesWf := by
  have go (i : TrapInfo) (t : Strand) : (State.takeAsync.go s c n i t).MemoriesWf := by
    unfold State.takeAsync.go
    split
    · exact (Silent.ite (Silent.modStrand ..) (Silent.refl s)).keeps h
    · dsimp only
      have hu : (if s.replays c n = true then s.unlead c n t.pc else s).MemoriesWf :=
        (Silent.ite (Silent.unlead ..) (Silent.refl s)).keeps h
      refine takeTrap ((Silent.modStrand ..).keeps ?_) ..
      exact mods (s := State.dropUntranslated _ c n) hu c fun k => Core.forget_scratch k n
  unfold State.takeAsync
  split
  · exact h
  · dsimp only
    split
    · exact h
    · exact h
    · exact h
    · split
      · exact go ..
      · exact h
    · exact go ..

theorem invalidAt (h : s.MemoriesWf) (e : Nat) (p : Bool) (a : Word) : (s.invalidAt e p a).MemoriesWf := by
  unfold State.invalidAt
  split
  · split
    · exact (Silent.park s (.xlate e)).keeps h
    · exact trap (s := s.tell _) h ..
  · exact h.trap ..

theorem land (h : s.MemoriesWf) : (x : Stop) → (x.land s).MemoriesWf
  | .bad .. => h.trap ..
  | .invalid .. => h.invalidAt ..

end State.MemoriesWf

end Sys2Proof.Machine
end

