-- ==== Sys2Proof/Laws/Ops.lean ====
section
/-!
SUPPORT. What the shared operations do, said once each: writes of memory and scratch, the end of a strand, taking a
trap and returning from one.
-/

namespace Sys2Proof.Machine

/-! Memory. -/

/-- A write at a home writes its bytes and no other. -/
theorem State.homeWrite_mem (s : State) (j : BitVec 16) (pa : Nat) (bs : List Byte) :
    (s.homeWrite j pa bs).mem = s.mem.putBytes pa bs := (Silent.wakeAll ..).mem

/-- Reading a table whose values a map changes. -/
theorem Tab.look_map {α β : Type} (f : α → β) (t : Tab α) (k : Nat) (d : α) :
    Tab.look (t.map fun x => (x.1, f x.2)) k (f d) = f (t.look k d) := by
  induction t with
  | nil => rfl
  | cons x t ih =>
    rw [List.map_cons, Tab.look_cons, Tab.look_cons, ih]
    split <;> rfl

/-- A core's scratch after a change to a strand of any core. -/
theorem State.setStrand_scratch (s : State) (c n : Nat) (x : Strand) (d : Nat) :
    ((s.setStrand c n x).core d).scratch = (s.core d).scratch := by
  unfold State.setStrand
  rw [State.core_setCore]
  split
  · next h => exact h ▸ rfl
  · rfl

theorem State.wake1_scratch (m0 : Memory) (lo n : Nat) (s : State) (w : Bool × Nat × Nat × Nat) (c : Nat) :
    ((State.wake1 m0 lo n s w).core c).scratch = (s.core c).scratch := by
  have hw (ws) : (({ s with waits := ws } : State).core c).scratch = (s.core c).scratch := rfl
  obtain ⟨p, key, d, sl⟩ := w
  unfold State.wake1
  dsimp only
  repeat' split
  all_goals first | rfl | exact (State.setStrand_scratch ..).trans (hw _)

theorem State.updateSharers_scratch (s : State) (pa : Nat) (bs : List Byte) (c : Nat) :
    ((s.updateSharers pa bs).core c).scratch = (s.core c).scratch := by
  let f (k : Core) : Core := if k.lines = [] then k else { k with lines := s.patched pa bs k.lines }
  have h (k : Core) : (f k).scratch = k.scratch := by
    dsimp only [f]
    split <;> rfl
  exact (congrArg Core.scratch (Tab.look_map f s.cores c Core.reset)).trans (h _)

/-- A write at a home changes no core's scratch. -/
theorem State.homeWrite_scratch (s : State) (j : BitVec 16) (pa : Nat) (bs : List Byte) (c : Nat) :
    ((s.homeWrite j pa bs).core c).scratch = (s.core c).scratch := by
  unfold State.homeWrite State.wakeAll
  exact foldl_keeps (P := fun t : State => (t.core c).scratch = (s.core c).scratch)
    (fun t w h => (State.wake1_scratch _ _ _ t w c).trans h) _ (State.updateSharers_scratch ..)

/-- A write of scratch writes its bytes in its core, and DRAM and every other core's scratch stay. -/
theorem State.scrWrite_core (s : State) (c c' off : Nat) (bs : List Byte) :
    ((s.scrWrite c off bs).core c').scratch =
      if c' = c then (s.core c).scratch.putBytes off bs else (s.core c').scratch := by
  unfold State.scrWrite State.modCore
  rw [State.core_setCore]
  split <;> rfl

theorem State.scrWrite_mem (s : State) (c off : Nat) (bs : List Byte) : (s.scrWrite c off bs).mem = s.mem := by
  unfold State.scrWrite
  exact State.modCore_mem ..

/-! The end of a strand and traps write no memory outside scratch. -/

theorem State.flushBanks_mem (s : State) (c n : Nat) : (s.flushBanks c n).mem = s.mem := by
  unfold State.flushBanks
  refine foldl_keeps (P := fun t : State => t.mem = s.mem) (fun t x ht => ?_) _ rfl
  split
  · exact (State.scrWrite_mem ..).trans ht
  · exact ht

theorem State.endStrand_mem (s : State) (c n : Nat) (err abrupt : Bool) : (s.endStrand c n err abrupt).mem = s.mem :=
  (Silent.endStrand ..).mem.trans ((State.flushBanks_mem ..).trans (Silent.unlead s c n _).mem)

/-- Taking a trap writes no memory outside scratch. -/
theorem State.takeTrap_mem (s : State) (c n : Nat) (i : TrapInfo) (epc : Word) : (s.takeTrap c n i epc).mem = s.mem := by
  unfold State.takeTrap
  dsimp only
  split
  · rfl
  · split
    · exact State.endStrand_mem ..
    · split
      · rfl
      · exact (Silent.unlead ..).mem

theorem State.trap_mem (s : State) (cause : BitVec 8) (addr : Word) : (s.trap cause addr).mem = s.mem :=
  State.takeTrap_mem ..

theorem State.eret_mem (s : State) : s.eret.mem = s.mem := by
  unfold State.eret
  dsimp only
  split
  · exact State.trap_mem ..
  · rfl

theorem State.core_modStrand_same (s : State) (c n : Nat) (f : Strand → Strand) :
    (s.modStrand c n f).core c = (s.core c).setStrand n (f (s.strand c n)) := State.core_setCore_same ..

/-- Taking a trap, case by case (18 R310, R311): a strand whose accesses are out waits for them; a precise trap in the
handler ends it; behind another handler, or in a pre-emption, the trap is held; else it is taken. -/
theorem State.takeTrap_cases (s : State) (c n : Nat) (i : TrapInfo) (epc : Word) :
    ((s.strand c n).accOut = true ∧
      s.takeTrap c n i epc = s.modStrand c n fun t => { t with st := .blocked }) ∨
    ((s.strand c n).accOut = false ∧ (s.strand c n).intrap = true ∧ i.code.toNat / 64 = 0 ∧
      s.takeTrap c n i epc = s.endStrand c n true true) ∨
    ((s.strand c n).accOut = false ∧ ((s.core c).trapHeld n = true ∨ s.preempted c = true) ∧
      s.takeTrap c n i epc = s.modStrand c n fun t => { t with st := .waiting .trapHold, held := some (i, epc) }) ∨
    ((s.strand c n).accOut = false ∧ (s.core c).trapHeld n = false ∧ s.preempted c = false ∧
      ((s.takeTrap c n i epc).core c).cause = i.cause ∧ ((s.takeTrap c n i epc).core c).epc = epc ∧
      ((s.takeTrap c n i epc).core c).faddr = i.faddr ∧ ((s.takeTrap c n i epc).strand c n).sup = true ∧
      ((s.takeTrap c n i epc).strand c n).intrap = true ∧ ((s.takeTrap c n i epc).strand c n).st = .ready) := by
  by_cases h1 : (s.strand c n).accOut = true
  · refine .inl ⟨h1, ?_⟩
    unfold State.takeTrap
    exact if_pos h1
  · have h1' : (s.strand c n).accOut = false := by simpa using h1
    by_cases h2 : (s.strand c n).intrap = true ∧ i.code.toNat / 64 = 0
    · refine .inr (.inl ⟨h1', h2.1, h2.2, ?_⟩)
      unfold State.takeTrap
      exact (if_neg h1).trans (if_pos h2)
    · by_cases h3 : (s.core c).trapHeld n = true ∨ s.preempted c = true
      · refine .inr (.inr (.inl ⟨h1', h3, ?_⟩))
        unfold State.takeTrap
        exact (if_neg h1).trans ((if_neg h2).trans (if_pos h3))
      · have h3' : (s.core c).trapHeld n = false ∧ s.preempted c = false := by
          simpa only [not_or, Bool.not_eq_true] using h3
        refine .inr (.inr (.inr ⟨h1', h3'.1, h3'.2, ?_⟩))
        unfold State.takeTrap
        dsimp only
        rw [if_neg (show ¬ ((s.core c).strand n).accOut = true from h1),
          if_neg (show ¬ (((s.core c).strand n).intrap = true ∧ i.code.toNat / 64 = 0) from h2), if_neg h3,
          State.core_modStrand_same, State.strand_modStrand_same]
        refine ⟨?_, ?_, ?_, rfl, rfl, rfl⟩
        · exact congrArg Core.cause (State.core_setCore_same ..)
        · exact congrArg Core.epc (State.core_setCore_same ..)
        · exact congrArg Core.faddr (State.core_setCore_same ..)

end Sys2Proof.Machine
end

