-- ==== Sys2Proof/Laws/PerInstr.lean ====
section
/-!
SUPPORT. The families of LAWS.json: one lemma per constructor of Instr. RoundTrip: the word that the encoder gives a
well-formed instruction decodes to that instruction (08 R149 to R166).
-/

namespace Sys2Proof.Laws

/-! Fields of the forms (08 R150). -/

theorem decode_of_nat {i : Instr} {n : Nat} (hn : encodeNat i = some n) (hlt : n < 2 ^ 32)
    (hd : decodeNat n = .ok i) (w : BitVec 32) (h : encode i = some w) : decode w = .ok i := by
  rw [encode, hn] at h
  cases h
  rw [decode, BitVec.toNat_ofNat, Nat.mod_eq_of_lt hlt, hd]

@[simp] theorem gOf_val (d : GReg) : gOf d.val = d := Fin.ext (Nat.mod_eq_of_lt d.isLt)
@[simp] theorem vOf_val (d : VReg) : vOf d.val = d := Fin.ext (Nat.mod_eq_of_lt d.isLt)
@[simp] theorem kOf_val (d : KReg) : kOf d.val = d := Fin.ext (Nat.mod_eq_of_lt d.isLt)
@[simp] theorem gOf_zero : gOf 0 = 0 := rfl

@[simp] theorem g_div (d : GReg) : d.val / 16 = 0 := Nat.div_eq_of_lt d.isLt
@[simp] theorem k_div (k : KReg) : k.val / 8 = 0 := Nat.div_eq_of_lt k.isLt
@[simp] theorem k_div16 (k : KReg) : k.val / 16 = 0 := Nat.div_eq_of_lt (by omega)
@[simp] theorem c_div (c : CReg) : c.val / 4 = 0 := Nat.div_eq_of_lt c.isLt
@[simp] theorem cOf_val (c : CReg) : Fin.ofNat 4 c.val = c := Fin.ext (Nat.mod_eq_of_lt c.isLt)
@[simp] theorem tOf_val (t : Fin 64) : Fin.ofNat 64 t.val = t := Fin.ext (Nat.mod_eq_of_lt t.isLt)

/-! Field codes, each below the bound of its field and read back as what it stands for. -/

theorem scopeCode_lt (s : Scope) : scopeCode s < 7 := by cases s <;> decide
@[simp] theorem scopeOf_code (s : Scope) : scopeOf (scopeCode s) = some s := by cases s <;> rfl

theorem ldOrdCode_lt (o : LdOrd) : ldOrdCode o < 4 := by cases o <;> decide
@[simp] theorem ldOrdOf_code (o : LdOrd) : ldOrdOf (ldOrdCode o) = o := by cases o <;> rfl

theorem stOrdCode_lt (o : StOrd) : stOrdCode o < 4 := by cases o <;> decide
@[simp] theorem stOrdOf_code (o : StOrd) : stOrdOf (stOrdCode o) = some o := by cases o <;> rfl

theorem amOrdCode_lt (o : AmOrd) : amOrdCode o < 4 := by cases o <;> decide
@[simp] theorem amOrdOf_code (o : AmOrd) : amOrdOf (amOrdCode o) = o := by cases o <;> rfl

theorem intTyCode_lt (t : IntTy) : intTyCode t < 10 := by cases t <;> decide
@[simp] theorem intTyOf_code (t : IntTy) : intTyOf (intTyCode t) = some t := by cases t <;> rfl

theorem fltTyCode_lt (t : FltTy) : fltTyCode t < 9 := by cases t <;> decide
@[simp] theorem fltTyOf_code (t : FltTy) : fltTyOf (fltTyCode t) = some t := by cases t <;> rfl

theorem rmCode_lt (r : RmField) : rmCode r < 8 := by
  cases r with
  | frm => decide
  | mode m => cases m <;> decide
@[simp] theorem rmOf_code (r : RmField) : rmOf (rmCode r) = some r := by
  cases r with
  | frm => rfl
  | mode m => cases m <;> rfl

theorem cvtSrcCode_lt (s : CvtSrc) : cvtSrcCode s < 20 := by
  cases s with
  | int t => have := intTyCode_lt t; simp only [cvtSrcCode]; omega
  | flt t => have := fltTyCode_lt t; simp only [cvtSrcCode]; omega
@[simp] theorem cvtSrcOf_code (s : CvtSrc) : cvtSrcOf (cvtSrcCode s) = some s := by
  cases s with
  | int t => cases t <;> rfl
  | flt t => cases t <;> rfl

theorem condCode_lt (c : Cond) : condCode c < 4 := by cases c <;> decide
@[simp] theorem condOf_code (c : Cond) : condOf (condCode c) = c := by cases c <;> rfl

theorem ptrModeCode_lt (p : PtrMode) : ptrModeCode p < 4 := by cases p <;> decide
@[simp] theorem ptrModeOf_code (p : PtrMode) : ptrModeOf (ptrModeCode p) = p := by cases p <;> rfl

theorem idSelCode_lt (s : IdSel) : idSelCode s < 5 := by cases s <;> decide
@[simp] theorem idSelOf_code (s : IdSel) : idSelOf (idSelCode s) = some s := by cases s <;> rfl

theorem crCode_lt (c : CrName) : crCode c < 112 := by
  cases c with
  | wvring n => have := n.isLt; simp only [crCode]; omega
  | _ => decide
@[simp] theorem crOf_code (c : CrName) : crOf (crCode c) = some c := by
  cases c with
  | wvring n => fin_cases n <;> rfl
  | _ => rfl

@[simp] theorem crOf_split (c : CrName) : crOf (crCode c / 32 * 32 + crCode c % 32) = some c := by
  rw [Nat.div_add_mod', crOf_code]

theorem ckArgMode_lt (c : CkArg) : ckArgMode c < 4 := by cases c <;> simp [ckArgMode]

theorem ckArgVb_lt (c : CkArg) : ckArgVb c < 16 := by
  cases c with
  | i c => have := c.isLt; simp only [ckArgVb]; omega
  | ig c => exact c.isLt
  | f c => have := c.isLt; simp only [ckArgVb]; omega
  | fg c => exact c.isLt
@[simp] theorem ckArgOf_code (c : CkArg) : ckArgOf (ckArgMode c) (ckArgVb c) = some c := by
  cases c with
  | i c => fin_cases c <;> rfl
  | ig g => simp [ckArgMode, ckArgVb, ckArgOf]
  | f c => fin_cases c <;> rfl
  | fg g => simp [ckArgMode, ckArgVb, ckArgOf]

theorem qSelCode_lt (q : QSel) : qSelCode q < 9 := by
  cases q with
  | q c => have := c.isLt; simp only [qSelCode]; omega
  | sq => decide

theorem srW_fields {op d a b fn : Nat} (ho : op < 64) (hd : d < 16) (ha : a < 16) (hb : b < 16) (hf : fn < 64) :
    srW op d a b fn < 2 ^ 32 ∧ fld (srW op d a b fn) 31 26 = op ∧ fld (srW op d a b fn) 25 22 = d ∧
    fld (srW op d a b fn) 21 18 = a ∧ fld (srW op d a b fn) 17 14 = b ∧ fld (srW op d a b fn) 13 6 = 0 ∧
    fld (srW op d a b fn) 5 0 = fn := by
  simp only [srW, fld, Nat.reducePow, Nat.reduceAdd, Nat.reduceSub]
  omega

theorem siW_fields {op d a i : Nat} (ho : op < 64) (hd : d < 16) (ha : a < 16) (hi : i < 262144) :
    siW op d a i < 2 ^ 32 ∧ fld (siW op d a i) 31 26 = op ∧ fld (siW op d a i) 25 22 = d ∧
    fld (siW op d a i) 21 18 = a ∧ fld (siW op d a i) 17 0 = i := by
  simp only [siW, fld, Nat.reducePow, Nat.reduceAdd, Nat.reduceSub]
  omega

theorem mW_fields {op d a sz sg o sc la p : Nat} (ho : op < 64) (hd : d < 16) (ha : a < 16) (hz : sz < 4)
    (hg : sg < 2) (hr : o < 4) (hs : sc < 8) (hl : la < 16) (hp : p < 64) :
    mW op d a sz sg o sc la p < 2 ^ 32 ∧ fld (mW op d a sz sg o sc la p) 31 26 = op ∧
    fld (mW op d a sz sg o sc la p) 25 22 = d ∧ fld (mW op d a sz sg o sc la p) 21 18 = a ∧
    fld (mW op d a sz sg o sc la p) 17 16 = sz ∧ fld (mW op d a sz sg o sc la p) 15 15 = sg ∧
    fld (mW op d a sz sg o sc la p) 14 13 = o ∧ fld (mW op d a sz sg o sc la p) 12 10 = sc ∧
    fld (mW op d a sz sg o sc la p) 9 6 = la ∧ fld (mW op d a sz sg o sc la p) 5 0 = p := by
  simp only [mW, fld, Nat.reducePow, Nat.reduceAdd, Nat.reduceSub]
  omega

theorem amoW_fields {d a b fn o sc la : Nat} {w : Bool} (hd : d < 16) (ha : a < 16) (hb : b < 16) (hf : fn < 16)
    (hr : o < 4) (hs : sc < 8) (hl : la < 16) :
    amoW d a b fn w o sc la < 2 ^ 32 ∧ fld (amoW d a b fn w o sc la) 31 26 = 0x23 ∧
    fld (amoW d a b fn w o sc la) 25 22 = d ∧ fld (amoW d a b fn w o sc la) 21 18 = a ∧
    fld (amoW d a b fn w o sc la) 17 14 = b ∧ fld (amoW d a b fn w o sc la) 13 10 = fn ∧
    fld (amoW d a b fn w o sc la) 9 9 = (if w then 1 else 0) ∧ fld (amoW d a b fn w o sc la) 8 7 = o ∧
    fld (amoW d a b fn w o sc la) 6 4 = sc ∧ fld (amoW d a b fn w o sc la) 3 0 = la := by
  simp only [amoW, fld, Nat.reducePow, Nat.reduceAdd, Nat.reduceSub, Nat.reduceMul]
  cases w <;> simp only [if_true, if_false, Bool.false_eq_true] <;> omega

theorem vW_fields {op d a b k ty fn : Nat} (ho : op < 64) (hd : d < 32) (ha : a < 32) (hb : b < 32) (hk : k < 8)
    (ht : ty < 16) (hf : fn < 16) :
    vW op d a b k ty fn < 2 ^ 32 ∧ fld (vW op d a b k ty fn) 31 26 = op ∧
    vFields (vW op d a b k ty fn) = ⟨d, a, b, k, ty, fn⟩ := by
  simp only [vW, vFields, fld, Nat.reducePow, Nat.reduceAdd, Nat.reduceSub, VFields.mk.injEq]
  omega

theorem eW_fields {op sub a b c n la : Nat} (ho : op < 64) (hs : sub < 32) (ha : a < 16) (hb : b < 16) (hc : c < 16)
    (hn : n < 32) (hl : la < 16) :
    eW op sub a b c n la < 2 ^ 32 ∧ fld (eW op sub a b c n la) 31 26 = op ∧
    eFields (eW op sub a b c n la) = ⟨sub, a, b, c, n, la⟩ := by
  simp only [eW, eFields, fld, Nat.reducePow, Nat.reduceAdd, Nat.reduceSub, EFields.mk.injEq]
  omega

theorem cpyW_fields {t d s p sc : Nat} {q r : Bool} (ht : t < 64) (hd : d < 16) (hs : s < 16) (hp : p < 16)
    (hc : sc < 8) :
    cpyW t d s p sc q r < 2 ^ 32 ∧ fld (cpyW t d s p sc q r) 31 26 = 0x29 ∧
    fld (cpyW t d s p sc q r) 25 20 = t ∧ fld (cpyW t d s p sc q r) 19 16 = d ∧
    fld (cpyW t d s p sc q r) 15 12 = s ∧ fld (cpyW t d s p sc q r) 11 8 = p ∧
    fld (cpyW t d s p sc q r) 7 5 = sc ∧ fld (cpyW t d s p sc q r) 4 4 = (if q then 1 else 0) ∧
    fld (cpyW t d s p sc q r) 3 3 = (if r then 1 else 0) ∧ fld (cpyW t d s p sc q r) 2 0 = 0 := by
  simp only [cpyW, fld, Nat.reducePow, Nat.reduceAdd, Nat.reduceSub, Nat.reduceMul]
  cases q <;> cases r <;> simp only [if_true, if_false, Bool.false_eq_true] <;> omega

theorem jW_fields {op : Nat} (ho : op < 64) (p : BitVec 26) :
    op * 2 ^ 26 + p.toNat < 2 ^ 32 ∧ fld (op * 2 ^ 26 + p.toNat) 31 26 = op ∧
    BitVec.ofNat 26 (op * 2 ^ 26 + p.toNat) = p := by
  have hp := p.isLt
  refine ⟨by omega, ?_, ?_⟩
  · simp only [fld, Nat.reducePow, Nat.reduceAdd, Nat.reduceSub]
    omega
  · apply BitVec.eq_of_toNat_eq
    rw [BitVec.toNat_ofNat]
    omega

theorem rpt_fields {n a d e f : Nat} (hn : n < 16) (ha : a < 16) (hd : d < 32) (he : e < 32) (hf : f < 32) :
    0x19 * 2 ^ 26 + n * 2 ^ 22 + a * 2 ^ 18 + d * 2 ^ 13 + e * 2 ^ 8 + f * 2 ^ 3 < 2 ^ 32 ∧
    fld (0x19 * 2 ^ 26 + n * 2 ^ 22 + a * 2 ^ 18 + d * 2 ^ 13 + e * 2 ^ 8 + f * 2 ^ 3) 31 26 = 0x19 ∧
    fld (0x19 * 2 ^ 26 + n * 2 ^ 22 + a * 2 ^ 18 + d * 2 ^ 13 + e * 2 ^ 8 + f * 2 ^ 3) 25 22 = n ∧
    fld (0x19 * 2 ^ 26 + n * 2 ^ 22 + a * 2 ^ 18 + d * 2 ^ 13 + e * 2 ^ 8 + f * 2 ^ 3) 21 18 = a ∧
    fld (0x19 * 2 ^ 26 + n * 2 ^ 22 + a * 2 ^ 18 + d * 2 ^ 13 + e * 2 ^ 8 + f * 2 ^ 3) 17 13 = d ∧
    fld (0x19 * 2 ^ 26 + n * 2 ^ 22 + a * 2 ^ 18 + d * 2 ^ 13 + e * 2 ^ 8 + f * 2 ^ 3) 12 8 = e ∧
    fld (0x19 * 2 ^ 26 + n * 2 ^ 22 + a * 2 ^ 18 + d * 2 ^ 13 + e * 2 ^ 8 + f * 2 ^ 3) 7 3 = f ∧
    fld (0x19 * 2 ^ 26 + n * 2 ^ 22 + a * 2 ^ 18 + d * 2 ^ 13 + e * 2 ^ 8 + f * 2 ^ 3) 2 0 = 0 := by
  simp only [fld, Nat.reducePow, Nat.reduceAdd, Nat.reduceSub, Nat.reduceMul]
  omega

/-! Fields that share a place of a form. -/

theorem ofNat_add_toNat {n k : Nat} (x : BitVec n) (h : k % 2 ^ n = 0) : BitVec.ofNat n (k + x.toNat) = x := by
  apply BitVec.eq_of_toNat_eq
  rw [BitVec.toNat_ofNat, Nat.add_mod, h, Nat.zero_add, Nat.mod_mod, Nat.mod_eq_of_lt x.isLt]

theorem shift_fields_0 (n : BitVec 6) :
    (n.toNat / 256 = 0) = True ∧ n.toNat / 64 = 0 := by
  have := n.isLt
  refine ⟨eq_true ?_, ?_⟩ <;> omega
theorem shift_fields_64 (n : BitVec 6) :
    ((64 + n.toNat) / 256 = 0) = True ∧ (64 + n.toNat) / 64 = 1 ∧ BitVec.ofNat 6 (64 + n.toNat) = n := by
  have := n.isLt
  refine ⟨eq_true ?_, ?_, ofNat_add_toNat n rfl⟩ <;> omega
theorem shift_fields_128 (n : BitVec 6) :
    ((128 + n.toNat) / 256 = 0) = True ∧ (128 + n.toNat) / 64 = 2 ∧ BitVec.ofNat 6 (128 + n.toNat) = n := by
  have := n.isLt
  refine ⟨eq_true ?_, ?_, ofNat_add_toNat n rfl⟩ <;> omega
theorem lea_fields (i : BitVec 16) : i.toNat / 2 ^ 16 = 0 := Nat.div_eq_of_lt i.isLt
theorem mkwin_fields (i : BitVec 16) :
    (65536 + i.toNat) / 2 ^ 16 = 1 ∧ BitVec.ofNat 16 (65536 + i.toNat) = i := by
  have := i.isLt
  exact ⟨by omega, ofNat_add_toNat i rfl⟩
theorem myid_fields (s : IdSel) :
    (131072 + idSelCode s) / 2 ^ 16 = 2 ∧ ((131072 + idSelCode s) % 2 ^ 16 / 16 = 0) = True ∧
    (131072 + idSelCode s) % 16 = idSelCode s := by
  cases s <;> decide
theorem flag_val (q : Bool) : (decide ((if q then 1 else 0 : Nat) = 1)) = q := by cases q <;> rfl
theorem flag_div (q : Bool) : (if q then 1 else 0 : Nat) / 2 = 0 := by cases q <;> rfl
theorem bit_fields (p : BpReg) (m : PtrMode) :
    (Fin.ofNat 4 (p.val + 4 * ptrModeCode m) : BpReg) = p ∧ (p.val + 4 * ptrModeCode m) / 4 = ptrModeCode m := by
  have hp := p.isLt
  refine ⟨Fin.ext ?_, by omega⟩
  show (p.val + 4 * ptrModeCode m) % 4 = p.val
  omega
theorem vbit_fields (p : BpReg) (i : Bool) :
    ((p.val + (if i then 4 else 0)) / 8 = 0) = True ∧ (decide ((p.val + (if i then 4 else 0)) / 4 = 1)) = i ∧
    (Fin.ofNat 4 (p.val + (if i then 4 else 0)) : BpReg) = p := by
  have hp := p.isLt
  refine ⟨eq_true ?_, ?_, Fin.ext ?_⟩
  · split <;> omega
  · cases i <;> simp only [if_true, if_false, Bool.false_eq_true, decide_eq_true_eq, decide_eq_false_iff_not] <;> omega
  · show (p.val + (if i then 4 else 0)) % 4 = p.val
    split <;> omega
theorem cmp_fields (c : Cond) (q : KReg) :
    (8 * condCode c + q.val) / 8 = condCode c ∧ kOf (8 * condCode c + q.val) = q := by
  have hq := q.isLt
  refine ⟨by omega, Fin.ext ?_⟩
  show (8 * condCode c + q.val) % 8 = q.val
  omega
theorem ckArgVb_div (c : CkArg) : (ckArgVb c / 16 = 0) = True := by
  have := ckArgVb_lt c
  exact eq_true (by omega)
theorem rgfill_fields (q r : Bool) (c : Scope) :
    (((if q then 1 else 0) + (if r then 2 else 0) + 4 * scopeCode c) / 4) = scopeCode c ∧
    (decide (((if q then 1 else 0) + (if r then 2 else 0) + 4 * scopeCode c) % 2 = 1)) = q ∧
    (decide (((if q then 1 else 0) + (if r then 2 else 0) + 4 * scopeCode c) / 2 % 2 = 1)) = r := by
  have := scopeCode_lt c
  refine ⟨?_, ?_, ?_⟩ <;> cases q <;> cases r <;> simp only [if_true, if_false, Bool.false_eq_true, decide_eq_true_eq, decide_eq_false_iff_not] <;> omega

namespace RoundTrip

set_option linter.unusedSimpArgs false

/-- Decoding the word of a well-formed instruction gives the instruction. -/
def Statement (i : Instr) : Prop := ∀ x : BitVec 32, i.wf = true → encode i = some x → decode x = .ok i

/-- An event has no word. -/
theorem event (i : Instr) (h : encodeNat i = none) : Statement i := fun x _ hw => by
  rw [encode, h] at hw
  cases hw

theorem add (d : GReg) (a : GReg) (b : GReg) : Statement (.add d a b) := by
  intro x hwf hx
  obtain ⟨lt, h1, h2, h3, h4, h5, h6⟩ := srW_fields (show 0x01 < 64 by decide) d.isLt a.isLt b.isLt (show 0 < 64 by decide)
  refine decode_of_nat (n := srW 0x01 d.val a.val b.val 0) rfl lt ?_ x hx
  simp only [decodeNat, h1, h2, h3, h4, h5, h6]
  simp [decScalar, ifZero, withVal]

theorem sub (d : GReg) (a : GReg) (b : GReg) : Statement (.sub d a b) := by
  intro x hwf hx
  obtain ⟨lt, h1, h2, h3, h4, h5, h6⟩ := srW_fields (show 0x01 < 64 by decide) d.isLt a.isLt b.isLt (show 1 < 64 by decide)
  refine decode_of_nat (n := srW 0x01 d.val a.val b.val 1) rfl lt ?_ x hx
  simp only [decodeNat, h1, h2, h3, h4, h5, h6]
  simp [decScalar, ifZero, withVal]

theorem mul (d : GReg) (a : GReg) (b : GReg) : Statement (.mul d a b) := by
  intro x hwf hx
  obtain ⟨lt, h1, h2, h3, h4, h5, h6⟩ := srW_fields (show 0x01 < 64 by decide) d.isLt a.isLt b.isLt (show 2 < 64 by decide)
  refine decode_of_nat (n := srW 0x01 d.val a.val b.val 2) rfl lt ?_ x hx
  simp only [decodeNat, h1, h2, h3, h4, h5, h6]
  simp [decScalar, ifZero, withVal]

theorem mulh (d : GReg) (a : GReg) (b : GReg) : Statement (.mulh d a b) := by
  intro x hwf hx
  obtain ⟨lt, h1, h2, h3, h4, h5, h6⟩ := srW_fields (show 0x01 < 64 by decide) d.isLt a.isLt b.isLt (show 3 < 64 by decide)
  refine decode_of_nat (n := srW 0x01 d.val a.val b.val 3) rfl lt ?_ x hx
  simp only [decodeNat, h1, h2, h3, h4, h5, h6]
  simp [decScalar, ifZero, withVal]

theorem mulhn (d : GReg) (a : GReg) (b : GReg) : Statement (.mulhn d a b) := by
  intro x hwf hx
  obtain ⟨lt, h1, h2, h3, h4, h5, h6⟩ := srW_fields (show 0x01 < 64 by decide) d.isLt a.isLt b.isLt (show 4 < 64 by decide)
  refine decode_of_nat (n := srW 0x01 d.val a.val b.val 4) rfl lt ?_ x hx
  simp only [decodeNat, h1, h2, h3, h4, h5, h6]
  simp [decScalar, ifZero, withVal]

theorem div (d : GReg) (a : GReg) (b : GReg) : Statement (.div d a b) := by
  intro x hwf hx
  obtain ⟨lt, h1, h2, h3, h4, h5, h6⟩ := srW_fields (show 0x01 < 64 by decide) d.isLt a.isLt b.isLt (show 5 < 64 by decide)
  refine decode_of_nat (n := srW 0x01 d.val a.val b.val 5) rfl lt ?_ x hx
  simp only [decodeNat, h1, h2, h3, h4, h5, h6]
  simp [decScalar, ifZero, withVal]

theorem divn (d : GReg) (a : GReg) (b : GReg) : Statement (.divn d a b) := by
  intro x hwf hx
  obtain ⟨lt, h1, h2, h3, h4, h5, h6⟩ := srW_fields (show 0x01 < 64 by decide) d.isLt a.isLt b.isLt (show 6 < 64 by decide)
  refine decode_of_nat (n := srW 0x01 d.val a.val b.val 6) rfl lt ?_ x hx
  simp only [decodeNat, h1, h2, h3, h4, h5, h6]
  simp [decScalar, ifZero, withVal]

theorem rem (d : GReg) (a : GReg) (b : GReg) : Statement (.rem d a b) := by
  intro x hwf hx
  obtain ⟨lt, h1, h2, h3, h4, h5, h6⟩ := srW_fields (show 0x01 < 64 by decide) d.isLt a.isLt b.isLt (show 7 < 64 by decide)
  refine decode_of_nat (n := srW 0x01 d.val a.val b.val 7) rfl lt ?_ x hx
  simp only [decodeNat, h1, h2, h3, h4, h5, h6]
  simp [decScalar, ifZero, withVal]

theorem remn (d : GReg) (a : GReg) (b : GReg) : Statement (.remn d a b) := by
  intro x hwf hx
  obtain ⟨lt, h1, h2, h3, h4, h5, h6⟩ := srW_fields (show 0x01 < 64 by decide) d.isLt a.isLt b.isLt (show 8 < 64 by decide)
  refine decode_of_nat (n := srW 0x01 d.val a.val b.val 8) rfl lt ?_ x hx
  simp only [decodeNat, h1, h2, h3, h4, h5, h6]
  simp [decScalar, ifZero, withVal]

theorem and (d : GReg) (a : GReg) (b : GReg) : Statement (.and d a b) := by
  intro x hwf hx
  obtain ⟨lt, h1, h2, h3, h4, h5, h6⟩ := srW_fields (show 0x01 < 64 by decide) d.isLt a.isLt b.isLt (show 16 < 64 by decide)
  refine decode_of_nat (n := srW 0x01 d.val a.val b.val 16) rfl lt ?_ x hx
  simp only [decodeNat, h1, h2, h3, h4, h5, h6]
  simp [decScalar, ifZero, withVal]

theorem or (d : GReg) (a : GReg) (b : GReg) : Statement (.or d a b) := by
  intro x hwf hx
  obtain ⟨lt, h1, h2, h3, h4, h5, h6⟩ := srW_fields (show 0x01 < 64 by decide) d.isLt a.isLt b.isLt (show 17 < 64 by decide)
  refine decode_of_nat (n := srW 0x01 d.val a.val b.val 17) rfl lt ?_ x hx
  simp only [decodeNat, h1, h2, h3, h4, h5, h6]
  simp [decScalar, ifZero, withVal]

theorem xor (d : GReg) (a : GReg) (b : GReg) : Statement (.xor d a b) := by
  intro x hwf hx
  obtain ⟨lt, h1, h2, h3, h4, h5, h6⟩ := srW_fields (show 0x01 < 64 by decide) d.isLt a.isLt b.isLt (show 18 < 64 by decide)
  refine decode_of_nat (n := srW 0x01 d.val a.val b.val 18) rfl lt ?_ x hx
  simp only [decodeNat, h1, h2, h3, h4, h5, h6]
  simp [decScalar, ifZero, withVal]

theorem andn (d : GReg) (a : GReg) (b : GReg) : Statement (.andn d a b) := by
  intro x hwf hx
  obtain ⟨lt, h1, h2, h3, h4, h5, h6⟩ := srW_fields (show 0x01 < 64 by decide) d.isLt a.isLt b.isLt (show 19 < 64 by decide)
  refine decode_of_nat (n := srW 0x01 d.val a.val b.val 19) rfl lt ?_ x hx
  simp only [decodeNat, h1, h2, h3, h4, h5, h6]
  simp [decScalar, ifZero, withVal]

theorem orn (d : GReg) (a : GReg) (b : GReg) : Statement (.orn d a b) := by
  intro x hwf hx
  obtain ⟨lt, h1, h2, h3, h4, h5, h6⟩ := srW_fields (show 0x01 < 64 by decide) d.isLt a.isLt b.isLt (show 20 < 64 by decide)
  refine decode_of_nat (n := srW 0x01 d.val a.val b.val 20) rfl lt ?_ x hx
  simp only [decodeNat, h1, h2, h3, h4, h5, h6]
  simp [decScalar, ifZero, withVal]

theorem shl (d : GReg) (a : GReg) (b : GReg) : Statement (.shl d a b) := by
  intro x hwf hx
  obtain ⟨lt, h1, h2, h3, h4, h5, h6⟩ := srW_fields (show 0x01 < 64 by decide) d.isLt a.isLt b.isLt (show 24 < 64 by decide)
  refine decode_of_nat (n := srW 0x01 d.val a.val b.val 24) rfl lt ?_ x hx
  simp only [decodeNat, h1, h2, h3, h4, h5, h6]
  simp [decScalar, ifZero, withVal]

theorem shr (d : GReg) (a : GReg) (b : GReg) : Statement (.shr d a b) := by
  intro x hwf hx
  obtain ⟨lt, h1, h2, h3, h4, h5, h6⟩ := srW_fields (show 0x01 < 64 by decide) d.isLt a.isLt b.isLt (show 25 < 64 by decide)
  refine decode_of_nat (n := srW 0x01 d.val a.val b.val 25) rfl lt ?_ x hx
  simp only [decodeNat, h1, h2, h3, h4, h5, h6]
  simp [decScalar, ifZero, withVal]

theorem sra (d : GReg) (a : GReg) (b : GReg) : Statement (.sra d a b) := by
  intro x hwf hx
  obtain ⟨lt, h1, h2, h3, h4, h5, h6⟩ := srW_fields (show 0x01 < 64 by decide) d.isLt a.isLt b.isLt (show 26 < 64 by decide)
  refine decode_of_nat (n := srW 0x01 d.val a.val b.val 26) rfl lt ?_ x hx
  simp only [decodeNat, h1, h2, h3, h4, h5, h6]
  simp [decScalar, ifZero, withVal]

theorem rot (d : GReg) (a : GReg) (b : GReg) : Statement (.rot d a b) := by
  intro x hwf hx
  obtain ⟨lt, h1, h2, h3, h4, h5, h6⟩ := srW_fields (show 0x01 < 64 by decide) d.isLt a.isLt b.isLt (show 27 < 64 by decide)
  refine decode_of_nat (n := srW 0x01 d.val a.val b.val 27) rfl lt ?_ x hx
  simp only [decodeNat, h1, h2, h3, h4, h5, h6]
  simp [decScalar, ifZero, withVal]

theorem clz (d : GReg) (a : GReg) : Statement (.clz d a) := by
  intro x hwf hx
  obtain ⟨lt, h1, h2, h3, h4, h5, h6⟩ := srW_fields (show 0x01 < 64 by decide) d.isLt a.isLt (show 0 < 16 by decide) (show 28 < 64 by decide)
  refine decode_of_nat (n := srW 0x01 d.val a.val 0 28) rfl lt ?_ x hx
  simp only [decodeNat, h1, h2, h3, h4, h5, h6]
  simp [decScalar, ifZero, withVal]

theorem ctz (d : GReg) (a : GReg) : Statement (.ctz d a) := by
  intro x hwf hx
  obtain ⟨lt, h1, h2, h3, h4, h5, h6⟩ := srW_fields (show 0x01 < 64 by decide) d.isLt a.isLt (show 0 < 16 by decide) (show 29 < 64 by decide)
  refine decode_of_nat (n := srW 0x01 d.val a.val 0 29) rfl lt ?_ x hx
  simp only [decodeNat, h1, h2, h3, h4, h5, h6]
  simp [decScalar, ifZero, withVal]

theorem popc (d : GReg) (a : GReg) : Statement (.popc d a) := by
  intro x hwf hx
  obtain ⟨lt, h1, h2, h3, h4, h5, h6⟩ := srW_fields (show 0x01 < 64 by decide) d.isLt a.isLt (show 0 < 16 by decide) (show 30 < 64 by decide)
  refine decode_of_nat (n := srW 0x01 d.val a.val 0 30) rfl lt ?_ x hx
  simp only [decodeNat, h1, h2, h3, h4, h5, h6]
  simp [decScalar, ifZero, withVal]

theorem min (d : GReg) (a : GReg) (b : GReg) : Statement (.min d a b) := by
  intro x hwf hx
  obtain ⟨lt, h1, h2, h3, h4, h5, h6⟩ := srW_fields (show 0x01 < 64 by decide) d.isLt a.isLt b.isLt (show 32 < 64 by decide)
  refine decode_of_nat (n := srW 0x01 d.val a.val b.val 32) rfl lt ?_ x hx
  simp only [decodeNat, h1, h2, h3, h4, h5, h6]
  simp [decScalar, ifZero, withVal]

theorem max (d : GReg) (a : GReg) (b : GReg) : Statement (.max d a b) := by
  intro x hwf hx
  obtain ⟨lt, h1, h2, h3, h4, h5, h6⟩ := srW_fields (show 0x01 < 64 by decide) d.isLt a.isLt b.isLt (show 33 < 64 by decide)
  refine decode_of_nat (n := srW 0x01 d.val a.val b.val 33) rfl lt ?_ x hx
  simp only [decodeNat, h1, h2, h3, h4, h5, h6]
  simp [decScalar, ifZero, withVal]

theorem minn (d : GReg) (a : GReg) (b : GReg) : Statement (.minn d a b) := by
  intro x hwf hx
  obtain ⟨lt, h1, h2, h3, h4, h5, h6⟩ := srW_fields (show 0x01 < 64 by decide) d.isLt a.isLt b.isLt (show 34 < 64 by decide)
  refine decode_of_nat (n := srW 0x01 d.val a.val b.val 34) rfl lt ?_ x hx
  simp only [decodeNat, h1, h2, h3, h4, h5, h6]
  simp [decScalar, ifZero, withVal]

theorem maxn (d : GReg) (a : GReg) (b : GReg) : Statement (.maxn d a b) := by
  intro x hwf hx
  obtain ⟨lt, h1, h2, h3, h4, h5, h6⟩ := srW_fields (show 0x01 < 64 by decide) d.isLt a.isLt b.isLt (show 35 < 64 by decide)
  refine decode_of_nat (n := srW 0x01 d.val a.val b.val 35) rfl lt ?_ x hx
  simp only [decodeNat, h1, h2, h3, h4, h5, h6]
  simp [decScalar, ifZero, withVal]

theorem slt (d : GReg) (a : GReg) (b : GReg) : Statement (.slt d a b) := by
  intro x hwf hx
  obtain ⟨lt, h1, h2, h3, h4, h5, h6⟩ := srW_fields (show 0x01 < 64 by decide) d.isLt a.isLt b.isLt (show 36 < 64 by decide)
  refine decode_of_nat (n := srW 0x01 d.val a.val b.val 36) rfl lt ?_ x hx
  simp only [decodeNat, h1, h2, h3, h4, h5, h6]
  simp [decScalar, ifZero, withVal]

theorem sltn (d : GReg) (a : GReg) (b : GReg) : Statement (.sltn d a b) := by
  intro x hwf hx
  obtain ⟨lt, h1, h2, h3, h4, h5, h6⟩ := srW_fields (show 0x01 < 64 by decide) d.isLt a.isLt b.isLt (show 37 < 64 by decide)
  refine decode_of_nat (n := srW 0x01 d.val a.val b.val 37) rfl lt ?_ x hx
  simp only [decodeNat, h1, h2, h3, h4, h5, h6]
  simp [decScalar, ifZero, withVal]

theorem seq (d : GReg) (a : GReg) (b : GReg) : Statement (.seq d a b) := by
  intro x hwf hx
  obtain ⟨lt, h1, h2, h3, h4, h5, h6⟩ := srW_fields (show 0x01 < 64 by decide) d.isLt a.isLt b.isLt (show 38 < 64 by decide)
  refine decode_of_nat (n := srW 0x01 d.val a.val b.val 38) rfl lt ?_ x hx
  simp only [decodeNat, h1, h2, h3, h4, h5, h6]
  simp [decScalar, ifZero, withVal]

theorem sel (d : GReg) (a : GReg) (b : GReg) : Statement (.sel d a b) := by
  intro x hwf hx
  obtain ⟨lt, h1, h2, h3, h4, h5, h6⟩ := srW_fields (show 0x01 < 64 by decide) d.isLt a.isLt b.isLt (show 39 < 64 by decide)
  refine decode_of_nat (n := srW 0x01 d.val a.val b.val 39) rfl lt ?_ x hx
  simp only [decodeNat, h1, h2, h3, h4, h5, h6]
  simp [decScalar, ifZero, withVal]

theorem bfx (d : GReg) (a : GReg) (b : GReg) : Statement (.bfx d a b) := by
  intro x hwf hx
  obtain ⟨lt, h1, h2, h3, h4, h5, h6⟩ := srW_fields (show 0x01 < 64 by decide) d.isLt a.isLt b.isLt (show 40 < 64 by decide)
  refine decode_of_nat (n := srW 0x01 d.val a.val b.val 40) rfl lt ?_ x hx
  simp only [decodeNat, h1, h2, h3, h4, h5, h6]
  simp [decScalar, ifZero, withVal]

theorem bfi (d : GReg) (a : GReg) (b : GReg) : Statement (.bfi d a b) := by
  intro x hwf hx
  obtain ⟨lt, h1, h2, h3, h4, h5, h6⟩ := srW_fields (show 0x01 < 64 by decide) d.isLt a.isLt b.isLt (show 41 < 64 by decide)
  refine decode_of_nat (n := srW 0x01 d.val a.val b.val 41) rfl lt ?_ x hx
  simp only [decodeNat, h1, h2, h3, h4, h5, h6]
  simp [decScalar, ifZero, withVal]

theorem addi (d : GReg) (a : GReg) (i : BitVec 18) : Statement (.addi d a i) := by
  intro x hwf hx
  obtain ⟨lt, h1, h2, h3, h4⟩ := siW_fields (show 2 < 64 by decide) d.isLt a.isLt i.isLt
  refine decode_of_nat (n := siW 2 d.val a.val i.toNat) rfl lt ?_ x hx
  simp only [decodeNat, h1, h2, h3, h4]
  simp [ifZero, withVal]

theorem andi (d : GReg) (a : GReg) (i : BitVec 18) : Statement (.andi d a i) := by
  intro x hwf hx
  obtain ⟨lt, h1, h2, h3, h4⟩ := siW_fields (show 3 < 64 by decide) d.isLt a.isLt i.isLt
  refine decode_of_nat (n := siW 3 d.val a.val i.toNat) rfl lt ?_ x hx
  simp only [decodeNat, h1, h2, h3, h4]
  simp [ifZero, withVal]

theorem ori (d : GReg) (a : GReg) (i : BitVec 18) : Statement (.ori d a i) := by
  intro x hwf hx
  obtain ⟨lt, h1, h2, h3, h4⟩ := siW_fields (show 4 < 64 by decide) d.isLt a.isLt i.isLt
  refine decode_of_nat (n := siW 4 d.val a.val i.toNat) rfl lt ?_ x hx
  simp only [decodeNat, h1, h2, h3, h4]
  simp [ifZero, withVal]

theorem xori (d : GReg) (a : GReg) (i : BitVec 18) : Statement (.xori d a i) := by
  intro x hwf hx
  obtain ⟨lt, h1, h2, h3, h4⟩ := siW_fields (show 5 < 64 by decide) d.isLt a.isLt i.isLt
  refine decode_of_nat (n := siW 5 d.val a.val i.toNat) rfl lt ?_ x hx
  simp only [decodeNat, h1, h2, h3, h4]
  simp [ifZero, withVal]

theorem shli (d : GReg) (a : GReg) (n : BitVec 6) : Statement (.shli d a n) := by
  intro x hwf hx
  obtain ⟨lt, h1, h2, h3, h4⟩ := siW_fields (show 0x06 < 64 by decide) d.isLt a.isLt (show 0 + n.toNat < 262144 by have := n.isLt; omega)
  refine decode_of_nat (n := siW 0x06 d.val a.val (0 + n.toNat)) rfl lt ?_ x hx
  simp only [decodeNat, h1, h2, h3, h4]
  simp only [decShift, ifZero, withVal, Nat.add_zero, Nat.zero_add, Nat.zero_div, Nat.zero_mod, gOf_val, vOf_val, kOf_val, cOf_val, tOf_val, gOf_zero, g_div, k_div, k_div16, c_div, scopeOf_code, ldOrdOf_code, stOrdOf_code, amOrdOf_code, intTyOf_code, fltTyOf_code, rmOf_code, cvtSrcOf_code, condOf_code, ptrModeOf_code, idSelOf_code, crOf_split, ckArgOf_code, ite_true, ite_false, BitVec.ofNat_toNat, BitVec.setWidth_eq, reduceIte, and_self, one_ne_zero, Nat.reduceEqDiff, Nat.reduceMul, Nat.reduceAdd, Nat.reduceMod, Nat.reduceDiv, shift_fields_0 n]

theorem shri (d : GReg) (a : GReg) (n : BitVec 6) : Statement (.shri d a n) := by
  intro x hwf hx
  obtain ⟨lt, h1, h2, h3, h4⟩ := siW_fields (show 0x06 < 64 by decide) d.isLt a.isLt (show 64 + n.toNat < 262144 by have := n.isLt; omega)
  refine decode_of_nat (n := siW 0x06 d.val a.val (64 + n.toNat)) rfl lt ?_ x hx
  simp only [decodeNat, h1, h2, h3, h4]
  simp only [decShift, ifZero, withVal, Nat.add_zero, Nat.zero_add, Nat.zero_div, Nat.zero_mod, gOf_val, vOf_val, kOf_val, cOf_val, tOf_val, gOf_zero, g_div, k_div, k_div16, c_div, scopeOf_code, ldOrdOf_code, stOrdOf_code, amOrdOf_code, intTyOf_code, fltTyOf_code, rmOf_code, cvtSrcOf_code, condOf_code, ptrModeOf_code, idSelOf_code, crOf_split, ckArgOf_code, ite_true, ite_false, BitVec.ofNat_toNat, BitVec.setWidth_eq, reduceIte, and_self, one_ne_zero, Nat.reduceEqDiff, Nat.reduceMul, Nat.reduceAdd, Nat.reduceMod, Nat.reduceDiv, shift_fields_64 n]

theorem srai (d : GReg) (a : GReg) (n : BitVec 6) : Statement (.srai d a n) := by
  intro x hwf hx
  obtain ⟨lt, h1, h2, h3, h4⟩ := siW_fields (show 0x06 < 64 by decide) d.isLt a.isLt (show 128 + n.toNat < 262144 by have := n.isLt; omega)
  refine decode_of_nat (n := siW 0x06 d.val a.val (128 + n.toNat)) rfl lt ?_ x hx
  simp only [decodeNat, h1, h2, h3, h4]
  simp only [decShift, ifZero, withVal, Nat.add_zero, Nat.zero_add, Nat.zero_div, Nat.zero_mod, gOf_val, vOf_val, kOf_val, cOf_val, tOf_val, gOf_zero, g_div, k_div, k_div16, c_div, scopeOf_code, ldOrdOf_code, stOrdOf_code, amOrdOf_code, intTyOf_code, fltTyOf_code, rmOf_code, cvtSrcOf_code, condOf_code, ptrModeOf_code, idSelOf_code, crOf_split, ckArgOf_code, ite_true, ite_false, BitVec.ofNat_toNat, BitVec.setWidth_eq, reduceIte, and_self, one_ne_zero, Nat.reduceEqDiff, Nat.reduceMul, Nat.reduceAdd, Nat.reduceMod, Nat.reduceDiv, shift_fields_128 n]

theorem slti (d : GReg) (a : GReg) (i : BitVec 18) : Statement (.slti d a i) := by
  intro x hwf hx
  obtain ⟨lt, h1, h2, h3, h4⟩ := siW_fields (show 7 < 64 by decide) d.isLt a.isLt i.isLt
  refine decode_of_nat (n := siW 7 d.val a.val i.toNat) rfl lt ?_ x hx
  simp only [decodeNat, h1, h2, h3, h4]
  simp [ifZero, withVal]

theorem sltni (d : GReg) (a : GReg) (i : BitVec 18) : Statement (.sltni d a i) := by
  intro x hwf hx
  obtain ⟨lt, h1, h2, h3, h4⟩ := siW_fields (show 8 < 64 by decide) d.isLt a.isLt i.isLt
  refine decode_of_nat (n := siW 8 d.val a.val i.toNat) rfl lt ?_ x hx
  simp only [decodeNat, h1, h2, h3, h4]
  simp [ifZero, withVal]

theorem li (d : GReg) (i : BitVec 18) : Statement (.li d i) := by
  intro x hwf hx
  obtain ⟨lt, h1, h2, h3, h4⟩ := siW_fields (show 9 < 64 by decide) d.isLt (show 0 < 16 by decide) i.isLt
  refine decode_of_nat (n := siW 9 d.val 0 i.toNat) rfl lt ?_ x hx
  simp only [decodeNat, h1, h2, h3, h4]
  simp [ifZero, withVal]

theorem lis (d : GReg) (i : BitVec 18) : Statement (.lis d i) := by
  intro x hwf hx
  obtain ⟨lt, h1, h2, h3, h4⟩ := siW_fields (show 10 < 64 by decide) d.isLt (show 0 < 16 by decide) i.isLt
  refine decode_of_nat (n := siW 10 d.val 0 i.toNat) rfl lt ?_ x hx
  simp only [decodeNat, h1, h2, h3, h4]
  simp [ifZero, withVal]

theorem addpc (d : GReg) (i : BitVec 18) : Statement (.addpc d i) := by
  intro x hwf hx
  obtain ⟨lt, h1, h2, h3, h4⟩ := siW_fields (show 11 < 64 by decide) d.isLt (show 0 < 16 by decide) i.isLt
  refine decode_of_nat (n := siW 11 d.val 0 i.toNat) rfl lt ?_ x hx
  simp only [decodeNat, h1, h2, h3, h4]
  simp [ifZero, withVal]

theorem lea (d : GReg) (a : GReg) (i : BitVec 16) : Statement (.lea d a i) := by
  intro x hwf hx
  obtain ⟨lt, h1, h2, h3, h4⟩ := siW_fields (show 0x0C < 64 by decide) d.isLt a.isLt (show i.toNat < 262144 by have := i.isLt; omega)
  refine decode_of_nat (n := siW 0x0C d.val a.val i.toNat) rfl lt ?_ x hx
  simp only [decodeNat, h1, h2, h3, h4]
  simp only [decAddr, ifZero, withVal, Nat.add_zero, Nat.zero_add, Nat.zero_div, Nat.zero_mod, gOf_val, vOf_val, kOf_val, cOf_val, tOf_val, gOf_zero, g_div, k_div, k_div16, c_div, scopeOf_code, ldOrdOf_code, stOrdOf_code, amOrdOf_code, intTyOf_code, fltTyOf_code, rmOf_code, cvtSrcOf_code, condOf_code, ptrModeOf_code, idSelOf_code, crOf_split, ckArgOf_code, ite_true, ite_false, BitVec.ofNat_toNat, BitVec.setWidth_eq, reduceIte, and_self, one_ne_zero, Nat.reduceEqDiff, Nat.reduceMul, Nat.reduceAdd, Nat.reduceMod, Nat.reduceDiv, lea_fields]

theorem mkwin (d : GReg) (a : GReg) (i : BitVec 16) : Statement (.mkwin d a i) := by
  intro x hwf hx
  obtain ⟨lt, h1, h2, h3, h4⟩ := siW_fields (show 0x0C < 64 by decide) d.isLt a.isLt (show 0x10000 + i.toNat < 262144 by have := i.isLt; omega)
  refine decode_of_nat (n := siW 0x0C d.val a.val (0x10000 + i.toNat)) rfl lt ?_ x hx
  simp only [decodeNat, h1, h2, h3, h4]
  simp only [decAddr, ifZero, withVal, Nat.add_zero, Nat.zero_add, Nat.zero_div, Nat.zero_mod, gOf_val, vOf_val, kOf_val, cOf_val, tOf_val, gOf_zero, g_div, k_div, k_div16, c_div, scopeOf_code, ldOrdOf_code, stOrdOf_code, amOrdOf_code, intTyOf_code, fltTyOf_code, rmOf_code, cvtSrcOf_code, condOf_code, ptrModeOf_code, idSelOf_code, crOf_split, ckArgOf_code, ite_true, ite_false, BitVec.ofNat_toNat, BitVec.setWidth_eq, reduceIte, and_self, one_ne_zero, Nat.reduceEqDiff, Nat.reduceMul, Nat.reduceAdd, Nat.reduceMod, Nat.reduceDiv, mkwin_fields]

theorem myid (d : GReg) (s : IdSel) : Statement (.myid d s) := by
  intro x hwf hx
  obtain ⟨lt, h1, h2, h3, h4⟩ := siW_fields (show 0x0C < 64 by decide) d.isLt (show 0 < 16 by decide) (show 0x20000 + idSelCode s < 262144 by have := idSelCode_lt s; omega)
  refine decode_of_nat (n := siW 0x0C d.val 0 (0x20000 + idSelCode s)) rfl lt ?_ x hx
  simp only [decodeNat, h1, h2, h3, h4]
  simp only [decAddr, ifZero, withVal, Nat.add_zero, Nat.zero_add, Nat.zero_div, Nat.zero_mod, gOf_val, vOf_val, kOf_val, cOf_val, tOf_val, gOf_zero, g_div, k_div, k_div16, c_div, scopeOf_code, ldOrdOf_code, stOrdOf_code, amOrdOf_code, intTyOf_code, fltTyOf_code, rmOf_code, cvtSrcOf_code, condOf_code, ptrModeOf_code, idSelOf_code, crOf_split, ckArgOf_code, ite_true, ite_false, BitVec.ofNat_toNat, BitVec.setWidth_eq, reduceIte, and_self, one_ne_zero, Nat.reduceEqDiff, Nat.reduceMul, Nat.reduceAdd, Nat.reduceMod, Nat.reduceDiv, myid_fields]

theorem beq (a : GReg) (b : GReg) (p : BitVec 18) : Statement (.beq a b p) := by
  intro x hwf hx
  obtain ⟨lt, h1, h2, h3, h4⟩ := siW_fields (show 16 < 64 by decide) a.isLt b.isLt p.isLt
  refine decode_of_nat (n := siW 16 a.val b.val p.toNat) rfl lt ?_ x hx
  simp only [decodeNat, h1, h2, h3, h4]
  simp [ifZero, withVal]

theorem bne (a : GReg) (b : GReg) (p : BitVec 18) : Statement (.bne a b p) := by
  intro x hwf hx
  obtain ⟨lt, h1, h2, h3, h4⟩ := siW_fields (show 17 < 64 by decide) a.isLt b.isLt p.isLt
  refine decode_of_nat (n := siW 17 a.val b.val p.toNat) rfl lt ?_ x hx
  simp only [decodeNat, h1, h2, h3, h4]
  simp [ifZero, withVal]

theorem blt (a : GReg) (b : GReg) (p : BitVec 18) : Statement (.blt a b p) := by
  intro x hwf hx
  obtain ⟨lt, h1, h2, h3, h4⟩ := siW_fields (show 18 < 64 by decide) a.isLt b.isLt p.isLt
  refine decode_of_nat (n := siW 18 a.val b.val p.toNat) rfl lt ?_ x hx
  simp only [decodeNat, h1, h2, h3, h4]
  simp [ifZero, withVal]

theorem bge (a : GReg) (b : GReg) (p : BitVec 18) : Statement (.bge a b p) := by
  intro x hwf hx
  obtain ⟨lt, h1, h2, h3, h4⟩ := siW_fields (show 19 < 64 by decide) a.isLt b.isLt p.isLt
  refine decode_of_nat (n := siW 19 a.val b.val p.toNat) rfl lt ?_ x hx
  simp only [decodeNat, h1, h2, h3, h4]
  simp [ifZero, withVal]

theorem bltn (a : GReg) (b : GReg) (p : BitVec 18) : Statement (.bltn a b p) := by
  intro x hwf hx
  obtain ⟨lt, h1, h2, h3, h4⟩ := siW_fields (show 20 < 64 by decide) a.isLt b.isLt p.isLt
  refine decode_of_nat (n := siW 20 a.val b.val p.toNat) rfl lt ?_ x hx
  simp only [decodeNat, h1, h2, h3, h4]
  simp [ifZero, withVal]

theorem bgen (a : GReg) (b : GReg) (p : BitVec 18) : Statement (.bgen a b p) := by
  intro x hwf hx
  obtain ⟨lt, h1, h2, h3, h4⟩ := siW_fields (show 21 < 64 by decide) a.isLt b.isLt p.isLt
  refine decode_of_nat (n := siW 21 a.val b.val p.toNat) rfl lt ?_ x hx
  simp only [decodeNat, h1, h2, h3, h4]
  simp [ifZero, withVal]

theorem jmp (p : BitVec 26) : Statement (.jmp p) := by
  intro x hwf hx
  obtain ⟨lt, h1, h2⟩ := jW_fields (show 0x16 < 64 by decide) p
  refine decode_of_nat (n := 0x16 * 2 ^ 26 + p.toNat) rfl lt ?_ x hx
  simp only [decodeNat, h1, h2]

theorem call (p : BitVec 26) : Statement (.call p) := by
  intro x hwf hx
  obtain ⟨lt, h1, h2⟩ := jW_fields (show 0x17 < 64 by decide) p
  refine decode_of_nat (n := 0x17 * 2 ^ 26 + p.toNat) rfl lt ?_ x hx
  simp only [decodeNat, h1, h2]

theorem jr (a : GReg) : Statement (.jr a) := by
  intro x hwf hx
  obtain ⟨lt, h1, h2, h3, h4, h5, h6⟩ := srW_fields (show 0x18 < 64 by decide) (show 0 < 16 by decide) a.isLt (show 0 < 16 by decide) (show 0 < 64 by decide)
  refine decode_of_nat (n := srW 0x18 0 a.val 0 0) rfl lt ?_ x hx
  simp only [decodeNat, h1, h2, h3, h4, h5, h6]
  simp [decJump, ifZero, withVal]

theorem callr (a : GReg) : Statement (.callr a) := by
  intro x hwf hx
  obtain ⟨lt, h1, h2, h3, h4, h5, h6⟩ := srW_fields (show 0x18 < 64 by decide) (show 0 < 16 by decide) a.isLt (show 0 < 16 by decide) (show 1 < 64 by decide)
  refine decode_of_nat (n := srW 0x18 0 a.val 0 1) rfl lt ?_ x hx
  simp only [decodeNat, h1, h2, h3, h4, h5, h6]
  simp [decJump, ifZero, withVal]

theorem ret : Statement .ret := by
  intro x hwf hx
  obtain ⟨lt, h1, h2, h3, h4, h5, h6⟩ := srW_fields (show 0x18 < 64 by decide) (show 0 < 16 by decide) (show 0 < 16 by decide) (show 0 < 16 by decide) (show 2 < 64 by decide)
  refine decode_of_nat (n := srW 0x18 0 0 0 2) rfl lt ?_ x hx
  simp only [decodeNat, h1, h2, h3, h4, h5, h6]
  simp [decJump, ifZero, withVal]

theorem rpt (len : Fin 16) (a : GReg) (sd : Fin 32) (sa : Fin 32) (sb : Fin 32) : Statement (.rpt len a sd sa sb) := by
  intro x hwf hx
  obtain ⟨lt, h1, h2, h3, h4, h5, h6, h7⟩ := rpt_fields len.isLt a.isLt sd.isLt sa.isLt sb.isLt
  refine decode_of_nat (n := 0x19 * 2 ^ 26 + len.val * 2 ^ 22 + a.val * 2 ^ 18 + sd.val * 2 ^ 13 + sa.val * 2 ^ 8 + sb.val * 2 ^ 3) rfl lt ?_ x hx
  simp only [decodeNat, h1, h2, h3, h4, h5, h6, h7, ifZero, gOf_val, vOf_val, reduceIte]

theorem follow : Statement .follow := by
  intro x hwf hx
  obtain ⟨lt, h1, h2⟩ := eW_fields (show 0x1A < 64 by decide) (show 0 < 32 by decide) (show 0 < 16 by decide) (show 0 < 16 by decide) (show 0 < 16 by decide) (show 0 < 32 by decide) (show 0 < 16 by decide)
  refine decode_of_nat (n := eW 0x1A 0 0 0 0 0 0) rfl lt ?_ x hx
  simp only [decodeNat, h1, h2]
  simp [decFollow, ifZero, withVal]

theorem unfollow : Statement .unfollow := by
  intro x hwf hx
  obtain ⟨lt, h1, h2⟩ := eW_fields (show 0x1A < 64 by decide) (show 1 < 32 by decide) (show 0 < 16 by decide) (show 0 < 16 by decide) (show 0 < 16 by decide) (show 0 < 32 by decide) (show 0 < 16 by decide)
  refine decode_of_nat (n := eW 0x1A 1 0 0 0 0 0) rfl lt ?_ x hx
  simp only [decodeNat, h1, h2]
  simp [decFollow, ifZero, withVal]

theorem ldb (d : GReg) (a : GReg) (o : LdOrd) (s : Scope) (l : La) (p : BitVec 6) : Statement (.ldb d a o s l p) := by
  intro x hwf hx
  obtain ⟨lt, h1, h2, h3, h4, h5, h6, h7, h8, h9⟩ := mW_fields (show 0x20 < 64 by decide) d.isLt a.isLt (show 0 < 4 by decide) (show 1 < 2 by decide) (show ldOrdCode o < 4 by have := ldOrdCode_lt o; omega) (show scopeCode s < 8 by have := scopeCode_lt s; omega) l.isLt p.isLt
  refine decode_of_nat (n := mW 0x20 d.val a.val 0 1 (ldOrdCode o) (scopeCode s) l.val p.toNat) rfl lt ?_ x hx
  simp only [decodeNat, h1, h2, h3, h4, h5, h6, h7, h8, h9]
  simp [decLoad, ifZero, withVal]

theorem ldbn (d : GReg) (a : GReg) (o : LdOrd) (s : Scope) (l : La) (p : BitVec 6) : Statement (.ldbn d a o s l p) := by
  intro x hwf hx
  obtain ⟨lt, h1, h2, h3, h4, h5, h6, h7, h8, h9⟩ := mW_fields (show 0x20 < 64 by decide) d.isLt a.isLt (show 0 < 4 by decide) (show 0 < 2 by decide) (show ldOrdCode o < 4 by have := ldOrdCode_lt o; omega) (show scopeCode s < 8 by have := scopeCode_lt s; omega) l.isLt p.isLt
  refine decode_of_nat (n := mW 0x20 d.val a.val 0 0 (ldOrdCode o) (scopeCode s) l.val p.toNat) rfl lt ?_ x hx
  simp only [decodeNat, h1, h2, h3, h4, h5, h6, h7, h8, h9]
  simp [decLoad, ifZero, withVal]

theorem ldh (d : GReg) (a : GReg) (o : LdOrd) (s : Scope) (l : La) (p : BitVec 6) : Statement (.ldh d a o s l p) := by
  intro x hwf hx
  obtain ⟨lt, h1, h2, h3, h4, h5, h6, h7, h8, h9⟩ := mW_fields (show 0x20 < 64 by decide) d.isLt a.isLt (show 1 < 4 by decide) (show 1 < 2 by decide) (show ldOrdCode o < 4 by have := ldOrdCode_lt o; omega) (show scopeCode s < 8 by have := scopeCode_lt s; omega) l.isLt p.isLt
  refine decode_of_nat (n := mW 0x20 d.val a.val 1 1 (ldOrdCode o) (scopeCode s) l.val p.toNat) rfl lt ?_ x hx
  simp only [decodeNat, h1, h2, h3, h4, h5, h6, h7, h8, h9]
  simp [decLoad, ifZero, withVal]

theorem ldhn (d : GReg) (a : GReg) (o : LdOrd) (s : Scope) (l : La) (p : BitVec 6) : Statement (.ldhn d a o s l p) := by
  intro x hwf hx
  obtain ⟨lt, h1, h2, h3, h4, h5, h6, h7, h8, h9⟩ := mW_fields (show 0x20 < 64 by decide) d.isLt a.isLt (show 1 < 4 by decide) (show 0 < 2 by decide) (show ldOrdCode o < 4 by have := ldOrdCode_lt o; omega) (show scopeCode s < 8 by have := scopeCode_lt s; omega) l.isLt p.isLt
  refine decode_of_nat (n := mW 0x20 d.val a.val 1 0 (ldOrdCode o) (scopeCode s) l.val p.toNat) rfl lt ?_ x hx
  simp only [decodeNat, h1, h2, h3, h4, h5, h6, h7, h8, h9]
  simp [decLoad, ifZero, withVal]

theorem ldw (d : GReg) (a : GReg) (o : LdOrd) (s : Scope) (l : La) (p : BitVec 6) : Statement (.ldw d a o s l p) := by
  intro x hwf hx
  obtain ⟨lt, h1, h2, h3, h4, h5, h6, h7, h8, h9⟩ := mW_fields (show 0x20 < 64 by decide) d.isLt a.isLt (show 2 < 4 by decide) (show 1 < 2 by decide) (show ldOrdCode o < 4 by have := ldOrdCode_lt o; omega) (show scopeCode s < 8 by have := scopeCode_lt s; omega) l.isLt p.isLt
  refine decode_of_nat (n := mW 0x20 d.val a.val 2 1 (ldOrdCode o) (scopeCode s) l.val p.toNat) rfl lt ?_ x hx
  simp only [decodeNat, h1, h2, h3, h4, h5, h6, h7, h8, h9]
  simp [decLoad, ifZero, withVal]

theorem ldwn (d : GReg) (a : GReg) (o : LdOrd) (s : Scope) (l : La) (p : BitVec 6) : Statement (.ldwn d a o s l p) := by
  intro x hwf hx
  obtain ⟨lt, h1, h2, h3, h4, h5, h6, h7, h8, h9⟩ := mW_fields (show 0x20 < 64 by decide) d.isLt a.isLt (show 2 < 4 by decide) (show 0 < 2 by decide) (show ldOrdCode o < 4 by have := ldOrdCode_lt o; omega) (show scopeCode s < 8 by have := scopeCode_lt s; omega) l.isLt p.isLt
  refine decode_of_nat (n := mW 0x20 d.val a.val 2 0 (ldOrdCode o) (scopeCode s) l.val p.toNat) rfl lt ?_ x hx
  simp only [decodeNat, h1, h2, h3, h4, h5, h6, h7, h8, h9]
  simp [decLoad, ifZero, withVal]

theorem ldd (d : GReg) (a : GReg) (o : LdOrd) (s : Scope) (l : La) (p : BitVec 6) : Statement (.ldd d a o s l p) := by
  intro x hwf hx
  obtain ⟨lt, h1, h2, h3, h4, h5, h6, h7, h8, h9⟩ := mW_fields (show 0x20 < 64 by decide) d.isLt a.isLt (show 3 < 4 by decide) (show 0 < 2 by decide) (show ldOrdCode o < 4 by have := ldOrdCode_lt o; omega) (show scopeCode s < 8 by have := scopeCode_lt s; omega) l.isLt p.isLt
  refine decode_of_nat (n := mW 0x20 d.val a.val 3 0 (ldOrdCode o) (scopeCode s) l.val p.toNat) rfl lt ?_ x hx
  simp only [decodeNat, h1, h2, h3, h4, h5, h6, h7, h8, h9]
  simp [decLoad, ifZero, withVal]

theorem stb (d : GReg) (a : GReg) (o : StOrd) (s : Scope) (p : BitVec 6) : Statement (.stb d a o s p) := by
  intro x hwf hx
  obtain ⟨lt, h1, h2, h3, h4, h5, h6, h7, h8, h9⟩ := mW_fields (show 0x21 < 64 by decide) d.isLt a.isLt (show 0 < 4 by decide) (show 0 < 2 by decide) (show stOrdCode o < 4 by have := stOrdCode_lt o; omega) (show scopeCode s < 8 by have := scopeCode_lt s; omega) (show 0 < 16 by decide) p.isLt
  refine decode_of_nat (n := mW 0x21 d.val a.val 0 0 (stOrdCode o) (scopeCode s) 0 p.toNat) rfl lt ?_ x hx
  simp only [decodeNat, h1, h2, h3, h4, h5, h6, h7, h8, h9]
  simp [decStore, ifZero, withVal]

theorem sth (d : GReg) (a : GReg) (o : StOrd) (s : Scope) (p : BitVec 6) : Statement (.sth d a o s p) := by
  intro x hwf hx
  obtain ⟨lt, h1, h2, h3, h4, h5, h6, h7, h8, h9⟩ := mW_fields (show 0x21 < 64 by decide) d.isLt a.isLt (show 1 < 4 by decide) (show 0 < 2 by decide) (show stOrdCode o < 4 by have := stOrdCode_lt o; omega) (show scopeCode s < 8 by have := scopeCode_lt s; omega) (show 0 < 16 by decide) p.isLt
  refine decode_of_nat (n := mW 0x21 d.val a.val 1 0 (stOrdCode o) (scopeCode s) 0 p.toNat) rfl lt ?_ x hx
  simp only [decodeNat, h1, h2, h3, h4, h5, h6, h7, h8, h9]
  simp [decStore, ifZero, withVal]

theorem stw (d : GReg) (a : GReg) (o : StOrd) (s : Scope) (p : BitVec 6) : Statement (.stw d a o s p) := by
  intro x hwf hx
  obtain ⟨lt, h1, h2, h3, h4, h5, h6, h7, h8, h9⟩ := mW_fields (show 0x21 < 64 by decide) d.isLt a.isLt (show 2 < 4 by decide) (show 0 < 2 by decide) (show stOrdCode o < 4 by have := stOrdCode_lt o; omega) (show scopeCode s < 8 by have := scopeCode_lt s; omega) (show 0 < 16 by decide) p.isLt
  refine decode_of_nat (n := mW 0x21 d.val a.val 2 0 (stOrdCode o) (scopeCode s) 0 p.toNat) rfl lt ?_ x hx
  simp only [decodeNat, h1, h2, h3, h4, h5, h6, h7, h8, h9]
  simp [decStore, ifZero, withVal]

theorem std (d : GReg) (a : GReg) (o : StOrd) (s : Scope) (p : BitVec 6) : Statement (.std d a o s p) := by
  intro x hwf hx
  obtain ⟨lt, h1, h2, h3, h4, h5, h6, h7, h8, h9⟩ := mW_fields (show 0x21 < 64 by decide) d.isLt a.isLt (show 3 < 4 by decide) (show 0 < 2 by decide) (show stOrdCode o < 4 by have := stOrdCode_lt o; omega) (show scopeCode s < 8 by have := scopeCode_lt s; omega) (show 0 < 16 by decide) p.isLt
  refine decode_of_nat (n := mW 0x21 d.val a.val 3 0 (stOrdCode o) (scopeCode s) 0 p.toNat) rfl lt ?_ x hx
  simp only [decodeNat, h1, h2, h3, h4, h5, h6, h7, h8, h9]
  simp [decStore, ifZero, withVal]

theorem ldbit (a : GReg) (b : GReg) (pm : PtrMode) (p : BpReg) (n : Fin 32) (l : La) : Statement (.ldbit a b pm p n l) := by
  intro x hwf hx
  obtain ⟨lt, h1, h2⟩ := eW_fields (show 0x22 < 64 by decide) (show 0 < 32 by decide) a.isLt b.isLt (show p.val + 4 * ptrModeCode pm < 16 by have := p.isLt; have := ptrModeCode_lt pm; omega) n.isLt l.isLt
  refine decode_of_nat (n := eW 0x22 0 a.val b.val (p.val + 4 * ptrModeCode pm) n.val l.val) rfl lt ?_ x hx
  simp only [decodeNat, h1, h2]
  simp only [decBit, ifWf, hwf, ifZero, withVal, Nat.add_zero, Nat.zero_add, Nat.zero_div, Nat.zero_mod, gOf_val, vOf_val, kOf_val, cOf_val, tOf_val, gOf_zero, g_div, k_div, k_div16, c_div, scopeOf_code, ldOrdOf_code, stOrdOf_code, amOrdOf_code, intTyOf_code, fltTyOf_code, rmOf_code, cvtSrcOf_code, condOf_code, ptrModeOf_code, idSelOf_code, crOf_split, ckArgOf_code, ite_true, ite_false, BitVec.ofNat_toNat, BitVec.setWidth_eq, reduceIte, and_self, one_ne_zero, Nat.reduceEqDiff, Nat.reduceMul, Nat.reduceAdd, Nat.reduceMod, Nat.reduceDiv, bit_fields]

theorem ldbits (a : GReg) (b : GReg) (pm : PtrMode) (p : BpReg) (n : Fin 32) (l : La) : Statement (.ldbits a b pm p n l) := by
  intro x hwf hx
  obtain ⟨lt, h1, h2⟩ := eW_fields (show 0x22 < 64 by decide) (show 1 < 32 by decide) a.isLt b.isLt (show p.val + 4 * ptrModeCode pm < 16 by have := p.isLt; have := ptrModeCode_lt pm; omega) n.isLt l.isLt
  refine decode_of_nat (n := eW 0x22 1 a.val b.val (p.val + 4 * ptrModeCode pm) n.val l.val) rfl lt ?_ x hx
  simp only [decodeNat, h1, h2]
  simp only [decBit, ifWf, hwf, ifZero, withVal, Nat.add_zero, Nat.zero_add, Nat.zero_div, Nat.zero_mod, gOf_val, vOf_val, kOf_val, cOf_val, tOf_val, gOf_zero, g_div, k_div, k_div16, c_div, scopeOf_code, ldOrdOf_code, stOrdOf_code, amOrdOf_code, intTyOf_code, fltTyOf_code, rmOf_code, cvtSrcOf_code, condOf_code, ptrModeOf_code, idSelOf_code, crOf_split, ckArgOf_code, ite_true, ite_false, BitVec.ofNat_toNat, BitVec.setWidth_eq, reduceIte, and_self, one_ne_zero, Nat.reduceEqDiff, Nat.reduceMul, Nat.reduceAdd, Nat.reduceMod, Nat.reduceDiv, bit_fields]

theorem stbit (a : GReg) (b : GReg) (pm : PtrMode) (p : BpReg) (n : Fin 32) : Statement (.stbit a b pm p n) := by
  intro x hwf hx
  obtain ⟨lt, h1, h2⟩ := eW_fields (show 0x22 < 64 by decide) (show 2 < 32 by decide) a.isLt b.isLt (show p.val + 4 * ptrModeCode pm < 16 by have := p.isLt; have := ptrModeCode_lt pm; omega) n.isLt (show 0 < 16 by decide)
  refine decode_of_nat (n := eW 0x22 2 a.val b.val (p.val + 4 * ptrModeCode pm) n.val 0) rfl lt ?_ x hx
  simp only [decodeNat, h1, h2]
  simp only [decBit, ifWf, hwf, ifZero, withVal, Nat.add_zero, Nat.zero_add, Nat.zero_div, Nat.zero_mod, gOf_val, vOf_val, kOf_val, cOf_val, tOf_val, gOf_zero, g_div, k_div, k_div16, c_div, scopeOf_code, ldOrdOf_code, stOrdOf_code, amOrdOf_code, intTyOf_code, fltTyOf_code, rmOf_code, cvtSrcOf_code, condOf_code, ptrModeOf_code, idSelOf_code, crOf_split, ckArgOf_code, ite_true, ite_false, BitVec.ofNat_toNat, BitVec.setWidth_eq, reduceIte, and_self, one_ne_zero, Nat.reduceEqDiff, Nat.reduceMul, Nat.reduceAdd, Nat.reduceMod, Nat.reduceDiv, bit_fields]

theorem amoadd (d : GReg) (a : GReg) (b : GReg) (w : Bool) (o : AmOrd) (s : Scope) (l : La) : Statement (.amoadd d a b w o s l) := by
  intro x hwf hx
  obtain ⟨lt, h1, h2, h3, h4, h5, h6, h7, h8, h9⟩ := amoW_fields (w := w) d.isLt a.isLt b.isLt (show 0 < 16 by decide) (show amOrdCode o < 4 by have := amOrdCode_lt o; omega) (show scopeCode s < 8 by have := scopeCode_lt s; omega) l.isLt
  refine decode_of_nat (n := amoW d.val a.val b.val 0 w (amOrdCode o) (scopeCode s) l.val) rfl lt ?_ x hx
  simp only [decodeNat, h1, h2, h3, h4, h5, h6, h7, h8, h9]
  simp only [decAmo, ifZero, withVal, Nat.add_zero, Nat.zero_add, Nat.zero_div, Nat.zero_mod, gOf_val, vOf_val, kOf_val, cOf_val, tOf_val, gOf_zero, g_div, k_div, k_div16, c_div, scopeOf_code, ldOrdOf_code, stOrdOf_code, amOrdOf_code, intTyOf_code, fltTyOf_code, rmOf_code, cvtSrcOf_code, condOf_code, ptrModeOf_code, idSelOf_code, crOf_split, ckArgOf_code, ite_true, ite_false, BitVec.ofNat_toNat, BitVec.setWidth_eq, reduceIte, and_self, one_ne_zero, Nat.reduceEqDiff, Nat.reduceMul, Nat.reduceAdd, Nat.reduceMod, Nat.reduceDiv, flag_val]

theorem amoand (d : GReg) (a : GReg) (b : GReg) (w : Bool) (o : AmOrd) (s : Scope) (l : La) : Statement (.amoand d a b w o s l) := by
  intro x hwf hx
  obtain ⟨lt, h1, h2, h3, h4, h5, h6, h7, h8, h9⟩ := amoW_fields (w := w) d.isLt a.isLt b.isLt (show 1 < 16 by decide) (show amOrdCode o < 4 by have := amOrdCode_lt o; omega) (show scopeCode s < 8 by have := scopeCode_lt s; omega) l.isLt
  refine decode_of_nat (n := amoW d.val a.val b.val 1 w (amOrdCode o) (scopeCode s) l.val) rfl lt ?_ x hx
  simp only [decodeNat, h1, h2, h3, h4, h5, h6, h7, h8, h9]
  simp only [decAmo, ifZero, withVal, Nat.add_zero, Nat.zero_add, Nat.zero_div, Nat.zero_mod, gOf_val, vOf_val, kOf_val, cOf_val, tOf_val, gOf_zero, g_div, k_div, k_div16, c_div, scopeOf_code, ldOrdOf_code, stOrdOf_code, amOrdOf_code, intTyOf_code, fltTyOf_code, rmOf_code, cvtSrcOf_code, condOf_code, ptrModeOf_code, idSelOf_code, crOf_split, ckArgOf_code, ite_true, ite_false, BitVec.ofNat_toNat, BitVec.setWidth_eq, reduceIte, and_self, one_ne_zero, Nat.reduceEqDiff, Nat.reduceMul, Nat.reduceAdd, Nat.reduceMod, Nat.reduceDiv, flag_val]

theorem amoor (d : GReg) (a : GReg) (b : GReg) (w : Bool) (o : AmOrd) (s : Scope) (l : La) : Statement (.amoor d a b w o s l) := by
  intro x hwf hx
  obtain ⟨lt, h1, h2, h3, h4, h5, h6, h7, h8, h9⟩ := amoW_fields (w := w) d.isLt a.isLt b.isLt (show 2 < 16 by decide) (show amOrdCode o < 4 by have := amOrdCode_lt o; omega) (show scopeCode s < 8 by have := scopeCode_lt s; omega) l.isLt
  refine decode_of_nat (n := amoW d.val a.val b.val 2 w (amOrdCode o) (scopeCode s) l.val) rfl lt ?_ x hx
  simp only [decodeNat, h1, h2, h3, h4, h5, h6, h7, h8, h9]
  simp only [decAmo, ifZero, withVal, Nat.add_zero, Nat.zero_add, Nat.zero_div, Nat.zero_mod, gOf_val, vOf_val, kOf_val, cOf_val, tOf_val, gOf_zero, g_div, k_div, k_div16, c_div, scopeOf_code, ldOrdOf_code, stOrdOf_code, amOrdOf_code, intTyOf_code, fltTyOf_code, rmOf_code, cvtSrcOf_code, condOf_code, ptrModeOf_code, idSelOf_code, crOf_split, ckArgOf_code, ite_true, ite_false, BitVec.ofNat_toNat, BitVec.setWidth_eq, reduceIte, and_self, one_ne_zero, Nat.reduceEqDiff, Nat.reduceMul, Nat.reduceAdd, Nat.reduceMod, Nat.reduceDiv, flag_val]

theorem amoxor (d : GReg) (a : GReg) (b : GReg) (w : Bool) (o : AmOrd) (s : Scope) (l : La) : Statement (.amoxor d a b w o s l) := by
  intro x hwf hx
  obtain ⟨lt, h1, h2, h3, h4, h5, h6, h7, h8, h9⟩ := amoW_fields (w := w) d.isLt a.isLt b.isLt (show 3 < 16 by decide) (show amOrdCode o < 4 by have := amOrdCode_lt o; omega) (show scopeCode s < 8 by have := scopeCode_lt s; omega) l.isLt
  refine decode_of_nat (n := amoW d.val a.val b.val 3 w (amOrdCode o) (scopeCode s) l.val) rfl lt ?_ x hx
  simp only [decodeNat, h1, h2, h3, h4, h5, h6, h7, h8, h9]
  simp only [decAmo, ifZero, withVal, Nat.add_zero, Nat.zero_add, Nat.zero_div, Nat.zero_mod, gOf_val, vOf_val, kOf_val, cOf_val, tOf_val, gOf_zero, g_div, k_div, k_div16, c_div, scopeOf_code, ldOrdOf_code, stOrdOf_code, amOrdOf_code, intTyOf_code, fltTyOf_code, rmOf_code, cvtSrcOf_code, condOf_code, ptrModeOf_code, idSelOf_code, crOf_split, ckArgOf_code, ite_true, ite_false, BitVec.ofNat_toNat, BitVec.setWidth_eq, reduceIte, and_self, one_ne_zero, Nat.reduceEqDiff, Nat.reduceMul, Nat.reduceAdd, Nat.reduceMod, Nat.reduceDiv, flag_val]

theorem amomin (d : GReg) (a : GReg) (b : GReg) (w : Bool) (o : AmOrd) (s : Scope) (l : La) : Statement (.amomin d a b w o s l) := by
  intro x hwf hx
  obtain ⟨lt, h1, h2, h3, h4, h5, h6, h7, h8, h9⟩ := amoW_fields (w := w) d.isLt a.isLt b.isLt (show 4 < 16 by decide) (show amOrdCode o < 4 by have := amOrdCode_lt o; omega) (show scopeCode s < 8 by have := scopeCode_lt s; omega) l.isLt
  refine decode_of_nat (n := amoW d.val a.val b.val 4 w (amOrdCode o) (scopeCode s) l.val) rfl lt ?_ x hx
  simp only [decodeNat, h1, h2, h3, h4, h5, h6, h7, h8, h9]
  simp only [decAmo, ifZero, withVal, Nat.add_zero, Nat.zero_add, Nat.zero_div, Nat.zero_mod, gOf_val, vOf_val, kOf_val, cOf_val, tOf_val, gOf_zero, g_div, k_div, k_div16, c_div, scopeOf_code, ldOrdOf_code, stOrdOf_code, amOrdOf_code, intTyOf_code, fltTyOf_code, rmOf_code, cvtSrcOf_code, condOf_code, ptrModeOf_code, idSelOf_code, crOf_split, ckArgOf_code, ite_true, ite_false, BitVec.ofNat_toNat, BitVec.setWidth_eq, reduceIte, and_self, one_ne_zero, Nat.reduceEqDiff, Nat.reduceMul, Nat.reduceAdd, Nat.reduceMod, Nat.reduceDiv, flag_val]

theorem amomax (d : GReg) (a : GReg) (b : GReg) (w : Bool) (o : AmOrd) (s : Scope) (l : La) : Statement (.amomax d a b w o s l) := by
  intro x hwf hx
  obtain ⟨lt, h1, h2, h3, h4, h5, h6, h7, h8, h9⟩ := amoW_fields (w := w) d.isLt a.isLt b.isLt (show 5 < 16 by decide) (show amOrdCode o < 4 by have := amOrdCode_lt o; omega) (show scopeCode s < 8 by have := scopeCode_lt s; omega) l.isLt
  refine decode_of_nat (n := amoW d.val a.val b.val 5 w (amOrdCode o) (scopeCode s) l.val) rfl lt ?_ x hx
  simp only [decodeNat, h1, h2, h3, h4, h5, h6, h7, h8, h9]
  simp only [decAmo, ifZero, withVal, Nat.add_zero, Nat.zero_add, Nat.zero_div, Nat.zero_mod, gOf_val, vOf_val, kOf_val, cOf_val, tOf_val, gOf_zero, g_div, k_div, k_div16, c_div, scopeOf_code, ldOrdOf_code, stOrdOf_code, amOrdOf_code, intTyOf_code, fltTyOf_code, rmOf_code, cvtSrcOf_code, condOf_code, ptrModeOf_code, idSelOf_code, crOf_split, ckArgOf_code, ite_true, ite_false, BitVec.ofNat_toNat, BitVec.setWidth_eq, reduceIte, and_self, one_ne_zero, Nat.reduceEqDiff, Nat.reduceMul, Nat.reduceAdd, Nat.reduceMod, Nat.reduceDiv, flag_val]

theorem amominn (d : GReg) (a : GReg) (b : GReg) (w : Bool) (o : AmOrd) (s : Scope) (l : La) : Statement (.amominn d a b w o s l) := by
  intro x hwf hx
  obtain ⟨lt, h1, h2, h3, h4, h5, h6, h7, h8, h9⟩ := amoW_fields (w := w) d.isLt a.isLt b.isLt (show 6 < 16 by decide) (show amOrdCode o < 4 by have := amOrdCode_lt o; omega) (show scopeCode s < 8 by have := scopeCode_lt s; omega) l.isLt
  refine decode_of_nat (n := amoW d.val a.val b.val 6 w (amOrdCode o) (scopeCode s) l.val) rfl lt ?_ x hx
  simp only [decodeNat, h1, h2, h3, h4, h5, h6, h7, h8, h9]
  simp only [decAmo, ifZero, withVal, Nat.add_zero, Nat.zero_add, Nat.zero_div, Nat.zero_mod, gOf_val, vOf_val, kOf_val, cOf_val, tOf_val, gOf_zero, g_div, k_div, k_div16, c_div, scopeOf_code, ldOrdOf_code, stOrdOf_code, amOrdOf_code, intTyOf_code, fltTyOf_code, rmOf_code, cvtSrcOf_code, condOf_code, ptrModeOf_code, idSelOf_code, crOf_split, ckArgOf_code, ite_true, ite_false, BitVec.ofNat_toNat, BitVec.setWidth_eq, reduceIte, and_self, one_ne_zero, Nat.reduceEqDiff, Nat.reduceMul, Nat.reduceAdd, Nat.reduceMod, Nat.reduceDiv, flag_val]

theorem amomaxn (d : GReg) (a : GReg) (b : GReg) (w : Bool) (o : AmOrd) (s : Scope) (l : La) : Statement (.amomaxn d a b w o s l) := by
  intro x hwf hx
  obtain ⟨lt, h1, h2, h3, h4, h5, h6, h7, h8, h9⟩ := amoW_fields (w := w) d.isLt a.isLt b.isLt (show 7 < 16 by decide) (show amOrdCode o < 4 by have := amOrdCode_lt o; omega) (show scopeCode s < 8 by have := scopeCode_lt s; omega) l.isLt
  refine decode_of_nat (n := amoW d.val a.val b.val 7 w (amOrdCode o) (scopeCode s) l.val) rfl lt ?_ x hx
  simp only [decodeNat, h1, h2, h3, h4, h5, h6, h7, h8, h9]
  simp only [decAmo, ifZero, withVal, Nat.add_zero, Nat.zero_add, Nat.zero_div, Nat.zero_mod, gOf_val, vOf_val, kOf_val, cOf_val, tOf_val, gOf_zero, g_div, k_div, k_div16, c_div, scopeOf_code, ldOrdOf_code, stOrdOf_code, amOrdOf_code, intTyOf_code, fltTyOf_code, rmOf_code, cvtSrcOf_code, condOf_code, ptrModeOf_code, idSelOf_code, crOf_split, ckArgOf_code, ite_true, ite_false, BitVec.ofNat_toNat, BitVec.setWidth_eq, reduceIte, and_self, one_ne_zero, Nat.reduceEqDiff, Nat.reduceMul, Nat.reduceAdd, Nat.reduceMod, Nat.reduceDiv, flag_val]

theorem amoswp (d : GReg) (a : GReg) (b : GReg) (w : Bool) (o : AmOrd) (s : Scope) (l : La) : Statement (.amoswp d a b w o s l) := by
  intro x hwf hx
  obtain ⟨lt, h1, h2, h3, h4, h5, h6, h7, h8, h9⟩ := amoW_fields (w := w) d.isLt a.isLt b.isLt (show 8 < 16 by decide) (show amOrdCode o < 4 by have := amOrdCode_lt o; omega) (show scopeCode s < 8 by have := scopeCode_lt s; omega) l.isLt
  refine decode_of_nat (n := amoW d.val a.val b.val 8 w (amOrdCode o) (scopeCode s) l.val) rfl lt ?_ x hx
  simp only [decodeNat, h1, h2, h3, h4, h5, h6, h7, h8, h9]
  simp only [decAmo, ifZero, withVal, Nat.add_zero, Nat.zero_add, Nat.zero_div, Nat.zero_mod, gOf_val, vOf_val, kOf_val, cOf_val, tOf_val, gOf_zero, g_div, k_div, k_div16, c_div, scopeOf_code, ldOrdOf_code, stOrdOf_code, amOrdOf_code, intTyOf_code, fltTyOf_code, rmOf_code, cvtSrcOf_code, condOf_code, ptrModeOf_code, idSelOf_code, crOf_split, ckArgOf_code, ite_true, ite_false, BitVec.ofNat_toNat, BitVec.setWidth_eq, reduceIte, and_self, one_ne_zero, Nat.reduceEqDiff, Nat.reduceMul, Nat.reduceAdd, Nat.reduceMod, Nat.reduceDiv, flag_val]

theorem amocas (d : GReg) (a : GReg) (b : GReg) (w : Bool) (o : AmOrd) (s : Scope) (l : La) : Statement (.amocas d a b w o s l) := by
  intro x hwf hx
  obtain ⟨lt, h1, h2, h3, h4, h5, h6, h7, h8, h9⟩ := amoW_fields (w := w) d.isLt a.isLt b.isLt (show 9 < 16 by decide) (show amOrdCode o < 4 by have := amOrdCode_lt o; omega) (show scopeCode s < 8 by have := scopeCode_lt s; omega) l.isLt
  refine decode_of_nat (n := amoW d.val a.val b.val 9 w (amOrdCode o) (scopeCode s) l.val) rfl lt ?_ x hx
  simp only [decodeNat, h1, h2, h3, h4, h5, h6, h7, h8, h9]
  simp only [decAmo, ifZero, withVal, Nat.add_zero, Nat.zero_add, Nat.zero_div, Nat.zero_mod, gOf_val, vOf_val, kOf_val, cOf_val, tOf_val, gOf_zero, g_div, k_div, k_div16, c_div, scopeOf_code, ldOrdOf_code, stOrdOf_code, amOrdOf_code, intTyOf_code, fltTyOf_code, rmOf_code, cvtSrcOf_code, condOf_code, ptrModeOf_code, idSelOf_code, crOf_split, ckArgOf_code, ite_true, ite_false, BitVec.ofNat_toNat, BitVec.setWidth_eq, reduceIte, and_self, one_ne_zero, Nat.reduceEqDiff, Nat.reduceMul, Nat.reduceAdd, Nat.reduceMod, Nat.reduceDiv, flag_val]

theorem amofadd (d : GReg) (a : GReg) (b : GReg) (o : AmOrd) (s : Scope) (l : La) : Statement (.amofadd d a b o s l) := by
  intro x hwf hx
  obtain ⟨lt, h1, h2, h3, h4, h5, h6, h7, h8, h9⟩ := amoW_fields (w := false) d.isLt a.isLt b.isLt (show 10 < 16 by decide) (show amOrdCode o < 4 by have := amOrdCode_lt o; omega) (show scopeCode s < 8 by have := scopeCode_lt s; omega) l.isLt
  refine decode_of_nat (n := amoW d.val a.val b.val 10 false (amOrdCode o) (scopeCode s) l.val) rfl lt ?_ x hx
  simp only [decodeNat, h1, h2, h3, h4, h5, h6, h7, h8, h9]
  simp only [decAmo, ifZero, withVal, Nat.add_zero, Nat.zero_add, Nat.zero_div, Nat.zero_mod, gOf_val, vOf_val, kOf_val, cOf_val, tOf_val, gOf_zero, g_div, k_div, k_div16, c_div, scopeOf_code, ldOrdOf_code, stOrdOf_code, amOrdOf_code, intTyOf_code, fltTyOf_code, rmOf_code, cvtSrcOf_code, condOf_code, ptrModeOf_code, idSelOf_code, crOf_split, ckArgOf_code, ite_true, ite_false, BitVec.ofNat_toNat, BitVec.setWidth_eq, reduceIte, and_self, one_ne_zero, Nat.reduceEqDiff, Nat.reduceMul, Nat.reduceAdd, Nat.reduceMod, Nat.reduceDiv, Bool.false_eq_true]

theorem fenceAcq (s : Scope) : Statement (.fenceAcq s) := by
  intro x hwf hx
  obtain ⟨lt, h1, h2, h3, h4, h5, h6, h7, h8, h9⟩ := mW_fields (show 0x24 < 64 by decide) (show 0 < 16 by decide) (show 0 < 16 by decide) (show 0 < 4 by decide) (show 0 < 2 by decide) (show 1 < 4 by decide) (show scopeCode s < 8 by have := scopeCode_lt s; omega) (show 0 < 16 by decide) (show 0 < 64 by decide)
  refine decode_of_nat (n := mW 0x24 0 0 0 0 1 (scopeCode s) 0 0) rfl lt ?_ x hx
  simp only [decodeNat, h1, h2, h3, h4, h5, h6, h7, h8, h9]
  simp [decFence, ifZero, withVal]

theorem fenceRel (s : Scope) : Statement (.fenceRel s) := by
  intro x hwf hx
  obtain ⟨lt, h1, h2, h3, h4, h5, h6, h7, h8, h9⟩ := mW_fields (show 0x24 < 64 by decide) (show 0 < 16 by decide) (show 0 < 16 by decide) (show 0 < 4 by decide) (show 0 < 2 by decide) (show 2 < 4 by decide) (show scopeCode s < 8 by have := scopeCode_lt s; omega) (show 0 < 16 by decide) (show 0 < 64 by decide)
  refine decode_of_nat (n := mW 0x24 0 0 0 0 2 (scopeCode s) 0 0) rfl lt ?_ x hx
  simp only [decodeNat, h1, h2, h3, h4, h5, h6, h7, h8, h9]
  simp [decFence, ifZero, withVal]

theorem fenceAr (s : Scope) : Statement (.fenceAr s) := by
  intro x hwf hx
  obtain ⟨lt, h1, h2, h3, h4, h5, h6, h7, h8, h9⟩ := mW_fields (show 0x24 < 64 by decide) (show 0 < 16 by decide) (show 0 < 16 by decide) (show 0 < 4 by decide) (show 0 < 2 by decide) (show 3 < 4 by decide) (show scopeCode s < 8 by have := scopeCode_lt s; omega) (show 0 < 16 by decide) (show 0 < 64 by decide)
  refine decode_of_nat (n := mW 0x24 0 0 0 0 3 (scopeCode s) 0 0) rfl lt ?_ x hx
  simp only [decodeNat, h1, h2, h3, h4, h5, h6, h7, h8, h9]
  simp [decFence, ifZero, withVal]

theorem fenceSc : Statement .fenceSc := by
  intro x hwf hx
  obtain ⟨lt, h1, h2, h3, h4, h5, h6, h7, h8, h9⟩ := mW_fields (show 0x24 < 64 by decide) (show 0 < 16 by decide) (show 0 < 16 by decide) (show 0 < 4 by decide) (show 0 < 2 by decide) (show 0 < 4 by decide) (show 6 < 8 by decide) (show 0 < 16 by decide) (show 0 < 64 by decide)
  refine decode_of_nat (n := mW 0x24 0 0 0 0 0 6 0 0) rfl lt ?_ x hx
  simp only [decodeNat, h1, h2, h3, h4, h5, h6, h7, h8, h9]
  simp only [decFence, ifZero, withVal, Nat.add_zero, Nat.zero_add, Nat.zero_div, Nat.zero_mod, gOf_val, vOf_val, kOf_val, cOf_val, tOf_val, gOf_zero, g_div, k_div, k_div16, c_div, scopeOf_code, ldOrdOf_code, stOrdOf_code, amOrdOf_code, intTyOf_code, fltTyOf_code, rmOf_code, cvtSrcOf_code, condOf_code, ptrModeOf_code, idSelOf_code, crOf_split, ckArgOf_code, ite_true, ite_false, BitVec.ofNat_toNat, BitVec.setWidth_eq, reduceIte, and_self, one_ne_zero, Nat.reduceEqDiff, Nat.reduceMul, Nat.reduceAdd, Nat.reduceMod, Nat.reduceDiv, show scopeOf 6 = some .sys from rfl]

theorem pref (a : GReg) (w : Bool) (s : Scope) (p : BitVec 6) : Statement (.pref a w s p) := by
  intro x hwf hx
  obtain ⟨lt, h1, h2, h3, h4, h5, h6, h7, h8, h9⟩ := mW_fields (show 0x24 < 64 by decide) (show 0 < 16 by decide) a.isLt (show 1 < 4 by decide) (show (if w then 1 else 0 : Nat) < 2 by (split_ifs <;> omega)) (show 0 < 4 by decide) (show scopeCode s < 8 by have := scopeCode_lt s; omega) (show 0 < 16 by decide) p.isLt
  refine decode_of_nat (n := mW 0x24 0 a.val 1 (if w then 1 else 0) 0 (scopeCode s) 0 p.toNat) rfl lt ?_ x hx
  simp only [decodeNat, h1, h2, h3, h4, h5, h6, h7, h8, h9]
  simp only [decFence, ifZero, withVal, Nat.add_zero, Nat.zero_add, Nat.zero_div, Nat.zero_mod, gOf_val, vOf_val, kOf_val, cOf_val, tOf_val, gOf_zero, g_div, k_div, k_div16, c_div, scopeOf_code, ldOrdOf_code, stOrdOf_code, amOrdOf_code, intTyOf_code, fltTyOf_code, rmOf_code, cvtSrcOf_code, condOf_code, ptrModeOf_code, idSelOf_code, crOf_split, ckArgOf_code, ite_true, ite_false, BitVec.ofNat_toNat, BitVec.setWidth_eq, reduceIte, and_self, one_ne_zero, Nat.reduceEqDiff, Nat.reduceMul, Nat.reduceAdd, Nat.reduceMod, Nat.reduceDiv, flag_val]

theorem flush (d : GReg) (a : GReg) (s : Scope) : Statement (.flush d a s) := by
  intro x hwf hx
  obtain ⟨lt, h1, h2, h3, h4, h5, h6, h7, h8, h9⟩ := mW_fields (show 0x24 < 64 by decide) d.isLt a.isLt (show 2 < 4 by decide) (show 0 < 2 by decide) (show 0 < 4 by decide) (show scopeCode s < 8 by have := scopeCode_lt s; omega) (show 0 < 16 by decide) (show 0 < 64 by decide)
  refine decode_of_nat (n := mW 0x24 d.val a.val 2 0 0 (scopeCode s) 0 0) rfl lt ?_ x hx
  simp only [decodeNat, h1, h2, h3, h4, h5, h6, h7, h8, h9]
  simp [decFence, ifZero, withVal]

theorem binit (a : GReg) (n : BarNo) : Statement (.binit a n) := by
  intro x hwf hx
  obtain ⟨lt, h1, h2⟩ := eW_fields (show 0x28 < 64 by decide) (show 0 < 32 by decide) a.isLt (show 0 < 16 by decide) (show 0 < 16 by decide) n.isLt (show 0 < 16 by decide)
  refine decode_of_nat (n := eW 0x28 0 a.val 0 0 n.val 0) rfl lt ?_ x hx
  simp only [decodeNat, h1, h2]
  simp [decBar, ifZero, withVal]

theorem barr (a : GReg) (n : BarNo) : Statement (.barr a n) := by
  intro x hwf hx
  obtain ⟨lt, h1, h2⟩ := eW_fields (show 0x28 < 64 by decide) (show 1 < 32 by decide) a.isLt (show 0 < 16 by decide) (show 0 < 16 by decide) n.isLt (show 0 < 16 by decide)
  refine decode_of_nat (n := eW 0x28 1 a.val 0 0 n.val 0) rfl lt ?_ x hx
  simp only [decodeNat, h1, h2]
  simp [decBar, ifZero, withVal]

theorem bwait (a : GReg) (b : GReg) (n : BarNo) (l : La) : Statement (.bwait a b n l) := by
  intro x hwf hx
  obtain ⟨lt, h1, h2⟩ := eW_fields (show 0x28 < 64 by decide) (show 2 < 32 by decide) a.isLt b.isLt (show 0 < 16 by decide) n.isLt l.isLt
  refine decode_of_nat (n := eW 0x28 2 a.val b.val 0 n.val l.val) rfl lt ?_ x hx
  simp only [decodeNat, h1, h2]
  simp [decBar, ifZero, withVal]

theorem baw (a : GReg) (n : BarNo) (l : La) : Statement (.baw a n l) := by
  intro x hwf hx
  obtain ⟨lt, h1, h2⟩ := eW_fields (show 0x28 < 64 by decide) (show 3 < 32 by decide) a.isLt (show 0 < 16 by decide) (show 0 < 16 by decide) n.isLt l.isLt
  refine decode_of_nat (n := eW 0x28 3 a.val 0 0 n.val l.val) rfl lt ?_ x hx
  simp only [decodeNat, h1, h2]
  simp [decBar, ifZero, withVal]

theorem bstat (a : GReg) (n : BarNo) (l : La) : Statement (.bstat a n l) := by
  intro x hwf hx
  obtain ⟨lt, h1, h2⟩ := eW_fields (show 0x28 < 64 by decide) (show 4 < 32 by decide) a.isLt (show 0 < 16 by decide) (show 0 < 16 by decide) n.isLt l.isLt
  refine decode_of_nat (n := eW 0x28 4 a.val 0 0 n.val l.val) rfl lt ?_ x hx
  simp only [decodeNat, h1, h2]
  simp [decBar, ifZero, withVal]

theorem breset (n : BarNo) : Statement (.breset n) := by
  intro x hwf hx
  obtain ⟨lt, h1, h2⟩ := eW_fields (show 0x28 < 64 by decide) (show 5 < 32 by decide) (show 0 < 16 by decide) (show 0 < 16 by decide) (show 0 < 16 by decide) n.isLt (show 0 < 16 by decide)
  refine decode_of_nat (n := eW 0x28 5 0 0 0 n.val 0) rfl lt ?_ x hx
  simp only [decodeNat, h1, h2]
  simp [decBar, ifZero, withVal]

theorem cpy (t : Fin 64) (d : GReg) (s : GReg) (p : GReg) (c : Scope) (q : Bool) (r : Bool) : Statement (.cpy t d s p c q r) := by
  intro x hwf hx
  obtain ⟨lt, h1, h2, h3, h4, h5, h6, h7, h8⟩ := cpyW_fields (q := q) (r := r) t.isLt d.isLt s.isLt p.isLt (show scopeCode c < 8 by have := scopeCode_lt c; omega)
  refine decode_of_nat (n := cpyW t.val d.val s.val p.val (scopeCode c) q r) rfl lt ?_ x hx
  simp only [decodeNat, h1, h2, h3, h4, h5, h6, h7, h8]
  simp only [ifZero, withVal, Nat.add_zero, Nat.zero_add, Nat.zero_div, Nat.zero_mod, gOf_val, vOf_val, kOf_val, cOf_val, tOf_val, gOf_zero, g_div, k_div, k_div16, c_div, scopeOf_code, ldOrdOf_code, stOrdOf_code, amOrdOf_code, intTyOf_code, fltTyOf_code, rmOf_code, cvtSrcOf_code, condOf_code, ptrModeOf_code, idSelOf_code, crOf_split, ckArgOf_code, ite_true, ite_false, BitVec.ofNat_toNat, BitVec.setWidth_eq, reduceIte, and_self, one_ne_zero, Nat.reduceEqDiff, Nat.reduceMul, Nat.reduceAdd, Nat.reduceMod, Nat.reduceDiv, flag_val]

theorem tagwany (a : GReg) (b : GReg) (l : La) : Statement (.tagwany a b l) := by
  intro x hwf hx
  obtain ⟨lt, h1, h2⟩ := eW_fields (show 0x2A < 64 by decide) (show 0 < 32 by decide) a.isLt b.isLt (show 0 < 16 by decide) (show 0 < 32 by decide) l.isLt
  refine decode_of_nat (n := eW 0x2A 0 a.val b.val 0 0 l.val) rfl lt ?_ x hx
  simp only [decodeNat, h1, h2]
  simp [decTag, ifZero, withVal]

theorem tagwall (b : GReg) : Statement (.tagwall b) := by
  intro x hwf hx
  obtain ⟨lt, h1, h2⟩ := eW_fields (show 0x2A < 64 by decide) (show 1 < 32 by decide) (show 0 < 16 by decide) b.isLt (show 0 < 16 by decide) (show 0 < 32 by decide) (show 0 < 16 by decide)
  refine decode_of_nat (n := eW 0x2A 1 0 b.val 0 0 0) rfl lt ?_ x hx
  simp only [decodeNat, h1, h2]
  simp [decTag, ifZero, withVal]

theorem tagff (a : GReg) (b : GReg) (l : La) : Statement (.tagff a b l) := by
  intro x hwf hx
  obtain ⟨lt, h1, h2⟩ := eW_fields (show 0x2A < 64 by decide) (show 2 < 32 by decide) a.isLt b.isLt (show 0 < 16 by decide) (show 0 < 32 by decide) l.isLt
  refine decode_of_nat (n := eW 0x2A 2 a.val b.val 0 0 l.val) rfl lt ?_ x hx
  simp only [decodeNat, h1, h2]
  simp [decTag, ifZero, withVal]

theorem tagclr (b : GReg) : Statement (.tagclr b) := by
  intro x hwf hx
  obtain ⟨lt, h1, h2⟩ := eW_fields (show 0x2A < 64 by decide) (show 3 < 32 by decide) (show 0 < 16 by decide) b.isLt (show 0 < 16 by decide) (show 0 < 32 by decide) (show 0 < 16 by decide)
  refine decode_of_nat (n := eW 0x2A 3 0 b.val 0 0 0) rfl lt ?_ x hx
  simp only [decodeNat, h1, h2]
  simp [decTag, ifZero, withVal]

theorem rginit (a : GReg) : Statement (.rginit a) := by
  intro x hwf hx
  obtain ⟨lt, h1, h2⟩ := eW_fields (show 0x2A < 64 by decide) (show 4 < 32 by decide) a.isLt (show 0 < 16 by decide) (show 0 < 16 by decide) (show 0 < 32 by decide) (show 0 < 16 by decide)
  refine decode_of_nat (n := eW 0x2A 4 a.val 0 0 0 0) rfl lt ?_ x hx
  simp only [decodeNat, h1, h2]
  simp [decTag, ifZero, withVal]

theorem rgfill (a : GReg) (b : GReg) (q : Bool) (r : Bool) (c : Scope) : Statement (.rgfill a b q r c) := by
  intro x hwf hx
  obtain ⟨lt, h1, h2⟩ := eW_fields (show 0x2A < 64 by decide) (show 5 < 32 by decide) a.isLt b.isLt (show 0 < 16 by decide) (show ((if q then 1 else 0) + (if r then 2 else 0) + 4 * scopeCode c) < 32 by (have := scopeCode_lt c; split_ifs <;> omega)) (show 0 < 16 by decide)
  refine decode_of_nat (n := eW 0x2A 5 a.val b.val 0 ((if q then 1 else 0) + (if r then 2 else 0) + 4 * scopeCode c) 0) rfl lt ?_ x hx
  simp only [decodeNat, h1, h2]
  simp only [decTag, ifZero, withVal, Nat.add_zero, Nat.zero_add, Nat.zero_div, Nat.zero_mod, gOf_val, vOf_val, kOf_val, cOf_val, tOf_val, gOf_zero, g_div, k_div, k_div16, c_div, scopeOf_code, ldOrdOf_code, stOrdOf_code, amOrdOf_code, intTyOf_code, fltTyOf_code, rmOf_code, cvtSrcOf_code, condOf_code, ptrModeOf_code, idSelOf_code, crOf_split, ckArgOf_code, ite_true, ite_false, BitVec.ofNat_toNat, BitVec.setWidth_eq, reduceIte, and_self, one_ne_zero, Nat.reduceEqDiff, Nat.reduceMul, Nat.reduceAdd, Nat.reduceMod, Nat.reduceDiv, rgfill_fields]

theorem rgawait (a : GReg) (b : GReg) (n : Fin 32) (l : La) : Statement (.rgawait a b n l) := by
  intro x hwf hx
  obtain ⟨lt, h1, h2⟩ := eW_fields (show 0x2A < 64 by decide) (show 6 < 32 by decide) a.isLt b.isLt (show 0 < 16 by decide) n.isLt l.isLt
  refine decode_of_nat (n := eW 0x2A 6 a.val b.val 0 n.val l.val) rfl lt ?_ x hx
  simp only [decodeNat, h1, h2]
  simp [decTag, ifZero, withVal]

theorem rgrel (a : GReg) : Statement (.rgrel a) := by
  intro x hwf hx
  obtain ⟨lt, h1, h2⟩ := eW_fields (show 0x2A < 64 by decide) (show 7 < 32 by decide) a.isLt (show 0 < 16 by decide) (show 0 < 16 by decide) (show 0 < 32 by decide) (show 0 < 16 by decide)
  refine decode_of_nat (n := eW 0x2A 7 a.val 0 0 0 0) rfl lt ?_ x hx
  simp only [decodeNat, h1, h2]
  simp [decTag, ifZero, withVal]

theorem bankset (b : GReg) : Statement (.bankset b) := by
  intro x hwf hx
  obtain ⟨lt, h1, h2⟩ := eW_fields (show 0x2A < 64 by decide) (show 8 < 32 by decide) (show 0 < 16 by decide) b.isLt (show 0 < 16 by decide) (show 0 < 32 by decide) (show 0 < 16 by decide)
  refine decode_of_nat (n := eW 0x2A 8 0 b.val 0 0 0) rfl lt ?_ x hx
  simp only [decodeNat, h1, h2]
  simp [decTag, ifZero, withVal]

theorem qbindFifo (a : GReg) (c : QReg) : Statement (.qbindFifo a c) := by
  intro x hwf hx
  obtain ⟨lt, h1, h2⟩ := eW_fields (show 0x2B < 64 by decide) (show 0 < 32 by decide) a.isLt (show 0 < 16 by decide) (show c.val < 16 by omega) (show 0 < 32 by decide) (show 0 < 16 by decide)
  refine decode_of_nat (n := eW 0x2B 0 a.val 0 c.val 0 0) rfl lt ?_ x hx
  simp only [decodeNat, h1, h2]
  simp [decQueue, ifZero, withVal]

theorem qbindStream (a : GReg) (b : GReg) (c : QReg) : Statement (.qbindStream a b c) := by
  intro x hwf hx
  obtain ⟨lt, h1, h2⟩ := eW_fields (show 0x2B < 64 by decide) (show 0 < 32 by decide) a.isLt b.isLt (show c.val < 16 by omega) (show 1 < 32 by decide) (show 0 < 16 by decide)
  refine decode_of_nat (n := eW 0x2B 0 a.val b.val c.val 1 0) rfl lt ?_ x hx
  simp only [decodeNat, h1, h2]
  simp [decQueue, ifZero, withVal]

theorem qbindMa (c : QReg) : Statement (.qbindMa c) := by
  intro x hwf hx
  obtain ⟨lt, h1, h2⟩ := eW_fields (show 0x2B < 64 by decide) (show 0 < 32 by decide) (show 0 < 16 by decide) (show 0 < 16 by decide) (show c.val < 16 by omega) (show 2 < 32 by decide) (show 0 < 16 by decide)
  refine decode_of_nat (n := eW 0x2B 0 0 0 c.val 2 0) rfl lt ?_ x hx
  simp only [decodeNat, h1, h2]
  simp [decQueue, ifZero, withVal]

theorem qbindMb (c : QReg) : Statement (.qbindMb c) := by
  intro x hwf hx
  obtain ⟨lt, h1, h2⟩ := eW_fields (show 0x2B < 64 by decide) (show 0 < 32 by decide) (show 0 < 16 by decide) (show 0 < 16 by decide) (show c.val < 16 by omega) (show 3 < 32 by decide) (show 0 < 16 by decide)
  refine decode_of_nat (n := eW 0x2B 0 0 0 c.val 3 0) rfl lt ?_ x hx
  simp only [decodeNat, h1, h2]
  simp [decQueue, ifZero, withVal]

theorem qbindMout (c : QReg) : Statement (.qbindMout c) := by
  intro x hwf hx
  obtain ⟨lt, h1, h2⟩ := eW_fields (show 0x2B < 64 by decide) (show 0 < 32 by decide) (show 0 < 16 by decide) (show 0 < 16 by decide) (show c.val < 16 by omega) (show 4 < 32 by decide) (show 0 < 16 by decide)
  refine decode_of_nat (n := eW 0x2B 0 0 0 c.val 4 0) rfl lt ?_ x hx
  simp only [decodeNat, h1, h2]
  simp [decQueue, ifZero, withVal]

theorem qbindMbox (a : GReg) (c : QReg) : Statement (.qbindMbox a c) := by
  intro x hwf hx
  obtain ⟨lt, h1, h2⟩ := eW_fields (show 0x2B < 64 by decide) (show 0 < 32 by decide) a.isLt (show 0 < 16 by decide) (show c.val < 16 by omega) (show 5 < 32 by decide) (show 0 < 16 by decide)
  refine decode_of_nat (n := eW 0x2B 0 a.val 0 c.val 5 0) rfl lt ?_ x hx
  simp only [decodeNat, h1, h2]
  simp [decQueue, ifZero, withVal]

theorem qpush (b : GReg) (c : QReg) : Statement (.qpush b c) := by
  intro x hwf hx
  obtain ⟨lt, h1, h2⟩ := eW_fields (show 0x2B < 64 by decide) (show 1 < 32 by decide) (show 0 < 16 by decide) b.isLt (show c.val < 16 by omega) (show 0 < 32 by decide) (show 0 < 16 by decide)
  refine decode_of_nat (n := eW 0x2B 1 0 b.val c.val 0 0) rfl lt ?_ x hx
  simp only [decodeNat, h1, h2]
  simp [decQueue, ifZero, withVal]

theorem qpop (a : GReg) (c : QReg) (l : La) : Statement (.qpop a c l) := by
  intro x hwf hx
  obtain ⟨lt, h1, h2⟩ := eW_fields (show 0x2B < 64 by decide) (show 2 < 32 by decide) a.isLt (show 0 < 16 by decide) (show c.val < 16 by omega) (show 0 < 32 by decide) l.isLt
  refine decode_of_nat (n := eW 0x2B 2 a.val 0 c.val 0 l.val) rfl lt ?_ x hx
  simp only [decodeNat, h1, h2]
  simp [decQueue, ifZero, withVal]

theorem vqpush (c : QReg) (n : VReg) : Statement (.vqpush c n) := by
  intro x hwf hx
  obtain ⟨lt, h1, h2⟩ := eW_fields (show 0x2B < 64 by decide) (show 3 < 32 by decide) (show 0 < 16 by decide) (show 0 < 16 by decide) (show c.val < 16 by omega) n.isLt (show 0 < 16 by decide)
  refine decode_of_nat (n := eW 0x2B 3 0 0 c.val n.val 0) rfl lt ?_ x hx
  simp only [decodeNat, h1, h2]
  simp [decQueue, ifZero, withVal]

theorem vqpop (c : QReg) (n : VReg) : Statement (.vqpop c n) := by
  intro x hwf hx
  obtain ⟨lt, h1, h2⟩ := eW_fields (show 0x2B < 64 by decide) (show 4 < 32 by decide) (show 0 < 16 by decide) (show 0 < 16 by decide) (show c.val < 16 by omega) n.isLt (show 0 < 16 by decide)
  refine decode_of_nat (n := eW 0x2B 4 0 0 c.val n.val 0) rfl lt ?_ x hx
  simp only [decodeNat, h1, h2]
  simp [decQueue, ifZero, withVal]

theorem qstat (a : GReg) (c : QSel) : Statement (.qstat a c) := by
  intro x hwf hx
  obtain ⟨lt, h1, h2⟩ := eW_fields (show 0x2B < 64 by decide) (show 5 < 32 by decide) a.isLt (show 0 < 16 by decide) (show qSelCode c < 16 by have := qSelCode_lt c; omega) (show 0 < 32 by decide) (show 0 < 16 by decide)
  refine decode_of_nat (n := eW 0x2B 5 a.val 0 (qSelCode c) 0 0) rfl lt ?_ x hx
  simp only [decodeNat, h1, h2]
  simp only [decQueue, ifZero, withVal, Nat.add_zero, Nat.zero_add, Nat.zero_div, Nat.zero_mod, gOf_val, vOf_val, kOf_val, cOf_val, tOf_val, gOf_zero, g_div, k_div, k_div16, c_div, scopeOf_code, ldOrdOf_code, stOrdOf_code, amOrdOf_code, intTyOf_code, fltTyOf_code, rmOf_code, cvtSrcOf_code, condOf_code, ptrModeOf_code, idSelOf_code, crOf_split, ckArgOf_code, ite_true, ite_false, BitVec.ofNat_toNat, BitVec.setWidth_eq, reduceIte, and_self, one_ne_zero, Nat.reduceEqDiff, Nat.reduceMul, Nat.reduceAdd, Nat.reduceMod, Nat.reduceDiv]
  cases c <;> simp [qSelCode, kOf]

theorem qfree (c : QReg) : Statement (.qfree c) := by
  intro x hwf hx
  obtain ⟨lt, h1, h2⟩ := eW_fields (show 0x2B < 64 by decide) (show 6 < 32 by decide) (show 0 < 16 by decide) (show 0 < 16 by decide) (show c.val < 16 by omega) (show 0 < 32 by decide) (show 0 < 16 by decide)
  refine decode_of_nat (n := eW 0x2B 6 0 0 c.val 0 0) rfl lt ?_ x hx
  simp only [decodeNat, h1, h2]
  simp [decQueue, ifZero, withVal]

theorem vadd (d : VReg) (a : VReg) (b : VReg) (k : KReg) (t : IntTy) : Statement (.vadd d a b k t) := by
  intro x hwf hx
  obtain ⟨lt, h1, h2⟩ := vW_fields (show 0x30 < 64 by decide) d.isLt a.isLt b.isLt k.isLt (show intTyCode t < 16 by have := intTyCode_lt t; omega) (show 0 < 16 by decide)
  refine decode_of_nat (n := vW 0x30 d.val a.val b.val k.val (intTyCode t) 0) rfl lt ?_ x hx
  simp only [decodeNat, h1, h2]
  simp [decVInt, ifWf, hwf, ifZero, withVal]

theorem vsub (d : VReg) (a : VReg) (b : VReg) (k : KReg) (t : IntTy) : Statement (.vsub d a b k t) := by
  intro x hwf hx
  obtain ⟨lt, h1, h2⟩ := vW_fields (show 0x30 < 64 by decide) d.isLt a.isLt b.isLt k.isLt (show intTyCode t < 16 by have := intTyCode_lt t; omega) (show 1 < 16 by decide)
  refine decode_of_nat (n := vW 0x30 d.val a.val b.val k.val (intTyCode t) 1) rfl lt ?_ x hx
  simp only [decodeNat, h1, h2]
  simp [decVInt, ifWf, hwf, ifZero, withVal]

theorem vmul (d : VReg) (a : VReg) (b : VReg) (k : KReg) (t : IntTy) : Statement (.vmul d a b k t) := by
  intro x hwf hx
  obtain ⟨lt, h1, h2⟩ := vW_fields (show 0x30 < 64 by decide) d.isLt a.isLt b.isLt k.isLt (show intTyCode t < 16 by have := intTyCode_lt t; omega) (show 2 < 16 by decide)
  refine decode_of_nat (n := vW 0x30 d.val a.val b.val k.val (intTyCode t) 2) rfl lt ?_ x hx
  simp only [decodeNat, h1, h2]
  simp [decVInt, ifWf, hwf, ifZero, withVal]

theorem vmulh (d : VReg) (a : VReg) (b : VReg) (k : KReg) (t : IntTy) : Statement (.vmulh d a b k t) := by
  intro x hwf hx
  obtain ⟨lt, h1, h2⟩ := vW_fields (show 0x30 < 64 by decide) d.isLt a.isLt b.isLt k.isLt (show intTyCode t < 16 by have := intTyCode_lt t; omega) (show 3 < 16 by decide)
  refine decode_of_nat (n := vW 0x30 d.val a.val b.val k.val (intTyCode t) 3) rfl lt ?_ x hx
  simp only [decodeNat, h1, h2]
  simp [decVInt, ifWf, hwf, ifZero, withVal]

theorem vmin (d : VReg) (a : VReg) (b : VReg) (k : KReg) (t : IntTy) : Statement (.vmin d a b k t) := by
  intro x hwf hx
  obtain ⟨lt, h1, h2⟩ := vW_fields (show 0x30 < 64 by decide) d.isLt a.isLt b.isLt k.isLt (show intTyCode t < 16 by have := intTyCode_lt t; omega) (show 4 < 16 by decide)
  refine decode_of_nat (n := vW 0x30 d.val a.val b.val k.val (intTyCode t) 4) rfl lt ?_ x hx
  simp only [decodeNat, h1, h2]
  simp [decVInt, ifWf, hwf, ifZero, withVal]

theorem vmax (d : VReg) (a : VReg) (b : VReg) (k : KReg) (t : IntTy) : Statement (.vmax d a b k t) := by
  intro x hwf hx
  obtain ⟨lt, h1, h2⟩ := vW_fields (show 0x30 < 64 by decide) d.isLt a.isLt b.isLt k.isLt (show intTyCode t < 16 by have := intTyCode_lt t; omega) (show 5 < 16 by decide)
  refine decode_of_nat (n := vW 0x30 d.val a.val b.val k.val (intTyCode t) 5) rfl lt ?_ x hx
  simp only [decodeNat, h1, h2]
  simp [decVInt, ifWf, hwf, ifZero, withVal]

theorem vand (d : VReg) (a : VReg) (b : VReg) (k : KReg) (t : IntTy) : Statement (.vand d a b k t) := by
  intro x hwf hx
  obtain ⟨lt, h1, h2⟩ := vW_fields (show 0x30 < 64 by decide) d.isLt a.isLt b.isLt k.isLt (show intTyCode t < 16 by have := intTyCode_lt t; omega) (show 6 < 16 by decide)
  refine decode_of_nat (n := vW 0x30 d.val a.val b.val k.val (intTyCode t) 6) rfl lt ?_ x hx
  simp only [decodeNat, h1, h2]
  simp [decVInt, ifWf, hwf, ifZero, withVal]

theorem vor (d : VReg) (a : VReg) (b : VReg) (k : KReg) (t : IntTy) : Statement (.vor d a b k t) := by
  intro x hwf hx
  obtain ⟨lt, h1, h2⟩ := vW_fields (show 0x30 < 64 by decide) d.isLt a.isLt b.isLt k.isLt (show intTyCode t < 16 by have := intTyCode_lt t; omega) (show 7 < 16 by decide)
  refine decode_of_nat (n := vW 0x30 d.val a.val b.val k.val (intTyCode t) 7) rfl lt ?_ x hx
  simp only [decodeNat, h1, h2]
  simp [decVInt, ifWf, hwf, ifZero, withVal]

theorem vxor (d : VReg) (a : VReg) (b : VReg) (k : KReg) (t : IntTy) : Statement (.vxor d a b k t) := by
  intro x hwf hx
  obtain ⟨lt, h1, h2⟩ := vW_fields (show 0x30 < 64 by decide) d.isLt a.isLt b.isLt k.isLt (show intTyCode t < 16 by have := intTyCode_lt t; omega) (show 8 < 16 by decide)
  refine decode_of_nat (n := vW 0x30 d.val a.val b.val k.val (intTyCode t) 8) rfl lt ?_ x hx
  simp only [decodeNat, h1, h2]
  simp [decVInt, ifWf, hwf, ifZero, withVal]

theorem vshl (d : VReg) (a : VReg) (b : VReg) (k : KReg) (t : IntTy) : Statement (.vshl d a b k t) := by
  intro x hwf hx
  obtain ⟨lt, h1, h2⟩ := vW_fields (show 0x30 < 64 by decide) d.isLt a.isLt b.isLt k.isLt (show intTyCode t < 16 by have := intTyCode_lt t; omega) (show 9 < 16 by decide)
  refine decode_of_nat (n := vW 0x30 d.val a.val b.val k.val (intTyCode t) 9) rfl lt ?_ x hx
  simp only [decodeNat, h1, h2]
  simp [decVInt, ifWf, hwf, ifZero, withVal]

theorem vshr (d : VReg) (a : VReg) (b : VReg) (k : KReg) (t : IntTy) : Statement (.vshr d a b k t) := by
  intro x hwf hx
  obtain ⟨lt, h1, h2⟩ := vW_fields (show 0x30 < 64 by decide) d.isLt a.isLt b.isLt k.isLt (show intTyCode t < 16 by have := intTyCode_lt t; omega) (show 10 < 16 by decide)
  refine decode_of_nat (n := vW 0x30 d.val a.val b.val k.val (intTyCode t) 10) rfl lt ?_ x hx
  simp only [decodeNat, h1, h2]
  simp [decVInt, ifWf, hwf, ifZero, withVal]

theorem vsra (d : VReg) (a : VReg) (b : VReg) (k : KReg) (t : IntTy) : Statement (.vsra d a b k t) := by
  intro x hwf hx
  obtain ⟨lt, h1, h2⟩ := vW_fields (show 0x30 < 64 by decide) d.isLt a.isLt b.isLt k.isLt (show intTyCode t < 16 by have := intTyCode_lt t; omega) (show 11 < 16 by decide)
  refine decode_of_nat (n := vW 0x30 d.val a.val b.val k.val (intTyCode t) 11) rfl lt ?_ x hx
  simp only [decodeNat, h1, h2]
  simp [decVInt, ifWf, hwf, ifZero, withVal]

theorem vabs (d : VReg) (a : VReg) (k : KReg) (t : IntTy) : Statement (.vabs d a k t) := by
  intro x hwf hx
  obtain ⟨lt, h1, h2⟩ := vW_fields (show 0x30 < 64 by decide) d.isLt a.isLt (show 0 < 32 by decide) k.isLt (show intTyCode t < 16 by have := intTyCode_lt t; omega) (show 12 < 16 by decide)
  refine decode_of_nat (n := vW 0x30 d.val a.val 0 k.val (intTyCode t) 12) rfl lt ?_ x hx
  simp only [decodeNat, h1, h2]
  simp [decVInt, ifWf, hwf, ifZero, withVal]

theorem vneg (d : VReg) (a : VReg) (k : KReg) (t : IntTy) : Statement (.vneg d a k t) := by
  intro x hwf hx
  obtain ⟨lt, h1, h2⟩ := vW_fields (show 0x30 < 64 by decide) d.isLt a.isLt (show 0 < 32 by decide) k.isLt (show intTyCode t < 16 by have := intTyCode_lt t; omega) (show 13 < 16 by decide)
  refine decode_of_nat (n := vW 0x30 d.val a.val 0 k.val (intTyCode t) 13) rfl lt ?_ x hx
  simp only [decodeNat, h1, h2]
  simp [decVInt, ifWf, hwf, ifZero, withVal]

theorem vcmp (c : Cond) (q : KReg) (a : VReg) (b : VReg) (k : KReg) (t : IntTy) : Statement (.vcmp c q a b k t) := by
  intro x hwf hx
  obtain ⟨lt, h1, h2⟩ := vW_fields (show 0x30 < 64 by decide) (show 8 * condCode c + q.val < 32 by have := q.isLt; have := condCode_lt c; omega) a.isLt b.isLt k.isLt (show intTyCode t < 16 by have := intTyCode_lt t; omega) (show 14 < 16 by decide)
  refine decode_of_nat (n := vW 0x30 (8 * condCode c + q.val) a.val b.val k.val (intTyCode t) 14) rfl lt ?_ x hx
  simp only [decodeNat, h1, h2]
  simp only [decVInt, ifWf, hwf, ifZero, withVal, Nat.add_zero, Nat.zero_add, Nat.zero_div, Nat.zero_mod, gOf_val, vOf_val, kOf_val, cOf_val, tOf_val, gOf_zero, g_div, k_div, k_div16, c_div, scopeOf_code, ldOrdOf_code, stOrdOf_code, amOrdOf_code, intTyOf_code, fltTyOf_code, rmOf_code, cvtSrcOf_code, condOf_code, ptrModeOf_code, idSelOf_code, crOf_split, ckArgOf_code, ite_true, ite_false, BitVec.ofNat_toNat, BitVec.setWidth_eq, reduceIte, and_self, one_ne_zero, Nat.reduceEqDiff, Nat.reduceMul, Nat.reduceAdd, Nat.reduceMod, Nat.reduceDiv, cmp_fields]

theorem vsel (d : VReg) (a : VReg) (b : VReg) (k : KReg) (t : IntTy) : Statement (.vsel d a b k t) := by
  intro x hwf hx
  obtain ⟨lt, h1, h2⟩ := vW_fields (show 0x30 < 64 by decide) d.isLt a.isLt b.isLt k.isLt (show intTyCode t < 16 by have := intTyCode_lt t; omega) (show 15 < 16 by decide)
  refine decode_of_nat (n := vW 0x30 d.val a.val b.val k.val (intTyCode t) 15) rfl lt ?_ x hx
  simp only [decodeNat, h1, h2]
  simp [decVInt, ifWf, hwf, ifZero, withVal]

theorem vfadd (d : VReg) (a : VReg) (b : VReg) (k : KReg) (t : FltTy) : Statement (.vfadd d a b k t) := by
  intro x hwf hx
  obtain ⟨lt, h1, h2⟩ := vW_fields (show 0x31 < 64 by decide) d.isLt a.isLt b.isLt k.isLt (show fltTyCode t < 16 by have := fltTyCode_lt t; omega) (show 0 < 16 by decide)
  refine decode_of_nat (n := vW 0x31 d.val a.val b.val k.val (fltTyCode t) 0) rfl lt ?_ x hx
  simp only [decodeNat, h1, h2]
  simp [decVFlt, ifWf, hwf, ifZero, withVal]

theorem vfsub (d : VReg) (a : VReg) (b : VReg) (k : KReg) (t : FltTy) : Statement (.vfsub d a b k t) := by
  intro x hwf hx
  obtain ⟨lt, h1, h2⟩ := vW_fields (show 0x31 < 64 by decide) d.isLt a.isLt b.isLt k.isLt (show fltTyCode t < 16 by have := fltTyCode_lt t; omega) (show 1 < 16 by decide)
  refine decode_of_nat (n := vW 0x31 d.val a.val b.val k.val (fltTyCode t) 1) rfl lt ?_ x hx
  simp only [decodeNat, h1, h2]
  simp [decVFlt, ifWf, hwf, ifZero, withVal]

theorem vfmul (d : VReg) (a : VReg) (b : VReg) (k : KReg) (t : FltTy) : Statement (.vfmul d a b k t) := by
  intro x hwf hx
  obtain ⟨lt, h1, h2⟩ := vW_fields (show 0x31 < 64 by decide) d.isLt a.isLt b.isLt k.isLt (show fltTyCode t < 16 by have := fltTyCode_lt t; omega) (show 2 < 16 by decide)
  refine decode_of_nat (n := vW 0x31 d.val a.val b.val k.val (fltTyCode t) 2) rfl lt ?_ x hx
  simp only [decodeNat, h1, h2]
  simp [decVFlt, ifWf, hwf, ifZero, withVal]

theorem vfma (d : VReg) (a : VReg) (b : VReg) (k : KReg) (t : FltTy) : Statement (.vfma d a b k t) := by
  intro x hwf hx
  obtain ⟨lt, h1, h2⟩ := vW_fields (show 0x31 < 64 by decide) d.isLt a.isLt b.isLt k.isLt (show fltTyCode t < 16 by have := fltTyCode_lt t; omega) (show 3 < 16 by decide)
  refine decode_of_nat (n := vW 0x31 d.val a.val b.val k.val (fltTyCode t) 3) rfl lt ?_ x hx
  simp only [decodeNat, h1, h2]
  simp [decVFlt, ifWf, hwf, ifZero, withVal]

theorem vfms (d : VReg) (a : VReg) (b : VReg) (k : KReg) (t : FltTy) : Statement (.vfms d a b k t) := by
  intro x hwf hx
  obtain ⟨lt, h1, h2⟩ := vW_fields (show 0x31 < 64 by decide) d.isLt a.isLt b.isLt k.isLt (show fltTyCode t < 16 by have := fltTyCode_lt t; omega) (show 4 < 16 by decide)
  refine decode_of_nat (n := vW 0x31 d.val a.val b.val k.val (fltTyCode t) 4) rfl lt ?_ x hx
  simp only [decodeNat, h1, h2]
  simp [decVFlt, ifWf, hwf, ifZero, withVal]

theorem vfmin (d : VReg) (a : VReg) (b : VReg) (k : KReg) (t : FltTy) : Statement (.vfmin d a b k t) := by
  intro x hwf hx
  obtain ⟨lt, h1, h2⟩ := vW_fields (show 0x31 < 64 by decide) d.isLt a.isLt b.isLt k.isLt (show fltTyCode t < 16 by have := fltTyCode_lt t; omega) (show 5 < 16 by decide)
  refine decode_of_nat (n := vW 0x31 d.val a.val b.val k.val (fltTyCode t) 5) rfl lt ?_ x hx
  simp only [decodeNat, h1, h2]
  simp [decVFlt, ifWf, hwf, ifZero, withVal]

theorem vfmax (d : VReg) (a : VReg) (b : VReg) (k : KReg) (t : FltTy) : Statement (.vfmax d a b k t) := by
  intro x hwf hx
  obtain ⟨lt, h1, h2⟩ := vW_fields (show 0x31 < 64 by decide) d.isLt a.isLt b.isLt k.isLt (show fltTyCode t < 16 by have := fltTyCode_lt t; omega) (show 6 < 16 by decide)
  refine decode_of_nat (n := vW 0x31 d.val a.val b.val k.val (fltTyCode t) 6) rfl lt ?_ x hx
  simp only [decodeNat, h1, h2]
  simp [decVFlt, ifWf, hwf, ifZero, withVal]

theorem vfabs (d : VReg) (a : VReg) (k : KReg) (t : FltTy) : Statement (.vfabs d a k t) := by
  intro x hwf hx
  obtain ⟨lt, h1, h2⟩ := vW_fields (show 0x31 < 64 by decide) d.isLt a.isLt (show 0 < 32 by decide) k.isLt (show fltTyCode t < 16 by have := fltTyCode_lt t; omega) (show 7 < 16 by decide)
  refine decode_of_nat (n := vW 0x31 d.val a.val 0 k.val (fltTyCode t) 7) rfl lt ?_ x hx
  simp only [decodeNat, h1, h2]
  simp [decVFlt, ifWf, hwf, ifZero, withVal]

theorem vrcp (d : VReg) (a : VReg) (k : KReg) (t : FltTy) : Statement (.vrcp d a k t) := by
  intro x hwf hx
  obtain ⟨lt, h1, h2⟩ := vW_fields (show 0x31 < 64 by decide) d.isLt a.isLt (show 0 < 32 by decide) k.isLt (show fltTyCode t < 16 by have := fltTyCode_lt t; omega) (show 8 < 16 by decide)
  refine decode_of_nat (n := vW 0x31 d.val a.val 0 k.val (fltTyCode t) 8) rfl lt ?_ x hx
  simp only [decodeNat, h1, h2]
  simp [decVFlt, ifWf, hwf, ifZero, withVal]

theorem vrsq (d : VReg) (a : VReg) (k : KReg) (t : FltTy) : Statement (.vrsq d a k t) := by
  intro x hwf hx
  obtain ⟨lt, h1, h2⟩ := vW_fields (show 0x31 < 64 by decide) d.isLt a.isLt (show 0 < 32 by decide) k.isLt (show fltTyCode t < 16 by have := fltTyCode_lt t; omega) (show 9 < 16 by decide)
  refine decode_of_nat (n := vW 0x31 d.val a.val 0 k.val (fltTyCode t) 9) rfl lt ?_ x hx
  simp only [decodeNat, h1, h2]
  simp [decVFlt, ifWf, hwf, ifZero, withVal]

theorem vexp2 (d : VReg) (a : VReg) (k : KReg) (t : FltTy) : Statement (.vexp2 d a k t) := by
  intro x hwf hx
  obtain ⟨lt, h1, h2⟩ := vW_fields (show 0x31 < 64 by decide) d.isLt a.isLt (show 0 < 32 by decide) k.isLt (show fltTyCode t < 16 by have := fltTyCode_lt t; omega) (show 10 < 16 by decide)
  refine decode_of_nat (n := vW 0x31 d.val a.val 0 k.val (fltTyCode t) 10) rfl lt ?_ x hx
  simp only [decodeNat, h1, h2]
  simp [decVFlt, ifWf, hwf, ifZero, withVal]

theorem vlog2 (d : VReg) (a : VReg) (k : KReg) (t : FltTy) : Statement (.vlog2 d a k t) := by
  intro x hwf hx
  obtain ⟨lt, h1, h2⟩ := vW_fields (show 0x31 < 64 by decide) d.isLt a.isLt (show 0 < 32 by decide) k.isLt (show fltTyCode t < 16 by have := fltTyCode_lt t; omega) (show 11 < 16 by decide)
  refine decode_of_nat (n := vW 0x31 d.val a.val 0 k.val (fltTyCode t) 11) rfl lt ?_ x hx
  simp only [decodeNat, h1, h2]
  simp [decVFlt, ifWf, hwf, ifZero, withVal]

theorem vfcmp (c : Cond) (q : KReg) (a : VReg) (b : VReg) (k : KReg) (t : FltTy) : Statement (.vfcmp c q a b k t) := by
  intro x hwf hx
  obtain ⟨lt, h1, h2⟩ := vW_fields (show 0x31 < 64 by decide) (show 8 * condCode c + q.val < 32 by have := q.isLt; have := condCode_lt c; omega) a.isLt b.isLt k.isLt (show fltTyCode t < 16 by have := fltTyCode_lt t; omega) (show 12 < 16 by decide)
  refine decode_of_nat (n := vW 0x31 (8 * condCode c + q.val) a.val b.val k.val (fltTyCode t) 12) rfl lt ?_ x hx
  simp only [decodeNat, h1, h2]
  simp only [decVFlt, ifWf, hwf, ifZero, withVal, Nat.add_zero, Nat.zero_add, Nat.zero_div, Nat.zero_mod, gOf_val, vOf_val, kOf_val, cOf_val, tOf_val, gOf_zero, g_div, k_div, k_div16, c_div, scopeOf_code, ldOrdOf_code, stOrdOf_code, amOrdOf_code, intTyOf_code, fltTyOf_code, rmOf_code, cvtSrcOf_code, condOf_code, ptrModeOf_code, idSelOf_code, crOf_split, ckArgOf_code, ite_true, ite_false, BitVec.ofNat_toNat, BitVec.setWidth_eq, reduceIte, and_self, one_ne_zero, Nat.reduceEqDiff, Nat.reduceMul, Nat.reduceAdd, Nat.reduceMod, Nat.reduceDiv, cmp_fields]

theorem vbcast (d : VReg) (a : GReg) (k : KReg) (t : IntTy) : Statement (.vbcast d a k t) := by
  intro x hwf hx
  obtain ⟨lt, h1, h2⟩ := vW_fields (show 0x32 < 64 by decide) d.isLt (show a.val < 32 by omega) (show 0 < 32 by decide) k.isLt (show intTyCode t < 16 by have := intTyCode_lt t; omega) (show 0 < 16 by decide)
  refine decode_of_nat (n := vW 0x32 d.val a.val 0 k.val (intTyCode t) 0) rfl lt ?_ x hx
  simp only [decodeNat, h1, h2]
  simp [decVPerm, decMask, ifWf, hwf, ifZero, withVal]

theorem vext (d : GReg) (a : VReg) (b : GReg) (t : IntTy) : Statement (.vext d a b t) := by
  intro x hwf hx
  obtain ⟨lt, h1, h2⟩ := vW_fields (show 0x32 < 64 by decide) (show d.val < 32 by omega) a.isLt (show b.val < 32 by omega) (show 0 < 8 by decide) (show intTyCode t < 16 by have := intTyCode_lt t; omega) (show 1 < 16 by decide)
  refine decode_of_nat (n := vW 0x32 d.val a.val b.val 0 (intTyCode t) 1) rfl lt ?_ x hx
  simp only [decodeNat, h1, h2]
  simp [decVPerm, decMask, ifWf, hwf, ifZero, withVal]

theorem vins (d : VReg) (a : GReg) (b : GReg) (k : KReg) (t : IntTy) : Statement (.vins d a b k t) := by
  intro x hwf hx
  obtain ⟨lt, h1, h2⟩ := vW_fields (show 0x32 < 64 by decide) d.isLt (show a.val < 32 by omega) (show b.val < 32 by omega) k.isLt (show intTyCode t < 16 by have := intTyCode_lt t; omega) (show 2 < 16 by decide)
  refine decode_of_nat (n := vW 0x32 d.val a.val b.val k.val (intTyCode t) 2) rfl lt ?_ x hx
  simp only [decodeNat, h1, h2]
  simp [decVPerm, decMask, ifWf, hwf, ifZero, withVal]

theorem vperm (d : VReg) (a : VReg) (b : VReg) (k : KReg) (t : IntTy) : Statement (.vperm d a b k t) := by
  intro x hwf hx
  obtain ⟨lt, h1, h2⟩ := vW_fields (show 0x32 < 64 by decide) d.isLt a.isLt b.isLt k.isLt (show intTyCode t < 16 by have := intTyCode_lt t; omega) (show 3 < 16 by decide)
  refine decode_of_nat (n := vW 0x32 d.val a.val b.val k.val (intTyCode t) 3) rfl lt ?_ x hx
  simp only [decodeNat, h1, h2]
  simp [decVPerm, decMask, ifWf, hwf, ifZero, withVal]

theorem vslide (d : VReg) (a : VReg) (b : GReg) (k : KReg) (t : IntTy) : Statement (.vslide d a b k t) := by
  intro x hwf hx
  obtain ⟨lt, h1, h2⟩ := vW_fields (show 0x32 < 64 by decide) d.isLt a.isLt (show b.val < 32 by omega) k.isLt (show intTyCode t < 16 by have := intTyCode_lt t; omega) (show 4 < 16 by decide)
  refine decode_of_nat (n := vW 0x32 d.val a.val b.val k.val (intTyCode t) 4) rfl lt ?_ x hx
  simp only [decodeNat, h1, h2]
  simp [decVPerm, decMask, ifWf, hwf, ifZero, withVal]

theorem vredadd (d : VReg) (a : VReg) (k : KReg) (t : IntTy) : Statement (.vredadd d a k t) := by
  intro x hwf hx
  obtain ⟨lt, h1, h2⟩ := vW_fields (show 0x32 < 64 by decide) d.isLt a.isLt (show 0 < 32 by decide) k.isLt (show intTyCode t < 16 by have := intTyCode_lt t; omega) (show 5 < 16 by decide)
  refine decode_of_nat (n := vW 0x32 d.val a.val 0 k.val (intTyCode t) 5) rfl lt ?_ x hx
  simp only [decodeNat, h1, h2]
  simp [decVPerm, decMask, ifWf, hwf, ifZero, withVal]

theorem vredfadd (d : VReg) (a : VReg) (k : KReg) (t : FltTy) : Statement (.vredfadd d a k t) := by
  intro x hwf hx
  obtain ⟨lt, h1, h2⟩ := vW_fields (show 0x32 < 64 by decide) d.isLt a.isLt (show 0 < 32 by decide) k.isLt (show fltTyCode t < 16 by have := fltTyCode_lt t; omega) (show 6 < 16 by decide)
  refine decode_of_nat (n := vW 0x32 d.val a.val 0 k.val (fltTyCode t) 6) rfl lt ?_ x hx
  simp only [decodeNat, h1, h2]
  simp [decVPerm, decMask, ifWf, hwf, ifZero, withVal]

theorem vredmax (d : VReg) (a : VReg) (k : KReg) (t : IntTy) : Statement (.vredmax d a k t) := by
  intro x hwf hx
  obtain ⟨lt, h1, h2⟩ := vW_fields (show 0x32 < 64 by decide) d.isLt a.isLt (show 0 < 32 by decide) k.isLt (show intTyCode t < 16 by have := intTyCode_lt t; omega) (show 7 < 16 by decide)
  refine decode_of_nat (n := vW 0x32 d.val a.val 0 k.val (intTyCode t) 7) rfl lt ?_ x hx
  simp only [decodeNat, h1, h2]
  simp [decVPerm, decMask, ifWf, hwf, ifZero, withVal]

theorem vredfmax (d : VReg) (a : VReg) (k : KReg) (t : FltTy) : Statement (.vredfmax d a k t) := by
  intro x hwf hx
  obtain ⟨lt, h1, h2⟩ := vW_fields (show 0x32 < 64 by decide) d.isLt a.isLt (show 0 < 32 by decide) k.isLt (show fltTyCode t < 16 by have := fltTyCode_lt t; omega) (show 8 < 16 by decide)
  refine decode_of_nat (n := vW 0x32 d.val a.val 0 k.val (fltTyCode t) 8) rfl lt ?_ x hx
  simp only [decodeNat, h1, h2]
  simp [decVPerm, decMask, ifWf, hwf, ifZero, withVal]

theorem vcvtInt (d : VReg) (a : VReg) (s : CvtSrc) (r : RmField) (t : IntTy) : Statement (.vcvtInt d a s r t) := by
  intro x hwf hx
  obtain ⟨lt, h1, h2⟩ := vW_fields (show 0x32 < 64 by decide) d.isLt a.isLt (show cvtSrcCode s < 32 by have := cvtSrcCode_lt s; omega) (show rmCode r < 8 by have := rmCode_lt r; omega) (show intTyCode t < 16 by have := intTyCode_lt t; omega) (show 9 < 16 by decide)
  refine decode_of_nat (n := vW 0x32 d.val a.val (cvtSrcCode s) (rmCode r) (intTyCode t) 9) rfl lt ?_ x hx
  simp only [decodeNat, h1, h2]
  simp [decVPerm, decMask, ifWf, hwf, ifZero, withVal]

theorem vcvtFloat (d : VReg) (a : VReg) (s : CvtSrc) (r : RmField) (t : FltTy) : Statement (.vcvtFloat d a s r t) := by
  intro x hwf hx
  obtain ⟨lt, h1, h2⟩ := vW_fields (show 0x32 < 64 by decide) d.isLt a.isLt (show cvtSrcCode s < 32 by have := cvtSrcCode_lt s; omega) (show rmCode r < 8 by have := rmCode_lt r; omega) (show fltTyCode t < 16 by have := fltTyCode_lt t; omega) (show 10 < 16 by decide)
  refine decode_of_nat (n := vW 0x32 d.val a.val (cvtSrcCode s) (rmCode r) (fltTyCode t) 10) rfl lt ?_ x hx
  simp only [decodeNat, h1, h2]
  simp [decVPerm, decMask, ifWf, hwf, ifZero, withVal]

theorem vqmx (d : VReg) (a : VReg) (r : RmField) (t : FltTy) : Statement (.vqmx d a r t) := by
  intro x hwf hx
  obtain ⟨lt, h1, h2⟩ := vW_fields (show 0x32 < 64 by decide) d.isLt a.isLt (show 0 < 32 by decide) (show rmCode r < 8 by have := rmCode_lt r; omega) (show fltTyCode t < 16 by have := fltTyCode_lt t; omega) (show 11 < 16 by decide)
  refine decode_of_nat (n := vW 0x32 d.val a.val 0 (rmCode r) (fltTyCode t) 11) rfl lt ?_ x hx
  simp only [decodeNat, h1, h2]
  simp [decVPerm, decMask, ifWf, hwf, ifZero, withVal]

theorem vdqmx (d : VReg) (a : VReg) (t : FltTy) : Statement (.vdqmx d a t) := by
  intro x hwf hx
  obtain ⟨lt, h1, h2⟩ := vW_fields (show 0x32 < 64 by decide) d.isLt a.isLt (show 0 < 32 by decide) (show 0 < 8 by decide) (show fltTyCode t < 16 by have := fltTyCode_lt t; omega) (show 12 < 16 by decide)
  refine decode_of_nat (n := vW 0x32 d.val a.val 0 0 (fltTyCode t) 12) rfl lt ?_ x hx
  simp only [decodeNat, h1, h2]
  simp [decVPerm, decMask, ifWf, hwf, ifZero, withVal]

theorem vpack (d : VReg) (a : VReg) (b : VReg) (k : KReg) (t : IntTy) : Statement (.vpack d a b k t) := by
  intro x hwf hx
  obtain ⟨lt, h1, h2⟩ := vW_fields (show 0x32 < 64 by decide) d.isLt a.isLt b.isLt k.isLt (show intTyCode t < 16 by have := intTyCode_lt t; omega) (show 13 < 16 by decide)
  refine decode_of_nat (n := vW 0x32 d.val a.val b.val k.val (intTyCode t) 13) rfl lt ?_ x hx
  simp only [decodeNat, h1, h2]
  simp [decVPerm, decMask, ifWf, hwf, ifZero, withVal]

theorem vunpack (d : VReg) (a : VReg) (h : Bool) (k : KReg) (t : IntTy) : Statement (.vunpack d a h k t) := by
  intro x hwf hx
  obtain ⟨lt, h1, h2⟩ := vW_fields (show 0x32 < 64 by decide) d.isLt a.isLt (show (if h then 1 else 0 : Nat) < 32 by (split_ifs <;> omega)) k.isLt (show intTyCode t < 16 by have := intTyCode_lt t; omega) (show 14 < 16 by decide)
  refine decode_of_nat (n := vW 0x32 d.val a.val (if h then 1 else 0) k.val (intTyCode t) 14) rfl lt ?_ x hx
  simp only [decodeNat, h1, h2]
  simp only [decVPerm, decMask, ifWf, hwf, ifZero, withVal, Nat.add_zero, Nat.zero_add, Nat.zero_div, Nat.zero_mod, gOf_val, vOf_val, kOf_val, cOf_val, tOf_val, gOf_zero, g_div, k_div, k_div16, c_div, scopeOf_code, ldOrdOf_code, stOrdOf_code, amOrdOf_code, intTyOf_code, fltTyOf_code, rmOf_code, cvtSrcOf_code, condOf_code, ptrModeOf_code, idSelOf_code, crOf_split, ckArgOf_code, ite_true, ite_false, BitVec.ofNat_toNat, BitVec.setWidth_eq, reduceIte, and_self, one_ne_zero, Nat.reduceEqDiff, Nat.reduceMul, Nat.reduceAdd, Nat.reduceMod, Nat.reduceDiv, flag_val, flag_div]

theorem kand (d : KReg) (a : KReg) (b : KReg) : Statement (.kand d a b) := by
  intro x hwf hx
  obtain ⟨lt, h1, h2⟩ := vW_fields (show 0x32 < 64 by decide) (show d.val < 32 by omega) (show a.val < 32 by omega) (show b.val < 32 by omega) (show 0 < 8 by decide) (show 0 < 16 by decide) (show 15 < 16 by decide)
  refine decode_of_nat (n := vW 0x32 d.val a.val b.val 0 0 15) rfl lt ?_ x hx
  simp only [decodeNat, h1, h2]
  simp only [decVPerm, decMask, ifWf, hwf, ifZero, withVal, Nat.add_zero, Nat.zero_add, Nat.zero_div, Nat.zero_mod, gOf_val, vOf_val, kOf_val, cOf_val, tOf_val, gOf_zero, g_div, k_div, k_div16, c_div, scopeOf_code, ldOrdOf_code, stOrdOf_code, amOrdOf_code, intTyOf_code, fltTyOf_code, rmOf_code, cvtSrcOf_code, condOf_code, ptrModeOf_code, idSelOf_code, crOf_split, ckArgOf_code, ite_true, ite_false, BitVec.ofNat_toNat, BitVec.setWidth_eq, reduceIte, and_self, one_ne_zero, Nat.reduceEqDiff, Nat.reduceMul, Nat.reduceAdd, Nat.reduceMod, Nat.reduceDiv]

theorem kor (d : KReg) (a : KReg) (b : KReg) : Statement (.kor d a b) := by
  intro x hwf hx
  obtain ⟨lt, h1, h2⟩ := vW_fields (show 0x32 < 64 by decide) (show d.val < 32 by omega) (show a.val < 32 by omega) (show b.val < 32 by omega) (show 0 < 8 by decide) (show 1 < 16 by decide) (show 15 < 16 by decide)
  refine decode_of_nat (n := vW 0x32 d.val a.val b.val 0 1 15) rfl lt ?_ x hx
  simp only [decodeNat, h1, h2]
  simp only [decVPerm, decMask, ifWf, hwf, ifZero, withVal, Nat.add_zero, Nat.zero_add, Nat.zero_div, Nat.zero_mod, gOf_val, vOf_val, kOf_val, cOf_val, tOf_val, gOf_zero, g_div, k_div, k_div16, c_div, scopeOf_code, ldOrdOf_code, stOrdOf_code, amOrdOf_code, intTyOf_code, fltTyOf_code, rmOf_code, cvtSrcOf_code, condOf_code, ptrModeOf_code, idSelOf_code, crOf_split, ckArgOf_code, ite_true, ite_false, BitVec.ofNat_toNat, BitVec.setWidth_eq, reduceIte, and_self, one_ne_zero, Nat.reduceEqDiff, Nat.reduceMul, Nat.reduceAdd, Nat.reduceMod, Nat.reduceDiv]

theorem knot (d : KReg) (a : KReg) : Statement (.knot d a) := by
  intro x hwf hx
  obtain ⟨lt, h1, h2⟩ := vW_fields (show 0x32 < 64 by decide) (show d.val < 32 by omega) (show a.val < 32 by omega) (show 0 < 32 by decide) (show 0 < 8 by decide) (show 2 < 16 by decide) (show 15 < 16 by decide)
  refine decode_of_nat (n := vW 0x32 d.val a.val 0 0 2 15) rfl lt ?_ x hx
  simp only [decodeNat, h1, h2]
  simp only [decVPerm, decMask, ifWf, hwf, ifZero, withVal, Nat.add_zero, Nat.zero_add, Nat.zero_div, Nat.zero_mod, gOf_val, vOf_val, kOf_val, cOf_val, tOf_val, gOf_zero, g_div, k_div, k_div16, c_div, scopeOf_code, ldOrdOf_code, stOrdOf_code, amOrdOf_code, intTyOf_code, fltTyOf_code, rmOf_code, cvtSrcOf_code, condOf_code, ptrModeOf_code, idSelOf_code, crOf_split, ckArgOf_code, ite_true, ite_false, BitVec.ofNat_toNat, BitVec.setWidth_eq, reduceIte, and_self, one_ne_zero, Nat.reduceEqDiff, Nat.reduceMul, Nat.reduceAdd, Nat.reduceMod, Nat.reduceDiv]

theorem kmov (d : KReg) (a : KReg) : Statement (.kmov d a) := by
  intro x hwf hx
  obtain ⟨lt, h1, h2⟩ := vW_fields (show 0x32 < 64 by decide) (show d.val < 32 by omega) (show a.val < 32 by omega) (show 0 < 32 by decide) (show 0 < 8 by decide) (show 3 < 16 by decide) (show 15 < 16 by decide)
  refine decode_of_nat (n := vW 0x32 d.val a.val 0 0 3 15) rfl lt ?_ x hx
  simp only [decodeNat, h1, h2]
  simp only [decVPerm, decMask, ifWf, hwf, ifZero, withVal, Nat.add_zero, Nat.zero_add, Nat.zero_div, Nat.zero_mod, gOf_val, vOf_val, kOf_val, cOf_val, tOf_val, gOf_zero, g_div, k_div, k_div16, c_div, scopeOf_code, ldOrdOf_code, stOrdOf_code, amOrdOf_code, intTyOf_code, fltTyOf_code, rmOf_code, cvtSrcOf_code, condOf_code, ptrModeOf_code, idSelOf_code, crOf_split, ckArgOf_code, ite_true, ite_false, BitVec.ofNat_toNat, BitVec.setWidth_eq, reduceIte, and_self, one_ne_zero, Nat.reduceEqDiff, Nat.reduceMul, Nat.reduceAdd, Nat.reduceMod, Nat.reduceDiv]

theorem kpopc (d : GReg) (a : KReg) : Statement (.kpopc d a) := by
  intro x hwf hx
  obtain ⟨lt, h1, h2⟩ := vW_fields (show 0x32 < 64 by decide) (show d.val < 32 by omega) (show a.val < 32 by omega) (show 0 < 32 by decide) (show 0 < 8 by decide) (show 4 < 16 by decide) (show 15 < 16 by decide)
  refine decode_of_nat (n := vW 0x32 d.val a.val 0 0 4 15) rfl lt ?_ x hx
  simp only [decodeNat, h1, h2]
  simp only [decVPerm, decMask, ifWf, hwf, ifZero, withVal, Nat.add_zero, Nat.zero_add, Nat.zero_div, Nat.zero_mod, gOf_val, vOf_val, kOf_val, cOf_val, tOf_val, gOf_zero, g_div, k_div, k_div16, c_div, scopeOf_code, ldOrdOf_code, stOrdOf_code, amOrdOf_code, intTyOf_code, fltTyOf_code, rmOf_code, cvtSrcOf_code, condOf_code, ptrModeOf_code, idSelOf_code, crOf_split, ckArgOf_code, ite_true, ite_false, BitVec.ofNat_toNat, BitVec.setWidth_eq, reduceIte, and_self, one_ne_zero, Nat.reduceEqDiff, Nat.reduceMul, Nat.reduceAdd, Nat.reduceMod, Nat.reduceDiv]

theorem vld (d : VReg) (a : GReg) (k : KReg) (t : IntTy) : Statement (.vld d a k t) := by
  intro x hwf hx
  obtain ⟨lt, h1, h2⟩ := vW_fields (show 0x33 < 64 by decide) d.isLt (show a.val < 32 by omega) (show 0 < 32 by decide) k.isLt (show intTyCode t < 16 by have := intTyCode_lt t; omega) (show 0 < 16 by decide)
  refine decode_of_nat (n := vW 0x33 d.val a.val 0 k.val (intTyCode t) 0) rfl lt ?_ x hx
  simp only [decodeNat, h1, h2]
  simp [decVMem, ifWf, hwf, ifZero, withVal]

theorem vst (d : VReg) (a : GReg) (k : KReg) (t : IntTy) : Statement (.vst d a k t) := by
  intro x hwf hx
  obtain ⟨lt, h1, h2⟩ := vW_fields (show 0x33 < 64 by decide) d.isLt (show a.val < 32 by omega) (show 0 < 32 by decide) k.isLt (show intTyCode t < 16 by have := intTyCode_lt t; omega) (show 1 < 16 by decide)
  refine decode_of_nat (n := vW 0x33 d.val a.val 0 k.val (intTyCode t) 1) rfl lt ?_ x hx
  simp only [decodeNat, h1, h2]
  simp [decVMem, ifWf, hwf, ifZero, withVal]

theorem vlds (d : VReg) (a : GReg) (b : GReg) (k : KReg) (t : IntTy) : Statement (.vlds d a b k t) := by
  intro x hwf hx
  obtain ⟨lt, h1, h2⟩ := vW_fields (show 0x33 < 64 by decide) d.isLt (show a.val < 32 by omega) (show b.val < 32 by omega) k.isLt (show intTyCode t < 16 by have := intTyCode_lt t; omega) (show 2 < 16 by decide)
  refine decode_of_nat (n := vW 0x33 d.val a.val b.val k.val (intTyCode t) 2) rfl lt ?_ x hx
  simp only [decodeNat, h1, h2]
  simp [decVMem, ifWf, hwf, ifZero, withVal]

theorem vsts (d : VReg) (a : GReg) (b : GReg) (k : KReg) (t : IntTy) : Statement (.vsts d a b k t) := by
  intro x hwf hx
  obtain ⟨lt, h1, h2⟩ := vW_fields (show 0x33 < 64 by decide) d.isLt (show a.val < 32 by omega) (show b.val < 32 by omega) k.isLt (show intTyCode t < 16 by have := intTyCode_lt t; omega) (show 3 < 16 by decide)
  refine decode_of_nat (n := vW 0x33 d.val a.val b.val k.val (intTyCode t) 3) rfl lt ?_ x hx
  simp only [decodeNat, h1, h2]
  simp [decVMem, ifWf, hwf, ifZero, withVal]

theorem vgath (d : VReg) (a : GReg) (b : VReg) (k : KReg) (t : IntTy) : Statement (.vgath d a b k t) := by
  intro x hwf hx
  obtain ⟨lt, h1, h2⟩ := vW_fields (show 0x33 < 64 by decide) d.isLt (show a.val < 32 by omega) b.isLt k.isLt (show intTyCode t < 16 by have := intTyCode_lt t; omega) (show 4 < 16 by decide)
  refine decode_of_nat (n := vW 0x33 d.val a.val b.val k.val (intTyCode t) 4) rfl lt ?_ x hx
  simp only [decodeNat, h1, h2]
  simp [decVMem, ifWf, hwf, ifZero, withVal]

theorem vscat (d : VReg) (a : GReg) (b : VReg) (k : KReg) (t : IntTy) : Statement (.vscat d a b k t) := by
  intro x hwf hx
  obtain ⟨lt, h1, h2⟩ := vW_fields (show 0x33 < 64 by decide) d.isLt (show a.val < 32 by omega) b.isLt k.isLt (show intTyCode t < 16 by have := intTyCode_lt t; omega) (show 5 < 16 by decide)
  refine decode_of_nat (n := vW 0x33 d.val a.val b.val k.val (intTyCode t) 5) rfl lt ?_ x hx
  simp only [decodeNat, h1, h2]
  simp [decVMem, ifWf, hwf, ifZero, withVal]

theorem vldbit (d : VReg) (i : Bool) (p : BpReg) (e : Fin 32) (k : KReg) (t : IntTy) : Statement (.vldbit d i p e k t) := by
  intro x hwf hx
  obtain ⟨lt, h1, h2⟩ := vW_fields (show 0x33 < 64 by decide) d.isLt (show (p.val + (if i then 4 else 0)) < 32 by (have := p.isLt; split_ifs <;> omega)) e.isLt k.isLt (show intTyCode t < 16 by have := intTyCode_lt t; omega) (show 6 < 16 by decide)
  refine decode_of_nat (n := vW 0x33 d.val (p.val + (if i then 4 else 0)) e.val k.val (intTyCode t) 6) rfl lt ?_ x hx
  simp only [decodeNat, h1, h2]
  simp only [decVMem, ifWf, hwf, ifZero, withVal, Nat.add_zero, Nat.zero_add, Nat.zero_div, Nat.zero_mod, gOf_val, vOf_val, kOf_val, cOf_val, tOf_val, gOf_zero, g_div, k_div, k_div16, c_div, scopeOf_code, ldOrdOf_code, stOrdOf_code, amOrdOf_code, intTyOf_code, fltTyOf_code, rmOf_code, cvtSrcOf_code, condOf_code, ptrModeOf_code, idSelOf_code, crOf_split, ckArgOf_code, ite_true, ite_false, BitVec.ofNat_toNat, BitVec.setWidth_eq, reduceIte, and_self, one_ne_zero, Nat.reduceEqDiff, Nat.reduceMul, Nat.reduceAdd, Nat.reduceMod, Nat.reduceDiv, vbit_fields]

theorem vstbit (d : VReg) (i : Bool) (p : BpReg) (e : Fin 32) (k : KReg) (t : IntTy) : Statement (.vstbit d i p e k t) := by
  intro x hwf hx
  obtain ⟨lt, h1, h2⟩ := vW_fields (show 0x33 < 64 by decide) d.isLt (show (p.val + (if i then 4 else 0)) < 32 by (have := p.isLt; split_ifs <;> omega)) e.isLt k.isLt (show intTyCode t < 16 by have := intTyCode_lt t; omega) (show 7 < 16 by decide)
  refine decode_of_nat (n := vW 0x33 d.val (p.val + (if i then 4 else 0)) e.val k.val (intTyCode t) 7) rfl lt ?_ x hx
  simp only [decodeNat, h1, h2]
  simp only [decVMem, ifWf, hwf, ifZero, withVal, Nat.add_zero, Nat.zero_add, Nat.zero_div, Nat.zero_mod, gOf_val, vOf_val, kOf_val, cOf_val, tOf_val, gOf_zero, g_div, k_div, k_div16, c_div, scopeOf_code, ldOrdOf_code, stOrdOf_code, amOrdOf_code, intTyOf_code, fltTyOf_code, rmOf_code, cvtSrcOf_code, condOf_code, ptrModeOf_code, idSelOf_code, crOf_split, ckArgOf_code, ite_true, ite_false, BitVec.ofNat_toNat, BitVec.setWidth_eq, reduceIte, and_self, one_ne_zero, Nat.reduceEqDiff, Nat.reduceMul, Nat.reduceAdd, Nat.reduceMod, Nat.reduceDiv, vbit_fields]

theorem ckclr (c : CReg) : Statement (.ckclr c) := by
  intro x hwf hx
  obtain ⟨lt, h1, h2⟩ := vW_fields (show 0x34 < 64 by decide) (show c.val < 32 by omega) (show 0 < 32 by decide) (show 0 < 32 by decide) (show 0 < 8 by decide) (show 0 < 16 by decide) (show 0 < 16 by decide)
  refine decode_of_nat (n := vW 0x34 c.val 0 0 0 0 0) rfl lt ?_ x hx
  simp only [decodeNat, h1, h2]
  simp [decCheck, ifWf, hwf, ifZero, withVal]

theorem cka (c : CReg) (a : VReg) (k : KReg) (t : IntTy) : Statement (.cka c a k t) := by
  intro x hwf hx
  obtain ⟨lt, h1, h2⟩ := vW_fields (show 0x34 < 64 by decide) (show c.val < 32 by omega) a.isLt (show 0 < 32 by decide) k.isLt (show intTyCode t < 16 by have := intTyCode_lt t; omega) (show 1 < 16 by decide)
  refine decode_of_nat (n := vW 0x34 c.val a.val 0 k.val (intTyCode t) 1) rfl lt ?_ x hx
  simp only [decodeNat, h1, h2]
  simp [decCheck, ifWf, hwf, ifZero, withVal]

theorem ckaf (c : CReg) (a : VReg) (k : KReg) (t : FltTy) : Statement (.ckaf c a k t) := by
  intro x hwf hx
  obtain ⟨lt, h1, h2⟩ := vW_fields (show 0x34 < 64 by decide) (show c.val < 32 by omega) a.isLt (show 0 < 32 by decide) k.isLt (show fltTyCode t < 16 by have := fltTyCode_lt t; omega) (show 2 < 16 by decide)
  refine decode_of_nat (n := vW 0x34 c.val a.val 0 k.val (fltTyCode t) 2) rfl lt ?_ x hx
  simp only [decodeNat, h1, h2]
  simp [decCheck, ifWf, hwf, ifZero, withVal]

theorem ckchk (g : GReg) (a : CReg) (b : CkArg) : Statement (.ckchk g a b) := by
  intro x hwf hx
  obtain ⟨lt, h1, h2⟩ := vW_fields (show 0x34 < 64 by decide) (show g.val < 32 by omega) (show a.val < 32 by omega) (show ckArgVb b < 32 by have := ckArgVb_lt b; omega) (show 0 < 8 by decide) (show ckArgMode b < 16 by have := ckArgMode_lt b; omega) (show 3 < 16 by decide)
  refine decode_of_nat (n := vW 0x34 g.val a.val (ckArgVb b) 0 (ckArgMode b) 3) rfl lt ?_ x hx
  simp only [decodeNat, h1, h2]
  simp only [decCheck, ifWf, hwf, ifZero, withVal, Nat.add_zero, Nat.zero_add, Nat.zero_div, Nat.zero_mod, gOf_val, vOf_val, kOf_val, cOf_val, tOf_val, gOf_zero, g_div, k_div, k_div16, c_div, scopeOf_code, ldOrdOf_code, stOrdOf_code, amOrdOf_code, intTyOf_code, fltTyOf_code, rmOf_code, cvtSrcOf_code, condOf_code, ptrModeOf_code, idSelOf_code, crOf_split, ckArgOf_code, ite_true, ite_false, BitVec.ofNat_toNat, BitVec.setWidth_eq, reduceIte, and_self, one_ne_zero, Nat.reduceEqDiff, Nat.reduceMul, Nat.reduceAdd, Nat.reduceMod, Nat.reduceDiv, ckArgVb_div]

theorem vlease : Statement .vlease := by
  intro x hwf hx
  obtain ⟨lt, h1, h2⟩ := vW_fields (show 0x35 < 64 by decide) (show 0 < 32 by decide) (show 0 < 32 by decide) (show 0 < 32 by decide) (show 0 < 8 by decide) (show 0 < 16 by decide) (show 0 < 16 by decide)
  refine decode_of_nat (n := vW 0x35 0 0 0 0 0 0) rfl lt ?_ x hx
  simp only [decodeNat, h1, h2]
  simp [decLease, ifZero, withVal]

theorem vfree : Statement .vfree := by
  intro x hwf hx
  obtain ⟨lt, h1, h2⟩ := vW_fields (show 0x35 < 64 by decide) (show 0 < 32 by decide) (show 0 < 32 by decide) (show 0 < 32 by decide) (show 0 < 8 by decide) (show 0 < 16 by decide) (show 1 < 16 by decide)
  refine decode_of_nat (n := vW 0x35 0 0 0 0 0 1) rfl lt ?_ x hx
  simp only [decodeNat, h1, h2]
  simp [decLease, ifZero, withVal]

theorem mload (a : GReg) (b : GReg) : Statement (.mload a b) := by
  intro x hwf hx
  obtain ⟨lt, h1, h2⟩ := eW_fields (show 0x38 < 64 by decide) (show 0 < 32 by decide) a.isLt b.isLt (show 0 < 16 by decide) (show 0 < 32 by decide) (show 0 < 16 by decide)
  refine decode_of_nat (n := eW 0x38 0 a.val b.val 0 0 0) rfl lt ?_ x hx
  simp only [decodeNat, h1, h2]
  simp [decMatrix, ifZero, withVal]

theorem mloadQ (b : GReg) : Statement (.mloadQ b) := by
  intro x hwf hx
  obtain ⟨lt, h1, h2⟩ := eW_fields (show 0x38 < 64 by decide) (show 0 < 32 by decide) (show 0 < 16 by decide) b.isLt (show 0 < 16 by decide) (show 1 < 32 by decide) (show 0 < 16 by decide)
  refine decode_of_nat (n := eW 0x38 0 0 b.val 0 1 0) rfl lt ?_ x hx
  simp only [decodeNat, h1, h2]
  simp only [decMatrix, ifZero, withVal, Nat.add_zero, Nat.zero_add, Nat.zero_div, Nat.zero_mod, gOf_val, vOf_val, kOf_val, cOf_val, tOf_val, gOf_zero, g_div, k_div, k_div16, c_div, scopeOf_code, ldOrdOf_code, stOrdOf_code, amOrdOf_code, intTyOf_code, fltTyOf_code, rmOf_code, cvtSrcOf_code, condOf_code, ptrModeOf_code, idSelOf_code, crOf_split, ckArgOf_code, ite_true, ite_false, BitVec.ofNat_toNat, BitVec.setWidth_eq, reduceIte, and_self, one_ne_zero, Nat.reduceEqDiff, Nat.reduceMul, Nat.reduceAdd, Nat.reduceMod, Nat.reduceDiv]

theorem mtile (a : GReg) (b : GReg) (c : GReg) (n : BarNo) : Statement (.mtile a b c n) := by
  intro x hwf hx
  obtain ⟨lt, h1, h2⟩ := eW_fields (show 0x38 < 64 by decide) (show 1 < 32 by decide) a.isLt b.isLt c.isLt n.isLt (show 0 < 16 by decide)
  refine decode_of_nat (n := eW 0x38 1 a.val b.val c.val n.val 0) rfl lt ?_ x hx
  simp only [decodeNat, h1, h2]
  simp [decMatrix, ifZero, withVal]

theorem mcancel : Statement .mcancel := by
  intro x hwf hx
  obtain ⟨lt, h1, h2⟩ := eW_fields (show 0x38 < 64 by decide) (show 2 < 32 by decide) (show 0 < 16 by decide) (show 0 < 16 by decide) (show 0 < 16 by decide) (show 0 < 32 by decide) (show 0 < 16 by decide)
  refine decode_of_nat (n := eW 0x38 2 0 0 0 0 0) rfl lt ?_ x hx
  simp only [decodeNat, h1, h2]
  simp [decMatrix, ifZero, withVal]

theorem mstat (a : GReg) (l : La) : Statement (.mstat a l) := by
  intro x hwf hx
  obtain ⟨lt, h1, h2⟩ := eW_fields (show 0x38 < 64 by decide) (show 3 < 32 by decide) a.isLt (show 0 < 16 by decide) (show 0 < 16 by decide) (show 0 < 32 by decide) l.isLt
  refine decode_of_nat (n := eW 0x38 3 a.val 0 0 0 l.val) rfl lt ?_ x hx
  simp only [decodeNat, h1, h2]
  simp [decMatrix, ifZero, withVal]

theorem rowgetF (b : GReg) (n : VReg) : Statement (.rowgetF b n) := by
  intro x hwf hx
  obtain ⟨lt, h1, h2⟩ := eW_fields (show 0x38 < 64 by decide) (show 4 < 32 by decide) (show 0 < 16 by decide) b.isLt (show 0 < 16 by decide) n.isLt (show 0 < 16 by decide)
  refine decode_of_nat (n := eW 0x38 4 0 b.val 0 n.val 0) rfl lt ?_ x hx
  simp only [decodeNat, h1, h2]
  simp [decMatrix, ifZero, withVal]

theorem rowgetS (b : GReg) (n : VReg) : Statement (.rowgetS b n) := by
  intro x hwf hx
  obtain ⟨lt, h1, h2⟩ := eW_fields (show 0x38 < 64 by decide) (show 4 < 32 by decide) (show 0 < 16 by decide) b.isLt (show 1 < 16 by decide) n.isLt (show 0 < 16 by decide)
  refine decode_of_nat (n := eW 0x38 4 0 b.val 1 n.val 0) rfl lt ?_ x hx
  simp only [decodeNat, h1, h2]
  simp only [decMatrix, ifZero, withVal, Nat.add_zero, Nat.zero_add, Nat.zero_div, Nat.zero_mod, gOf_val, vOf_val, kOf_val, cOf_val, tOf_val, gOf_zero, g_div, k_div, k_div16, c_div, scopeOf_code, ldOrdOf_code, stOrdOf_code, amOrdOf_code, intTyOf_code, fltTyOf_code, rmOf_code, cvtSrcOf_code, condOf_code, ptrModeOf_code, idSelOf_code, crOf_split, ckArgOf_code, ite_true, ite_false, BitVec.ofNat_toNat, BitVec.setWidth_eq, reduceIte, and_self, one_ne_zero, Nat.reduceEqDiff, Nat.reduceMul, Nat.reduceAdd, Nat.reduceMod, Nat.reduceDiv]

theorem rowpass : Statement .rowpass := by
  intro x hwf hx
  obtain ⟨lt, h1, h2⟩ := eW_fields (show 0x38 < 64 by decide) (show 5 < 32 by decide) (show 0 < 16 by decide) (show 0 < 16 by decide) (show 0 < 16 by decide) (show 0 < 32 by decide) (show 0 < 16 by decide)
  refine decode_of_nat (n := eW 0x38 5 0 0 0 0 0) rfl lt ?_ x hx
  simp only [decodeNat, h1, h2]
  simp [decMatrix, ifZero, withVal]

theorem warm (a : GReg) (b : GReg) (l : La) : Statement (.warm a b l) := by
  intro x hwf hx
  obtain ⟨lt, h1, h2⟩ := eW_fields (show 0x39 < 64 by decide) (show 0 < 32 by decide) a.isLt b.isLt (show 0 < 16 by decide) (show 0 < 32 by decide) l.isLt
  refine decode_of_nat (n := eW 0x39 0 a.val b.val 0 0 l.val) rfl lt ?_ x hx
  simp only [decodeNat, h1, h2]
  simp [decWale, ifZero, withVal]

theorem wadd (a : GReg) (b : GReg) (c : GReg) (n : VReg) (l : La) : Statement (.wadd a b c n l) := by
  intro x hwf hx
  obtain ⟨lt, h1, h2⟩ := eW_fields (show 0x39 < 64 by decide) (show 1 < 32 by decide) a.isLt b.isLt c.isLt n.isLt l.isLt
  refine decode_of_nat (n := eW 0x39 1 a.val b.val c.val n.val l.val) rfl lt ?_ x hx
  simp only [decodeNat, h1, h2]
  simp [decWale, ifZero, withVal]

theorem wstat (a : GReg) (b : GReg) (l : La) : Statement (.wstat a b l) := by
  intro x hwf hx
  obtain ⟨lt, h1, h2⟩ := eW_fields (show 0x39 < 64 by decide) (show 2 < 32 by decide) a.isLt b.isLt (show 0 < 16 by decide) (show 0 < 32 by decide) l.isLt
  refine decode_of_nat (n := eW 0x39 2 a.val b.val 0 0 l.val) rfl lt ?_ x hx
  simp only [decodeNat, h1, h2]
  simp [decWale, ifZero, withVal]

theorem wwait (b : GReg) : Statement (.wwait b) := by
  intro x hwf hx
  obtain ⟨lt, h1, h2⟩ := eW_fields (show 0x39 < 64 by decide) (show 3 < 32 by decide) (show 0 < 16 by decide) b.isLt (show 0 < 16 by decide) (show 0 < 32 by decide) (show 0 < 16 by decide)
  refine decode_of_nat (n := eW 0x39 3 0 b.val 0 0 0) rfl lt ?_ x hx
  simp only [decodeNat, h1, h2]
  simp [decWale, ifZero, withVal]

theorem wreadF (a : GReg) (b : GReg) (n : VReg) (l : La) : Statement (.wreadF a b n l) := by
  intro x hwf hx
  obtain ⟨lt, h1, h2⟩ := eW_fields (show 0x39 < 64 by decide) (show 4 < 32 by decide) a.isLt b.isLt (show 0 < 16 by decide) n.isLt l.isLt
  refine decode_of_nat (n := eW 0x39 4 a.val b.val 0 n.val l.val) rfl lt ?_ x hx
  simp only [decodeNat, h1, h2]
  simp [decWale, ifZero, withVal]

theorem wreadI (a : GReg) (b : GReg) (n : VReg) (l : La) : Statement (.wreadI a b n l) := by
  intro x hwf hx
  obtain ⟨lt, h1, h2⟩ := eW_fields (show 0x39 < 64 by decide) (show 4 < 32 by decide) a.isLt b.isLt (show 1 < 16 by decide) n.isLt l.isLt
  refine decode_of_nat (n := eW 0x39 4 a.val b.val 1 n.val l.val) rfl lt ?_ x hx
  simp only [decodeNat, h1, h2]
  simp only [decWale, ifZero, withVal, Nat.add_zero, Nat.zero_add, Nat.zero_div, Nat.zero_mod, gOf_val, vOf_val, kOf_val, cOf_val, tOf_val, gOf_zero, g_div, k_div, k_div16, c_div, scopeOf_code, ldOrdOf_code, stOrdOf_code, amOrdOf_code, intTyOf_code, fltTyOf_code, rmOf_code, cvtSrcOf_code, condOf_code, ptrModeOf_code, idSelOf_code, crOf_split, ckArgOf_code, ite_true, ite_false, BitVec.ofNat_toNat, BitVec.setWidth_eq, reduceIte, and_self, one_ne_zero, Nat.reduceEqDiff, Nat.reduceMul, Nat.reduceAdd, Nat.reduceMod, Nat.reduceDiv]

theorem wdrop (a : GReg) (b : GReg) (l : La) : Statement (.wdrop a b l) := by
  intro x hwf hx
  obtain ⟨lt, h1, h2⟩ := eW_fields (show 0x39 < 64 by decide) (show 5 < 32 by decide) a.isLt b.isLt (show 0 < 16 by decide) (show 0 < 32 by decide) l.isLt
  refine decode_of_nat (n := eW 0x39 5 a.val b.val 0 0 l.val) rfl lt ?_ x hx
  simp only [decodeNat, h1, h2]
  simp [decWale, ifZero, withVal]

theorem wfree (a : GReg) (b : GReg) (l : La) : Statement (.wfree a b l) := by
  intro x hwf hx
  obtain ⟨lt, h1, h2⟩ := eW_fields (show 0x39 < 64 by decide) (show 6 < 32 by decide) a.isLt b.isLt (show 0 < 16 by decide) (show 0 < 32 by decide) l.isLt
  refine decode_of_nat (n := eW 0x39 6 a.val b.val 0 0 l.val) rfl lt ?_ x hx
  simp only [decodeNat, h1, h2]
  simp [decWale, ifZero, withVal]

theorem ttsub (a : GReg) (b : GReg) (l : La) : Statement (.ttsub a b l) := by
  intro x hwf hx
  obtain ⟨lt, h1, h2⟩ := eW_fields (show 0x3A < 64 by decide) (show 0 < 32 by decide) a.isLt b.isLt (show 0 < 16 by decide) (show 0 < 32 by decide) l.isLt
  refine decode_of_nat (n := eW 0x3A 0 a.val b.val 0 0 l.val) rfl lt ?_ x hx
  simp only [decodeNat, h1, h2]
  simp [decTask, ifZero, withVal]

theorem ttstat (a : GReg) (b : GReg) (l : La) : Statement (.ttstat a b l) := by
  intro x hwf hx
  obtain ⟨lt, h1, h2⟩ := eW_fields (show 0x3A < 64 by decide) (show 1 < 32 by decide) a.isLt b.isLt (show 0 < 16 by decide) (show 0 < 32 by decide) l.isLt
  refine decode_of_nat (n := eW 0x3A 1 a.val b.val 0 0 l.val) rfl lt ?_ x hx
  simp only [decodeNat, h1, h2]
  simp [decTask, ifZero, withVal]

theorem send (b : GReg) : Statement (.send b) := by
  intro x hwf hx
  obtain ⟨lt, h1, h2⟩ := eW_fields (show 0x3A < 64 by decide) (show 2 < 32 by decide) (show 0 < 16 by decide) b.isLt (show 0 < 16 by decide) (show 0 < 32 by decide) (show 0 < 16 by decide)
  refine decode_of_nat (n := eW 0x3A 2 0 b.val 0 0 0) rfl lt ?_ x hx
  simp only [decodeNat, h1, h2]
  simp [decTask, ifZero, withVal]

theorem reply (b : GReg) : Statement (.reply b) := by
  intro x hwf hx
  obtain ⟨lt, h1, h2⟩ := eW_fields (show 0x3A < 64 by decide) (show 3 < 32 by decide) (show 0 < 16 by decide) b.isLt (show 0 < 16 by decide) (show 0 < 32 by decide) (show 0 < 16 by decide)
  refine decode_of_nat (n := eW 0x3A 3 0 b.val 0 0 0) rfl lt ?_ x hx
  simp only [decodeNat, h1, h2]
  simp [decTask, ifZero, withVal]

theorem spawn (a : GReg) (b : GReg) (c : GReg) (l : La) : Statement (.spawn a b c l) := by
  intro x hwf hx
  obtain ⟨lt, h1, h2⟩ := eW_fields (show 0x3B < 64 by decide) (show 0 < 32 by decide) a.isLt b.isLt c.isLt (show 0 < 32 by decide) l.isLt
  refine decode_of_nat (n := eW 0x3B 0 a.val b.val c.val 0 l.val) rfl lt ?_ x hx
  simp only [decodeNat, h1, h2]
  simp [decStrand, ifZero, withVal]

theorem exit : Statement .exit := by
  intro x hwf hx
  obtain ⟨lt, h1, h2⟩ := eW_fields (show 0x3B < 64 by decide) (show 1 < 32 by decide) (show 0 < 16 by decide) (show 0 < 16 by decide) (show 0 < 16 by decide) (show 0 < 32 by decide) (show 0 < 16 by decide)
  refine decode_of_nat (n := eW 0x3B 1 0 0 0 0 0) rfl lt ?_ x hx
  simp only [decodeNat, h1, h2]
  simp [decStrand, ifZero, withVal]

theorem yield : Statement .yield := by
  intro x hwf hx
  obtain ⟨lt, h1, h2⟩ := eW_fields (show 0x3B < 64 by decide) (show 2 < 32 by decide) (show 0 < 16 by decide) (show 0 < 16 by decide) (show 0 < 16 by decide) (show 0 < 32 by decide) (show 0 < 16 by decide)
  refine decode_of_nat (n := eW 0x3B 2 0 0 0 0 0) rfl lt ?_ x hx
  simp only [decodeNat, h1, h2]
  simp [decStrand, ifZero, withVal]

theorem park : Statement .park := by
  intro x hwf hx
  obtain ⟨lt, h1, h2⟩ := eW_fields (show 0x3B < 64 by decide) (show 3 < 32 by decide) (show 0 < 16 by decide) (show 0 < 16 by decide) (show 0 < 16 by decide) (show 0 < 32 by decide) (show 0 < 16 by decide)
  refine decode_of_nat (n := eW 0x3B 3 0 0 0 0 0) rfl lt ?_ x hx
  simp only [decodeNat, h1, h2]
  simp [decStrand, ifZero, withVal]

theorem wake (b : GReg) (c : GReg) : Statement (.wake b c) := by
  intro x hwf hx
  obtain ⟨lt, h1, h2⟩ := eW_fields (show 0x3B < 64 by decide) (show 4 < 32 by decide) (show 0 < 16 by decide) b.isLt c.isLt (show 0 < 32 by decide) (show 0 < 16 by decide)
  refine decode_of_nat (n := eW 0x3B 4 0 b.val c.val 0 0) rfl lt ?_ x hx
  simp only [decodeNat, h1, h2]
  simp [decStrand, ifZero, withVal]

theorem migrate (b : GReg) : Statement (.migrate b) := by
  intro x hwf hx
  obtain ⟨lt, h1, h2⟩ := eW_fields (show 0x3B < 64 by decide) (show 5 < 32 by decide) (show 0 < 16 by decide) b.isLt (show 0 < 16 by decide) (show 0 < 32 by decide) (show 0 < 16 by decide)
  refine decode_of_nat (n := eW 0x3B 5 0 b.val 0 0 0) rfl lt ?_ x hx
  simp only [decodeNat, h1, h2]
  simp [decStrand, ifZero, withVal]

theorem monarm (b : GReg) : Statement (.monarm b) := by
  intro x hwf hx
  obtain ⟨lt, h1, h2⟩ := eW_fields (show 0x3B < 64 by decide) (show 6 < 32 by decide) (show 0 < 16 by decide) b.isLt (show 0 < 16 by decide) (show 0 < 32 by decide) (show 0 < 16 by decide)
  refine decode_of_nat (n := eW 0x3B 6 0 b.val 0 0 0) rfl lt ?_ x hx
  simp only [decodeNat, h1, h2]
  simp [decStrand, ifZero, withVal]

theorem monwait : Statement .monwait := by
  intro x hwf hx
  obtain ⟨lt, h1, h2⟩ := eW_fields (show 0x3B < 64 by decide) (show 7 < 32 by decide) (show 0 < 16 by decide) (show 0 < 16 by decide) (show 0 < 16 by decide) (show 0 < 32 by decide) (show 0 < 16 by decide)
  refine decode_of_nat (n := eW 0x3B 7 0 0 0 0 0) rfl lt ?_ x hx
  simp only [decodeNat, h1, h2]
  simp [decStrand, ifZero, withVal]

theorem prio (b : GReg) : Statement (.prio b) := by
  intro x hwf hx
  obtain ⟨lt, h1, h2⟩ := eW_fields (show 0x3B < 64 by decide) (show 8 < 32 by decide) (show 0 < 16 by decide) b.isLt (show 0 < 16 by decide) (show 0 < 32 by decide) (show 0 < 16 by decide)
  refine decode_of_nat (n := eW 0x3B 8 0 b.val 0 0 0) rfl lt ?_ x hx
  simp only [decodeNat, h1, h2]
  simp [decStrand, ifZero, withVal]

theorem role (b : GReg) : Statement (.role b) := by
  intro x hwf hx
  obtain ⟨lt, h1, h2⟩ := eW_fields (show 0x3B < 64 by decide) (show 9 < 32 by decide) (show 0 < 16 by decide) b.isLt (show 0 < 16 by decide) (show 0 < 32 by decide) (show 0 < 16 by decide)
  refine decode_of_nat (n := eW 0x3B 9 0 b.val 0 0 0) rfl lt ?_ x hx
  simp only [decodeNat, h1, h2]
  simp [decStrand, ifZero, withVal]

theorem cntarm (b : GReg) (c : GReg) : Statement (.cntarm b c) := by
  intro x hwf hx
  obtain ⟨lt, h1, h2⟩ := eW_fields (show 0x3B < 64 by decide) (show 10 < 32 by decide) (show 0 < 16 by decide) b.isLt c.isLt (show 0 < 32 by decide) (show 0 < 16 by decide)
  refine decode_of_nat (n := eW 0x3B 10 0 b.val c.val 0 0) rfl lt ?_ x hx
  simp only [decodeNat, h1, h2]
  simp [decStrand, ifZero, withVal]

theorem launch (a : GReg) (b : GReg) (l : La) : Statement (.launch a b l) := by
  intro x hwf hx
  obtain ⟨lt, h1, h2⟩ := eW_fields (show 0x3C < 64 by decide) (show 0 < 32 by decide) a.isLt b.isLt (show 0 < 16 by decide) (show 0 < 32 by decide) l.isLt
  refine decode_of_nat (n := eW 0x3C 0 a.val b.val 0 0 l.val) rfl lt ?_ x hx
  simp only [decodeNat, h1, h2]
  simp [decHier, ifZero, withVal]

theorem join (a : GReg) (b : GReg) (l : La) : Statement (.join a b l) := by
  intro x hwf hx
  obtain ⟨lt, h1, h2⟩ := eW_fields (show 0x3C < 64 by decide) (show 1 < 32 by decide) a.isLt b.isLt (show 0 < 16 by decide) (show 0 < 32 by decide) l.isLt
  refine decode_of_nat (n := eW 0x3C 1 a.val b.val 0 0 l.val) rfl lt ?_ x hx
  simp only [decodeNat, h1, h2]
  simp [decHier, ifZero, withVal]

theorem cancel (b : GReg) : Statement (.cancel b) := by
  intro x hwf hx
  obtain ⟨lt, h1, h2⟩ := eW_fields (show 0x3C < 64 by decide) (show 2 < 32 by decide) (show 0 < 16 by decide) b.isLt (show 0 < 16 by decide) (show 0 < 32 by decide) (show 0 < 16 by decide)
  refine decode_of_nat (n := eW 0x3C 2 0 b.val 0 0 0) rfl lt ?_ x hx
  simp only [decodeNat, h1, h2]
  simp [decHier, ifZero, withVal]

theorem cntstat (a : GReg) (b : GReg) (l : La) : Statement (.cntstat a b l) := by
  intro x hwf hx
  obtain ⟨lt, h1, h2⟩ := eW_fields (show 0x3C < 64 by decide) (show 3 < 32 by decide) a.isLt b.isLt (show 0 < 16 by decide) (show 0 < 32 by decide) l.isLt
  refine decode_of_nat (n := eW 0x3C 3 a.val b.val 0 0 l.val) rfl lt ?_ x hx
  simp only [decodeNat, h1, h2]
  simp [decHier, ifZero, withVal]

theorem phaseend (b : GReg) : Statement (.phaseend b) := by
  intro x hwf hx
  obtain ⟨lt, h1, h2⟩ := eW_fields (show 0x3C < 64 by decide) (show 4 < 32 by decide) (show 0 < 16 by decide) b.isLt (show 0 < 16 by decide) (show 0 < 32 by decide) (show 0 < 16 by decide)
  refine decode_of_nat (n := eW 0x3C 4 0 b.val 0 0 0) rfl lt ?_ x hx
  simp only [decodeNat, h1, h2]
  simp [decHier, ifZero, withVal]

theorem ctlr (a : GReg) (c : CrName) (l : La) : Statement (.ctlr a c l) := by
  intro x hwf hx
  obtain ⟨lt, h1, h2⟩ := eW_fields (show 0x3E < 64 by decide) (show 0 < 32 by decide) a.isLt (show 0 < 16 by decide) (show crCode c / 32 < 16 by have := crCode_lt c; omega) (show crCode c % 32 < 32 by have := crCode_lt c; omega) l.isLt
  refine decode_of_nat (n := eW 0x3E 0 a.val 0 (crCode c / 32) (crCode c % 32) l.val) rfl lt ?_ x hx
  simp only [decodeNat, h1, h2]
  simp [decSys, ifZero, withVal]

theorem ctlw (b : GReg) (c : CrName) : Statement (.ctlw b c) := by
  intro x hwf hx
  obtain ⟨lt, h1, h2⟩ := eW_fields (show 0x3E < 64 by decide) (show 1 < 32 by decide) (show 0 < 16 by decide) b.isLt (show crCode c / 32 < 16 by have := crCode_lt c; omega) (show crCode c % 32 < 32 by have := crCode_lt c; omega) (show 0 < 16 by decide)
  refine decode_of_nat (n := eW 0x3E 1 0 b.val (crCode c / 32) (crCode c % 32) 0) rfl lt ?_ x hx
  simp only [decodeNat, h1, h2]
  simp [decSys, ifZero, withVal]

theorem ctlx (a : GReg) (b : GReg) (c : CrName) (l : La) : Statement (.ctlx a b c l) := by
  intro x hwf hx
  obtain ⟨lt, h1, h2⟩ := eW_fields (show 0x3E < 64 by decide) (show 2 < 32 by decide) a.isLt b.isLt (show crCode c / 32 < 16 by have := crCode_lt c; omega) (show crCode c % 32 < 32 by have := crCode_lt c; omega) l.isLt
  refine decode_of_nat (n := eW 0x3E 2 a.val b.val (crCode c / 32) (crCode c % 32) l.val) rfl lt ?_ x hx
  simp only [decodeNat, h1, h2]
  simp [decSys, ifZero, withVal]

theorem trap (n : Fin 32) : Statement (.trap n) := by
  intro x hwf hx
  obtain ⟨lt, h1, h2⟩ := eW_fields (show 0x3E < 64 by decide) (show 3 < 32 by decide) (show 0 < 16 by decide) (show 0 < 16 by decide) (show 0 < 16 by decide) n.isLt (show 0 < 16 by decide)
  refine decode_of_nat (n := eW 0x3E 3 0 0 0 n.val 0) rfl lt ?_ x hx
  simp only [decodeNat, h1, h2]
  simp [decSys, ifZero, withVal]

theorem eret : Statement .eret := by
  intro x hwf hx
  obtain ⟨lt, h1, h2⟩ := eW_fields (show 0x3E < 64 by decide) (show 4 < 32 by decide) (show 0 < 16 by decide) (show 0 < 16 by decide) (show 0 < 16 by decide) (show 0 < 32 by decide) (show 0 < 16 by decide)
  refine decode_of_nat (n := eW 0x3E 4 0 0 0 0 0) rfl lt ?_ x hx
  simp only [decodeNat, h1, h2]
  simp [decSys, ifZero, withVal]

theorem halt : Statement .halt := by
  intro x hwf hx
  obtain ⟨lt, h1, h2⟩ := eW_fields (show 0x3E < 64 by decide) (show 5 < 32 by decide) (show 0 < 16 by decide) (show 0 < 16 by decide) (show 0 < 16 by decide) (show 0 < 32 by decide) (show 0 < 16 by decide)
  refine decode_of_nat (n := eW 0x3E 5 0 0 0 0 0) rfl lt ?_ x hx
  simp only [decodeNat, h1, h2]
  simp [decSys, ifZero, withVal]

theorem xlinv (b : GReg) (c : GReg) : Statement (.xlinv b c) := by
  intro x hwf hx
  obtain ⟨lt, h1, h2⟩ := eW_fields (show 0x3E < 64 by decide) (show 6 < 32 by decide) (show 0 < 16 by decide) b.isLt c.isLt (show 0 < 32 by decide) (show 0 < 16 by decide)
  refine decode_of_nat (n := eW 0x3E 6 0 b.val c.val 0 0) rfl lt ?_ x hx
  simp only [decodeNat, h1, h2]
  simp [decSys, ifZero, withVal]

theorem attrset (b : GReg) (c : GReg) : Statement (.attrset b c) := by
  intro x hwf hx
  obtain ⟨lt, h1, h2⟩ := eW_fields (show 0x3E < 64 by decide) (show 7 < 32 by decide) (show 0 < 16 by decide) b.isLt c.isLt (show 0 < 32 by decide) (show 0 < 16 by decide)
  refine decode_of_nat (n := eW 0x3E 7 0 b.val c.val 0 0) rfl lt ?_ x hx
  simp only [decodeNat, h1, h2]
  simp [decSys, ifZero, withVal]

theorem sealPage (b : GReg) : Statement (.sealPage b) := by
  intro x hwf hx
  obtain ⟨lt, h1, h2⟩ := eW_fields (show 0x3E < 64 by decide) (show 8 < 32 by decide) (show 0 < 16 by decide) b.isLt (show 0 < 16 by decide) (show 0 < 32 by decide) (show 0 < 16 by decide)
  refine decode_of_nat (n := eW 0x3E 8 0 b.val 0 0 0) rfl lt ?_ x hx
  simp only [decodeNat, h1, h2]
  simp [decSys, ifZero, withVal]

theorem msdecl (a : GReg) (b : GReg) (c : GReg) (l : La) : Statement (.msdecl a b c l) := by
  intro x hwf hx
  obtain ⟨lt, h1, h2⟩ := eW_fields (show 0x3E < 64 by decide) (show 9 < 32 by decide) a.isLt b.isLt c.isLt (show 0 < 32 by decide) l.isLt
  refine decode_of_nat (n := eW 0x3E 9 a.val b.val c.val 0 l.val) rfl lt ?_ x hx
  simp only [decodeNat, h1, h2]
  simp [decSys, ifZero, withVal]

theorem msdone : Statement .msdone := by
  intro x hwf hx
  obtain ⟨lt, h1, h2⟩ := eW_fields (show 0x3E < 64 by decide) (show 10 < 32 by decide) (show 0 < 16 by decide) (show 0 < 16 by decide) (show 0 < 16 by decide) (show 0 < 32 by decide) (show 0 < 16 by decide)
  refine decode_of_nat (n := eW 0x3E 10 0 0 0 0 0) rfl lt ?_ x hx
  simp only [decodeNat, h1, h2]
  simp [decSys, ifZero, withVal]

theorem jrnl (a : GReg) (b : GReg) (l : La) : Statement (.jrnl a b l) := by
  intro x hwf hx
  obtain ⟨lt, h1, h2⟩ := eW_fields (show 0x3E < 64 by decide) (show 11 < 32 by decide) a.isLt b.isLt (show 0 < 16 by decide) (show 0 < 32 by decide) l.isLt
  refine decode_of_nat (n := eW 0x3E 11 a.val b.val 0 0 l.val) rfl lt ?_ x hx
  simp only [decodeNat, h1, h2]
  simp [decSys, ifZero, withVal]

theorem wingrant (a : GReg) (b : GReg) (l : La) : Statement (.wingrant a b l) := by
  intro x hwf hx
  obtain ⟨lt, h1, h2⟩ := eW_fields (show 0x3E < 64 by decide) (show 12 < 32 by decide) a.isLt b.isLt (show 0 < 16 by decide) (show 0 < 32 by decide) l.isLt
  refine decode_of_nat (n := eW 0x3E 12 a.val b.val 0 0 l.val) rfl lt ?_ x hx
  simp only [decodeNat, h1, h2]
  simp [decSys, ifZero, withVal]

theorem winrev (b : GReg) : Statement (.winrev b) := by
  intro x hwf hx
  obtain ⟨lt, h1, h2⟩ := eW_fields (show 0x3E < 64 by decide) (show 13 < 32 by decide) (show 0 < 16 by decide) b.isLt (show 0 < 16 by decide) (show 0 < 32 by decide) (show 0 < 16 by decide)
  refine decode_of_nat (n := eW 0x3E 13 0 b.val 0 0 0) rfl lt ?_ x hx
  simp only [decodeNat, h1, h2]
  simp [decSys, ifZero, withVal]

theorem jobnew (c : Cmd) : Statement (.jobnew c) := event (.jobnew c) rfl
theorem hoodset (c : Cmd) : Statement (.hoodset c) := event (.hoodset c) rfl
theorem mapCmd (c : Cmd) : Statement (.mapCmd c) := event (.mapCmd c) rfl
theorem attrCmd (c : Cmd) : Statement (.attrCmd c) := event (.attrCmd c) rfl
theorem loadCmd (c : Cmd) : Statement (.loadCmd c) := event (.loadCmd c) rfl
theorem readCmd (c : Cmd) : Statement (.readCmd c) := event (.readCmd c) rfl
theorem launchCmd (c : Cmd) : Statement (.launchCmd c) := event (.launchCmd c) rfl
theorem hwgrant (c : Cmd) : Statement (.hwgrant c) := event (.hwgrant c) rfl
theorem hwrevoke (c : Cmd) : Statement (.hwrevoke c) := event (.hwrevoke c) rfl
theorem sealCmd (c : Cmd) : Statement (.sealCmd c) := event (.sealCmd c) rfl
theorem cntreadCounter (c : Cmd) : Statement (.cntreadCounter c) := event (.cntreadCounter c) rfl
theorem cntreadRestartSummary (c : Cmd) : Statement (.cntreadRestartSummary c) := event (.cntreadRestartSummary c) rfl
theorem cntreadPort (c : Cmd) : Statement (.cntreadPort c) := event (.cntreadPort c) rfl
theorem cntreadCore (c : Cmd) : Statement (.cntreadCore c) := event (.cntreadCore c) rfl
theorem cntreadCorrections (c : Cmd) : Statement (.cntreadCorrections c) := event (.cntreadCorrections c) rfl
theorem logctlQuery (c : Cmd) : Statement (.logctlQuery c) := event (.logctlQuery c) rfl
theorem logctlReplay (c : Cmd) : Statement (.logctlReplay c) := event (.logctlReplay c) rfl
theorem attest (c : Cmd) : Statement (.attest c) := event (.attest c) rfl
theorem collset (c : Cmd) : Statement (.collset c) := event (.collset c) rfl
theorem jobend (c : Cmd) : Statement (.jobend c) := event (.jobend c) rfl
theorem cregset (c : Cmd) : Statement (.cregset c) := event (.cregset c) rfl
theorem badcmd (code : BitVec 8) (c : Cmd) : Statement (.badcmd code c) := event (.badcmd code c) rfl
theorem packetReceive (port : Fin 8) (supported : Bool) (job : BitVec 16) (key : List Byte) (body : Inbound) : Statement (.packetReceive port supported job key body) := event (.packetReceive port supported job key body) rfl
theorem linkRetry (port : Option (Fin 8)) : Statement (.linkRetry port) := event (.linkRetry port) rfl
theorem peerAccess (dev : Nat) (job : BitVec 16) (idx : Nat) (off : Nat) (op : PeerOp) : Statement (.peerAccess dev job idx off op) := event (.peerAccess dev job idx off op) rfl
theorem grantNotice (dev : Nat) (job : BitVec 16) (idx : Nat) (len : Nat) (r : Bool) (w : Bool) (a : Bool) : Statement (.grantNotice dev job idx len r w a) := event (.grantNotice dev job idx len r w a) rfl
theorem wingrantAck (job : BitVec 16) (idx : Nat) : Statement (.wingrantAck job idx) := event (.wingrantAck job idx) rfl
theorem revocationNotice (dev : Nat) (job : BitVec 16) (idx : Nat) : Statement (.revocationNotice dev job idx) := event (.revocationNotice dev job idx) rfl
theorem winrevComplete (job : BitVec 16) (idx : Nat) : Statement (.winrevComplete job idx) := event (.winrevComplete job idx) rfl
theorem translation (id : Nat) : Statement (.translation id) := event (.translation id) rfl
theorem homeAccess (id : Nat) : Statement (.homeAccess id) := event (.homeAccess id) rfl
theorem bankAccess (id : Nat) : Statement (.bankAccess id) := event (.bankAccess id) rfl
theorem packageWindowAtomic (id : Nat) : Statement (.packageWindowAtomic id) := event (.packageWindowAtomic id) rfl
theorem accessReply (id : Nat) (refusal : Option (BitVec 6)) (v : Word) : Statement (.accessReply id refusal v) := event (.accessReply id refusal v) rfl
theorem storeAck (core : Nat) (j : Fin 64) : Statement (.storeAck core j) := event (.storeAck core j) rfl
theorem postedStoreRefusal (core : Nat) (j : Fin 64) (cause : BitVec 6) : Statement (.postedStoreRefusal core j cause) := event (.postedStoreRefusal core j cause) rfl
theorem moved (id : Nat) : Statement (.moved id) := event (.moved id) rfl
theorem asyncTrap (core : Nat) (slot : Nat) : Statement (.asyncTrap core slot) := event (.asyncTrap core slot) rfl
theorem copyComplete (core : Nat) (id : Nat) : Statement (.copyComplete core id) := event (.copyComplete core id) rfl
theorem copyFault (core : Nat) (id : Nat) : Statement (.copyFault core id) := event (.copyFault core id) rfl
theorem edgeRefusal (core : Nat) (id : Nat) (hint : Fin 4096) : Statement (.edgeRefusal core id hint) := event (.edgeRefusal core id hint) rfl
theorem edgeResend (core : Nat) (id : Nat) : Statement (.edgeResend core id) := event (.edgeResend core id) rfl
theorem streamReadahead (core : Nat) (q : QReg) : Statement (.streamReadahead core q) := event (.streamReadahead core q) rfl
theorem bankModeChangeComplete (core : Nat) (bank : Fin 16) : Statement (.bankModeChangeComplete core bank) := event (.bankModeChangeComplete core bank) rfl
theorem flushComplete (core : Nat) (slot : Nat) : Statement (.flushComplete core slot) := event (.flushComplete core slot) rfl
theorem sealComplete (core : Nat) (slot : Nat) : Statement (.sealComplete core slot) := event (.sealComplete core slot) rfl
theorem xlinvComplete (core : Nat) (slot : Nat) : Statement (.xlinvComplete core slot) := event (.xlinvComplete core slot) rfl
theorem attrsetComplete (core : Nat) (slot : Nat) : Statement (.attrsetComplete core slot) := event (.attrsetComplete core slot) rfl
theorem mloadComplete (core : Nat) : Statement (.mloadComplete core) := event (.mloadComplete core) rfl
theorem mloadRefused (core : Nat) : Statement (.mloadRefused core) := event (.mloadRefused core) rfl
theorem rowEntry (core : Nat) : Statement (.rowEntry core) := event (.rowEntry core) rfl
theorem rowHandlerStart (core : Nat) (h : Fin 2) : Statement (.rowHandlerStart core h) := event (.rowHandlerStart core h) rfl
theorem tileOperationComplete (core : Nat) : Statement (.tileOperationComplete core) := event (.tileOperationComplete core) rfl
theorem tileOperationFault (core : Nat) : Statement (.tileOperationFault core) := event (.tileOperationFault core) rfl
theorem tileSchedulerIssue (cluster : Nat) : Statement (.tileSchedulerIssue cluster) := event (.tileSchedulerIssue cluster) rfl
theorem barrierArrival (core : Nat) (n : BarNo) : Statement (.barrierArrival core n) := event (.barrierArrival core n) rfl
theorem errorArrival (core : Nat) (n : BarNo) : Statement (.errorArrival core n) := event (.errorArrival core n) rfl
theorem warmArrival (id : Nat) : Statement (.warmArrival id) := event (.warmArrival id) rfl
theorem waddArrival (id : Nat) : Statement (.waddArrival id) := event (.waddArrival id) rfl
theorem wstatArrival (id : Nat) : Statement (.wstatArrival id) := event (.wstatArrival id) rfl
theorem wreadArrival (id : Nat) : Statement (.wreadArrival id) := event (.wreadArrival id) rfl
theorem wdropArrival (id : Nat) : Statement (.wdropArrival id) := event (.wdropArrival id) rfl
theorem wfreeArrival (id : Nat) : Statement (.wfreeArrival id) := event (.wfreeArrival id) rfl
theorem waleAddDone (slice : Nat) (slot : Nat) : Statement (.waleAddDone slice slot) := event (.waleAddDone slice slot) rfl
theorem dequePop (core : Nat) : Statement (.dequePop core) := event (.dequePop core) rfl
theorem dequePush (id : Nat) : Statement (.dequePush id) := event (.dequePush id) rfl
theorem dequeRefill (core : Nat) : Statement (.dequeRefill core) := event (.dequeRefill core) rfl
theorem mailboxArrival (id : Nat) : Statement (.mailboxArrival id) := event (.mailboxArrival id) rfl
theorem messageHandlerStart (core : Nat) : Statement (.messageHandlerStart core) := event (.messageHandlerStart core) rfl
theorem steal (core : Nat) : Statement (.steal core) := event (.steal core) rfl
theorem stealAnswer (core : Nat) : Statement (.stealAnswer core) := event (.stealAnswer core) rfl
theorem grant (core : Nat) : Statement (.grant core) := event (.grant core) rfl
theorem empty (core : Nat) : Statement (.empty core) := event (.empty core) rfl
theorem remoteSteal (core : Nat) : Statement (.remoteSteal core) := event (.remoteSteal core) rfl
theorem stealBackoffExpiry (core : Nat) : Statement (.stealBackoffExpiry core) := event (.stealBackoffExpiry core) rfl
theorem stageRingTake (core : Nat) : Statement (.stageRingTake core) := event (.stageRingTake core) rfl
theorem weaverSample (die : Nat) : Statement (.weaverSample die) := event (.weaverSample die) rfl
theorem counterSample (core : Nat) : Statement (.counterSample core) := event (.counterSample core) rfl
theorem completionCounterEvent (job : BitVec 16) (lv : Level) (n : Nat) (ev : CountEv) : Statement (.completionCounterEvent job lv n ev) := event (.completionCounterEvent job lv n ev) rfl
theorem launchEntryPlacement (job : BitVec 16) (lid : Nat) : Statement (.launchEntryPlacement job lid) := event (.launchEntryPlacement job lid) rfl
theorem migrationSend (core : Nat) (slot : Nat) : Statement (.migrationSend core slot) := event (.migrationSend core slot) rfl
theorem migrationArrival (core : Nat) (slot : Nat) : Statement (.migrationArrival core slot) := event (.migrationArrival core slot) rfl
theorem migrationAccept (core : Nat) (slot : Nat) : Statement (.migrationAccept core slot) := event (.migrationAccept core slot) rfl
theorem migrationRefuse (core : Nat) (slot : Nat) : Statement (.migrationRefuse core slot) := event (.migrationRefuse core slot) rfl
theorem wakeArrival (id : Nat) : Statement (.wakeArrival id) := event (.wakeArrival id) rfl
theorem followerDetach (core : Nat) : Statement (.followerDetach core) := event (.followerDetach core) rfl
theorem followTimeout (core : Nat) : Statement (.followTimeout core) := event (.followTimeout core) rfl
theorem preemptionStart (src : Nat) (dst : Nat) : Statement (.preemptionStart src dst) := event (.preemptionStart src dst) rfl
theorem preemptionStream (src : Nat) : Statement (.preemptionStream src) := event (.preemptionStream src) rfl
theorem preemptionResume (src : Nat) : Statement (.preemptionResume src) := event (.preemptionResume src) rfl
theorem forward (id : Nat) : Statement (.forward id) := event (.forward id) rfl
theorem uncorrectableError (core : Nat) (slot : Option Nat) : Statement (.uncorrectableError core slot) := event (.uncorrectableError core slot) rfl
theorem hoodReset (leader : Nat) : Statement (.hoodReset leader) := event (.hoodReset leader) rfl
theorem hoodResetEnd (leader : Nat) : Statement (.hoodResetEnd leader) := event (.hoodResetEnd leader) rfl
theorem refresh (word : Nat) (correctable : Bool) (uncorrectable : Bool) : Statement (.refresh word correctable uncorrectable) := event (.refresh word correctable uncorrectable) rfl
theorem goWord (job : BitVec 16) (c : Fin 32) (gen : Word) : Statement (.goWord job c gen) := event (.goWord job c gen) rfl
theorem collectiveContribution (job : BitVec 16) (c : Fin 32) (rank : Nat) (gen : Nat) (data : List Byte) : Statement (.collectiveContribution job c rank gen data) := event (.collectiveContribution job c rank gen data) rfl
theorem lossNotice (job : BitVec 16) (c : Fin 32) (rank : Nat) : Statement (.lossNotice job c rank) := event (.lossNotice job c rank) rfl
theorem collectiveTimeout (job : BitVec 16) (c : Fin 32) : Statement (.collectiveTimeout job c) := event (.collectiveTimeout job c) rfl
theorem millinerSample (r : List Reading) : Statement (.millinerSample r) := event (.millinerSample r) rfl
theorem clockChange (island : Fin 24) (mhz : Nat) : Statement (.clockChange island mhz) := event (.clockChange island mhz) rfl
theorem droop (island : Fin 24) : Statement (.droop island) := event (.droop island) rfl
theorem droopRecovery (island : Fin 24) : Statement (.droopRecovery island) := event (.droopRecovery island) rfl
theorem firmwareStage (image : List Byte) (sig : List Byte) (version : Nat) : Statement (.firmwareStage image sig version) := event (.firmwareStage image sig version) rfl
theorem boot (microcode : List (List Byte)) : Statement (.boot microcode) := event (.boot microcode) rfl
theorem supplyLoss (thermal : Bool) : Statement (.supplyLoss thermal) := event (.supplyLoss thermal) rfl
theorem phaseAEnd : Statement .phaseAEnd := event .phaseAEnd rfl
theorem phaseB (room : Nat) : Statement (.phaseB room) := event (.phaseB room) rfl
theorem illegalInstruction (w : BitVec 32) : Statement (.illegalInstruction w) := event (.illegalInstruction w) rfl
theorem fetchFault (cause : BitVec 6) (addr : Word) : Statement (.fetchFault cause addr) := event (.fetchFault cause addr) rfl
theorem recordDeparture (core : Nat) (vn : Bool) : Statement (.recordDeparture core vn) := event (.recordDeparture core vn) rfl
theorem peerXlinv (dev : Nat) (idx : Nat) (off : Nat) : Statement (.peerXlinv dev idx off) := event (.peerXlinv dev idx off) rfl

end RoundTrip

end Sys2Proof.Laws
end

