-- ==== Sys2Proof/Tests/States.lean ====
section
/-! SUPPORT. Small states for the tests. -/


open Sys2Proof Sys2Proof.Machine Sys2Proof.Claims
namespace Sys2Proof.Tests

/-! Small states. -/

/-- A strand of job 1 in user mode, READY at 0x100, with 5, 7, 0x203 and 0x102 in g1 to g4 and a lease. -/
def user : Strand :=
  { Strand.empty with st := .ready, pc := 0x100, job := 1, vl := true,
                      regs := { Regs.zero with g := [(1, 5), (2, 7), (3, 0x203), (4, 0x102), (5, 0x8000000000000010), (6, 0x8000080000000010), (7, 0xE000000000001000), (8, 0xC000010000000020), (9, 0xFFEEDDCCBBAA9988), (15, 0x40)] } }

/-- The hood of job 1: the cluster of core 0. -/
def hood1 : Hood :=
  { job := 1, tower := 0, row := 0, col := 0, h := 1, w := 1, st := .active, block := ⟨0, 0, 0, 0, 0⟩, ending := false }
def kbg : Core := Core.reset
def bg : State := { State.reset with hoods := [hood1] }
/-- A core that holds a strand in slot 0. -/
def coreOf (t : Strand) : Core := { kbg with strands := kbg.strands.put 0 t }
/-- Core 0 is that core; its strand issues. -/
def oneOn (k : Core) : State := { bg with cores := bg.cores.put 0 k }
/-- Core 0 holds a strand in slot 0, which issues. -/
def one (t : Strand) : State := oneOn (coreOf t)

/-- The machine after reset with LI g1, 4 placed. -/
def placed : State := State.reset.withFetchWord 32 0x24400004

/-- The state in which the placed instruction is executed. -/
def placed1 : State := { placed with agenda := [] }

/-- A strand in supervisor mode. -/
def super : Strand := { user with sup := true }

/-- The strand in slot 0 has a handler of slot 1 beside it. -/
def beside (t u : Strand) : State := { State.reset with cores := [(0, { Core.reset with strands := [(0, t), (1, u)], tvec := 0xE000000000001000, epc := 0x208 })] }

/-- In its handler. -/
def inTrap : Strand := { super with intrap := true }

/-- A precise trap is held. -/
def heldTrap : Strand := { user with st := .waiting .trapHold, held := some (⟨7, 0, none, 0x55, none⟩, 0x100) }

/-- A strand that holds a trap, about to issue. -/
def heldTurn : State := { one { user with held := some (⟨7, 0, none, 0x55, none⟩, 0x100) } with agenda := [.issue 0 0] }

/-- Accesses leave their core. -/
def splitOne (t : Strand) : State := { one t with split := true }

/-- An asynchronous trap. -/
def asyncInfo : TrapInfo := ⟨0x6A, 5, none, 0x77, none⟩

/-- A strand for which one has been raised. -/
def raised : Strand := { user with st := .parked .park, traps := [asyncInfo] }

/-- A supervisor strand with a physical address in g1. -/
def superPhys : Strand := { super with regs := { Regs.zero with g := [(1, 0xE000000000002003)] } }

/-- Scratch with bytes at 0x10 and up. -/
def scr : Memory := [(0x10, 0xF1), (0x11, 0x82), (0x12, 0x33), (0x13, 0x84), (0x14, 5), (0x17, 0x80)]

/-- A strand whose core has those bytes; so has DRAM from 0x1010 up. -/
def withScr (t : Strand) : State :=
  { oneOn { coreOf t with scratch := scr } with mem := [(0x1010, 0xF1), (0x1011, 0x82), (0x1012, 0x33), (0x1013, 0x84), (0x1017, 0x80)] }

/-- A posted store of 2 bytes to core 1's scratch. -/
def lane1 : Lane := ⟨0x8000080000000010, none, 0, false, 2, 0xABCD⟩

/-- The journal entry of a store of 2 bytes to core 1. -/
def ent1 : JEnt := { JEnt.empty with v := true, sz := 1, pc := 0x100, taken := false, job := 1, lanes := [lane1] }

/-- It stands in the journal. -/
def posted : State := oneOn { coreOf user with journal := [(0, ent1)] }

/-- One to a host window. -/
def laneHost : Lane := ⟨0xC000010000000020, none, 0, false, 8, 7⟩

/-- Its entry. -/
def entHost : JEnt := { ent1 with lanes := [laneHost], sz := 3 }

/-- It stands in entry 5. -/
def postedHost : State := oneOn { coreOf user with journal := [(5, entHost)] }

/-- A bit pointer in bp1. -/
def bitUser : Strand := { user with regs := { user.regs with bp := [(1, 0x85)] } }

/-- A supervisor strand with a length in g1. -/
def flusher : Strand := { super with regs := { super.regs with g := [(1, 0x101), (2, 2 ^ 40), (3, 0), (7, 0xE000000000001000), (8, 0x1234)] } }

/-- RC and SC lines in the L1. -/
def rcLine : Line := { va := 0x80, job := 1, bank := 2, frame := 0x10000, ty := .rc, ver := 0, rd := true, data := List.replicate 128 3, dirty := 0, pois := 0, ue := 0, writer := 0 }

/-- A core with an RC line and an SC line. -/
def lined : State := oneOn { coreOf user with lines := [rcLine, { rcLine with va := 0x100, ty := .sc }] }

/-- A strand at physical address 0 with a count in g1, a body of two words behind it. -/
def rptOf (w1 w2 : Nat) (vl : Bool) (n : Word) : State :=
  { one { super with pc := 0xE000000000000000, vl := vl, regs := { Regs.zero with g := [(1, n)] } } with
    mem := (Memory.write [] 4 4 w1).write 8 4 w2 }

/-- A follower at an RPT of its own, its lead on core 0 beside it. -/
def rptFollows : State := { rptOf 0xc4221803 0x0448c000 true 0x1003 with cores := [(0, { (rptOf 0xc4221803 0x0448c000 true 0x1003).core 0 with strands := [(0, { (rptOf 0xc4221803 0x0448c000 true 0x1003).strand 0 0 with fl := .follower }), (1, { user with fl := .lead, pc := 0x500 })] })] }

/-- Another strand replays. -/
def rptHeld : State := { rptOf 0xc4221803 0x0448c000 true 0x1003 with cores := [(0, { (rptOf 0xc4221803 0x0448c000 true 0x1003).core 0 with replay := some ⟨5, [], 1, 0, 0, 0, 0, 0⟩ })] }

/-- A follower of the cluster. -/
def follower : Strand := { user with fl := .follower, age := 64, pc := 0x300 }

/-- A lead stream with a follower on core 1. -/
def leadState : State :=
  { one { user with fl := .lead } with cores := [(0, coreOf { user with fl := .lead }), (1, { Core.reset with strands := [(2, follower)] })] }

/-- The follower alone on core 1. -/
def followState : State := { bg with cores := [(1, { Core.reset with strands := [(2, follower)] })] }

/-- One that owes an instruction. -/
def owesState : State := { bg with cores := [(1, { Core.reset with strands := [(2, { follower with fl := .owes })] })] }

/-- One that waits for a lead. -/
def waitLeadState : State :=
  { bg with cores := [(1, { Core.reset with strands := [(2, { follower with fl := .waitLead, age := 4096 })] })] }

/-- A strand in slot 16. -/
def msgStrand (t : Strand) : State := { oneOn { kbg with strands := [(16, t)] } with cur := ⟨0, 16⟩ }

/-- And it has barrier 2. -/
def msgBar (t : Strand) : State := { oneOn { kbg with strands := [(16, t)], bars := [(2, ⟨3, 5, 0, true, 7, []⟩)] } with cur := ⟨0, 16⟩ }

/-- Barrier 2 of the core. -/
def withBar (t : Strand) (b : Bar) : State := oneOn { coreOf t with bars := [(2, b)] }

/-- With a strand parked for its phase. -/
def withParked (t : Strand) (b : Bar) : State :=
  oneOn { coreOf t with bars := [(2, b)], strands := [(0, t), (4, { user with st := .parked (.bar 2 b.phase 3 0) })] }

/-- Something has arrived for barrier 2 of core 0. -/
def arriving (f : Flit) (b : Bar) : State := { withBar user b with packets := [⟨4, 1, 9, 0, f⟩] }

/-- A pattern block of one dimension: 3 elements of 8 bytes, strides 8 and -16. -/
def blockWords : List Word := [0x801, 0x8000003, 0xFFFFFFF0000000] ++ List.replicate 14 0

/-- One whose reserved bits are not zero. -/
def badBlock : List Word := [0x811, 0x8000003, 0xFFFFFFF0000000] ++ List.replicate 14 0

/-- Words in scratch. -/
def wordsAt (a : Nat) (ws : List Word) : Memory := ws.zipIdx.foldl (fun m x => m.write (a + 8 * x.2) 8 x.1.toNat) []

/-- A strand with addresses of its own scratch in g1 to g4: 0x100, 0x200, 0x300, 0x304. -/
def copier : Strand := { user with regs := { Regs.zero with g :=
  [(1, 0x8000000000000100), (2, 0x8000000000000200), (3, 0x8000000000000300), (4, 0x8000000000000304), (5, 0x12)] } }

/-- Its core with the block. -/
def copyState (ws : List Word) (cs : List Copy) : State := oneOn { coreOf copier with scratch := wordsAt 0x100 ws, copies := cs, tags := 0x13 }

/-- A copy of three elements, of which one is done. -/
def copy1 : Copy :=
  { id := 9, slot := 0, strid := 0, job := 1, sup := false, bases := ⟨0, 0⟩, tag := 4, ring := none, dst := 0x8000000000000200,
    src := 0x8000000000000100, pat := ⟨8, [(3, 8, -8)]⟩, scope := .pkg, acq := false, rel := false, edge := none, hint := none,
    done := 1, orphan := false, banks := [], fault := none, complete := false }

/-- Its next element is the next turn. -/
def elemTurn (x : Copy) : State := { copyState blockWords [x] with agenda := [.copyElem 0 9 1] }

/-- A ring object at 0x200: base 0x8000000000000400, 4 slots of 16 bytes, RD, WR and FILL as given. -/
def ringWords (rd wr fill : Nat) : List Word := [0x8000000000000400, 0x1000000004, word (rd + 2 ^ 32 * wr), word fill]

/-- The core with that ring. -/
def ringState (rd wr fill : Nat) : State := oneOn { coreOf { copier with st := .ready } with scratch := wordsAt 0x200 (ringWords rd wr fill) }

/-- A ring copy that is done. -/
def ringCopy : Copy := { copy1 with ring := some (0x200, 5), done := 3 }

/-- Bank 3 changes to a cache bank. -/
def bankState : State := oneOn { coreOf user with busy := [(3, .cache)], scratch := [(0x18000, 5), (0x20000, 6)], fifos := [(3, [1])] }

/-- The strand of slot 0 waits for that change. -/
def bankWaits : State := oneOn { coreOf { user with st := .waiting .bankset } with busy := [(3, .cache)], bankq := [⟨0, [(3, .cache)], some [3]⟩], scratch := [(0x18000, 5), (0x20000, 6)] }

/-- A strand with a BANKSET operand in g1. -/
def bankUser (w : Word) : Strand := { user with regs := { Regs.zero with g := [(1, w)] } }

/-- It takes bank 6 out of FIFO mode, which is bound. -/
def bankHeld : State := oneOn { coreOf (bankUser 0x4000000000) with queues := [(3, ⟨0, .fifo 6⟩)], banks := [(6, .fifo)] }

/-- It selects a bank that changes. -/
def bankBusy : State := oneOn { coreOf (bankUser 0x800000000) with busy := [(3, .cache)] }

/-- A copy that reads from bank 15, which is a FIFO bank. -/
def copyBad : Copy := { copy1 with src := 0x8000000000078000 }

/-- Its element is the next turn. -/
def elemBad : State := { oneOn { coreOf copier with copies := [copyBad], banks := [(15, .fifo)] } with agenda := [.copyElem 0 9 1] }

/-- Queue register 3 is bound for the strand in slot 0. -/
def queued (k : QKind) : State := oneOn { coreOf user with queues := [(3, ⟨0, k⟩)] }

/-- A FIFO bank with words, bound. -/
def fifoState (ws : List Word) : State :=
  oneOn { coreOf { user with regs := { user.regs with v := [(5, 0x1234567890ABCDEF1122334455667788)] } } with
    queues := [(3, ⟨0, .fifo 6⟩)], banks := [(6, .fifo)], fifos := [(6, ws)] }

/-- A FIFO bank, not bound; g1 names it. -/
def fifoFree : State := oneOn { coreOf { user with regs := { user.regs with g := [(1, 6)] } } with banks := [(6, .fifo)] }

/-- A stream with two elements read ahead. -/
def streamK : QKind := .stream 0x8000000000000100 ⟨8, [(3, 8, -8)]⟩ false ⟨0, 0⟩ [.bytes [1, 2, 3, 4, 5, 6, 7, 0x88], .bytes (List.replicate 8 9)] 16 (some false)

/-- A stream at its end. -/
def streamEnd : QKind := .stream 0x8000000000000100 ⟨8, [(3, 8, -8)]⟩ false ⟨0, 0⟩ [] 24 none

/-- A record whose handler index is 5. -/
def recH (h : Word) : Rec := [h, 1, 2, 3, 4, 5, 6, 7]

/-- A mailbox with records of two handlers; g1 holds 5. -/
def boxState : State := oneOn { coreOf user with mbox := [(0, [recH 5, recH 6, recH 5])] }

/-- A tile operation in its rows. -/
def tile1 : Tile :=
  { m := 4, acc := false, drain := true, aq := true, hidx := 3, harg := 9, asrc := 0, astride := 64, fmta := 0, fmtb := 0, scla := 0,
    sclb := 0, sclcore := 0, job := 1, bases := ⟨0, 0⟩, lid := 3, bar := none, task := none, next := 2, passed := 1, sums := [], fmtf := false,
    fault := none, ran := [] }

/-- A row of 64 values in buffer 1. -/
def rowBuf1 (strips : Nat) : RowBuf := { r := 1, sums := [], vals := (List.range 64).map (BitVec.ofNat 32), started := false, strips := strips }

/-- The row-output binding with a row. -/
def moutState (strips : Nat) : State :=
  oneOn { coreOf user with queues := [(3, ⟨0, .mout⟩)], matrix := { Matrix.reset with tile := some tile1, bufs := [(1, rowBuf1 strips)] } }

/-- The matrix unit runs that operation. -/
def tileState (t : Strand) : State := oneOn { coreOf t with matrix := { Matrix.reset with tile := some tile1 } }

/-- And queue 3 is its A port. -/
def portState : State := oneOn { coreOf user with queues := [(3, ⟨0, .ma⟩)], matrix := { Matrix.reset with tile := some tile1, porta := [4] } }

/-- The A port of an idle unit. -/
def portIdle : State := oneOn { coreOf user with queues := [(3, ⟨0, .ma⟩)], matrix := { Matrix.reset with porta := [4] } }

/-- A stream of core 0 that reads ahead. -/
def aheadState : State :=
  oneOn { coreOf user with queues := [(3, ⟨0, .stream 0x8000000000000100 ⟨8, [(3, 8, -8)]⟩ false ⟨0, 0⟩ [] 8 none⟩)], scratch := [(0x108, 7), (0x10F, 9)] }

/-- Vector registers and masks with values; v3 to v5 hold F32 lanes. -/
def vregs : Regs :=
  { Regs.zero with
    g := [(1, 5), (2, 7), (3, 0xFFFFFFFFFFFFFFFD)], srseed := 0x123456789ABCDEF,
    v := [(1, 0x3fd4235992edcf451a1afe878b33e968617959ce3f1f65a8de5271007814e8a25f2dd97f1cfb10f62827688de6a16a3b0d464138a62332553fc1ea36f17fd374c6a5387777330bdbd7210dff076ce2ef87b0b125ec1d7da0a6eb8c9ebd69fe29d76d4330f1446beab0c11fdecb91ce375bc8fbbcbde5c0994164d8399f767c45),
          (2, 0x2a9eba0cdf561d802a759159fb7ff337f5cae3bf3729c619c60a3cab359eeefb015c33b2df1461aaf8eb18b90074513021da8978206f5c6671e0c07e9e115e4b9e30691c238642ea126a1e48cc11d357c30d8b7628dbd25e63b229f1c4069545de11cc9dea959c212e9c82b1478c281d687c966c377b9aa2bb2edb20035b7399),
          (3, 0x40490fdbc2188ea041cae3a57f800000c2160a2a40490fdb7f8000007f7fffffc2a3872fc2b958ed426dc8067f7fffffc24748eb3f80000000000001c298644c41c5f0dcc116f8037f7fffffbf8000004289f3cec2beda91c2b1331b000000013f8000007fc00001c2ad974d419990fa7f7fffffc23cf3517f800000c220f809),
          (4, 0x42b6c11140490fdbc22f5180c1da825a420336fa425beb21c1dde0c680000001000000013f80000041cb24da800000017f80000000000001c211d694000000018000000141c0a4a700000001bf8000003f800000c189e257c292e3a340490fdbff8000000000000100800000bf8000007fc000017f7fffffc19694447f7fffff),
          (5, 0x42ae7d6c41bad946c18562f94208afc8c2a8771ec22db6a4428d8abbc1dcc0f4c27113d342c014f9c28f41b8c2048752c1d92917c120b0e44292c9e1c28302c342a8eeecc192731642af018ec1f711aec234e644c1e57cab420ae9173d8f0051c228f054c2350d4ac20b46ab425af93fc0a47494428cba93c2808a4dc1ffe1f1)],
    k := [(1, 0xf7108e96f770c2263266aa3bb0cde917f7f35634f0e3cd972e81d66d346c6e2ba02fdaa1ad864c44e049548e8a0a8c9632ea6928f6236bf2504b74ba4a0fe75d)] }

/-- A strand that holds them. -/
def vuser : Strand := { user with regs := vregs }

/-- A strand with addresses of its own scratch, strides -8, 1 and 0, offsets in v8, and bit pointers. -/
def vmem : Strand :=
  { vuser with regs := { vregs with
      g := [(15, 0x8000000000000040), (14, 0x8000000000000300), (2, 0xFFFFFFFFFFFFFFF8), (3, 1), (4, 0)],
      bp := [(1, 0x85), (2, 0x3FFFFF)],
      v := vregs.v ++ [(8, (List.range 32).foldl (fun x j => x + BitVec.ofNat 1024 (4 * (j % 3) * 2 ^ (32 * j))) 0)],
      k := [(1, 0xf7108e96f770c2263266aa3bb0cde917f7f35634f0e3cd972e81d66d346c6e2ba02fdaa1ad864c44e049548e8a0a8c9632ea6928f6236bf2504b74ba4a0fe758)] } }

/-- The core of that strand, with bytes in scratch. -/
def vmemS : State := oneOn { coreOf vmem with scratch := (List.range 128).map fun j => (0x40 + 2 * j, BitVec.ofNat 8 (3 * j + 1)) }

/-- A strand with checksums in c0 to c3. -/
def ckS : State := one { vuser with regs := { vregs with
  g := [(1, 5), (9, 4), (10, 0x3F80000040000003), (11, 0x3F800000), (12, 0x00000001), (13, 0x40400000)],
  c := [(0, 0x7F8000007F800000), (1, 0x4B00000040000000), (2, 0x3F80000040000000), (3, 0x3F80000040000005)] } }

/-- Its checksums are smaller. -/
def ckF : State := one { vuser with regs := { vregs with
  g := [(11, 0x3F800000), (12, 0x00000001), (13, 0x40400000)], c := [(1, 0x4B00000040000000), (2, 0x4B00000040400000)] } }

/-- Four strands hold leases, and some wait for one. -/
def leaseS (l : Bool) (q : List Nat) : State :=
  oneOn { kbg with strands := [(0, { vuser with vl := l }), (1, { user with vl := true }), (2, { user with vl := true }), (3, { user with vl := true }), (4, { user with vl := true })], leaseq := q }

/-- Four strands hold leases, the strand in slot 0 one of them, and some wait for one. -/
def leaseS2 (q : List Nat) : State :=
  oneOn { kbg with strands := [(0, vuser), (1, { user with vl := true }), (2, { user with vl := true }), (3, { user with vl := true }), (9, { user with st := .parked .lease, vl := false, pc := 0x700 })], leaseq := q }

/-- A B descriptor: tag, geometry, depth and width. -/
def bdesc (tag geom k nout : Nat) : Word := BitVec.ofNat 64 (tag + geom * 2 ^ 40 + k * 2 ^ 42 + (nout - 1) * 2 ^ 53)

/-- An MTILE word. -/
def mtileWord (m : Nat) (acc drain bar aq : Bool) (hidx stride : Nat) : Word :=
  BitVec.ofNat 64 (m + acc.toNat * 2 ^ 16 + drain.toNat * 2 ^ 17 + bar.toNat * 2 ^ 18 + aq.toNat * 2 ^ 19 + hidx * 2 ^ 20 + stride * 2 ^ 32)

/-- A strand that uses the matrix unit: an address, B descriptors and MTILE words in its g registers. -/
def mxUser (fmtb : BitVec 5) : Strand :=
  { user with fmtb := fmtb, scla := 5, lid := 3, regs := { Regs.zero with g :=
      [(1, 0x8000000000000100), (2, bdesc 0x1234 1 512 512), (3, bdesc 0x1234 1 513 512), (4, mtileWord 32 true false true false 7 64),
       (5, mtileWord 33 true false true false 7 64), (6, 0xABC), (7, mtileWord 33 false true false true 7 64), (8, bdesc 0 2 1024 32), (9, mtileWord 0 false true true false 0 0)] } }

/-- A resident B of I8 cells. -/
def resB : Resident := { tag := 0x77, geom := 2, k := 9, nout := 2, fmtb := 0, flag := true, cells := (List.range 9).map fun i => [(i : Int) - 4, 127] }

/-- A load in progress of 16 columns of I8, nothing received. -/
def loadB : Load := ⟨none, 0x55, 1, 2, 3, 0, 1, ⟨0, 0⟩, []⟩

/-- Core 0 with a matrix unit and queue registers. -/
def mx (m : Matrix) (t : Strand) (q : Tab QBind) : State := oneOn { coreOf t with matrix := m, queues := q }

/-- An idle unit that holds B and a valid bank. -/
def mxHolds : Matrix := { Matrix.reset with res := some resB, bank := List.replicate 32 [5, -6], bnout := 2, accv := true, rows := 65535, fault := 0x12, fmtf := true }

/-- The same, in split execution. -/
def mxFaults : State := { mx mxHolds (mxUser 9) [] with split := true }

/-- A row handler's strand. -/
def rowStrand : State := { mx mxHolds (mxUser 9) [] with cores := [(0, { kbg with strands := [(17, { mxUser 9 with vl := false })] })], cur := ⟨0, 17⟩ }

/-- An operation of M rows on A from the port. -/
def mxOp (acc drain aq : Bool) (m next passed : Nat) : Tile :=
  { tile1 with m := m, acc := acc, drain := drain, aq := aq, next := next, passed := passed, asrc := 0x2000000000000000, bar := some (5, 2), hidx := 4095 }

/-- It runs on that B, with words at its port. -/
def mxRuns (x : Tile) : Matrix := { mxHolds with tile := some x, porta := [0x0102030405FF7F80, 0x80, 0x33] }

/-- A row of its results. -/
def mxBuf (r : Nat) : RowBuf := { r := r, sums := (List.range 40).map fun i => (i : Int) - 7, vals := (List.range 40).map (BitVec.ofNat 32), started := false, strips := 0 }

/-- A row is in its buffer, and the core has a handler table. -/
def mxRow : State := oneOn { coreOf (mxUser 9) with
  matrix := { mxRuns (mxOp false true true 4 2 1) with bufs := [(1, mxBuf 1)] }, htbase := 0x8000000000000FFF, scratch := [(0x7FF8, 1), (0x7FF9, 1)] }

/-- The handler of a row runs in slot 18. -/
def mxHandler : State := { oneOn { kbg with strands := [(18, { mxUser 9 with row := some 1, vl := false })], matrix := { mxRuns (mxOp false true true 4 2 1) with bufs := [(1, mxBuf 1)] } } with cur := ⟨0, 18⟩ }

/-- An operation, in split execution. -/
def mxEnds (x : Tile) : State := { mx (mxRuns x) (mxUser 9) [] with split := true }

/-- A WARM word: K, mode, rows, columns, slice, barrier core. -/
def warmWord (k mode rows cols sl : Nat) (bar : Option (Nat × Nat)) : Word :=
  BitVec.ofNat 64 (k + mode * 2 ^ 24 + (rows - 1) * 2 ^ 26 + (cols - 1) * 2 ^ 31 + sl * 2 ^ 36 + match bar with
    | some (c, n) => 2 ^ 45 + c * 2 ^ 46 + n * 2 ^ 55
    | none => 0)

/-- The tile in slot 7 of slice 3: K 100, two rows of three, a barrier on core 5. -/
def tileW (mode : WaleMode) (st : WaleSt) (exts : List (Nat × Nat)) : Wale :=
  { Wale.empty with gen := 5, st := st, mode := mode, k := 100, exts := exts, rows := 2, cols := 3, job := 1, lid := 3,
                    bar := some (5, 2), data := [0x3F800000, 0x40000000, 0, 0x40400000, 0x3F800000, 0x80000000] }

/-- A strand with values to add, the machine with that tile. -/
def waleS (w : Wale) : State :=
  { one { vuser with regs := { vregs with g := [(1, warmWord 100 1 2 3 3 (some (0, 2))), (2, handle 5 7 3), (3, 10 + 20 * 2 ^ 24 + 2 ^ 48)] } } with wales := [(199, w)] }

/-- The word of an interval. -/
def ivWord (lo hi kind : Nat) : Word := BitVec.ofNat 64 (lo + hi * 2 ^ 24 + kind * 2 ^ 48)

/-- Its slice has every slot in use. -/
def waleFull : State := { waleS Wale.empty with wales := (List.range 64).map fun j => (192 + j, tileW .arrive .dead []) }

/-- Slots 0, 3 and 4 of the slice are in use. -/
def walePair : State := { waleS Wale.empty with wales := [(192, tileW .arrive .dead []), (195, tileW .arrive .dead []), (196, { tileW .exact .opened [] with gen := 9 }), (198, { Wale.empty with gen := 4 }), (199, { Wale.empty with gen := 6 })] }

/-- A tile with one staged contribution. -/
def staged1 : Wale := { tileW .order .opened [(0, 10), (20, 30)] with staged := [(20, 30, [1, 2, 3, 4, 5, 6])] }

/-- A slice with 16 staged contributions. -/
def staged16 : Wale := { tileW .order .opened [(0, 10)] with staged := List.replicate 16 (50, 60, [1]) }

/-- Wale operations leave their core. -/
def waleSplit (w : Wale) : State := { waleS w with split := true }

/-- A strand waits for the answer of operation 9. -/
def waleWaits (w : Wale) (op : WaleOp) (l : La) : State :=
  { oneOn (coreOf { vuser with st := .waiting (.wale 9) }) with wales := [(199, w)], wreqs := [(9, ⟨0, 0, 1, 3, 4, l, op⟩)], split := true }

/-- A strand parked for the tile. -/
def waleParked (w : Wale) : State :=
  { oneOn (coreOf { vuser with st := .parked (.wale (handle 5 7 3)) }) with wales := [(199, w)], split := true }

/-- A tile-task record. -/
def ttWords (tag fmtb m : Nat) (acc drain : Bool) (bar : Nat) (dep : Word) : List Word :=
  [0x8000000000000400, bdesc tag 1 9 2 + BitVec.ofNat 64 (fmtb * 2 ^ 32), 0x8000000000000600,
   BitVec.ofNat 64 (m + 9 * 2 ^ 16 + acc.toNat * 2 ^ 24 + drain.toNat * 2 ^ 25 + 64 * 2 ^ 32), 0x100000002, dep,
   BitVec.ofNat 64 (7 + bar * 2 ^ 12 + 3 * 2 ^ 21 + 2 ^ 26), 0xABC]

/-- A strand that names the words at 0x100 of its scratch, a misaligned address, a ticket and a number that is none. -/
def ttUser : Strand := { user with lid := 3, regs := { Regs.zero with g :=
  [(1, 0x8000000000000100), (2, 0x8000000000000104), (3, 0x105), (4, 0x10000), (5, 0xFFFF)] } }

/-- Its core with those words, and a scheduler. -/
def ttS (ws : List Word) (x : Sched) : State := { oneOn { coreOf ttUser with scratch := wordsAt 0x100 ws } with scheds := [(0, x)] }

/-- A held task. -/
def ttTask (t : BitVec 16) (ws : List Word) : Task := ⟨t, ws, 0, 1, 3⟩

/-- A scheduler that holds 64. -/
def ttFull : Sched := ⟨List.replicate 64 (ttTask 9 (ttWords 0x77 0 4 false true 0 0)), 0x108, []⟩

/-- A scheduler with two tasks. -/
def ttTwo (tag : Nat) : Sched := ⟨[ttTask 0x105 (ttWords tag 0 4 false true 0 0), ttTask 0x106 (ttWords 0 0 4 false true 0 0)], 0x107,
  [(0x104, ⟨2, true, 5⟩), (0x105, ⟨0, false, 0⟩), (0x106, ⟨0, false, 0⟩)]⟩

/-- Core 1's unit holds the B of the record. -/
def ttRun (tag : Nat) : State :=
  { bg with cores := [(0, coreOf user), (1, { kbg with matrix := { mxHolds with res := some { resB with geom := 1 } } })], scheds := [(0, ttTwo tag)] }

/-- A record's header. -/
def hdr (hidx argc kind vn dest : Nat) : Word := BitVec.ofNat 64 (hidx + argc * 2 ^ 24 + kind * 2 ^ 27 + vn * 2 ^ 28 + dest * 2 ^ 30)

/-- The eight words of a record with header h. -/
def recWords (h : Word) : List Word := [h, 1, 2, 3, 4, 5, 6, 7]

/-- A record to send at 0x100. -/
def sendS (h : Word) (f : Core → Core) : State :=
  oneOn (f { coreOf ttUser with scratch := wordsAt 0x100 (recWords h) })

/-- A message strand that handles a record of core 0 answers. -/
def replyS (h : Word) : State :=
  { oneOn { kbg with strands := [(16, { ttUser with sender := some 0 })], scratch := wordsAt 0x100 (recWords h) } with cur := ⟨0, 16⟩ }

/-- A record as it is sent. -/
def rec1 (hidx kind vn dest : Nat) : Rec := [hdr hidx 2 kind vn dest + 0x3000 + 0x1000000000000, 11, 22, 0, 0, 0, 0, 0]

/-- It is on its way to core 0. -/
def mail1 (kind vn : Nat) : Mail := ⟨7, 0, 0, vn = 1, rec1 5 kind vn 0 ++ [2, 0x100000009, 0x10000000003]⟩

/-- The machine with that. -/
def mailS (kind vn : Nat) : State := { one user with mails := [{ mail1 kind vn with id := 8, body := rec1 6 kind vn 0 ++ [0x100000009, 0x10000000004] }, mail1 kind vn] }

/-- A message strand of core 0 and one of core 1, each BLOCKED on a full queue of requests to the other. -/
def stuckS : State :=
  let k (d : Nat) : Core := { kbg with strands := [(16, { user with st := .blocked })], sendq := [(0, List.replicate 16 (rec1 5 0 0 d))] }
  { one user with cores := [(0, k 1), (1, k 0)] }

/-- Its core is fenced. -/
def mailShut : State := { mailS 0 0 with hoods := [{ hood1 with st := .fenced }], split := true }

/-- A core with a handler table of 8 entries at 0x8000 of its scratch, a mailbox and a deque. -/
def startS (mb : Tab (List Rec)) (dq : List DqEnt) : State :=
  { oneOn { Core.reset with htbase := 0x8000000000008007, mbox := mb, deque := dq, scratch := [(0x8028, 0x45), (0x8029, 0x12), (0x8030, 0x46)] } with split := true }

/-- A record's handler has a number that the table does not have. -/
def recBad : Rec := [hdr 8 2 0 0 0, 11, 22, 0, 0, 0, 0, 0]

/-- A spilled deque. -/
def spillS : State := oneOn { coreOf user with deque := [], dspill := (List.range 66).map fun i => .one [word i] }

/-- Job 1 with one launch. -/
def jobOf (k : Counter) : Job := { Job.fresh [1] [2] 0xE000000010000000 0x10000 0 0 with launches := [(3, ⟨k, 1, [], none⟩)] }

/-- A strand of launch 3 that has an address of code, an argument, numbers of cores and words for CNTARM. -/
def spawner : Strand := { user with lid := 3, regs := { Regs.zero with g :=
  [(1, 0xFFFFFFFFFFFFFFFC), (2, 0x1234), (3, 0x2002), (4, 1), (5, 512), (6, 0x8000000000000100), (7, 0xFFFFFFFF00000B1A), (8, 0x200000), (9, 0x8000000000000104), (10, 0x105), (13, 0x01050B0A)] } }

/-- Its core, in split execution, with that job. -/
def spawnS (k : Counter) : State :=
  { oneOn { coreOf { spawner with mon := some (4, true) } with strands := [(0, { spawner with mon := some (4, true) }), (1, { user with st := .waiting .trapHold }), (3, user)], scratch := wordsAt 0x100 [hdr 5 2 0 0 7, 1, 2, 3, 4, 5, 6, 7] } with jobs := [(1, jobOf k)], split := true, waits := [(false, 4, 0, 0), (false, 4, 1, 0)] }

/-- All general slots of its core are in use. -/
def spawnFull : State := oneOn { kbg with strands := (List.range 16).map fun n => (n, spawner) }

/-- A strand in slot 16. -/
def slot16S : State := { oneOn { kbg with strands := [(16, spawner)] } with cur := ⟨0, 16⟩ }

/-- A message strand whose header is bad for CNTARM. -/
def armBad : State := oneOn { coreOf spawner with scratch := wordsAt 0x100 [hdr 5 2 0 1 7, 1, 2, 3, 4, 5, 6, 7] }

/-- A strand with that word in g2, and a record. -/
def armS (w : Word) : State :=
  oneOn { coreOf { spawner with regs := { Regs.zero with g := [(2, w), (6, 0x8000000000000100)] } } with scratch := wordsAt 0x100 [hdr 5 2 0 0 7, 1, 2, 3, 4, 5, 6, 7] }

/-- A wake on its way. -/
def wakeS (st : SlotSt) : State :=
  { oneOn (coreOf { spawner with st := st, strid := 99 }) with packets := [⟨4, 1, 9, 0, .wake 1 99⟩] }

/-- A page of virtual memory: 0x200000 leads to 0x40000, type SC. -/
def virtS (t : Strand) : State := { one t with xlates := [⟨33, 1, 0x20, 0x400B9, 0, 7⟩], mem := [(0x40012, 0x34), (0x40013, 0x92)] }

/-- Bank 9 of core 0 is in cache mode. -/
def withCache (s : State) : State := { s with cores := s.cores.put 0 { s.core 0 with banks := (s.core 0).banks.put 9 .cache } }

/-- A strand that reads it. -/
def virtUser : Strand := { user with regs := { user.regs with g := [(4, 0x200010)] } }

/-- The migration of the strand in slot 0 to core 1. -/
def move1 (sent : Bool) (ok : Option Bool) : Move := ⟨0, 0, 1, false, sent, ok⟩

/-- It is in flight, the job's hood two clusters wide. -/
def moveS (sent : Bool) (ok : Option Bool) (dst : Core) : State :=
  { bg with cores := [(0, coreOf { spawner with st := .moving 1, intrap := true, wtok := true, frm := .rup, vl := false, regs := { spawner.regs with fmtbad := true, srseed := 5, bp := [(2, 0x77)] } }), (1, dst)], moves := [move1 sent ok, ⟨0, 3, 1, true, true, none⟩] }

/-- A core whose lowest FREE slot is 1. -/
def slot1Free : Core := { Core.reset with strands := [(0, user), (3, user)] }

/-- A core with none. -/
def noneFree : Core := { Core.reset with strands := (List.range 16).map fun n => (n, user) }

/-- A LAUNCH descriptor: COUNT, HIDX, graph, destination, the third word. -/
def launchDesc (count hidx g dst : Nat) (w2 : Word) : List Word :=
  [BitVec.ofNat 64 (count + hidx * 2 ^ 32 + g * 2 ^ 44 + dst * 2 ^ 52), 0x1000, w2, 0x20, 4, 5, 6, 7]

/-- A job with launches 0 and 2 of graphs 1 and 2, graph 1 live. -/
def jobLive : Job := { Job.fresh [1] [2] 0xE000000010000000 0x10000 0 0 with
  launches := [(0, ⟨⟨5, false, false, false⟩, 1, [], none⟩), (2, ⟨⟨5, false, false, false⟩, 2, [], none⟩)], graphs := [(1, ⟨⟨2, false, false, false⟩, 1⟩)],
  ctr := .start 2, phases := [(1, ⟨.start 3, false, true⟩)] }

/-- A core with a descriptor, of that job. -/
def launchS (d : List Word) : State := { oneOn { coreOf ttUser with scratch := wordsAt 0x100 d } with jobs := [(1, jobLive)] }

/-- A launch that waits for another, and one that waits for none. -/
def placeS (w : List Nat) : State := { one user with jobs := [(1, { jobLive with launches := [(0, ⟨⟨5, false, false, false⟩, 1, w, some (0, .one [0x1000000000009])⟩)] })] }

/-- A strand with selectors in g1 to g6. -/
def unitUser : Strand := { user with regs := { Regs.zero with g := [(1, 2), (2, 0x4000000000000001), (3, 0x8000000000000000), (4, 0xC000000000000000), (5, 0x1000), (6, 7), (7, 1)] } }

/-- It runs in a job. -/
def unitS (j : Job) : State := { one unitUser with jobs := [(1, j)], split := true }

/-- The job's phase has one member left. -/
def jobLast : Job := { jobLive with phases := [(1, ⟨.start 1, false, true⟩)], log := [⟨1, 1, 1, [], 0, 1, 0, true⟩, ⟨1, 1, 2, [], 0, 2, 0, true⟩] }

/-- Something is on its way to launch 2. -/
def ctrS (e : CountEv) (k : Counter) : State :=
  { oneOn { coreOf { unitUser with lid := 2 } with deque := [.one (rec1 5 1 0 0), .one [0x0001000000002000], .range 0x0001000000002000 1 2 3 4 5 []], strands := [(0, { unitUser with lid := 2 }), (3, { unitUser with lid := 2, st := .parked (.join .launch 2 6 0) }), (4, { unitUser with lid := 3, st := .parked (.join .launch 2 6 2) })] } with
    jobs := [(1, { jobLive with launches := [(2, ⟨k, 1, [], none⟩)] })], ctrs := [⟨1, .launch, 9, .dec⟩, ⟨1, .launch, 2, e⟩], split := true }

/-- A strand whose g registers hold journal indices, addresses and lengths. -/
def msUser : Strand := { user with strid := 7, regs := { Regs.zero with g := [(1, 5), (2, 64), (3, 0x200040), (4, 0x40), (5, 0x21), (6, 0)] } }

/-- Its core, with the page at 0x200000 and journal entry 5. -/
def msS (e : JEnt) (t : Strand) : State :=
  { oneOn { coreOf t with journal := [(5, e)], mslen := 0x80 } with xlates := [⟨33, 1, 0x20, 0x400B9, 0, 7⟩], brim := { State.reset.brim with budget := 0x1000 } }

/-- Tables for job 1: 0x200000 is a WO page in frame 7. -/
def tabled (t : Strand) (e : Word) : State :=
  { oneOn { coreOf t with jtbase := 0xE000000000020000, fatbase := 0xE000000000080000 } with
    mem := Memory.write (Memory.write (Memory.write (Memory.write (Memory.write (Memory.write [] 0x20040 8 0x30000) 0x30000 8 0x40001) 0x40000 8 0x50001) 0x50008 8 0x60001) 0x60000 8 e.toNat) 0x80000 8 0x8000,
    written := [(0xE00, 7), (0xE01, 9)] }

/-- A supervisor strand with operands for XLINV, ATTRSET and SEAL. -/
def pageUser : Strand := { super with regs := { Regs.zero with g := [(1, 0x200010), (2, 0x10001), (3, 0x40000), (4, 0xE000000000070000), (5, 2), (6, 0xE000000000070001), (7, 2 ^ 61), (8, 0x210000), (9, 2 ^ 47)] } }

/-- A strand waits for a change of pages; other cores hold lines and translations. -/
def pageWait (w : Wait) : State :=
  { tabled { pageUser with st := .waiting w } 0x7009D with
    xlates := [⟨33, 1, 0x20, 0x7009D, 0, 7⟩, ⟨289, 1, 0x20, 0x7009D, 0, 8⟩, ⟨65, 1, 0x40, 0x7009D, 0, 9⟩, ⟨34, 2, 0x20, 0x7009D, 0, 10⟩],
    cores := [(0, { coreOf { pageUser with st := .waiting w } with fatbase := 0xE000000000080000, jtbase := 0xE000000000020000, lines := [{ rcLine with va := 0x200080, frame := 0x70000 }, { rcLine with va := 0x300080, frame := 0x90000 }] }),
      (4, { kbg with lines := [{ rcLine with va := 0x200080, frame := 0x70000, ty := .ip, dirty := 3 }, { rcLine with va := 0x200080, job := 2, frame := 0x70000 }] })] }

/-- A strand waits for a change of pages, no line being held. -/
def pageBare (w : Wait) : State := tabled { pageUser with st := .waiting w } 0x7009D

/-- A grant descriptor. -/
def grantDesc (base len dev job : Nat) (rwa : Nat) : List Word :=
  [BitVec.ofNat 64 base, BitVec.ofNat 64 len, BitVec.ofNat 64 (dev + job * 2 ^ 12 + rwa * 2 ^ 28), 0]

/-- A live grant. -/
def grant1 : Grant := ⟨0x10000, 0x20000, 9, 5, true, false, false, true, false⟩

/-- A strand with a descriptor, its job with grants 0 and 1. -/
def grantS (d : List Word) : State := { oneOn { coreOf { ttUser with regs := { ttUser.regs with g := [(1, 0x8000000000000100), (2, 0x8000000000000104), (3, 1), (4, 0x1000), (5, 5)] } } with scratch := wordsAt 0x100 d } with
  jobs := [(1, { jobLive with grants := [(0, grant1), (1, { grant1 with revoked := false })] })] }

/-- Every index is in use. -/
def grantFull : State := { grantS (grantDesc 0x10000 0x20000 9 5 5) with jobs := [(1, { jobLive with grants := (List.range 480).map fun i => (i, grant1) })] }

/-- A grant under way, a strand waiting for it. -/
def grantWait (g : Grant) (w : Wait) : State := { one { user with st := .waiting w } with jobs := [(1, { jobLive with grants := [(3, grant1), (1, g)] })] }

/-- The payload of words. -/
def payOf (ws : List Word) : List Byte := ws.flatMap fun w => leBytes 8 w.toNat

/-- A job whose tables are those of `tabled`. -/
def jobCmd : Job := { jobLive with jtbase := 0xE000000000020000, fatbase := 0xE000000000080000, nextSeq := 5, graphs := [], hostwins := [(7, ⟨1, 2, 3, true, false, false, 4, 0, false⟩)] }

/-- A command of the job's host. -/
def cmdOf (seq : Nat) (p : List Byte) : Cmd := ⟨2, [1], 1, seq, p⟩

/-- A command of the host that sent JOBNEW. -/
def cmdBy (seq : Nat) (p : List Byte) : Cmd := ⟨2, [2], 1, seq, p⟩

/-- The front end serves that job. -/
def cmdS (j : Job) : State := { tabled user 0x7009D with jobs := [(1, j)], brim := { State.reset.brim with st := .idle }, milliner := { State.reset.milliner with hot := false } }

/-- The payload of a JOBNEW with a key of three bytes. -/
def jobnewPay (n : Nat) : List Byte := payOf [0xE000000010000000, BitVec.ofNat 64 n, 0xE000000000020000, 0xE000000000080000, 3] ++ [9, 8, 7, 0, 0, 0, 0, 0]

/-- The payload of a HOODSET or CREGSET. -/
def blockPay (w : Word) : List Byte := payOf [w, 0xE000000000004007, 0x8000000000007FFF, 0xE000000000020000, 0xE000000000080000, 0x123, 0]

/-- The payload of a COLLSET. -/
def collPay (core : Nat) : List Byte := payOf [BitVec.ofNat 64 (3 + 2 * 2 ^ 5 + 1 * 2 ^ 18), 0x10 + 32 * 4, 0x400, BitVec.ofNat 64 (core + 31 * 2 ^ 9), 5, 0xFFF]

/-- A hood of another job in the way. -/
def hoodElse : State := { cmdS jobCmd with hoods := [{ hood1 with job := 9, row := 1, col := 2 }] }

/-- An access of the strand in slot 0 of core 0. -/
def accOf (k : AccKind) (st : Stage) (n : Nat) (ad : Word) : Access := ⟨0, 0, 1, false, ⟨0xE000000000020000, 0xE000000000080000⟩, k, ad, n, .plain, .clu, st⟩

/-- A load through host window 7 is in flight. -/
def hostBusyS (j : Job) : State := { cmdS j with accs := [(9, accOf (.load false) .outside 4 0xC000070000000010)] }

/-- Its strand, which waits for nothing else. -/
def flyer : Strand := { user with pc := 0x104, vl := false, outs := [{ acc := some 9, pc := 0x100, dst := some 6, val := none, left := 0, snap := user.regs, prior := [], full := false, fault := none }] }

/-- It is in flight. -/
def flyS (a : Access) : State :=
  { tabled flyer 0x7009D with accs := [(9, a)], cores := [(0, { coreOf flyer with jtbase := 0xE000000000020000, fatbase := 0xE000000000080000 }), (1, { kbg with strands := [], scratch := [(0x10, 0xFE), (0x11, 0xFF), (0x12, 1), (0x13, 0x80), (0x14, 9)] })], split := true }

/-- Memory where it reads. -/
def flyMem (a : Access) : State := { flyS a with mem := (flyS a).mem.write 0x70010 4 0x80000002 }

/-- A store in flight. -/
def flyStore : State := { bg with accs := [(9, accOf (.store 0xABCD) (.home 0x70010 .sc (2 ^ 64)) 2 0x200010)], split := true, cores := [(0, coreOf { user with vl := false })] }

/-- A packet's job. -/
def linkS : State := { cmdS jobLive with ports := [(2, ⟨5, 6, 7⟩)] }

/-- The job has two notices. -/
def noticed : State := { linkS with jobs := [(1, { jobLive with notices := [⟨4, 7, 0x100, true, false, false, false⟩, ⟨5, 7, 0x100, true, false, false, false⟩] })] }

/-- Job 1 has granted a window of its page at 0x200000 to job 5 of device 9. -/
def peerS (g : Grant) : State := { cmdS { jobCmd with grants := [(3, g)] } with mem := ((tabled user 0x70099).mem.write 0x80000 8 0).write 0x70010 4 0x12345678 }

/-- The same with another entry of the page table and of the frame table. -/
def peerP (g : Grant) (e fat : Nat) : State := { peerS g with mem := ((peerS g).mem.write 0x60000 8 e).write 0x80000 8 fat }

/-- That window. -/
def gwin : Grant := ⟨0x200000, 0x20000, 9, 5, true, true, false, true, false⟩

/-- A core that looks for work, its slot 0 FREE. -/
def thiefS (t : Thief) : State := { bg with cores := [(0, { kbg with thief := t })] }

/-- The same, with hoods on two other dies. -/
def thiefFar (t : Thief) : State := { thiefS t with hoods := [hood1, { hood1 with tower := 1, col := 4 }, { hood1 with tower := 3, row := 4 }] }

/-- A victim that has been asked. -/
def victimS (q : List DqEnt) (job : BitVec 16) : State := { bg with cores := [(3, { kbg with strands := (List.range 16).map fun n => (n, user), deque := q, asked := [(0, job, false)] })] }

/-- A victim with a FREE slot that has been asked. -/
def victimFree (q : List DqEnt) (job : BitVec 16) : State := { bg with cores := [(3, { kbg with deque := q, asked := [(0, job, false)] })] }

/-- An answer to a thief with a handler table. -/
def grantedS (f : Flit) (remote : Bool) : State :=
  { bg with cores := [(0, { kbg with htbase := 0x8000000000008007, scratch := [(0x8028, 0x45), (0x8029, 0x12)], thief := { Thief.reset with last := some 3, out := some (3, remote), tried := 4, lastDie := some 2 } })], packets := [⟨7, 1, 3, 0, f⟩] }

/-- The same when the answer has been taken. -/
def grantTaken : State :=
  { grantedS .empty true with cores := [(0, { kbg with htbase := 0x8000000000008007, scratch := [(0x8028, 0x45), (0x8029, 0x12)], thief := { Thief.reset with last := some 3, out := none, tried := 0, backoff := some 256, lastDie := some 2 } })], packets := [] }

/-- A stage ring at 0x200000 with the record 5, whose stage is that of core 0. -/
def ringS : State :=
  { tabled user 0x700B9 with
    mem := ([0x200400, 4 + 7 * 2 ^ 32, 5, 6, 1 + 3 * 2 ^ 32].zipIdx.foldl (fun m x => m.write (0x70000 + 8 * x.2) 8 x.1)
      (((tabled user 0x700B9).mem.write 0x80000 8 0).write 0x70440 8 (hdr 5 2 0 0 0).toNat)).write 0x70448 8 11,
    cores := [(0, { Core.reset with stageasn := 0x107, jtbase := 0xE000000000020000, fatbase := 0xE000000000080000, htbase := 0x8000000000008007, scratch := [(0x8028, 0x45), (0x8029, 0x12)] })],
    weavers := [(0, { Weaver.reset with rings := [(2, 0x1000000200001)], seen := [(2, 0x1000000200001)] })], waits := [] }

/-- Its ring. -/
def ringR : Ring := (ringS.ring 0 2).getD ⟨0, 0, 0, 0, 0, 0, 0, 0⟩

/-- The same once HEAD is incremented. -/
def ringInc : State := ((ringS.incHead 0 1 ringR).map Prod.fst).getD ringS

/-- Core 0 works for stage 8 and core 1 too; two rings, of stages 7 and 8. -/
def weaverS : State :=
  { ringS with
    cores := [(0, { Core.reset with stageasn := 0x108, jtbase := 0xE000000000020000, fatbase := 0xE000000000080000 }), (1, { Core.reset with stageasn := 0x108 })],
    mem := [0x200400, 4 + 8 * 2 ^ 32, 6, 6, 1 + 3 * 2 ^ 32].zipIdx.foldl (fun m x => m.write (0x70080 + 8 * x.2) 8 x.1) (ringS.mem.write 0x70018 8 9),
    weavers := [(0, { Weaver.reset with rings := [(2, 0x1000000200001), (4, 0x1000000200081)], seen := [(2, 0x1000000200001), (4, 0x1000000200081)], samples := 3, starved := [0x10008], congested := [0x10007], due := true })] }

/-- A core whose counters are sampled. -/
def sampleS (as : Tab Arm) : State := { bg with cores := [(0, { kbg with due := true, window := (77, 900), refusals := 3, arms := as, issued := 78, deque := [.one [], .one []], dspill := [.one []] })] }

/-- An arm on the deque's depth. -/
def arm1 (t : Nat) : Arm := ⟨false, 2, 9, t, [1, 2], 1, 3⟩

/-- A hood whose cores hold things. -/
def fenceS : State := { oneOn { coreOf user with deque := [.one [1]], copies := [copy1], mbox := [(0, [[1]])], scratch := [(5, 6)], leaseq := [] } with hoods := [hood1], cur := ⟨0, 0⟩ }

/-- In supervisor mode, with a second hood of the job. -/
def fenceTwo : State := { oneOn (coreOf super) with hoods := [hood1, { hood1 with tower := 2 }], jobs := [], moves := [], preempts := [] }

/-- A hood in a state, with a register block. -/
def hoodIn (st : HoodSt) (e : Bool) : State := { oneOn { coreOf user with asked := [(9, 1, false)] } with hoods := [{ hood1 with job := 2, col := 4 }, { hood1 with st := st, ending := e, block := ⟨0xE000000000001003, 0x8000000000007FFF, 3, 4, 5⟩ }], jobs := [(1, jobLive)] }

/-- The source of a pre-emption: a strand with an open window, one with nothing outstanding. -/
def preSrc : Core :=
  { Core.reset with
    strands := [(0, { user with vl := false, outs := [{ acc := none, pc := 0xFC, dst := some 6, val := some 77, left := 2, snap := user.regs, prior := [], full := false, fault := none }] }), (2, super)],
    scratch := [(3, 4)], deque := [.one [5]], issued := 4, asked := [(9, 1, false)], thief := { Thief.reset with tried := 2 } }

/-- Core 1 is vacant. -/
def preS (p : List Preempt) (k d : Core) : State := { bg with cores := [(0, k), (1, d), (2, kbg)], preempts := p, moves := [], brim := { State.reset.brim with st := .idle } }

/-- A source that owes its one strand a trap. -/
def preOwed : Core := { Core.reset with strands := [(2, { super with traps := [⟨0x44, 5, none, 0x123, none⟩] })] }

/-- A source with nothing outstanding. -/
def preDone : Core := { preSrc with strands := [(2, super)], matrix := { mxHolds with again := some { tile1 with bar := none, fault := some 3 } } }

/-- A source in a replay. -/
def preReplay : Core := { preSrc with replay := some ⟨2, [5], 3, 1, 0, 1, 1, 1⟩ }

/-- Traffic to a core that forwards. -/
def fwdS : State := { bg with cores := [(1, { kbg with fwd := some 2 }), (2, { kbg with fwd := none })], mails := [⟨7, 3, 1, true, [5]⟩], packets := [⟨7, 1, 3, 1, .empty⟩] }

/-- The address of the go word of a collective. -/
def goAddr (c : Nat) : Word := BitVec.ofNat 64 (0xA000000000000000 + bg.device * 2 ^ 49 + (480 + c) * 2 ^ 40 + 0xFFFFFFFFF8)

/-- A collective of ranks, of one element. -/
def coll1 (op ty n : Nat) : Coll :=
  { rank := 1, devs := List.range n, op := op, ty := ty, arrival := false, count := 1, result := 0x8000000000000100, bcore := 0, bnum := 2, gen := 4,
    broken := false, buf := [(0, 7), (1, 0x80), (3, 0xC0)], gone := false, since := 0, bufp := [], parts := [] }

/-- Its go word is on its way. -/
def goS (x : Option Coll) (gen : Word) : State :=
  { bg with cores := [(0, { coreOf { user with st := .ready } with journal := [(5, { ent1 with lanes := [⟨goAddr 3, none, 0, false, 8, gen.toNat⟩] })] })], jobs := [(1, { jobLive with colls := match x with | some y => [(3, y)] | none => [] })] }

/-- Its contributions but one are there. -/
def collS (x : Coll) : State := { cmdS jobLive with jobs := [(1, { jobLive with colls := [(3, x)] })] }

/-- With the contributions of every other rank. -/
def collOthers (op ty : Nat) (vs : List Nat) (rank : Nat) : Coll :=
  { coll1 op ty vs.length with gone := true, parts := (vs.zipIdx.filter fun v => v.2 ≠ rank).map fun v => (5, v.2, some [v.1]) }

/-- The machine when the last one is there and the result written. -/
def collWritten (x : Coll) (p : Nat × Nat × Option (List Nat)) (w r : Nat) : State :=
  ((collS x).modColl 1 3 fun x => { x with parts := x.parts ++ [p] }).scrWrite 0 0x100 (leBytes w r)

/-- Readings of the 24 islands: one of a temperature, the others warm. -/
def readings (i t : Nat) : List Reading := (List.range 24).map fun j => ⟨if j = i then t else 40 * 8, 3 + j, 4, 5⟩

/-- The part is up, its islands at several clocks. -/
def platS (m : Milliner) (b : Brim) : State :=
  { one user with milliner := m, brim := b, islands := [(5, { Island.reset with set := 1600, mhz := 1200 }), (6, { Island.reset with set := 900, mhz := 600 })] }

/-- The milliner of a part that is up. -/
def millUp : Milliner := { State.reset.milliner with up := true, hot := false, log := [⟨1, 2, 3, []⟩], time := 50, minVer := 3 }

/-- A save store that is off, not busy. -/
def brimOff : Brim := { State.reset.brim with st := .off }

/-- It is idle. -/
def brimIdle : Brim := { State.reset.brim with st := .idle }

/-- A firmware slot. -/
def fwSlot (v : Nat) (ver : Bool) : FwSlot := ⟨[1, 2], [3], v, ver, !ver⟩

/-- Two candidates for a boot. -/
def bootS : State := { platS { millUp with slotA := some (fwSlot 4 true), slotB := some (fwSlot 5 false) } brimOff with mem := [(0x8000000000, 1), (0x9000000000, 2)], pois := [] }

/-- A save store with a directory of one entry, whose frame has a header and, as asked, its trailer. -/
def saved (trailer : Bool) : State :=
  let h (m : Memory) (x : Nat × Nat) : Memory := m.write x.1 8 x.2
  let hd := [(0x8000000000, 0x52494442 + 7 * 2 ^ 32), (0x8000000008, 1), (0x8000000040, 4 + 2 ^ 21 + 0x55 * 2 ^ 32 + 9 * 2 ^ 48),
    (0x8000000100, 0x4D495242 + 7 * 2 ^ 32 + 2 ^ 48), (0x8000000108, 9 + 0x55 * 2 ^ 32), (0x8000000118, 3)]
  let tr := [(0x8000000143, 0x4C494154 + 7 * 2 ^ 32), (0x800000014B, 9 + 0x55 * 2 ^ 32), (0x8000000153, (crc32c [0, 0, 0]).toNat)]
  { platS millUp brimOff with mem := (hd ++ if trailer then tr else []).foldl h [], pois := [] }

/-- Core 5 alone, the save store in a state. -/
def brimS (st : BrimSt) (k : Core) : State :=
  { bg with cores := [(5, k)], brim := { State.reset.brim with st := st, gen := 65535 }, jobs := [(1, { jobLive with pending := [(2, cmdOf 9 [])] })], moves := [], preempts := [], accs := [], waits := [], priv := [(3, [(1, 4)])], split := true, milliner := millUp }

/-- A core whose strand has declared a set. -/
def declKd : Core := { Core.reset with strands := [(0, user), (3, { user with strid := 9, outs := [] })], declarer := some 9 }

/-- An operation in its rows, with a barrier. -/
def opBar : Tile := { tile1 with bar := some (2, 3), fault := none }

/-- A core with one posted store. -/
def posted1 (l : Lane) : Core := { Core.reset with strands := [(0, user), (17, super)], journal := [(0, { ent1 with lanes := [l] })], scratch := [(0x11, 9), (0x13, 8)] }

/-- A dirty IP line. -/
def ipLine : Line := { rcLine with ty := .ip, frame := 0x70000, va := 0x200100, dirty := 0x5, data := (List.range 128).map (BitVec.ofNat 8) }

/-- A core that has declared 64 bytes at 0x200040, with the tables of job 1. -/
def declS : State :=
  { brimS .drained { Core.reset with msbase := 0x200040, mslen := 64, declarer := some 9, jtbase := 0xE000000000020000, fatbase := 0xE000000000080000 } with
    mem := ((tabled user 0x70099).mem.write 0x80000 8 0).write 0x70050 4 0x12345678, pois := [],
    hoods := [{ hood1 with col := 4 }] }

/-- What holds of the empty strand and of every strand a core lists holds of every slot. -/
theorem strands_all (s : State) (c : Nat) (P : Nat → Strand → Prop) (h0 : ∀ m, P m Strand.empty)
    (h : ∀ x ∈ (s.core c).strands, P x.1 x.2) (m : Nat) : P m (s.strand c m) := by
  unfold State.strand Core.strand
  generalize (s.core c).strands = l at h
  induction l with
  | nil => exact h0 m
  | cons x l ih =>
    rw [Tab.look_cons]
    split
    · next e => exact e ▸ h x (by simp)
    · exact ih fun y hy => h y (by simp [hy])

/-- Whether a strand is parked. -/
def isParked : SlotSt → Bool
  | .parked _ => true
  | _ => false

/-- Strands that are not parked, or owe nothing, are quiet waiters. -/
theorem quiet_waiters (s : State) (n : BarNo)
    (h : ∀ x ∈ (s.core s.cur.core).strands, isParked x.2.st = true → x.1 ≠ s.cur.slot ∧ x.2.outs = []) :
    Claims.WaitersQuiet s n := fun m _ _ _ e =>
  strands_all s s.cur.core (fun m t => isParked t.st = true → m ≠ s.cur.slot ∧ t.outs = [])
    (fun _ h => nomatch h) h m (by rw [e]; rfl)

end Sys2Proof.Tests
end

