-- ==== Sys2Proof/Tests/MeetsMachine.lean ====
section
/-! SUPPORT. For each clause of the statements about the command queue, accesses in flight, stealing, containment, the platform and reset: a state and operands that meet all its hypotheses. -/

set_option maxRecDepth 100000
set_option Elab.async false
set_option linter.unusedTactic false
set_option linter.unusedVariables false
set_option linter.unreachableTactic false
set_option linter.unnecessarySeqFocus false

open Sys2Proof Sys2Proof.Machine Sys2Proof.Claims

namespace Sys2Proof.Tests

/-- What the witness of `corep` runs on. -/
def at_corep := (cmdS { jobCmd with dones := [(3, 2, [7])] })

/-- What the witness of `corep` runs on. -/
def at_corep_2 := { jobCmd with dones := [(3, 2, [7])] }

/-- What the witness of `cofull` runs on. -/
def at_cofull := (cmdS { jobCmd with loglen := 15 })

/-- What the witness of `cofull` runs on. -/
def at_cofull_2 := { jobCmd with loglen := 15 }

/-- What the witness of `cr` runs on. -/
def at_cr := { cmdS jobCmd with hoods := [hood1] }

/-- What the witness of `jeno` runs on. -/
def at_jeno := { cmdS jobCmd with hoods := [], wales := [(9, tileW .exact .opened [])] }

/-- What the witness of `sr` runs on. -/
def at_sr := { cmdS jobCmd with cores := [], accs := [] }

/-- What the witness of `slr` runs on. -/
def at_slr := { cmdS jobCmd with hoods := [{ hood1 with st := .fenced }] }

/-- What the witness of `slr0` runs on. -/
def at_slr0 := (cmdS { jobCmd with phases := [(1, ⟨.start 1, false, true⟩)] })

/-- What the witness of `slr0` runs on. -/
def at_slr0_2 := { jobCmd with phases := [(1, ⟨.start 1, false, true⟩)] }

/-- What the witness of `slr1` runs on. -/
def at_slr1 := (cmdS { jobCmd with phases := [(1, ⟨.start 1, false, true⟩)], log := [⟨8, 1, 2, [5], 0, 1, 3, true⟩] })

/-- What the witness of `slr1` runs on. -/
def at_slr1_2 := { jobCmd with phases := [(1, ⟨.start 1, false, true⟩)], log := [⟨8, 1, 2, [5], 0, 1, 3, true⟩] }

/-- What the witness of `mmb` runs on. -/
def at_mmb := { cmdS jobCmd with mem := [(0x20048, 2)] }

/-- What the witness of `mlv` runs on. -/
def at_mlv := { cmdS jobCmd with mem := (tabled user 0x70099).mem.write 0x80000 8 0 }

/-- What the witness of `mss` runs on. -/
def at_mss := { cmdS jobCmd with mem := (tabled user 0x700DD).mem }

/-- What the witness of `mmw` runs on. -/
def at_mmw := { cmdS jobCmd with sealedAt := [(9, 1, 0x20)] }

/-! ### CommandOrder -/

theorem test_meets_commandOrder_conojob :
    commandOf { port := (2 : Fin 8), key := [1], job := 9, seq := 5, payload := [] : Cmd } (Instr.hoodset { port := (2 : Fin 8), key := [1], job := 9, seq := 5, payload := [] : Cmd }) = some 2 ∧
    (cmdS jobCmd).brim.st = BrimSt.idle ∧
    (cmdS jobCmd).milliner.hot = false ∧
    (cmdS jobCmd).job? { port := (2 : Fin 8), key := [1], job := 9, seq := 5, payload := [] : Cmd }.job = none :=
  by decide +kernel

theorem test_meets_commandOrder_coauth :
    commandOf { port := (2 : Fin 8), key := [3], job := 1, seq := 5, payload := [] : Cmd } (Instr.attest { port := (2 : Fin 8), key := [3], job := 1, seq := 5, payload := [] : Cmd }) = some 13 ∧
    (cmdS jobCmd).brim.st = BrimSt.idle ∧
    (cmdS jobCmd).milliner.hot = false ∧
    (cmdS jobCmd).job? { port := (2 : Fin 8), key := [3], job := 1, seq := 5, payload := [] : Cmd }.job = some jobCmd ∧
    { port := (2 : Fin 8), key := [3], job := 1, seq := 5, payload := [] : Cmd }.key ≠ jobCmd.key ∧
    { port := (2 : Fin 8), key := [3], job := 1, seq := 5, payload := [] : Cmd }.key ≠ jobCmd.creator :=
  by decide +kernel

theorem test_meets_commandOrder_corep :
    commandOf (cmdOf 3 []) (Instr.cntreadCore (cmdOf 3 [])) = some 11 ∧
    at_corep.brim.st = BrimSt.idle ∧
    at_corep.milliner.hot = false ∧
    at_corep.job? (cmdOf 3 []).job = some at_corep_2 ∧
    ((cmdOf 3 []).key = at_corep_2.key ∨ (cmdOf 3 []).key = at_corep_2.creator) ∧
    (List.find? (fun (x : Nat × BitVec 8 × List Byte) => decide (x.1 = (cmdOf 3 []).seq)) at_corep_2.dones = some (3, 2, [7])) :=
  by decide +kernel

theorem test_meets_commandOrder_coseq :
    commandOf (cmdOf 70 []) (Instr.launchCmd (cmdOf 70 [])) = some 7 ∧
    (cmdS jobCmd).brim.st = BrimSt.idle ∧
    (cmdS jobCmd).milliner.hot = false ∧
    (cmdS jobCmd).job? (cmdOf 70 []).job = some jobCmd ∧
    ((cmdOf 70 []).key = jobCmd.key ∨ (cmdOf 70 []).key = jobCmd.creator) ∧
    (∀ x ∈ jobCmd.dones, x.1 ≠ (cmdOf 70 []).seq) ∧
    ((cmdOf 70 []).seq < jobCmd.nextSeq ∨ jobCmd.nextSeq + 64 < (cmdOf 70 []).seq) :=
  by decide +kernel

theorem test_meets_commandOrder_cohold :
    commandOf (cmdOf 69 []) (Instr.launchCmd (cmdOf 69 [])) = some 7 ∧
    (cmdS jobCmd).brim.st = BrimSt.idle ∧
    (cmdS jobCmd).milliner.hot = false ∧
    (cmdS jobCmd).job? (cmdOf 69 []).job = some jobCmd ∧
    ((cmdOf 69 []).key = jobCmd.key ∨ (cmdOf 69 []).key = jobCmd.creator) ∧
    (∀ x ∈ jobCmd.dones, x.1 ≠ (cmdOf 69 []).seq) ∧
    jobCmd.pending = [] ∧
    jobCmd.nextSeq < (cmdOf 69 []).seq ∧
    (cmdOf 69 []).seq ≤ jobCmd.nextSeq + 64 :=
  by decide +kernel

theorem test_meets_commandOrder_cofull :
    commandOf (cmdOf 5 []) (Instr.launchCmd (cmdOf 5 [])) = some 7 ∧
    at_cofull.brim.st = BrimSt.idle ∧
    at_cofull.milliner.hot = false ∧
    at_cofull.job? (cmdOf 5 []).job = some at_cofull_2 ∧
    ((cmdOf 5 []).key = at_cofull_2.key ∨ (cmdOf 5 []).key = at_cofull_2.creator) ∧
    (∀ x ∈ at_cofull_2.dones, x.1 ≠ (cmdOf 5 []).seq) ∧
    (cmdOf 5 []).seq = at_cofull_2.nextSeq ∧
    at_cofull_2.pending = [] ∧
    (∀ r ∈ at_cofull_2.log, r.seq ≠ (cmdOf 5 []).seq) ∧
    7 ≠ 12 ∧
    7 ≠ 13 ∧
    (at_cofull_2.loglen < (List.map (fun (r : LogRec) => recordBytes r.payload) at_cofull_2.log).sum + recordBytes (cmdOf 5 []).payload) :=
  by decide +kernel

theorem test_meets_commandOrder_cobad :
    commandOf (cmdOf 5 [1]) (Instr.launchCmd (cmdOf 5 [1])) = some 7 ∧
    (cmdS jobCmd).brim.st = BrimSt.idle ∧
    (cmdS jobCmd).milliner.hot = false ∧
    (cmdS jobCmd).job? (cmdOf 5 [1]).job = some jobCmd ∧
    ((cmdOf 5 [1]).key = jobCmd.key ∨ (cmdOf 5 [1]).key = jobCmd.creator) ∧
    (∀ x ∈ jobCmd.dones, x.1 ≠ (cmdOf 5 [1]).seq) ∧
    16 < BitVec.toNat (17 : BitVec 8) ∧
    InTurn (cmdS jobCmd) (cmdOf 5 [1]) jobCmd :=
  ⟨by decide +kernel,
    by decide +kernel,
    by decide +kernel,
    (by decide +kernel),
    by decide +kernel,
    by decide +kernel,
    by decide +kernel,
    by (unfold Sys2Proof.Claims.InTurn; decide +kernel)⟩

/-! ### JobForms -/

theorem test_meets_jobForms_jnbad :
    (cmdS jobCmd).brim.st = BrimSt.idle ∧
    (cmdS jobCmd).milliner.hot = false ∧
    (¬GoodJobnew { port := (2 : Fin 8), key := [1], job := 0, seq := 5, payload := [] : Cmd }.payload) :=
  ⟨by decide +kernel,
    by decide +kernel,
    by (unfold Sys2Proof.Claims.GoodJobnew Sys2Proof.Claims.PhysForm; decide +kernel)⟩

theorem test_meets_jobForms_jnbad2 :
    (cmdS jobCmd).brim.st = BrimSt.idle ∧
    (cmdS jobCmd).milliner.hot = false ∧
    (¬GoodJobnew { port := (2 : Fin 8), key := [1], job := 0, seq := 5, payload := jobnewPay 65537 : Cmd }.payload) :=
  ⟨by decide +kernel,
    by decide +kernel,
    by (unfold Sys2Proof.Claims.GoodJobnew Sys2Proof.Claims.PhysForm; decide +kernel)⟩

theorem test_meets_jobForms_jnfull :
    (cmdS jobCmd).brim.st = BrimSt.idle ∧
    (cmdS jobCmd).milliner.hot = false ∧
    GoodJobnew { port := (2 : Fin 8), key := [1], job := 0, seq := 5, payload := jobnewPay 25165824 : Cmd }.payload ∧
    (24 * 2 ^ 20 < (List.map (fun (x : Nat × Job) => x.2.loglen) (cmdS jobCmd).jobs).sum + BitVec.toNat (pword { port := (2 : Fin 8), key := [1], job := 0, seq := 5, payload := jobnewPay 25165824 : Cmd }.payload 1)) :=
  ⟨by decide +kernel,
    by decide +kernel,
    by (unfold Sys2Proof.Claims.GoodJobnew Sys2Proof.Claims.PhysForm; decide +kernel),
    by decide +kernel⟩

theorem test_meets_jobForms_jn :
    (cmdS jobCmd).brim.st = BrimSt.idle ∧
    (cmdS jobCmd).milliner.hot = false ∧
    GoodJobnew { port := (2 : Fin 8), key := [1], job := 0, seq := 5, payload := jobnewPay 65536 : Cmd }.payload ∧
    ((List.map (fun (x : Nat × Job) => x.2.loglen) (cmdS jobCmd).jobs).sum + BitVec.toNat (pword { port := (2 : Fin 8), key := [1], job := 0, seq := 5, payload := jobnewPay 65536 : Cmd }.payload 1) ≤ 24 * 2 ^ 20) ∧
    1 ≤ 2 ∧
    2 < 65536 ∧
    (cmdS jobCmd).job? (BitVec.ofNat 16 2) = none ∧
    (∀ (k : Nat), 1 ≤ k → k < 2 → (cmdS jobCmd).job? (BitVec.ofNat 16 k) ≠ none) :=
  ⟨by decide +kernel,
    by decide +kernel,
    by (unfold Sys2Proof.Claims.GoodJobnew Sys2Proof.Claims.PhysForm; decide +kernel),
    by decide +kernel⟩

theorem test_meets_jobForms_hsbad :
    InTurn (cmdS jobCmd) (cmdOf 5 (blockPay 4096)) jobCmd ∧
    (¬GoodBlock jobCmd (cmdOf 5 (blockPay 4096)).payload ∨ ¬GoodRect (pword (cmdOf 5 (blockPay 4096)).payload 0)) :=
  ⟨by (unfold Sys2Proof.Claims.InTurn; decide +kernel),
    by (unfold Sys2Proof.Claims.GoodRect Sys2Proof.Claims.GoodBlock Sys2Proof.Claims.PhysForm; decide +kernel)⟩

theorem test_meets_jobForms_hsbad2 :
    InTurn (cmdS jobCmd) (cmdOf 5 (payOf [0])) jobCmd ∧
    (¬GoodBlock jobCmd (cmdOf 5 (payOf [0])).payload ∨ ¬GoodRect (pword (cmdOf 5 (payOf [0])).payload 0)) :=
  ⟨by (unfold Sys2Proof.Claims.InTurn; decide +kernel),
    by (unfold Sys2Proof.Claims.GoodRect Sys2Proof.Claims.GoodBlock Sys2Proof.Claims.PhysForm; decide +kernel)⟩

theorem test_meets_jobForms_hsbusy :
    InTurn (cmdS jobCmd) (cmdOf 5 (blockPay 0)) jobCmd ∧
    GoodBlock jobCmd (cmdOf 5 (blockPay 0)).payload ∧
    GoodRect (pword (cmdOf 5 (blockPay 0)).payload 0) ∧
    (∃ x < 512, inRect (pword (cmdOf 5 (blockPay 0)).payload 0) x ∧ (cmdS jobCmd).hoodOf x ≠ none) :=
  ⟨by (unfold Sys2Proof.Claims.InTurn; decide +kernel),
    by (unfold Sys2Proof.Claims.GoodBlock Sys2Proof.Claims.PhysForm; decide +kernel),
    by (unfold Sys2Proof.Claims.GoodRect; decide +kernel),
    by (unfold Claims.inRect; decide +kernel)⟩

theorem test_meets_jobForms_hs :
    InTurn (cmdS jobCmd) (cmdOf 5 (blockPay 17)) jobCmd ∧
    GoodBlock jobCmd (cmdOf 5 (blockPay 17)).payload ∧
    GoodRect (pword (cmdOf 5 (blockPay 17)).payload 0) ∧
    (∀ x < 512, inRect (pword (cmdOf 5 (blockPay 17)).payload 0) x → (cmdS jobCmd).hoodOf x = none) :=
  ⟨by (unfold Sys2Proof.Claims.InTurn; decide +kernel),
    by (unfold Sys2Proof.Claims.GoodBlock Sys2Proof.Claims.PhysForm; decide +kernel),
    by (unfold Sys2Proof.Claims.GoodRect; decide +kernel),
    by (unfold Claims.inRect; decide +kernel)⟩

theorem test_meets_jobForms_crbad :
    InTurn (cmdS jobCmd) (cmdOf 5 (blockPay 33)) jobCmd ∧
    ((∀ h ∈ (cmdS jobCmd).hoods, ¬(h.job = (cmdOf 5 (blockPay 33)).job ∧ h.leader = BitVec.toNat (pword (cmdOf 5 (blockPay 33)).payload 0))) ∨ ¬GoodBlock jobCmd (cmdOf 5 (blockPay 33)).payload) :=
  ⟨by (unfold Sys2Proof.Claims.InTurn; decide +kernel),
    by (constructor <;> first | decide +kernel | rfl)⟩

theorem test_meets_jobForms_cr :
    InTurn at_cr (cmdOf 5 (blockPay 0)) jobCmd ∧
    (List.find? (fun (h : Hood) => decide (h.job = (cmdOf 5 (blockPay 0)).job) && decide (h.leader = BitVec.toNat (pword (cmdOf 5 (blockPay 0)).payload 0))) at_cr.hoods = some hood1) ∧
    GoodBlock jobCmd (cmdOf 5 (blockPay 0)).payload :=
  ⟨by (unfold Sys2Proof.Claims.InTurn; decide +kernel),
    by decide +kernel,
    by (unfold Sys2Proof.Claims.GoodBlock Sys2Proof.Claims.PhysForm; decide +kernel)⟩

theorem test_meets_jobForms_jebad :
    InTurn (cmdS jobCmd) (cmdOf 5 [1]) jobCmd ∧
    (cmdOf 5 [1]).payload ≠ [] :=
  ⟨by (unfold Sys2Proof.Claims.InTurn; decide +kernel),
    by decide +kernel⟩

theorem test_meets_jobForms_jeno :
    InTurn at_jeno (cmdOf 5 []) jobCmd ∧
    (cmdOf 5 []).payload = [] ∧
    ((at_jeno.hoods.all fun (h : Hood) => decide (h.job ≠ (cmdOf 5 []).job)) = true) :=
  ⟨by (unfold Sys2Proof.Claims.InTurn; decide +kernel),
    by decide +kernel⟩

theorem test_meets_jobForms_je :
    InTurn at_cr (cmdOf 5 []) jobCmd ∧
    (cmdOf 5 []).payload = [] ∧
    at_cr.hoods = [hood1] ∧
    hood1.job = (cmdOf 5 []).job ∧
    hood1.st = HoodSt.active ∧
    jobCmd.ctr.done = false :=
  ⟨by (unfold Sys2Proof.Claims.InTurn; decide +kernel),
    by decide +kernel⟩

/-! ### ServiceCommands -/

theorem test_meets_serviceCommands_sl :
    InTurn (cmdS jobCmd) (cmdOf 5 (payOf (launchDesc 4 5 1 0 0))) jobCmd ∧
    1 < 4096 ∧
    (cmdOf 5 (payOf (launchDesc 4 5 1 0 0))).payload.length = 64 ∧
    field (pword (cmdOf 5 (payOf (launchDesc 4 5 1 0 0))).payload 0) 61 3 = 0 ∧
    field (pword (cmdOf 5 (payOf (launchDesc 4 5 1 0 0))).payload 2) 52 12 = 0 ∧
    field (pword (cmdOf 5 (payOf (launchDesc 4 5 1 0 0))).payload 0) 0 32 ≠ 0 ∧
    (cmdS jobCmd).inHoods (cmdOf 5 (payOf (launchDesc 4 5 1 0 0))).job (field (pword (cmdOf 5 (payOf (launchDesc 4 5 1 0 0))).payload 0) 52 9) = true ∧
    jobCmd.launch? 1 = none ∧
    (∀ n < 1, jobCmd.launch? n ≠ none) :=
  ⟨by (unfold Sys2Proof.Claims.InTurn; decide +kernel),
    by decide +kernel⟩

theorem test_meets_serviceCommands_slbad :
    InTurn (cmdS jobCmd) (cmdOf 5 [1]) jobCmd ∧
    (cmdOf 5 [1]).payload.length ≠ 64 :=
  ⟨by (unfold Sys2Proof.Claims.InTurn; decide +kernel),
    by decide +kernel⟩

theorem test_meets_serviceCommands_sgbad :
    InTurn (cmdS jobCmd) (cmdOf 5 (payOf [7, 1, 2, 3])) jobCmd ∧
    ((cmdOf 5 (payOf [7, 1, 2, 3])).payload.length ≠ 32 ∨ field (pword (cmdOf 5 (payOf [7, 1, 2, 3])).payload 0) 25 39 ≠ 0 ∨ field (pword (cmdOf 5 (payOf [7, 1, 2, 3])).payload 3) 40 24 ≠ 0 ∨ pword (cmdOf 5 (payOf [7, 1, 2, 3])).payload 3 = 0 ∨ field (pword (cmdOf 5 (payOf [7, 1, 2, 3])).payload 0) 0 12 ∈ List.map Prod.fst jobCmd.hostwins) :=
  ⟨by (unfold Sys2Proof.Claims.InTurn; decide +kernel),
    by decide +kernel⟩

theorem test_meets_serviceCommands_sg :
    InTurn (cmdS jobCmd) (cmdOf 5 (payOf [8 + 5 * 2 ^ 12, 1, 2, 3])) jobCmd ∧
    (cmdOf 5 (payOf [8 + 5 * 2 ^ 12, 1, 2, 3])).payload.length = 32 ∧
    field (pword (cmdOf 5 (payOf [8 + 5 * 2 ^ 12, 1, 2, 3])).payload 0) 25 39 = 0 ∧
    field (pword (cmdOf 5 (payOf [8 + 5 * 2 ^ 12, 1, 2, 3])).payload 3) 40 24 = 0 ∧
    pword (cmdOf 5 (payOf [8 + 5 * 2 ^ 12, 1, 2, 3])).payload 3 ≠ 0 ∧
    field (pword (cmdOf 5 (payOf [8 + 5 * 2 ^ 12, 1, 2, 3])).payload 0) 0 12 ∉ List.map Prod.fst jobCmd.hostwins :=
  ⟨by (unfold Sys2Proof.Claims.InTurn; decide +kernel),
    by decide +kernel⟩

theorem test_meets_serviceCommands_sr :
    InTurn at_sr (cmdOf 5 (payOf [7])) jobCmd ∧
    (cmdOf 5 (payOf [7])).payload.length = 8 ∧
    field (pword (cmdOf 5 (payOf [7])).payload 0) 12 52 = 0 ∧
    at_sr.accs = [] ∧
    ((List.all at_sr.cores fun (x : Nat × Core) => decide (x.2.journal = [])) = true) :=
  ⟨by (unfold Sys2Proof.Claims.InTurn; decide +kernel),
    by decide +kernel⟩

theorem test_meets_serviceCommands_scbad :
    InTurn (cmdS jobCmd) (cmdOf 5 (collPay 511)) jobCmd ∧
    (¬GoodCollset (cmdS jobCmd) (cmdOf 5 (collPay 511))) :=
  ⟨by (unfold Sys2Proof.Claims.InTurn; decide +kernel),
    by (unfold Sys2Proof.Claims.GoodCollset; decide +kernel)⟩

theorem test_meets_serviceCommands_sc :
    InTurn (cmdS jobCmd) (cmdOf 5 (collPay 1)) jobCmd ∧
    GoodCollset (cmdS jobCmd) (cmdOf 5 (collPay 1)) :=
  ⟨by (unfold Sys2Proof.Claims.InTurn; decide +kernel),
    by (unfold Sys2Proof.Claims.GoodCollset; decide +kernel)⟩

theorem test_meets_serviceCommands_satbad :
    InTurn (cmdS jobCmd) (cmdOf 5 (collPay 1)) jobCmd ∧
    (cmdOf 5 (collPay 1)).payload.length ≠ 32 :=
  ⟨by (unfold Sys2Proof.Claims.InTurn; decide +kernel),
    by decide +kernel⟩

theorem test_meets_serviceCommands_sct :
    InTurn (cmdS jobCmd) (cmdOf 5 (payOf [0])) jobCmd ∧
    Instr.cntreadPort (cmdOf 5 (payOf [0])) ∈ [Instr.cntreadCounter (cmdOf 5 (payOf [0])), Instr.cntreadRestartSummary (cmdOf 5 (payOf [0])), Instr.cntreadPort (cmdOf 5 (payOf [0])), Instr.cntreadCore (cmdOf 5 (payOf [0])), Instr.cntreadCorrections (cmdOf 5 (payOf [0]))] ∧
    (cmdOf 5 (payOf [0])).payload.length = 8 ∧
    Claims.unitOf jobCmd (pword (cmdOf 5 (payOf [0])).payload 0) = some (Level.launch, 0) ∧
    BitVec.toNat (pword (cmdOf 5 (payOf [0])).payload 0) < 2 ^ 63 + 2 ^ 62 + 1 :=
  ⟨by (unfold Sys2Proof.Claims.InTurn; decide +kernel),
    by decide +kernel⟩

theorem test_meets_serviceCommands_scj :
    InTurn (cmdS jobCmd) (cmdOf 5 (payOf [2 ^ 63 + 2 ^ 62])) jobCmd ∧
    Instr.cntreadCounter (cmdOf 5 (payOf [2 ^ 63 + 2 ^ 62])) ∈ [Instr.cntreadCounter (cmdOf 5 (payOf [2 ^ 63 + 2 ^ 62])), Instr.cntreadRestartSummary (cmdOf 5 (payOf [2 ^ 63 + 2 ^ 62])), Instr.cntreadPort (cmdOf 5 (payOf [2 ^ 63 + 2 ^ 62])), Instr.cntreadCore (cmdOf 5 (payOf [2 ^ 63 + 2 ^ 62])), Instr.cntreadCorrections (cmdOf 5 (payOf [2 ^ 63 + 2 ^ 62]))] ∧
    (cmdOf 5 (payOf [2 ^ 63 + 2 ^ 62])).payload.length = 8 ∧
    Claims.unitOf jobCmd (pword (cmdOf 5 (payOf [2 ^ 63 + 2 ^ 62])).payload 0) = some (Level.job, 0) ∧
    BitVec.toNat (pword (cmdOf 5 (payOf [2 ^ 63 + 2 ^ 62])).payload 0) < 2 ^ 63 + 2 ^ 62 + 1 :=
  ⟨by (unfold Sys2Proof.Claims.InTurn; decide +kernel),
    by decide +kernel⟩

theorem test_meets_serviceCommands_scp :
    InTurn (cmdS jobCmd) (cmdOf 5 (payOf [18446744073709420545])) jobCmd ∧
    Instr.cntreadPort (cmdOf 5 (payOf [18446744073709420545])) ∈ [Instr.cntreadCounter (cmdOf 5 (payOf [18446744073709420545])), Instr.cntreadRestartSummary (cmdOf 5 (payOf [18446744073709420545])), Instr.cntreadPort (cmdOf 5 (payOf [18446744073709420545])), Instr.cntreadCore (cmdOf 5 (payOf [18446744073709420545])), Instr.cntreadCorrections (cmdOf 5 (payOf [18446744073709420545]))] ∧
    (cmdOf 5 (payOf [18446744073709420545])).payload.length = 8 ∧
    1 < 8 ∧
    BitVec.toNat (pword (cmdOf 5 (payOf [18446744073709420545])).payload 0) = 18446744073709420544 + 1 :=
  ⟨by (unfold Sys2Proof.Claims.InTurn; decide +kernel),
    by decide +kernel⟩

theorem test_meets_serviceCommands_sck :
    InTurn (cmdS jobCmd) (cmdOf 5 (payOf [18446744073709355008])) jobCmd ∧
    Instr.cntreadPort (cmdOf 5 (payOf [18446744073709355008])) ∈ [Instr.cntreadCounter (cmdOf 5 (payOf [18446744073709355008])), Instr.cntreadRestartSummary (cmdOf 5 (payOf [18446744073709355008])), Instr.cntreadPort (cmdOf 5 (payOf [18446744073709355008])), Instr.cntreadCore (cmdOf 5 (payOf [18446744073709355008])), Instr.cntreadCorrections (cmdOf 5 (payOf [18446744073709355008]))] ∧
    (cmdOf 5 (payOf [18446744073709355008])).payload.length = 8 ∧
    0 < 512 ∧
    0 < 12 ∧
    BitVec.toNat (pword (cmdOf 5 (payOf [18446744073709355008])).payload 0) = 18446744073709355008 + 16 * 0 + 0 ∧
    (cmdS jobCmd).inHoods (cmdOf 5 (payOf [18446744073709355008])).job 0 = true :=
  ⟨by (unfold Sys2Proof.Claims.InTurn; decide +kernel),
    by decide +kernel⟩

theorem test_meets_serviceCommands_scc :
    InTurn (cmdS jobCmd) (cmdOf 5 (payOf [18446744073709289472])) jobCmd ∧
    Instr.cntreadPort (cmdOf 5 (payOf [18446744073709289472])) ∈ [Instr.cntreadCounter (cmdOf 5 (payOf [18446744073709289472])), Instr.cntreadRestartSummary (cmdOf 5 (payOf [18446744073709289472])), Instr.cntreadPort (cmdOf 5 (payOf [18446744073709289472])), Instr.cntreadCore (cmdOf 5 (payOf [18446744073709289472])), Instr.cntreadCorrections (cmdOf 5 (payOf [18446744073709289472]))] ∧
    (cmdOf 5 (payOf [18446744073709289472])).payload.length = 8 ∧
    BitVec.toNat (pword (cmdOf 5 (payOf [18446744073709289472])).payload 0) = 18446744073709289472 :=
  ⟨by (unfold Sys2Proof.Claims.InTurn; decide +kernel),
    by decide +kernel⟩

theorem test_meets_serviceCommands_scr :
    InTurn (cmdS jobCmd) (cmdOf 5 (payOf [18446744073709486081])) jobCmd ∧
    Instr.cntreadPort (cmdOf 5 (payOf [18446744073709486081])) ∈ [Instr.cntreadCounter (cmdOf 5 (payOf [18446744073709486081])), Instr.cntreadRestartSummary (cmdOf 5 (payOf [18446744073709486081])), Instr.cntreadPort (cmdOf 5 (payOf [18446744073709486081])), Instr.cntreadCore (cmdOf 5 (payOf [18446744073709486081])), Instr.cntreadCorrections (cmdOf 5 (payOf [18446744073709486081]))] ∧
    (cmdOf 5 (payOf [18446744073709486081])).payload.length = 8 ∧
    BitVec.toNat (pword (cmdOf 5 (payOf [18446744073709486081])).payload 0) = 18446744073709486081 :=
  ⟨by (unfold Sys2Proof.Claims.InTurn; decide +kernel),
    by decide +kernel⟩

theorem test_meets_serviceCommands_slq :
    InTurn (cmdS jobCmd) (cmdOf 5 (leBytes 8 0)) jobCmd ∧
    (cmdOf 5 (leBytes 8 0)).payload = leBytes 8 0 :=
  ⟨by (unfold Sys2Proof.Claims.InTurn; decide +kernel),
    by decide +kernel⟩

theorem test_meets_serviceCommands_slb :
    InTurn (cmdS jobCmd) (cmdOf 5 (leBytes 8 2)) jobCmd ∧
    (cmdOf 5 (leBytes 8 2)).payload ≠ leBytes 8 0 ∧
    (cmdOf 5 (leBytes 8 2)).payload ≠ leBytes 8 1 :=
  ⟨by (unfold Sys2Proof.Claims.InTurn; decide +kernel),
    by decide +kernel⟩

theorem test_meets_serviceCommands_slr :
    InTurn at_slr (cmdOf 5 (leBytes 8 1)) jobCmd ∧
    (cmdOf 5 (leBytes 8 1)).payload = leBytes 8 1 ∧
    jobCmd.replaying = none ∧
    ((at_slr.hoods.any fun (h : Hood) => decide (h.job = (cmdOf 5 (leBytes 8 1)).job) && decide (h.st ≠ HoodSt.active)) = true) :=
  ⟨by (unfold Sys2Proof.Claims.InTurn; decide +kernel),
    by decide +kernel⟩

theorem test_meets_serviceCommands_slr0 :
    InTurn at_slr0 (cmdOf 5 (leBytes 8 1)) at_slr0_2 ∧
    (cmdOf 5 (leBytes 8 1)).payload = leBytes 8 1 ∧
    at_slr0_2.replaying = none ∧
    ((at_slr0.hoods.all fun (h : Hood) => decide (h.job = (cmdOf 5 (leBytes 8 1)).job → h.st = HoodSt.active)) = true) ∧
    at_slr0_2.graphs = [] ∧
    (∀ (ph : Phase), at_slr0_2.phase? at_slr0_2.phase = some ph → ph.ctr.count ≤ 1) ∧
    at_slr0_2.log = [] :=
  ⟨by (unfold Sys2Proof.Claims.InTurn; decide +kernel),
    by decide +kernel⟩

theorem test_meets_serviceCommands_slr1 :
    InTurn at_slr1 (cmdOf 5 (leBytes 8 1)) at_slr1_2 ∧
    (cmdOf 5 (leBytes 8 1)).payload = leBytes 8 1 ∧
    at_slr1_2.replaying = none ∧
    ((at_slr1.hoods.all fun (h : Hood) => decide (h.job = (cmdOf 5 (leBytes 8 1)).job → h.st = HoodSt.active)) = true) ∧
    at_slr1_2.graphs = [] ∧
    (∀ (ph : Phase), at_slr1_2.phase? at_slr1_2.phase = some ph → ph.ctr.count ≤ 1) ∧
    at_slr1_2.log = [{ code := 8, job := 1, seq := 2, payload := [5], status := 0, phase := 1, port := (3 : Fin 8), owner := true : LogRec }] ∧
    { code := 8, job := 1, seq := 2, payload := [5], status := 0, phase := 1, port := (3 : Fin 8), owner := true : LogRec }.code = 8 ∧
    { code := 8, job := 1, seq := 2, payload := [5], status := 0, phase := 1, port := (3 : Fin 8), owner := true : LogRec }.payload.length ≠ 32 :=
  ⟨by (unfold Sys2Proof.Claims.InTurn; decide +kernel),
    by decide +kernel⟩

/-! ### MemoryCommands -/

theorem test_meets_memoryCommands_mm :
    InTurn (cmdS jobCmd) (cmdOf 5 (payOf [1, 2162688, 12379550950711951545])) jobCmd ∧
    NoLines (cmdS jobCmd) ∧
    (cmdOf 5 (payOf [1, 2162688, 12379550950711951545])).payload.length = 24 ∧
    pword (cmdOf 5 (payOf [1, 2162688, 12379550950711951545])).payload 0 = 1 ∧
    field (pword (cmdOf 5 (payOf [1, 2162688, 12379550950711951545])).payload 1) 50 14 = 0 ∧
    (logged (cmdS jobCmd) 3 (cmdOf 5 (payOf [1, 2162688, 12379550950711951545])) jobCmd).jobEntryOk jobCmd.jtbase (cmdOf 5 (payOf [1, 2162688, 12379550950711951545])).job = true ∧
    (logged (cmdS jobCmd) 3 (cmdOf 5 (payOf [1, 2162688, 12379550950711951545])) jobCmd).tableAt (field (pword (cmdOf 5 (payOf [1, 2162688, 12379550950711951545])).payload 1) 0 48) (field (pword (cmdOf 5 (payOf [1, 2162688, 12379550950711951545])).payload 1) 48 2) 4 (field ((logged (cmdS jobCmd) 3 (cmdOf 5 (payOf [1, 2162688, 12379550950711951545])) jobCmd).jobEntry jobCmd.jtbase (cmdOf 5 (payOf [1, 2162688, 12379550950711951545])).job 0) 0 48) = some 393216 ∧
    (∀ k < 8, ¬InLog jobCmd (393216 + 8 * levelIndex (field (pword (cmdOf 5 (payOf [1, 2162688, 12379550950711951545])).payload 1) 0 48) (field (pword (cmdOf 5 (payOf [1, 2162688, 12379550950711951545])).payload 1) 48 2) + k)) ∧
    ((cmdS jobCmd).acks ++ (cmdS jobCmd).sealedAt = [] ∨ BitVec.getLsbD ((logged (cmdS jobCmd) 3 (cmdOf 5 (payOf [1, 2162688, 12379550950711951545])) jobCmd).mem.get (393216 + 8 * levelIndex (field (pword (cmdOf 5 (payOf [1, 2162688, 12379550950711951545])).payload 1) 0 48) (field (pword (cmdOf 5 (payOf [1, 2162688, 12379550950711951545])).payload 1) 48 2))) 0 = false) :=
  ⟨by (unfold Sys2Proof.Claims.InTurn; decide +kernel),
    by (unfold Claims.NoLines; decide +kernel),
    by decide +kernel,
    by decide +kernel,
    by decide +kernel,
    (by decide +kernel),
    by decide +kernel,
    by (unfold Sys2Proof.Claims.InLog; decide +kernel),
    by decide +kernel⟩

theorem test_meets_memoryCommands_mml :
    InTurn (cmdS jobCmd) (cmdOf 5 (payOf [1, 4194304 + 2 ^ 48, 12379550950711951545])) jobCmd ∧
    NoLines (cmdS jobCmd) ∧
    (cmdOf 5 (payOf [1, 4194304 + 2 ^ 48, 12379550950711951545])).payload.length = 24 ∧
    pword (cmdOf 5 (payOf [1, 4194304 + 2 ^ 48, 12379550950711951545])).payload 0 = 1 ∧
    field (pword (cmdOf 5 (payOf [1, 4194304 + 2 ^ 48, 12379550950711951545])).payload 1) 50 14 = 0 ∧
    (logged (cmdS jobCmd) 3 (cmdOf 5 (payOf [1, 4194304 + 2 ^ 48, 12379550950711951545])) jobCmd).jobEntryOk jobCmd.jtbase (cmdOf 5 (payOf [1, 4194304 + 2 ^ 48, 12379550950711951545])).job = true ∧
    (logged (cmdS jobCmd) 3 (cmdOf 5 (payOf [1, 4194304 + 2 ^ 48, 12379550950711951545])) jobCmd).tableAt (field (pword (cmdOf 5 (payOf [1, 4194304 + 2 ^ 48, 12379550950711951545])).payload 1) 0 48) (field (pword (cmdOf 5 (payOf [1, 4194304 + 2 ^ 48, 12379550950711951545])).payload 1) 48 2) 4 (field ((logged (cmdS jobCmd) 3 (cmdOf 5 (payOf [1, 4194304 + 2 ^ 48, 12379550950711951545])) jobCmd).jobEntry jobCmd.jtbase (cmdOf 5 (payOf [1, 4194304 + 2 ^ 48, 12379550950711951545])).job 0) 0 48) = some 327680 ∧
    (∀ k < 8, ¬InLog jobCmd (327680 + 8 * levelIndex (field (pword (cmdOf 5 (payOf [1, 4194304 + 2 ^ 48, 12379550950711951545])).payload 1) 0 48) (field (pword (cmdOf 5 (payOf [1, 4194304 + 2 ^ 48, 12379550950711951545])).payload 1) 48 2) + k)) ∧
    ((cmdS jobCmd).acks ++ (cmdS jobCmd).sealedAt = [] ∨ BitVec.getLsbD ((logged (cmdS jobCmd) 3 (cmdOf 5 (payOf [1, 4194304 + 2 ^ 48, 12379550950711951545])) jobCmd).mem.get (327680 + 8 * levelIndex (field (pword (cmdOf 5 (payOf [1, 4194304 + 2 ^ 48, 12379550950711951545])).payload 1) 0 48) (field (pword (cmdOf 5 (payOf [1, 4194304 + 2 ^ 48, 12379550950711951545])).payload 1) 48 2))) 0 = false) :=
  ⟨by (unfold Sys2Proof.Claims.InTurn; decide +kernel),
    by (unfold Claims.NoLines; decide +kernel),
    by decide +kernel,
    by decide +kernel,
    by decide +kernel,
    (by decide +kernel),
    by decide +kernel,
    by (unfold Sys2Proof.Claims.InLog; decide +kernel),
    by decide +kernel⟩

theorem test_meets_memoryCommands_mmb :
    InTurn at_mmb (cmdOf 5 (payOf [1, 2162688, 0])) jobCmd ∧
    NoLines at_mmb ∧
    (cmdOf 5 (payOf [1, 2162688, 0])).payload.length = 24 ∧
    pword (cmdOf 5 (payOf [1, 2162688, 0])).payload 0 = 1 ∧
    field (pword (cmdOf 5 (payOf [1, 2162688, 0])).payload 1) 50 14 = 0 ∧
    (logged at_mmb 3 (cmdOf 5 (payOf [1, 2162688, 0])) jobCmd).jobEntryOk jobCmd.jtbase (cmdOf 5 (payOf [1, 2162688, 0])).job = false :=
  ⟨by (unfold Sys2Proof.Claims.InTurn; decide +kernel),
    by (unfold Claims.NoLines; decide +kernel),
    by decide +kernel⟩

theorem test_meets_memoryCommands_mms :
    InTurn (cmdS jobCmd) (cmdOf 5 [1]) jobCmd ∧
    NoLines (cmdS jobCmd) ∧
    (cmdOf 5 [1]).payload.length < 24 :=
  ⟨by (unfold Sys2Proof.Claims.InTurn; decide +kernel),
    by (unfold Claims.NoLines; decide +kernel),
    by decide +kernel⟩

theorem test_meets_memoryCommands_mak :
    InTurn (cmdS jobCmd) (cmdOf 5 [1]) jobCmd ∧
    NoLines (cmdS jobCmd) ∧
    (cmdOf 5 [1]).key ≠ jobCmd.creator :=
  ⟨by (unfold Sys2Proof.Claims.InTurn; decide +kernel),
    by (unfold Claims.NoLines; decide +kernel),
    by decide +kernel⟩

theorem test_meets_memoryCommands_ma :
    InTurn (cmdS jobCmd) (cmdBy 5 (payOf [1, 16140901064496513024, 3])) jobCmd ∧
    NoLines (cmdS jobCmd) ∧
    (cmdBy 5 (payOf [1, 16140901064496513024, 3])).key = jobCmd.creator ∧
    (cmdBy 5 (payOf [1, 16140901064496513024, 3])).payload.length = 24 ∧
    pword (cmdBy 5 (payOf [1, 16140901064496513024, 3])).payload 0 = 1 ∧
    PhysForm (pword (cmdBy 5 (payOf [1, 16140901064496513024, 3])).payload 1) ∧
    field (pword (cmdBy 5 (payOf [1, 16140901064496513024, 3])).payload 1) 0 16 = 0 ∧
    field (pword (cmdBy 5 (payOf [1, 16140901064496513024, 3])).payload 1) 0 48 < 412316860416 ∧
    BitVec.toNat (pword (cmdBy 5 (payOf [1, 16140901064496513024, 3])).payload 2) = PageTy.ip.code ∧
    (∀ k < 8, ¬InLog jobCmd (field jobCmd.fatbase 0 48 + 8 * (field (pword (cmdBy 5 (payOf [1, 16140901064496513024, 3])).payload 1) 16 32 / 32) + k)) :=
  ⟨by (unfold Sys2Proof.Claims.InTurn; decide +kernel),
    by (unfold Claims.NoLines; decide +kernel),
    by decide +kernel,
    by decide +kernel,
    by decide +kernel,
    by rfl,
    by decide +kernel,
    by decide +kernel,
    by decide +kernel,
    by (unfold Sys2Proof.Claims.InLog; decide +kernel)⟩

theorem test_meets_memoryCommands_mlk :
    InTurn (cmdS jobCmd) (cmdOf 5 (payOf [16140901064496447491, 0, 5] ++ [1, 0, 3, 4, 5])) jobCmd ∧
    NoLines (cmdS jobCmd) ∧
    PhysForm (pword (cmdOf 5 (payOf [16140901064496447491, 0, 5] ++ [1, 0, 3, 4, 5])).payload 0) ∧
    pword (cmdOf 5 (payOf [16140901064496447491, 0, 5] ++ [1, 0, 3, 4, 5])).payload 1 = 0 ∧
    (cmdOf 5 (payOf [16140901064496447491, 0, 5] ++ [1, 0, 3, 4, 5])).payload.length = 24 + BitVec.toNat (pword (cmdOf 5 (payOf [16140901064496447491, 0, 5] ++ [1, 0, 3, 4, 5])).payload 2) ∧
    (cmdOf 5 (payOf [16140901064496447491, 0, 5] ++ [1, 0, 3, 4, 5])).key ≠ jobCmd.creator :=
  ⟨by (unfold Sys2Proof.Claims.InTurn; decide +kernel),
    by (unfold Claims.NoLines; decide +kernel),
    by rfl,
    by decide +kernel⟩

theorem test_meets_memoryCommands_ml :
    InTurn (cmdS jobCmd) (cmdBy 5 (payOf [16140901064496381955, 0, 5] ++ [1, 0, 3, 4, 5])) jobCmd ∧
    NoLines (cmdS jobCmd) ∧
    PhysForm (pword (cmdBy 5 (payOf [16140901064496381955, 0, 5] ++ [1, 0, 3, 4, 5])).payload 0) ∧
    pword (cmdBy 5 (payOf [16140901064496381955, 0, 5] ++ [1, 0, 3, 4, 5])).payload 1 = 0 ∧
    (cmdBy 5 (payOf [16140901064496381955, 0, 5] ++ [1, 0, 3, 4, 5])).payload.length = 24 + BitVec.toNat (pword (cmdBy 5 (payOf [16140901064496381955, 0, 5] ++ [1, 0, 3, 4, 5])).payload 2) ∧
    (cmdBy 5 (payOf [16140901064496381955, 0, 5] ++ [1, 0, 3, 4, 5])).key = jobCmd.creator ∧
    field (pword (cmdBy 5 (payOf [16140901064496381955, 0, 5] ++ [1, 0, 3, 4, 5])).payload 0) 0 48 + BitVec.toNat (pword (cmdBy 5 (payOf [16140901064496381955, 0, 5] ++ [1, 0, 3, 4, 5])).payload 2) ≤ 412316860416 :=
  ⟨by (unfold Sys2Proof.Claims.InTurn; decide +kernel),
    by (unfold Claims.NoLines; decide +kernel),
    by rfl,
    by decide +kernel⟩

theorem test_meets_memoryCommands_mlv :
    InTurn at_mlv (cmdOf 5 (payOf [2162683, 0, 5] ++ [1, 0, 3, 4, 5])) jobCmd ∧
    NoLines at_mlv ∧
    field (pword (cmdOf 5 (payOf [2162683, 0, 5] ++ [1, 0, 3, 4, 5])).payload 0) 48 16 = 0 ∧
    pword (cmdOf 5 (payOf [2162683, 0, 5] ++ [1, 0, 3, 4, 5])).payload 1 = 0 ∧
    (cmdOf 5 (payOf [2162683, 0, 5] ++ [1, 0, 3, 4, 5])).payload.length = 24 + BitVec.toNat (pword (cmdOf 5 (payOf [2162683, 0, 5] ++ [1, 0, 3, 4, 5])).payload 2) ∧
    1 ≤ BitVec.toNat (pword (cmdOf 5 (payOf [2162683, 0, 5] ++ [1, 0, 3, 4, 5])).payload 2) ∧
    BitVec.toNat (pword (cmdOf 5 (payOf [2162683, 0, 5] ++ [1, 0, 3, 4, 5])).payload 0) % 2 ^ 16 + BitVec.toNat (pword (cmdOf 5 (payOf [2162683, 0, 5] ++ [1, 0, 3, 4, 5])).payload 2) ≤ 2 ^ 16 ∧
    (logged at_mlv 5 (cmdOf 5 (payOf [2162683, 0, 5] ++ [1, 0, 3, 4, 5])) jobCmd).jobEntryOk jobCmd.jtbase (cmdOf 5 (payOf [2162683, 0, 5] ++ [1, 0, 3, 4, 5])).job = true ∧
    (logged at_mlv 5 (cmdOf 5 (payOf [2162683, 0, 5] ++ [1, 0, 3, 4, 5])) jobCmd).walkJob jobCmd.jtbase (cmdOf 5 (payOf [2162683, 0, 5] ++ [1, 0, 3, 4, 5])).job (BitVec.toNat (pword (cmdOf 5 (payOf [2162683, 0, 5] ++ [1, 0, 3, 4, 5])).payload 0)) = Except.ok (458905, 0, 393216) ∧
    (logged at_mlv 5 (cmdOf 5 (payOf [2162683, 0, 5] ++ [1, 0, 3, 4, 5])) jobCmd).framesMatch jobCmd.fatbase 458905 0 = true ∧
    field 458905 1 2 ≠ 2 :=
  ⟨by (unfold Sys2Proof.Claims.InTurn; decide +kernel),
    by (unfold Claims.NoLines; decide +kernel),
    by decide +kernel⟩

theorem test_meets_memoryCommands_mrk :
    InTurn (cmdS jobCmd) (cmdOf 5 (payOf [16140901064496381952, 5])) jobCmd ∧
    NoLines (cmdS jobCmd) ∧
    PhysForm (pword (cmdOf 5 (payOf [16140901064496381952, 5])).payload 0) ∧
    (cmdOf 5 (payOf [16140901064496381952, 5])).payload.length = 16 ∧
    1 ≤ BitVec.toNat (pword (cmdOf 5 (payOf [16140901064496381952, 5])).payload 1) ∧
    BitVec.toNat (pword (cmdOf 5 (payOf [16140901064496381952, 5])).payload 1) ≤ 2 ^ 24 - 16 ∧
    (cmdOf 5 (payOf [16140901064496381952, 5])).key ≠ jobCmd.creator :=
  ⟨by (unfold Sys2Proof.Claims.InTurn; decide +kernel),
    by (unfold Claims.NoLines; decide +kernel),
    by rfl,
    by decide +kernel⟩

theorem test_meets_memoryCommands_mr :
    InTurn (cmdS jobCmd) (cmdBy 5 (payOf [16140901064496381951, 9])) jobCmd ∧
    NoLines (cmdS jobCmd) ∧
    PhysForm (pword (cmdBy 5 (payOf [16140901064496381951, 9])).payload 0) ∧
    (cmdBy 5 (payOf [16140901064496381951, 9])).payload.length = 16 ∧
    1 ≤ BitVec.toNat (pword (cmdBy 5 (payOf [16140901064496381951, 9])).payload 1) ∧
    BitVec.toNat (pword (cmdBy 5 (payOf [16140901064496381951, 9])).payload 1) ≤ 2 ^ 24 - 16 ∧
    (cmdBy 5 (payOf [16140901064496381951, 9])).key = jobCmd.creator ∧
    field (pword (cmdBy 5 (payOf [16140901064496381951, 9])).payload 0) 0 48 + BitVec.toNat (pword (cmdBy 5 (payOf [16140901064496381951, 9])).payload 1) ≤ 412316860416 ∧
    (cmdS jobCmd).pois = [] :=
  ⟨by (unfold Sys2Proof.Claims.InTurn; decide +kernel),
    by (unfold Claims.NoLines; decide +kernel),
    by rfl,
    by decide +kernel⟩

theorem test_meets_memoryCommands_msb :
    InTurn at_mlv (cmdOf 5 (payOf [2162683])) jobCmd ∧
    NoLines at_mlv ∧
    (cmdOf 5 (payOf [2162683])).payload.length = 8 ∧
    field (pword (cmdOf 5 (payOf [2162683])).payload 0) 48 16 = 0 ∧
    (logged at_mlv 10 (cmdOf 5 (payOf [2162683])) jobCmd).jobEntryOk jobCmd.jtbase (cmdOf 5 (payOf [2162683])).job = true ∧
    (logged at_mlv 10 (cmdOf 5 (payOf [2162683])) jobCmd).walkJob jobCmd.jtbase (cmdOf 5 (payOf [2162683])).job (BitVec.toNat (pword (cmdOf 5 (payOf [2162683])).payload 0)) = Except.ok (458905, 0, 393216) ∧
    (logged at_mlv 10 (cmdOf 5 (payOf [2162683])) jobCmd).framesMatch jobCmd.fatbase 458905 0 = true ∧
    (field 458905 1 2 ≠ 2 ∨ BitVec.getLsbD (458905 : Word) 4 = false) :=
  ⟨by (unfold Sys2Proof.Claims.InTurn; decide +kernel),
    by (unfold Claims.NoLines; decide +kernel),
    by decide +kernel⟩

theorem test_meets_memoryCommands_mss :
    InTurn at_mss (cmdOf 5 (payOf [2162683])) jobCmd ∧
    NoLines at_mss ∧
    (cmdOf 5 (payOf [2162683])).payload.length = 8 ∧
    field (pword (cmdOf 5 (payOf [2162683])).payload 0) 48 16 = 0 ∧
    (logged at_mss 10 (cmdOf 5 (payOf [2162683])) jobCmd).jobEntryOk jobCmd.jtbase (cmdOf 5 (payOf [2162683])).job = true ∧
    (logged at_mss 10 (cmdOf 5 (payOf [2162683])) jobCmd).walkJob jobCmd.jtbase (cmdOf 5 (payOf [2162683])).job (BitVec.toNat (pword (cmdOf 5 (payOf [2162683])).payload 0)) = Except.ok (458973, 0, 393216) ∧
    (logged at_mss 10 (cmdOf 5 (payOf [2162683])) jobCmd).framesMatch jobCmd.fatbase 458973 0 = true ∧
    field 458973 1 2 = 2 ∧
    BitVec.getLsbD (458973 : Word) 4 = true ∧
    BitVec.getLsbD (458973 : Word) 6 = true :=
  ⟨by (unfold Sys2Proof.Claims.InTurn; decide +kernel),
    by (unfold Claims.NoLines; decide +kernel),
    by decide +kernel⟩

theorem test_meets_memoryCommands_msl :
    InTurn (cmdS jobCmd) (cmdOf 5 (payOf [2162683])) jobCmd ∧
    NoLines (cmdS jobCmd) ∧
    (cmdOf 5 (payOf [2162683])).payload.length = 8 ∧
    field (pword (cmdOf 5 (payOf [2162683])).payload 0) 48 16 = 0 ∧
    (logged (cmdS jobCmd) 10 (cmdOf 5 (payOf [2162683])) jobCmd).jobEntryOk jobCmd.jtbase (cmdOf 5 (payOf [2162683])).job = true ∧
    (logged (cmdS jobCmd) 10 (cmdOf 5 (payOf [2162683])) jobCmd).walkJob jobCmd.jtbase (cmdOf 5 (payOf [2162683])).job (BitVec.toNat (pword (cmdOf 5 (payOf [2162683])).payload 0)) = Except.ok (458909, 0, 393216) ∧
    (logged (cmdS jobCmd) 10 (cmdOf 5 (payOf [2162683])) jobCmd).framesMatch jobCmd.fatbase 458909 0 = true ∧
    field 458909 1 2 = 2 ∧
    BitVec.getLsbD (458909 : Word) 4 = true ∧
    BitVec.getLsbD (458909 : Word) 6 = false ∧
    (logged (cmdS jobCmd) 10 (cmdOf 5 (payOf [2162683])) jobCmd).mem.read 393216 8 = BitVec.toNat (458909 : Word) ∧
    (∀ k < 8, ¬InLog jobCmd (393216 + k)) ∧
    (cmdS jobCmd).storesTo (field 458909 16 32 * 2 ^ 16) (field 458909 16 32 * 2 ^ 16 + 2 ^ 16) = false :=
  ⟨by (unfold Sys2Proof.Claims.InTurn; decide +kernel),
    by (unfold Claims.NoLines; decide +kernel),
    by decide +kernel,
    by decide +kernel,
    by decide +kernel,
    (by decide +kernel),
    by decide +kernel,
    by decide +kernel,
    by decide +kernel,
    (by decide +kernel),
    by decide +kernel,
    by (unfold Sys2Proof.Claims.InLog; decide +kernel),
    by decide +kernel⟩

/-! ### ServiceCommands -/

theorem test_meets_serviceCommands_srb :
    InTurn (hostBusyS jobCmd) (cmdOf 5 (payOf [7])) jobCmd ∧
    (cmdOf 5 (payOf [7])).payload.length = 8 ∧
    field (pword (cmdOf 5 (payOf [7])).payload 0) 12 52 = 0 ∧
    (List.find? (fun (y : Nat × HostWin) => decide (y.1 = BitVec.toNat (pword (cmdOf 5 (payOf [7])).payload 0))) jobCmd.hostwins = some (BitVec.toNat (pword (cmdOf 5 (payOf [7])).payload 0), { key := 1, base := 2, len := 3, r := true, w := false, a := false, mask := 4, port := (0 : Fin 8), revoked := false : HostWin })) ∧
    (hostBusyS jobCmd).hostBusy (cmdOf 5 (payOf [7])).job (BitVec.toNat (pword (cmdOf 5 (payOf [7])).payload 0)) = true :=
  ⟨by (unfold Sys2Proof.Claims.InTurn; decide +kernel),
    by decide +kernel⟩

/-! ### MemoryCommands -/

theorem test_meets_memoryCommands_mmw :
    InTurn at_mmw (cmdOf 5 (payOf [1, 2162683, 12379550950711951545])) jobCmd ∧
    NoLines at_mmw ∧
    (cmdOf 5 (payOf [1, 2162683, 12379550950711951545])).payload.length = 24 ∧
    pword (cmdOf 5 (payOf [1, 2162683, 12379550950711951545])).payload 0 = 1 ∧
    field (pword (cmdOf 5 (payOf [1, 2162683, 12379550950711951545])).payload 1) 50 14 = 0 ∧
    (logged at_mmw 3 (cmdOf 5 (payOf [1, 2162683, 12379550950711951545])) jobCmd).jobEntryOk jobCmd.jtbase (cmdOf 5 (payOf [1, 2162683, 12379550950711951545])).job = true ∧
    (logged at_mmw 3 (cmdOf 5 (payOf [1, 2162683, 12379550950711951545])) jobCmd).tableAt (field (pword (cmdOf 5 (payOf [1, 2162683, 12379550950711951545])).payload 1) 0 48) (field (pword (cmdOf 5 (payOf [1, 2162683, 12379550950711951545])).payload 1) 48 2) 4 (field ((logged at_mmw 3 (cmdOf 5 (payOf [1, 2162683, 12379550950711951545])) jobCmd).jobEntry jobCmd.jtbase (cmdOf 5 (payOf [1, 2162683, 12379550950711951545])).job 0) 0 48) = some 393216 ∧
    (∀ k < 8, ¬InLog jobCmd (393216 + 8 * levelIndex (field (pword (cmdOf 5 (payOf [1, 2162683, 12379550950711951545])).payload 1) 0 48) (field (pword (cmdOf 5 (payOf [1, 2162683, 12379550950711951545])).payload 1) 48 2) + k)) ∧
    BitVec.getLsbD ((logged at_mmw 3 (cmdOf 5 (payOf [1, 2162683, 12379550950711951545])) jobCmd).mem.get (393216 + 8 * levelIndex (field (pword (cmdOf 5 (payOf [1, 2162683, 12379550950711951545])).payload 1) 0 48) (field (pword (cmdOf 5 (payOf [1, 2162683, 12379550950711951545])).payload 1) 48 2))) 0 = true ∧
    (∃ x ∈ at_mmw.acks ++ at_mmw.sealedAt, InSpan (cmdOf 5 (payOf [1, 2162683, 12379550950711951545])).job (spanOf (pword (cmdOf 5 (payOf [1, 2162683, 12379550950711951545])).payload 1) (field (pword (cmdOf 5 (payOf [1, 2162683, 12379550950711951545])).payload 1) 48 2)).1 (spanOf (pword (cmdOf 5 (payOf [1, 2162683, 12379550950711951545])).payload 1) (field (pword (cmdOf 5 (payOf [1, 2162683, 12379550950711951545])).payload 1) 48 2)).2 x) :=
  ⟨by (unfold Sys2Proof.Claims.InTurn; decide +kernel),
    by (unfold Claims.NoLines; decide +kernel),
    by decide +kernel,
    by decide +kernel,
    by decide +kernel,
    (by decide +kernel),
    by decide +kernel,
    by (unfold Sys2Proof.Claims.InLog; decide +kernel),
    by decide +kernel,
    by (unfold Sys2Proof.Claims.InSpan; decide +kernel)⟩

/-- What the witness of `apr` runs on. -/
def at_apr := { flyMem (accOf (.load true) .bank 4 0x8000080000000010) with hoods := [] }

/-- What the witness of `apm` runs on. -/
def at_apm := { flyMem (accOf (.load true) (.home 0x70010 .wo 5) 4 0x200010) with dropped := [4, 5] }

/-- What the witness of `lp3o` runs on. -/
def at_lp3o := { linkS with jobs := [(1, jobLive), (6, jobLive)] }

/-- What the witness of `lpp0` runs on. -/
def at_lpp0 := { jobCmd with grants := [(3, gwin)] }

/-- What the witness of `lpp0` runs on. -/
def at_lpp0_2 := { peerS gwin with jobs := [] }

/-- What the witness of `lpp1` runs on. -/
def at_lpp1 := { jobCmd with grants := [(3, { gwin with revoked := true })] }

/-- What the witness of `lpp1` runs on. -/
def at_lpp1_2 := (peerS { gwin with revoked := true })

/-- What the witness of `lpp1` runs on. -/
def at_lpp1_3 := { gwin with revoked := true }

/-- What the witness of `lpp3` runs on. -/
def at_lpp3 := { jobCmd with grants := [(3, { gwin with w := false })] }

/-- What the witness of `lpp3` runs on. -/
def at_lpp3_2 := (peerS { gwin with w := false })

/-- What the witness of `lpp3` runs on. -/
def at_lpp3_3 := { gwin with w := false }

/-- What the witness of `lpp4` runs on. -/
def at_lpp4 := { jobCmd with grants := [(3, { gwin with base := 0x300000 })] }

/-- What the witness of `lpp4` runs on. -/
def at_lpp4_2 := (peerS { gwin with base := 0x300000 })

/-- What the witness of `lpp4` runs on. -/
def at_lpp4_3 := { gwin with base := 0x300000 }

/-- What the witness of `lpp9` runs on. -/
def at_lpp9 := { jobCmd with grants := [(3, { gwin with a := true })] }

/-- What the witness of `lpp9` runs on. -/
def at_lpp9_2 := (peerP { gwin with a := true } 0x7009D 0x8000)

/-- What the witness of `lpp9` runs on. -/
def at_lpp9_3 := { gwin with a := true }

/-- What the witness of `lpp10` runs on. -/
def at_lpp10 := (peerS { gwin with a := true })

/-- What the witness of `le3` runs on. -/
def at_le3 := { jobLive with notices := [⟨4, 7, 0x100, true, false, false, false⟩, ⟨5, 7, 0x100, true, false, false, false⟩] }

/-- What the witness of `lpp11` runs on. -/
def at_lpp11 := { peerP gwin 0x7009D 0x8000 with seals := [⟨0x70000, 0x80000, 0x60000, 1, 0x200000⟩] }

/-! ### AccessPath -/

theorem test_meets_accessPath_aph :
    flyStore.accs = [(9, accOf (AccKind.store 43981) (Stage.home 458768 PageTy.sc (2 ^ 64)) 2 2097168)] ∧
    (accOf (AccKind.store 43981) (Stage.home 458768 PageTy.sc (2 ^ 64)) 2 2097168).kind = AccKind.store 43981 ∧
    (accOf (AccKind.store 43981) (Stage.home 458768 PageTy.sc (2 ^ 64)) 2 2097168).stage = Stage.home 458768 PageTy.sc (2 ^ 64) ∧
    flyStore.waits = [] ∧
    ((List.all flyStore.cores fun (x : Nat × Core) => decide (x.2.journal = [])) = true) ∧
    (accOf (AccKind.store 43981) (Stage.home 458768 PageTy.sc (2 ^ 64)) 2 2097168).size ≤ 8 :=
  by decide +kernel

theorem test_meets_accessPath_apt :
    InFlight (flyS (accOf (AccKind.load true) (Stage.xlate false) 4 2097168)) 9 (accOf (AccKind.load true) (Stage.xlate false) 4 2097168) 6 ∧
    (accOf (AccKind.load true) (Stage.xlate false) 4 2097168).kind = AccKind.load true ∧
    (accOf (AccKind.load true) (Stage.xlate false) 4 2097168).stage = Stage.xlate false ∧
    (flyS (accOf (AccKind.load true) (Stage.xlate false) 4 2097168)).translate ⟨0, 1, false, ⟨16140901064495988736, 16140901064496381952⟩⟩ (field (accOf (AccKind.load true) (Stage.xlate false) 4 2097168).addr 0 48) Need.load = (((flyS (accOf (AccKind.load true) (Stage.xlate false) 4 2097168)).translate { core := 0, job := 1, sup := false, bases := { jt := 16140901064495988736, fat := 16140901064496381952 : Bases } : Agent } 2097168 Need.load).1, Tr.ok 458768 PageTy.wo false 0 393216 0) :=
  ⟨by exact ⟨rfl, _, rfl, rfl, rfl, rfl, by decide⟩,
    by decide +kernel⟩

theorem test_meets_accessPath_apl :
    InFlight (flyMem (accOf (AccKind.load true) (Stage.home 458768 PageTy.wo 5) 4 2097168)) 9 (accOf (AccKind.load true) (Stage.home 458768 PageTy.wo 5) 4 2097168) 6 ∧
    (accOf (AccKind.load true) (Stage.home 458768 PageTy.wo 5) 4 2097168).kind = AccKind.load true ∧
    (accOf (AccKind.load true) (Stage.home 458768 PageTy.wo 5) 4 2097168).ord = AmOrd.plain ∧
    (accOf (AccKind.load true) (Stage.home 458768 PageTy.wo 5) 4 2097168).stage = Stage.home 458768 PageTy.wo 5 ∧
    (flyMem (accOf (AccKind.load true) (Stage.home 458768 PageTy.wo 5) 4 2097168)).dropped.contains 5 = false ∧
    (flyMem (accOf (AccKind.load true) (Stage.home 458768 PageTy.wo 5) 4 2097168)).poisoned (field (accOf (AccKind.load true) (Stage.home 458768 PageTy.wo 5) 4 2097168).bases.fat 0 48 + 8 * (458768 / 2 ^ 21)) 8 = false ∧
    (flyMem (accOf (AccKind.load true) (Stage.home 458768 PageTy.wo 5) 4 2097168)).frameTy (accOf (AccKind.load true) (Stage.home 458768 PageTy.wo 5) 4 2097168).bases.fat 458768 = PageTy.wo ∧
    (flyMem (accOf (AccKind.load true) (Stage.home 458768 PageTy.wo 5) 4 2097168)).poisoned 458768 (accOf (AccKind.load true) (Stage.home 458768 PageTy.wo 5) 4 2097168).size = false ∧
    ((flyMem (accOf (AccKind.load true) (Stage.home 458768 PageTy.wo 5) 4 2097168)).core (accOf (AccKind.load true) (Stage.home 458768 PageTy.wo 5) 4 2097168).core).cacheBanks = [] ∧
    ((flyMem (accOf (AccKind.load true) (Stage.home 458768 PageTy.wo 5) 4 2097168)).core (accOf (AccKind.load true) (Stage.home 458768 PageTy.wo 5) 4 2097168).core).lines = [] :=
  ⟨by exact ⟨rfl, _, rfl, rfl, rfl, rfl, by decide⟩,
    by decide +kernel⟩

theorem test_meets_accessPath_apb :
    InFlight (flyMem (accOf (AccKind.load true) Stage.bank 4 9223380832947798032)) 9 (accOf (AccKind.load true) Stage.bank 4 9223380832947798032) 6 ∧
    (accOf (AccKind.load true) Stage.bank 4 9223380832947798032).kind = AccKind.load true ∧
    (accOf (AccKind.load true) Stage.bank 4 9223380832947798032).ord = AmOrd.plain ∧
    (accOf (AccKind.load true) Stage.bank 4 9223380832947798032).stage = Stage.bank ∧
    space true (accOf (AccKind.load true) Stage.bank 4 9223380832947798032).addr = Except.ok (Space.pkg 1 16) ∧
    (flyMem (accOf (AccKind.load true) Stage.bank 4 9223380832947798032)).preempts = [] ∧
    ((flyMem (accOf (AccKind.load true) Stage.bank 4 9223380832947798032)).core 1).fwd = none ∧
    (1 = (accOf (AccKind.load true) Stage.bank 4 9223380832947798032).core ∨ (flyMem (accOf (AccKind.load true) Stage.bank 4 9223380832947798032)).shut 1 = false ∧ (flyMem (accOf (AccKind.load true) Stage.bank 4 9223380832947798032)).inHoods (accOf (AccKind.load true) Stage.bank 4 9223380832947798032).job 1 = true) ∧
    ((flyMem (accOf (AccKind.load true) Stage.bank 4 9223380832947798032)).core 1).scratchOk 16 (accOf (AccKind.load true) Stage.bank 4 9223380832947798032).size = true ∧
    touches ((flyMem (accOf (AccKind.load true) Stage.bank 4 9223380832947798032)).core 1).spois 16 (accOf (AccKind.load true) Stage.bank 4 9223380832947798032).size = false :=
  ⟨by exact ⟨rfl, _, rfl, rfl, rfl, rfl, by decide⟩,
    by decide +kernel⟩

theorem test_meets_accessPath_apr :
    InFlight at_apr 9 (accOf (AccKind.load true) Stage.bank 4 9223380832947798032) 6 ∧
    (accOf (AccKind.load true) Stage.bank 4 9223380832947798032).kind = AccKind.load true ∧
    (accOf (AccKind.load true) Stage.bank 4 9223380832947798032).stage = Stage.bank ∧
    space true (accOf (AccKind.load true) Stage.bank 4 9223380832947798032).addr = Except.ok (Space.pkg 1 16) ∧
    at_apr.preempts = [] ∧
    (at_apr.core 1).fwd = none ∧
    1 ≠ (accOf (AccKind.load true) Stage.bank 4 9223380832947798032).core ∧
    (at_apr.shut 1 = true ∨ at_apr.inHoods (accOf (AccKind.load true) Stage.bank 4 9223380832947798032).job 1 = false) ∧
    (at_apr.strand (accOf (AccKind.load true) Stage.bank 4 9223380832947798032).core (accOf (AccKind.load true) Stage.bank 4 9223380832947798032).slot).intrap = false ∧
    at_apr.preempted (accOf (AccKind.load true) Stage.bank 4 9223380832947798032).core = false ∧
    (at_apr.core (accOf (AccKind.load true) Stage.bank 4 9223380832947798032).core).trapHeld (accOf (AccKind.load true) Stage.bank 4 9223380832947798032).slot = false ∧
    (at_apr.strand (accOf (AccKind.load true) Stage.bank 4 9223380832947798032).core (accOf (AccKind.load true) Stage.bank 4 9223380832947798032).slot).fl = Fol.none ∧
    (∃ (o : Out), (at_apr.strand (accOf (AccKind.load true) Stage.bank 4 9223380832947798032).core (accOf (AccKind.load true) Stage.bank 4 9223380832947798032).slot).outs = [o] ∧ o.prior = []) :=
  ⟨by exact ⟨rfl, _, rfl, rfl, rfl, rfl, by decide⟩,
    by decide +kernel,
    by decide +kernel,
    by decide +kernel,
    (by decide +kernel),
    by decide +kernel,
    by decide +kernel,
    by decide +kernel,
    (by decide +kernel),
    by decide +kernel,
    by decide +kernel,
    by decide +kernel,
    by (refine ⟨_, rfl, ?_⟩; decide +kernel)⟩

theorem test_meets_accessPath_apw :
    InFlight (flyMem (accOf (AccKind.amo AmoFn.add 5 0) Stage.pwa 4 9223380832947798032)) 9 (accOf (AccKind.amo AmoFn.add 5 0) Stage.pwa 4 9223380832947798032) 6 ∧
    (accOf (AccKind.amo AmoFn.add 5 0) Stage.pwa 4 9223380832947798032).kind = AccKind.amo AmoFn.add 5 0 ∧
    (accOf (AccKind.amo AmoFn.add 5 0) Stage.pwa 4 9223380832947798032).ord = AmOrd.plain ∧
    (accOf (AccKind.amo AmoFn.add 5 0) Stage.pwa 4 9223380832947798032).stage = Stage.pwa ∧
    ((accOf (AccKind.amo AmoFn.add 5 0) Stage.pwa 4 9223380832947798032).size = 4 ∨ (accOf (AccKind.amo AmoFn.add 5 0) Stage.pwa 4 9223380832947798032).size = 8 ∧ AmoFn.add ≠ AmoFn.fadd) ∧
    space true (accOf (AccKind.amo AmoFn.add 5 0) Stage.pwa 4 9223380832947798032).addr = Except.ok (Space.pkg 1 16) ∧
    (flyMem (accOf (AccKind.amo AmoFn.add 5 0) Stage.pwa 4 9223380832947798032)).preempts = [] ∧
    ((flyMem (accOf (AccKind.amo AmoFn.add 5 0) Stage.pwa 4 9223380832947798032)).core 1).fwd = none ∧
    (flyMem (accOf (AccKind.amo AmoFn.add 5 0) Stage.pwa 4 9223380832947798032)).shut 1 = false ∧
    (flyMem (accOf (AccKind.amo AmoFn.add 5 0) Stage.pwa 4 9223380832947798032)).inHoods (accOf (AccKind.amo AmoFn.add 5 0) Stage.pwa 4 9223380832947798032).job 1 = true ∧
    1 ≠ (accOf (AccKind.amo AmoFn.add 5 0) Stage.pwa 4 9223380832947798032).core ∧
    ((flyMem (accOf (AccKind.amo AmoFn.add 5 0) Stage.pwa 4 9223380832947798032)).core 1).scratchOk 16 (accOf (AccKind.amo AmoFn.add 5 0) Stage.pwa 4 9223380832947798032).size = true ∧
    touches ((flyMem (accOf (AccKind.amo AmoFn.add 5 0) Stage.pwa 4 9223380832947798032)).core 1).spois 16 (accOf (AccKind.amo AmoFn.add 5 0) Stage.pwa 4 9223380832947798032).size = false ∧
    (((flyMem (accOf (AccKind.amo AmoFn.add 5 0) Stage.pwa 4 9223380832947798032)).core 1).strand 16).st = SlotSt.free ∧
    ((flyMem (accOf (AccKind.amo AmoFn.add 5 0) Stage.pwa 4 9223380832947798032)).core 1).box true = [] ∧
    ((flyMem (accOf (AccKind.amo AmoFn.add 5 0) Stage.pwa 4 9223380832947798032)).core 1).box false = [] ∧
    ((List.all (flyMem (accOf (AccKind.amo AmoFn.add 5 0) Stage.pwa 4 9223380832947798032)).cores fun (x : Nat × Core) => decide (x.2.sq false = [])) = true) ∧
    (flyMem (accOf (AccKind.amo AmoFn.add 5 0) Stage.pwa 4 9223380832947798032)).mails = [] :=
  ⟨by exact ⟨rfl, _, rfl, rfl, rfl, rfl, by decide⟩,
    by decide +kernel⟩

theorem test_meets_accessPath_apo :
    InFlight (flyMem (accOf (AccKind.load true) Stage.outside 2 13835059154793791520)) 9 (accOf (AccKind.load true) Stage.outside 2 13835059154793791520) 6 ∧
    (accOf (AccKind.load true) Stage.outside 2 13835059154793791520).kind = AccKind.load true ∧
    (accOf (AccKind.load true) Stage.outside 2 13835059154793791520).ord = AmOrd.plain ∧
    (accOf (AccKind.load true) Stage.outside 2 13835059154793791520).stage = Stage.outside ∧
    (flyMem (accOf (AccKind.load true) Stage.outside 2 13835059154793791520)).deaf = false :=
  ⟨by exact ⟨rfl, _, rfl, rfl, rfl, rfl, by decide⟩,
    by decide +kernel⟩

theorem test_meets_accessPath_apm :
    InFlight at_apm 9 (accOf (AccKind.load true) (Stage.home 458768 PageTy.wo 5) 4 2097168) 6 ∧
    (accOf (AccKind.load true) (Stage.home 458768 PageTy.wo 5) 4 2097168).stage = Stage.home 458768 PageTy.wo 5 ∧
    5 ∈ at_apm.dropped :=
  ⟨by exact ⟨rfl, _, rfl, rfl, rfl, rfl, by decide⟩,
    by decide +kernel⟩

/-! ### LinksAndPeers -/

theorem test_meets_linksAndPeers_lp1 :
    linkS.deaf = false :=
  by decide +kernel

theorem test_meets_linksAndPeers_lp2 :
    linkS.deaf = false ∧
    (∀ (j : Job), linkS.job? 1 = some j → j.key ≠ [7]) ∧
    (∀ (code : BitVec 8) (c : Cmd), Inbound.grantNotice 1 1 2 3 true false true ≠ Inbound.cmd code c) :=
  ⟨by decide +kernel,
    by decide +kernel,
    by (simp_all; done)⟩

theorem test_meets_linksAndPeers_lp2c :
    linkS.deaf = false ∧
    1 ≠ 6 ∧
    Inbound.contribution 6 (4 : Fin 32) 1 2 [] ∈ [Inbound.grantNotice 1 6 3 2 false false false, Inbound.revokeNotice 1 6 3, Inbound.contribution 6 (4 : Fin 32) 1 2 [], Inbound.loss 6 (4 : Fin 32) 2] :=
  by decide +kernel

theorem test_meets_linksAndPeers_lp2n :
    linkS.deaf = false ∧
    1 ≠ 6 ∧
    Inbound.grantNotice 9 6 3 2 true false true ∈ [Inbound.grantNotice 9 6 3 2 true false true, Inbound.revokeNotice 9 6 3, Inbound.contribution 6 (4 : Fin 32) 9 2 [], Inbound.loss 6 (4 : Fin 32) 2] :=
  by decide +kernel

theorem test_meets_linksAndPeers_lp3 :
    linkS.deaf = false ∧
    linkS.job? 1 = some jobLive ∧
    jobLive.key = [1] ∧
    linkS.jobs = [(BitVec.toNat (1 : BitVec 16), jobLive)] :=
  by decide +kernel

theorem test_meets_linksAndPeers_lp3o :
    at_lp3o.deaf = false ∧
    at_lp3o.job? 1 = some jobLive ∧
    jobLive.key = [1] ∧
    at_lp3o.jobs = [(BitVec.toNat (1 : BitVec 16), jobLive), (BitVec.toNat (6 : BitVec 16), jobLive)] ∧
    1 ≠ 6 ∧
    jobLive.grants = [] :=
  by decide +kernel

theorem test_meets_linksAndPeers_lp3b :
    linkS.deaf = false ∧
    linkS.job? 1 = some jobLive ∧
    jobLive.key = [1] :=
  by decide +kernel

theorem test_meets_linksAndPeers_lp3c :
    linkS.deaf = false ∧
    linkS.job? 1 = some jobLive ∧
    jobLive.key = [1] :=
  by decide +kernel

theorem test_meets_linksAndPeers_lp3d :
    linkS.deaf = false ∧
    linkS.job? 1 = some jobLive ∧
    jobLive.key = [1] :=
  by decide +kernel

theorem test_meets_linksAndPeers_lp3e :
    linkS.deaf = false ∧
    linkS.job? 1 = some jobLive ∧
    jobLive.key = [1] :=
  by decide +kernel

theorem test_meets_linksAndPeers_lp4 :
    linkS.deaf = false ∧
    (cmdOf 5 []).key = [1] :=
  by decide +kernel

theorem test_meets_linksAndPeers_lp4b :
    linkS.deaf = false ∧
    (cmdOf 5 []).key ≠ [7] :=
  by decide +kernel

theorem test_meets_linksAndPeers_lpp0 :
    at_lpp0_2.deaf = false ∧
    at_lpp0_2.jobs = [] :=
  by decide +kernel

theorem test_meets_linksAndPeers_lpp1 :
    at_lpp1_2.deaf = false ∧
    Granted at_lpp1_2 9 5 3 1 at_lpp1 at_lpp1_3 ∧
    at_lpp1_3.revoked = true :=
  ⟨by decide +kernel,
    by (unfold Sys2Proof.Claims.Granted; decide +kernel),
    by decide +kernel⟩

theorem test_meets_linksAndPeers_lpp2 :
    (peerS gwin).deaf = false ∧
    Granted (peerS gwin) 9 5 3 1 at_lpp0 gwin ∧
    gwin.revoked = false ∧
    ((peerForm gwin (PeerOp.load 4)).1 ∉ [1, 2, 4, 8] ∨ 18 % (peerForm gwin (PeerOp.load 4)).1 ≠ 0) :=
  ⟨by decide +kernel,
    by (unfold Sys2Proof.Claims.Granted; decide +kernel),
    by decide +kernel⟩

theorem test_meets_linksAndPeers_lpp3 :
    at_lpp3_2.deaf = false ∧
    Granted at_lpp3_2 9 5 3 1 at_lpp3 at_lpp3_3 ∧
    at_lpp3_3.revoked = false ∧
    (peerForm at_lpp3_3 (PeerOp.store 4 7)).1 ∈ [1, 2, 4, 8] ∧
    16 % (peerForm at_lpp3_3 (PeerOp.store 4 7)).1 = 0 ∧
    ((peerForm at_lpp3_3 (PeerOp.store 4 7)).2 = false ∨ at_lpp3_3.len < 16 + (peerForm at_lpp3_3 (PeerOp.store 4 7)).1) :=
  ⟨by decide +kernel,
    by (unfold Sys2Proof.Claims.Granted; decide +kernel),
    by decide +kernel⟩

theorem test_meets_linksAndPeers_lpp3l :
    (peerS gwin).deaf = false ∧
    Granted (peerS gwin) 9 5 3 1 at_lpp0 gwin ∧
    gwin.revoked = false ∧
    (peerForm gwin (PeerOp.load 8)).1 ∈ [1, 2, 4, 8] ∧
    131072 % (peerForm gwin (PeerOp.load 8)).1 = 0 ∧
    ((peerForm gwin (PeerOp.load 8)).2 = false ∨ gwin.len < 131072 + (peerForm gwin (PeerOp.load 8)).1) :=
  ⟨by decide +kernel,
    by (unfold Sys2Proof.Claims.Granted; decide +kernel),
    by decide +kernel⟩

theorem test_meets_linksAndPeers_lpp4 :
    at_lpp4_2.deaf = false ∧
    Granted at_lpp4_2 9 5 3 1 at_lpp4 at_lpp4_3 ∧
    at_lpp4_3.revoked = false ∧
    (peerForm at_lpp4_3 (PeerOp.load 4)).1 ∈ [1, 2, 4, 8] ∧
    16 % (peerForm at_lpp4_3 (PeerOp.load 4)).1 = 0 ∧
    (peerForm at_lpp4_3 (PeerOp.load 4)).2 = true ∧
    16 + (peerForm at_lpp4_3 (PeerOp.load 4)).1 ≤ at_lpp4_3.len ∧
    (at_lpp4_2.jobEntryOk at_lpp4.jtbase 1 = false ∨ ∃ (x : Nat × Word), at_lpp4_2.walkJob at_lpp4.jtbase 1 (at_lpp4_3.base + 16) = Except.error x) :=
  ⟨by decide +kernel,
    by (unfold Sys2Proof.Claims.Granted; decide +kernel),
    by decide +kernel,
    by decide +kernel,
    by decide +kernel,
    (by decide +kernel),
    by decide +kernel,
    by exact Or.inr ⟨_, rfl⟩⟩

theorem test_meets_linksAndPeers_lpp5 :
    (peerP gwin 458897 0).deaf = false ∧
    Granted (peerP gwin 458897 0) 9 5 3 1 at_lpp0 gwin ∧
    gwin.revoked = false ∧
    (peerForm gwin (PeerOp.load 4)).1 ∈ [1, 2, 4, 8] ∧
    16 % (peerForm gwin (PeerOp.load 4)).1 = 0 ∧
    (peerForm gwin (PeerOp.load 4)).2 = true ∧
    16 + (peerForm gwin (PeerOp.load 4)).1 ≤ gwin.len ∧
    (peerP gwin 458897 0).jobEntryOk at_lpp0.jtbase 1 = true ∧
    (peerP gwin 458897 0).walkJob at_lpp0.jtbase 1 (gwin.base + 16) = Except.ok (458897, 0, 393216) ∧
    (peerP gwin 458897 0).framesMatch at_lpp0.fatbase 458897 0 = true ∧
    (peerP gwin 458897 0).fatPoisoned at_lpp0.fatbase 458897 0 = false ∧
    PeerOp.load 4 = PeerOp.load 4 ∧
    BitVec.getLsbD (458897 : Word) 3 = false :=
  ⟨by decide +kernel,
    by (unfold Sys2Proof.Claims.Granted; decide +kernel),
    by decide +kernel⟩

theorem test_meets_linksAndPeers_lpp6 :
    (peerP gwin 458911 49152).deaf = false ∧
    Granted (peerP gwin 458911 49152) 9 5 3 1 at_lpp0 gwin ∧
    gwin.revoked = false ∧
    (peerForm gwin (PeerOp.load 4)).1 ∈ [1, 2, 4, 8] ∧
    16 % (peerForm gwin (PeerOp.load 4)).1 = 0 ∧
    (peerForm gwin (PeerOp.load 4)).2 = true ∧
    16 + (peerForm gwin (PeerOp.load 4)).1 ≤ gwin.len ∧
    (peerP gwin 458911 49152).jobEntryOk at_lpp0.jtbase 1 = true ∧
    (peerP gwin 458911 49152).walkJob at_lpp0.jtbase 1 (gwin.base + 16) = Except.ok (458911, 0, 393216) ∧
    (peerP gwin 458911 49152).framesMatch at_lpp0.fatbase 458911 0 = true ∧
    (peerP gwin 458911 49152).fatPoisoned at_lpp0.fatbase 458911 0 = false ∧
    PeerOp.load 4 = PeerOp.load 4 ∧
    BitVec.getLsbD (458911 : Word) 3 = true ∧
    field 458911 1 2 = 3 :=
  ⟨by decide +kernel,
    by (unfold Sys2Proof.Claims.Granted; decide +kernel),
    by decide +kernel⟩

theorem test_meets_linksAndPeers_lpp7 :
    (peerS gwin).deaf = false ∧
    Granted (peerS gwin) 9 5 3 1 at_lpp0 gwin ∧
    gwin.revoked = false ∧
    (peerForm gwin (PeerOp.load 4)).1 ∈ [1, 2, 4, 8] ∧
    16 % (peerForm gwin (PeerOp.load 4)).1 = 0 ∧
    (peerForm gwin (PeerOp.load 4)).2 = true ∧
    16 + (peerForm gwin (PeerOp.load 4)).1 ≤ gwin.len ∧
    (peerS gwin).jobEntryOk at_lpp0.jtbase 1 = true ∧
    (peerS gwin).walkJob at_lpp0.jtbase 1 (gwin.base + 16) = Except.ok (458905, 0, 393216) ∧
    (peerS gwin).framesMatch at_lpp0.fatbase 458905 0 = true ∧
    (peerS gwin).fatPoisoned at_lpp0.fatbase 458905 0 = false ∧
    PeerOp.load 4 = PeerOp.load 4 ∧
    BitVec.getLsbD (458905 : Word) 3 = true ∧
    field 458905 1 2 ≠ 3 ∧
    (peerS gwin).poisoned (field 458905 16 32 * 2 ^ 16 + (gwin.base + 16) % 2 ^ 16) (peerForm gwin (PeerOp.load 4)).1 = false :=
  ⟨by decide +kernel,
    by (unfold Sys2Proof.Claims.Granted; decide +kernel),
    by decide +kernel⟩

theorem test_meets_linksAndPeers_lpp7s :
    (peerP gwin 458973 32768).deaf = false ∧
    Granted (peerP gwin 458973 32768) 9 5 3 1 at_lpp0 gwin ∧
    gwin.revoked = false ∧
    (peerForm gwin (PeerOp.load 4)).1 ∈ [1, 2, 4, 8] ∧
    16 % (peerForm gwin (PeerOp.load 4)).1 = 0 ∧
    (peerForm gwin (PeerOp.load 4)).2 = true ∧
    16 + (peerForm gwin (PeerOp.load 4)).1 ≤ gwin.len ∧
    (peerP gwin 458973 32768).jobEntryOk at_lpp0.jtbase 1 = true ∧
    (peerP gwin 458973 32768).walkJob at_lpp0.jtbase 1 (gwin.base + 16) = Except.ok (458973, 0, 393216) ∧
    (peerP gwin 458973 32768).framesMatch at_lpp0.fatbase 458973 0 = true ∧
    (peerP gwin 458973 32768).fatPoisoned at_lpp0.fatbase 458973 0 = false ∧
    PeerOp.load 4 = PeerOp.load 4 ∧
    BitVec.getLsbD (458973 : Word) 3 = true ∧
    field 458973 1 2 ≠ 3 ∧
    (peerP gwin 458973 32768).poisoned (field 458973 16 32 * 2 ^ 16 + (gwin.base + 16) % 2 ^ 16) (peerForm gwin (PeerOp.load 4)).1 = false :=
  ⟨by decide +kernel,
    by (unfold Sys2Proof.Claims.Granted; decide +kernel),
    by decide +kernel⟩

theorem test_meets_linksAndPeers_lpp8 :
    (peerS gwin).deaf = false ∧
    Granted (peerS gwin) 9 5 3 1 at_lpp0 gwin ∧
    gwin.revoked = false ∧
    (peerForm gwin (PeerOp.store 4 4886718345)).1 ∈ [1, 2, 4, 8] ∧
    16 % (peerForm gwin (PeerOp.store 4 4886718345)).1 = 0 ∧
    (peerForm gwin (PeerOp.store 4 4886718345)).2 = true ∧
    16 + (peerForm gwin (PeerOp.store 4 4886718345)).1 ≤ gwin.len ∧
    (peerS gwin).jobEntryOk at_lpp0.jtbase 1 = true ∧
    (peerS gwin).walkJob at_lpp0.jtbase 1 (gwin.base + 16) = Except.ok (458905, 0, 393216) ∧
    (peerS gwin).framesMatch at_lpp0.fatbase 458905 0 = true ∧
    (peerS gwin).fatPoisoned at_lpp0.fatbase 458905 0 = false ∧
    PeerOp.store 4 4886718345 = PeerOp.store 4 4886718345 ∧
    BitVec.getLsbD (458905 : Word) 4 = true ∧
    field 458905 1 2 < 2 :=
  ⟨by decide +kernel,
    by (unfold Sys2Proof.Claims.Granted; decide +kernel),
    by decide +kernel⟩

theorem test_meets_linksAndPeers_lpp9 :
    at_lpp9_2.deaf = false ∧
    Granted at_lpp9_2 9 5 3 1 at_lpp9 at_lpp9_3 ∧
    at_lpp9_3.revoked = false ∧
    (peerForm at_lpp9_3 (PeerOp.amo AmoFn.add false 5 0)).1 ∈ [1, 2, 4, 8] ∧
    16 % (peerForm at_lpp9_3 (PeerOp.amo AmoFn.add false 5 0)).1 = 0 ∧
    (peerForm at_lpp9_3 (PeerOp.amo AmoFn.add false 5 0)).2 = true ∧
    16 + (peerForm at_lpp9_3 (PeerOp.amo AmoFn.add false 5 0)).1 ≤ at_lpp9_3.len ∧
    at_lpp9_2.jobEntryOk at_lpp9.jtbase 1 = true ∧
    at_lpp9_2.walkJob at_lpp9.jtbase 1 (at_lpp9_3.base + 16) = Except.ok (458909, 0, 393216) ∧
    at_lpp9_2.framesMatch at_lpp9.fatbase 458909 0 = true ∧
    at_lpp9_2.fatPoisoned at_lpp9.fatbase 458909 0 = false ∧
    PeerOp.amo AmoFn.add false 5 0 = PeerOp.amo AmoFn.add false 5 0 ∧
    BitVec.getLsbD (458909 : Word) 3 = true ∧
    BitVec.getLsbD (458909 : Word) 4 = true ∧
    2 ≤ field 458909 1 2 :=
  ⟨by decide +kernel,
    by (unfold Sys2Proof.Claims.Granted; decide +kernel),
    by decide +kernel⟩

theorem test_meets_linksAndPeers_lpp10 :
    at_lpp10.deaf = false ∧
    Granted at_lpp10 9 5 3 1 at_lpp9 at_lpp9_3 ∧
    at_lpp9_3.revoked = false ∧
    (peerForm at_lpp9_3 (PeerOp.amo AmoFn.add false 5 0)).1 ∈ [1, 2, 4, 8] ∧
    16 % (peerForm at_lpp9_3 (PeerOp.amo AmoFn.add false 5 0)).1 = 0 ∧
    (peerForm at_lpp9_3 (PeerOp.amo AmoFn.add false 5 0)).2 = true ∧
    16 + (peerForm at_lpp9_3 (PeerOp.amo AmoFn.add false 5 0)).1 ≤ at_lpp9_3.len ∧
    at_lpp10.jobEntryOk at_lpp9.jtbase 1 = true ∧
    at_lpp10.walkJob at_lpp9.jtbase 1 (at_lpp9_3.base + 16) = Except.ok (458905, 0, 393216) ∧
    at_lpp10.framesMatch at_lpp9.fatbase 458905 0 = true ∧
    at_lpp10.fatPoisoned at_lpp9.fatbase 458905 0 = false ∧
    PeerOp.amo AmoFn.add false 5 0 = PeerOp.amo AmoFn.add false 5 0 ∧
    BitVec.getLsbD (458905 : Word) 3 = true ∧
    BitVec.getLsbD (458905 : Word) 4 = true ∧
    field 458905 1 2 < 2 ∧
    at_lpp10.poisoned (field 458905 16 32 * 2 ^ 16 + (at_lpp9_3.base + 16) % 2 ^ 16) (peerForm at_lpp9_3 (PeerOp.amo AmoFn.add false 5 0)).1 = false ∧
    (false = true → AmoFn.add ≠ AmoFn.fadd) :=
  ⟨by decide +kernel,
    by (unfold Sys2Proof.Claims.Granted; decide +kernel),
    by decide +kernel⟩

/-! ### LinkEvents -/

theorem test_meets_linkEvents_le3 :
    noticed.deaf = false ∧
    noticed.job? 1 = some at_le3 :=
  by decide +kernel

theorem test_meets_linkEvents_le4 :
    noticed.deaf = false ∧
    noticed.job? 1 = some at_le3 ∧
    at_le3.key = [1] :=
  by decide +kernel

theorem test_meets_linkEvents_le5 :
    noticed.deaf = false ∧
    noticed.job? 1 = some at_le3 :=
  by decide +kernel

theorem test_meets_linkEvents_le6 :
    noticed.deaf = false ∧
    noticed.job? 1 = some at_le3 :=
  by decide +kernel

theorem test_meets_linkEvents_lep :
    (peerS gwin).deaf = false ∧
    Granted (peerS gwin) 9 5 3 1 at_lpp0 gwin ∧
    gwin.revoked = false ∧
    gwin.r = true ∧
    4 ∈ [1, 2, 4, 8] ∧
    16 % 4 = 0 ∧
    16 + 4 ≤ gwin.len ∧
    (peerS gwin).jobEntryOk at_lpp0.jtbase 1 = true ∧
    (peerS gwin).walkJob at_lpp0.jtbase 1 (gwin.base + 16) = Except.ok (458905, 0, 393216) ∧
    (peerS gwin).framesMatch at_lpp0.fatbase 458905 0 = true ∧
    (peerS gwin).fatPoisoned at_lpp0.fatbase 458905 0 = false ∧
    BitVec.getLsbD (458905 : Word) 3 = true ∧
    field 458905 1 2 ≠ 3 ∧
    (peerS gwin).poisoned (field 458905 16 32 * 2 ^ 16 + (gwin.base + 16) % 2 ^ 16) 4 = false :=
  ⟨by decide +kernel,
    by (unfold Sys2Proof.Claims.Granted; decide +kernel),
    by decide +kernel⟩

/-! ### LinksAndPeers -/

theorem test_meets_linksAndPeers_lpp11 :
    at_lpp11.deaf = false ∧
    Granted at_lpp11 9 5 3 1 at_lpp0 gwin ∧
    gwin.revoked = false ∧
    (peerForm gwin (PeerOp.store 4 7)).1 ∈ [1, 2, 4, 8] ∧
    16 % (peerForm gwin (PeerOp.store 4 7)).1 = 0 ∧
    (peerForm gwin (PeerOp.store 4 7)).2 = true ∧
    16 + (peerForm gwin (PeerOp.store 4 7)).1 ≤ gwin.len ∧
    at_lpp11.jobEntryOk at_lpp0.jtbase 1 = true ∧
    at_lpp11.walkJob at_lpp0.jtbase 1 (gwin.base + 16) = Except.ok (458909, 0, 393216) ∧
    at_lpp11.framesMatch at_lpp0.fatbase 458909 0 = true ∧
    at_lpp11.fatPoisoned at_lpp0.fatbase 458909 0 = false ∧
    PeerOp.store 4 7 = PeerOp.store 4 7 ∧
    BitVec.getLsbD (458909 : Word) 4 = true ∧
    field 458909 1 2 = 2 ∧
    (∃ x ∈ at_lpp11.seals, x.lo ≤ field 458909 16 32 * 2 ^ 16 + (gwin.base + 16) % 2 ^ 16 ∧ field 458909 16 32 * 2 ^ 16 + (gwin.base + 16) % 2 ^ 16 < x.hi) :=
  ⟨by decide +kernel,
    by (unfold Sys2Proof.Claims.Granted; decide +kernel),
    by decide +kernel⟩

/-- What the witness of `st1` runs on. -/
def at_st1 := (thiefS { Thief.reset with last := some 3 })

/-- What the witness of `st1w` runs on. -/
def at_st1w := (thiefS { Thief.reset with last := some 51, tried := 14 })

/-- What the witness of `st2` runs on. -/
def at_st2 := (thiefFar { Thief.reset with last := some 51, tried := 15, lastDie := some 3 })

/-- What the witness of `st2n` runs on. -/
def at_st2n := { thiefS { Thief.reset with last := some 51, tried := 15, lastDie := some 3 } with hoods := [hood1] }

/-- What the witness of `sgr` runs on. -/
def at_sgr := { Thief.reset with last := some 3, out := none, tried := 0, backoff := some 256, lastDie := some 2 }

/-- What the witness of `sb` runs on. -/
def at_sb := (thiefS { Thief.reset with backoff := some 0, tried := 3 })

/-- What the witness of `sbn` runs on. -/
def at_sbn := (thiefS { Thief.reset with backoff := some 1 })

/-- What the witness of `wv0` runs on. -/
def at_wv0 := { one user with weavers := [(1, { Weaver.reset with samples := 7, congested := [3], due := true })] }

/-- What the witness of `wvd` runs on. -/
def at_wvd := { one user with islands := [(4, { Island.reset with cycle := 0xFFF })] }

/-- What the witness of `wvt` runs on. -/
def at_wvt := { one user with weavers := [(1, { Weaver.reset with samples := 7, due := true })] }

/-! ### Stealing -/

theorem test_meets_stealing_st1 :
    Hungry at_st1 0 0 ∧
    NoStage at_st1 0 ∧
    (at_st1.core 0).thief.out = none ∧
    (at_st1.core 0).thief.backoff = none ∧
    (at_st1.core 0).thief.last = some 3 ∧
    (at_st1.core 0).thief.tried < (mates at_st1 0).length ∧
    NextOf (mates at_st1 0) 3 16 :=
  ⟨by (unfold Sys2Proof.Claims.Hungry Sys2Proof.Claims.LowestFree; decide +kernel),
    by (unfold Sys2Proof.Claims.NoStage; decide +kernel),
    by decide +kernel,
    by decide +kernel,
    by decide +kernel,
    (by decide +kernel),
    by (unfold Sys2Proof.Claims.NextOf; decide +kernel)⟩

theorem test_meets_stealing_st1w :
    Hungry at_st1w 0 0 ∧
    NoStage at_st1w 0 ∧
    (at_st1w.core 0).thief.out = none ∧
    (at_st1w.core 0).thief.backoff = none ∧
    (at_st1w.core 0).thief.last = some 51 ∧
    (at_st1w.core 0).thief.tried < (mates at_st1w 0).length ∧
    NextOf (mates at_st1w 0) 51 1 :=
  ⟨by (unfold Sys2Proof.Claims.Hungry Sys2Proof.Claims.LowestFree; decide +kernel),
    by (unfold Sys2Proof.Claims.NoStage; decide +kernel),
    by decide +kernel,
    by decide +kernel,
    by decide +kernel,
    (by decide +kernel),
    by (unfold Sys2Proof.Claims.NextOf; decide +kernel)⟩

theorem test_meets_stealing_st2 :
    Hungry at_st2 0 0 ∧
    NoStage at_st2 0 ∧
    (at_st2.core 0).thief.out = none ∧
    (at_st2.core 0).thief.backoff = none ∧
    (at_st2.core 0).thief.last = some 51 ∧
    (mates at_st2 0).length ≤ (at_st2.core 0).thief.tried :=
  ⟨by (unfold Sys2Proof.Claims.Hungry Sys2Proof.Claims.LowestFree; decide +kernel),
    by (unfold Sys2Proof.Claims.NoStage; decide +kernel),
    by decide +kernel⟩

theorem test_meets_stealing_st2r :
    Hungry at_st2 0 0 ∧
    NoStage at_st2 0 ∧
    (at_st2.core 0).thief.out = none ∧
    (at_st2.core 0).thief.backoff = none ∧
    (at_st2.core 0).thief.last = some 51 ∧
    (mates at_st2 0).length ≤ (at_st2.core 0).thief.tried ∧
    (at_st2.core 0).thief.lastDie = some 3 ∧
    NextOf (dies at_st2 0) 3 1 ∧
    (at_st2.core 0).thief.lastOn = [] ∧
    132 ∈ coresOn at_st2 0 1 ∧
    (∀ y ∈ coresOn at_st2 0 1, 132 ≤ y) ∧
    132 ≠ 0 :=
  ⟨by (unfold Sys2Proof.Claims.Hungry Sys2Proof.Claims.LowestFree; decide +kernel),
    by (unfold Sys2Proof.Claims.NoStage; decide +kernel),
    by decide +kernel,
    by decide +kernel,
    by decide +kernel,
    (by decide +kernel),
    by decide +kernel,
    by (unfold Sys2Proof.Claims.NextOf; decide +kernel),
    by decide +kernel⟩

theorem test_meets_stealing_st2n :
    Hungry at_st2n 0 0 ∧
    NoStage at_st2n 0 ∧
    (at_st2n.core 0).thief.out = none ∧
    (at_st2n.core 0).thief.backoff = none ∧
    (at_st2n.core 0).thief.last = some 51 ∧
    (mates at_st2n 0).length ≤ (at_st2n.core 0).thief.tried ∧
    dies at_st2n 0 = [] :=
  ⟨by (unfold Sys2Proof.Claims.Hungry Sys2Proof.Claims.LowestFree; decide +kernel),
    by (unfold Sys2Proof.Claims.NoStage; decide +kernel),
    by decide +kernel⟩

theorem test_meets_stealing_sa0 :
    ((victimFree [DqEnt.one [5], DqEnt.one [6]] 1).core 3).asked = [(0, 1, false)] ∧
    PopWaits (victimFree [DqEnt.one [5], DqEnt.one [6]] 1) 3 :=
  ⟨by decide +kernel,
    by (unfold Sys2Proof.Claims.PopWaits; decide +kernel)⟩

theorem test_meets_stealing_sa1 :
    ((victimS [DqEnt.one [5], DqEnt.one [6]] 2).core 3).asked = [(0, 2, false)] ∧
    (¬PopWaits (victimS [DqEnt.one [5], DqEnt.one [6]] 2) 3) ∧
    (2 ≠ (victimS [DqEnt.one [5], DqEnt.one [6]] 2).coreJob 3 ∨ (victimS [DqEnt.one [5], DqEnt.one [6]] 2).shut 3 = true ∨ (victimS [DqEnt.one [5], DqEnt.one [6]] 2).preempted 3 = true ∨ ((victimS [DqEnt.one [5], DqEnt.one [6]] 2).core 3).deque = [] ∧ ((victimS [DqEnt.one [5], DqEnt.one [6]] 2).core 3).dspill = []) :=
  ⟨by decide +kernel,
    by (unfold Sys2Proof.Claims.PopWaits; decide +kernel),
    by decide +kernel⟩

theorem test_meets_stealing_sa2 :
    ((victimS [DqEnt.one [5], DqEnt.one [6]] 1).core 3).asked = [(0, 1, false)] ∧
    (¬PopWaits (victimS [DqEnt.one [5], DqEnt.one [6]] 1) 3) ∧
    1 = (victimS [DqEnt.one [5], DqEnt.one [6]] 1).coreJob 3 ∧
    (victimS [DqEnt.one [5], DqEnt.one [6]] 1).shut 3 = false ∧
    ((victimS [DqEnt.one [5], DqEnt.one [6]] 1).core 3).fwd = none ∧
    (victimS [DqEnt.one [5], DqEnt.one [6]] 1).preempted 3 = false ∧
    ((victimS [DqEnt.one [5], DqEnt.one [6]] 1).core 3).dspill = [] ∧
    ((victimS [DqEnt.one [5], DqEnt.one [6]] 1).core 3).deque = [DqEnt.one [5], DqEnt.one [6]] :=
  ⟨by decide +kernel,
    by (unfold Sys2Proof.Claims.PopWaits; decide +kernel),
    by decide +kernel⟩

theorem test_meets_stealing_sa3 :
    ((victimS [DqEnt.range 5 1 4 9 10 11 [], DqEnt.one [6]] 1).core 3).asked = [(0, 1, false)] ∧
    (¬PopWaits (victimS [DqEnt.range 5 1 4 9 10 11 [], DqEnt.one [6]] 1) 3) ∧
    1 = (victimS [DqEnt.range 5 1 4 9 10 11 [], DqEnt.one [6]] 1).coreJob 3 ∧
    (victimS [DqEnt.range 5 1 4 9 10 11 [], DqEnt.one [6]] 1).shut 3 = false ∧
    ((victimS [DqEnt.range 5 1 4 9 10 11 [], DqEnt.one [6]] 1).core 3).fwd = none ∧
    (victimS [DqEnt.range 5 1 4 9 10 11 [], DqEnt.one [6]] 1).preempted 3 = false ∧
    ((victimS [DqEnt.range 5 1 4 9 10 11 [], DqEnt.one [6]] 1).core 3).dspill = [] ∧
    ((victimS [DqEnt.range 5 1 4 9 10 11 [], DqEnt.one [6]] 1).core 3).deque = [DqEnt.range 5 1 4 9 10 11 [], DqEnt.one [6]] ∧
    1 + 2 ≤ 4 :=
  ⟨by decide +kernel,
    by (unfold Sys2Proof.Claims.PopWaits; decide +kernel),
    by decide +kernel⟩

theorem test_meets_stealing_sa4 :
    ((victimS [DqEnt.range 5 3 4 9 10 11 [2], DqEnt.one [6]] 1).core 3).asked = [(0, 1, false)] ∧
    (¬PopWaits (victimS [DqEnt.range 5 3 4 9 10 11 [2], DqEnt.one [6]] 1) 3) ∧
    1 = (victimS [DqEnt.range 5 3 4 9 10 11 [2], DqEnt.one [6]] 1).coreJob 3 ∧
    (victimS [DqEnt.range 5 3 4 9 10 11 [2], DqEnt.one [6]] 1).shut 3 = false ∧
    ((victimS [DqEnt.range 5 3 4 9 10 11 [2], DqEnt.one [6]] 1).core 3).fwd = none ∧
    (victimS [DqEnt.range 5 3 4 9 10 11 [2], DqEnt.one [6]] 1).preempted 3 = false ∧
    ((victimS [DqEnt.range 5 3 4 9 10 11 [2], DqEnt.one [6]] 1).core 3).dspill = [] ∧
    ((victimS [DqEnt.range 5 3 4 9 10 11 [2], DqEnt.one [6]] 1).core 3).deque = [DqEnt.range 5 3 (3 + 1) 9 10 11 [2], DqEnt.one [6]] :=
  ⟨by decide +kernel,
    by (unfold Sys2Proof.Claims.PopWaits; decide +kernel),
    by decide +kernel⟩

theorem test_meets_stealing_se :
    (grantedS Flit.empty false).preempts = [] ∧
    ((grantedS Flit.empty false).core 0).fwd = none ∧
    ((grantedS Flit.empty false).core 0).thief.out = some (3, false) ∧
    (grantedS Flit.empty false).packets = [{ id := 7, job := 1, src := 3, dst := 0, flit := Flit.empty : Packet }] :=
  by decide +kernel

theorem test_meets_stealing_ser :
    (grantedS Flit.empty true).preempts = [] ∧
    ((grantedS Flit.empty true).core 0).fwd = none ∧
    ((grantedS Flit.empty true).core 0).thief.out = some (3, true) ∧
    (grantedS Flit.empty true).packets = [{ id := 7, job := 1, src := 3, dst := 0, flit := Flit.empty : Packet }] :=
  by decide +kernel

theorem test_meets_stealing_sg :
    (grantedS (Flit.grant (DqEnt.range 281474976710661 1 4 9 10 11 [])) false).preempts = [] ∧
    ((grantedS (Flit.grant (DqEnt.range 281474976710661 1 4 9 10 11 [])) false).core 0).fwd = none ∧
    ((grantedS (Flit.grant (DqEnt.range 281474976710661 1 4 9 10 11 [])) false).core 0).thief.out = some (3, false) ∧
    (grantedS (Flit.grant (DqEnt.range 281474976710661 1 4 9 10 11 [])) false).packets = [{ id := 7, job := 1, src := 3, dst := 0, flit := Flit.grant (DqEnt.range 281474976710661 1 4 9 10 11 []) : Packet }] ∧
    (grantedS (Flit.grant (DqEnt.range 281474976710661 1 4 9 10 11 [])) false).shut 0 = false ∧
    Welcome (grantedS (Flit.grant (DqEnt.range 281474976710661 1 4 9 10 11 [])) false) 0 281474976710661 ∧
    ((grantedS (Flit.grant (DqEnt.range 281474976710661 1 4 9 10 11 [])) false).core 0).deque.length < 256 :=
  ⟨by decide +kernel,
    by decide +kernel,
    by decide +kernel,
    (by decide +kernel),
    by decide +kernel,
    by (unfold Sys2Proof.Claims.Welcome; decide +kernel),
    by decide +kernel⟩

theorem test_meets_stealing_sgr :
    (grantedS (Flit.grant (DqEnt.one (rec1 5 1 0 0))) true).preempts = [] ∧
    ((grantedS (Flit.grant (DqEnt.one (rec1 5 1 0 0))) true).core 0).fwd = none ∧
    ((grantedS (Flit.grant (DqEnt.one (rec1 5 1 0 0))) true).core 0).thief.out = some (3, true) ∧
    (grantedS (Flit.grant (DqEnt.one (rec1 5 1 0 0))) true).packets = [{ id := 7, job := 1, src := 3, dst := 0, flit := Flit.grant (DqEnt.one (rec1 5 1 0 0)) : Packet }] ∧
    Hungry (grantedS (Flit.grant (DqEnt.one (rec1 5 1 0 0))) true) 0 0 ∧
    BitVec.ofNat 16 (field (List.getD (rec1 5 1 0 0) 0 0) 48 16) = (grantedS (Flit.grant (DqEnt.one (rec1 5 1 0 0))) true).coreJob 0 ∧
    (∀ (k : Counter), (grantedS (Flit.grant (DqEnt.one (rec1 5 1 0 0))) true).counter? (BitVec.ofNat 16 (field (List.getD (rec1 5 1 0 0) 0 0) 48 16)) Level.launch (field (List.getD (rec1 5 1 0 0) 0 0) 12 12) = some k → k.canc = false) ∧
    (∃ (u : Thief), answered ((grantedS (Flit.grant (DqEnt.one (rec1 5 1 0 0))) true).core 0).thief 3 true true u ∧ u.lastDie = ((grantedS (Flit.grant (DqEnt.one (rec1 5 1 0 0))) true).core 0).thief.lastDie ∧ u.lastOn = ((grantedS (Flit.grant (DqEnt.one (rec1 5 1 0 0))) true).core 0).thief.lastOn ∧ grantTaken = { (grantedS (Flit.grant (DqEnt.one (rec1 5 1 0 0))) true) with packets := [] : State }.setCore 0 ({ ((grantedS (Flit.grant (DqEnt.one (rec1 5 1 0 0))) true).core 0) with thief := u : Core })) ∧
    EntryRead grantTaken 0 (List.getD (rec1 5 1 0 0) 0 0) grantTaken 4677 ∧
    4677 % 2 = 1 :=
  ⟨by decide +kernel,
    by decide +kernel,
    by decide +kernel,
    (by decide +kernel),
    by (unfold Sys2Proof.Claims.Hungry Sys2Proof.Claims.LowestFree; decide +kernel),
    by decide +kernel,
    by decide +kernel,
    by (exact ⟨(grantTaken.core 0).thief, by unfold Claims.answered; decide +kernel, by decide +kernel, by decide +kernel, by decide +kernel⟩),
    by (unfold Sys2Proof.Claims.EntryRead; decide +kernel),
    by decide +kernel⟩

theorem test_meets_stealing_sgj :
    (grantedS (Flit.grant (DqEnt.one [562949953421317])) true).preempts = [] ∧
    ((grantedS (Flit.grant (DqEnt.one [562949953421317])) true).core 0).fwd = none ∧
    ((grantedS (Flit.grant (DqEnt.one [562949953421317])) true).core 0).thief.out = some (3, true) ∧
    (grantedS (Flit.grant (DqEnt.one [562949953421317])) true).packets = [{ id := 7, job := 1, src := 3, dst := 0, flit := Flit.grant (DqEnt.one [562949953421317]) : Packet }] ∧
    BitVec.ofNat 16 (field (entryHdr (DqEnt.one [562949953421317])) 48 16) ≠ (grantedS (Flit.grant (DqEnt.one [562949953421317])) true).coreJob 0 :=
  by decide +kernel

theorem test_meets_stealing_sgk :
    (grantedS (Flit.grant (DqEnt.range 844424930131973 1 4 9 10 11 [])) false).preempts = [] ∧
    ((grantedS (Flit.grant (DqEnt.range 844424930131973 1 4 9 10 11 [])) false).core 0).fwd = none ∧
    ((grantedS (Flit.grant (DqEnt.range 844424930131973 1 4 9 10 11 [])) false).core 0).thief.out = some (3, false) ∧
    (grantedS (Flit.grant (DqEnt.range 844424930131973 1 4 9 10 11 [])) false).packets = [{ id := 7, job := 1, src := 3, dst := 0, flit := Flit.grant (DqEnt.range 844424930131973 1 4 9 10 11 []) : Packet }] ∧
    BitVec.ofNat 16 (field (entryHdr (DqEnt.range 844424930131973 1 4 9 10 11 [])) 48 16) ≠ (grantedS (Flit.grant (DqEnt.range 844424930131973 1 4 9 10 11 [])) false).coreJob 0 :=
  by decide +kernel

theorem test_meets_stealing_sb :
    (at_sb.core 0).thief.backoff = some 0 :=
  by decide +kernel

theorem test_meets_stealing_sbn :
    (at_sbn.core 0).thief.backoff ≠ some 0 :=
  by decide +kernel

/-! ### StagesAndCounters -/

theorem test_meets_stagesAndCounters_ring :
    Hungry ringS 0 0 ∧
    ringS.ringReady 0 = some (2, ringR) ∧
    ringS.incHead 0 (ringS.coreJob 0) ringR = some (ringInc, 5) ∧
    ringInc.ringRecord 0 (ringS.coreJob 0) ringR 5 = some [hdr 5 2 0 0 0, 11, 0, 0, 0, 0, 0, 0] ∧
    (ringInc.weaver (0 / 128 : Nat)).spill = [] ∧
    (ringInc.weaver (0 / 128 : Nat)).gone = [] ∧
    (Option.all (fun (k : Counter) => !k.canc) (ringInc.counter? (BitVec.ofNat 16 (field ([hdr 5 2 0 0 0, 11, 0, 0, 0, 0, 0, 0].getD 0 0) 48 16)) Level.launch (field ([hdr 5 2 0 0 0, 11, 0, 0, 0, 0, 0, 0].getD 0 0) 12 12)) = true) ∧
    EntryRead (ringInc.setCore 0 (moved (ringInc.core 0))) 0 ([hdr 5 2 0 0 0, 11, 0, 0, 0, 0, 0, 0].getD 0 0) ringInc 4677 ∧
    4677 % 2 = 1 :=
  ⟨by (unfold Sys2Proof.Claims.Hungry Sys2Proof.Claims.LowestFree; decide +kernel),
    by rfl,
    by decide +kernel,
    by decide +kernel,
    by decide +kernel,
    (by decide +kernel),
    by decide +kernel,
    by (unfold Sys2Proof.Claims.EntryRead; decide +kernel),
    by decide +kernel⟩

theorem test_meets_stagesAndCounters_inc :
    ringS.waits = [] ∧
    ringS.translate (ringS.party 0 1 false) (field (ringR.addr + 16) 0 48) Need.amo = ((ringS.translate (ringS.party 0 1 false) 2097168 Need.amo).1, Tr.ok 458768 PageTy.sc false 0 393216 (ringS.translate (ringS.party 0 1 false) 2097168 Need.amo).1.serial.pred) ∧
    ringS.incHead 0 1 ringR = some (ringInc, 5) ∧
    (ringS.translate (ringS.party 0 1 false) 2097168 Need.amo).1.waits = [] :=
  by decide +kernel

theorem test_meets_stagesAndCounters_wvn :
    ((one user).weaver 1).due = false :=
  by decide +kernel

theorem test_meets_stagesAndCounters_wv0 :
    (at_wv0.weaver 1).due = true ∧
    (∀ i < 16, BitVec.getLsbD ((at_wv0.weaver 1).rings.look i 0) 0 = false) :=
  by decide +kernel

theorem test_meets_stagesAndCounters_wv :
    (weaverS.weaver 0).due = true ∧
    (weaverS.weaver 0).seen = (weaverS.weaver 0).rings ∧
    weaverS.seenRings 0 = [{ job := 1, stage := 7, below := none, above := some 1 : Seen }, { job := 1, stage := 8, below := some 1, above := none : Seen }] ∧
    { job := 1, stage := 7, below := none, above := some 1 : Seen }.above = some 1 ∧
    { job := 1, stage := 7, below := none, above := some 1 : Seen }.below = none ∧
    { job := 1, stage := 8, below := some 1, above := none : Seen }.below = some 1 ∧
    { job := 1, stage := 8, below := some 1, above := none : Seen }.above = none ∧
    { job := 1, stage := 7, below := none, above := some 1 : Seen }.job = { job := 1, stage := 8, below := some 1, above := none : Seen }.job ∧
    { job := 1, stage := 7, below := none, above := some 1 : Seen }.stage ≠ { job := 1, stage := 8, below := some 1, above := none : Seen }.stage ∧
    { job := 1, stage := 7, below := none, above := some 1 : Seen }.stage < 256 ∧
    { job := 1, stage := 7, below := none, above := some 1 : Seen }.job.toNat * 2 ^ 16 + { job := 1, stage := 7, below := none, above := some 1 : Seen }.stage ∈ (weaverS.weaver 0).congested ∧
    { job := 1, stage := 8, below := some 1, above := none : Seen }.job.toNat * 2 ^ 16 + { job := 1, stage := 8, below := some 1, above := none : Seen }.stage ∈ (weaverS.weaver 0).starved ∧
    (∀ z < 512, (weaverS.core z).wvmove = none) ∧
    (weaverS.inHoods { job := 1, stage := 8, below := some 1, above := none : Seen }.job 1 = true ∧ (1 / 128 : Nat) = 0 ∧ (weaverS.core 1).wvmove = none ∧ (weaverS.core 1).stageasn.toNat = 256 + { job := 1, stage := 8, below := some 1, above := none : Seen }.stage) ∧
    1 < 512 ∧
    (weaverS.inHoods { job := 1, stage := 8, below := some 1, above := none : Seen }.job 0 = true ∧ (0 / 128 : Nat) = 0 ∧ (weaverS.core 0).wvmove = none ∧ (weaverS.core 0).stageasn.toNat = 256 + { job := 1, stage := 8, below := some 1, above := none : Seen }.stage) ∧
    0 < 1 ∧
    (∀ z < 512, weaverS.inHoods { job := 1, stage := 8, below := some 1, above := none : Seen }.job z = true ∧ z / 128 = 0 ∧ (weaverS.core z).wvmove = none ∧ (weaverS.core z).stageasn.toNat = 256 + { job := 1, stage := 8, below := some 1, above := none : Seen }.stage → z ≤ 1) ∧
    (weaverS.weaver 0).movedAt = [] :=
  ⟨by decide +kernel,
    by decide +kernel,
    by rfl,
    by decide +kernel⟩

theorem test_meets_stagesAndCounters_wvd :
    (BitVec.toNat (at_wvd.island (4 * 1)).cycle + 1) % 4096 = 0 :=
  by decide +kernel

theorem test_meets_stagesAndCounters_wvt :
    (at_wvt.weaver 1).due = true :=
  by decide +kernel

theorem test_meets_stagesAndCounters_csn :
    ((one user).core 0).due = false :=
  by decide +kernel

theorem test_meets_stagesAndCounters_cs :
    ((sampleS []).core 0).due = true ∧
    ((sampleS []).core 0).arms = [] :=
  by decide +kernel

theorem test_meets_stagesAndCounters_cs1 :
    ((sampleS [(3, arm1 4)]).core 0).due = true ∧
    ((sampleS [(3, arm1 4)]).core 0).arms = [(3, arm1 4)] ∧
    (arm1 4).cnt = 2 ∧
    (arm1 4).falling = false ∧
    ((sampleS [(3, arm1 4)]).core 0).deque.length + ((sampleS [(3, arm1 4)]).core 0).dspill.length < (arm1 4).thresh :=
  by decide +kernel

theorem test_meets_stagesAndCounters_cs2 :
    ((sampleS [(3, arm1 3)]).core 0).due = true ∧
    ((sampleS [(3, arm1 3)]).core 0).arms = [(3, arm1 3)] ∧
    (arm1 3).cnt = 2 ∧
    (arm1 3).falling = false ∧
    (arm1 3).thresh ≤ ((sampleS [(3, arm1 3)]).core 0).deque.length + ((sampleS [(3, arm1 3)]).core 0).dspill.length ∧
    (sampleS [(3, arm1 3)]).launchInc (arm1 3).job (arm1 3).lid.toNat = (sampleS [(3, arm1 3)], true) :=
  by decide +kernel

/-- What the witness of `h0` runs on. -/
def at_h0 := { one super with hoods := [] }

/-- What the witness of `h1` runs on. -/
def at_h1 := { fenceS with cores := [(0, { fenceS.core 0 with strands := [(0, super)] })], jobs := [], moves := [], preempts := [] }

/-- What the witness of `uce` runs on. -/
def at_uce := { hood1 with tower := 2 }

/-- What the witness of `uce1` runs on. -/
def at_uce1 := { fenceS with jobs := [], moves := [], preempts := [] }

/-- What the witness of `uces` runs on. -/
def at_uces := { fenceS with split := true }

/-- What the witness of `hr` runs on. -/
def at_hr := { hood1 with st := .fenced, ending := false, block := ⟨0xE000000000001003, 0x8000000000007FFF, 3, 4, 5⟩ }

/-- What the witness of `hre` runs on. -/
def at_hre := { hood1 with st := .resetting, ending := false, block := ⟨0xE000000000001003, 0x8000000000007FFF, 3, 4, 5⟩ }

/-- What the witness of `hree` runs on. -/
def at_hree := { hood1 with st := .resetting, ending := true, block := ⟨0xE000000000001003, 0x8000000000007FFF, 3, 4, 5⟩ }

/-- What the witness of `hrn` runs on. -/
def at_hrn := { hood1 with st := .active, ending := true, block := ⟨0xE000000000001003, 0x8000000000007FFF, 3, 4, 5⟩ }

/-! ### Containment -/

theorem test_meets_containment_h0 :
    Quiet at_h0 ∧
    at_h0.me.sup = true ∧
    at_h0.hoodOf at_h0.cur.core = none :=
  ⟨by rfl,
    by decide +kernel⟩

theorem test_meets_containment_h1 :
    at_h1.me.sup = true ∧
    at_h1.hoodOf at_h1.cur.core = some hood1 ∧
    at_h1.hoods = [hood1] ∧
    hood1.st = HoodSt.active ∧
    Resting at_h1 hood1 :=
  ⟨by decide +kernel,
    by decide +kernel,
    by decide +kernel,
    (by decide +kernel),
    by (unfold Sys2Proof.Claims.Resting; decide +kernel)⟩

theorem test_meets_containment_uce :
    fenceTwo.hoodOf 17 = some hood1 ∧
    hood1.st = HoodSt.active ∧
    Resting fenceTwo hood1 ∧
    fenceTwo.hoods = [hood1, at_uce] ∧
    (∀ x ∈ [at_uce], x.leader ≠ hood1.leader) :=
  ⟨by decide +kernel,
    by decide +kernel,
    by (unfold Sys2Proof.Claims.Resting; decide +kernel),
    by decide +kernel⟩

theorem test_meets_containment_uce1 :
    at_uce1.hoodOf 0 = some hood1 ∧
    hood1.st = HoodSt.active ∧
    Resting at_uce1 hood1 ∧
    at_uce1.hoods = [hood1] ∧
    (∀ x ∈ ([] : List Hood), x.leader ≠ hood1.leader) :=
  ⟨by decide +kernel,
    by decide +kernel,
    by (unfold Sys2Proof.Claims.Resting; decide +kernel),
    by decide +kernel⟩

theorem test_meets_containment_uces :
    isGeneral 0 = true ∧
    (at_uces.strand 0 0).st ≠ SlotSt.free ∧
    at_uces.moves = [] ∧
    at_uces.split = true ∧
    (at_uces.strand 0 0).fl = Fol.none :=
  by decide +kernel

theorem test_meets_containment_hr :
    (List.find? (fun (x : Hood) => decide (x.leader = at_hr.leader)) (hoodIn HoodSt.fenced false).hoods = some at_hr) ∧
    at_hr.st = HoodSt.fenced ∧
    (hoodIn HoodSt.fenced false).brim.st = BrimSt.idle :=
  by decide +kernel

theorem test_meets_containment_hre :
    (List.find? (fun (x : Hood) => decide (x.leader = at_hre.leader)) (hoodIn HoodSt.resetting false).hoods = some at_hre) ∧
    at_hre.st = HoodSt.resetting ∧
    at_hre.ending = false :=
  by decide +kernel

theorem test_meets_containment_hree :
    (List.find? (fun (x : Hood) => decide (x.leader = at_hree.leader)) (hoodIn HoodSt.resetting true).hoods = some at_hree) ∧
    at_hree.st = HoodSt.resetting ∧
    at_hree.ending = true :=
  by decide +kernel

theorem test_meets_containment_hrn :
    (List.find? (fun (x : Hood) => decide (x.leader = at_hrn.leader)) (hoodIn HoodSt.active true).hoods = some at_hrn) ∧
    (at_hrn.st ≠ HoodSt.fenced ∨ (hoodIn HoodSt.active true).brim.st ≠ BrimSt.idle ∨ ∃ c < 512, at_hrn.holds c = true ∧ ((hoodIn HoodSt.active true).core c).matrix.tile ≠ none) :=
  by decide +kernel

theorem test_meets_containment_hrn2 :
    (List.find? (fun (x : Hood) => decide (x.leader = at_hrn.leader)) (hoodIn HoodSt.active true).hoods = some at_hrn) ∧
    at_hrn.st ≠ HoodSt.resetting :=
  by decide +kernel

theorem test_meets_containment_rf :
    32 * 511 < 412316860416 :=
  by decide +kernel

/-- What the witness of `psn2` runs on. -/
def at_psn2 := (preS [] preSrc { Core.reset with deque := [.one []] })

/-- What the witness of `pr` runs on. -/
def at_pr := (preS [⟨0, 1, 4, true⟩] preDone { Core.reset with idle := 5, thief := { Thief.reset with tried := 9 } })

/-- What the witness of `prf` runs on. -/
def at_prf := { preS [⟨0, 1, 4, false⟩] preDone { Core.reset with idle := 5, thief := { Thief.reset with tried := 9 } } with split := true }

/-- What the witness of `prn` runs on. -/
def at_prn := (preS [⟨0, 1, 4, true⟩] { preDone with matrix := mxHolds } Core.reset)

/-- What the witness of `fws` runs on. -/
def at_fws := { fwdS with cores := [(1, { kbg with fwd := some 2, halted := true }), (2, { kbg with fwd := none })] }

/-! ### PreEmption -/

theorem test_meets_preEmption_ps :
    0 ≠ 1 ∧
    0 < 512 ∧
    1 < 512 ∧
    (preS [] preSrc Core.reset).brim.st = BrimSt.idle ∧
    (preS [] preSrc Core.reset).hoodOf 0 = some hood1 ∧
    (preS [] preSrc Core.reset).hoodOf 1 = some hood1 ∧
    hood1 ∈ (preS [] preSrc Core.reset).hoods ∧
    hood1.job = hood1.job ∧
    hood1.st = HoodSt.active ∧
    ((preS [] preSrc Core.reset).core 0).fwd = none ∧
    ((preS [] preSrc Core.reset).core 0).halted = false ∧
    Vacated ((preS [] preSrc Core.reset).core 1) ∧
    (preS [] preSrc Core.reset).preempts = [] ∧
    ((preS [] preSrc Core.reset).core 0).replay = none ∧
    ((preS [] preSrc Core.reset).core 0).matrix.tile = none ∧
    ((preS [] preSrc Core.reset).core 0).matrix.load = none ∧
    ((List.all ((preS [] preSrc Core.reset).core 0).strands fun (x : Nat × Strand) => decide (x.2.fl = Fol.none) && decide (x.2.traps = []) && decide (x.2.rest = none)) = true) :=
  ⟨by decide +kernel,
    by decide +kernel,
    by decide +kernel,
    (by decide +kernel),
    by decide +kernel,
    by decide +kernel,
    by decide +kernel,
    (by decide +kernel),
    by decide +kernel,
    by decide +kernel,
    by decide +kernel,
    by (unfold Sys2Proof.Claims.Vacated; decide +kernel),
    by decide +kernel⟩

theorem test_meets_preEmption_psn :
    (0 = 0 ∨ (preS [] preSrc Core.reset).hoodOf 0 = none ∨ ((preS [] preSrc Core.reset).core 0).fwd ≠ none ∨ ((preS [] preSrc Core.reset).core 0).fwd ≠ none ∨ ((preS [] preSrc Core.reset).core 0).deque ≠ [] ∨ ((preS [] preSrc Core.reset).core 0).copies ≠ [] ∨ ((preS [] preSrc Core.reset).core 0).matrix.tile ≠ none ∨ (∃ n < 19, ((preS [] preSrc Core.reset).strand 0 n).st ≠ SlotSt.free) ∨ (preS [] preSrc Core.reset).inHoods ((preS [] preSrc Core.reset).coreJob 0) 0 = false) :=
  by decide +kernel

theorem test_meets_preEmption_psn2 :
    (0 = 1 ∨ at_psn2.hoodOf 0 = none ∨ (at_psn2.core 0).fwd ≠ none ∨ (at_psn2.core 1).fwd ≠ none ∨ (at_psn2.core 1).deque ≠ [] ∨ (at_psn2.core 1).copies ≠ [] ∨ (at_psn2.core 1).matrix.tile ≠ none ∨ (∃ n < 19, (at_psn2.strand 1 n).st ≠ SlotSt.free) ∨ at_psn2.inHoods (at_psn2.coreJob 0) 1 = false) :=
  by decide +kernel

theorem test_meets_preEmption_psn3 :
    (0 = 4 ∨ (preS [] preSrc Core.reset).hoodOf 0 = none ∨ ((preS [] preSrc Core.reset).core 0).fwd ≠ none ∨ ((preS [] preSrc Core.reset).core 4).fwd ≠ none ∨ ((preS [] preSrc Core.reset).core 4).deque ≠ [] ∨ ((preS [] preSrc Core.reset).core 4).copies ≠ [] ∨ ((preS [] preSrc Core.reset).core 4).matrix.tile ≠ none ∨ (∃ n < 19, ((preS [] preSrc Core.reset).strand 4 n).st ≠ SlotSt.free) ∨ (preS [] preSrc Core.reset).inHoods ((preS [] preSrc Core.reset).coreJob 0) 4 = false) :=
  by decide +kernel

theorem test_meets_preEmption_pst :
    (preS [{ src := 0, dst := 1, step := 3, redo := true : Preempt }] preDone Core.reset).preempts = [{ src := 0, dst := 1, step := 3, redo := true : Preempt }] ∧
    Drained (preS [{ src := 0, dst := 1, step := 3, redo := true : Preempt }] preDone Core.reset) 0 :=
  ⟨by decide +kernel,
    by (unfold Sys2Proof.Claims.Drained; decide +kernel)⟩

theorem test_meets_preEmption_pstr :
    (preS [{ src := 0, dst := 1, step := 3, redo := true : Preempt }] preReplay Core.reset).preempts = [{ src := 0, dst := 1, step := 3, redo := true : Preempt }] ∧
    ((preS [{ src := 0, dst := 1, step := 3, redo := true : Preempt }] preReplay Core.reset).core 0).replay = some { slot := 2, body := [5], count := 3, i := 1, j := 0, sd := 1, sa := 1, sb := 1 : Replay } ∧
    { slot := 2, body := [5], count := 3, i := 1, j := 0, sd := 1, sa := 1, sb := 1 : Replay }.slot < 19 ∧
    ((preS [{ src := 0, dst := 1, step := 3, redo := true : Preempt }] preReplay Core.reset).strand 0 { slot := 2, body := [5], count := 3, i := 1, j := 0, sd := 1, sa := 1, sb := 1 : Replay }.slot).fl = Fol.none ∧
    ((preS [{ src := 0, dst := 1, step := 3, redo := true : Preempt }] preReplay Core.reset).core 0).matrix.tile = none ∧
    ((preS [{ src := 0, dst := 1, step := 3, redo := true : Preempt }] preReplay Core.reset).core 0).matrix.load = none :=
  by decide +kernel

theorem test_meets_preEmption_pr :
    at_pr.preempts = [{ src := 0, dst := 1, step := 4, redo := true : Preempt }] ∧
    0 ≠ 1 ∧
    (at_pr.core 0).lines = [] ∧
    (at_pr.core 1).lines = [] ∧
    (∀ x ∈ (at_pr.core 0).strands, x.2.st ≠ SlotSt.waiting Wait.trapHold) ∧
    (at_pr.core 0).matrix.queued = none ∧
    (∀ x ∈ (at_pr.core 0).queues, x.2.slot < 19) :=
  by decide +kernel

theorem test_meets_preEmption_prf :
    at_prf.preempts = [{ src := 0, dst := 1, step := 4, redo := false : Preempt }] ∧
    0 ≠ 1 ∧
    (at_prf.core 0).lines = [] ∧
    (at_prf.core 1).lines = [] ∧
    (∀ x ∈ (at_prf.core 0).strands, x.2.st ≠ SlotSt.waiting Wait.trapHold) ∧
    (at_prf.core 0).matrix.queued = none ∧
    (∀ x ∈ (at_prf.core 0).queues, x.2.slot < 19) :=
  by decide +kernel

theorem test_meets_preEmption_prn :
    at_prn.preempts = [{ src := 0, dst := 1, step := 4, redo := true : Preempt }] ∧
    0 ≠ 1 ∧
    (at_prn.core 0).lines = [] ∧
    (at_prn.core 1).lines = [] ∧
    (∀ x ∈ (at_prn.core 0).strands, x.2.st ≠ SlotSt.waiting Wait.trapHold) ∧
    (at_prn.core 0).matrix.queued = none ∧
    (∀ x ∈ (at_prn.core 0).queues, x.2.slot < 19) :=
  by decide +kernel

theorem test_meets_preEmption_fw :
    (fwdS.core 1).fwd = some 2 ∧
    (fwdS.core 2).fwd = none ∧
    fwdS.mails = [{ id := 7, src := 3, dst := 1, vn := true, body := [5] : Mail }] ∧
    fwdS.packets = [{ id := 7, job := 1, src := 3, dst := 1, flit := Flit.empty : Packet }] ∧
    fwdS.shut 1 = false :=
  by decide +kernel

theorem test_meets_preEmption_fws :
    (at_fws.core 1).fwd = some 2 ∧
    (at_fws.core 2).fwd = none ∧
    at_fws.mails = [{ id := 7, src := 3, dst := 1, vn := true, body := [5] : Mail }] ∧
    at_fws.packets = [{ id := 7, job := 1, src := 3, dst := 1, flit := Flit.empty : Packet }] ∧
    at_fws.shut 1 = true :=
  by decide +kernel

theorem test_meets_preEmption_fwn :
    (fwdS.core 1).fwd = some 2 ∧
    (fwdS.core 2).fwd = none ∧
    fwdS.mails = [{ id := 7, src := 3, dst := 1, vn := true, body := [5] : Mail }] ∧
    fwdS.packets = [{ id := 7, job := 1, src := 3, dst := 1, flit := Flit.empty : Packet }] ∧
    8 ≠ 7 :=
  by decide +kernel

theorem test_meets_preEmption_pso :
    0 ≠ 1 ∧
    0 < 512 ∧
    1 < 512 ∧
    (preS [] preOwed Core.reset).brim.st = BrimSt.idle ∧
    (preS [] preOwed Core.reset).hoods = [hood1] ∧
    hood1.holds 0 = true ∧
    hood1.holds 1 = true ∧
    hood1.st = HoodSt.active ∧
    ((preS [] preOwed Core.reset).core 0).fwd = none ∧
    ((preS [] preOwed Core.reset).core 0).halted = false ∧
    Vacated ((preS [] preOwed Core.reset).core 1) ∧
    (preS [] preOwed Core.reset).preempts = [] ∧
    ((preS [] preOwed Core.reset).core 0).replay = none ∧
    ((preS [] preOwed Core.reset).core 0).matrix.tile = none ∧
    ((preS [] preOwed Core.reset).core 0).matrix.load = none ∧
    2 < 16 ∧
    ((preS [] preOwed Core.reset).core 0).strands = [(2, (preS [] preOwed Core.reset).strand 0 2)] ∧
    ((preS [] preOwed Core.reset).strand 0 2).st = SlotSt.ready ∧
    ((preS [] preOwed Core.reset).strand 0 2).traps = [{ code := 68, jent := 5, ring := none, faddr := 291, copy := none : TrapInfo }] ∧
    ((preS [] preOwed Core.reset).strand 0 2).intrap = false ∧
    ((preS [] preOwed Core.reset).strand 0 2).held = none ∧
    ((preS [] preOwed Core.reset).strand 0 2).outs = [] ∧
    ((preS [] preOwed Core.reset).strand 0 2).fl = Fol.none :=
  ⟨by decide +kernel,
    by decide +kernel,
    by decide +kernel,
    (by decide +kernel),
    by decide +kernel,
    by decide +kernel,
    by decide +kernel,
    (by decide +kernel),
    by decide +kernel,
    by decide +kernel,
    by (unfold Sys2Proof.Claims.Vacated; decide +kernel),
    by decide +kernel⟩

/-- What the witness of `gref2` runs on. -/
def at_gref2 := (goS (some { coll1 0 0 2 with gone := true }) 5)

/-- What the witness of `gref2` runs on. -/
def at_gref2_2 := { coll1 0 0 2 with gone := true }

/-- What the witness of `gbrk` runs on. -/
def at_gbrk := (goS (some { coll1 0 0 2 with broken := true }) 5)

/-- What the witness of `gbrk` runs on. -/
def at_gbrk_2 := { coll1 0 0 2 with broken := true }

/-- What the witness of `go` runs on. -/
def at_go := (goS (some { coll1 0 3 2 with count := 2 }) 5)

/-- What the witness of `go` runs on. -/
def at_go_2 := { coll1 0 3 2 with count := 2 }

/-- What the witness of `gos` runs on. -/
def at_gos := (goS (some { coll1 0 3 2 with count := 2, bufp := [0] }) 5)

/-- What the witness of `gos` runs on. -/
def at_gos_2 := { coll1 0 3 2 with count := 2, bufp := [0] }

/-- What the witness of `gonan` runs on. -/
def at_gonan := (goS (some { coll1 0 3 2 with count := 2, buf := [(0, 0xC1), (1, 0x7F), (3, 0xFF)] }) 5)

/-- What the witness of `gonan` runs on. -/
def at_gonan_2 := { coll1 0 3 2 with count := 2, buf := [(0, 0xC1), (1, 0x7F), (3, 0xFF)] }

/-- What the witness of `goss` runs on. -/
def at_goss := (goS (some { coll1 0 0 2 with bufp := [1] }) 5)

/-- What the witness of `goss` runs on. -/
def at_goss_2 := { coll1 0 0 2 with bufp := [1] }

/-- What the witness of `cpo` runs on. -/
def at_cpo := (collS { coll1 0 0 2 with gone := true })

/-- What the witness of `cb` runs on. -/
def at_cb := (collS { coll1 0 0 2 with broken := true })

/-- What the witness of `ctw` runs on. -/
def at_ctw := (collS { coll1 0 0 2 with gone := true, since := 0 })

/-- What the witness of `ctw` runs on. -/
def at_ctw_2 := { coll1 0 0 2 with gone := true, since := 0 }

/-- What the witness of `cto` runs on. -/
def at_cto := { collS { coll1 0 0 2 with gone := true, since := 3 } with islands := [(21, { Island.reset with cycle := 0x1000003 })] }

/-- What the witness of `cto` runs on. -/
def at_cto_2 := { coll1 0 0 2 with gone := true, since := 3 }

/-! ### Collectives -/

theorem test_meets_collectives_gn :
    5 < 64 ∧
    GoHeld (goS none 5) 0 5 0 ↑(3 : Fin 32) 1 5 (goAddr 3) ∧
    (goS none 5).coll? 1 ↑(3 : Fin 32) = none :=
  ⟨by decide +kernel,
    by exact ⟨rfl, ⟨_, rfl⟩, ⟨_, _, rfl, rfl, rfl, rfl, rfl, rfl, rfl, rfl⟩, by decide, rfl, rfl⟩,
    by decide +kernel⟩

theorem test_meets_collectives_gref :
    5 < 64 ∧
    GoHeld (goS (some (coll1 0 0 2)) 9) 0 5 0 ↑(3 : Fin 32) 1 9 (goAddr 3) ∧
    (goS (some (coll1 0 0 2)) 9).coll? 1 ↑(3 : Fin 32) = some (coll1 0 0 2) ∧
    (BitVec.toNat (9 : Word) ≠ (coll1 0 0 2).gen + 1 ∨ (coll1 0 0 2).gone = true) :=
  ⟨by decide +kernel,
    by exact ⟨rfl, ⟨_, rfl⟩, ⟨_, _, rfl, rfl, rfl, rfl, rfl, rfl, rfl, rfl⟩, by decide, rfl, rfl⟩,
    by decide +kernel⟩

theorem test_meets_collectives_gref2 :
    5 < 64 ∧
    GoHeld at_gref2 0 5 0 ↑(3 : Fin 32) 1 5 (goAddr 3) ∧
    at_gref2.coll? 1 ↑(3 : Fin 32) = some at_gref2_2 ∧
    (BitVec.toNat (5 : Word) ≠ at_gref2_2.gen + 1 ∨ at_gref2_2.gone = true) :=
  ⟨by decide +kernel,
    by exact ⟨rfl, ⟨_, rfl⟩, ⟨_, _, rfl, rfl, rfl, rfl, rfl, rfl, rfl, rfl⟩, by decide, rfl, rfl⟩,
    by decide +kernel⟩

theorem test_meets_collectives_gbrk :
    5 < 64 ∧
    GoHeld at_gbrk 0 5 0 ↑(3 : Fin 32) 1 5 (goAddr 3) ∧
    at_gbrk.coll? 1 ↑(3 : Fin 32) = some at_gbrk_2 ∧
    BitVec.toNat (5 : Word) = at_gbrk_2.gen + 1 ∧
    at_gbrk_2.gone = false ∧
    at_gbrk_2.broken = true :=
  ⟨by decide +kernel,
    by exact ⟨rfl, ⟨_, rfl⟩, ⟨_, _, rfl, rfl, rfl, rfl, rfl, rfl, rfl, rfl⟩, by decide, rfl, rfl⟩,
    by decide +kernel⟩

theorem test_meets_collectives_go :
    5 < 64 ∧
    GoHeld at_go 0 5 0 ↑(3 : Fin 32) 1 5 (goAddr 3) ∧
    at_go.coll? 1 ↑(3 : Fin 32) = some at_go_2 ∧
    BitVec.toNat (5 : Word) = at_go_2.gen + 1 ∧
    at_go_2.gone = false ∧
    at_go_2.broken = false ∧
    at_go_2.parts = [] ∧
    at_go_2.arrival = false ∧
    at_go_2.rank < at_go_2.devs.length :=
  ⟨by decide +kernel,
    by exact ⟨rfl, ⟨_, rfl⟩, ⟨_, _, rfl, rfl, rfl, rfl, rfl, rfl, rfl, rfl⟩, by decide, rfl, rfl⟩,
    by decide +kernel⟩

theorem test_meets_collectives_gos :
    5 < 64 ∧
    GoHeld at_gos 0 5 0 ↑(3 : Fin 32) 1 5 (goAddr 3) ∧
    at_gos.coll? 1 ↑(3 : Fin 32) = some at_gos_2 ∧
    BitVec.toNat (5 : Word) = at_gos_2.gen + 1 ∧
    at_gos_2.gone = false ∧
    at_gos_2.broken = false ∧
    at_gos_2.parts = [] ∧
    at_gos_2.arrival = false ∧
    at_gos_2.rank < at_gos_2.devs.length :=
  ⟨by decide +kernel,
    by exact ⟨rfl, ⟨_, rfl⟩, ⟨_, _, rfl, rfl, rfl, rfl, rfl, rfl, rfl, rfl⟩, by decide, rfl, rfl⟩,
    by decide +kernel⟩

theorem test_meets_collectives_gonan :
    5 < 64 ∧
    GoHeld at_gonan 0 5 0 ↑(3 : Fin 32) 1 5 (goAddr 3) ∧
    at_gonan.coll? 1 ↑(3 : Fin 32) = some at_gonan_2 ∧
    BitVec.toNat (5 : Word) = at_gonan_2.gen + 1 ∧
    at_gonan_2.gone = false ∧
    at_gonan_2.broken = false ∧
    at_gonan_2.parts = [] ∧
    at_gonan_2.arrival = false ∧
    at_gonan_2.rank < at_gonan_2.devs.length :=
  ⟨by decide +kernel,
    by exact ⟨rfl, ⟨_, rfl⟩, ⟨_, _, rfl, rfl, rfl, rfl, rfl, rfl, rfl, rfl⟩, by decide, rfl, rfl⟩,
    by decide +kernel⟩

theorem test_meets_collectives_goss :
    5 < 64 ∧
    GoHeld at_goss 0 5 0 ↑(3 : Fin 32) 1 5 (goAddr 3) ∧
    at_goss.coll? 1 ↑(3 : Fin 32) = some at_goss_2 ∧
    BitVec.toNat (5 : Word) = at_goss_2.gen + 1 ∧
    at_goss_2.gone = false ∧
    at_goss_2.broken = false ∧
    at_goss_2.parts = [] ∧
    at_goss_2.arrival = false ∧
    at_goss_2.rank < at_goss_2.devs.length :=
  ⟨by decide +kernel,
    by exact ⟨rfl, ⟨_, rfl⟩, ⟨_, _, rfl, rfl, rfl, rfl, rfl, rfl, rfl, rfl⟩, by decide, rfl, rfl⟩,
    by decide +kernel⟩

theorem test_meets_collectives_cis :
    OneElement (collS (collOthers 0 0 [5, 6, 4294967295] 2)) 1 (↑(3 : Fin 32)) (collOthers 0 0 [5, 6, 4294967295] 2) ∧
    2 ≠ (collOthers 0 0 [5, 6, 4294967295] 2).rank ∧
    OthersThere (collOthers 0 0 [5, 6, 4294967295] 2) 2 [5, 6, 4294967295] ∧
    (collOthers 0 0 [5, 6, 4294967295] 2).ty ≤ 1 ∧
    IntCombined (collOthers 0 0 [5, 6, 4294967295] 2).op (8 * elemWidth (collOthers 0 0 [5, 6, 4294967295] 2).ty) [5, 6, 4294967295] 10 ∧
    (((collS (collOthers 0 0 [5, 6, 4294967295] 2)).modColl 1 ↑(3 : Fin 32) fun (x : Coll) => { x with parts := x.parts ++ [((collOthers 0 0 [5, 6, 4294967295] 2).gen + 1, 2, some [[5, 6, 4294967295].getD 2 0])] : Coll }) = (collS (collOthers 0 0 [5, 6, 4294967295] 2)).modColl 1 ↑(3 : Fin 32) fun (x : Coll) => { x with parts := x.parts ++ [((collOthers 0 0 [5, 6, 4294967295] 2).gen + 1, 2, some [[5, 6, 4294967295].getD 2 0])] : Coll }) ∧
    ((collWritten (collOthers 0 0 [5, 6, 4294967295] 2) (5, 2, some [4294967295]) 4 10).jobs = ((collS (collOthers 0 0 [5, 6, 4294967295] 2)).modColl 1 ↑(3 : Fin 32) fun (x : Coll) => { x with parts := x.parts ++ [((collOthers 0 0 [5, 6, 4294967295] 2).gen + 1, 2, some [[5, 6, 4294967295].getD 2 0])] : Coll }).jobs) ∧
    (((collS (collOthers 0 0 [5, 6, 4294967295] 2)).modColl 1 ↑(3 : Fin 32) fun (x : Coll) => { x with parts := x.parts ++ [((collOthers 0 0 [5, 6, 4294967295] 2).gen + 1, 2, some [[5, 6, 4294967295].getD 2 0])] : Coll }).writeAt (((collS (collOthers 0 0 [5, 6, 4294967295] 2)).modColl 1 ↑(3 : Fin 32) fun (x : Coll) => { x with parts := x.parts ++ [((collOthers 0 0 [5, 6, 4294967295] 2).gen + 1, 2, some [[5, 6, 4294967295].getD 2 0])] : Coll }).party (collOthers 0 0 [5, 6, 4294967295] 2).bcore 1 false) (collOthers 0 0 [5, 6, 4294967295] 2).result (leBytes (elemWidth (collOthers 0 0 [5, 6, 4294967295] 2).ty) 10) false = Got.ok (collWritten (collOthers 0 0 [5, 6, 4294967295] 2) (5, 2, some [4294967295]) 4 10) ()) :=
  ⟨by (unfold Sys2Proof.Claims.OneElement; decide +kernel),
    by decide +kernel,
    by (refine ⟨by decide, by decide, by decide, fun r hr hn => ?_⟩; have hr : r < 4 := hr.trans_le (by decide); revert hn; interval_cases r <;> first | (intro _; rfl) | (intro h; exact absurd rfl h) | (exact absurd hr (by decide)) | simp_all),
    by decide +kernel,
    by (unfold Sys2Proof.Claims.IntCombined; decide +kernel),
    by decide +kernel⟩

theorem test_meets_collectives_cim :
    OneElement (collS (collOthers 1 1 [5, 6, 18446744073709551615] 2)) 1 (↑(3 : Fin 32)) (collOthers 1 1 [5, 6, 18446744073709551615] 2) ∧
    2 ≠ (collOthers 1 1 [5, 6, 18446744073709551615] 2).rank ∧
    OthersThere (collOthers 1 1 [5, 6, 18446744073709551615] 2) 2 [5, 6, 18446744073709551615] ∧
    (collOthers 1 1 [5, 6, 18446744073709551615] 2).ty ≤ 1 ∧
    IntCombined (collOthers 1 1 [5, 6, 18446744073709551615] 2).op (8 * elemWidth (collOthers 1 1 [5, 6, 18446744073709551615] 2).ty) [5, 6, 18446744073709551615] 6 ∧
    (((collS (collOthers 1 1 [5, 6, 18446744073709551615] 2)).modColl 1 ↑(3 : Fin 32) fun (x : Coll) => { x with parts := x.parts ++ [((collOthers 1 1 [5, 6, 18446744073709551615] 2).gen + 1, 2, some [[5, 6, 18446744073709551615].getD 2 0])] : Coll }) = (collS (collOthers 1 1 [5, 6, 18446744073709551615] 2)).modColl 1 ↑(3 : Fin 32) fun (x : Coll) => { x with parts := x.parts ++ [((collOthers 1 1 [5, 6, 18446744073709551615] 2).gen + 1, 2, some [[5, 6, 18446744073709551615].getD 2 0])] : Coll }) ∧
    ((collWritten (collOthers 1 1 [5, 6, 18446744073709551615] 2) (5, 2, some [18446744073709551615]) 8 6).jobs = ((collS (collOthers 1 1 [5, 6, 18446744073709551615] 2)).modColl 1 ↑(3 : Fin 32) fun (x : Coll) => { x with parts := x.parts ++ [((collOthers 1 1 [5, 6, 18446744073709551615] 2).gen + 1, 2, some [[5, 6, 18446744073709551615].getD 2 0])] : Coll }).jobs) ∧
    (((collS (collOthers 1 1 [5, 6, 18446744073709551615] 2)).modColl 1 ↑(3 : Fin 32) fun (x : Coll) => { x with parts := x.parts ++ [((collOthers 1 1 [5, 6, 18446744073709551615] 2).gen + 1, 2, some [[5, 6, 18446744073709551615].getD 2 0])] : Coll }).writeAt (((collS (collOthers 1 1 [5, 6, 18446744073709551615] 2)).modColl 1 ↑(3 : Fin 32) fun (x : Coll) => { x with parts := x.parts ++ [((collOthers 1 1 [5, 6, 18446744073709551615] 2).gen + 1, 2, some [[5, 6, 18446744073709551615].getD 2 0])] : Coll }).party (collOthers 1 1 [5, 6, 18446744073709551615] 2).bcore 1 false) (collOthers 1 1 [5, 6, 18446744073709551615] 2).result (leBytes (elemWidth (collOthers 1 1 [5, 6, 18446744073709551615] 2).ty) 6) false = Got.ok (collWritten (collOthers 1 1 [5, 6, 18446744073709551615] 2) (5, 2, some [18446744073709551615]) 8 6) ()) :=
  ⟨by (unfold Sys2Proof.Claims.OneElement; decide +kernel),
    by decide +kernel,
    by (refine ⟨by decide, by decide, by decide, fun r hr hn => ?_⟩; have hr : r < 4 := hr.trans_le (by decide); revert hn; interval_cases r <;> first | (intro _; rfl) | (intro h; exact absurd rfl h) | (exact absurd hr (by decide)) | simp_all),
    by decide +kernel,
    by (unfold Sys2Proof.Claims.IntCombined; decide +kernel),
    by decide +kernel⟩

theorem test_meets_collectives_cfs :
    OneElement (collS (collOthers 0 2 [1065353216, 1073741824, 864026624, 1065353216] 3)) 1 (↑(3 : Fin 32)) (collOthers 0 2 [1065353216, 1073741824, 864026624, 1065353216] 3) ∧
    3 ≠ (collOthers 0 2 [1065353216, 1073741824, 864026624, 1065353216] 3).rank ∧
    OthersThere (collOthers 0 2 [1065353216, 1073741824, 864026624, 1065353216] 3) 3 [1065353216, 1073741824, 864026624, 1065353216] ∧
    (∀ v ∈ [1065353216, 1073741824, 864026624, 1065353216], v < 2 ^ 32) ∧
    (collOthers 0 2 [1065353216, 1073741824, 864026624, 1065353216] 3).op = 0 ∧
    ((collOthers 0 2 [1065353216, 1073741824, 864026624, 1065353216] 3).ty = 2 ∨ (collOthers 0 2 [1065353216, 1073741824, 864026624, 1065353216] 3).ty = 3) ∧
    (((collS (collOthers 0 2 [1065353216, 1073741824, 864026624, 1065353216] 3)).modColl 1 ↑(3 : Fin 32) fun (x : Coll) => { x with parts := x.parts ++ [((collOthers 0 2 [1065353216, 1073741824, 864026624, 1065353216] 3).gen + 1, 3, some [[1065353216, 1073741824, 864026624, 1065353216].getD 3 0])] : Coll }) = (collS (collOthers 0 2 [1065353216, 1073741824, 864026624, 1065353216] 3)).modColl 1 ↑(3 : Fin 32) fun (x : Coll) => { x with parts := x.parts ++ [((collOthers 0 2 [1065353216, 1073741824, 864026624, 1065353216] 3).gen + 1, 3, some [[1065353216, 1073741824, 864026624, 1065353216].getD 3 0])] : Coll }) ∧
    ((collWritten (collOthers 0 2 [1065353216, 1073741824, 864026624, 1065353216] 3) (5, 3, some [1065353216]) 4 1082130432).jobs = ((collS (collOthers 0 2 [1065353216, 1073741824, 864026624, 1065353216] 3)).modColl 1 ↑(3 : Fin 32) fun (x : Coll) => { x with parts := x.parts ++ [((collOthers 0 2 [1065353216, 1073741824, 864026624, 1065353216] 3).gen + 1, 3, some [[1065353216, 1073741824, 864026624, 1065353216].getD 3 0])] : Coll }).jobs) ∧
    (((collS (collOthers 0 2 [1065353216, 1073741824, 864026624, 1065353216] 3)).modColl 1 ↑(3 : Fin 32) fun (x : Coll) => { x with parts := x.parts ++ [((collOthers 0 2 [1065353216, 1073741824, 864026624, 1065353216] 3).gen + 1, 3, some [[1065353216, 1073741824, 864026624, 1065353216].getD 3 0])] : Coll }).writeAt (((collS (collOthers 0 2 [1065353216, 1073741824, 864026624, 1065353216] 3)).modColl 1 ↑(3 : Fin 32) fun (x : Coll) => { x with parts := x.parts ++ [((collOthers 0 2 [1065353216, 1073741824, 864026624, 1065353216] 3).gen + 1, 3, some [[1065353216, 1073741824, 864026624, 1065353216].getD 3 0])] : Coll }).party (collOthers 0 2 [1065353216, 1073741824, 864026624, 1065353216] 3).bcore 1 false) (collOthers 0 2 [1065353216, 1073741824, 864026624, 1065353216] 3).result (leBytes 4 (f32Sum (f32Sum 1065353216 1073741824) (f32Sum 864026624 1065353216))) false = Got.ok (collWritten (collOthers 0 2 [1065353216, 1073741824, 864026624, 1065353216] 3) (5, 3, some [1065353216]) 4 1082130432) ()) :=
  ⟨by (unfold Sys2Proof.Claims.OneElement; decide +kernel),
    by decide +kernel,
    by (refine ⟨by decide, by decide, by decide, fun r hr hn => ?_⟩; have hr : r < 4 := hr.trans_le (by decide); revert hn; interval_cases r <;> first | (intro _; rfl) | (intro h; exact absurd rfl h) | (exact absurd hr (by decide)) | simp_all),
    by decide +kernel⟩

theorem test_meets_collectives_cfb :
    OneElement (collS (collOthers 0 3 [1065353216, 1073741824, 864026624, 1065353216] 3)) 1 (↑(3 : Fin 32)) (collOthers 0 3 [1065353216, 1073741824, 864026624, 1065353216] 3) ∧
    3 ≠ (collOthers 0 3 [1065353216, 1073741824, 864026624, 1065353216] 3).rank ∧
    OthersThere (collOthers 0 3 [1065353216, 1073741824, 864026624, 1065353216] 3) 3 [1065353216, 1073741824, 864026624, 1065353216] ∧
    (∀ v ∈ [1065353216, 1073741824, 864026624, 1065353216], v < 2 ^ 32) ∧
    (collOthers 0 3 [1065353216, 1073741824, 864026624, 1065353216] 3).op = 0 ∧
    ((collOthers 0 3 [1065353216, 1073741824, 864026624, 1065353216] 3).ty = 2 ∨ (collOthers 0 3 [1065353216, 1073741824, 864026624, 1065353216] 3).ty = 3) ∧
    (((collS (collOthers 0 3 [1065353216, 1073741824, 864026624, 1065353216] 3)).modColl 1 ↑(3 : Fin 32) fun (x : Coll) => { x with parts := x.parts ++ [((collOthers 0 3 [1065353216, 1073741824, 864026624, 1065353216] 3).gen + 1, 3, some [[1065353216, 1073741824, 864026624, 1065353216].getD 3 0])] : Coll }) = (collS (collOthers 0 3 [1065353216, 1073741824, 864026624, 1065353216] 3)).modColl 1 ↑(3 : Fin 32) fun (x : Coll) => { x with parts := x.parts ++ [((collOthers 0 3 [1065353216, 1073741824, 864026624, 1065353216] 3).gen + 1, 3, some [[1065353216, 1073741824, 864026624, 1065353216].getD 3 0])] : Coll }) ∧
    ((collWritten (collOthers 0 3 [1065353216, 1073741824, 864026624, 1065353216] 3) (5, 3, some [1065353216]) 4 1082130432).jobs = ((collS (collOthers 0 3 [1065353216, 1073741824, 864026624, 1065353216] 3)).modColl 1 ↑(3 : Fin 32) fun (x : Coll) => { x with parts := x.parts ++ [((collOthers 0 3 [1065353216, 1073741824, 864026624, 1065353216] 3).gen + 1, 3, some [[1065353216, 1073741824, 864026624, 1065353216].getD 3 0])] : Coll }).jobs) ∧
    (((collS (collOthers 0 3 [1065353216, 1073741824, 864026624, 1065353216] 3)).modColl 1 ↑(3 : Fin 32) fun (x : Coll) => { x with parts := x.parts ++ [((collOthers 0 3 [1065353216, 1073741824, 864026624, 1065353216] 3).gen + 1, 3, some [[1065353216, 1073741824, 864026624, 1065353216].getD 3 0])] : Coll }).writeAt (((collS (collOthers 0 3 [1065353216, 1073741824, 864026624, 1065353216] 3)).modColl 1 ↑(3 : Fin 32) fun (x : Coll) => { x with parts := x.parts ++ [((collOthers 0 3 [1065353216, 1073741824, 864026624, 1065353216] 3).gen + 1, 3, some [[1065353216, 1073741824, 864026624, 1065353216].getD 3 0])] : Coll }).party (collOthers 0 3 [1065353216, 1073741824, 864026624, 1065353216] 3).bcore 1 false) (collOthers 0 3 [1065353216, 1073741824, 864026624, 1065353216] 3).result (leBytes 4 (f32Sum (f32Sum 1065353216 1073741824) (f32Sum 864026624 1065353216))) false = Got.ok (collWritten (collOthers 0 3 [1065353216, 1073741824, 864026624, 1065353216] 3) (5, 3, some [1065353216]) 4 1082130432) ()) :=
  ⟨by (unfold Sys2Proof.Claims.OneElement; decide +kernel),
    by decide +kernel,
    by (refine ⟨by decide, by decide, by decide, fun r hr hn => ?_⟩; have hr : r < 4 := hr.trans_le (by decide); revert hn; interval_cases r <;> first | (intro _; rfl) | (intro h; exact absurd rfl h) | (exact absurd hr (by decide)) | simp_all),
    by decide +kernel⟩

theorem test_meets_collectives_cdr :
    (collS (coll1 0 0 2)).coll? 1 ↑(3 : Fin 32) = some (coll1 0 0 2) ∧
    ((coll1 0 0 2).broken = true ∨ 4 ≤ (coll1 0 0 2).gen ∨ (coll1 0 0 2).devs.length ≤ 0 ∨ 0 = (coll1 0 0 2).rank) :=
  by decide +kernel

theorem test_meets_collectives_cpo :
    at_cpo.coll? 1 ↑(3 : Fin 32) = some at_gref2_2 ∧
    at_cpo.deaf = false ∧
    at_gref2_2.broken = false ∧
    at_gref2_2.gone = true ∧
    at_gref2_2.arrival = false ∧
    ((at_gref2_2.parts.any fun (p : Nat × Nat × Option (List Nat)) => decide (p.1 = at_gref2_2.gen + 1 ∧ p.2.1 = 0)) = false) ∧
    0 < at_gref2_2.devs.length ∧
    0 ≠ at_gref2_2.rank :=
  by decide +kernel

theorem test_meets_collectives_cb :
    at_cb.coll? 1 ↑(3 : Fin 32) = some at_gbrk_2 ∧
    at_gbrk_2.broken = true :=
  by decide +kernel

theorem test_meets_collectives_cng :
    (collS (coll1 0 0 2)).coll? 1 ↑(3 : Fin 32) = some (coll1 0 0 2) ∧
    ((coll1 0 0 2).gone = false ∨ goneFor (collS (coll1 0 0 2)) (↑(3 : Fin 32)) (coll1 0 0 2) < 2 ^ 24) :=
  by decide +kernel

theorem test_meets_collectives_clo :
    (collS (coll1 0 0 2)).coll? 1 ↑(3 : Fin 32) = some (coll1 0 0 2) ∧
    (coll1 0 0 2).broken = false ∧
    (collS (coll1 0 0 2)).deaf = false :=
  by decide +kernel

theorem test_meets_collectives_ctw :
    at_ctw.coll? 1 ↑(3 : Fin 32) = some at_ctw_2 ∧
    (at_ctw_2.gone = false ∨ goneFor at_ctw (↑(3 : Fin 32)) at_ctw_2 < 2 ^ 24) :=
  by decide +kernel

theorem test_meets_collectives_cto :
    at_cto.coll? 1 ↑(3 : Fin 32) = some at_cto_2 ∧
    at_cto_2.broken = false ∧
    at_cto_2.gone = true ∧
    2 ^ 24 ≤ goneFor at_cto (↑(3 : Fin 32)) at_cto_2 :=
  by decide +kernel

/-- What the witness of `mh` runs on. -/
def at_mh := (platS { millUp with hot := true } brimIdle)

/-- What the witness of `mtb` runs on. -/
def at_mtb := (platS millUp { brimIdle with st := .phaseA })

/-- What the witness of `drb` runs on. -/
def at_drb := (platS { millUp with hot := true } { brimIdle with st := .phaseA })

/-! ### Platform -/

theorem test_meets_platform_cc :
    (platS millUp brimIdle).deaf = false ∧
    (∃ (k : Nat), 6 ≤ k ∧ k ≤ 16 ∧ 1200 = 100 * k) :=
  ⟨by decide +kernel,
    by exact ⟨12, by decide, by decide, by decide⟩⟩

theorem test_meets_platform_ccn :
    (¬∃ (k : Nat), 6 ≤ k ∧ k ≤ 16 ∧ 1250 = 100 * k) :=
  by (unfold Not; simp; decide +kernel)

theorem test_meets_platform_dr :
    (platS millUp brimIdle).brim.st ≠ BrimSt.off ∧
    ((platS millUp brimIdle).island ↑(5 : Fin 24)).droop = false ∧
    (platS millUp brimIdle).milliner.log.length < 131072 :=
  by decide +kernel

theorem test_meets_platform_ms :
    (readings 5 800).length = 24 ∧
    (platS millUp brimIdle).deaf = false ∧
    (∀ r ∈ readings 5 800, r.temp < 110 * 8) :=
  by decide +kernel

theorem test_meets_platform_ms2 :
    (readings 5 759).length = 24 ∧
    (platS millUp brimIdle).deaf = false ∧
    (∀ r ∈ readings 5 759, r.temp < 110 * 8) :=
  by decide +kernel

theorem test_meets_platform_mh :
    (readings 5 719).length = 24 ∧
    at_mh.milliner.hot = true ∧
    (∀ r ∈ readings 5 719, r.temp < 90 * 8) :=
  by decide +kernel

theorem test_meets_platform_mh2 :
    (readings 5 720).length = 24 ∧
    at_mh.milliner.hot = true ∧
    (∃ r ∈ readings 5 720, 90 * 8 ≤ r.temp) :=
  by decide +kernel

theorem test_meets_platform_mt :
    (readings 23 880).length = 24 ∧
    (platS millUp brimIdle).milliner.hot = false ∧
    (platS millUp brimIdle).brim.st = BrimSt.idle ∧
    (∃ r ∈ readings 23 880, 110 * 8 ≤ r.temp) :=
  by decide +kernel

theorem test_meets_platform_fs :
    (platS millUp brimIdle).milliner.runB = false ∧
    (platS millUp brimIdle).milliner.log.length < 131072 ∧
    5 < 2 ^ 64 :=
  by decide +kernel

theorem test_meets_platform_bn :
    (¬MayStart (platS millUp brimIdle)) :=
  by (unfold Sys2Proof.Claims.MayStart; decide +kernel)

theorem test_meets_platform_bt :
    MayStart bootS ∧
    bootS.milliner.slotA = some (fwSlot 4 true) ∧
    bootS.milliner.slotB = some (fwSlot 5 false) ∧
    Candidate (fwSlot 4 true) ∧
    Candidate (fwSlot 5 false) ∧
    (fwSlot 4 true).version < (fwSlot 5 false).version ∧
    bootS.milliner.log.length < 131071 :=
  ⟨by (unfold Sys2Proof.Claims.MayStart; decide +kernel),
    by decide +kernel,
    by decide +kernel,
    by (unfold Sys2Proof.Claims.Candidate; decide +kernel),
    by (unfold Sys2Proof.Claims.Candidate; decide +kernel),
    by decide +kernel⟩

theorem test_meets_platform_bd :
    MayStart bootS ∧
    bootS.pois = [] ∧
    field (storeWord bootS.mem 549755813888 0) 0 32 ≠ 1380533314 ∧
    field (storeWord bootS.mem 549822922752 0) 0 32 ≠ 1380533314 :=
  ⟨by (unfold Sys2Proof.Claims.MayStart; decide +kernel),
    by decide +kernel⟩

theorem test_meets_platform_bs :
    MayStart (saved true) ∧
    (saved true).pois = [] ∧
    field (storeWord (saved true).mem 549755813888 0) 0 32 = 1380533314 ∧
    field (storeWord (saved true).mem 549755813888 1) 0 16 = 1 :=
  ⟨by (unfold Sys2Proof.Claims.MayStart; decide +kernel),
    by decide +kernel⟩

theorem test_meets_platform_bs2 :
    MayStart (saved false) ∧
    (saved false).pois = [] ∧
    field (storeWord (saved false).mem 549755813888 0) 0 32 = 1380533314 ∧
    field (storeWord (saved false).mem 549755813888 1) 0 16 = 1 :=
  ⟨by (unfold Sys2Proof.Claims.MayStart; decide +kernel),
    by decide +kernel⟩

theorem test_meets_platform_mtb :
    (readings 22 881).length = 24 ∧
    at_mtb.milliner.hot = false ∧
    at_mtb.brim.st ≠ BrimSt.idle ∧
    at_mtb.milliner.log.length < 131072 ∧
    22 < 24 ∧
    (∀ (r : Reading), (readings 22 881)[22]? = some r → 110 * 8 ≤ r.temp) ∧
    (∀ j < 22, ∀ (r : Reading), (readings 22 881)[j]? = some r → r.temp < 110 * 8) :=
  by decide +kernel

theorem test_meets_platform_drb :
    at_drb.brim.st ≠ BrimSt.off ∧
    (at_drb.island ↑(5 : Fin 24)).droop = false ∧
    at_drb.milliner.log.length < 131072 :=
  by decide +kernel

/-- What the witness of `sn` runs on. -/
def at_sn := { brimS .off Core.reset with milliner := { millUp with hot := true } }

/-- What the witness of `s2` runs on. -/
def at_s2 := (brimS .idle { Core.reset with matrix := mxRuns opBar })

/-- What the witness of `s3` runs on. -/
def at_s3 := (brimS .idle { Core.reset with matrix := { mxHolds with load := some loadB } })

/-- What the witness of `paj` runs on. -/
def at_paj := { ent1 with lanes := [⟨0x8000280000000011, none, 0, false, 2, 0xABCD⟩] }

/-- What the witness of `pah` runs on. -/
def at_pah := { ent1 with lanes := [laneHost] }

/-- What the witness of `pal` runs on. -/
def at_pal := (brimS .phaseA { Core.reset with lines := [ipLine] })

/-! ### BrimSequence -/

theorem test_meets_brimSequence_sn :
    at_sn.brim.st ≠ BrimSt.idle ∧
    (true = true → at_sn.milliner.hot = true) :=
  by decide +kernel

theorem test_meets_brimSequence_s0 :
    (brimS BrimSt.idle Core.reset).brim.st = BrimSt.idle ∧
    (brimS BrimSt.idle Core.reset).preempts = [] ∧
    (brimS BrimSt.idle Core.reset).milliner.log.length < 131071 ∧
    (∃ (k : Core), (brimS BrimSt.idle Core.reset).cores = [(5, k)]) ∧
    ((brimS BrimSt.idle Core.reset).core 5).matrix.tile = none ∧
    ((brimS BrimSt.idle Core.reset).core 5).matrix.load = none :=
  ⟨by decide +kernel,
    by decide +kernel,
    by decide +kernel,
    by (constructor <;> first | decide +kernel | rfl),
    by decide +kernel⟩

theorem test_meets_brimSequence_s1 :
    (brimS BrimSt.idle declKd).brim.st = BrimSt.idle ∧
    (brimS BrimSt.idle declKd).preempts = [] ∧
    (brimS BrimSt.idle declKd).milliner.log.length < 131071 ∧
    (∃ (k : Core), (brimS BrimSt.idle declKd).cores = [(5, k)]) ∧
    ((brimS BrimSt.idle declKd).core 5).matrix.tile = none ∧
    ((brimS BrimSt.idle declKd).core 5).matrix.load = none :=
  ⟨by decide +kernel,
    by decide +kernel,
    by decide +kernel,
    by (constructor <;> first | decide +kernel | rfl),
    by decide +kernel⟩

theorem test_meets_brimSequence_s2 :
    at_s2.brim.st = BrimSt.idle ∧
    at_s2.preempts = [] ∧
    at_s2.milliner.log.length < 131071 ∧
    (∃ (k : Core), at_s2.cores = [(5, k)]) ∧
    (at_s2.core 5).matrix.load = none ∧
    (at_s2.core 5).matrix.tile = some opBar ∧
    (at_s2.core 5).declarer = none ∧
    opBar.fault = none ∧
    opBar.passed < opBar.m ∧
    opBar.next < opBar.m ∧
    opBar.ran = [] ∧
    opBar.bar = some (2, 3) ∧
    opBar.task = none ∧
    at_s2.split = true :=
  ⟨by decide +kernel,
    by decide +kernel,
    by decide +kernel,
    by (constructor <;> first | decide +kernel | rfl),
    by decide +kernel⟩

theorem test_meets_brimSequence_s3 :
    at_s3.brim.st = BrimSt.idle ∧
    at_s3.preempts = [] ∧
    at_s3.milliner.log.length < 131071 ∧
    (∃ (k : Core), at_s3.cores = [(5, k)]) ∧
    (at_s3.core 5).matrix.load = some loadB ∧
    (at_s3.core 5).matrix.tile = none ∧
    (at_s3.core 5).declarer = none :=
  ⟨by decide +kernel,
    by decide +kernel,
    by decide +kernel,
    by (constructor <;> first | decide +kernel | rfl),
    by decide +kernel⟩

theorem test_meets_brimSequence_pan :
    (brimS BrimSt.idle Core.reset).brim.st ≠ BrimSt.phaseA :=
  by decide +kernel

theorem test_meets_brimSequence_pa :
    (brimS BrimSt.phaseA declKd).brim.st = BrimSt.phaseA ∧
    (brimS BrimSt.phaseA declKd).accs = [] ∧
    (brimS BrimSt.phaseA declKd).waits = [] ∧
    (brimS BrimSt.phaseA declKd).preempts = [] ∧
    (∃ (k : Core), (brimS BrimSt.phaseA declKd).cores = [(5, k)]) ∧
    ((brimS BrimSt.phaseA declKd).core 5).lines = [] ∧
    ((brimS BrimSt.phaseA declKd).core 5).journal = [] :=
  ⟨by decide +kernel,
    by decide +kernel,
    by decide +kernel,
    (by decide +kernel),
    by (constructor <;> first | decide +kernel | rfl),
    by decide +kernel⟩

theorem test_meets_brimSequence_paj :
    (brimS BrimSt.phaseA (posted1 { addr := 9223416017319886865, pa := none, tag := 0, shut := false, n := 2, v := 43981 : Lane })).brim.st = BrimSt.phaseA ∧
    (brimS BrimSt.phaseA (posted1 { addr := 9223416017319886865, pa := none, tag := 0, shut := false, n := 2, v := 43981 : Lane })).accs = [] ∧
    (brimS BrimSt.phaseA (posted1 { addr := 9223416017319886865, pa := none, tag := 0, shut := false, n := 2, v := 43981 : Lane })).waits = [] ∧
    (brimS BrimSt.phaseA (posted1 { addr := 9223416017319886865, pa := none, tag := 0, shut := false, n := 2, v := 43981 : Lane })).preempts = [] ∧
    (∃ (k : Core), (brimS BrimSt.phaseA (posted1 { addr := 9223416017319886865, pa := none, tag := 0, shut := false, n := 2, v := 43981 : Lane })).cores = [(5, k)]) ∧
    ((brimS BrimSt.phaseA (posted1 { addr := 9223416017319886865, pa := none, tag := 0, shut := false, n := 2, v := 43981 : Lane })).core 5).lines = [] ∧
    ((brimS BrimSt.phaseA (posted1 { addr := 9223416017319886865, pa := none, tag := 0, shut := false, n := 2, v := 43981 : Lane })).core 5).journal = [(0, at_paj)] ∧
    at_paj.v = true ∧
    at_paj.lanes = [{ addr := 9223416017319886865, pa := none, tag := 0, shut := false, n := 2, v := 43981 : Lane }] ∧
    { addr := 9223416017319886865, pa := none, tag := 0, shut := false, n := 2, v := 43981 : Lane }.pa = none ∧
    ((brimS BrimSt.phaseA (posted1 { addr := 9223416017319886865, pa := none, tag := 0, shut := false, n := 2, v := 43981 : Lane })).core 5).fwd = none ∧
    space true { addr := 9223416017319886865, pa := none, tag := 0, shut := false, n := 2, v := 43981 : Lane }.addr = Except.ok (Space.pkg 5 17) ∧
    ((brimS BrimSt.phaseA (posted1 { addr := 9223416017319886865, pa := none, tag := 0, shut := false, n := 2, v := 43981 : Lane })).core 5).scratchOk 17 { addr := 9223416017319886865, pa := none, tag := 0, shut := false, n := 2, v := 43981 : Lane }.n = true :=
  ⟨by decide +kernel,
    by decide +kernel,
    by decide +kernel,
    (by decide +kernel),
    by (constructor <;> first | decide +kernel | rfl),
    by decide +kernel⟩

theorem test_meets_brimSequence_pah :
    (brimS BrimSt.phaseA (posted1 laneHost)).brim.st = BrimSt.phaseA ∧
    (brimS BrimSt.phaseA (posted1 laneHost)).accs = [] ∧
    (brimS BrimSt.phaseA (posted1 laneHost)).waits = [] ∧
    (brimS BrimSt.phaseA (posted1 laneHost)).preempts = [] ∧
    (∃ (k : Core), (brimS BrimSt.phaseA (posted1 laneHost)).cores = [(5, k)]) ∧
    ((brimS BrimSt.phaseA (posted1 laneHost)).core 5).lines = [] ∧
    ((brimS BrimSt.phaseA (posted1 laneHost)).core 5).journal = [(0, at_pah)] ∧
    at_pah.v = true ∧
    at_pah.lanes = [laneHost] ∧
    laneHost.pa = none ∧
    space true laneHost.addr = Except.ok (Space.host 1 32) :=
  ⟨by decide +kernel,
    by decide +kernel,
    by decide +kernel,
    (by decide +kernel),
    by (constructor <;> first | decide +kernel | rfl),
    by decide +kernel⟩

theorem test_meets_brimSequence_pal :
    at_pal.brim.st = BrimSt.phaseA ∧
    at_pal.accs = [] ∧
    at_pal.waits = [] ∧
    at_pal.preempts = [] ∧
    (∃ (k : Core), at_pal.cores = [(5, k)]) ∧
    (at_pal.core 5).lines = [ipLine] ∧
    (at_pal.core 5).journal = [] ∧
    ipLine.ty = PageTy.ip :=
  ⟨by decide +kernel,
    by decide +kernel,
    by decide +kernel,
    (by decide +kernel),
    by (constructor <;> first | decide +kernel | rfl),
    by decide +kernel⟩

theorem test_meets_brimSequence_pbn :
    (brimS BrimSt.idle Core.reset).brim.st ≠ BrimSt.drained :=
  by decide +kernel

theorem test_meets_brimSequence_pb0 :
    (brimS BrimSt.drained Core.reset).brim.st = BrimSt.drained ∧
    (∀ x ∈ (brimS BrimSt.drained Core.reset).jobs, x.2.log = []) ∧
    (∀ x ∈ (brimS BrimSt.drained Core.reset).cores, ((brimS BrimSt.drained Core.reset).core x.1).mslen = 0) :=
  by decide +kernel

theorem test_meets_brimSequence_pb :
    declS.brim.st = BrimSt.drained ∧
    (∀ x ∈ declS.jobs, x.2.log = []) ∧
    (∃ (k : Core), declS.cores = [(5, k)]) ∧
    5 < 512 ∧
    (declS.core 5).mslen.toNat ≠ 0 ∧
    (declS.core 5).mslen.toNat % 64 = 0 ∧
    (declS.core 5).mslen.toNat ≤ 65536 ∧
    (declS.core 5).mslen.toNat + 128 ≤ 64 * 3 ∧
    ((List.map (fun (j : Nat) => declS.mem.get (458816 + j)) (List.range 64)).length = (declS.core 5).mslen.toNat) ∧
    (declS.saveRead 5 (declS.coreJob 5) 3 (BitVec.toNat (declS.core 5).msbase) (declS.core 5).mslen.toNat = some (List.map (fun (j : Nat) => declS.mem.get (458816 + j)) (List.range 64), [])) :=
  ⟨by decide +kernel,
    by decide +kernel,
    by (constructor <;> first | decide +kernel | rfl),
    by decide +kernel⟩

theorem test_meets_brimSequence_snf :
    (brimS BrimSt.drained Core.reset).brim.st ≠ BrimSt.idle ∧
    (false = true → (brimS BrimSt.drained Core.reset).milliner.hot = true) :=
  by decide +kernel

theorem test_meets_brimSequence_sh :
    (brimS BrimSt.phaseA Core.reset).brim.st ≠ BrimSt.idle ∧
    (brimS BrimSt.phaseA Core.reset).milliner.hot = false ∧
    (brimS BrimSt.phaseA Core.reset).milliner.log.length < 131072 :=
  by decide +kernel

end Sys2Proof.Tests
end

