-- ==== Sys2Proof/Tests/MeetsScalar.lean ====
section
/-! SUPPORT. For each clause of the statements about the encodings, the scalar instructions, traps, accesses, copies and queues: a state and operands that meet all its hypotheses. -/

set_option maxRecDepth 100000
set_option Elab.async false
set_option linter.unusedTactic false
set_option linter.unusedVariables false
set_option linter.unreachableTactic false
set_option linter.unnecessarySeqFocus false

open Sys2Proof Sys2Proof.Machine Sys2Proof.Claims

namespace Sys2Proof.Tests

/-- What the witness of `StepRuns2` runs on. -/
def at_StepRuns2 := { placed with agenda := [.issue 0 1] }

/-- What the witness of `BlockedStrandsWake` runs on. -/
def at_BlockedStrandsWake := { placed with cores := [(0, { placed.core 0 with strands := [(0, { placed.strand 0 0 with st := .blocked })] })] }

/-- What the witness of `MisalignedJumpTraps2` runs on. -/
def at_MisalignedJumpTraps2 := (one { user with regs := { Regs.zero with g := [(15, 2)] } })

/-! ### DecodeEncode -/

theorem test_meets_decodeEncode :
    (Instr.srai 2 3 7).wf = true ∧
    encode (Instr.srai 2 3 7) = some 411828359 :=
  by decide +kernel

/-! ### EncodeDecode -/

theorem test_meets_encodeDecode :
    decode 608174084 = Except.ok (Instr.li 1 4) :=
  by decide +kernel

/-! ### IllegalTraps -/

theorem test_meets_illegalTraps :
    BitVec.toNat (4227858432 : BitVec 32) / 2 ^ 26 ∈ [0, 13, 14, 15, 27, 28, 29, 30, 31, 37, 38, 39, 44, 45, 46, 47, 54, 55, 61, 63] :=
  by decide +kernel

/-! ### StepRuns -/

theorem test_meets_stepRuns :
    placed.agenda = [Turn.issue 0 0] ∧
    0 < 512 ∧
    0 < 19 ∧
    { placed with agenda := [] : State }.nextCand 0 = some 0 ∧
    (placed.strand 0 0).held = none ∧
    { placed with agenda := [] : State }.nextAsync 0 0 = none ∧
    (placed.strand 0 0).windowOver = false ∧
    (placed.core 0).replay = none ∧
    (placed.strand 0 0).rest = none ∧
    (placed.strand 0 0).fl = Fol.none ∧
    BitVec.toNat (placed.strand 0 0).pc % 4 = 0 ∧
    { placed with agenda := [] : State }.fetch (placed.party 0 (placed.strand 0 0).job (placed.strand 0 0).sup) (placed.strand 0 0).pc = Got.ok placed1 608174084 ∧
    decode 608174084 = Except.ok (Instr.li 1 4) ∧
    placed1.mustWait 0 0 608174084 = false ∧
    (placed1.strand 0 0).fl = Fol.none ∧
    exec (Instr.li 1 4) { placed1 with cur := { core := 0, slot := 0 : Cur } : State } = Host.Outcome.next (placed1.write 1 4) :=
  ⟨by decide +kernel,
    by decide +kernel,
    by decide +kernel,
    (by decide +kernel),
    by decide +kernel,
    by decide +kernel,
    by decide +kernel,
    (by decide +kernel),
    by decide +kernel,
    by decide +kernel,
    by decide +kernel,
    (by decide +kernel),
    by decide +kernel,
    by decide +kernel,
    by decide +kernel,
    by rfl⟩

theorem test_meets_stepRuns_2 :
    at_StepRuns2.agenda = [Turn.issue 0 1] ∧
    0 < 512 ∧
    1 < 19 ∧
    { at_StepRuns2 with agenda := [] : State }.nextCand 0 ≠ some 1 :=
  by decide +kernel

theorem test_meets_stepRuns_3 :
    (one user).spillRings = [] ∧
    (one user).spills = [] ∧
    (∀ x ∈ (one user).cores, ∀ y ∈ x.2.strands, y.2.st ≠ SlotSt.blocked) :=
  by decide +kernel

/-! ### PlacedWordRuns -/

theorem test_meets_placedWordRuns :
    decode 608174084 = Except.ok (Instr.li 1 4) ∧
    exec (Instr.li 1 4) ({ (State.reset.withFetchWord 32 (BitVec.toNat (608174084 : BitVec 32))) with agenda := [] : State }) = Host.Outcome.next (placed1.write 1 4) :=
  ⟨by decide +kernel,
    by rfl⟩

/-! ### RegisterRegister -/

theorem test_meets_registerRegister :
    regReg (one user).rg (Instr.sub 3 1 2) = some (3, 18446744073709551614) :=
  by decide +kernel

/-! ### Immediate -/

theorem test_meets_immediate :
    regImm (one user).rg (one user).me.pc (Instr.addi 3 1 262143) = some (3, 4) :=
  by decide +kernel

/-! ### RegisterWriteFrame -/

theorem test_meets_registerWriteFrame :
    Quiet (one user) :=
  by rfl

/-! ### LookaheadWindow -/

theorem test_meets_lookaheadWindow :
    user.outs = [] :=
  by decide +kernel

theorem test_meets_lookaheadWindow_a :
    user.outs = [] ∧
    [264].length < 2 :=
  by decide +kernel

theorem test_meets_lookaheadWindow_b :
    user.outs = [] ∧
    2 ≤ [264, 268].length :=
  by decide +kernel

theorem test_meets_lookaheadWindow_c :
    user.outs = [] ∧
    0 < 2 :=
  by decide +kernel

/-! ### Branches -/

theorem test_meets_branches :
    branchOf (one user).rg (Instr.bltn 1 2 262143) = some (true, 262143) :=
  by decide +kernel

theorem test_meets_branches_2 :
    branchOf (one user).rg (Instr.beq 1 2 262143) = some (false, 262143) ∧
    Quiet (one user) :=
  ⟨by decide +kernel,
    by rfl⟩

/-! ### Jumps -/

theorem test_meets_jumps :
    BitVec.toNat ((one user).rg 15) % 4 = 0 :=
  by decide +kernel

theorem test_meets_jumps_2 :
    BitVec.toNat ((one user).rg 15) % 4 = 0 :=
  by decide +kernel

/-! ### MisalignedJumpTraps -/

theorem test_meets_misalignedJumpTraps :
    BitVec.toNat ((one user).rg 4) % 4 ≠ 0 :=
  by decide +kernel

theorem test_meets_misalignedJumpTraps_2 :
    BitVec.toNat (at_MisalignedJumpTraps2.rg 15) % 4 ≠ 0 :=
  by decide +kernel

/-! ### TakesTrap -/

theorem test_meets_takesTrap :
    BitVec.toNat (7 : BitVec 8) < 64 ∧
    Quiet (one user) ∧
    TrapOpen (one user) :=
  ⟨by decide +kernel,
    by rfl,
    by (constructor <;> first | decide +kernel | rfl)⟩

/-! ### SoftwareTrap -/

theorem test_meets_softwareTrap :
    Quiet (one user) ∧
    TrapOpen (one user) :=
  ⟨by rfl,
    by (constructor <;> first | decide +kernel | rfl)⟩

/-! ### TrapHeldBehindHandler -/

theorem test_meets_trapHeldBehindHandler_TrapHeld :
    BitVec.toNat (7 : BitVec 8) < 64 ∧
    Quiet (beside user inTrap) ∧
    (beside user inTrap).me.intrap = false ∧
    (beside user inTrap).mine.trapHeld (beside user inTrap).cur.slot = true :=
  ⟨by decide +kernel,
    by rfl,
    by decide +kernel⟩

/-! ### HeldTrapTaken -/

theorem test_meets_heldTrapTaken :
    BitVec.toNat (7 : BitVec 8) < 64 ∧
    heldTurn.agenda = [Turn.issue heldTurn.cur.core heldTurn.cur.slot] ∧
    heldTurn.cur.core < 512 ∧
    heldTurn.cur.slot < 19 ∧
    { heldTurn with agenda := [] : State }.nextCand heldTurn.cur.core = some heldTurn.cur.slot ∧
    heldTurn.me.held = some ({ code := 7, jent := 0, ring := none, faddr := 85, copy := none : TrapInfo }, 256) ∧
    Quiet heldTurn ∧
    TrapOpen heldTurn :=
  ⟨by decide +kernel,
    by decide +kernel,
    by decide +kernel,
    (by decide +kernel),
    by decide +kernel,
    by decide +kernel,
    by rfl,
    by (constructor <;> first | decide +kernel | rfl)⟩

/-! ### DoubleTrap -/

theorem test_meets_doubleTrap :
    BitVec.toNat (7 : BitVec 8) < 64 ∧
    Quiet (splitOne inTrap) ∧
    (splitOne inTrap).me.intrap = true ∧
    (splitOne inTrap).me.fl = Fol.none ∧
    (splitOne inTrap).split = true ∧
    (splitOne inTrap).cur.slot < 16 ∧
    (splitOne inTrap).me.st = SlotSt.ready :=
  ⟨by decide +kernel,
    by rfl,
    by decide +kernel⟩

/-! ### AsynchronousTrap -/

theorem test_meets_asynchronousTrap :
    (one raised).nextAsync (one raised).cur.core (one raised).cur.slot = some asyncInfo ∧
    64 ≤ asyncInfo.code.toNat ∧
    asyncInfo.ring = none ∧
    asyncInfo.copy = none ∧
    ((one raised).me.st = SlotSt.ready ∨ (one raised).me.st = SlotSt.blocked ∨ (one raised).me.st = SlotSt.parked Park.park) ∧
    Quiet (one raised) ∧
    TrapOpen (one raised) :=
  ⟨by decide +kernel,
    by decide +kernel,
    by decide +kernel,
    (by decide +kernel),
    by decide +kernel,
    by rfl,
    by (constructor <;> first | decide +kernel | rfl)⟩

/-! ### ReturnFromTrap -/

theorem test_meets_returnFromTrap :
    Quiet (beside inTrap heldTrap) ∧
    (beside inTrap heldTrap).me.sup = true ∧
    BitVec.toNat (beside inTrap heldTrap).mine.epc % 4 = 0 ∧
    (beside inTrap heldTrap).me.st = SlotSt.ready :=
  ⟨by rfl,
    by decide +kernel⟩

/-! ### PrivilegeTraps -/

theorem test_meets_privilegeTraps_Priv1 :
    supervisorOnly Instr.halt = true ∧
    (one user).me.sup = false :=
  by decide +kernel

theorem test_meets_privilegeTraps_Priv2 :
    (one user).me.sup = false ∧
    ((∃ (n : Fin 16), CrName.tvec = CrName.wvring n) ∨ CrName.tvec ∈ [CrName.tvec, CrName.sscr, CrName.jtbase, CrName.fatbase]) :=
  by decide +kernel

theorem test_meets_privilegeTraps_Priv2b :
    (one user).me.sup = false ∧
    ((∃ (n : Fin 16), CrName.wvring (15 : Fin 16) = CrName.wvring n) ∨ CrName.wvring (15 : Fin 16) ∈ [CrName.tvec, CrName.sscr, CrName.jtbase, CrName.fatbase]) :=
  by decide +kernel

theorem test_meets_privilegeTraps_Priv3 :
    (one user).me.sup = false ∧
    CrName.stageasn ∈ [CrName.status, CrName.cause, CrName.epc, CrName.faddr, CrName.htbase, CrName.stageasn] :=
  by decide +kernel

theorem test_meets_privilegeTraps_Priv4 :
    CrName.cycle ∈ [CrName.strid, CrName.jobid, CrName.coreid, CrName.tags, CrName.usc, CrName.bankcfg, CrName.msbase, CrName.mslen, CrName.cycle] :=
  by decide +kernel

theorem test_meets_privilegeTraps_Priv5 :
    (one super).me.sup = true ∧
    CrName.jtbase ∈ [CrName.tvec, CrName.jtbase, CrName.fatbase] ∧
    (¬(BitVec.toNat ((one super).rg 2) / 2 ^ 61 = 7 ∧ BitVec.toNat ((one super).rg 2) / 2 ^ 48 % 2 ^ 13 = 0)) :=
  by decide +kernel

/-! ### ControlRegisterRead -/

theorem test_meets_controlRegisterRead_Read :
    ((one user).me.sup = true ∨ ¬((∃ (n : Fin 16), CrName.status = CrName.wvring n) ∨ CrName.status ∈ [CrName.tvec, CrName.sscr, CrName.jtbase, CrName.fatbase])) :=
  by decide +kernel

/-! ### ControlRegisterWrite -/

theorem test_meets_controlRegisterWrite_Write1 :
    (one superPhys).me.sup = true ∧
    Quiet (one superPhys) ∧
    zeroBits CrName.cause = some 18446744072635809792 :=
  ⟨by decide +kernel,
    by rfl,
    by decide +kernel⟩

theorem test_meets_controlRegisterWrite_Write1b :
    (one superPhys).me.sup = true ∧
    Quiet (one superPhys) ∧
    zeroBits (CrName.wvring (3 : Fin 16)) = some 62 :=
  ⟨by decide +kernel,
    by rfl,
    by decide +kernel⟩

theorem test_meets_controlRegisterWrite_Write1c :
    (one superPhys).me.sup = true ∧
    Quiet (one superPhys) ∧
    zeroBits CrName.srseed = some 0 :=
  ⟨by decide +kernel,
    by rfl,
    by decide +kernel⟩

theorem test_meets_controlRegisterWrite_Write1d :
    (one superPhys).me.sup = true ∧
    Quiet (one superPhys) ∧
    zeroBits CrName.prio = some 18446744073709551612 :=
  ⟨by decide +kernel,
    by rfl,
    by decide +kernel⟩

theorem test_meets_controlRegisterWrite_Write1e :
    (one superPhys).me.sup = true ∧
    Quiet (one superPhys) ∧
    zeroBits CrName.stageasn = some 18446744073709551104 :=
  ⟨by decide +kernel,
    by rfl,
    by decide +kernel⟩

theorem test_meets_controlRegisterWrite_Write1f :
    (one superPhys).me.sup = true ∧
    Quiet (one superPhys) ∧
    zeroBits CrName.fmtbad = some 18446744073709551614 :=
  ⟨by decide +kernel,
    by rfl,
    by decide +kernel⟩

theorem test_meets_controlRegisterWrite_Write1g :
    (one superPhys).me.sup = true ∧
    Quiet (one superPhys) ∧
    zeroBits CrName.htbase = some 28672 :=
  ⟨by decide +kernel,
    by rfl,
    by decide +kernel⟩

theorem test_meets_controlRegisterWrite_Write1h :
    (one superPhys).me.sup = true ∧
    Quiet (one superPhys) ∧
    zeroBits CrName.fmtb = some 18446744073709551584 :=
  ⟨by decide +kernel,
    by rfl,
    by decide +kernel⟩

theorem test_meets_controlRegisterWrite_Write2 :
    (one superPhys).me.sup = true ∧
    Quiet (one superPhys) :=
  ⟨by decide +kernel,
    by rfl⟩

theorem test_meets_controlRegisterWrite_Write3 :
    (one superPhys).me.sup = true ∧
    Quiet (one superPhys) ∧
    CrName.tvec ∈ [CrName.tvec, CrName.jtbase, CrName.fatbase] ∧
    BitVec.toNat ((one superPhys).rg 1) / 2 ^ 61 = 7 ∧
    BitVec.toNat ((one superPhys).rg 1) / 2 ^ 48 % 2 ^ 13 = 0 :=
  ⟨by decide +kernel,
    by rfl,
    by decide +kernel⟩

theorem test_meets_controlRegisterWrite_Write3b :
    (one superPhys).me.sup = true ∧
    Quiet (one superPhys) ∧
    CrName.fatbase ∈ [CrName.tvec, CrName.jtbase, CrName.fatbase] ∧
    BitVec.toNat ((one superPhys).rg 1) / 2 ^ 61 = 7 ∧
    BitVec.toNat ((one superPhys).rg 1) / 2 ^ 48 % 2 ^ 13 = 0 :=
  ⟨by decide +kernel,
    by rfl,
    by decide +kernel⟩

/-- What the witness of `BadSpace2` runs on. -/
def at_BadSpace2 := (one { user with regs := { Regs.zero with g := [(9, 0x2000000000000000)] } })

/-- What the witness of `Mis1` runs on. -/
def at_Mis1 := (one { user with regs := { Regs.zero with g := [(5, 0x8000000000000014)] } })

/-- What the witness of `Mis2` runs on. -/
def at_Mis2 := (one { user with regs := { Regs.zero with g := [(4, 0x101)] } })

/-- What the witness of `Atomic1b` runs on. -/
def at_Atomic1b := (withScr { user with regs := { Regs.zero with g := [(1, 0x80000005843382F1), (5, 0x8000000000000010), (9, 44)] } })

/-- What the witness of `Flush3` runs on. -/
def at_Flush3 := (one { user with st := .waiting (.flush 0x1000 0x1180 true .clu) })

/-- What the witness of `Flush4` runs on. -/
def at_Flush4 := (virtS { virtUser with st := .waiting (.flush 0x200000 0x200080 false .sys) })

/-! ### AddressSpaces -/

theorem test_meets_addressSpaces_1 :
    BitVec.toNat (281474976710655 : Word) < 2 ^ 48 :=
  by decide +kernel

theorem test_meets_addressSpaces_2 :
    511 < 512 ∧
    524287 < 2 ^ 19 ∧
    BitVec.toNat (9227866840389648383 : Word) = 2 ^ 63 + 511 * 2 ^ 43 + 524287 :=
  by decide +kernel

theorem test_meets_addressSpaces_3 :
    4095 < 2 ^ 12 ∧
    511 < 2 ^ 9 ∧
    1099511627775 < 2 ^ 40 ∧
    BitVec.toNat (13835058055282163711 : Word) = 5 * 2 ^ 61 + 4095 * 2 ^ 49 + 511 * 2 ^ 40 + 1099511627775 :=
  by decide +kernel

theorem test_meets_addressSpaces_4 :
    4095 < 2 ^ 12 ∧
    1099511627775 < 2 ^ 40 ∧
    BitVec.toNat (13839561654909534207 : Word) = 6 * 2 ^ 61 + 4095 * 2 ^ 40 + 1099511627775 :=
  by decide +kernel

theorem test_meets_addressSpaces_5 :
    (isDram 549890031615 = true ∨ isSave 549890031615 = true) ∧
    BitVec.toNat (16140901614385889279 : Word) = 7 * 2 ^ 61 + 549890031615 :=
  by decide +kernel

theorem test_meets_addressSpaces_5b :
    (isDram 412316860415 = true ∨ isSave 412316860415 = true) ∧
    BitVec.toNat (16140901476812718079 : Word) = 7 * 2 ^ 61 + 412316860415 :=
  by decide +kernel

theorem test_meets_addressSpaces_6 :
    BitVec.toNat (9223372036854775807 : Word) / 2 ^ 61 ∈ [1, 2, 3] :=
  by decide +kernel

theorem test_meets_addressSpaces_7 :
    2 ^ 48 ≤ BitVec.toNat (281474976710656 : Word) ∧
    BitVec.toNat (281474976710656 : Word) < 2 ^ 61 :=
  by decide +kernel

theorem test_meets_addressSpaces_8 :
    BitVec.toNat (9227875636482146304 : Word) / 2 ^ 61 = 4 ∧
    (BitVec.toNat (9227875636482146304 : Word) / 2 ^ 52 % 2 ^ 9 ≠ 0 ∨ BitVec.toNat (9227875636482146304 : Word) / 2 ^ 19 % 2 ^ 24 ≠ 0) :=
  by decide +kernel

theorem test_meets_addressSpaces_8b :
    BitVec.toNat (9223372036855300096 : Word) / 2 ^ 61 = 4 ∧
    (BitVec.toNat (9223372036855300096 : Word) / 2 ^ 52 % 2 ^ 9 ≠ 0 ∨ BitVec.toNat (9223372036855300096 : Word) / 2 ^ 19 % 2 ^ 24 ≠ 0) :=
  by decide +kernel

theorem test_meets_addressSpaces_9 :
    BitVec.toNat (13839561654909534208 : Word) / 2 ^ 61 = 6 ∧
    BitVec.toNat (13839561654909534208 : Word) / 2 ^ 52 % 2 ^ 9 ≠ 0 :=
  by decide +kernel

theorem test_meets_addressSpaces_10 :
    BitVec.toNat (18446744073709551615 : Word) / 2 ^ 61 = 7 :=
  by decide +kernel

theorem test_meets_addressSpaces_11 :
    BitVec.toNat (16140901476812718080 : Word) / 2 ^ 61 = 7 ∧
    (2 ^ 48 ≤ BitVec.toNat (16140901476812718080 : Word) % 2 ^ 61 ∨ isDram (BitVec.toNat (16140901476812718080 : Word) % 2 ^ 61) = false ∧ isSave (BitVec.toNat (16140901476812718080 : Word) % 2 ^ 61) = false) :=
  by decide +kernel

theorem test_meets_addressSpaces_11b :
    BitVec.toNat (16141182539472568320 : Word) / 2 ^ 61 = 7 ∧
    (2 ^ 48 ≤ BitVec.toNat (16141182539472568320 : Word) % 2 ^ 61 ∨ isDram (BitVec.toNat (16141182539472568320 : Word) % 2 ^ 61) = false ∧ isSave (BitVec.toNat (16141182539472568320 : Word) % 2 ^ 61) = false) :=
  by decide +kernel

/-! ### BadSpaceTraps -/

theorem test_meets_badSpaceTraps_BadSpace1 :
    loadForm (Instr.ldw 1 7 LdOrd.mig Scope.pkg 3 0) = some (true, 4, 1, 7, LdOrd.mig, Scope.pkg, 3, 0) ∧
    BitVec.toNat (accessAddr (one user) 7 0 4) % 4 = 0 ∧
    space (one user).me.sup (accessAddr (one user) 7 0 4) = Except.error 2 :=
  ⟨by rfl,
    by decide +kernel⟩

theorem test_meets_badSpaceTraps_BadSpace2 :
    storeForm (Instr.stb 1 9 StOrd.ar Scope.pkg 0) = some (1, 1, 9, StOrd.ar, Scope.pkg, 0) ∧
    BitVec.toNat (accessAddr at_BadSpace2 9 0 1) % 1 = 0 ∧
    space at_BadSpace2.me.sup (accessAddr at_BadSpace2 9 0 1) = Except.error 5 :=
  by decide +kernel

theorem test_meets_badSpaceTraps_BadSpace3 :
    amoForm (Instr.amofadd 1 7 2 AmOrd.ar Scope.pkg 0) = some (AmoFn.fadd, false, 1, 7, 2, AmOrd.ar, Scope.pkg, 0) ∧
    (BitVec.toNat ((one user).rg 7) % if false = true then 8 else 4) = 0 ∧
    space (one user).me.sup ((one user).rg 7) = Except.error 2 :=
  ⟨by rfl,
    by decide +kernel⟩

/-! ### MisalignedAccessTraps -/

theorem test_meets_misalignedAccessTraps_Mis1 :
    loadForm (Instr.ldd 1 5 LdOrd.plain Scope.pkg 0 0) = some (false, 8, 1, 5, LdOrd.plain, Scope.pkg, 0, 0) ∧
    BitVec.toNat (accessAddr at_Mis1 5 0 8) % 8 ≠ 0 :=
  ⟨by rfl,
    by decide +kernel⟩

theorem test_meets_misalignedAccessTraps_Mis2 :
    storeForm (Instr.sth 1 4 StOrd.plain Scope.pkg 0) = some (2, 1, 4, StOrd.plain, Scope.pkg, 0) ∧
    BitVec.toNat (accessAddr at_Mis2 4 0 2) % 2 ≠ 0 :=
  by decide +kernel

theorem test_meets_misalignedAccessTraps_Mis3 :
    amoForm (Instr.amoadd 1 4 2 true AmOrd.plain Scope.pkg 0) = some (AmoFn.add, true, 1, 4, 2, AmOrd.plain, Scope.pkg, 0) ∧
    (BitVec.toNat ((one user).rg 4) % if true = true then 8 else 4) ≠ 0 :=
  ⟨by rfl,
    by decide +kernel⟩

/-! ### OwnLoads -/

theorem test_meets_ownLoads_1 :
    loadForm (Instr.ldw 1 5 LdOrd.acq Scope.pkg 3 0) = some (true, 4, 1, 5, LdOrd.acq, Scope.pkg, 3, 0) ∧
    Calm (withScr user) ∧
    BitVec.toNat (accessAddr (withScr user) 5 0 4) % 4 = 0 ∧
    space (withScr user).me.sup (accessAddr (withScr user) 5 0 4) = Except.ok (Space.pkg (withScr user).cur.core 16) ∧
    (withScr user).inHoods (withScr user).me.job (withScr user).cur.core = true ∧
    (withScr user).mine.scratchOk 16 4 = true ∧
    (withScr user).reach (withScr user).cur.core = (withScr user).cur.core ∧
    touches (withScr user).mine.spois 16 4 = false :=
  ⟨by rfl,
    by (constructor <;> first | decide +kernel | rfl),
    by decide +kernel⟩

theorem test_meets_ownLoads_1b :
    loadForm (Instr.ldhn 1 5 LdOrd.plain Scope.pkg 0 1) = some (false, 2, 1, 5, LdOrd.plain, Scope.pkg, 0, 1) ∧
    Calm (withScr user) ∧
    BitVec.toNat (accessAddr (withScr user) 5 1 2) % 2 = 0 ∧
    space (withScr user).me.sup (accessAddr (withScr user) 5 1 2) = Except.ok (Space.pkg (withScr user).cur.core 18) ∧
    (withScr user).inHoods (withScr user).me.job (withScr user).cur.core = true ∧
    (withScr user).mine.scratchOk 18 2 = true ∧
    (withScr user).reach (withScr user).cur.core = (withScr user).cur.core ∧
    touches (withScr user).mine.spois 18 2 = false :=
  ⟨by rfl,
    by (constructor <;> first | decide +kernel | rfl),
    by decide +kernel⟩

theorem test_meets_ownLoads_2 :
    loadForm (Instr.ldd 1 7 LdOrd.plain Scope.pkg 0 2) = some (false, 8, 1, 7, LdOrd.plain, Scope.pkg, 0, 2) ∧
    Calm (withScr super) ∧
    BitVec.toNat (accessAddr (withScr super) 7 2 8) % 8 = 0 ∧
    space (withScr super).me.sup (accessAddr (withScr super) 7 2 8) = Except.ok (Space.phys 4112) ∧
    (withScr super).split = false ∧
    (withScr super).poisoned 4112 8 = false :=
  ⟨by rfl,
    by (constructor <;> first | decide +kernel | rfl),
    by decide +kernel⟩

/-! ### OwnStores -/

theorem test_meets_ownStores_1 :
    storeForm (Instr.std 9 5 StOrd.plain Scope.pkg 63) = some (8, 9, 5, StOrd.plain, Scope.pkg, 63) ∧
    Calm (withScr user) ∧
    BitVec.toNat (accessAddr (withScr user) 5 63 8) % 8 = 0 ∧
    space (withScr user).me.sup (accessAddr (withScr user) 5 63 8) = Except.ok (Space.pkg (withScr user).cur.core 8) ∧
    (withScr user).inHoods (withScr user).me.job (withScr user).cur.core = true ∧
    (withScr user).mine.scratchOk 8 8 = true :=
  ⟨by decide +kernel,
    by (constructor <;> first | decide +kernel | rfl),
    by decide +kernel⟩

theorem test_meets_ownStores_1b :
    storeForm (Instr.stb 9 5 StOrd.plain Scope.pkg 1) = some (1, 9, 5, StOrd.plain, Scope.pkg, 1) ∧
    Calm (withScr user) ∧
    BitVec.toNat (accessAddr (withScr user) 5 1 1) % 1 = 0 ∧
    space (withScr user).me.sup (accessAddr (withScr user) 5 1 1) = Except.ok (Space.pkg (withScr user).cur.core 17) ∧
    (withScr user).inHoods (withScr user).me.job (withScr user).cur.core = true ∧
    (withScr user).mine.scratchOk 17 1 = true :=
  ⟨by decide +kernel,
    by (constructor <;> first | decide +kernel | rfl),
    by decide +kernel⟩

theorem test_meets_ownStores_2 :
    storeForm (Instr.stw 9 7 StOrd.rel Scope.pkg 4) = some (4, 9, 7, StOrd.rel, Scope.pkg, 4) ∧
    Calm (withScr super) ∧
    BitVec.toNat (accessAddr (withScr super) 7 4 4) % 4 = 0 ∧
    space (withScr super).me.sup (accessAddr (withScr super) 7 4 4) = Except.ok (Space.phys 4112) ∧
    (withScr super).split = false ∧
    (withScr super).waits = [] :=
  ⟨by decide +kernel,
    by (constructor <;> first | decide +kernel | rfl),
    by decide +kernel⟩

/-! ### PostedStores -/

theorem test_meets_postedStores_Posted1 :
    storeForm (Instr.sth 9 6 StOrd.plain Scope.pkg 1) = some (2, 9, 6, StOrd.plain, Scope.pkg, 1) ∧
    StOrd.plain ≠ StOrd.ar ∧
    Calm (one user) ∧
    BitVec.toNat (accessAddr (one user) 6 1 2) % 2 = 0 ∧
    space (one user).me.sup (accessAddr (one user) 6 1 2) = Except.ok (Space.pkg 1 18) ∧
    1 ≠ (one user).cur.core ∧
    (one user).inHoods (one user).me.job 1 = true ∧
    (one user).bankHeld 1 = false ∧
    (one user).mine.journal = [] :=
  ⟨by decide +kernel,
    by decide +kernel,
    by (constructor <;> first | decide +kernel | rfl),
    by decide +kernel⟩

theorem test_meets_postedStores_Posted2 :
    (posted.core 0).jent 0 = ent1 ∧
    ent1.v = true ∧
    ent1.taken = false ∧
    ent1.lanes = [lane1] ∧
    lane1.pa = none ∧
    space true lane1.addr = Except.ok (Space.pkg 1 16) ∧
    (posted.core 0).journal = [(0, ent1)] ∧
    posted.accs = [] ∧
    posted.bankHeld 1 = false ∧
    posted.reach 1 = 1 ∧
    (1 = 0 ∨ posted.shut 1 = false ∧ posted.inHoods ent1.job 1 = true) ∧
    (posted.core 1).scratchOk 16 lane1.n = true ∧
    0 < lane1.n :=
  by decide +kernel

/-! ### PostedStoreRefused -/

theorem test_meets_postedStoreRefused_Refused :
    (postedHost.core 0).journal = [(5, entHost)] ∧
    postedHost.accs = [] ∧
    entHost.v = true ∧
    entHost.taken = false ∧
    entHost.lanes = [laneHost] ∧
    laneHost.pa = none ∧
    space true laneHost.addr = Except.ok (Space.host 1 32) ∧
    postedHost.deaf = false ∧
    ((∃ (d : Nat) (i : Nat) (off : Nat), Space.host 1 32 = Space.dom d i off ∧ ¬(d = postedHost.device ∧ 480 ≤ i)) ∨ ∃ (i : Nat) (off : Nat), Space.host 1 32 = Space.host i off) ∧
    (postedHost.strand 0 entHost.slot).st = SlotSt.ready ∧
    (postedHost.strand 0 entHost.slot).outs = [] :=
  ⟨by decide +kernel,
    by decide +kernel,
    by decide +kernel,
    (by decide +kernel),
    by decide +kernel,
    by decide +kernel,
    by decide +kernel,
    (by decide +kernel),
    by (simp_all; done),
    by decide +kernel⟩

/-! ### AtomicAccess -/

theorem test_meets_atomicAccess_Atomic1 :
    amoForm (Instr.amomin 1 5 9 false AmOrd.ar Scope.pkg 0) = some (AmoFn.min, false, 1, 5, 9, AmOrd.ar, Scope.pkg, 0) ∧
    (4 = if false = true then 8 else 4) ∧
    Calm (withScr user) ∧
    BitVec.toNat ((withScr user).rg 5) % 4 = 0 ∧
    space (withScr user).me.sup ((withScr user).rg 5) = Except.ok (Space.pkg (withScr user).cur.core 16) ∧
    (withScr user).inHoods (withScr user).me.job (withScr user).cur.core = true ∧
    (withScr user).mine.scratchOk 16 4 = true ∧
    (withScr user).reach (withScr user).cur.core = (withScr user).cur.core ∧
    touches (withScr user).mine.spois 16 4 = false :=
  ⟨by rfl,
    by decide +kernel,
    by (constructor <;> first | decide +kernel | rfl),
    by decide +kernel⟩

theorem test_meets_atomicAccess_Atomic1b :
    amoForm (Instr.amocas 1 5 9 true AmOrd.plain Scope.pkg 0) = some (AmoFn.cas, true, 1, 5, 9, AmOrd.plain, Scope.pkg, 0) ∧
    (8 = if true = true then 8 else 4) ∧
    Calm at_Atomic1b ∧
    BitVec.toNat (at_Atomic1b.rg 5) % 8 = 0 ∧
    space at_Atomic1b.me.sup (at_Atomic1b.rg 5) = Except.ok (Space.pkg at_Atomic1b.cur.core 16) ∧
    at_Atomic1b.inHoods at_Atomic1b.me.job at_Atomic1b.cur.core = true ∧
    at_Atomic1b.mine.scratchOk 16 8 = true ∧
    at_Atomic1b.reach at_Atomic1b.cur.core = at_Atomic1b.cur.core ∧
    touches at_Atomic1b.mine.spois 16 8 = false :=
  ⟨by rfl,
    by decide +kernel,
    by (constructor <;> first | decide +kernel | rfl),
    by decide +kernel⟩

theorem test_meets_atomicAccess_Atomic1c :
    amoForm (Instr.amofadd 1 5 9 AmOrd.plain Scope.pkg 0) = some (AmoFn.fadd, false, 1, 5, 9, AmOrd.plain, Scope.pkg, 0) ∧
    (4 = if false = true then 8 else 4) ∧
    Calm (withScr user) ∧
    BitVec.toNat ((withScr user).rg 5) % 4 = 0 ∧
    space (withScr user).me.sup ((withScr user).rg 5) = Except.ok (Space.pkg (withScr user).cur.core 16) ∧
    (withScr user).inHoods (withScr user).me.job (withScr user).cur.core = true ∧
    (withScr user).mine.scratchOk 16 4 = true ∧
    (withScr user).reach (withScr user).cur.core = (withScr user).cur.core ∧
    touches (withScr user).mine.spois 16 4 = false :=
  ⟨by rfl,
    by decide +kernel,
    by (constructor <;> first | decide +kernel | rfl),
    by decide +kernel⟩

theorem test_meets_atomicAccess_Atomic2 :
    amoForm (Instr.amomaxn 1 7 9 true AmOrd.plain Scope.pkg 0) = some (AmoFn.maxn, true, 1, 7, 9, AmOrd.plain, Scope.pkg, 0) ∧
    (8 = if true = true then 8 else 4) ∧
    Calm (withScr super) ∧
    BitVec.toNat ((withScr super).rg 7) % 8 = 0 ∧
    space (withScr super).me.sup ((withScr super).rg 7) = Except.ok (Space.phys 4096) ∧
    isDram 4096 = true ∧
    (withScr super).split = false ∧
    (withScr super).waits = [] ∧
    (withScr super).poisoned 4096 8 = false :=
  ⟨by rfl,
    by decide +kernel,
    by (constructor <;> first | decide +kernel | rfl),
    by decide +kernel⟩

/-! ### BitAccess -/

theorem test_meets_bitAccess_Bit1 :
    Calm (withScr bitUser) ∧
    (133 = if PtrMode.keep = PtrMode.setp then BitVec.setWidth 22 ((withScr bitUser).rg 1) else (withScr bitUser).me.bp 1) :=
  ⟨by (constructor <;> first | decide +kernel | rfl),
    by decide +kernel⟩

theorem test_meets_bitAccess_Bit2 :
    Calm (withScr bitUser) ∧
    (133 = if PtrMode.keep = PtrMode.setp then BitVec.setWidth 22 ((withScr bitUser).rg 1) else (withScr bitUser).me.bp 1) ∧
    PtrMode.keep ≠ PtrMode.xch ∧
    BitVec.toNat (133 : BitVec 22) + ↑(20 : Fin 32) + 1 ≤ 2 ^ 22 ∧
    (withScr bitUser).mine.scratchOk (BitVec.toNat (133 : BitVec 22) / 8) ((BitVec.toNat (133 : BitVec 22) + ↑(20 : Fin 32)) / 8 - BitVec.toNat (133 : BitVec 22) / 8 + 1) = true :=
  ⟨by (constructor <;> first | decide +kernel | rfl),
    by decide +kernel⟩

theorem test_meets_bitAccess_Bit2a :
    Calm (withScr bitUser) ∧
    (133 = if PtrMode.inc = PtrMode.setp then BitVec.setWidth 22 ((withScr bitUser).rg 1) else (withScr bitUser).me.bp 1) ∧
    PtrMode.inc ≠ PtrMode.xch ∧
    BitVec.toNat (133 : BitVec 22) + ↑(20 : Fin 32) + 1 ≤ 2 ^ 22 ∧
    (withScr bitUser).mine.scratchOk (BitVec.toNat (133 : BitVec 22) / 8) ((BitVec.toNat (133 : BitVec 22) + ↑(20 : Fin 32)) / 8 - BitVec.toNat (133 : BitVec 22) / 8 + 1) = true ∧
    touches (withScr bitUser).mine.spois (BitVec.toNat (133 : BitVec 22) / 8) ((BitVec.toNat (133 : BitVec 22) + ↑(20 : Fin 32)) / 8 - BitVec.toNat (133 : BitVec 22) / 8 + 1) = false :=
  ⟨by (constructor <;> first | decide +kernel | rfl),
    by decide +kernel⟩

theorem test_meets_bitAccess_Bit2s :
    Calm (withScr bitUser) ∧
    (5 = if PtrMode.setp = PtrMode.setp then BitVec.setWidth 22 ((withScr bitUser).rg 1) else (withScr bitUser).me.bp 1) ∧
    PtrMode.setp ≠ PtrMode.xch ∧
    BitVec.toNat (5 : BitVec 22) + ↑(20 : Fin 32) + 1 ≤ 2 ^ 22 ∧
    (withScr bitUser).mine.scratchOk (BitVec.toNat (5 : BitVec 22) / 8) ((BitVec.toNat (5 : BitVec 22) + ↑(20 : Fin 32)) / 8 - BitVec.toNat (5 : BitVec 22) / 8 + 1) = true :=
  ⟨by (constructor <;> first | decide +kernel | rfl),
    by decide +kernel⟩

/-! ### Fences -/

theorem test_meets_fences :
    Calm lined :=
  by (constructor <;> first | decide +kernel | rfl)

theorem test_meets_fences_2 :
    Calm lined :=
  by (constructor <;> first | decide +kernel | rfl)

/-! ### PrefetchAndFlush -/

theorem test_meets_prefetchAndFlush_Pref1 :
    Quiet (one user) :=
  by rfl

theorem test_meets_prefetchAndFlush_Pref2 :
    Quiet (withCache (virtS virtUser)) :=
  by rfl

theorem test_meets_prefetchAndFlush_Flush0 :
    (one flusher).rg 3 = 0 :=
  by decide +kernel

theorem test_meets_prefetchAndFlush_Flush1 :
    0 < BitVec.toNat ((one flusher).rg 1) ∧
    BitVec.toNat ((one flusher).rg 1) < 2 ^ 40 ∧
    space (one flusher).me.sup ((one flusher).rg 7) = Except.ok (if true = true then Space.phys 4096 else Space.virt 4096) :=
  by decide +kernel

theorem test_meets_prefetchAndFlush_Flush1b :
    0 < BitVec.toNat ((one flusher).rg 1) ∧
    BitVec.toNat ((one flusher).rg 1) < 2 ^ 40 ∧
    space (one flusher).me.sup ((one flusher).rg 8) = Except.ok (if false = true then Space.phys 4660 else Space.virt 4660) :=
  by decide +kernel

theorem test_meets_prefetchAndFlush_Flush2 :
    2 ^ 40 ≤ BitVec.toNat ((one flusher).rg 2) ∧
    ((∃ (v : Nat), space (one flusher).me.sup ((one flusher).rg 8) = Except.ok (Space.virt v)) ∨ ∃ (v : Nat), space (one flusher).me.sup ((one flusher).rg 8) = Except.ok (Space.phys v)) :=
  ⟨by decide +kernel,
    by (first | exact Or.inl ⟨_, rfl⟩ | exact Or.inr ⟨_, rfl⟩)⟩

theorem test_meets_prefetchAndFlush_Flush2b :
    2 ^ 40 ≤ BitVec.toNat ((one flusher).rg 2) ∧
    ((∃ (v : Nat), space (one flusher).me.sup ((one flusher).rg 7) = Except.ok (Space.virt v)) ∨ ∃ (v : Nat), space (one flusher).me.sup ((one flusher).rg 7) = Except.ok (Space.phys v)) :=
  ⟨by decide +kernel,
    by (first | exact Or.inl ⟨_, rfl⟩ | exact Or.inr ⟨_, rfl⟩)⟩

theorem test_meets_prefetchAndFlush_Flush3 :
    Quiet at_Flush3 ∧
    at_Flush3.me.st = SlotSt.waiting (Wait.flush 4096 4480 true Scope.clu) ∧
    at_Flush3.storesOut at_Flush3.cur.core at_Flush3.cur.slot = false :=
  ⟨by rfl,
    by decide +kernel⟩

theorem test_meets_prefetchAndFlush_Flush4 :
    Quiet at_Flush4 ∧
    at_Flush4.me.st = SlotSt.waiting (Wait.flush 2097152 2097280 false Scope.sys) ∧
    at_Flush4.storesOut at_Flush4.cur.core at_Flush4.cur.slot = false ∧
    2097152 < 2097280 ∧
    2097280 ≤ 2 ^ 48 ∧
    2097152 / 2 ^ 16 = (2097280 - 1) / 2 ^ 16 ∧
    (withMe at_Flush4 ({ (at_Flush4.me) with st := SlotSt.ready : Strand })).translate at_Flush4.agent 2097152 Need.load = (virtS virtUser, Tr.ok 262144 PageTy.sc false 0 0 7) :=
  ⟨by rfl,
    by decide +kernel⟩

/-! ### VirtualLoads -/

theorem test_meets_virtualLoads_VirtLoad :
    loadForm (Instr.ldh 1 4 LdOrd.plain Scope.pkg 0 1) = some (true, 2, 1, 4, LdOrd.plain, Scope.pkg, 0, 1) ∧
    LdOrd.plain ≠ LdOrd.mig ∧
    Calm (virtS virtUser) ∧
    BitVec.toNat (accessAddr (virtS virtUser) 4 1 2) % 2 = 0 ∧
    space (virtS virtUser).me.sup (accessAddr (virtS virtUser) 4 1 2) = Except.ok (Space.virt 2097170) ∧
    (virtS virtUser).split = false ∧
    (virtS virtUser).l1 (virtS virtUser).cur.core (virtS virtUser).me.job 2097170 = none ∧
    (virtS virtUser).translate (virtS virtUser).agent 2097170 Need.load = (virtS virtUser, Tr.ok 262162 PageTy.sc false 0 0 7) ∧
    (virtS virtUser).mine.cacheBanks = [] ∧
    (virtS virtUser).poisoned 262162 2 = false :=
  ⟨by rfl,
    by decide +kernel,
    by (constructor <;> first | decide +kernel | rfl),
    by decide +kernel⟩

/-! ### Fences -/

theorem test_meets_fences_3 :
    Quiet posted ∧
    posted.mine.journal = [(0, ent1)] ∧
    ent1.v = true ∧
    ent1.slot = posted.cur.slot :=
  ⟨by rfl,
    by decide +kernel⟩

/-- What the witness of `Rpt1` runs on. -/
def at_Rpt1 := (one { super with pc := 0x20000000000000FC })

/-! ### Replays -/

theorem test_meets_replays_Rpt1 :
    at_Rpt1.fetchWords at_Rpt1.agent (at_Rpt1.me.pc + 4) (↑(1 : Fin 16) + 1) = Except.error (at_Rpt1, Stop.bad 5 2305843009213694208) :=
  by rfl

theorem test_meets_replays_Rpt2 :
    (rptOf 1610612738 71876608 true 3).fetchWords (rptOf 1610612738 71876608 true 3).agent ((rptOf 1610612738 71876608 true 3).me.pc + 4) (↑(1 : Fin 16) + 1) = Except.ok (rptOf 1610612738 71876608 true 3, [1610612738, 71876608]) ∧
    (∃ w ∈ [1610612738, 71876608], ∀ (i : Instr), decode w = Except.ok i → inBody w i = false) :=
  ⟨by rfl,
    by (exact ⟨0x60000002, by decide, fun i h => by cases h; rfl⟩)⟩

theorem test_meets_replays_Rpt8 :
    { slot := 0, body := [3491758080, 71876608], count := 3, i := 2, j := 0, sd := 7, sa := 8, sb := 9 : Replay }.body.getD { slot := 0, body := [3491758080, 71876608], count := 3, i := 2, j := 0, sd := 7, sa := 8, sb := 9 : Replay }.j 0 = 3491758080 ∧
    decode 3491758080 = Except.ok (Instr.ckclr 1) :=
  by decide +kernel

theorem test_meets_replays_Rpt9 :
    { slot := 0, body := [138936323, 71876608], count := 3, i := 2, j := 0, sd := 7, sa := 8, sb := 9 : Replay }.body.getD { slot := 0, body := [138936323, 71876608], count := 3, i := 2, j := 0, sd := 7, sa := 8, sb := 9 : Replay }.j 0 = 138936323 ∧
    decode 138936323 = Except.ok (Instr.addi 1 2 3) :=
  by decide +kernel

/-! ### LeadStreams -/

theorem test_meets_leadStreams_Lead1 :
    Quiet (msgStrand user) ∧
    16 ≤ (msgStrand user).cur.slot :=
  ⟨by rfl,
    by decide +kernel⟩

theorem test_meets_leadStreams_Lead2 :
    Quiet (one user) ∧
    (one user).cur.slot < 16 ∧
    (one user).me.intrap = false ∧
    ((List.all (one user).mine.strands fun (x : Nat × Strand) => decide (x.2.fl = Fol.none)) = true) :=
  ⟨by rfl,
    by decide +kernel⟩

theorem test_meets_leadStreams_Lead3 :
    Quiet leadState ∧
    leadState.cur.slot < 16 ∧
    leadState.me.intrap = false ∧
    leadState.me.fl = Fol.lead :=
  ⟨by rfl,
    by decide +kernel⟩

theorem test_meets_leadStreams_Lead4 :
    2 < 19 ∧
    (∀ (m : Nat), m ≠ 2 → (followState.strand 1 m).fl = Fol.none) ∧
    (followState.strand 1 2).fl = Fol.follower ∧
    64 ≤ (followState.strand 1 2).age :=
  ⟨by decide +kernel,
    by exact strands_all followState 1 (fun m t => m ≠ 2 → t.fl = .none) (fun _ _ => rfl) (by decide +kernel),
    by decide +kernel⟩

theorem test_meets_leadStreams_Lead5 :
    2 < 19 ∧
    (∀ (m : Nat), m ≠ 2 → (waitLeadState.strand 1 m).fl = Fol.none) ∧
    (waitLeadState.strand 1 2).fl = Fol.waitLead ∧
    4096 ≤ (waitLeadState.strand 1 2).age :=
  ⟨by decide +kernel,
    by exact strands_all waitLeadState 1 (fun m t => m ≠ 2 → t.fl = .none) (fun _ _ => rfl) (by decide +kernel),
    by decide +kernel⟩

theorem test_meets_leadStreams_Lead6 :
    2 < 19 ∧
    (∀ (m : Nat), m ≠ 2 → (owesState.strand 1 m).fl = Fol.none) ∧
    (owesState.strand 1 2).fl = Fol.owes ∧
    64 ≤ (owesState.strand 1 2).age :=
  ⟨by decide +kernel,
    by exact strands_all owesState 1 (fun m t => m ≠ 2 → t.fl = .none) (fun _ _ => rfl) (by decide +kernel),
    by decide +kernel⟩

/-! ### BarrierArrivals -/

theorem test_meets_barrierArrivals_Bar1 :
    Calm (withBar user { count := 3, phase := 5, arrived := 0, err := true, fault := 7, who := [] : Bar }) ∧
    (withBar user { count := 3, phase := 5, arrived := 0, err := true, fault := 7, who := [] : Bar }).me.st = SlotSt.ready ∧
    WaitersQuiet (withBar user { count := 3, phase := 5, arrived := 0, err := true, fault := 7, who := [] : Bar }) 2 ∧
    BitVec.toNat ((withBar user { count := 3, phase := 5, arrived := 0, err := true, fault := 7, who := [] : Bar }).rg 11) % 2 ^ 16 = 0 :=
  ⟨by (constructor <;> first | decide +kernel | rfl),
    by decide +kernel,
    by exact quiet_waiters _ _ (by decide +kernel),
    by decide +kernel⟩

theorem test_meets_barrierArrivals_Bar2 :
    Calm (withBar user { count := 3, phase := 5, arrived := 1, err := true, fault := 7, who := [] : Bar }) ∧
    (withBar user { count := 3, phase := 5, arrived := 1, err := true, fault := 7, who := [] : Bar }).me.st = SlotSt.ready ∧
    WaitersQuiet (withBar user { count := 3, phase := 5, arrived := 1, err := true, fault := 7, who := [] : Bar }) 2 ∧
    BitVec.toNat ((withBar user { count := 3, phase := 5, arrived := 1, err := true, fault := 7, who := [] : Bar }).rg 1) % 2 ^ 16 ≠ 0 ∧
    ((withBar user { count := 3, phase := 5, arrived := 1, err := true, fault := 7, who := [] : Bar }).mine.bar 2).arrived ≠ 0 :=
  ⟨by (constructor <;> first | decide +kernel | rfl),
    by decide +kernel,
    by exact quiet_waiters _ _ (by decide +kernel),
    by decide +kernel⟩

theorem test_meets_barrierArrivals_Bar3 :
    Calm (withBar user { count := 3, phase := 5, arrived := 0, err := true, fault := 7, who := [] : Bar }) ∧
    (withBar user { count := 3, phase := 5, arrived := 0, err := true, fault := 7, who := [] : Bar }).me.st = SlotSt.ready ∧
    WaitersQuiet (withBar user { count := 3, phase := 5, arrived := 0, err := true, fault := 7, who := [] : Bar }) 2 ∧
    BitVec.toNat ((withBar user { count := 3, phase := 5, arrived := 0, err := true, fault := 7, who := [] : Bar }).rg 1) % 2 ^ 16 ≠ 0 ∧
    ((withBar user { count := 3, phase := 5, arrived := 0, err := true, fault := 7, who := [] : Bar }).mine.bar 2).arrived = 0 ∧
    (withBar user { count := 3, phase := 5, arrived := 0, err := true, fault := 7, who := [] : Bar }).mine.barParked 2 = false :=
  ⟨by (constructor <;> first | decide +kernel | rfl),
    by decide +kernel,
    by exact quiet_waiters _ _ (by decide +kernel),
    by decide +kernel⟩

theorem test_meets_barrierArrivals_Bar4 :
    Calm (withBar user { count := 0, phase := 5, arrived := 0, err := true, fault := 7, who := [] : Bar }) ∧
    (withBar user { count := 0, phase := 5, arrived := 0, err := true, fault := 7, who := [] : Bar }).me.st = SlotSt.ready ∧
    WaitersQuiet (withBar user { count := 0, phase := 5, arrived := 0, err := true, fault := 7, who := [] : Bar }) 2 ∧
    ((withBar user { count := 0, phase := 5, arrived := 0, err := true, fault := 7, who := [] : Bar }).mine.bar 2).count = 0 :=
  ⟨by (constructor <;> first | decide +kernel | rfl),
    by decide +kernel,
    by exact quiet_waiters _ _ (by decide +kernel),
    by decide +kernel⟩

theorem test_meets_barrierArrivals_Bar5 :
    Calm (withParked user { count := 3, phase := 5, arrived := 1, err := true, fault := 7, who := [9] : Bar }) ∧
    (withParked user { count := 3, phase := 5, arrived := 1, err := true, fault := 7, who := [9] : Bar }).me.st = SlotSt.ready ∧
    WaitersQuiet (withParked user { count := 3, phase := 5, arrived := 1, err := true, fault := 7, who := [9] : Bar }) 2 ∧
    ((withParked user { count := 3, phase := 5, arrived := 1, err := true, fault := 7, who := [9] : Bar }).mine.bar 2).count ≠ 0 ∧
    ((withParked user { count := 3, phase := 5, arrived := 1, err := true, fault := 7, who := [9] : Bar }).mine.bar 2).arrived + 1 ≠ ((withParked user { count := 3, phase := 5, arrived := 1, err := true, fault := 7, who := [9] : Bar }).mine.bar 2).count.toNat :=
  ⟨by (constructor <;> first | decide +kernel | rfl),
    by decide +kernel,
    by exact quiet_waiters _ _ (by decide +kernel),
    by decide +kernel⟩

theorem test_meets_barrierArrivals_Bar6 :
    Calm (withParked user { count := 3, phase := 65535, arrived := 2, err := true, fault := 7, who := [9] : Bar }) ∧
    (withParked user { count := 3, phase := 65535, arrived := 2, err := true, fault := 7, who := [9] : Bar }).me.st = SlotSt.ready ∧
    WaitersQuiet (withParked user { count := 3, phase := 65535, arrived := 2, err := true, fault := 7, who := [9] : Bar }) 2 ∧
    ((withParked user { count := 3, phase := 65535, arrived := 2, err := true, fault := 7, who := [9] : Bar }).mine.bar 2).count ≠ 0 ∧
    ((withParked user { count := 3, phase := 65535, arrived := 2, err := true, fault := 7, who := [9] : Bar }).mine.bar 2).arrived + 1 = ((withParked user { count := 3, phase := 65535, arrived := 2, err := true, fault := 7, who := [9] : Bar }).mine.bar 2).count.toNat :=
  ⟨by (constructor <;> first | decide +kernel | rfl),
    by decide +kernel,
    by exact quiet_waiters _ _ (by decide +kernel),
    by decide +kernel⟩

theorem test_meets_barrierArrivals_Bar6b :
    ((withParked user { count := 3, phase := 65535, arrived := 2, err := true, fault := 7, who := [9] : Bar }).strand (withParked user { count := 3, phase := 65535, arrived := 2, err := true, fault := 7, who := [9] : Bar }).cur.core 4).st = SlotSt.parked (Park.bar 2 ((withParked user { count := 3, phase := 65535, arrived := 2, err := true, fault := 7, who := [9] : Bar }).mine.bar 2).phase 3 0) :=
  by decide +kernel

theorem test_meets_barrierArrivals_Bar7 :
    Calm (withParked user { count := 3, phase := 65535, arrived := 2, err := true, fault := 7, who := [9] : Bar }) ∧
    (withParked user { count := 3, phase := 65535, arrived := 2, err := true, fault := 7, who := [9] : Bar }).me.st = SlotSt.ready ∧
    WaitersQuiet (withParked user { count := 3, phase := 65535, arrived := 2, err := true, fault := 7, who := [9] : Bar }) 2 ∧
    ((withParked user { count := 3, phase := 65535, arrived := 2, err := true, fault := 7, who := [9] : Bar }).mine.bar 2).count ≠ 0 :=
  ⟨by (constructor <;> first | decide +kernel | rfl),
    by decide +kernel,
    by exact quiet_waiters _ _ (by decide +kernel),
    by decide +kernel⟩

theorem test_meets_barrierArrivals_Bar8 :
    Calm (arriving (Flit.arrive 2) { count := 3, phase := 5, arrived := 2, err := true, fault := 7, who := [9] : Bar }) ∧
    (arriving (Flit.arrive 2) { count := 3, phase := 5, arrived := 2, err := true, fault := 7, who := [9] : Bar }).me.st = SlotSt.ready ∧
    WaitersQuiet (arriving (Flit.arrive 2) { count := 3, phase := 5, arrived := 2, err := true, fault := 7, who := [9] : Bar }) 2 ∧
    (arriving (Flit.arrive 2) { count := 3, phase := 5, arrived := 2, err := true, fault := 7, who := [9] : Bar }).reach 0 = 0 ∧
    (arriving (Flit.arrive 2) { count := 3, phase := 5, arrived := 2, err := true, fault := 7, who := [9] : Bar }).routerHeld 0 = false ∧
    (arriving (Flit.arrive 2) { count := 3, phase := 5, arrived := 2, err := true, fault := 7, who := [9] : Bar }).shut 0 = false ∧
    (9 = 0 ∨ (arriving (Flit.arrive 2) { count := 3, phase := 5, arrived := 2, err := true, fault := 7, who := [9] : Bar }).inHoods 1 0 = true) ∧
    (arriving (Flit.arrive 2) { count := 3, phase := 5, arrived := 2, err := true, fault := 7, who := [9] : Bar }).packets = [{ id := 4, job := 1, src := 9, dst := 0, flit := Flit.arrive 2 : Packet }] :=
  ⟨by (constructor <;> first | decide +kernel | rfl),
    by decide +kernel,
    by exact quiet_waiters _ _ (by decide +kernel),
    by decide +kernel⟩

theorem test_meets_barrierArrivals_Bar8b :
    Calm (arriving (Flit.arrive 2) { count := 3, phase := 5, arrived := 1, err := true, fault := 7, who := [9] : Bar }) ∧
    (arriving (Flit.arrive 2) { count := 3, phase := 5, arrived := 1, err := true, fault := 7, who := [9] : Bar }).me.st = SlotSt.ready ∧
    WaitersQuiet (arriving (Flit.arrive 2) { count := 3, phase := 5, arrived := 1, err := true, fault := 7, who := [9] : Bar }) 2 ∧
    (arriving (Flit.arrive 2) { count := 3, phase := 5, arrived := 1, err := true, fault := 7, who := [9] : Bar }).reach 0 = 0 ∧
    (arriving (Flit.arrive 2) { count := 3, phase := 5, arrived := 1, err := true, fault := 7, who := [9] : Bar }).routerHeld 0 = false ∧
    (arriving (Flit.arrive 2) { count := 3, phase := 5, arrived := 1, err := true, fault := 7, who := [9] : Bar }).shut 0 = false ∧
    (9 = 0 ∨ (arriving (Flit.arrive 2) { count := 3, phase := 5, arrived := 1, err := true, fault := 7, who := [9] : Bar }).inHoods 1 0 = true) ∧
    (arriving (Flit.arrive 2) { count := 3, phase := 5, arrived := 1, err := true, fault := 7, who := [9] : Bar }).packets = [{ id := 4, job := 1, src := 9, dst := 0, flit := Flit.arrive 2 : Packet }] :=
  ⟨by (constructor <;> first | decide +kernel | rfl),
    by decide +kernel,
    by exact quiet_waiters _ _ (by decide +kernel),
    by decide +kernel⟩

theorem test_meets_barrierArrivals_Bar9 :
    Calm (arriving (Flit.errArrive 2 66) { count := 3, phase := 5, arrived := 1, err := true, fault := 7, who := [9] : Bar }) ∧
    (arriving (Flit.errArrive 2 66) { count := 3, phase := 5, arrived := 1, err := true, fault := 7, who := [9] : Bar }).me.st = SlotSt.ready ∧
    WaitersQuiet (arriving (Flit.errArrive 2 66) { count := 3, phase := 5, arrived := 1, err := true, fault := 7, who := [9] : Bar }) 2 ∧
    (arriving (Flit.errArrive 2 66) { count := 3, phase := 5, arrived := 1, err := true, fault := 7, who := [9] : Bar }).reach 0 = 0 ∧
    (arriving (Flit.errArrive 2 66) { count := 3, phase := 5, arrived := 1, err := true, fault := 7, who := [9] : Bar }).routerHeld 0 = false ∧
    (arriving (Flit.errArrive 2 66) { count := 3, phase := 5, arrived := 1, err := true, fault := 7, who := [9] : Bar }).shut 0 = false ∧
    (9 = 0 ∨ (arriving (Flit.errArrive 2 66) { count := 3, phase := 5, arrived := 1, err := true, fault := 7, who := [9] : Bar }).inHoods 1 0 = true) ∧
    (arriving (Flit.errArrive 2 66) { count := 3, phase := 5, arrived := 1, err := true, fault := 7, who := [9] : Bar }).packets = [{ id := 4, job := 1, src := 9, dst := 0, flit := Flit.errArrive 2 66 : Packet }] :=
  ⟨by (constructor <;> first | decide +kernel | rfl),
    by decide +kernel,
    by exact quiet_waiters _ _ (by decide +kernel),
    by decide +kernel⟩

/-! ### BarrierWaits -/

theorem test_meets_barrierWaits_Wait1 :
    Calm (withBar user { count := 0, phase := 5, arrived := 0, err := true, fault := 7, who := [] : Bar }) ∧
    (withBar user { count := 0, phase := 5, arrived := 0, err := true, fault := 7, who := [] : Bar }).me.st = SlotSt.ready ∧
    ((withBar user { count := 0, phase := 5, arrived := 0, err := true, fault := 7, who := [] : Bar }).mine.bar 2).count = 0 ∧
    (((withBar user { count := 0, phase := 5, arrived := 0, err := true, fault := 7, who := [] : Bar }).mine.bar 2).phase - BitVec.setWidth 16 ((withBar user { count := 0, phase := 5, arrived := 0, err := true, fault := 7, who := [] : Bar }).rg 1)).toNat = 0 :=
  ⟨by (constructor <;> first | decide +kernel | rfl),
    by decide +kernel⟩

theorem test_meets_barrierWaits_Wait2 :
    Calm (withBar user { count := 4, phase := 32773, arrived := 0, err := true, fault := 7, who := [] : Bar }) ∧
    (withBar user { count := 4, phase := 32773, arrived := 0, err := true, fault := 7, who := [] : Bar }).me.st = SlotSt.ready ∧
    2 ^ 15 ≤ (((withBar user { count := 4, phase := 32773, arrived := 0, err := true, fault := 7, who := [] : Bar }).mine.bar 2).phase - BitVec.setWidth 16 ((withBar user { count := 4, phase := 32773, arrived := 0, err := true, fault := 7, who := [] : Bar }).rg 1)).toNat :=
  ⟨by (constructor <;> first | decide +kernel | rfl),
    by decide +kernel⟩

theorem test_meets_barrierWaits_Wait3 :
    Calm (withBar user { count := 4, phase := 5, arrived := 0, err := true, fault := 7, who := [] : Bar }) ∧
    (withBar user { count := 4, phase := 5, arrived := 0, err := true, fault := 7, who := [] : Bar }).me.st = SlotSt.ready ∧
    ((withBar user { count := 4, phase := 5, arrived := 0, err := true, fault := 7, who := [] : Bar }).mine.bar 2).count ≠ 0 ∧
    (((withBar user { count := 4, phase := 5, arrived := 0, err := true, fault := 7, who := [] : Bar }).mine.bar 2).phase - BitVec.setWidth 16 ((withBar user { count := 4, phase := 5, arrived := 0, err := true, fault := 7, who := [] : Bar }).rg 1)).toNat = 0 :=
  ⟨by (constructor <;> first | decide +kernel | rfl),
    by decide +kernel⟩

theorem test_meets_barrierWaits_Wait4 :
    Calm (withBar user { count := 4, phase := 6, arrived := 0, err := true, fault := 7, who := [] : Bar }) ∧
    (withBar user { count := 4, phase := 6, arrived := 0, err := true, fault := 7, who := [] : Bar }).me.st = SlotSt.ready ∧
    1 ≤ (((withBar user { count := 4, phase := 6, arrived := 0, err := true, fault := 7, who := [] : Bar }).mine.bar 2).phase - BitVec.setWidth 16 ((withBar user { count := 4, phase := 6, arrived := 0, err := true, fault := 7, who := [] : Bar }).rg 1)).toNat ∧
    (((withBar user { count := 4, phase := 6, arrived := 0, err := true, fault := 7, who := [] : Bar }).mine.bar 2).phase - BitVec.setWidth 16 ((withBar user { count := 4, phase := 6, arrived := 0, err := true, fault := 7, who := [] : Bar }).rg 1)).toNat < 2 ^ 15 :=
  ⟨by (constructor <;> first | decide +kernel | rfl),
    by decide +kernel⟩

theorem test_meets_barrierWaits_Wait4b :
    Calm (withBar user { count := 4, phase := 32772, arrived := 0, err := false, fault := 7, who := [] : Bar }) ∧
    (withBar user { count := 4, phase := 32772, arrived := 0, err := false, fault := 7, who := [] : Bar }).me.st = SlotSt.ready ∧
    1 ≤ (((withBar user { count := 4, phase := 32772, arrived := 0, err := false, fault := 7, who := [] : Bar }).mine.bar 2).phase - BitVec.setWidth 16 ((withBar user { count := 4, phase := 32772, arrived := 0, err := false, fault := 7, who := [] : Bar }).rg 1)).toNat ∧
    (((withBar user { count := 4, phase := 32772, arrived := 0, err := false, fault := 7, who := [] : Bar }).mine.bar 2).phase - BitVec.setWidth 16 ((withBar user { count := 4, phase := 32772, arrived := 0, err := false, fault := 7, who := [] : Bar }).rg 1)).toNat < 2 ^ 15 :=
  ⟨by (constructor <;> first | decide +kernel | rfl),
    by decide +kernel⟩

theorem test_meets_barrierWaits_Wait5 :
    Calm (withBar user { count := 0, phase := 32772, arrived := 0, err := false, fault := 7, who := [] : Bar }) ∧
    (withBar user { count := 0, phase := 32772, arrived := 0, err := false, fault := 7, who := [] : Bar }).me.st = SlotSt.ready ∧
    ((withBar user { count := 0, phase := 32772, arrived := 0, err := false, fault := 7, who := [] : Bar }).mine.bar 2).count = 0 :=
  ⟨by (constructor <;> first | decide +kernel | rfl),
    by decide +kernel⟩

theorem test_meets_barrierWaits_Wait6 :
    Calm (msgBar user) ∧
    (msgBar user).me.st = SlotSt.ready ∧
    ((msgBar user).mine.bar 2).count ≠ 0 ∧
    ((msgBar user).mine.bar 2).arrived + 1 ≠ ((msgBar user).mine.bar 2).count.toNat ∧
    16 ≤ (msgBar user).cur.slot :=
  ⟨by (constructor <;> first | decide +kernel | rfl),
    by decide +kernel⟩

theorem test_meets_barrierWaits_Wait7 :
    Calm (withBar user { count := 4, phase := 5, arrived := 0, err := true, fault := 7, who := [] : Bar }) ∧
    (withBar user { count := 4, phase := 5, arrived := 0, err := true, fault := 7, who := [] : Bar }).me.st = SlotSt.ready ∧
    ((withBar user { count := 4, phase := 5, arrived := 0, err := true, fault := 7, who := [] : Bar }).mine.bar 2).count ≠ 0 ∧
    ((withBar user { count := 4, phase := 5, arrived := 0, err := true, fault := 7, who := [] : Bar }).mine.bar 2).arrived + 1 ≠ ((withBar user { count := 4, phase := 5, arrived := 0, err := true, fault := 7, who := [] : Bar }).mine.bar 2).count.toNat ∧
    (withBar user { count := 4, phase := 5, arrived := 0, err := true, fault := 7, who := [] : Bar }).cur.slot < 16 :=
  ⟨by (constructor <;> first | decide +kernel | rfl),
    by decide +kernel⟩

theorem test_meets_barrierWaits_Wait8 :
    Calm (withBar user { count := 4, phase := 5, arrived := 3, err := true, fault := 7, who := [] : Bar }) ∧
    (withBar user { count := 4, phase := 5, arrived := 3, err := true, fault := 7, who := [] : Bar }).me.st = SlotSt.ready ∧
    ((withBar user { count := 4, phase := 5, arrived := 3, err := true, fault := 7, who := [] : Bar }).mine.bar 2).count ≠ 0 ∧
    ((withBar user { count := 4, phase := 5, arrived := 3, err := true, fault := 7, who := [] : Bar }).mine.bar 2).arrived + 1 = ((withBar user { count := 4, phase := 5, arrived := 3, err := true, fault := 7, who := [] : Bar }).mine.bar 2).count.toNat :=
  ⟨by (constructor <;> first | decide +kernel | rfl),
    by decide +kernel⟩

theorem test_meets_barrierWaits_Wait9 :
    Calm (withBar user { count := 4, phase := 5, arrived := 3, err := true, fault := 7, who := [] : Bar }) ∧
    (withBar user { count := 4, phase := 5, arrived := 3, err := true, fault := 7, who := [] : Bar }).me.st = SlotSt.ready ∧
    ((withBar user { count := 4, phase := 5, arrived := 3, err := true, fault := 7, who := [] : Bar }).mine.bar 2).arrived < 2 ^ 16 :=
  ⟨by (constructor <;> first | decide +kernel | rfl),
    by decide +kernel⟩

/-- What the witness of `CopyEnds1` runs on. -/
def at_CopyEnds1 := (copyState blockWords [{ copy1 with done := 3 }])

/-- What the witness of `CopyEnds1` runs on. -/
def at_CopyEnds1_2 := { copy1 with done := 3 }

/-- What the witness of `CopyEnds1b` runs on. -/
def at_CopyEnds1b := (copyState blockWords [{ copy1 with done := 3, orphan := true }])

/-- What the witness of `CopyEnds1b` runs on. -/
def at_CopyEnds1b_2 := { copy1 with done := 3, orphan := true }

/-- What the witness of `CopyEnds2` runs on. -/
def at_CopyEnds2 := (oneOn { coreOf copier with copies := [ringCopy], scratch := wordsAt 0x200 (ringWords 4 5 6) })

/-- What the witness of `CopyEnds3` runs on. -/
def at_CopyEnds3 := (copyState blockWords [{ copy1 with fault := some asyncInfo }])

/-- What the witness of `CopyEnds3` runs on. -/
def at_CopyEnds3_2 := { copy1 with fault := some asyncInfo }

/-- What the witness of `CopyEnds4` runs on. -/
def at_CopyEnds4 := (copyState blockWords [{ copy1 with edge := some 2, done := 0 }])

/-- What the witness of `CopyEnds4` runs on. -/
def at_CopyEnds4_2 := { copy1 with edge := some 2, done := 0 }

/-- What the witness of `Rings1` runs on. -/
def at_Rings1 := (oneOn { coreOf copier with scratch := wordsAt 0x200 [0x8000000000000401, 0x1000000004, 0, 0] })

/-! ### CopyStarts -/

theorem test_meets_copyStarts_1 :
    BitVec.toNat ((copyState blockWords []).rg 4) % 8 ≠ 0 :=
  by decide +kernel

theorem test_meets_copyStarts_2 :
    BitVec.toNat ((copyState badBlock []).rg 1) % 8 = 0 ∧
    (copyState badBlock []).words ((copyState badBlock []).rg 1) 17 = Except.ok (copyState badBlock [], badBlock) ∧
    (copyState badBlock []).cur = (copyState badBlock []).cur ∧
    (¬GoodPattern badBlock) :=
  ⟨by decide +kernel,
    by decide +kernel,
    by decide +kernel,
    by (intro h; revert h; unfold Sys2Proof.Claims.GoodPattern; decide +kernel)⟩

theorem test_meets_copyStarts_3 :
    BitVec.toNat ((copyState blockWords [copy1]).rg 1) % 8 = 0 ∧
    (copyState blockWords [copy1]).words ((copyState blockWords [copy1]).rg 1) 17 = Except.ok (copyState blockWords [copy1], blockWords) ∧
    (copyState blockWords [copy1]).cur = (copyState blockWords [copy1]).cur ∧
    GoodPattern blockWords ∧
    (∃ (x : Space), space (copyState blockWords [copy1]).me.sup ((copyState blockWords [copy1]).rg 3) = Except.ok x) ∧
    (∃ (x : Space), space (copyState blockWords [copy1]).me.sup ((copyState blockWords [copy1]).rg 2) = Except.ok x) ∧
    (((copyState blockWords [copy1]).mine.copies.any fun (x : Copy) => x.ring.isNone && decide (x.tag = (4 : Fin 64))) = true ∨ 16 ≤ (copyState blockWords [copy1]).mine.copies.length) :=
  ⟨by decide +kernel,
    by decide +kernel,
    by decide +kernel,
    by (unfold Sys2Proof.Claims.GoodPattern; decide +kernel),
    by (constructor <;> first | decide +kernel | rfl),
    by (constructor <;> first | decide +kernel | rfl),
    by decide +kernel⟩

theorem test_meets_copyStarts_3b :
    BitVec.toNat ((copyState blockWords (List.replicate 16 copy1)).rg 1) % 8 = 0 ∧
    (copyState blockWords (List.replicate 16 copy1)).words ((copyState blockWords (List.replicate 16 copy1)).rg 1) 17 = Except.ok (copyState blockWords (List.replicate 16 copy1), blockWords) ∧
    (copyState blockWords (List.replicate 16 copy1)).cur = (copyState blockWords (List.replicate 16 copy1)).cur ∧
    GoodPattern blockWords ∧
    (∃ (x : Space), space (copyState blockWords (List.replicate 16 copy1)).me.sup ((copyState blockWords (List.replicate 16 copy1)).rg 3) = Except.ok x) ∧
    (∃ (x : Space), space (copyState blockWords (List.replicate 16 copy1)).me.sup ((copyState blockWords (List.replicate 16 copy1)).rg 2) = Except.ok x) ∧
    (((copyState blockWords (List.replicate 16 copy1)).mine.copies.any fun (x : Copy) => x.ring.isNone && decide (x.tag = (5 : Fin 64))) = true ∨ 16 ≤ (copyState blockWords (List.replicate 16 copy1)).mine.copies.length) :=
  ⟨by decide +kernel,
    by decide +kernel,
    by decide +kernel,
    by (unfold Sys2Proof.Claims.GoodPattern; decide +kernel),
    by (constructor <;> first | decide +kernel | rfl),
    by (constructor <;> first | decide +kernel | rfl),
    by decide +kernel⟩

theorem test_meets_copyStarts_4 :
    BitVec.toNat ((copyState blockWords [copy1]).rg 1) % 8 = 0 ∧
    (copyState blockWords [copy1]).words ((copyState blockWords [copy1]).rg 1) 17 = Except.ok (copyState blockWords [copy1], blockWords) ∧
    (copyState blockWords [copy1]).cur = (copyState blockWords [copy1]).cur ∧
    GoodPattern blockWords ∧
    (∃ (x : Space), space (copyState blockWords [copy1]).me.sup ((copyState blockWords [copy1]).rg 3) = Except.ok x) ∧
    (∃ (x : Space), space (copyState blockWords [copy1]).me.sup ((copyState blockWords [copy1]).rg 2) = Except.ok x) ∧
    (((copyState blockWords [copy1]).mine.copies.any fun (x : Copy) => x.ring.isNone && decide (x.tag = (0 : Fin 64))) = false) ∧
    (copyState blockWords [copy1]).mine.copies.length < 16 ∧
    Calm (copyState blockWords [copy1]) :=
  ⟨by decide +kernel,
    by decide +kernel,
    by decide +kernel,
    by (unfold Sys2Proof.Claims.GoodPattern; decide +kernel),
    by (constructor <;> first | decide +kernel | rfl),
    by (constructor <;> first | decide +kernel | rfl),
    by decide +kernel,
    by decide +kernel,
    by (constructor <;> first | decide +kernel | rfl)⟩

/-! ### CopyElements -/

theorem test_meets_copyElements_CopyElems1 :
    2 < 3 :=
  by decide +kernel

theorem test_meets_copyElements_CopyElems2 :
    (elemTurn copy1).agenda = [Turn.copyElem 0 9 1] ∧
    0 < 512 ∧
    copy1.id = 9 ∧
    Going (elemTurn copy1) 0 copy1 ∧
    copy1.pat.esize = 8 ∧
    9223372036854776072 = copy1.src + BitVec.ofInt 64 (elemOffsets copy1.pat.dims copy1.done).1 ∧
    9223372036854776312 = copy1.dst + BitVec.ofInt 64 (elemOffsets copy1.pat.dims copy1.done).2 ∧
    OwnWord (elemTurn copy1) 0 copy1.job copy1.sup 9223372036854776072 264 ∧
    OwnWord (elemTurn copy1) 0 copy1.job copy1.sup 9223372036854776312 504 ∧
    touches ((elemTurn copy1).core 0).spois 264 8 = false ∧
    ((elemTurn copy1).core 0).scratchOk 264 8 = true ∧
    ((elemTurn copy1).core 0).scratchOk 504 8 = true :=
  ⟨by decide +kernel,
    by decide +kernel,
    by decide +kernel,
    by (constructor <;> first | decide +kernel | rfl),
    by decide +kernel,
    by decide +kernel,
    by decide +kernel,
    by (constructor <;> first | decide +kernel | rfl),
    by (constructor <;> first | decide +kernel | rfl),
    by decide +kernel⟩

theorem test_meets_copyElements_CopyElems3 :
    elemBad.agenda = [Turn.copyElem 0 9 1] ∧
    0 < 512 ∧
    copyBad.id = 9 ∧
    Going elemBad 0 copyBad ∧
    copyBad.pat.esize = 8 ∧
    9223372036855267336 = copyBad.src + BitVec.ofInt 64 (elemOffsets copyBad.pat.dims copyBad.done).1 ∧
    9223372036854776312 = copyBad.dst + BitVec.ofInt 64 (elemOffsets copyBad.pat.dims copyBad.done).2 ∧
    OwnWord elemBad 0 copyBad.job copyBad.sup 9223372036855267336 491528 ∧
    OwnWord elemBad 0 copyBad.job copyBad.sup 9223372036854776312 504 ∧
    touches (elemBad.core 0).spois 491528 8 = false ∧
    (elemBad.core 0).scratchOk 491528 8 = false ∧
    copyBad.ring = none :=
  ⟨by decide +kernel,
    by decide +kernel,
    by decide +kernel,
    by (constructor <;> first | decide +kernel | rfl),
    by decide +kernel,
    by decide +kernel,
    by decide +kernel,
    by (constructor <;> first | decide +kernel | rfl),
    by (constructor <;> first | decide +kernel | rfl),
    by decide +kernel⟩

/-! ### CopyEnds -/

theorem test_meets_copyEnds_1 :
    (at_CopyEnds1.core 0).copies = [at_CopyEnds1_2] ∧
    at_CopyEnds1_2.hint = none ∧
    at_CopyEnds1_2.fault = none ∧
    at_CopyEnds1_2.complete = false ∧
    at_CopyEnds1_2.pat.total ≤ at_CopyEnds1_2.done ∧
    at_CopyEnds1_2.ring = none :=
  by decide +kernel

theorem test_meets_copyEnds_1b :
    (at_CopyEnds1b.core 0).copies = [at_CopyEnds1b_2] ∧
    at_CopyEnds1b_2.hint = none ∧
    at_CopyEnds1b_2.fault = none ∧
    at_CopyEnds1b_2.complete = false ∧
    at_CopyEnds1b_2.pat.total ≤ at_CopyEnds1b_2.done ∧
    at_CopyEnds1b_2.ring = none :=
  by decide +kernel

theorem test_meets_copyEnds_2 :
    (at_CopyEnds2.core 0).copies = [ringCopy] ∧
    ringCopy.hint = none ∧
    ringCopy.fault = none ∧
    ringCopy.complete = false ∧
    ringCopy.pat.total ≤ ringCopy.done ∧
    ringCopy.ring = some (512, ringField at_CopyEnds2 0 512 5) :=
  by decide +kernel

theorem test_meets_copyEnds_3 :
    (at_CopyEnds3.core 0).copies = [at_CopyEnds3_2] ∧
    at_CopyEnds3_2.hint = none ∧
    at_CopyEnds3_2.fault = some asyncInfo ∧
    at_CopyEnds3_2.complete = false ∧
    at_CopyEnds3_2.orphan = false ∧
    (at_CopyEnds3.strand 0 at_CopyEnds3_2.slot).st ≠ SlotSt.free ∧
    (at_CopyEnds3.strand 0 at_CopyEnds3_2.slot).strid = at_CopyEnds3_2.strid ∧
    (at_CopyEnds3.strand 0 at_CopyEnds3_2.slot).traps = [] ∧
    (at_CopyEnds3.strand 0 at_CopyEnds3_2.slot).held = none :=
  by decide +kernel

theorem test_meets_copyEnds_4 :
    (at_CopyEnds4.core 0).copies = [at_CopyEnds4_2] ∧
    at_CopyEnds4_2.hint = none ∧
    at_CopyEnds4_2.edge = some (2 : Fin 4) ∧
    at_CopyEnds4_2.done = 0 ∧
    at_CopyEnds4_2.fault = none ∧
    16 ≤ ↑(16 : Fin 4096) :=
  by decide +kernel

/-! ### Tags -/

theorem test_meets_tags_1 :
    (copyState blockWords []).mine.tags &&& (copyState blockWords []).rg 1 = 0 :=
  by decide +kernel

theorem test_meets_tags_2 :
    (copyState blockWords []).mine.tags &&& (copyState blockWords []).rg 5 ≠ 0 :=
  by decide +kernel

theorem test_meets_tags_3 :
    (copyState blockWords []).mine.tags &&& (copyState blockWords []).rg 1 ≠ (copyState blockWords []).rg 1 :=
  by decide +kernel

theorem test_meets_tags_4 :
    (copyState blockWords []).mine.tags &&& (copyState blockWords []).rg 5 = (copyState blockWords []).rg 5 :=
  by decide +kernel

theorem test_meets_tags_5 :
    Quiet (copyState blockWords []) :=
  by rfl

/-! ### Rings -/

theorem test_meets_rings_1 :
    Calm at_Rings1 ∧
    GoodRing at_Rings1 (at_Rings1.rg 2) 512 ∧
    ringBase at_Rings1 at_Rings1.cur.core 512 % 8 ≠ 0 :=
  ⟨by (constructor <;> first | decide +kernel | rfl),
    by refine ⟨by decide +kernel, by decide +kernel, by decide +kernel, by decide +kernel, ⟨2, by decide +kernel, by decide +kernel, by decide +kernel⟩, by decide +kernel, by decide +kernel⟩,
    by decide +kernel⟩

theorem test_meets_rings_2 :
    Calm (ringState 5 6 7) ∧
    GoodRing (ringState 5 6 7) ((ringState 5 6 7).rg 2) 512 ∧
    ringBase (ringState 5 6 7) (ringState 5 6 7).cur.core 512 % 8 = 0 :=
  ⟨by (constructor <;> first | decide +kernel | rfl),
    by refine ⟨by decide +kernel, by decide +kernel, by decide +kernel, by decide +kernel, ⟨2, by decide +kernel, by decide +kernel, by decide +kernel⟩, by decide +kernel, by decide +kernel⟩,
    by decide +kernel⟩

theorem test_meets_rings_3 :
    Calm (ringState 4294967294 0 2) ∧
    GoodRing (ringState 4294967294 0 2) ((ringState 4294967294 0 2).rg 2) 512 ∧
    ((ringField (ringState 4294967294 0 2) (ringState 4294967294 0 2).cur.core 512 6 + 2 ^ 32 - ringField (ringState 4294967294 0 2) (ringState 4294967294 0 2).cur.core 512 4) % 2 ^ 32 = ringField (ringState 4294967294 0 2) (ringState 4294967294 0 2).cur.core 512 2 ∨ 16 ≤ (ringState 4294967294 0 2).mine.copies.length) :=
  ⟨by (constructor <;> first | decide +kernel | rfl),
    by refine ⟨by decide +kernel, by decide +kernel, by decide +kernel, by decide +kernel, ⟨2, by decide +kernel, by decide +kernel, by decide +kernel⟩, by decide +kernel, by decide +kernel⟩,
    by decide +kernel⟩

theorem test_meets_rings_4 :
    Calm (ringState 4294967294 0 1) ∧
    GoodRing (ringState 4294967294 0 1) ((ringState 4294967294 0 1).rg 2) 512 ∧
    (ringField (ringState 4294967294 0 1) (ringState 4294967294 0 1).cur.core 512 6 + 2 ^ 32 - ringField (ringState 4294967294 0 1) (ringState 4294967294 0 1).cur.core 512 4) % 2 ^ 32 ≠ ringField (ringState 4294967294 0 1) (ringState 4294967294 0 1).cur.core 512 2 ∧
    (ringState 4294967294 0 1).mine.copies.length < 16 :=
  ⟨by (constructor <;> first | decide +kernel | rfl),
    by refine ⟨by decide +kernel, by decide +kernel, by decide +kernel, by decide +kernel, ⟨2, by decide +kernel, by decide +kernel, by decide +kernel⟩, by decide +kernel, by decide +kernel⟩,
    by decide +kernel⟩

theorem test_meets_rings_5 :
    Calm (ringState 4294967294 0 1) ∧
    GoodRing (ringState 4294967294 0 1) ((ringState 4294967294 0 1).rg 2) 512 ∧
    ringField (ringState 4294967294 0 1) (ringState 4294967294 0 1).cur.core 512 2 ≤ ↑(4 : Fin 32) :=
  ⟨by (constructor <;> first | decide +kernel | rfl),
    by refine ⟨by decide +kernel, by decide +kernel, by decide +kernel, by decide +kernel, ⟨2, by decide +kernel, by decide +kernel, by decide +kernel⟩, by decide +kernel, by decide +kernel⟩,
    by decide +kernel⟩

theorem test_meets_rings_6 :
    Calm (ringState 4294967294 0 1) ∧
    GoodRing (ringState 4294967294 0 1) ((ringState 4294967294 0 1).rg 2) 512 ∧
    ↑(1 : Fin 32) < ringField (ringState 4294967294 0 1) (ringState 4294967294 0 1).cur.core 512 2 :=
  ⟨by (constructor <;> first | decide +kernel | rfl),
    by refine ⟨by decide +kernel, by decide +kernel, by decide +kernel, by decide +kernel, ⟨2, by decide +kernel, by decide +kernel, by decide +kernel⟩, by decide +kernel, by decide +kernel⟩,
    by decide +kernel⟩

theorem test_meets_rings_6b :
    Calm (ringState 4294967294 0 1) ∧
    GoodRing (ringState 4294967294 0 1) ((ringState 4294967294 0 1).rg 2) 512 ∧
    ↑(2 : Fin 32) < ringField (ringState 4294967294 0 1) (ringState 4294967294 0 1).cur.core 512 2 :=
  ⟨by (constructor <;> first | decide +kernel | rfl),
    by refine ⟨by decide +kernel, by decide +kernel, by decide +kernel, by decide +kernel, ⟨2, by decide +kernel, by decide +kernel, by decide +kernel⟩, by decide +kernel, by decide +kernel⟩,
    by decide +kernel⟩

theorem test_meets_rings_7 :
    Calm (ringState 3 3 3) ∧
    GoodRing (ringState 3 3 3) ((ringState 3 3 3).rg 2) 512 ∧
    ringField (ringState 3 3 3) (ringState 3 3 3).cur.core 512 4 = ringField (ringState 3 3 3) (ringState 3 3 3).cur.core 512 5 :=
  ⟨by (constructor <;> first | decide +kernel | rfl),
    by refine ⟨by decide +kernel, by decide +kernel, by decide +kernel, by decide +kernel, ⟨2, by decide +kernel, by decide +kernel, by decide +kernel⟩, by decide +kernel, by decide +kernel⟩,
    by decide +kernel⟩

theorem test_meets_rings_8 :
    Calm (ringState 4294967295 0 3) ∧
    GoodRing (ringState 4294967295 0 3) ((ringState 4294967295 0 3).rg 2) 512 ∧
    ringField (ringState 4294967295 0 3) (ringState 4294967295 0 3).cur.core 512 4 ≠ ringField (ringState 4294967295 0 3) (ringState 4294967295 0 3).cur.core 512 5 :=
  ⟨by (constructor <;> first | decide +kernel | rfl),
    by refine ⟨by decide +kernel, by decide +kernel, by decide +kernel, by decide +kernel, ⟨2, by decide +kernel, by decide +kernel, by decide +kernel⟩, by decide +kernel, by decide +kernel⟩,
    by decide +kernel⟩

/-! ### BankModes -/

theorem test_meets_bankModes_Bank1 :
    (field ((one (bankUser 281474976710656)).rg 1) 48 16 ≠ 0 ∨ ∃ (i : Nat), (i < 16 ∧ BitVec.getLsbD ((one (bankUser 281474976710656)).rg 1) (32 + i) = true) ∧ field ((one (bankUser 281474976710656)).rg 1) (2 * i) 2 = 3) :=
  by (constructor <;> first | decide +kernel | rfl)

theorem test_meets_bankModes_Bank1b :
    (field ((one (bankUser 549755863040)).rg 1) 48 16 ≠ 0 ∨ ∃ (i : Nat), (i < 16 ∧ BitVec.getLsbD ((one (bankUser 549755863040)).rg 1) (32 + i) = true) ∧ field ((one (bankUser 549755863040)).rg 1) (2 * i) 2 = 3) :=
  by exact Or.inr ⟨7, by decide +kernel⟩

theorem test_meets_bankModes_Bank2 :
    field ((one (bankUser 30064771072)).rg 1) 48 16 = 0 ∧
    (∀ (i : Nat), i < 16 ∧ BitVec.getLsbD ((one (bankUser 30064771072)).rg 1) (32 + i) = true → field ((one (bankUser 30064771072)).rg 1) (2 * i) 2 ≠ 3) ∧
    (∀ (i : Nat), i < 16 ∧ BitVec.getLsbD ((one (bankUser 30064771072)).rg 1) (32 + i) = true → (one (bankUser 30064771072)).mine.bank i = BankMode.fifo → field ((one (bankUser 30064771072)).rg 1) (2 * i) 2 ≠ 2 → (one (bankUser 30064771072)).mine.bankBound i = false) ∧
    (one (bankUser 30064771072)).mine.bankq = [] ∧
    (∀ x ∈ (one (bankUser 30064771072)).mine.busy, ¬(x.1 < 16 ∧ BitVec.getLsbD ((one (bankUser 30064771072)).rg 1) (32 + x.1) = true)) ∧
    (∀ (i : Nat), i < 16 ∧ BitVec.getLsbD ((one (bankUser 30064771072)).rg 1) (32 + i) = true → field ((one (bankUser 30064771072)).rg 1) (2 * i) 2 = ((one (bankUser 30064771072)).mine.bank i).code) :=
  ⟨by decide +kernel,
    by (rintro i ⟨hi, h⟩; revert h; revert i; decide +kernel),
    by (intros; first | decide +kernel | rfl),
    by decide +kernel,
    by decide +kernel,
    by (rintro i ⟨hi, h⟩; revert h; revert i; decide +kernel)⟩

theorem test_meets_bankModes_Bank3 :
    field ((one (bankUser 30064771076)).rg 1) 48 16 = 0 ∧
    (∀ (i : Nat), i < 16 ∧ BitVec.getLsbD ((one (bankUser 30064771076)).rg 1) (32 + i) = true → field ((one (bankUser 30064771076)).rg 1) (2 * i) 2 ≠ 3) ∧
    (∀ (i : Nat), i < 16 ∧ BitVec.getLsbD ((one (bankUser 30064771076)).rg 1) (32 + i) = true → (one (bankUser 30064771076)).mine.bank i = BankMode.fifo → field ((one (bankUser 30064771076)).rg 1) (2 * i) 2 ≠ 2 → (one (bankUser 30064771076)).mine.bankBound i = false) ∧
    (one (bankUser 30064771076)).mine.bankq = [] ∧
    (∀ x ∈ (one (bankUser 30064771076)).mine.busy, ¬(x.1 < 16 ∧ BitVec.getLsbD ((one (bankUser 30064771076)).rg 1) (32 + x.1) = true)) ∧
    (∃ (i : Nat), (i < 16 ∧ BitVec.getLsbD ((one (bankUser 30064771076)).rg 1) (32 + i) = true) ∧ field ((one (bankUser 30064771076)).rg 1) (2 * i) 2 ≠ ((one (bankUser 30064771076)).mine.bank i).code) :=
  ⟨by decide +kernel,
    by (rintro i ⟨hi, h⟩; revert h; revert i; decide +kernel),
    by (intros; first | decide +kernel | rfl),
    by decide +kernel,
    by decide +kernel,
    by exact ⟨1, by decide +kernel⟩⟩

theorem test_meets_bankModes_Bank5 :
    field (bankHeld.rg 1) 48 16 = 0 ∧
    (∀ (i : Nat), i < 16 ∧ BitVec.getLsbD (bankHeld.rg 1) (32 + i) = true → field (bankHeld.rg 1) (2 * i) 2 ≠ 3) ∧
    (∃ (i : Nat), (i < 16 ∧ BitVec.getLsbD (bankHeld.rg 1) (32 + i) = true) ∧ bankHeld.mine.bank i = BankMode.fifo ∧ field (bankHeld.rg 1) (2 * i) 2 ≠ 2 ∧ bankHeld.mine.bankBound i = true) :=
  ⟨by decide +kernel,
    by (rintro i ⟨hi, h⟩; revert h; revert i; decide +kernel),
    by exact ⟨6, by decide +kernel⟩⟩

theorem test_meets_bankModes_Bank6 :
    field (bankBusy.rg 1) 48 16 = 0 ∧
    (∀ (i : Nat), i < 16 ∧ BitVec.getLsbD (bankBusy.rg 1) (32 + i) = true → field (bankBusy.rg 1) (2 * i) 2 ≠ 3) ∧
    (∀ (i : Nat), i < 16 ∧ BitVec.getLsbD (bankBusy.rg 1) (32 + i) = true → bankBusy.mine.bank i = BankMode.fifo → field (bankBusy.rg 1) (2 * i) 2 ≠ 2 → bankBusy.mine.bankBound i = false) ∧
    bankBusy.mine.bankq = [] ∧
    (∃ x ∈ bankBusy.mine.busy, x.1 < 16 ∧ BitVec.getLsbD (bankBusy.rg 1) (32 + x.1) = true) :=
  ⟨by decide +kernel,
    by (rintro i ⟨hi, h⟩; revert h; revert i; decide +kernel),
    by (intros; first | decide +kernel | rfl),
    by decide +kernel⟩

theorem test_meets_bankModes_Bank4 :
    (bankState.core 0).busy = [(↑(3 : Fin 16), BankMode.cache)] ∧
    (bankState.core 0).lines = [] ∧
    ((List.all bankState.cores fun (x : Nat × Core) => x.2.copies.isEmpty) = true) ∧
    (∀ x ∈ bankState.accs, x.2.stage ≠ Stage.bank) ∧
    (bankState.core 0).bankq = [] :=
  by decide +kernel

theorem test_meets_bankModes_Bank4b :
    (bankWaits.core 0).busy = [(↑(3 : Fin 16), BankMode.cache)] ∧
    (bankWaits.core 0).lines = [] ∧
    ((List.all bankWaits.cores fun (x : Nat × Core) => x.2.copies.isEmpty) = true) ∧
    (∀ x ∈ bankWaits.accs, x.2.stage ≠ Stage.bank) ∧
    (bankWaits.core 0).bankq = [{ slot := 0, set := [(3, BankMode.cache)], begun := some [↑(3 : Fin 16)] : BankReq }] ∧
    (bankWaits.strand 0 0).outs = [] :=
  by decide +kernel

/-- What the witness of `QT2` runs on. -/
def at_QT2 := (oneOn { coreOf user with queues := [(3, ⟨4, .ma⟩)] })

/-- What the witness of `QT3` runs on. -/
def at_QT3 := (one { user with vl := false })

/-! ### QueueBindings -/

theorem test_meets_queueBindings_QB1 :
    Quiet (queued QKind.ma) ∧
    (queued QKind.ma).mine.queue 3 ≠ none ∧
    Instr.qbindMbox 1 3 ∈ [Instr.qbindFifo 1 3, Instr.qbindStream 1 2 3, Instr.qbindMa 3, Instr.qbindMb 3, Instr.qbindMout 3, Instr.qbindMbox 1 3] :=
  ⟨by rfl,
    by decide +kernel⟩

theorem test_meets_queueBindings_QB2 :
    Quiet (one user) ∧
    (one user).mine.queue 3 = none :=
  ⟨by rfl,
    by decide +kernel⟩

theorem test_meets_queueBindings_QB3 :
    Quiet (one user) ∧
    (one user).mine.queue 3 = none ∧
    (one user).mine.bank ↑(Fin.ofNat 16 (field ((one user).rg 1) 0 4)) ≠ BankMode.fifo :=
  ⟨by rfl,
    by decide +kernel⟩

theorem test_meets_queueBindings_QB4 :
    Quiet fifoFree ∧
    fifoFree.mine.queue 3 = none ∧
    fifoFree.mine.bank ↑(Fin.ofNat 16 (field (fifoFree.rg 1) 0 4)) = BankMode.fifo ∧
    fifoFree.mine.busy = [] :=
  ⟨by rfl,
    by decide +kernel⟩

theorem test_meets_queueBindings_QB5 :
    Quiet (copyState blockWords []) ∧
    (copyState blockWords []).mine.queue 3 = none ∧
    BitVec.toNat ((copyState blockWords []).rg 1) % 8 = 0 ∧
    (copyState blockWords []).words ((copyState blockWords []).rg 1) 17 = Except.ok (copyState blockWords [], blockWords) ∧
    GoodPattern blockWords :=
  ⟨by rfl,
    by decide +kernel,
    by decide +kernel,
    by decide +kernel,
    by (unfold Sys2Proof.Claims.GoodPattern; decide +kernel)⟩

theorem test_meets_queueBindings_QB6 :
    Quiet (msgStrand user) ∧
    (msgStrand user).mine.queue 3 = none ∧
    (Instr.qbindMout 3, QKind.mout) ∈ [(Instr.qbindMa 3, QKind.ma), (Instr.qbindMb 3, QKind.mb), (Instr.qbindMout 3, QKind.mout)] ∧
    (msgStrand user).cur.slot < 17 ∧
    ((List.all (msgStrand user).mine.queues fun (x : Nat × QBind) => decide (x.2.kind ≠ QKind.mout)) = true) ∧
    (msgStrand user).mine.matrix.tile = none :=
  ⟨by rfl,
    by decide +kernel⟩

theorem test_meets_queueBindings_QB7 :
    Quiet (tileState user) ∧
    (tileState user).mine.queue 3 = none ∧
    (Instr.qbindMa 3, QKind.ma) ∈ [(Instr.qbindMa 3, QKind.ma), (Instr.qbindMb 3, QKind.mb), (Instr.qbindMout 3, QKind.mout)] ∧
    (tileState user).cur.slot < 17 ∧
    ((List.all (tileState user).mine.queues fun (x : Nat × QBind) => decide (x.2.kind ≠ QKind.ma)) = true) ∧
    (tileState user).mine.matrix.tile ≠ none :=
  ⟨by rfl,
    by decide +kernel⟩

theorem test_meets_queueBindings_QB8 :
    Quiet boxState ∧
    boxState.mine.queue 3 = none ∧
    ((List.all boxState.mine.queues fun (x : Nat × QBind) => !x.2.kind.diverts (BitVec.ofNat 12 (field (boxState.rg 1) 0 12))) = true) ∧
    boxState.mine.boxSpill false = [] :=
  ⟨by rfl,
    by decide +kernel⟩

theorem test_meets_queueBindings_QB9 :
    Quiet portState ∧
    portState.mine.queue 3 = some { slot := portState.cur.slot, kind := QKind.ma : QBind } ∧
    ((QKind.ma = QKind.ma ∧ ∃ (t : Tile), portState.mine.matrix.tile = some t ∧ t.aq = true) ∨ (QKind.ma = QKind.mb ∧ ∃ (x : Load), portState.mine.matrix.load = some x ∧ x.src = none) ∨ QKind.ma = QKind.mout ∧ portState.mine.matrix.tile ≠ none) :=
  ⟨by rfl,
    by decide +kernel⟩

theorem test_meets_queueBindings_QB10 :
    Quiet (fifoState [1, 2]) ∧
    (fifoState [1, 2]).mine.queue 3 = some { slot := (fifoState [1, 2]).cur.slot, kind := QKind.fifo (6 : Fin 16) : QBind } ∧
    ((∃ (n : Fin 16), QKind.fifo (6 : Fin 16) = QKind.fifo n) ∨ (∃ (u : Word) (p : Pattern) (v : Bool) (o : Bases) (x : List Ahead) (n : Nat) (y : Option Bool), QKind.fifo (6 : Fin 16) = QKind.stream u p v o x n y) ∨ (fifoState [1, 2]).mine.matrix.tile = none ∧ (fifoState [1, 2]).mine.matrix.load = none) :=
  ⟨by rfl,
    by decide +kernel,
    by (constructor <;> first | decide +kernel | rfl)⟩

theorem test_meets_queueBindings_QB11 :
    Quiet (queued (QKind.mbox 5 [5, 1, 2, 3, 4, 5, 6, 7])) ∧
    (queued (QKind.mbox 5 [5, 1, 2, 3, 4, 5, 6, 7])).mine.queue 3 = some { slot := (queued (QKind.mbox 5 [5, 1, 2, 3, 4, 5, 6, 7])).cur.slot, kind := QKind.mbox 5 [5, 1, 2, 3, 4, 5, 6, 7] : QBind } ∧
    ((∃ (n : Fin 16), QKind.mbox 5 [5, 1, 2, 3, 4, 5, 6, 7] = QKind.fifo n) ∨ (∃ (u : Word) (p : Pattern) (v : Bool) (o : Bases) (x : List Ahead) (n : Nat) (y : Option Bool), QKind.mbox 5 [5, 1, 2, 3, 4, 5, 6, 7] = QKind.stream u p v o x n y) ∨ (queued (QKind.mbox 5 [5, 1, 2, 3, 4, 5, 6, 7])).mine.matrix.tile = none ∧ (queued (QKind.mbox 5 [5, 1, 2, 3, 4, 5, 6, 7])).mine.matrix.load = none) :=
  ⟨by rfl,
    by decide +kernel,
    by exact Or.inr (Or.inr (by decide +kernel))⟩

theorem test_meets_queueBindings_QB11b :
    QKind.mbox 5 [5, 1, 2, 3, 4, 5, 6, 7] = QKind.mbox 5 [[5, 1, 2, 3, 4, 5, 6, 7]].flatten ∧
    (∀ r ∈ [[5, 1, 2, 3, 4, 5, 6, 7]], List.length r = 8) :=
  by decide +kernel

theorem test_meets_queueBindings_QB12 :
    Quiet (queued streamK) ∧
    (queued streamK).mine.queue 3 = some { slot := (queued streamK).cur.slot, kind := streamK : QBind } ∧
    ((∃ (n : Fin 16), streamK = QKind.fifo n) ∨ (∃ (u : Word) (p : Pattern) (v : Bool) (o : Bases) (x : List Ahead) (n : Nat) (y : Option Bool), streamK = QKind.stream u p v o x n y) ∨ (queued streamK).mine.matrix.tile = none ∧ (queued streamK).mine.matrix.load = none) :=
  ⟨by rfl,
    by decide +kernel,
    by exact Or.inr (Or.inl ⟨_, _, _, _, _, _, _, rfl⟩)⟩

/-! ### QueueTransfers -/

theorem test_meets_queueTransfers_QT1 :
    Quiet (one user) ∧
    (one user).mine.queue 3 = none :=
  ⟨by rfl,
    by decide +kernel⟩

theorem test_meets_queueTransfers_QT2 :
    Quiet at_QT2 ∧
    at_QT2.mine.queue 3 = some { slot := 4, kind := QKind.ma : QBind } ∧
    4 ≠ at_QT2.cur.slot :=
  ⟨by rfl,
    by decide +kernel⟩

theorem test_meets_queueTransfers_QT3 :
    Quiet at_QT3 ∧
    at_QT3.me.vl = false ∧
    at_QT3.cur.slot < 17 :=
  ⟨by rfl,
    by decide +kernel⟩

theorem test_meets_queueTransfers_QT4 :
    Quiet (fifoState [11, 12]) ∧
    (fifoState [11, 12]).mine.queue 3 = some { slot := (fifoState [11, 12]).cur.slot, kind := QKind.fifo (6 : Fin 16) : QBind } ∧
    ((fifoState [11, 12]).mine.fifo ↑(6 : Fin 16)).length < 4096 :=
  ⟨by rfl,
    by decide +kernel⟩

theorem test_meets_queueTransfers_QT5 :
    Quiet (fifoState []) ∧
    (fifoState []).mine.queue 3 = some { slot := (fifoState []).cur.slot, kind := QKind.fifo (6 : Fin 16) : QBind } ∧
    (fifoState []).mine.fifo ↑(6 : Fin 16) = [] :=
  ⟨by rfl,
    by decide +kernel⟩

theorem test_meets_queueTransfers_QT6 :
    Quiet (fifoState [11, 12]) ∧
    (fifoState [11, 12]).mine.queue 3 = some { slot := (fifoState [11, 12]).cur.slot, kind := QKind.fifo (6 : Fin 16) : QBind } ∧
    (fifoState [11, 12]).mine.fifo ↑(6 : Fin 16) = [11, 12] :=
  ⟨by rfl,
    by decide +kernel⟩

theorem test_meets_queueTransfers_QT7 :
    Quiet (fifoState [11, 12]) ∧
    (fifoState [11, 12]).mine.queue 3 = some { slot := (fifoState [11, 12]).cur.slot, kind := QKind.fifo (6 : Fin 16) : QBind } ∧
    (fifoState [11, 12]).me.vl = true ∧
    ((fifoState [11, 12]).mine.fifo ↑(6 : Fin 16)).length ≤ 4080 :=
  ⟨by rfl,
    by decide +kernel⟩

theorem test_meets_queueTransfers_QT8 :
    Quiet (fifoState (List.map word (List.range 17))) ∧
    (fifoState (List.map word (List.range 17))).mine.queue 3 = some { slot := (fifoState (List.map word (List.range 17))).cur.slot, kind := QKind.fifo (6 : Fin 16) : QBind } ∧
    (fifoState (List.map word (List.range 17))).me.vl = true ∧
    16 ≤ ((fifoState (List.map word (List.range 17))).mine.fifo ↑(6 : Fin 16)).length :=
  ⟨by rfl,
    by decide +kernel⟩

theorem test_meets_queueTransfers_QT9 :
    Quiet portIdle ∧
    portIdle.mine.queue 3 = some { slot := portIdle.cur.slot, kind := QKind.ma : QBind } ∧
    portIdle.mine.matrix.porta.length < 512 :=
  ⟨by rfl,
    by decide +kernel⟩

theorem test_meets_queueTransfers_QT10 :
    Quiet (queued streamK) ∧
    (queued streamK).mine.queue 3 = some { slot := (queued streamK).cur.slot, kind := QKind.stream 9223372036854776064 { esize := 8, dims := [(3, 8, -8)] : Pattern } false { jt := 0, fat := 0 : Bases } [Ahead.bytes [1, 2, 3, 4, 5, 6, 7, 136], Ahead.bytes (List.replicate 8 9)] 16 (some false) : QBind } ∧
    ({ esize := 8, dims := [(3, 8, -8)] : Pattern }.esize = 1 ∨ { esize := 8, dims := [(3, 8, -8)] : Pattern }.esize = 2 ∨ { esize := 8, dims := [(3, 8, -8)] : Pattern }.esize = 4 ∨ { esize := 8, dims := [(3, 8, -8)] : Pattern }.esize = 8) ∧
    [1, 2, 3, 4, 5, 6, 7, 136].length = { esize := 8, dims := [(3, 8, -8)] : Pattern }.esize :=
  ⟨by rfl,
    by decide +kernel⟩

theorem test_meets_queueTransfers_QT11 :
    Quiet (queued streamEnd) ∧
    (queued streamEnd).mine.queue 3 = some { slot := (queued streamEnd).cur.slot, kind := QKind.stream 9223372036854776064 { esize := 8, dims := [(3, 8, -8)] : Pattern } false { jt := 0, fat := 0 : Bases } [] 24 none : QBind } ∧
    none ≠ some true ∧
    { esize := 8, dims := [(3, 8, -8)] : Pattern }.esize = 8 ∧
    { esize := 8, dims := [(3, 8, -8)] : Pattern }.total * 8 ≤ 24 :=
  ⟨by rfl,
    by decide +kernel⟩

theorem test_meets_queueTransfers_QT12 :
    Quiet (queued (QKind.mbox 5 [5, 1, 2, 3, 4, 5, 6, 7])) ∧
    (queued (QKind.mbox 5 [5, 1, 2, 3, 4, 5, 6, 7])).mine.queue 3 = some { slot := (queued (QKind.mbox 5 [5, 1, 2, 3, 4, 5, 6, 7])).cur.slot, kind := QKind.mbox 5 [5, 1, 2, 3, 4, 5, 6, 7] : QBind } :=
  ⟨by rfl,
    by decide +kernel⟩

/-! ### QueueStatus -/

theorem test_meets_queueStatus_QS1 :
    Quiet aheadState ∧
    (aheadState.core 0).queue 3 = some { slot := 0, kind := QKind.stream 9223372036854776064 { esize := 8, dims := [(3, 8, -8)] : Pattern } false { jt := 0, fat := 0 : Bases } [] (8 * 1) none : QBind } ∧
    { esize := 8, dims := [(3, 8, -8)] : Pattern }.esize = 8 ∧
    1 < { esize := 8, dims := [(3, 8, -8)] : Pattern }.total ∧
    ([] : List Ahead).length < 16 ∧
    (∀ x ∈ [], ∃ (b : List Byte), x = Ahead.bytes b) ∧
    OwnWord aheadState 0 (aheadState.strand 0 0).job false (9223372036854776064 + BitVec.ofInt 64 (elemOffsets { esize := 8, dims := [(3, 8, -8)] : Pattern }.dims 1).1) 264 ∧
    (aheadState.core 0).scratchOk 264 8 = true ∧
    touches (aheadState.core 0).spois 264 8 = false :=
  ⟨by rfl,
    by decide +kernel,
    by decide +kernel,
    by decide +kernel,
    (by decide +kernel),
    by (simp_all; done),
    by (constructor <;> first | decide +kernel | rfl),
    by decide +kernel⟩

theorem test_meets_queueStatus_QS2 :
    Quiet (moutState 0) ∧
    (moutState 0).mine.queue 3 = some { slot := (moutState 0).cur.slot, kind := QKind.mout : QBind } ∧
    (moutState 0).me.vl = true ∧
    (moutState 0).mine.matrix.bufs = [(1, rowBuf1 0)] ∧
    (rowBuf1 0).r % 2 = 1 :=
  ⟨by rfl,
    by decide +kernel⟩

theorem test_meets_queueStatus_QS3 :
    Quiet (moutState 1) ∧
    (moutState 1).mine.queue 3 = some { slot := (moutState 1).cur.slot, kind := QKind.mout : QBind } ∧
    (moutState 1).me.vl = true ∧
    (moutState 1).mine.matrix.bufs = [(1, rowBuf1 1)] ∧
    (rowBuf1 1).r % 2 = 1 :=
  ⟨by rfl,
    by decide +kernel⟩

end Sys2Proof.Tests
end

