-- ==== Sys2Proof/Tests/MeetsStrands.lean ====
section
/-! SUPPORT. For each clause of the statements about tasks, records, strands, launches, units and grants: a state and operands that meet all its hypotheses. -/

set_option maxRecDepth 100000
set_option Elab.async false
set_option linter.unusedTactic false
set_option linter.unusedVariables false
set_option linter.unreachableTactic false
set_option linter.unnecessarySeqFocus false

open Sys2Proof Sys2Proof.Machine Sys2Proof.Claims

namespace Sys2Proof.Tests

/-- What the witness of `ttsubr` runs on. -/
def at_ttsubr := (((ttS (ttWords 0x77 0 4 false true 0 0) { ttFull with held := [], tickets := List.replicate 256 (7, ⟨1, true, 2⟩) }).fenced .pkg).relDone.released .pkg)

/-- What the witness of `ttsubr` runs on. -/
def at_ttsubr_2 := (ttS (ttWords 0x77 0 4 false true 0 0) { ttFull with held := [], tickets := List.replicate 256 (7, ⟨1, true, 2⟩) })

/-- What the witness of `sendfull` runs on. -/
def at_sendfull := (sendS (hdr 5 2 0 1 0) (fun k => { k with sendq := [(1, List.replicate 16 [])] }))

/-- What the witness of `depart` runs on. -/
def at_depart := (sendS 0 fun k => { k with sendq := [(1, [rec1 5 0 1 3, rec1 6 0 1 3])] })

/-- What the witness of `msgstart` runs on. -/
def at_msgstart := ((startS [(0, [rec1 5 0 0 0, recBad])] []).setCore 0 { (startS [(0, [rec1 5 0 0 0, recBad])] []).core 0 with mbox := [(0, [recBad])] })

/-- What the witness of `dqpop` runs on. -/
def at_dqpop := ((startS [] [.one recBad, .one (rec1 5 1 0 0)]).setCore 0 { (startS [] [.one recBad, .one (rec1 5 1 0 0)]).core 0 with deque := [.one recBad] })

/-- What the witness of `dqrange` runs on. -/
def at_dqrange := ((startS [] [.one recBad, .range (hdr 5 7 1 0 0 + 0x3000) 4 9 10 0x1000 0x20 [7, 8, 9, 10]]).setCore 0 { (startS [] [.one recBad, .one (rec1 5 1 0 0)]).core 0 with deque := [.one recBad, .range (hdr 5 7 1 0 0 + 0x3000) 5 9 10 0x1000 0x20 [7, 8, 9, 10]] })

/-! ### TileTasks -/

theorem test_meets_tileTasks_ttal :
    BitVec.toNat ((ttS [] { held := [], next := 0, tickets := [] : Sched }).rg 2) % 8 ≠ 0 :=
  by decide +kernel

theorem test_meets_tileTasks_ttbad :
    BitVec.toNat ((ttS (ttWords 119 0 4 false true 9 0) { held := [], next := 0, tickets := [] : Sched }).rg 1) % 8 = 0 ∧
    (ttS (ttWords 119 0 4 false true 9 0) { held := [], next := 0, tickets := [] : Sched }).words ((ttS (ttWords 119 0 4 false true 9 0) { held := [], next := 0, tickets := [] : Sched }).rg 1) 8 = Except.ok (ttS (ttWords 119 0 4 false true 9 0) { held := [], next := 0, tickets := [] : Sched }, ttWords 119 0 4 false true 9 0) ∧
    (¬GoodTask (ttS (ttWords 119 0 4 false true 9 0) { held := [], next := 0, tickets := [] : Sched }) (ttWords 119 0 4 false true 9 0)) :=
  ⟨by decide +kernel,
    by decide +kernel,
    by (unfold Sys2Proof.Claims.GoodTask; decide +kernel)⟩

theorem test_meets_tileTasks_ttbad0 :
    BitVec.toNat ((ttS (ttWords 119 0 0 false true 0 0) { held := [], next := 0, tickets := [] : Sched }).rg 1) % 8 = 0 ∧
    (ttS (ttWords 119 0 0 false true 0 0) { held := [], next := 0, tickets := [] : Sched }).words ((ttS (ttWords 119 0 0 false true 0 0) { held := [], next := 0, tickets := [] : Sched }).rg 1) 8 = Except.ok (ttS (ttWords 119 0 0 false true 0 0) { held := [], next := 0, tickets := [] : Sched }, ttWords 119 0 0 false true 0 0) ∧
    (¬GoodTask (ttS (ttWords 119 0 0 false true 0 0) { held := [], next := 0, tickets := [] : Sched }) (ttWords 119 0 0 false true 0 0)) :=
  ⟨by decide +kernel,
    by decide +kernel,
    by (unfold Sys2Proof.Claims.GoodTask; decide +kernel)⟩

theorem test_meets_tileTasks_ttfull :
    BitVec.toNat ((ttS (ttWords 119 0 4 false true 0 0) ttFull).rg 1) % 8 = 0 ∧
    (ttS (ttWords 119 0 4 false true 0 0) ttFull).words ((ttS (ttWords 119 0 4 false true 0 0) ttFull).rg 1) 8 = Except.ok (ttS (ttWords 119 0 4 false true 0 0) ttFull, ttWords 119 0 4 false true 0 0) ∧
    GoodTask (ttS (ttWords 119 0 4 false true 0 0) ttFull) (ttWords 119 0 4 false true 0 0) ∧
    Calm (ttS (ttWords 119 0 4 false true 0 0) ttFull) ∧
    64 ≤ ((ttS (ttWords 119 0 4 false true 0 0) ttFull).sched (clusterOf (ttS (ttWords 119 0 4 false true 0 0) ttFull).cur.core)).held.length :=
  ⟨by decide +kernel,
    by decide +kernel,
    by (unfold Sys2Proof.Claims.GoodTask; decide +kernel),
    by (constructor <;> first | decide +kernel | rfl),
    by decide +kernel⟩

theorem test_meets_tileTasks_ttsub :
    BitVec.toNat ((ttS (ttWords 119 0 4 false true 0 0) (ttTwo 119)).rg 1) % 8 = 0 ∧
    (ttS (ttWords 119 0 4 false true 0 0) (ttTwo 119)).words ((ttS (ttWords 119 0 4 false true 0 0) (ttTwo 119)).rg 1) 8 = Except.ok (ttS (ttWords 119 0 4 false true 0 0) (ttTwo 119), ttWords 119 0 4 false true 0 0) ∧
    GoodTask (ttS (ttWords 119 0 4 false true 0 0) (ttTwo 119)) (ttWords 119 0 4 false true 0 0) ∧
    Calm (ttS (ttWords 119 0 4 false true 0 0) (ttTwo 119)) ∧
    ((ttS (ttWords 119 0 4 false true 0 0) (ttTwo 119)).sched (clusterOf (ttS (ttWords 119 0 4 false true 0 0) (ttTwo 119)).cur.core)).held.length < 64 ∧
    (((ttS (ttWords 119 0 4 false true 0 0) (ttTwo 119)).fenced Scope.pkg).relDone.released Scope.pkg).launchInc (ttS (ttWords 119 0 4 false true 0 0) (ttTwo 119)).me.job (ttS (ttWords 119 0 4 false true 0 0) (ttTwo 119)).me.lid.toNat = (((ttS (ttWords 119 0 4 false true 0 0) (ttTwo 119)).fenced Scope.pkg).relDone.released Scope.pkg, true) :=
  ⟨by decide +kernel,
    by decide +kernel,
    by (unfold Sys2Proof.Claims.GoodTask; decide +kernel),
    by (constructor <;> first | decide +kernel | rfl),
    by decide +kernel⟩

theorem test_meets_tileTasks_ttsubr :
    BitVec.toNat (at_ttsubr_2.rg 1) % 8 = 0 ∧
    at_ttsubr_2.words (at_ttsubr_2.rg 1) 8 = Except.ok (at_ttsubr_2, ttWords 119 0 4 false true 0 0) ∧
    GoodTask at_ttsubr_2 (ttWords 119 0 4 false true 0 0) ∧
    Calm at_ttsubr_2 ∧
    (at_ttsubr_2.sched (clusterOf at_ttsubr_2.cur.core)).held.length < 64 ∧
    ((at_ttsubr_2.fenced Scope.pkg).relDone.released Scope.pkg).launchInc at_ttsubr_2.me.job at_ttsubr_2.me.lid.toNat = (at_ttsubr, true) :=
  ⟨by decide +kernel,
    by decide +kernel,
    by (unfold Sys2Proof.Claims.GoodTask; decide +kernel),
    by (constructor <;> first | decide +kernel | rfl),
    by decide +kernel⟩

theorem test_meets_tileTasks_ttstatb :
    2 ^ 16 ≤ BitVec.toNat ((ttS [] (ttTwo 119)).rg 4) :=
  by decide +kernel

theorem test_meets_tileTasks_ttstat :
    BitVec.toNat ((ttS [] (ttTwo 119)).rg 3) < 2 ^ 16 :=
  by decide +kernel

theorem test_meets_tileTasks_ttissue :
    (ttRun 119).deaf = false ∧
    ((ttRun 119).sched 0).held = [ttTask 261 (ttWords 119 0 4 false true 0 0), ttTask 262 (ttWords 0 0 4 false true 0 0)] ∧
    (∀ x ∈ [ttTask 262 (ttWords 0 0 4 false true 0 0)], x.ticket ≠ (ttTask 261 (ttWords 119 0 4 false true 0 0)).ticket) ∧
    (ttTask 261 (ttWords 119 0 4 false true 0 0)).words.getD 5 0 = 0 ∧
    UnitFor (ttRun 119) 0 (ttTask 261 (ttWords 119 0 4 false true 0 0)) 1 ∧
    (recordTile (ttTask 261 (ttWords 119 0 4 false true 0 0)) 0 ((ttRun 119).core 1).bases).fmta.toNat ∈ [0, 8, 9, 19, 20] ∧
    (recordTile (ttTask 261 (ttWords 119 0 4 false true 0 0)) 0 ((ttRun 119).core 1).bases).fmtb.toNat ∈ [0, 9] ∧
    ((recordTile (ttTask 261 (ttWords 119 0 4 false true 0 0)) 0 ((ttRun 119).core 1).bases).m ≤ 32 ∨ (recordTile (ttTask 261 (ttWords 119 0 4 false true 0 0)) 0 ((ttRun 119).core 1).bases).acc = false ∧ (recordTile (ttTask 261 (ttWords 119 0 4 false true 0 0)) 0 ((ttRun 119).core 1).bases).drain = true) :=
  ⟨by decide +kernel,
    by decide +kernel,
    by decide +kernel,
    (by decide +kernel),
    by (unfold Sys2Proof.Claims.UnitFor Sys2Proof.Claims.FreeUnit Sys2Proof.Claims.HasTag; decide +kernel),
    by decide +kernel⟩

theorem test_meets_tileTasks_ttissue0 :
    (ttRun 120).deaf = false ∧
    ((ttRun 120).sched 0).held = [ttTask 261 (ttWords 120 0 4 false true 0 0), ttTask 262 (ttWords 0 0 4 false true 0 0)] ∧
    (∀ x ∈ [ttTask 262 (ttWords 0 0 4 false true 0 0)], x.ticket ≠ (ttTask 261 (ttWords 120 0 4 false true 0 0)).ticket) ∧
    (ttTask 261 (ttWords 120 0 4 false true 0 0)).words.getD 5 0 = 0 ∧
    UnitFor (ttRun 120) 0 (ttTask 261 (ttWords 120 0 4 false true 0 0)) 0 ∧
    (recordTile (ttTask 261 (ttWords 120 0 4 false true 0 0)) 0 ((ttRun 120).core 0).bases).fmta.toNat ∈ [0, 8, 9, 19, 20] ∧
    (recordTile (ttTask 261 (ttWords 120 0 4 false true 0 0)) 0 ((ttRun 120).core 0).bases).fmtb.toNat ∈ [0, 9] ∧
    ((recordTile (ttTask 261 (ttWords 120 0 4 false true 0 0)) 0 ((ttRun 120).core 0).bases).m ≤ 32 ∨ (recordTile (ttTask 261 (ttWords 120 0 4 false true 0 0)) 0 ((ttRun 120).core 0).bases).acc = false ∧ (recordTile (ttTask 261 (ttWords 120 0 4 false true 0 0)) 0 ((ttRun 120).core 0).bases).drain = true) :=
  ⟨by decide +kernel,
    by decide +kernel,
    by decide +kernel,
    (by decide +kernel),
    by (unfold Sys2Proof.Claims.UnitFor Sys2Proof.Claims.FreeUnit Sys2Proof.Claims.HasTag; decide +kernel),
    by decide +kernel⟩

/-! ### SendsAndReplies -/

theorem test_meets_sendsAndReplies_sendal :
    BitVec.toNat ((sendS 0 id).rg 2) % 8 ≠ 0 :=
  by decide +kernel

theorem test_meets_sendsAndReplies_replyno :
    ((sendS 0 id).cur.slot ≠ 16 ∨ (sendS 0 id).me.sender = none) :=
  by decide +kernel

theorem test_meets_sendsAndReplies_sendbad :
    BitVec.toNat ((sendS (hdr 5 2 1 1 0) id).rg 1) % 8 = 0 ∧
    (sendS (hdr 5 2 1 1 0) id).words ((sendS (hdr 5 2 1 1 0) id).rg 1) 8 = Except.ok (sendS (hdr 5 2 1 1 0) id, recWords (hdr 5 2 1 1 0)) ∧
    Quiet (sendS (hdr 5 2 1 1 0) id) ∧
    (sendS (hdr 5 2 1 1 0) id).cur.core < 512 ∧
    (2 ≤ field ((recWords (hdr 5 2 1 1 0)).getD 0 0) 28 2 ∨ field ((recWords (hdr 5 2 1 1 0)).getD 0 0) 28 2 = 1 ∧ field ((recWords (hdr 5 2 1 1 0)).getD 0 0) 27 1 = 1) :=
  ⟨by decide +kernel,
    by decide +kernel,
    by rfl,
    by decide +kernel⟩

theorem test_meets_sendsAndReplies_sendhood :
    BitVec.toNat ((sendS (hdr 5 2 0 1 9) id).rg 1) % 8 = 0 ∧
    (sendS (hdr 5 2 0 1 9) id).words ((sendS (hdr 5 2 0 1 9) id).rg 1) 8 = Except.ok (sendS (hdr 5 2 0 1 9) id, recWords (hdr 5 2 0 1 9)) ∧
    Quiet (sendS (hdr 5 2 0 1 9) id) ∧
    (sendS (hdr 5 2 0 1 9) id).cur.core < 512 ∧
    field ((recWords (hdr 5 2 0 1 9)).getD 0 0) 28 2 < 2 ∧
    (¬(field ((recWords (hdr 5 2 0 1 9)).getD 0 0) 28 2 = 1 ∧ field ((recWords (hdr 5 2 0 1 9)).getD 0 0) 27 1 = 1)) ∧
    (sendS (hdr 5 2 0 1 9) id).inHoods (sendS (hdr 5 2 0 1 9) id).me.job (field ((recWords (hdr 5 2 0 1 9)).getD 0 0) 30 9) = false :=
  ⟨by decide +kernel,
    by decide +kernel,
    by rfl,
    by decide +kernel⟩

theorem test_meets_sendsAndReplies_sendfull :
    BitVec.toNat (at_sendfull.rg 1) % 8 = 0 ∧
    at_sendfull.words (at_sendfull.rg 1) 8 = Except.ok (at_sendfull, recWords (hdr 5 2 0 1 0)) ∧
    Quiet at_sendfull ∧
    at_sendfull.cur.core < 512 ∧
    field ((recWords (hdr 5 2 0 1 0)).getD 0 0) 28 2 < 2 ∧
    (¬(field ((recWords (hdr 5 2 0 1 0)).getD 0 0) 28 2 = 1 ∧ field ((recWords (hdr 5 2 0 1 0)).getD 0 0) 27 1 = 1)) ∧
    at_sendfull.inHoods at_sendfull.me.job (field ((recWords (hdr 5 2 0 1 0)).getD 0 0) 30 9) = true ∧
    at_sendfull.relStill = false ∧
    (field ((recWords (hdr 5 2 0 1 0)).getD 0 0) 27 1 = 0 ∨ field ((recWords (hdr 5 2 0 1 0)).getD 0 0) 30 9 ≠ at_sendfull.cur.core) ∧
    16 ≤ (at_sendfull.mine.sq (decide (field ((recWords (hdr 5 2 0 1 0)).getD 0 0) 28 2 = 1))).length :=
  ⟨by decide +kernel,
    by decide +kernel,
    by rfl,
    by decide +kernel⟩

theorem test_meets_sendsAndReplies_sendown :
    BitVec.toNat ((sendS (hdr 5 2 1 0 0) id).rg 1) % 8 = 0 ∧
    (sendS (hdr 5 2 1 0 0) id).words ((sendS (hdr 5 2 1 0 0) id).rg 1) 8 = Except.ok (sendS (hdr 5 2 1 0 0) id, recWords (hdr 5 2 1 0 0)) ∧
    Quiet (sendS (hdr 5 2 1 0 0) id) ∧
    (sendS (hdr 5 2 1 0 0) id).cur.core < 512 ∧
    field ((recWords (hdr 5 2 1 0 0)).getD 0 0) 28 2 < 2 ∧
    (¬(field ((recWords (hdr 5 2 1 0 0)).getD 0 0) 28 2 = 1 ∧ field ((recWords (hdr 5 2 1 0 0)).getD 0 0) 27 1 = 1)) ∧
    (sendS (hdr 5 2 1 0 0) id).inHoods (sendS (hdr 5 2 1 0 0) id).me.job (field ((recWords (hdr 5 2 1 0 0)).getD 0 0) 30 9) = true ∧
    (sendS (hdr 5 2 1 0 0) id).relStill = false ∧
    (sendS (hdr 5 2 1 0 0) id).relDone.launchInc (sendS (hdr 5 2 1 0 0) id).me.job (sendS (hdr 5 2 1 0 0) id).me.lid.toNat = ((sendS (hdr 5 2 1 0 0) id).relDone, true) ∧
    field ((recWords (hdr 5 2 1 0 0)).getD 0 0) 27 1 = 1 ∧
    field ((recWords (hdr 5 2 1 0 0)).getD 0 0) 30 9 = (sendS (hdr 5 2 1 0 0) id).cur.core ∧
    (sendS (hdr 5 2 1 0 0) id).mine.deque.length < 256 :=
  ⟨by decide +kernel,
    by decide +kernel,
    by rfl,
    by decide +kernel⟩

theorem test_meets_sendsAndReplies_send :
    BitVec.toNat ((sendS (hdr 5 7 0 1 0) id).rg 1) % 8 = 0 ∧
    (sendS (hdr 5 7 0 1 0) id).words ((sendS (hdr 5 7 0 1 0) id).rg 1) 8 = Except.ok (sendS (hdr 5 7 0 1 0) id, recWords (hdr 5 7 0 1 0)) ∧
    Quiet (sendS (hdr 5 7 0 1 0) id) ∧
    (sendS (hdr 5 7 0 1 0) id).cur.core < 512 ∧
    field ((recWords (hdr 5 7 0 1 0)).getD 0 0) 28 2 < 2 ∧
    (¬(field ((recWords (hdr 5 7 0 1 0)).getD 0 0) 28 2 = 1 ∧ field ((recWords (hdr 5 7 0 1 0)).getD 0 0) 27 1 = 1)) ∧
    (sendS (hdr 5 7 0 1 0) id).inHoods (sendS (hdr 5 7 0 1 0) id).me.job (field ((recWords (hdr 5 7 0 1 0)).getD 0 0) 30 9) = true ∧
    (sendS (hdr 5 7 0 1 0) id).relStill = false ∧
    (sendS (hdr 5 7 0 1 0) id).relDone.launchInc (sendS (hdr 5 7 0 1 0) id).me.job (sendS (hdr 5 7 0 1 0) id).me.lid.toNat = ((sendS (hdr 5 7 0 1 0) id).relDone, true) ∧
    (field ((recWords (hdr 5 7 0 1 0)).getD 0 0) 27 1 = 0 ∨ field ((recWords (hdr 5 7 0 1 0)).getD 0 0) 30 9 ≠ (sendS (hdr 5 7 0 1 0) id).cur.core) ∧
    ((sendS (hdr 5 7 0 1 0) id).mine.sq (decide (field ((recWords (hdr 5 7 0 1 0)).getD 0 0) 28 2 = 1))).length < 16 :=
  ⟨by decide +kernel,
    by decide +kernel,
    by rfl,
    by decide +kernel⟩

theorem test_meets_sendsAndReplies_reply :
    BitVec.toNat ((replyS (hdr 5 2 1 0 77)).rg 1) % 8 = 0 ∧
    (replyS (hdr 5 2 1 0 77)).words ((replyS (hdr 5 2 1 0 77)).rg 1) 8 = Except.ok (replyS (hdr 5 2 1 0 77), recWords (hdr 5 2 1 0 77)) ∧
    Quiet (replyS (hdr 5 2 1 0 77)) ∧
    (replyS (hdr 5 2 1 0 77)).cur.core < 512 ∧
    (replyS (hdr 5 2 1 0 77)).cur.slot = 16 ∧
    (replyS (hdr 5 2 1 0 77)).me.sender = some 0 ∧
    (replyS (hdr 5 2 1 0 77)).inHoods (replyS (hdr 5 2 1 0 77)).me.job (BitVec.toNat (0 : BitVec 9)) = true ∧
    (replyS (hdr 5 2 1 0 77)).relStill = false ∧
    ((replyS (hdr 5 2 1 0 77)).mine.sq true).length < 16 ∧
    (replyS (hdr 5 2 1 0 77)).relDone.launchInc (replyS (hdr 5 2 1 0 77)).me.job (replyS (hdr 5 2 1 0 77)).me.lid.toNat = ((replyS (hdr 5 2 1 0 77)).relDone, true) :=
  ⟨by decide +kernel,
    by decide +kernel,
    by rfl,
    by decide +kernel⟩

/-! ### RecordsArriveAndStart -/

theorem test_meets_recordsArriveAndStart_stuck :
    0 ≠ 1 ∧
    StuckOn stuckS 0 1 ∧
    StuckOn stuckS 1 0 :=
  ⟨by decide +kernel,
    by exact ⟨by decide +kernel, by decide +kernel, _, _, rfl, by decide +kernel⟩,
    by exact ⟨by decide +kernel, by decide +kernel, _, _, rfl, by decide +kernel⟩⟩

theorem test_meets_recordsArriveAndStart_depart :
    (at_depart.core 0).sq true = [rec1 5 0 1 3, rec1 6 0 1 3] ∧
    (true = false → ∀ (d : Nat), 0 ≠ d → ¬(StuckOn at_depart 0 d ∧ StuckOn at_depart d 0)) :=
  ⟨by decide +kernel,
    by (simp_all; done)⟩

theorem test_meets_recordsArriveAndStart_arrive :
    Arriving (mailS 0 1) 7 (mail1 0 1) ∧
    field (List.getD (mail1 0 1).body 0 0) 27 1 = 0 ∧
    (mailS 0 1).shut (mail1 0 1).dst = false ∧
    BitVec.ofNat 16 (field (List.getD (mail1 0 1).body 0 0) 48 16) = (mailS 0 1).coreJob (mail1 0 1).dst ∧
    ((mailS 0 1).core (mail1 0 1).dst).boxSpill (mail1 0 1).vn = [] ∧
    (((mailS 0 1).core (mail1 0 1).dst).box (mail1 0 1).vn).length < 64 ∧
    ((List.all ((mailS 0 1).core (mail1 0 1).dst).queues fun (x : Nat × QBind) => !x.2.kind.diverts (BitVec.ofNat 12 (field (List.getD (mail1 0 1).body 0 0) 0 12))) = true) :=
  ⟨by (unfold Sys2Proof.Claims.Arriving; decide +kernel),
    by decide +kernel⟩

theorem test_meets_recordsArriveAndStart_arrshut :
    Arriving mailShut 7 (mail1 0 0) ∧
    field (List.getD (mail1 0 0).body 0 0) 27 1 = 0 ∧
    (mailShut.shut (mail1 0 0).dst = true ∨ BitVec.ofNat 16 (field (List.getD (mail1 0 0).body 0 0) 48 16) ≠ mailShut.coreJob (mail1 0 0).dst) ∧
    mailShut.split = true :=
  ⟨by (unfold Sys2Proof.Claims.Arriving; decide +kernel),
    by decide +kernel⟩

theorem test_meets_recordsArriveAndStart_dqpush :
    Arriving (mailS 1 0) 7 (mail1 1 0) ∧
    field (List.getD (mail1 1 0).body 0 0) 27 1 = 1 ∧
    (mailS 1 0).shut (mail1 1 0).dst = false ∧
    BitVec.ofNat 16 (field (List.getD (mail1 1 0).body 0 0) 48 16) = (mailS 1 0).coreJob (mail1 1 0).dst ∧
    (∀ (x : Counter), (mailS 1 0).counter? ((mailS 1 0).coreJob (mail1 1 0).dst) Level.launch (field (List.getD (mail1 1 0).body 0 0) 12 12) = some x → x.canc = false) ∧
    ((mailS 1 0).core (mail1 1 0).dst).deque.length < 256 ∧
    ((mailS 1 0).opens (mail1 1 0).dst = false ∨ (∀ n < 16, ((mailS 1 0).strand (mail1 1 0).dst n).st ≠ SlotSt.free) ∨ ((mailS 1 0).core (mail1 1 0).dst).deque = []) :=
  ⟨by (unfold Sys2Proof.Claims.Arriving; decide +kernel),
    by decide +kernel⟩

theorem test_meets_recordsArriveAndStart_msgstart :
    ((startS [(0, [rec1 5 0 0 0, recBad])] []).core 0).strand 16 = Strand.empty ∧
    (startS [(0, [rec1 5 0 0 0, recBad])] []).opens 0 = true ∧
    ((startS [(0, [rec1 5 0 0 0, recBad])] []).core 0).box false = [rec1 5 0 0 0, recBad] ∧
    (false = true ∨ ((startS [(0, [rec1 5 0 0 0, recBad])] []).core 0).box true = []) ∧
    ((startS [(0, [rec1 5 0 0 0, recBad])] []).core 0).boxSpill false = [] ∧
    EntryRead ((startS [(0, [rec1 5 0 0 0, recBad])] []).setCore 0 ({ ((startS [(0, [rec1 5 0 0 0, recBad])] []).core 0) with mbox := ((startS [(0, [rec1 5 0 0 0, recBad])] []).core 0).mbox.put (if false = true then 1 else 0) [recBad] : Core })) 0 (List.getD (rec1 5 0 0 0) 0 0) at_msgstart 4677 ∧
    4677 % 2 = 1 :=
  ⟨by decide +kernel,
    by decide +kernel,
    by decide +kernel,
    (by decide +kernel),
    by decide +kernel,
    by (unfold Sys2Proof.Claims.EntryRead; decide +kernel),
    by decide +kernel⟩

theorem test_meets_recordsArriveAndStart_msgbad :
    ((startS [(1, [recBad, recBad])] []).core 0).strand 16 = Strand.empty ∧
    (startS [(1, [recBad, recBad])] []).opens 0 = true ∧
    ((startS [(1, [recBad, recBad])] []).core 0).box true = [recBad, recBad] ∧
    (true = true ∨ ((startS [(1, [recBad, recBad])] []).core 0).box true = []) ∧
    ((startS [(1, [recBad, recBad])] []).core 0).boxSpill true = [] ∧
    field ((startS [(1, [recBad, recBad])] []).core 0).htbase 0 12 < field (List.getD recBad 0 0) 0 12 ∧
    (startS [(1, [recBad, recBad])] []).split = true :=
  by decide +kernel

theorem test_meets_recordsArriveAndStart_dqpop :
    (startS [] [DqEnt.one recBad, DqEnt.one (rec1 5 1 0 0)]).opens 0 = true ∧
    0 < 16 ∧
    ((startS [] [DqEnt.one recBad, DqEnt.one (rec1 5 1 0 0)]).core 0).strand 0 = Strand.empty ∧
    (∀ m < 0, ((startS [] [DqEnt.one recBad, DqEnt.one (rec1 5 1 0 0)]).strand 0 m).st ≠ SlotSt.free) ∧
    ((startS [] [DqEnt.one recBad, DqEnt.one (rec1 5 1 0 0)]).core 0).deque = [DqEnt.one recBad] ++ [DqEnt.one (rec1 5 1 0 0)] ∧
    EntryRead ((startS [] [DqEnt.one recBad, DqEnt.one (rec1 5 1 0 0)]).setCore 0 ({ ((startS [] [DqEnt.one recBad, DqEnt.one (rec1 5 1 0 0)]).core 0) with deque := [DqEnt.one recBad] : Core })) 0 (List.getD (rec1 5 1 0 0) 0 0) at_dqpop 4677 ∧
    4677 % 2 = 1 :=
  ⟨by decide +kernel,
    by decide +kernel,
    by decide +kernel,
    (by decide +kernel),
    by decide +kernel,
    by (unfold Sys2Proof.Claims.EntryRead; decide +kernel),
    by decide +kernel⟩

theorem test_meets_recordsArriveAndStart_dqrange :
    (startS [] [DqEnt.one recBad, DqEnt.range (hdr 5 7 1 0 0 + 12288) 4 9 10 4096 32 [7, 8, 9, 10]]).opens 0 = true ∧
    0 < 16 ∧
    ((startS [] [DqEnt.one recBad, DqEnt.range (hdr 5 7 1 0 0 + 12288) 4 9 10 4096 32 [7, 8, 9, 10]]).core 0).strand 0 = Strand.empty ∧
    (∀ m < 0, ((startS [] [DqEnt.one recBad, DqEnt.range (hdr 5 7 1 0 0 + 12288) 4 9 10 4096 32 [7, 8, 9, 10]]).strand 0 m).st ≠ SlotSt.free) ∧
    ((startS [] [DqEnt.one recBad, DqEnt.range (hdr 5 7 1 0 0 + 12288) 4 9 10 4096 32 [7, 8, 9, 10]]).core 0).deque = [DqEnt.one recBad] ++ [DqEnt.range (hdr 5 7 1 0 0 + 12288) 4 9 10 4096 32 [7, 8, 9, 10]] ∧
    4 + 1 < 9 ∧
    EntryRead ((startS [] [DqEnt.one recBad, DqEnt.range (hdr 5 7 1 0 0 + 12288) 4 9 10 4096 32 [7, 8, 9, 10]]).setCore 0 ({ ((startS [] [DqEnt.one recBad, DqEnt.range (hdr 5 7 1 0 0 + 12288) 4 9 10 4096 32 [7, 8, 9, 10]]).core 0) with deque := [DqEnt.one recBad] ++ [DqEnt.range (hdr 5 7 1 0 0 + 12288) (4 + 1) 9 10 4096 32 [7, 8, 9, 10]] : Core })) 0 (hdr 5 7 1 0 0 + 12288) at_dqrange 4677 ∧
    4677 % 2 = 1 ∧
    field (hdr 5 7 1 0 0 + 12288) 24 3 = 7 ∧
    4 ≤ [7, 8, 9, 10].length :=
  ⟨by decide +kernel,
    by decide +kernel,
    by decide +kernel,
    (by decide +kernel),
    by decide +kernel,
    by decide +kernel,
    by (unfold Sys2Proof.Claims.EntryRead; decide +kernel),
    by decide +kernel⟩

theorem test_meets_recordsArriveAndStart_refill :
    (spillS.core 0).deque = [] :=
  by decide +kernel

/-- What the witness of `exitm` runs on. -/
def at_exitm := { slot16S with split := true }

/-- What the witness of `sg4w` runs on. -/
def at_sg4w := (one { spawner with wtok := true })

/-- What the witness of `sg9` runs on. -/
def at_sg9 := (one { virtUser with mon := some (3, false) })

/-- What the witness of `mgtrap` runs on. -/
def at_mgtrap := (one { spawner with intrap := true })

/-- What the witness of `mgown` runs on. -/
def at_mgown := (one { spawner with vl := false })

/-- What the witness of `mgbusy` runs on. -/
def at_mgbusy := (one { spawner with vl := true })

/-- What the witness of `mgfol` runs on. -/
def at_mgfol := (one { spawner with fl := .follower })

/-! ### SpawnAndExit -/

theorem test_meets_spawnAndExit_sp16 :
    Calm slot16S ∧
    16 ≤ slot16S.cur.slot :=
  ⟨by (constructor <;> first | decide +kernel | rfl),
    by decide +kernel⟩

theorem test_meets_spawnAndExit_spal :
    Calm (spawnS { count := 5, done := false, canc := false, err := false : Counter }) ∧
    (spawnS { count := 5, done := false, canc := false, err := false : Counter }).cur.slot < 16 ∧
    BitVec.toNat ((spawnS { count := 5, done := false, canc := false, err := false : Counter }).rg 3) % 4 ≠ 0 :=
  ⟨by (constructor <;> first | decide +kernel | rfl),
    by decide +kernel⟩

theorem test_meets_spawnAndExit_spfull :
    Calm spawnFull ∧
    spawnFull.cur.slot < 16 ∧
    BitVec.toNat (spawnFull.rg 1) % 4 = 0 ∧
    (∀ n < 16, (spawnFull.strand spawnFull.cur.core n).st ≠ SlotSt.free) :=
  ⟨by (constructor <;> first | decide +kernel | rfl),
    by decide +kernel⟩

theorem test_meets_spawnAndExit_spcanc :
    Calm (spawnS { count := 5, done := false, canc := true, err := false : Counter }) ∧
    (spawnS { count := 5, done := false, canc := true, err := false : Counter }).cur.slot < 16 ∧
    BitVec.toNat ((spawnS { count := 5, done := false, canc := true, err := false : Counter }).rg 1) % 4 = 0 ∧
    LowestFree (spawnS { count := 5, done := false, canc := true, err := false : Counter }) (spawnS { count := 5, done := false, canc := true, err := false : Counter }).cur.core 2 ∧
    (spawnS { count := 5, done := false, canc := true, err := false : Counter }).me.st ≠ SlotSt.free ∧
    (spawnS { count := 5, done := false, canc := true, err := false : Counter }).counter? (spawnS { count := 5, done := false, canc := true, err := false : Counter }).me.job Level.launch (spawnS { count := 5, done := false, canc := true, err := false : Counter }).me.lid.toNat = some { count := 5, done := false, canc := true, err := false : Counter } ∧
    { count := 5, done := false, canc := true, err := false : Counter }.done = false ∧
    { count := 5, done := false, canc := true, err := false : Counter }.canc = true :=
  ⟨by (constructor <;> first | decide +kernel | rfl),
    by decide +kernel,
    by decide +kernel,
    by (unfold Sys2Proof.Claims.LowestFree; decide +kernel),
    by decide +kernel⟩

theorem test_meets_spawnAndExit_spawn :
    Calm (spawnS { count := 5, done := false, canc := false, err := false : Counter }) ∧
    (spawnS { count := 5, done := false, canc := false, err := false : Counter }).cur.slot < 16 ∧
    BitVec.toNat ((spawnS { count := 5, done := false, canc := false, err := false : Counter }).rg 1) % 4 = 0 ∧
    LowestFree (spawnS { count := 5, done := false, canc := false, err := false : Counter }) (spawnS { count := 5, done := false, canc := false, err := false : Counter }).cur.core 2 ∧
    (spawnS { count := 5, done := false, canc := false, err := false : Counter }).me.st ≠ SlotSt.free ∧
    (spawnS { count := 5, done := false, canc := false, err := false : Counter }).counter? (spawnS { count := 5, done := false, canc := false, err := false : Counter }).me.job Level.launch (spawnS { count := 5, done := false, canc := false, err := false : Counter }).me.lid.toNat = some { count := 5, done := false, canc := false, err := false : Counter } ∧
    { count := 5, done := false, canc := false, err := false : Counter }.done = false ∧
    { count := 5, done := false, canc := false, err := false : Counter }.canc = false :=
  ⟨by (constructor <;> first | decide +kernel | rfl),
    by decide +kernel,
    by decide +kernel,
    by (unfold Sys2Proof.Claims.LowestFree; decide +kernel),
    by decide +kernel⟩

theorem test_meets_spawnAndExit_exit :
    Calm (spawnS { count := 5, done := false, canc := false, err := false : Counter }) ∧
    (spawnS { count := 5, done := false, canc := false, err := false : Counter }).cur.slot < 17 ∧
    (spawnS { count := 5, done := false, canc := false, err := false : Counter }).me.fl = Fol.none ∧
    (spawnS { count := 5, done := false, canc := false, err := false : Counter }).me.st ≠ SlotSt.free ∧
    (spawnS { count := 5, done := false, canc := false, err := false : Counter }).split = true :=
  ⟨by (constructor <;> first | decide +kernel | rfl),
    by decide +kernel⟩

theorem test_meets_spawnAndExit_exitm :
    Calm at_exitm ∧
    at_exitm.cur.slot < 17 ∧
    at_exitm.me.fl = Fol.none ∧
    at_exitm.me.st ≠ SlotSt.free ∧
    at_exitm.split = true :=
  ⟨by (constructor <;> first | decide +kernel | rfl),
    by decide +kernel⟩

/-! ### StrandGroup -/

theorem test_meets_strandGroup_sg0 :
    Quiet (spawnS { count := 5, done := false, canc := false, err := false : Counter }) :=
  by rfl

theorem test_meets_strandGroup_sg1 :
    Quiet (spawnS { count := 5, done := false, canc := false, err := false : Counter }) :=
  by rfl

theorem test_meets_strandGroup_sg2 :
    Quiet (spawnS { count := 5, done := false, canc := false, err := false : Counter }) :=
  by rfl

theorem test_meets_strandGroup_sg3 :
    Quiet slot16S ∧
    16 ≤ slot16S.cur.slot :=
  ⟨by rfl,
    by decide +kernel⟩

theorem test_meets_strandGroup_sg4 :
    Quiet (spawnS { count := 5, done := false, canc := false, err := false : Counter }) ∧
    (spawnS { count := 5, done := false, canc := false, err := false : Counter }).cur.slot < 16 :=
  ⟨by rfl,
    by decide +kernel⟩

theorem test_meets_strandGroup_sg4w :
    Quiet at_sg4w ∧
    at_sg4w.cur.slot < 16 :=
  ⟨by rfl,
    by decide +kernel⟩

theorem test_meets_strandGroup_sg5 :
    Quiet (spawnS { count := 5, done := false, canc := false, err := false : Counter }) ∧
    (spawnS { count := 5, done := false, canc := false, err := false : Counter }).inHoods (spawnS { count := 5, done := false, canc := false, err := false : Counter }).me.job (field ((spawnS { count := 5, done := false, canc := false, err := false : Counter }).rg 10) 0 9) = false :=
  ⟨by rfl,
    by decide +kernel⟩

theorem test_meets_strandGroup_sg5b :
    Quiet (spawnS { count := 5, done := false, canc := false, err := false : Counter }) ∧
    (spawnS { count := 5, done := false, canc := false, err := false : Counter }).inHoods (spawnS { count := 5, done := false, canc := false, err := false : Counter }).me.job (field ((spawnS { count := 5, done := false, canc := false, err := false : Counter }).rg 4) 0 9) = true :=
  ⟨by rfl,
    by decide +kernel⟩

theorem test_meets_strandGroup_sg6 :
    Quiet (wakeS (SlotSt.parked Park.park)) ∧
    (List.find? (fun (p : Packet) => decide (p.id = 4)) (wakeS (SlotSt.parked Park.park)).packets = some { id := 4, job := 1, src := 9, dst := 0, flit := Flit.wake 1 99 : Packet }) ∧
    (wakeS (SlotSt.parked Park.park)).preempts = [] ∧
    (wakeS (SlotSt.parked Park.park)).moves = [] ∧
    ((wakeS (SlotSt.parked Park.park)).core 0).fwd = none ∧
    (wakeS (SlotSt.parked Park.park)).shut 0 = false ∧
    0 < 19 ∧
    ((wakeS (SlotSt.parked Park.park)).strand 0 0).st ≠ SlotSt.free ∧
    ((wakeS (SlotSt.parked Park.park)).strand 0 0).job = 1 ∧
    ((wakeS (SlotSt.parked Park.park)).strand 0 0).strid = 99 ∧
    (∀ m < 0, ((wakeS (SlotSt.parked Park.park)).strand 0 m).strid ≠ 99) ∧
    ((wakeS (SlotSt.parked Park.park)).strand 0 0).outs = [] :=
  ⟨by rfl,
    by decide +kernel⟩

theorem test_meets_strandGroup_sg6t :
    Quiet (wakeS SlotSt.ready) ∧
    (List.find? (fun (p : Packet) => decide (p.id = 4)) (wakeS SlotSt.ready).packets = some { id := 4, job := 1, src := 9, dst := 0, flit := Flit.wake 1 99 : Packet }) ∧
    (wakeS SlotSt.ready).preempts = [] ∧
    (wakeS SlotSt.ready).moves = [] ∧
    ((wakeS SlotSt.ready).core 0).fwd = none ∧
    (wakeS SlotSt.ready).shut 0 = false ∧
    0 < 19 ∧
    ((wakeS SlotSt.ready).strand 0 0).st ≠ SlotSt.free ∧
    ((wakeS SlotSt.ready).strand 0 0).job = 1 ∧
    ((wakeS SlotSt.ready).strand 0 0).strid = 99 ∧
    (∀ m < 0, ((wakeS SlotSt.ready).strand 0 m).strid ≠ 99) ∧
    ((wakeS SlotSt.ready).strand 0 0).outs = [] :=
  ⟨by rfl,
    by decide +kernel⟩

theorem test_meets_strandGroup_sg7 :
    Quiet (wakeS SlotSt.ready) ∧
    2 ^ 48 ≤ BitVec.toNat ((wakeS SlotSt.ready).rg 6) :=
  ⟨by rfl,
    by decide +kernel⟩

theorem test_meets_strandGroup_sg8 :
    Quiet (virtS virtUser) ∧
    BitVec.toNat ((virtS virtUser).rg 4) < 2 ^ 48 ∧
    (virtS virtUser).translate (virtS virtUser).agent (BitVec.toNat ((virtS virtUser).rg 4)) Need.load = (virtS virtUser, Tr.ok 262160 PageTy.sc false 0 0 7) ∧
    (virtS virtUser).waits = [] :=
  ⟨by rfl,
    by decide +kernel⟩

theorem test_meets_strandGroup_sg9 :
    Quiet at_sg9 ∧
    at_sg9.cur.slot < 16 ∧
    at_sg9.me.mon = some (3, false) :=
  ⟨by rfl,
    by decide +kernel⟩

theorem test_meets_strandGroup_sg10 :
    Quiet (spawnS { count := 5, done := false, canc := false, err := false : Counter }) ∧
    (spawnS { count := 5, done := false, canc := false, err := false : Counter }).cur.slot < 16 ∧
    ((spawnS { count := 5, done := false, canc := false, err := false : Counter }).me.mon = none ∨ ∃ (x : Nat), (spawnS { count := 5, done := false, canc := false, err := false : Counter }).me.mon = some (x, true)) :=
  ⟨by rfl,
    by decide +kernel,
    by exact Or.inr ⟨4, rfl⟩⟩

theorem test_meets_strandGroup_sg10n :
    Quiet (one spawner) ∧
    (one spawner).cur.slot < 16 ∧
    ((one spawner).me.mon = none ∨ ∃ (x : Nat), (one spawner).me.mon = some (x, true)) :=
  ⟨by rfl,
    by decide +kernel,
    by (constructor <;> first | decide +kernel | rfl)⟩

theorem test_meets_strandGroup_sg11 :
    Quiet (spawnS { count := 5, done := false, canc := false, err := false : Counter }) ∧
    BitVec.toNat ((spawnS { count := 5, done := false, canc := false, err := false : Counter }).rg 9) % 8 ≠ 0 :=
  ⟨by rfl,
    by decide +kernel⟩

theorem test_meets_strandGroup_sg12 :
    Quiet (spawnS { count := 5, done := false, canc := false, err := false : Counter }) ∧
    BitVec.toNat ((spawnS { count := 5, done := false, canc := false, err := false : Counter }).rg 6) % 8 = 0 ∧
    (spawnS { count := 5, done := false, canc := false, err := false : Counter }).words ((spawnS { count := 5, done := false, canc := false, err := false : Counter }).rg 6) 8 = Except.ok (spawnS { count := 5, done := false, canc := false, err := false : Counter }, recWords (hdr 5 2 0 0 7)) ∧
    (spawnS { count := 5, done := false, canc := false, err := false : Counter }).cur.core < 512 ∧
    (¬armWordOk ((spawnS { count := 5, done := false, canc := false, err := false : Counter }).rg 7) ∨ field ((recWords (hdr 5 2 0 0 7)).getD 0 0) 28 2 ≠ 0) :=
  ⟨by rfl,
    by decide +kernel,
    by decide +kernel,
    by decide +kernel,
    by (unfold Sys2Proof.Claims.armWordOk; decide +kernel)⟩

theorem test_meets_strandGroup_sg12b :
    Quiet armBad ∧
    BitVec.toNat (armBad.rg 6) % 8 = 0 ∧
    armBad.words (armBad.rg 6) 8 = Except.ok (armBad, recWords (hdr 5 2 0 1 7)) ∧
    armBad.cur.core < 512 ∧
    (¬armWordOk (armBad.rg 4) ∨ field ((recWords (hdr 5 2 0 1 7)).getD 0 0) 28 2 ≠ 0) :=
  ⟨by rfl,
    by decide +kernel,
    by decide +kernel,
    by decide +kernel,
    by (unfold Sys2Proof.Claims.armWordOk; decide +kernel)⟩

theorem test_meets_strandGroup_sg12h :
    Quiet (spawnS { count := 5, done := false, canc := false, err := false : Counter }) ∧
    BitVec.toNat ((spawnS { count := 5, done := false, canc := false, err := false : Counter }).rg 6) % 8 = 0 ∧
    (spawnS { count := 5, done := false, canc := false, err := false : Counter }).words ((spawnS { count := 5, done := false, canc := false, err := false : Counter }).rg 6) 8 = Except.ok (spawnS { count := 5, done := false, canc := false, err := false : Counter }, recWords (hdr 5 2 0 0 7)) ∧
    (spawnS { count := 5, done := false, canc := false, err := false : Counter }).cur.core < 512 ∧
    armWordOk ((spawnS { count := 5, done := false, canc := false, err := false : Counter }).rg 13) ∧
    field ((recWords (hdr 5 2 0 0 7)).getD 0 0) 28 2 = 0 ∧
    (spawnS { count := 5, done := false, canc := false, err := false : Counter }).inHoods (spawnS { count := 5, done := false, canc := false, err := false : Counter }).me.job (field ((spawnS { count := 5, done := false, canc := false, err := false : Counter }).rg 13) 16 9) = false :=
  ⟨by rfl,
    by decide +kernel,
    by decide +kernel,
    by decide +kernel,
    by (unfold Sys2Proof.Claims.armWordOk; decide +kernel),
    by decide +kernel⟩

theorem test_meets_strandGroup_sg13 :
    Quiet (armS 18446744069414652685) ∧
    BitVec.toNat ((armS 18446744069414652685).rg 6) % 8 = 0 ∧
    (armS 18446744069414652685).words ((armS 18446744069414652685).rg 6) 8 = Except.ok (armS 18446744069414652685, recWords (hdr 5 2 0 0 7)) ∧
    (armS 18446744069414652685).cur.core < 512 ∧
    armWordOk ((armS 18446744069414652685).rg 2) ∧
    field ((recWords (hdr 5 2 0 0 7)).getD 0 0) 28 2 = 0 ∧
    (armS 18446744069414652685).inHoods (armS 18446744069414652685).me.job (field ((armS 18446744069414652685).rg 2) 16 9) = true :=
  ⟨by rfl,
    by decide +kernel,
    by decide +kernel,
    by decide +kernel,
    by (unfold Sys2Proof.Claims.armWordOk; decide +kernel),
    by decide +kernel⟩

/-! ### Migration -/

theorem test_meets_migration_mg16 :
    Quiet slot16S ∧
    slot16S.me.fl ≠ Fol.follower ∧
    slot16S.me.fl ≠ Fol.owes ∧
    16 ≤ slot16S.cur.slot :=
  ⟨by rfl,
    by decide +kernel⟩

theorem test_meets_migration_mgtrap :
    Quiet at_mgtrap ∧
    at_mgtrap.me.fl ≠ Fol.follower ∧
    at_mgtrap.me.fl ≠ Fol.owes ∧
    at_mgtrap.cur.slot < 16 ∧
    at_mgtrap.me.intrap = true :=
  ⟨by rfl,
    by decide +kernel⟩

theorem test_meets_migration_mgbad :
    Quiet (one spawner) ∧
    (one spawner).me.fl ≠ Fol.follower ∧
    (one spawner).me.fl ≠ Fol.owes ∧
    (one spawner).cur.slot < 16 ∧
    (one spawner).me.intrap = false ∧
    512 ≤ BitVec.toNat ((one spawner).rg 5) :=
  ⟨by rfl,
    by decide +kernel⟩

theorem test_meets_migration_mgown :
    Quiet at_mgown ∧
    at_mgown.me.fl ≠ Fol.follower ∧
    at_mgown.me.fl ≠ Fol.owes ∧
    at_mgown.cur.slot < 16 ∧
    at_mgown.me.intrap = false ∧
    BitVec.toNat (at_mgown.rg 12) = at_mgown.cur.core ∧
    at_mgown.cur.core < 512 ∧
    MayMove at_mgown :=
  ⟨by rfl,
    by decide +kernel,
    by decide +kernel,
    by decide +kernel,
    (by decide +kernel),
    by decide +kernel,
    by decide +kernel,
    by (unfold Sys2Proof.Claims.MayMove; decide +kernel)⟩

theorem test_meets_migration_mgbusy :
    Quiet at_mgbusy ∧
    at_mgbusy.me.fl ≠ Fol.follower ∧
    at_mgbusy.me.fl ≠ Fol.owes ∧
    at_mgbusy.cur.slot < 16 ∧
    at_mgbusy.me.intrap = false ∧
    BitVec.toNat (at_mgbusy.rg 4) < 512 ∧
    (¬MayMove at_mgbusy) :=
  ⟨by rfl,
    by decide +kernel,
    by decide +kernel,
    by decide +kernel,
    (by decide +kernel),
    by decide +kernel,
    by (unfold Sys2Proof.Claims.MayMove; decide +kernel)⟩

theorem test_meets_migration_mgbusyo :
    Quiet at_mgbusy ∧
    at_mgbusy.me.fl ≠ Fol.follower ∧
    at_mgbusy.me.fl ≠ Fol.owes ∧
    at_mgbusy.cur.slot < 16 ∧
    at_mgbusy.me.intrap = false ∧
    BitVec.toNat (at_mgbusy.rg 12) < 512 ∧
    (¬MayMove at_mgbusy) :=
  ⟨by rfl,
    by decide +kernel,
    by decide +kernel,
    by decide +kernel,
    (by decide +kernel),
    by decide +kernel,
    by (unfold Sys2Proof.Claims.MayMove; decide +kernel)⟩

theorem test_meets_migration_mg :
    Quiet at_mgown ∧
    at_mgown.me.fl ≠ Fol.follower ∧
    at_mgown.me.fl ≠ Fol.owes ∧
    at_mgown.cur.slot < 16 ∧
    at_mgown.me.intrap = false ∧
    BitVec.toNat (at_mgown.rg 4) < 512 ∧
    BitVec.toNat (at_mgown.rg 4) ≠ at_mgown.cur.core ∧
    MayMove at_mgown ∧
    at_mgown.me.fl = Fol.none :=
  ⟨by rfl,
    by decide +kernel,
    by decide +kernel,
    by decide +kernel,
    (by decide +kernel),
    by decide +kernel,
    by decide +kernel,
    by (unfold Sys2Proof.Claims.MayMove; decide +kernel),
    by decide +kernel⟩

theorem test_meets_migration_mgfol :
    at_mgfol.me.fl = Fol.follower :=
  by decide +kernel

theorem test_meets_migration_msend :
    Moving (moveS false none slot1Free) (move1 false none) ∧
    (move1 false none).sent = false ∧
    ((moveS false none slot1Free).strand (move1 false none).src (move1 false none).slot).traps = [] ∧
    ((moveS false none slot1Free).strand (move1 false none).src (move1 false none).slot).outs = [] ∧
    ((List.all ((moveS false none slot1Free).core (move1 false none).src).journal fun (x : Nat × JEnt) => !x.2.v || decide (x.2.slot ≠ (move1 false none).slot)) = true) :=
  ⟨by rfl,
    by decide +kernel⟩

theorem test_meets_migration_marr :
    Moving (moveS true none slot1Free) (move1 true none) ∧
    (move1 true none).sent = true ∧
    (move1 true none).ok = none ∧
    ((moveS true none slot1Free).core (move1 true none).dst).fwd = none ∧
    LowestFree (moveS true none slot1Free) (move1 true none).dst 1 ∧
    (moveS true none slot1Free).inHoods ((moveS true none slot1Free).strand (move1 true none).src (move1 true none).slot).job (move1 true none).dst = true ∧
    (moveS true none slot1Free).opens (move1 true none).dst = true ∧
    (¬(move1 true none).src = (move1 true none).dst) :=
  ⟨by rfl,
    by decide +kernel,
    by decide +kernel,
    by decide +kernel,
    by (unfold Sys2Proof.Claims.LowestFree; decide +kernel),
    by decide +kernel⟩

theorem test_meets_migration_marrn :
    Moving (moveS true none noneFree) (move1 true none) ∧
    (move1 true none).sent = true ∧
    (move1 true none).ok = none ∧
    ((moveS true none noneFree).core (move1 true none).dst).fwd = none ∧
    ((moveS true none noneFree).inHoods ((moveS true none noneFree).strand (move1 true none).src (move1 true none).slot).job (move1 true none).dst = false ∨ (moveS true none noneFree).opens (move1 true none).dst = false ∨ ∀ n < 16, ((moveS true none noneFree).strand (move1 true none).dst n).st ≠ SlotSt.free) :=
  ⟨by rfl,
    by decide +kernel⟩

theorem test_meets_migration_macc :
    Moving (moveS true (some true) slot1Free) (move1 true (some true)) ∧
    (move1 true (some true)).ok = some true :=
  ⟨by rfl,
    by decide +kernel⟩

theorem test_meets_migration_mref :
    Moving (moveS true (some false) slot1Free) (move1 true (some false)) ∧
    (move1 true (some false)).ok = some false :=
  ⟨by rfl,
    by decide +kernel⟩

/-! ### StrandGroup -/

theorem test_meets_strandGroup_sg0m :
    Quiet slot16S :=
  by rfl

/-- What the witness of `lpw` runs on. -/
def at_lpw := { jobLive with launches := [(0, ⟨⟨5, false, false, false⟩, 1, [2], some (0, .one [0x1000000000009])⟩)] }

/-- What the witness of `lpl` runs on. -/
def at_lpl := { jobLive with launches := [(0, ⟨⟨5, false, false, false⟩, 1, [], some (0, .one [0x1000000000009])⟩)] }

/-- What the witness of `u16` runs on. -/
def at_u16 := { slot16S with jobs := [(1, jobLive)] }

/-- What the witness of `u0b` runs on. -/
def at_u0b := (unitS { jobLive with launches := [(0, ⟨⟨5, true, true, true⟩, 1, [], none⟩)] })

/-- What the witness of `u0b` runs on. -/
def at_u0b_2 := { jobLive with launches := [(0, ⟨⟨5, true, true, true⟩, 1, [], none⟩)] }

/-! ### Launches -/

theorem test_meets_launches_lal :
    BitVec.toNat ((launchS []).rg 2) % 8 ≠ 0 :=
  by decide +kernel

theorem test_meets_launches_lbad :
    BitVec.toNat ((launchS (launchDesc 4 5 1 0 (2 ^ 52))).rg 1) % 8 = 0 ∧
    (launchS (launchDesc 4 5 1 0 (2 ^ 52))).words ((launchS (launchDesc 4 5 1 0 (2 ^ 52))).rg 1) 8 = Except.ok (launchS (launchDesc 4 5 1 0 (2 ^ 52)), launchDesc 4 5 1 0 (2 ^ 52)) ∧
    (launchS (launchDesc 4 5 1 0 (2 ^ 52))).job? (launchS (launchDesc 4 5 1 0 (2 ^ 52))).me.job = some jobLive ∧
    (launchS (launchDesc 4 5 1 0 (2 ^ 52))).cur.core < 512 ∧
    (field ((launchDesc 4 5 1 0 (2 ^ 52)).getD 0 0) 61 3 ≠ 0 ∨ field ((launchDesc 4 5 1 0 (2 ^ 52)).getD 2 0) 52 12 ≠ 0) :=
  by decide +kernel

theorem test_meets_launches_lhood :
    BitVec.toNat ((launchS (launchDesc 4 5 1 511 0)).rg 1) % 8 = 0 ∧
    (launchS (launchDesc 4 5 1 511 0)).words ((launchS (launchDesc 4 5 1 511 0)).rg 1) 8 = Except.ok (launchS (launchDesc 4 5 1 511 0), launchDesc 4 5 1 511 0) ∧
    (launchS (launchDesc 4 5 1 511 0)).job? (launchS (launchDesc 4 5 1 511 0)).me.job = some jobLive ∧
    (launchS (launchDesc 4 5 1 511 0)).cur.core < 512 ∧
    field ((launchDesc 4 5 1 511 0).getD 0 0) 61 3 = 0 ∧
    field ((launchDesc 4 5 1 511 0).getD 2 0) 52 12 = 0 ∧
    (launchS (launchDesc 4 5 1 511 0)).inHoods (launchS (launchDesc 4 5 1 511 0)).me.job (field ((launchDesc 4 5 1 511 0).getD 0 0) 52 9) = false :=
  by decide +kernel

theorem test_meets_launches_lown :
    BitVec.toNat ((launchS (launchDesc 4 5 1 0 0)).rg 1) % 8 = 0 ∧
    (launchS (launchDesc 4 5 1 0 0)).words ((launchS (launchDesc 4 5 1 0 0)).rg 1) 8 = Except.ok (launchS (launchDesc 4 5 1 0 0), launchDesc 4 5 1 0 0) ∧
    (launchS (launchDesc 4 5 1 0 0)).job? (launchS (launchDesc 4 5 1 0 0)).me.job = some jobLive ∧
    (launchS (launchDesc 4 5 1 0 0)).cur.core < 512 ∧
    field ((launchDesc 4 5 1 0 0).getD 0 0) 61 3 = 0 ∧
    field ((launchDesc 4 5 1 0 0).getD 2 0) 52 12 = 0 ∧
    (launchS (launchDesc 4 5 1 0 0)).inHoods (launchS (launchDesc 4 5 1 0 0)).me.job (field ((launchDesc 4 5 1 0 0).getD 0 0) 52 9) = true ∧
    (launchS (launchDesc 4 5 1 0 0)).relStill = false ∧
    1 < 4096 ∧
    jobLive.launch? 1 = none ∧
    (∀ n < 1, jobLive.launch? n ≠ none) ∧
    field ((launchDesc 4 5 1 0 0).getD 0 0) 0 32 ≠ 0 ∧
    field ((launchDesc 4 5 1 0 0).getD 0 0) 52 9 = (launchS (launchDesc 4 5 1 0 0)).cur.core ∧
    (∀ (n : Nat), ¬Awaited jobLive (launchDesc 4 5 1 0 0) n) ∧
    (launchS (launchDesc 4 5 1 0 0)).mine.deque.length < 256 :=
  ⟨by decide +kernel,
    by decide +kernel,
    by decide +kernel,
    (by decide +kernel),
    by decide +kernel,
    by decide +kernel,
    by decide +kernel,
    (by decide +kernel),
    by decide +kernel,
    by decide +kernel,
    by decide +kernel,
    (by decide +kernel),
    by decide +kernel,
    by (rintro n ⟨i, hi, h, -⟩; revert h; revert i; decide +kernel),
    by decide +kernel⟩

theorem test_meets_launches_lown2 :
    BitVec.toNat ((launchS (launchDesc 4 5 9 0 (2 ^ 48))).rg 1) % 8 = 0 ∧
    (launchS (launchDesc 4 5 9 0 (2 ^ 48))).words ((launchS (launchDesc 4 5 9 0 (2 ^ 48))).rg 1) 8 = Except.ok (launchS (launchDesc 4 5 9 0 (2 ^ 48)), launchDesc 4 5 9 0 (2 ^ 48)) ∧
    (launchS (launchDesc 4 5 9 0 (2 ^ 48))).job? (launchS (launchDesc 4 5 9 0 (2 ^ 48))).me.job = some jobLive ∧
    (launchS (launchDesc 4 5 9 0 (2 ^ 48))).cur.core < 512 ∧
    field ((launchDesc 4 5 9 0 (2 ^ 48)).getD 0 0) 61 3 = 0 ∧
    field ((launchDesc 4 5 9 0 (2 ^ 48)).getD 2 0) 52 12 = 0 ∧
    (launchS (launchDesc 4 5 9 0 (2 ^ 48))).inHoods (launchS (launchDesc 4 5 9 0 (2 ^ 48))).me.job (field ((launchDesc 4 5 9 0 (2 ^ 48)).getD 0 0) 52 9) = true ∧
    (launchS (launchDesc 4 5 9 0 (2 ^ 48))).relStill = false ∧
    1 < 4096 ∧
    jobLive.launch? 1 = none ∧
    (∀ n < 1, jobLive.launch? n ≠ none) ∧
    field ((launchDesc 4 5 9 0 (2 ^ 48)).getD 0 0) 0 32 ≠ 0 ∧
    field ((launchDesc 4 5 9 0 (2 ^ 48)).getD 0 0) 52 9 = (launchS (launchDesc 4 5 9 0 (2 ^ 48))).cur.core ∧
    (∀ (n : Nat), ¬Awaited jobLive (launchDesc 4 5 9 0 (2 ^ 48)) n) ∧
    (launchS (launchDesc 4 5 9 0 (2 ^ 48))).mine.deque.length < 256 :=
  ⟨by decide +kernel,
    by decide +kernel,
    by decide +kernel,
    (by decide +kernel),
    by decide +kernel,
    by decide +kernel,
    by decide +kernel,
    (by decide +kernel),
    by decide +kernel,
    by decide +kernel,
    by decide +kernel,
    (by decide +kernel),
    by decide +kernel,
    by (rintro n ⟨i, hi, h, rfl, h3⟩; revert h3; revert h; revert i; decide +kernel),
    by decide +kernel⟩

theorem test_meets_launches_lwait :
    BitVec.toNat ((launchS (launchDesc 4 5 1 0 (2 ^ 48))).rg 1) % 8 = 0 ∧
    (launchS (launchDesc 4 5 1 0 (2 ^ 48))).words ((launchS (launchDesc 4 5 1 0 (2 ^ 48))).rg 1) 8 = Except.ok (launchS (launchDesc 4 5 1 0 (2 ^ 48)), launchDesc 4 5 1 0 (2 ^ 48)) ∧
    (launchS (launchDesc 4 5 1 0 (2 ^ 48))).job? (launchS (launchDesc 4 5 1 0 (2 ^ 48))).me.job = some jobLive ∧
    (launchS (launchDesc 4 5 1 0 (2 ^ 48))).cur.core < 512 ∧
    field ((launchDesc 4 5 1 0 (2 ^ 48)).getD 0 0) 61 3 = 0 ∧
    field ((launchDesc 4 5 1 0 (2 ^ 48)).getD 2 0) 52 12 = 0 ∧
    (launchS (launchDesc 4 5 1 0 (2 ^ 48))).inHoods (launchS (launchDesc 4 5 1 0 (2 ^ 48))).me.job (field ((launchDesc 4 5 1 0 (2 ^ 48)).getD 0 0) 52 9) = true ∧
    (launchS (launchDesc 4 5 1 0 (2 ^ 48))).relStill = false ∧
    1 < 4096 ∧
    jobLive.launch? 1 = none ∧
    (∀ n < 1, jobLive.launch? n ≠ none) ∧
    field ((launchDesc 4 5 1 0 (2 ^ 48)).getD 0 0) 0 32 ≠ 0 ∧
    (field ((launchDesc 4 5 1 0 (2 ^ 48)).getD 0 0) 52 9 ≠ (launchS (launchDesc 4 5 1 0 (2 ^ 48))).cur.core ∨ ∃ (n : Nat), Awaited jobLive (launchDesc 4 5 1 0 (2 ^ 48)) n) :=
  ⟨by decide +kernel,
    by decide +kernel,
    by decide +kernel,
    (by decide +kernel),
    by decide +kernel,
    by decide +kernel,
    by decide +kernel,
    (by decide +kernel),
    by decide +kernel,
    by decide +kernel,
    by decide +kernel,
    (by decide +kernel),
    by (right; exact ⟨0, ⟨0, by decide, by decide, by decide, by decide⟩⟩)⟩

theorem test_meets_launches_lother :
    BitVec.toNat ((launchS (launchDesc 4 5 1 3 0)).rg 1) % 8 = 0 ∧
    (launchS (launchDesc 4 5 1 3 0)).words ((launchS (launchDesc 4 5 1 3 0)).rg 1) 8 = Except.ok (launchS (launchDesc 4 5 1 3 0), launchDesc 4 5 1 3 0) ∧
    (launchS (launchDesc 4 5 1 3 0)).job? (launchS (launchDesc 4 5 1 3 0)).me.job = some jobLive ∧
    (launchS (launchDesc 4 5 1 3 0)).cur.core < 512 ∧
    field ((launchDesc 4 5 1 3 0).getD 0 0) 61 3 = 0 ∧
    field ((launchDesc 4 5 1 3 0).getD 2 0) 52 12 = 0 ∧
    (launchS (launchDesc 4 5 1 3 0)).inHoods (launchS (launchDesc 4 5 1 3 0)).me.job (field ((launchDesc 4 5 1 3 0).getD 0 0) 52 9) = true ∧
    (launchS (launchDesc 4 5 1 3 0)).relStill = false ∧
    1 < 4096 ∧
    jobLive.launch? 1 = none ∧
    (∀ n < 1, jobLive.launch? n ≠ none) ∧
    field ((launchDesc 4 5 1 3 0).getD 0 0) 0 32 ≠ 0 ∧
    (field ((launchDesc 4 5 1 3 0).getD 0 0) 52 9 ≠ (launchS (launchDesc 4 5 1 3 0)).cur.core ∨ ∃ (n : Nat), Awaited jobLive (launchDesc 4 5 1 3 0) n) :=
  ⟨by decide +kernel,
    by decide +kernel,
    by decide +kernel,
    (by decide +kernel),
    by decide +kernel,
    by decide +kernel,
    by decide +kernel,
    (by decide +kernel),
    by decide +kernel,
    by decide +kernel,
    by decide +kernel,
    (by decide +kernel),
    by (constructor <;> first | decide +kernel | rfl)⟩

theorem test_meets_launches_lempty :
    BitVec.toNat ((launchS (launchDesc 0 5 1 3 0)).rg 1) % 8 = 0 ∧
    (launchS (launchDesc 0 5 1 3 0)).words ((launchS (launchDesc 0 5 1 3 0)).rg 1) 8 = Except.ok (launchS (launchDesc 0 5 1 3 0), launchDesc 0 5 1 3 0) ∧
    (launchS (launchDesc 0 5 1 3 0)).job? (launchS (launchDesc 0 5 1 3 0)).me.job = some jobLive ∧
    (launchS (launchDesc 0 5 1 3 0)).cur.core < 512 ∧
    field ((launchDesc 0 5 1 3 0).getD 0 0) 61 3 = 0 ∧
    field ((launchDesc 0 5 1 3 0).getD 2 0) 52 12 = 0 ∧
    (launchS (launchDesc 0 5 1 3 0)).inHoods (launchS (launchDesc 0 5 1 3 0)).me.job (field ((launchDesc 0 5 1 3 0).getD 0 0) 52 9) = true ∧
    (launchS (launchDesc 0 5 1 3 0)).relStill = false ∧
    1 < 4096 ∧
    jobLive.launch? 1 = none ∧
    (∀ n < 1, jobLive.launch? n ≠ none) ∧
    field ((launchDesc 0 5 1 3 0).getD 0 0) 0 32 = 0 ∧
    jobLive.graph? (field ((launchDesc 0 5 1 3 0).getD 0 0) 44 8) = some { ctr := { count := 2, done := false, canc := false, err := false : Counter }, phase := 1 : Machine.Graph } ∧
    { ctr := { count := 2, done := false, canc := false, err := false : Counter }, phase := 1 : Machine.Graph }.ctr.done = false ∧
    1 ≤ { ctr := { count := 2, done := false, canc := false, err := false : Counter }, phase := 1 : Machine.Graph }.ctr.count :=
  by decide +kernel

theorem test_meets_launches_lpw :
    (placeS [2]).job? 1 = some at_lpw ∧
    at_lpw.launch? 0 = some { ctr := { count := 5, done := false, canc := false, err := false : Counter }, graph := 1, waits := [2], entry := some (0, DqEnt.one [281474976710665]) : Launch } ∧
    { ctr := { count := 5, done := false, canc := false, err := false : Counter }, graph := 1, waits := [2], entry := some (0, DqEnt.one [281474976710665]) : Launch }.entry = some (0, DqEnt.one [281474976710665]) ∧
    { ctr := { count := 5, done := false, canc := false, err := false : Counter }, graph := 1, waits := [2], entry := some (0, DqEnt.one [281474976710665]) : Launch }.waits ≠ [] :=
  by decide +kernel

theorem test_meets_launches_lpl :
    (placeS []).job? 1 = some at_lpl ∧
    at_lpl.launch? 0 = some { ctr := { count := 5, done := false, canc := false, err := false : Counter }, graph := 1, waits := [], entry := some (0, DqEnt.one [281474976710665]) : Launch } ∧
    { ctr := { count := 5, done := false, canc := false, err := false : Counter }, graph := 1, waits := [], entry := some (0, DqEnt.one [281474976710665]) : Launch }.entry = some (0, DqEnt.one [281474976710665]) ∧
    { ctr := { count := 5, done := false, canc := false, err := false : Counter }, graph := 1, waits := [], entry := some (0, DqEnt.one [281474976710665]) : Launch }.waits = [] ∧
    (placeS []).preempts = [] ∧
    ((placeS []).core 0).fwd = none ∧
    (placeS []).shut 0 = false ∧
    BitVec.ofNat 16 (field (entryHdr (DqEnt.one [281474976710665])) 48 16) = (placeS []).coreJob 0 ∧
    (∀ (x : Counter), (placeS []).counter? ((placeS []).coreJob 0) Level.launch (field (entryHdr (DqEnt.one [281474976710665])) 12 12) = some x → x.canc = false) ∧
    ((placeS []).core 0).deque.length < 256 ∧
    ((placeS []).opens 0 = false ∨ (∀ n < 16, ((placeS []).strand 0 n).st ≠ SlotSt.free) ∨ ((placeS []).core 0).deque = []) :=
  by decide +kernel

/-! ### Units -/

theorem test_meets_units_u16 :
    at_u16.job? at_u16.me.job = some jobLive ∧
    Quiet at_u16 ∧
    16 ≤ at_u16.cur.slot :=
  ⟨by decide +kernel,
    by rfl,
    by decide +kernel⟩

theorem test_meets_units_ubad :
    (unitS jobLive).job? (unitS jobLive).me.job = some jobLive ∧
    Quiet (unitS jobLive) ∧
    Claims.unitOf jobLive ((unitS jobLive).rg 5) = none :=
  ⟨by decide +kernel,
    by rfl,
    by decide +kernel⟩

theorem test_meets_units_u0a :
    (unitS jobLive).job? (unitS jobLive).me.job = some jobLive ∧
    Quiet (unitS jobLive) ∧
    Claims.unitOf jobLive ((unitS jobLive).rg 1) = some (Level.launch, 2) :=
  ⟨by decide +kernel,
    by rfl,
    by decide +kernel⟩

theorem test_meets_units_u0b :
    at_u0b.job? at_u0b.me.job = some at_u0b_2 ∧
    Quiet at_u0b ∧
    Claims.unitOf at_u0b_2 (at_u0b.rg 8) = some (Level.launch, 0) ∧
    at_u0b.cur.slot < 16 ∧
    (∀ (x : Counter), at_u0b_2.counter? Level.launch 0 = some x → x.done = true) :=
  ⟨by decide +kernel,
    by rfl,
    by decide +kernel⟩

theorem test_meets_units_u0c :
    at_u0b.job? at_u0b.me.job = some at_u0b_2 ∧
    Quiet at_u0b ∧
    Claims.unitOf at_u0b_2 (at_u0b.rg 1) = some (Level.launch, 2) ∧
    at_u0b.cur.slot < 16 ∧
    (∀ (x : Counter), at_u0b_2.counter? Level.launch 2 = some x → x.done = true) :=
  ⟨by decide +kernel,
    by rfl,
    by decide +kernel⟩

theorem test_meets_units_u0d :
    (unitS jobLive).job? (unitS jobLive).me.job = some jobLive ∧
    Quiet (unitS jobLive) ∧
    Claims.unitOf jobLive ((unitS jobLive).rg 3) = some (Level.phase, 1) ∧
    (unitS jobLive).cur.slot < 16 ∧
    (∃ (x : Counter), jobLive.counter? Level.phase 1 = some x ∧ x.done = false) :=
  ⟨by decide +kernel,
    by rfl,
    by decide +kernel⟩

theorem test_meets_units_u0e :
    (unitS jobLive).job? (unitS jobLive).me.job = some jobLive ∧
    Quiet (unitS jobLive) ∧
    Claims.unitOf jobLive ((unitS jobLive).rg 4) = some (Level.job, 0) ∧
    (unitS jobLive).split = true :=
  ⟨by decide +kernel,
    by rfl,
    by decide +kernel⟩

theorem test_meets_units_upb :
    (unitS jobLive).job? (unitS jobLive).me.job = some jobLive ∧
    Quiet (unitS jobLive) ∧
    2 ≤ BitVec.toNat ((unitS jobLive).rg 5) :=
  ⟨by decide +kernel,
    by rfl,
    by decide +kernel⟩

theorem test_meets_units_upe :
    (unitS jobLive).job? (unitS jobLive).me.job = some jobLive ∧
    Quiet (unitS jobLive) ∧
    BitVec.toNat ((unitS jobLive).rg 7) < 2 ∧
    Calm (unitS jobLive) ∧
    jobLive.phase? jobLive.phase = some { ctr := Counter.start 3, closed := false, cls := true : Phase } ∧
    { ctr := Counter.start 3, closed := false, cls := true : Phase }.ctr.done = false ∧
    1 ≤ { ctr := Counter.start 3, closed := false, cls := true : Phase }.ctr.count ∧
    1 ≤ jobLive.ctr.count :=
  ⟨by decide +kernel,
    by rfl,
    by decide +kernel,
    by (constructor <;> first | decide +kernel | rfl),
    by decide +kernel⟩

theorem test_meets_units_upl :
    (unitS jobLast).job? (unitS jobLast).me.job = some jobLast ∧
    Quiet (unitS jobLast) ∧
    BitVec.toNat ((unitS jobLast).rg 8) < 2 ∧
    Calm (unitS jobLast) ∧
    jobLast.phase? jobLast.phase = some { ctr := Counter.start 1, closed := false, cls := true : Phase } ∧
    { ctr := Counter.start 1, closed := false, cls := true : Phase }.ctr.done = false ∧
    1 ≤ { ctr := Counter.start 1, closed := false, cls := true : Phase }.ctr.count ∧
    1 ≤ jobLast.ctr.count :=
  ⟨by decide +kernel,
    by rfl,
    by decide +kernel,
    by (constructor <;> first | decide +kernel | rfl),
    by decide +kernel⟩

/-! ### CounterEvents -/

theorem test_meets_counterEvents_ceinc :
    (ctrS CountEv.inc { count := 5, done := false, canc := true, err := false : Counter }).counter? 1 Level.launch 2 = some { ctr := { count := 5, done := false, canc := true, err := false : Counter }, graph := 1, waits := [], entry := none : Launch }.ctr ∧
    ((((ctrS CountEv.inc { count := 5, done := false, canc := true, err := false : Counter }).job? 1).bind fun (j : Job) => j.launch? 2) = some { ctr := { count := 5, done := false, canc := true, err := false : Counter }, graph := 1, waits := [], entry := none : Launch }) ∧
    { ctr := { count := 5, done := false, canc := true, err := false : Counter }, graph := 1, waits := [], entry := none : Launch }.ctr.done = false ∧
    (ctrS CountEv.inc { count := 5, done := false, canc := true, err := false : Counter }).ctrs.contains { job := 1, lv := Level.launch, n := 2, ev := CountEv.inc : CtrMsg } = true :=
  by decide +kernel

theorem test_meets_counterEvents_ceinc2 :
    (ctrS CountEv.inc { count := 5, done := false, canc := false, err := false : Counter }).counter? 1 Level.launch 2 = some { ctr := { count := 5, done := false, canc := false, err := false : Counter }, graph := 1, waits := [], entry := none : Launch }.ctr ∧
    ((((ctrS CountEv.inc { count := 5, done := false, canc := false, err := false : Counter }).job? 1).bind fun (j : Job) => j.launch? 2) = some { ctr := { count := 5, done := false, canc := false, err := false : Counter }, graph := 1, waits := [], entry := none : Launch }) ∧
    { ctr := { count := 5, done := false, canc := false, err := false : Counter }, graph := 1, waits := [], entry := none : Launch }.ctr.done = false ∧
    (ctrS CountEv.inc { count := 5, done := false, canc := false, err := false : Counter }).ctrs.contains { job := 1, lv := Level.launch, n := 2, ev := CountEv.inc : CtrMsg } = true :=
  by decide +kernel

theorem test_meets_counterEvents_cedec :
    (ctrS CountEv.decErr { count := 5, done := false, canc := false, err := false : Counter }).counter? 1 Level.launch 2 = some { ctr := { count := 5, done := false, canc := false, err := false : Counter }, graph := 1, waits := [], entry := none : Launch }.ctr ∧
    ((((ctrS CountEv.decErr { count := 5, done := false, canc := false, err := false : Counter }).job? 1).bind fun (j : Job) => j.launch? 2) = some { ctr := { count := 5, done := false, canc := false, err := false : Counter }, graph := 1, waits := [], entry := none : Launch }) ∧
    { ctr := { count := 5, done := false, canc := false, err := false : Counter }, graph := 1, waits := [], entry := none : Launch }.ctr.done = false ∧
    (ctrS CountEv.decErr { count := 5, done := false, canc := false, err := false : Counter }).ctrs.contains { job := 1, lv := Level.launch, n := 2, ev := if true = true then CountEv.decErr else CountEv.dec : CtrMsg } = true ∧
    2 ≤ { ctr := { count := 5, done := false, canc := false, err := false : Counter }, graph := 1, waits := [], entry := none : Launch }.ctr.count :=
  by decide +kernel

theorem test_meets_counterEvents_celast :
    (ctrS CountEv.decErr { count := 1, done := false, canc := false, err := false : Counter }).counter? 1 Level.launch 2 = some { ctr := { count := 1, done := false, canc := false, err := false : Counter }, graph := 1, waits := [], entry := none : Launch }.ctr ∧
    ((((ctrS CountEv.decErr { count := 1, done := false, canc := false, err := false : Counter }).job? 1).bind fun (j : Job) => j.launch? 2) = some { ctr := { count := 1, done := false, canc := false, err := false : Counter }, graph := 1, waits := [], entry := none : Launch }) ∧
    { ctr := { count := 1, done := false, canc := false, err := false : Counter }, graph := 1, waits := [], entry := none : Launch }.ctr.done = false ∧
    (ctrS CountEv.decErr { count := 1, done := false, canc := false, err := false : Counter }).ctrs.contains { job := 1, lv := Level.launch, n := 2, ev := if true = true then CountEv.decErr else CountEv.dec : CtrMsg } = true ∧
    { ctr := { count := 1, done := false, canc := false, err := false : Counter }, graph := 1, waits := [], entry := none : Launch }.ctr.count = 1 ∧
    (ctrS CountEv.decErr { count := 1, done := false, canc := false, err := false : Counter }).counter? 1 Level.graph { ctr := { count := 1, done := false, canc := false, err := false : Counter }, graph := 1, waits := [], entry := none : Launch }.graph = some { count := 2, done := false, canc := false, err := false : Counter } ∧
    { count := 2, done := false, canc := false, err := false : Counter }.done = false ∧
    2 ≤ { count := 2, done := false, canc := false, err := false : Counter }.count :=
  by decide +kernel

theorem test_meets_counterEvents_celast2 :
    (ctrS CountEv.dec { count := 1, done := false, canc := true, err := false : Counter }).counter? 1 Level.launch 2 = some { ctr := { count := 1, done := false, canc := true, err := false : Counter }, graph := 1, waits := [], entry := none : Launch }.ctr ∧
    ((((ctrS CountEv.dec { count := 1, done := false, canc := true, err := false : Counter }).job? 1).bind fun (j : Job) => j.launch? 2) = some { ctr := { count := 1, done := false, canc := true, err := false : Counter }, graph := 1, waits := [], entry := none : Launch }) ∧
    { ctr := { count := 1, done := false, canc := true, err := false : Counter }, graph := 1, waits := [], entry := none : Launch }.ctr.done = false ∧
    (ctrS CountEv.dec { count := 1, done := false, canc := true, err := false : Counter }).ctrs.contains { job := 1, lv := Level.launch, n := 2, ev := if false = true then CountEv.decErr else CountEv.dec : CtrMsg } = true ∧
    { ctr := { count := 1, done := false, canc := true, err := false : Counter }, graph := 1, waits := [], entry := none : Launch }.ctr.count = 1 ∧
    (ctrS CountEv.dec { count := 1, done := false, canc := true, err := false : Counter }).counter? 1 Level.graph { ctr := { count := 1, done := false, canc := true, err := false : Counter }, graph := 1, waits := [], entry := none : Launch }.graph = some { count := 2, done := false, canc := false, err := false : Counter } ∧
    { count := 2, done := false, canc := false, err := false : Counter }.done = false ∧
    2 ≤ { count := 2, done := false, canc := false, err := false : Counter }.count :=
  by decide +kernel

theorem test_meets_counterEvents_cecan :
    (ctrS CountEv.cancel { count := 5, done := false, canc := false, err := false : Counter }).counter? 1 Level.launch 2 = some { ctr := { count := 5, done := false, canc := false, err := false : Counter }, graph := 1, waits := [], entry := none : Launch }.ctr ∧
    ((((ctrS CountEv.cancel { count := 5, done := false, canc := false, err := false : Counter }).job? 1).bind fun (j : Job) => j.launch? 2) = some { ctr := { count := 5, done := false, canc := false, err := false : Counter }, graph := 1, waits := [], entry := none : Launch }) ∧
    { ctr := { count := 5, done := false, canc := false, err := false : Counter }, graph := 1, waits := [], entry := none : Launch }.ctr.done = false ∧
    (ctrS CountEv.cancel { count := 5, done := false, canc := false, err := false : Counter }).ctrs.contains { job := 1, lv := Level.launch, n := 2, ev := CountEv.cancel : CtrMsg } = true ∧
    { ctr := { count := 5, done := false, canc := false, err := false : Counter }, graph := 1, waits := [], entry := none : Launch }.ctr.canc = false ∧
    (ctrS CountEv.cancel { count := 5, done := false, canc := false, err := false : Counter }).split = true :=
  by decide +kernel

theorem test_meets_counterEvents_cecan2 :
    (ctrS CountEv.cancel { count := 5, done := false, canc := true, err := false : Counter }).counter? 1 Level.launch 2 = some { ctr := { count := 5, done := false, canc := true, err := false : Counter }, graph := 1, waits := [], entry := none : Launch }.ctr ∧
    ((((ctrS CountEv.cancel { count := 5, done := false, canc := true, err := false : Counter }).job? 1).bind fun (j : Job) => j.launch? 2) = some { ctr := { count := 5, done := false, canc := true, err := false : Counter }, graph := 1, waits := [], entry := none : Launch }) ∧
    { ctr := { count := 5, done := false, canc := true, err := false : Counter }, graph := 1, waits := [], entry := none : Launch }.ctr.done = false ∧
    (ctrS CountEv.cancel { count := 5, done := false, canc := true, err := false : Counter }).ctrs.contains { job := 1, lv := Level.launch, n := 2, ev := CountEv.cancel : CtrMsg } = true ∧
    { ctr := { count := 5, done := false, canc := true, err := false : Counter }, graph := 1, waits := [], entry := none : Launch }.ctr.canc = true :=
  by decide +kernel

/-- What the witness of `j1` runs on. -/
def at_j1 := (msS { ent1 with fail := true, cause := 0x15, v := false, sz := 2 } msUser)

/-- What the witness of `msdonep` runs on. -/
def at_msdonep := (one { msUser with pfail := true })

/-- What the witness of `wgb` runs on. -/
def at_wgb := { jobLive with grants := [(0, grant1), (1, { grant1 with revoked := false })] }

/-- What the witness of `wgf` runs on. -/
def at_wgf := { jobLive with grants := (List.range 480).map fun i => (i, grant1) }

/-- What the witness of `wack` runs on. -/
def at_wack := (grantWait { grant1 with acked := false } (.wingrant 1 6 0))

/-- What the witness of `wack` runs on. -/
def at_wack_2 := { grant1 with acked := false }

/-- What the witness of `wrc` runs on. -/
def at_wrc := (grantWait { grant1 with revoked := true } (.winrev 1))

/-- What the witness of `wrc` runs on. -/
def at_wrc_2 := { grant1 with revoked := true }

/-- What the witness of `msr3` runs on. -/
def at_msr3 := (msS ent1 { msUser with intrap := true })

/-- What the witness of `msr0` runs on. -/
def at_msr0 := (msS ent1 { msUser with regs := { Regs.zero with g := [(7, 0x77040)] } })

/-- What the witness of `xcw` runs on. -/
def at_xcw := { pageWait (.xlinv 1 0x200000 0x210000) with sealedAt := [(9, 1, 0x20), (9, 2, 0x20)] }

/-- What the witness of `xca` runs on. -/
def at_xca := { pageWait (.xlinv 1 0x200000 0x210000) with acks := [(8, 1, 0x20)] }

/-! ### JournalAndMustSave -/

theorem test_meets_journalAndMustSave_jb :
    Quiet (msS ent1 msUser) ∧
    64 ≤ BitVec.toNat ((msS ent1 msUser).rg 2) :=
  ⟨by rfl,
    by decide +kernel⟩

theorem test_meets_journalAndMustSave_j1 :
    Quiet at_j1 ∧
    BitVec.toNat (at_j1.rg 1) < 64 :=
  ⟨by rfl,
    by decide +kernel⟩

theorem test_meets_journalAndMustSave_msr :
    Quiet (msS ent1 msUser) ∧
    (BitVec.toNat ((msS ent1 msUser).rg 5) % 64 ≠ 0 ∨ BitVec.toNat ((msS ent1 msUser).rg 4) % 64 ≠ 0 ∨ 2 ^ 48 ≤ BitVec.toNat ((msS ent1 msUser).rg 5) ∨ 2 ^ 48 < BitVec.toNat ((msS ent1 msUser).rg 5) + BitVec.toNat ((msS ent1 msUser).rg 4) ∨ 16 ≤ (msS ent1 msUser).cur.slot ∨ (msS ent1 msUser).me.intrap = true ∨ (msS ent1 msUser).brim.st ≠ BrimSt.idle ∨ 96 * 2 ^ 20 < (msS ent1 msUser).brim.budget - (msS ent1 msUser).mine.mslen.toNat + BitVec.toNat ((msS ent1 msUser).rg 4) ∨ BitVec.toNat ((msS ent1 msUser).rg 4) ≠ 0 ∧ ∃ (g : Nat), BitVec.toNat ((msS ent1 msUser).rg 5) / 2 ^ 16 ≤ g ∧ g * 2 ^ 16 < BitVec.toNat ((msS ent1 msUser).rg 5) + BitVec.toNat ((msS ent1 msUser).rg 4) ∧ ∀ (pa : Nat) (ty : PageTy) (shut : Bool) (ver : BitVec 16) (pte tag : Nat), ((msS ent1 msUser).translate (msS ent1 msUser).agent (g * 2 ^ 16) Need.load).2 ≠ Tr.ok pa ty shut ver pte tag) :=
  ⟨by rfl,
    by (constructor <;> first | decide +kernel | rfl)⟩

theorem test_meets_journalAndMustSave_msr2 :
    Quiet (msS ent1 msUser) ∧
    (BitVec.toNat ((msS ent1 msUser).rg 4) % 64 ≠ 0 ∨ BitVec.toNat ((msS ent1 msUser).rg 4) % 64 ≠ 0 ∨ 2 ^ 48 ≤ BitVec.toNat ((msS ent1 msUser).rg 4) ∨ 2 ^ 48 < BitVec.toNat ((msS ent1 msUser).rg 4) + BitVec.toNat ((msS ent1 msUser).rg 4) ∨ 16 ≤ (msS ent1 msUser).cur.slot ∨ (msS ent1 msUser).me.intrap = true ∨ (msS ent1 msUser).brim.st ≠ BrimSt.idle ∨ 96 * 2 ^ 20 < (msS ent1 msUser).brim.budget - (msS ent1 msUser).mine.mslen.toNat + BitVec.toNat ((msS ent1 msUser).rg 4) ∨ BitVec.toNat ((msS ent1 msUser).rg 4) ≠ 0 ∧ ∃ (g : Nat), BitVec.toNat ((msS ent1 msUser).rg 4) / 2 ^ 16 ≤ g ∧ g * 2 ^ 16 < BitVec.toNat ((msS ent1 msUser).rg 4) + BitVec.toNat ((msS ent1 msUser).rg 4) ∧ ∀ (pa : Nat) (ty : PageTy) (shut : Bool) (ver : BitVec 16) (pte tag : Nat), ((msS ent1 msUser).translate (msS ent1 msUser).agent (g * 2 ^ 16) Need.load).2 ≠ Tr.ok pa ty shut ver pte tag) :=
  ⟨by rfl,
    by (exact Or.inr (Or.inr (Or.inr (Or.inr (Or.inr (Or.inr (Or.inr (Or.inr (⟨by decide +kernel, 0, by decide +kernel, by decide +kernel, by intros; intro h; cases h⟩)))))))))⟩

theorem test_meets_journalAndMustSave_msd :
    Quiet (msS ent1 msUser) ∧
    BitVec.toNat ((msS ent1 msUser).rg 3) % 64 = 0 ∧
    BitVec.toNat ((msS ent1 msUser).rg 4) % 64 = 0 ∧
    BitVec.toNat ((msS ent1 msUser).rg 3) < 2 ^ 48 ∧
    BitVec.toNat ((msS ent1 msUser).rg 3) + BitVec.toNat ((msS ent1 msUser).rg 4) ≤ 2 ^ 48 ∧
    (msS ent1 msUser).cur.slot < 16 ∧
    (msS ent1 msUser).me.intrap = false ∧
    (msS ent1 msUser).brim.st = BrimSt.idle ∧
    (msS ent1 msUser).brim.budget - (msS ent1 msUser).mine.mslen.toNat + BitVec.toNat ((msS ent1 msUser).rg 4) ≤ 96 * 2 ^ 20 ∧
    (BitVec.toNat ((msS ent1 msUser).rg 4) ≠ 0 → ∀ (g : Nat), BitVec.toNat ((msS ent1 msUser).rg 3) / 2 ^ 16 ≤ g → g * 2 ^ 16 < BitVec.toNat ((msS ent1 msUser).rg 3) + BitVec.toNat ((msS ent1 msUser).rg 4) → ∃ (pa : Nat) (ty : PageTy) (shut : Bool) (ver : BitVec 16) (pte : Nat) (tag : Nat), ((msS ent1 msUser).translate (msS ent1 msUser).agent (g * 2 ^ 16) Need.load).2 = Tr.ok pa ty shut ver pte tag) :=
  ⟨by rfl,
    by decide +kernel,
    by decide +kernel,
    by decide +kernel,
    (by decide +kernel),
    by decide +kernel,
    by decide +kernel,
    by decide +kernel,
    (by decide +kernel),
    by (intro _ g h1 h2; have h3 : g = 0x20 := by { have e3 : BitVec.toNat ((msS ent1 msUser).rg 3) = 0x200040 := by { decide +kernel }; have e4 : BitVec.toNat ((msS ent1 msUser).rg 4) = 0x40 := by { decide +kernel }; omega }; subst h3; exact ⟨0x40000, .sc, false, 0, 0, 7, by decide +kernel⟩)⟩

theorem test_meets_journalAndMustSave_msd0 :
    Quiet (msS ent1 msUser) ∧
    BitVec.toNat ((msS ent1 msUser).rg 3) % 64 = 0 ∧
    BitVec.toNat ((msS ent1 msUser).rg 6) % 64 = 0 ∧
    BitVec.toNat ((msS ent1 msUser).rg 3) < 2 ^ 48 ∧
    BitVec.toNat ((msS ent1 msUser).rg 3) + BitVec.toNat ((msS ent1 msUser).rg 6) ≤ 2 ^ 48 ∧
    (msS ent1 msUser).cur.slot < 16 ∧
    (msS ent1 msUser).me.intrap = false ∧
    (msS ent1 msUser).brim.st = BrimSt.idle ∧
    (msS ent1 msUser).brim.budget - (msS ent1 msUser).mine.mslen.toNat + BitVec.toNat ((msS ent1 msUser).rg 6) ≤ 96 * 2 ^ 20 ∧
    (BitVec.toNat ((msS ent1 msUser).rg 6) ≠ 0 → ∀ (g : Nat), BitVec.toNat ((msS ent1 msUser).rg 3) / 2 ^ 16 ≤ g → g * 2 ^ 16 < BitVec.toNat ((msS ent1 msUser).rg 3) + BitVec.toNat ((msS ent1 msUser).rg 6) → ∃ (pa : Nat) (ty : PageTy) (shut : Bool) (ver : BitVec 16) (pte : Nat) (tag : Nat), ((msS ent1 msUser).translate (msS ent1 msUser).agent (g * 2 ^ 16) Need.load).2 = Tr.ok pa ty shut ver pte tag) :=
  ⟨by rfl,
    by decide +kernel,
    by decide +kernel,
    by decide +kernel,
    (by decide +kernel),
    by decide +kernel,
    by decide +kernel,
    by decide +kernel,
    (by decide +kernel),
    by (intro h; exact absurd (by decide +kernel) h)⟩

theorem test_meets_journalAndMustSave_msdone :
    Quiet (msS ent1 msUser) ∧
    (msS ent1 msUser).me.pfail = false :=
  ⟨by rfl,
    by decide +kernel⟩

theorem test_meets_journalAndMustSave_msdonep :
    Quiet at_msdonep ∧
    at_msdonep.me.pfail = true ∧
    Calm at_msdonep :=
  ⟨by rfl,
    by decide +kernel,
    by (constructor <;> first | decide +kernel | rfl)⟩

/-! ### PageChanges -/

theorem test_meets_pageChanges_xib :
    Quiet (one pageUser) ∧
    (one pageUser).me.sup = true ∧
    2 ^ 18 ≤ BitVec.toNat ((one pageUser).rg 3) :=
  ⟨by rfl,
    by decide +kernel⟩

theorem test_meets_pageChanges_xi :
    Quiet (one pageUser) ∧
    (one pageUser).me.sup = true ∧
    BitVec.toNat ((one pageUser).rg 2) < 2 ^ 18 ∧
    Calm (one pageUser) :=
  ⟨by rfl,
    by decide +kernel,
    by decide +kernel,
    by (constructor <;> first | decide +kernel | rfl)⟩

theorem test_meets_pageChanges_asb :
    Quiet (one pageUser) ∧
    (one pageUser).me.sup = true ∧
    (4 ≤ BitVec.toNat ((one pageUser).rg 5) ∨ ¬(field ((one pageUser).rg 6) 48 16 = 57344 ∧ field ((one pageUser).rg 6) 0 16 = 0 ∧ field ((one pageUser).rg 6) 0 48 < 412316860416)) :=
  ⟨by rfl,
    by decide +kernel⟩

theorem test_meets_pageChanges_as :
    Quiet (one pageUser) ∧
    (one pageUser).me.sup = true ∧
    BitVec.toNat ((one pageUser).rg 5) = PageTy.wo.code ∧
    field ((one pageUser).rg 4) 48 16 = 57344 ∧
    field ((one pageUser).rg 4) 0 16 = 0 ∧
    field ((one pageUser).rg 4) 0 48 < 412316860416 :=
  ⟨by rfl,
    by decide +kernel⟩

theorem test_meets_pageChanges_seb :
    2 ^ 61 ≤ BitVec.toNat ((one pageUser).rg 7) ∧
    BitVec.toNat ((one pageUser).rg 7) < 2 ^ 63 :=
  by decide +kernel

theorem test_meets_pageChanges_set :
    BitVec.toNat ((virtS pageUser).rg 1) < 2 ^ 48 ∧
    (virtS pageUser).translate (virtS pageUser).agent (BitVec.toNat ((virtS pageUser).rg 1)) Need.seal = (virtS pageUser, Tr.ok 262160 PageTy.sc false 0 0 7) ∧
    PageTy.sc ≠ PageTy.wo :=
  by decide +kernel

theorem test_meets_pageChanges_ses :
    BitVec.toNat ((tabled pageUser 458973).rg 1) < 2 ^ 48 ∧
    (tabled pageUser 458973).translate (tabled pageUser 458973).agent (BitVec.toNat ((tabled pageUser 458973).rg 1)) Need.seal = (((tabled pageUser 458973).translate (tabled pageUser 458973).agent 2097168 Need.seal).1, Tr.ok 458768 PageTy.wo true 0 393216 0) ∧
    PageTy.wo = PageTy.wo ∧
    true = true :=
  by decide +kernel

theorem test_meets_pageChanges_se :
    BitVec.toNat ((tabled pageUser 458909).rg 1) < 2 ^ 48 ∧
    (tabled pageUser 458909).translate (tabled pageUser 458909).agent (BitVec.toNat ((tabled pageUser 458909).rg 1)) Need.seal = (((tabled pageUser 458909).translate (tabled pageUser 458909).agent 2097168 Need.seal).1, Tr.ok 458768 PageTy.wo false 0 393216 0) ∧
    PageTy.wo = PageTy.wo ∧
    false = false ∧
    ((tabled pageUser 458909).translate (tabled pageUser 458909).agent 2097168 Need.seal).1.walkJob ((tabled pageUser 458909).translate (tabled pageUser 458909).agent 2097168 Need.seal).1.mine.jtbase ((tabled pageUser 458909).translate (tabled pageUser 458909).agent 2097168 Need.seal).1.me.job (BitVec.toNat ((tabled pageUser 458909).rg 1)) = Except.ok (458909, 0, 393216) ∧
    Calm ((tabled pageUser 458909).translate (tabled pageUser 458909).agent 2097168 Need.seal).1 :=
  ⟨by decide +kernel,
    by decide +kernel,
    by decide +kernel,
    (by decide +kernel),
    by decide +kernel,
    by (constructor <;> first | decide +kernel | rfl)⟩

theorem test_meets_pageChanges_xc :
    ((pageWait (Wait.xlinv 1 2097152 2162688)).strand 0 0).outs = [] ∧
    ((pageWait (Wait.xlinv 1 2097152 2162688)).strand 0 0).st = SlotSt.waiting (Wait.xlinv 1 2097152 2162688) ∧
    (∀ x ∈ (pageWait (Wait.xlinv 1 2097152 2162688)).acks ++ (pageWait (Wait.xlinv 1 2097152 2162688)).sealedAt, ¬InSpan 1 2097152 2162688 x) :=
  ⟨by decide +kernel,
    by decide +kernel,
    by (unfold Sys2Proof.Claims.InSpan; decide +kernel)⟩

theorem test_meets_pageChanges_ac :
    ((pageWait (Wait.attrset 0 7 PageTy.rc)).strand 0 0).outs = [] ∧
    ((pageWait (Wait.attrset 0 7 PageTy.rc)).strand 0 0).st = SlotSt.waiting (Wait.attrset 0 7 PageTy.rc) ∧
    7 < 6291456 :=
  by decide +kernel

theorem test_meets_pageChanges_ac0 :
    ((pageBare (Wait.attrset 0 7 PageTy.rc)).strand 0 0).outs = [] ∧
    ((pageBare (Wait.attrset 0 7 PageTy.rc)).strand 0 0).st = SlotSt.waiting (Wait.attrset 0 7 PageTy.rc) ∧
    7 < 6291456 :=
  by decide +kernel

theorem test_meets_pageChanges_sc :
    ((pageBare (Wait.sealing 2097168 393216 458752 524288)).strand 0 0).outs = [] ∧
    ((pageBare (Wait.sealing 2097168 393216 458752 524288)).strand 0 0).st = SlotSt.waiting (Wait.sealing 2097168 393216 458752 524288) ∧
    (pageBare (Wait.sealing 2097168 393216 458752 524288)).storesTo 458752 524288 = false ∧
    NoLines (pageBare (Wait.sealing 2097168 393216 458752 524288)) ∧
    (BitVec.ofNat 64 ((pageBare (Wait.sealing 2097168 393216 458752 524288)).mem.read 393216 8)).getLsbD 6 = false :=
  ⟨by decide +kernel,
    by decide +kernel,
    by decide +kernel,
    by (unfold Claims.NoLines; decide +kernel),
    by decide +kernel⟩

theorem test_meets_pageChanges_fc :
    ((pageWait (Wait.flush 458880 459008 true Scope.twr)).strand 0 0).outs = [] ∧
    ((pageWait (Wait.flush 458880 459008 true Scope.twr)).strand 0 0).st = SlotSt.waiting (Wait.flush 458880 459008 true Scope.twr) ∧
    ((List.all ((pageWait (Wait.flush 458880 459008 true Scope.twr)).core 0).journal fun (x : Nat × JEnt) => !x.2.v || decide (x.2.slot ≠ 0)) = true) :=
  by decide +kernel

/-! ### WindowGrants -/

theorem test_meets_windowGrants_wga :
    BitVec.toNat ((grantS []).rg 2) % 8 ≠ 0 :=
  by decide +kernel

theorem test_meets_windowGrants_wgb :
    BitVec.toNat ((grantS (grantDesc 65536 131073 9 5 5)).rg 1) % 8 = 0 ∧
    (grantS (grantDesc 65536 131073 9 5 5)).words ((grantS (grantDesc 65536 131073 9 5 5)).rg 1) 4 = Except.ok (grantS (grantDesc 65536 131073 9 5 5), grantDesc 65536 131073 9 5 5) ∧
    (grantS (grantDesc 65536 131073 9 5 5)).job? (grantS (grantDesc 65536 131073 9 5 5)).me.job = some at_wgb ∧
    (¬GoodGrant (grantDesc 65536 131073 9 5 5)) :=
  ⟨by decide +kernel,
    by decide +kernel,
    by decide +kernel,
    by (unfold Sys2Proof.Claims.GoodGrant; decide +kernel)⟩

theorem test_meets_windowGrants_wgf :
    BitVec.toNat (grantFull.rg 1) % 8 = 0 ∧
    grantFull.words (grantFull.rg 1) 4 = Except.ok (grantFull, grantDesc 65536 131072 9 5 5) ∧
    grantFull.job? grantFull.me.job = some at_wgf ∧
    GoodGrant (grantDesc 65536 131072 9 5 5) ∧
    (∀ i < 480, i ∈ List.map Prod.fst at_wgf.grants) :=
  ⟨by decide +kernel,
    by decide +kernel,
    by decide +kernel,
    by (unfold Sys2Proof.Claims.GoodGrant; decide +kernel),
    by decide +kernel⟩

theorem test_meets_windowGrants_wg :
    BitVec.toNat ((grantS (grantDesc 65536 131072 9 5 5)).rg 1) % 8 = 0 ∧
    (grantS (grantDesc 65536 131072 9 5 5)).words ((grantS (grantDesc 65536 131072 9 5 5)).rg 1) 4 = Except.ok (grantS (grantDesc 65536 131072 9 5 5), grantDesc 65536 131072 9 5 5) ∧
    (grantS (grantDesc 65536 131072 9 5 5)).job? (grantS (grantDesc 65536 131072 9 5 5)).me.job = some at_wgb ∧
    GoodGrant (grantDesc 65536 131072 9 5 5) ∧
    2 < 480 ∧
    2 ∉ List.map Prod.fst at_wgb.grants ∧
    (∀ k < 2, k ∈ List.map Prod.fst at_wgb.grants) :=
  ⟨by decide +kernel,
    by decide +kernel,
    by decide +kernel,
    by (unfold Sys2Proof.Claims.GoodGrant; decide +kernel),
    by decide +kernel⟩

theorem test_meets_windowGrants_wrb :
    Quiet (grantS []) ∧
    2 ^ 12 ≤ BitVec.toNat ((grantS []).rg 4) :=
  ⟨by rfl,
    by decide +kernel⟩

theorem test_meets_windowGrants_wrn :
    Quiet (grantS []) ∧
    BitVec.toNat ((grantS []).rg 5) < 2 ^ 12 ∧
    (grantS []).grant? (grantS []).me.job (BitVec.toNat ((grantS []).rg 5)) = none :=
  ⟨by rfl,
    by decide +kernel⟩

theorem test_meets_windowGrants_wr :
    Quiet (grantS []) ∧
    BitVec.toNat ((grantS []).rg 3) < 2 ^ 12 ∧
    (grantS []).grant? (grantS []).me.job (BitVec.toNat ((grantS []).rg 3)) = some grant1 ∧
    grant1.revoked = false :=
  ⟨by rfl,
    by decide +kernel⟩

theorem test_meets_windowGrants_wack :
    at_wack.grant? 1 1 = some at_wack_2 ∧
    at_wack.deaf = false ∧
    at_wack_2.acked = false :=
  by decide +kernel

theorem test_meets_windowGrants_wrc :
    at_wrc.grant? 1 1 = some at_wrc_2 ∧
    at_wrc.deaf = false ∧
    at_wrc_2.revoked = true :=
  by decide +kernel

/-! ### JournalAndMustSave -/

theorem test_meets_journalAndMustSave_msr3 :
    Quiet at_msr3 ∧
    (BitVec.toNat (at_msr3.rg 3) % 64 ≠ 0 ∨ BitVec.toNat (at_msr3.rg 2) % 64 ≠ 0 ∨ 2 ^ 48 ≤ BitVec.toNat (at_msr3.rg 3) ∨ 2 ^ 48 < BitVec.toNat (at_msr3.rg 3) + BitVec.toNat (at_msr3.rg 2) ∨ 16 ≤ at_msr3.cur.slot ∨ at_msr3.me.intrap = true ∨ at_msr3.brim.st ≠ BrimSt.idle ∨ 96 * 2 ^ 20 < at_msr3.brim.budget - at_msr3.mine.mslen.toNat + BitVec.toNat (at_msr3.rg 2) ∨ BitVec.toNat (at_msr3.rg 2) ≠ 0 ∧ ∃ (g : Nat), BitVec.toNat (at_msr3.rg 3) / 2 ^ 16 ≤ g ∧ g * 2 ^ 16 < BitVec.toNat (at_msr3.rg 3) + BitVec.toNat (at_msr3.rg 2) ∧ ∀ (pa : Nat) (ty : PageTy) (shut : Bool) (ver : BitVec 16) (pte tag : Nat), (at_msr3.translate at_msr3.agent (g * 2 ^ 16) Need.load).2 ≠ Tr.ok pa ty shut ver pte tag) :=
  ⟨by rfl,
    by exact Or.inr (Or.inr (Or.inr (Or.inr (Or.inr (Or.inl (by decide +kernel))))))⟩

theorem test_meets_journalAndMustSave_msr0 :
    Quiet at_msr0 ∧
    BitVec.toNat (at_msr0.rg 7) % 64 = 0 ∧
    BitVec.toNat (at_msr0.rg 6) % 64 = 0 ∧
    BitVec.toNat (at_msr0.rg 7) < 2 ^ 48 ∧
    BitVec.toNat (at_msr0.rg 7) + BitVec.toNat (at_msr0.rg 6) ≤ 2 ^ 48 ∧
    at_msr0.cur.slot < 16 ∧
    at_msr0.me.intrap = false ∧
    at_msr0.brim.st = BrimSt.idle ∧
    at_msr0.brim.budget - at_msr0.mine.mslen.toNat + BitVec.toNat (at_msr0.rg 6) ≤ 96 * 2 ^ 20 ∧
    (BitVec.toNat (at_msr0.rg 6) ≠ 0 → ∀ (g : Nat), BitVec.toNat (at_msr0.rg 7) / 2 ^ 16 ≤ g → g * 2 ^ 16 < BitVec.toNat (at_msr0.rg 7) + BitVec.toNat (at_msr0.rg 6) → ∃ (pa : Nat) (ty : PageTy) (shut : Bool) (ver : BitVec 16) (pte : Nat) (tag : Nat), (at_msr0.translate at_msr0.agent (g * 2 ^ 16) Need.load).2 = Tr.ok pa ty shut ver pte tag) :=
  ⟨by rfl,
    by decide +kernel,
    by decide +kernel,
    by decide +kernel,
    (by decide +kernel),
    by decide +kernel,
    by decide +kernel,
    by decide +kernel,
    (by decide +kernel),
    by (intro h; exact absurd (by decide +kernel) h)⟩

/-! ### PageChanges -/

theorem test_meets_pageChanges_xcw :
    (at_xcw.strand 0 0).outs = [] ∧
    (at_xcw.strand 0 0).st = SlotSt.waiting (Wait.xlinv 1 2097152 2162688) ∧
    (∃ x ∈ at_xcw.acks ++ at_xcw.sealedAt, InSpan 1 2097152 2162688 x) :=
  ⟨by decide +kernel,
    by decide +kernel,
    by (unfold Sys2Proof.Claims.InSpan; decide +kernel)⟩

theorem test_meets_pageChanges_xca :
    (at_xca.strand 0 0).outs = [] ∧
    (at_xca.strand 0 0).st = SlotSt.waiting (Wait.xlinv 1 2097152 2162688) ∧
    (∃ x ∈ at_xca.acks ++ at_xca.sealedAt, InSpan 1 2097152 2162688 x) :=
  ⟨by decide +kernel,
    by decide +kernel,
    by (unfold Sys2Proof.Claims.InSpan; decide +kernel)⟩

end Sys2Proof.Tests
end

