-- ==== Sys2Proof/Tests/MeetsVector.lean ====
section
/-! SUPPORT. For each clause of the statements about the vector, matrix and wale instructions: a state and operands that meet all its hypotheses. -/

set_option maxRecDepth 100000
set_option Elab.async false
set_option linter.unusedTactic false
set_option linter.unusedVariables false
set_option linter.unreachableTactic false
set_option linter.unnecessarySeqFocus false

open Sys2Proof Sys2Proof.Machine Sys2Proof.Claims

namespace Sys2Proof.Tests

/-- What the witness of `lease` runs on. -/
def at_lease := (one { vuser with vl := false })

/-- What the witness of `redff32sr` runs on. -/
def at_redff32sr := (one { vuser with frm := .sr })

/-- What the witness of `vfaddf32rne` runs on. -/
def at_vfaddf32rne := (one { vuser with frm := .rne })

/-- What the witness of `vfaddf32rdn` runs on. -/
def at_vfaddf32rdn := (one { vuser with frm := .rdn })

/-! ### VectorIntegers -/

theorem test_meets_vectorIntegers_vaddi8 :
    (intForm (Instr.vadd 6 1 2 1 IntTy.i8) = some (6, 1, 2, 1, IntTy.i8, fun (x : Nat) (x_1 y : BitVec x) => x_1 + y)) ∧
    (Instr.vadd 6 1 2 1 IntTy.i8).wf = true ∧
    Quiet (one vuser) ∧
    Leased (one vuser) :=
  ⟨by rfl,
    by decide +kernel,
    by rfl,
    by (unfold Sys2Proof.Claims.Leased; decide +kernel)⟩

theorem test_meets_vectorIntegers_vaddu64 :
    (intForm (Instr.vadd 6 1 2 1 IntTy.n64) = some (6, 1, 2, 1, IntTy.n64, fun (x : Nat) (x_1 y : BitVec x) => x_1 + y)) ∧
    (Instr.vadd 6 1 2 1 IntTy.n64).wf = true ∧
    Quiet (one vuser) ∧
    Leased (one vuser) :=
  ⟨by rfl,
    by decide +kernel,
    by rfl,
    by (unfold Sys2Proof.Claims.Leased; decide +kernel)⟩

theorem test_meets_vectorIntegers_vsubi8 :
    (intForm (Instr.vsub 6 1 2 1 IntTy.i8) = some (6, 1, 2, 1, IntTy.i8, fun (x : Nat) (x_1 y : BitVec x) => x_1 - y)) ∧
    (Instr.vsub 6 1 2 1 IntTy.i8).wf = true ∧
    Quiet (one vuser) ∧
    Leased (one vuser) :=
  ⟨by rfl,
    by decide +kernel,
    by rfl,
    by (unfold Sys2Proof.Claims.Leased; decide +kernel)⟩

theorem test_meets_vectorIntegers_vsubu64 :
    (intForm (Instr.vsub 6 1 2 1 IntTy.n64) = some (6, 1, 2, 1, IntTy.n64, fun (x : Nat) (x_1 y : BitVec x) => x_1 - y)) ∧
    (Instr.vsub 6 1 2 1 IntTy.n64).wf = true ∧
    Quiet (one vuser) ∧
    Leased (one vuser) :=
  ⟨by rfl,
    by decide +kernel,
    by rfl,
    by (unfold Sys2Proof.Claims.Leased; decide +kernel)⟩

theorem test_meets_vectorIntegers_vmuli8 :
    (intForm (Instr.vmul 6 1 2 1 IntTy.i8) = some (6, 1, 2, 1, IntTy.i8, fun (x : Nat) (x_1 y : BitVec x) => x_1 * y)) ∧
    (Instr.vmul 6 1 2 1 IntTy.i8).wf = true ∧
    Quiet (one vuser) ∧
    Leased (one vuser) :=
  ⟨by rfl,
    by decide +kernel,
    by rfl,
    by (unfold Sys2Proof.Claims.Leased; decide +kernel)⟩

theorem test_meets_vectorIntegers_vmulu64 :
    (intForm (Instr.vmul 6 1 2 1 IntTy.n64) = some (6, 1, 2, 1, IntTy.n64, fun (x : Nat) (x_1 y : BitVec x) => x_1 * y)) ∧
    (Instr.vmul 6 1 2 1 IntTy.n64).wf = true ∧
    Quiet (one vuser) ∧
    Leased (one vuser) :=
  ⟨by rfl,
    by decide +kernel,
    by rfl,
    by (unfold Sys2Proof.Claims.Leased; decide +kernel)⟩

theorem test_meets_vectorIntegers_vmulhi16 :
    (intForm (Instr.vmulh 6 1 2 1 IntTy.i16) = some (6, 1, 2, 1, IntTy.i16, fun (w : Nat) (x y : BitVec w) => if signedTy IntTy.i16 = true then BitVec.setWidth w ((BitVec.signExtend (2 * w) x * BitVec.signExtend (2 * w) y) >>> w) else BitVec.setWidth w ((BitVec.zeroExtend (2 * w) x * BitVec.zeroExtend (2 * w) y) >>> w))) ∧
    (Instr.vmulh 6 1 2 1 IntTy.i16).wf = true ∧
    Quiet (one vuser) ∧
    Leased (one vuser) :=
  ⟨by rfl,
    by decide +kernel,
    by rfl,
    by (unfold Sys2Proof.Claims.Leased; decide +kernel)⟩

theorem test_meets_vectorIntegers_vmulhu8 :
    (intForm (Instr.vmulh 6 1 2 1 IntTy.n8) = some (6, 1, 2, 1, IntTy.n8, fun (w : Nat) (x y : BitVec w) => if signedTy IntTy.n8 = true then BitVec.setWidth w ((BitVec.signExtend (2 * w) x * BitVec.signExtend (2 * w) y) >>> w) else BitVec.setWidth w ((BitVec.zeroExtend (2 * w) x * BitVec.zeroExtend (2 * w) y) >>> w))) ∧
    (Instr.vmulh 6 1 2 1 IntTy.n8).wf = true ∧
    Quiet (one vuser) ∧
    Leased (one vuser) :=
  ⟨by rfl,
    by decide +kernel,
    by rfl,
    by (unfold Sys2Proof.Claims.Leased; decide +kernel)⟩

theorem test_meets_vectorIntegers_vmini8 :
    (intForm (Instr.vmin 6 1 2 1 IntTy.i8) = some (6, 1, 2, 1, IntTy.i8, fun (x : Nat) (x_1 y : BitVec x) => if if signedTy IntTy.i8 = true then x_1.toInt ≤ y.toInt else x_1.toNat ≤ y.toNat then x_1 else y)) ∧
    (Instr.vmin 6 1 2 1 IntTy.i8).wf = true ∧
    Quiet (one vuser) ∧
    Leased (one vuser) :=
  ⟨by rfl,
    by decide +kernel,
    by rfl,
    by (unfold Sys2Proof.Claims.Leased; decide +kernel)⟩

theorem test_meets_vectorIntegers_vminu64 :
    (intForm (Instr.vmin 6 1 2 1 IntTy.n64) = some (6, 1, 2, 1, IntTy.n64, fun (x : Nat) (x_1 y : BitVec x) => if if signedTy IntTy.n64 = true then x_1.toInt ≤ y.toInt else x_1.toNat ≤ y.toNat then x_1 else y)) ∧
    (Instr.vmin 6 1 2 1 IntTy.n64).wf = true ∧
    Quiet (one vuser) ∧
    Leased (one vuser) :=
  ⟨by rfl,
    by decide +kernel,
    by rfl,
    by (unfold Sys2Proof.Claims.Leased; decide +kernel)⟩

theorem test_meets_vectorIntegers_vmaxi8 :
    (intForm (Instr.vmax 6 1 2 1 IntTy.i8) = some (6, 1, 2, 1, IntTy.i8, fun (x : Nat) (x_1 y : BitVec x) => if if signedTy IntTy.i8 = true then x_1.toInt ≤ y.toInt else x_1.toNat ≤ y.toNat then y else x_1)) ∧
    (Instr.vmax 6 1 2 1 IntTy.i8).wf = true ∧
    Quiet (one vuser) ∧
    Leased (one vuser) :=
  ⟨by rfl,
    by decide +kernel,
    by rfl,
    by (unfold Sys2Proof.Claims.Leased; decide +kernel)⟩

theorem test_meets_vectorIntegers_vmaxu64 :
    (intForm (Instr.vmax 6 1 2 1 IntTy.n64) = some (6, 1, 2, 1, IntTy.n64, fun (x : Nat) (x_1 y : BitVec x) => if if signedTy IntTy.n64 = true then x_1.toInt ≤ y.toInt else x_1.toNat ≤ y.toNat then y else x_1)) ∧
    (Instr.vmax 6 1 2 1 IntTy.n64).wf = true ∧
    Quiet (one vuser) ∧
    Leased (one vuser) :=
  ⟨by rfl,
    by decide +kernel,
    by rfl,
    by (unfold Sys2Proof.Claims.Leased; decide +kernel)⟩

theorem test_meets_vectorIntegers_vshli8 :
    (intForm (Instr.vshl 6 1 2 1 IntTy.i8) = some (6, 1, 2, 1, IntTy.i8, fun (w : Nat) (x y : BitVec w) => x <<< (y.toNat % w))) ∧
    (Instr.vshl 6 1 2 1 IntTy.i8).wf = true ∧
    Quiet (one vuser) ∧
    Leased (one vuser) :=
  ⟨by rfl,
    by decide +kernel,
    by rfl,
    by (unfold Sys2Proof.Claims.Leased; decide +kernel)⟩

theorem test_meets_vectorIntegers_vshlu64 :
    (intForm (Instr.vshl 6 1 2 1 IntTy.n64) = some (6, 1, 2, 1, IntTy.n64, fun (w : Nat) (x y : BitVec w) => x <<< (y.toNat % w))) ∧
    (Instr.vshl 6 1 2 1 IntTy.n64).wf = true ∧
    Quiet (one vuser) ∧
    Leased (one vuser) :=
  ⟨by rfl,
    by decide +kernel,
    by rfl,
    by (unfold Sys2Proof.Claims.Leased; decide +kernel)⟩

theorem test_meets_vectorIntegers_vshri8 :
    (intForm (Instr.vshr 6 1 2 1 IntTy.i8) = some (6, 1, 2, 1, IntTy.i8, fun (w : Nat) (x y : BitVec w) => x >>> (y.toNat % w))) ∧
    (Instr.vshr 6 1 2 1 IntTy.i8).wf = true ∧
    Quiet (one vuser) ∧
    Leased (one vuser) :=
  ⟨by rfl,
    by decide +kernel,
    by rfl,
    by (unfold Sys2Proof.Claims.Leased; decide +kernel)⟩

theorem test_meets_vectorIntegers_vshru64 :
    (intForm (Instr.vshr 6 1 2 1 IntTy.n64) = some (6, 1, 2, 1, IntTy.n64, fun (w : Nat) (x y : BitVec w) => x >>> (y.toNat % w))) ∧
    (Instr.vshr 6 1 2 1 IntTy.n64).wf = true ∧
    Quiet (one vuser) ∧
    Leased (one vuser) :=
  ⟨by rfl,
    by decide +kernel,
    by rfl,
    by (unfold Sys2Proof.Claims.Leased; decide +kernel)⟩

theorem test_meets_vectorIntegers_vsrai8 :
    (intForm (Instr.vsra 6 1 2 1 IntTy.i8) = some (6, 1, 2, 1, IntTy.i8, fun (w : Nat) (x y : BitVec w) => BitVec.ofInt w (x.toInt / 2 ^ (y.toNat % w)))) ∧
    (Instr.vsra 6 1 2 1 IntTy.i8).wf = true ∧
    Quiet (one vuser) ∧
    Leased (one vuser) :=
  ⟨by rfl,
    by decide +kernel,
    by rfl,
    by (unfold Sys2Proof.Claims.Leased; decide +kernel)⟩

theorem test_meets_vectorIntegers_vsrau64 :
    (intForm (Instr.vsra 6 1 2 1 IntTy.n64) = some (6, 1, 2, 1, IntTy.n64, fun (w : Nat) (x y : BitVec w) => BitVec.ofInt w (x.toInt / 2 ^ (y.toNat % w)))) ∧
    (Instr.vsra 6 1 2 1 IntTy.n64).wf = true ∧
    Quiet (one vuser) ∧
    Leased (one vuser) :=
  ⟨by rfl,
    by decide +kernel,
    by rfl,
    by (unfold Sys2Proof.Claims.Leased; decide +kernel)⟩

theorem test_meets_vectorIntegers_vabs :
    (intForm (Instr.vabs 6 1 1 IntTy.i16) = some (6, 1, 1, 1, IntTy.i16, fun (x : Nat) (x_1 x_2 : BitVec x) => if signedTy IntTy.i16 = true ∧ x_1.toInt < 0 then -x_1 else x_1)) ∧
    (Instr.vabs 6 1 1 IntTy.i16).wf = true ∧
    Quiet (one vuser) ∧
    Leased (one vuser) :=
  ⟨by rfl,
    by decide +kernel,
    by rfl,
    by (unfold Sys2Proof.Claims.Leased; decide +kernel)⟩

theorem test_meets_vectorIntegers_vneg :
    (intForm (Instr.vneg 6 1 0 IntTy.i4) = some (6, 1, 1, 0, IntTy.i4, fun (x : Nat) (x_1 x_2 : BitVec x) => -x_1)) ∧
    (Instr.vneg 6 1 0 IntTy.i4).wf = true ∧
    Quiet (one vuser) ∧
    Leased (one vuser) :=
  ⟨by rfl,
    by decide +kernel,
    by rfl,
    by (unfold Sys2Proof.Claims.Leased; decide +kernel)⟩

theorem test_meets_vectorIntegers_vxor :
    (intForm (Instr.vxor 1 1 2 1 IntTy.n32) = some (1, 1, 2, 1, IntTy.n32, fun (x : Nat) (x_1 y : BitVec x) => x_1 ^^^ y)) ∧
    (Instr.vxor 1 1 2 1 IntTy.n32).wf = true ∧
    Quiet (one vuser) ∧
    Leased (one vuser) :=
  ⟨by rfl,
    by decide +kernel,
    by rfl,
    by (unfold Sys2Proof.Claims.Leased; decide +kernel)⟩

/-! ### LeaseRequired -/

theorem test_meets_leaseRequired_lease :
    encode (Instr.vadd 6 1 2 1 IntTy.i8) = some 3233878272 ∧
    BitVec.toNat (3233878272 : BitVec 32) / 2 ^ 26 ∈ [48, 49, 50, 51, 52] ∧
    (Instr.vadd 6 1 2 1 IntTy.i8).wf = true ∧
    (¬Leased at_lease) :=
  ⟨by decide +kernel,
    by decide +kernel,
    by decide +kernel,
    by (unfold Claims.Leased; decide +kernel)⟩

/-! ### ComparesAndMasks -/

theorem test_meets_comparesAndMasks_vcmpeq :
    Quiet (one vuser) ∧
    Leased (one vuser) ∧
    2 ≠ 0 ∧
    IntTy.i8 ≠ IntTy.t2 :=
  ⟨by rfl,
    by (unfold Sys2Proof.Claims.Leased; decide +kernel),
    by decide +kernel⟩

theorem test_meets_comparesAndMasks_vfcmpeq :
    Quiet (one vuser) ∧
    Leased (one vuser) ∧
    2 ≠ 0 ∧
    FltTy.f32.isWide = true :=
  ⟨by rfl,
    by (unfold Sys2Proof.Claims.Leased; decide +kernel),
    by decide +kernel⟩

theorem test_meets_comparesAndMasks_vcmpne :
    Quiet (one vuser) ∧
    Leased (one vuser) ∧
    2 ≠ 0 ∧
    IntTy.i8 ≠ IntTy.t2 :=
  ⟨by rfl,
    by (unfold Sys2Proof.Claims.Leased; decide +kernel),
    by decide +kernel⟩

theorem test_meets_comparesAndMasks_vfcmpne :
    Quiet (one vuser) ∧
    Leased (one vuser) ∧
    2 ≠ 0 ∧
    FltTy.f32.isWide = true :=
  ⟨by rfl,
    by (unfold Sys2Proof.Claims.Leased; decide +kernel),
    by decide +kernel⟩

theorem test_meets_comparesAndMasks_vcmplt :
    Quiet (one vuser) ∧
    Leased (one vuser) ∧
    2 ≠ 0 ∧
    IntTy.i8 ≠ IntTy.t2 :=
  ⟨by rfl,
    by (unfold Sys2Proof.Claims.Leased; decide +kernel),
    by decide +kernel⟩

theorem test_meets_comparesAndMasks_vfcmplt :
    Quiet (one vuser) ∧
    Leased (one vuser) ∧
    2 ≠ 0 ∧
    FltTy.f32.isWide = true :=
  ⟨by rfl,
    by (unfold Sys2Proof.Claims.Leased; decide +kernel),
    by decide +kernel⟩

theorem test_meets_comparesAndMasks_vcmpge :
    Quiet (one vuser) ∧
    Leased (one vuser) ∧
    2 ≠ 0 ∧
    IntTy.i8 ≠ IntTy.t2 :=
  ⟨by rfl,
    by (unfold Sys2Proof.Claims.Leased; decide +kernel),
    by decide +kernel⟩

theorem test_meets_comparesAndMasks_vfcmpge :
    Quiet (one vuser) ∧
    Leased (one vuser) ∧
    2 ≠ 0 ∧
    FltTy.f32.isWide = true :=
  ⟨by rfl,
    by (unfold Sys2Proof.Claims.Leased; decide +kernel),
    by decide +kernel⟩

theorem test_meets_comparesAndMasks_vcmpu :
    Quiet (one vuser) ∧
    Leased (one vuser) ∧
    2 ≠ 0 ∧
    IntTy.n16 ≠ IntTy.t2 :=
  ⟨by rfl,
    by (unfold Sys2Proof.Claims.Leased; decide +kernel),
    by decide +kernel⟩

theorem test_meets_comparesAndMasks_vsel :
    Quiet (one vuser) ∧
    Leased (one vuser) :=
  ⟨by rfl,
    by (unfold Sys2Proof.Claims.Leased; decide +kernel)⟩

theorem test_meets_comparesAndMasks_kops :
    Quiet (one vuser) ∧
    Leased (one vuser) ∧
    2 ≠ 0 :=
  ⟨by rfl,
    by (unfold Sys2Proof.Claims.Leased; decide +kernel),
    by decide +kernel⟩

/-! ### VectorMoves -/

theorem test_meets_vectorMoves_movesi80 :
    Quiet (one vuser) ∧
    Leased (one vuser) :=
  ⟨by rfl,
    by (unfold Sys2Proof.Claims.Leased; decide +kernel)⟩

theorem test_meets_vectorMoves_movesi81 :
    Quiet (one vuser) ∧
    Leased (one vuser) :=
  ⟨by rfl,
    by (unfold Sys2Proof.Claims.Leased; decide +kernel)⟩

theorem test_meets_vectorMoves_movesi82 :
    Quiet (one vuser) ∧
    Leased (one vuser) :=
  ⟨by rfl,
    by (unfold Sys2Proof.Claims.Leased; decide +kernel)⟩

theorem test_meets_vectorMoves_movesi83 :
    Quiet (one vuser) ∧
    Leased (one vuser) :=
  ⟨by rfl,
    by (unfold Sys2Proof.Claims.Leased; decide +kernel)⟩

theorem test_meets_vectorMoves_movesi84 :
    Quiet (one vuser) ∧
    Leased (one vuser) :=
  ⟨by rfl,
    by (unfold Sys2Proof.Claims.Leased; decide +kernel)⟩

theorem test_meets_vectorMoves_movesi640 :
    Quiet (one vuser) ∧
    Leased (one vuser) :=
  ⟨by rfl,
    by (unfold Sys2Proof.Claims.Leased; decide +kernel)⟩

theorem test_meets_vectorMoves_movesi641 :
    Quiet (one vuser) ∧
    Leased (one vuser) :=
  ⟨by rfl,
    by (unfold Sys2Proof.Claims.Leased; decide +kernel)⟩

theorem test_meets_vectorMoves_movesi642 :
    Quiet (one vuser) ∧
    Leased (one vuser) :=
  ⟨by rfl,
    by (unfold Sys2Proof.Claims.Leased; decide +kernel)⟩

theorem test_meets_vectorMoves_movesi643 :
    Quiet (one vuser) ∧
    Leased (one vuser) :=
  ⟨by rfl,
    by (unfold Sys2Proof.Claims.Leased; decide +kernel)⟩

theorem test_meets_vectorMoves_movesi644 :
    Quiet (one vuser) ∧
    Leased (one vuser) :=
  ⟨by rfl,
    by (unfold Sys2Proof.Claims.Leased; decide +kernel)⟩

theorem test_meets_vectorMoves_movesu160 :
    Quiet (one vuser) ∧
    Leased (one vuser) :=
  ⟨by rfl,
    by (unfold Sys2Proof.Claims.Leased; decide +kernel)⟩

theorem test_meets_vectorMoves_movesu161 :
    Quiet (one vuser) ∧
    Leased (one vuser) :=
  ⟨by rfl,
    by (unfold Sys2Proof.Claims.Leased; decide +kernel)⟩

theorem test_meets_vectorMoves_movesu162 :
    Quiet (one vuser) ∧
    Leased (one vuser) :=
  ⟨by rfl,
    by (unfold Sys2Proof.Claims.Leased; decide +kernel)⟩

theorem test_meets_vectorMoves_movesu163 :
    Quiet (one vuser) ∧
    Leased (one vuser) :=
  ⟨by rfl,
    by (unfold Sys2Proof.Claims.Leased; decide +kernel)⟩

theorem test_meets_vectorMoves_movesu164 :
    Quiet (one vuser) ∧
    Leased (one vuser) :=
  ⟨by rfl,
    by (unfold Sys2Proof.Claims.Leased; decide +kernel)⟩

theorem test_meets_vectorMoves_movest20 :
    Quiet (one vuser) ∧
    Leased (one vuser) :=
  ⟨by rfl,
    by (unfold Sys2Proof.Claims.Leased; decide +kernel)⟩

theorem test_meets_vectorMoves_movest21 :
    Quiet (one vuser) ∧
    Leased (one vuser) :=
  ⟨by rfl,
    by (unfold Sys2Proof.Claims.Leased; decide +kernel)⟩

theorem test_meets_vectorMoves_movest22 :
    Quiet (one vuser) ∧
    Leased (one vuser) :=
  ⟨by rfl,
    by (unfold Sys2Proof.Claims.Leased; decide +kernel)⟩

theorem test_meets_vectorMoves_movest23 :
    Quiet (one vuser) ∧
    Leased (one vuser) :=
  ⟨by rfl,
    by (unfold Sys2Proof.Claims.Leased; decide +kernel)⟩

theorem test_meets_vectorMoves_movest24 :
    Quiet (one vuser) ∧
    Leased (one vuser) :=
  ⟨by rfl,
    by (unfold Sys2Proof.Claims.Leased; decide +kernel)⟩

theorem test_meets_vectorMoves_movesi40 :
    Quiet (one vuser) ∧
    Leased (one vuser) :=
  ⟨by rfl,
    by (unfold Sys2Proof.Claims.Leased; decide +kernel)⟩

theorem test_meets_vectorMoves_movesi41 :
    Quiet (one vuser) ∧
    Leased (one vuser) :=
  ⟨by rfl,
    by (unfold Sys2Proof.Claims.Leased; decide +kernel)⟩

theorem test_meets_vectorMoves_movesi42 :
    Quiet (one vuser) ∧
    Leased (one vuser) :=
  ⟨by rfl,
    by (unfold Sys2Proof.Claims.Leased; decide +kernel)⟩

theorem test_meets_vectorMoves_movesi43 :
    Quiet (one vuser) ∧
    Leased (one vuser) :=
  ⟨by rfl,
    by (unfold Sys2Proof.Claims.Leased; decide +kernel)⟩

theorem test_meets_vectorMoves_movesi44 :
    Quiet (one vuser) ∧
    Leased (one vuser) :=
  ⟨by rfl,
    by (unfold Sys2Proof.Claims.Leased; decide +kernel)⟩

theorem test_meets_vectorMoves_packi8 :
    Quiet (one vuser) ∧
    Leased (one vuser) ∧
    IntTy.i8.packs = true :=
  ⟨by rfl,
    by (unfold Sys2Proof.Claims.Leased; decide +kernel),
    by decide +kernel⟩

theorem test_meets_vectorMoves_packu16 :
    Quiet (one vuser) ∧
    Leased (one vuser) ∧
    IntTy.n16.packs = true :=
  ⟨by rfl,
    by (unfold Sys2Proof.Claims.Leased; decide +kernel),
    by decide +kernel⟩

theorem test_meets_vectorMoves_packt2 :
    Quiet (one vuser) ∧
    Leased (one vuser) ∧
    IntTy.t2.packs = true :=
  ⟨by rfl,
    by (unfold Sys2Proof.Claims.Leased; decide +kernel),
    by decide +kernel⟩

theorem test_meets_vectorMoves_packi4 :
    Quiet (one vuser) ∧
    Leased (one vuser) ∧
    IntTy.i4.packs = true :=
  ⟨by rfl,
    by (unfold Sys2Proof.Claims.Leased; decide +kernel),
    by decide +kernel⟩

/-! ### Reductions -/

theorem test_meets_reductions_redi8 :
    Quiet (one vuser) ∧
    Leased (one vuser) :=
  ⟨by rfl,
    by (unfold Sys2Proof.Claims.Leased; decide +kernel)⟩

theorem test_meets_reductions_redu64 :
    Quiet (one vuser) ∧
    Leased (one vuser) :=
  ⟨by rfl,
    by (unfold Sys2Proof.Claims.Leased; decide +kernel)⟩

theorem test_meets_reductions_redt2 :
    Quiet (one vuser) ∧
    Leased (one vuser) :=
  ⟨by rfl,
    by (unfold Sys2Proof.Claims.Leased; decide +kernel)⟩

theorem test_meets_reductions_redi64 :
    Quiet (one vuser) ∧
    Leased (one vuser) :=
  ⟨by rfl,
    by (unfold Sys2Proof.Claims.Leased; decide +kernel)⟩

theorem test_meets_reductions_redff32 :
    Quiet (one vuser) ∧
    Leased (one vuser) ∧
    FltTy.f32.isWide = true :=
  ⟨by rfl,
    by (unfold Sys2Proof.Claims.Leased; decide +kernel),
    by decide +kernel⟩

theorem test_meets_reductions_redff32sr :
    Quiet at_redff32sr ∧
    Leased at_redff32sr ∧
    FltTy.f32.isWide = true :=
  ⟨by rfl,
    by (unfold Sys2Proof.Claims.Leased; decide +kernel),
    by decide +kernel⟩

theorem test_meets_reductions_redbsr :
    Quiet at_redff32sr ∧
    Leased at_redff32sr ∧
    FltTy.bf16.isWide = true :=
  ⟨by rfl,
    by (unfold Sys2Proof.Claims.Leased; decide +kernel),
    by decide +kernel⟩

theorem test_meets_reductions_redfmf32 :
    Quiet (one vuser) ∧
    Leased (one vuser) ∧
    FltTy.f32.isWide = true :=
  ⟨by rfl,
    by (unfold Sys2Proof.Claims.Leased; decide +kernel),
    by decide +kernel⟩

theorem test_meets_reductions_redfm3f32 :
    Quiet (one vuser) ∧
    Leased (one vuser) ∧
    FltTy.f32.isWide = true :=
  ⟨by rfl,
    by (unfold Sys2Proof.Claims.Leased; decide +kernel),
    by decide +kernel⟩

theorem test_meets_reductions_redfbf16 :
    Quiet (one vuser) ∧
    Leased (one vuser) ∧
    FltTy.bf16.isWide = true :=
  ⟨by rfl,
    by (unfold Sys2Proof.Claims.Leased; decide +kernel),
    by decide +kernel⟩

theorem test_meets_reductions_redfmbf16 :
    Quiet (one vuser) ∧
    Leased (one vuser) ∧
    FltTy.bf16.isWide = true :=
  ⟨by rfl,
    by (unfold Sys2Proof.Claims.Leased; decide +kernel),
    by decide +kernel⟩

theorem test_meets_reductions_redfm3bf16 :
    Quiet (one vuser) ∧
    Leased (one vuser) ∧
    FltTy.bf16.isWide = true :=
  ⟨by rfl,
    by (unfold Sys2Proof.Claims.Leased; decide +kernel),
    by decide +kernel⟩

/-! ### FloatLanes -/

theorem test_meets_floatLanes_vfaddf32rne :
    (Instr.vfadd 6 3 4 1 FltTy.f32).wf = true ∧
    Quiet at_vfaddf32rne ∧
    Leased at_vfaddf32rne ∧
    (floatForm (Instr.vfadd 6 3 4 1 FltTy.f32) = some (6, 3, 4, 1, FltTy.f32, fun (m : Rm) (x x_1 y : Fp) => Fp.add m x_1 y)) :=
  ⟨by decide +kernel,
    by rfl,
    by (unfold Sys2Proof.Claims.Leased; decide +kernel),
    by rfl⟩

theorem test_meets_floatLanes_vfaddbf16rne :
    (Instr.vfadd 6 3 4 1 FltTy.bf16).wf = true ∧
    Quiet at_vfaddf32rne ∧
    Leased at_vfaddf32rne ∧
    (floatForm (Instr.vfadd 6 3 4 1 FltTy.bf16) = some (6, 3, 4, 1, FltTy.bf16, fun (m : Rm) (x x_1 y : Fp) => Fp.add m x_1 y)) :=
  ⟨by decide +kernel,
    by rfl,
    by (unfold Sys2Proof.Claims.Leased; decide +kernel),
    by rfl⟩

theorem test_meets_floatLanes_vfmulf32rne :
    (Instr.vfmul 6 3 4 1 FltTy.f32).wf = true ∧
    Quiet at_vfaddf32rne ∧
    Leased at_vfaddf32rne ∧
    (floatForm (Instr.vfmul 6 3 4 1 FltTy.f32) = some (6, 3, 4, 1, FltTy.f32, fun (x : Rm) (x_1 x_2 y : Fp) => x_2.mul y)) :=
  ⟨by decide +kernel,
    by rfl,
    by (unfold Sys2Proof.Claims.Leased; decide +kernel),
    by rfl⟩

theorem test_meets_floatLanes_vfmulbf16rne :
    (Instr.vfmul 6 3 4 1 FltTy.bf16).wf = true ∧
    Quiet at_vfaddf32rne ∧
    Leased at_vfaddf32rne ∧
    (floatForm (Instr.vfmul 6 3 4 1 FltTy.bf16) = some (6, 3, 4, 1, FltTy.bf16, fun (x : Rm) (x_1 x_2 y : Fp) => x_2.mul y)) :=
  ⟨by decide +kernel,
    by rfl,
    by (unfold Sys2Proof.Claims.Leased; decide +kernel),
    by rfl⟩

theorem test_meets_floatLanes_vfmaf32rne :
    (Instr.vfma 6 3 4 1 FltTy.f32).wf = true ∧
    Quiet at_vfaddf32rne ∧
    Leased at_vfaddf32rne ∧
    (floatForm (Instr.vfma 6 3 4 1 FltTy.f32) = some (6, 3, 4, 1, FltTy.f32, fun (m : Rm) (z x y : Fp) => Fp.add m z (x.mul y))) :=
  ⟨by decide +kernel,
    by rfl,
    by (unfold Sys2Proof.Claims.Leased; decide +kernel),
    by rfl⟩

theorem test_meets_floatLanes_vfmabf16rne :
    (Instr.vfma 6 3 4 1 FltTy.bf16).wf = true ∧
    Quiet at_vfaddf32rne ∧
    Leased at_vfaddf32rne ∧
    (floatForm (Instr.vfma 6 3 4 1 FltTy.bf16) = some (6, 3, 4, 1, FltTy.bf16, fun (m : Rm) (z x y : Fp) => Fp.add m z (x.mul y))) :=
  ⟨by decide +kernel,
    by rfl,
    by (unfold Sys2Proof.Claims.Leased; decide +kernel),
    by rfl⟩

theorem test_meets_floatLanes_vfmsf32rne :
    (Instr.vfms 6 3 4 1 FltTy.f32).wf = true ∧
    Quiet at_vfaddf32rne ∧
    Leased at_vfaddf32rne ∧
    (floatForm (Instr.vfms 6 3 4 1 FltTy.f32) = some (6, 3, 4, 1, FltTy.f32, fun (m : Rm) (z x y : Fp) => Fp.add m z (x.mul y).neg)) :=
  ⟨by decide +kernel,
    by rfl,
    by (unfold Sys2Proof.Claims.Leased; decide +kernel),
    by rfl⟩

theorem test_meets_floatLanes_vfmsbf16rne :
    (Instr.vfms 6 3 4 1 FltTy.bf16).wf = true ∧
    Quiet at_vfaddf32rne ∧
    Leased at_vfaddf32rne ∧
    (floatForm (Instr.vfms 6 3 4 1 FltTy.bf16) = some (6, 3, 4, 1, FltTy.bf16, fun (m : Rm) (z x y : Fp) => Fp.add m z (x.mul y).neg)) :=
  ⟨by decide +kernel,
    by rfl,
    by (unfold Sys2Proof.Claims.Leased; decide +kernel),
    by rfl⟩

theorem test_meets_floatLanes_vfaddf32sr :
    (Instr.vfadd 6 3 4 1 FltTy.f32).wf = true ∧
    Quiet at_redff32sr ∧
    Leased at_redff32sr ∧
    (floatForm (Instr.vfadd 6 3 4 1 FltTy.f32) = some (6, 3, 4, 1, FltTy.f32, fun (m : Rm) (x x_1 y : Fp) => Fp.add m x_1 y)) :=
  ⟨by decide +kernel,
    by rfl,
    by (unfold Sys2Proof.Claims.Leased; decide +kernel),
    by rfl⟩

theorem test_meets_floatLanes_vfaddbf16sr :
    (Instr.vfadd 6 3 4 1 FltTy.bf16).wf = true ∧
    Quiet at_redff32sr ∧
    Leased at_redff32sr ∧
    (floatForm (Instr.vfadd 6 3 4 1 FltTy.bf16) = some (6, 3, 4, 1, FltTy.bf16, fun (m : Rm) (x x_1 y : Fp) => Fp.add m x_1 y)) :=
  ⟨by decide +kernel,
    by rfl,
    by (unfold Sys2Proof.Claims.Leased; decide +kernel),
    by rfl⟩

theorem test_meets_floatLanes_vfmulf32sr :
    (Instr.vfmul 6 3 4 1 FltTy.f32).wf = true ∧
    Quiet at_redff32sr ∧
    Leased at_redff32sr ∧
    (floatForm (Instr.vfmul 6 3 4 1 FltTy.f32) = some (6, 3, 4, 1, FltTy.f32, fun (x : Rm) (x_1 x_2 y : Fp) => x_2.mul y)) :=
  ⟨by decide +kernel,
    by rfl,
    by (unfold Sys2Proof.Claims.Leased; decide +kernel),
    by rfl⟩

theorem test_meets_floatLanes_vfmulbf16sr :
    (Instr.vfmul 6 3 4 1 FltTy.bf16).wf = true ∧
    Quiet at_redff32sr ∧
    Leased at_redff32sr ∧
    (floatForm (Instr.vfmul 6 3 4 1 FltTy.bf16) = some (6, 3, 4, 1, FltTy.bf16, fun (x : Rm) (x_1 x_2 y : Fp) => x_2.mul y)) :=
  ⟨by decide +kernel,
    by rfl,
    by (unfold Sys2Proof.Claims.Leased; decide +kernel),
    by rfl⟩

theorem test_meets_floatLanes_vfmaf32sr :
    (Instr.vfma 6 3 4 1 FltTy.f32).wf = true ∧
    Quiet at_redff32sr ∧
    Leased at_redff32sr ∧
    (floatForm (Instr.vfma 6 3 4 1 FltTy.f32) = some (6, 3, 4, 1, FltTy.f32, fun (m : Rm) (z x y : Fp) => Fp.add m z (x.mul y))) :=
  ⟨by decide +kernel,
    by rfl,
    by (unfold Sys2Proof.Claims.Leased; decide +kernel),
    by rfl⟩

theorem test_meets_floatLanes_vfmabf16sr :
    (Instr.vfma 6 3 4 1 FltTy.bf16).wf = true ∧
    Quiet at_redff32sr ∧
    Leased at_redff32sr ∧
    (floatForm (Instr.vfma 6 3 4 1 FltTy.bf16) = some (6, 3, 4, 1, FltTy.bf16, fun (m : Rm) (z x y : Fp) => Fp.add m z (x.mul y))) :=
  ⟨by decide +kernel,
    by rfl,
    by (unfold Sys2Proof.Claims.Leased; decide +kernel),
    by rfl⟩

theorem test_meets_floatLanes_vfmsf32sr :
    (Instr.vfms 6 3 4 1 FltTy.f32).wf = true ∧
    Quiet at_redff32sr ∧
    Leased at_redff32sr ∧
    (floatForm (Instr.vfms 6 3 4 1 FltTy.f32) = some (6, 3, 4, 1, FltTy.f32, fun (m : Rm) (z x y : Fp) => Fp.add m z (x.mul y).neg)) :=
  ⟨by decide +kernel,
    by rfl,
    by (unfold Sys2Proof.Claims.Leased; decide +kernel),
    by rfl⟩

theorem test_meets_floatLanes_vfmsbf16sr :
    (Instr.vfms 6 3 4 1 FltTy.bf16).wf = true ∧
    Quiet at_redff32sr ∧
    Leased at_redff32sr ∧
    (floatForm (Instr.vfms 6 3 4 1 FltTy.bf16) = some (6, 3, 4, 1, FltTy.bf16, fun (m : Rm) (z x y : Fp) => Fp.add m z (x.mul y).neg)) :=
  ⟨by decide +kernel,
    by rfl,
    by (unfold Sys2Proof.Claims.Leased; decide +kernel),
    by rfl⟩

theorem test_meets_floatLanes_vfaddf32rdn :
    (Instr.vfadd 6 3 4 1 FltTy.f32).wf = true ∧
    Quiet at_vfaddf32rdn ∧
    Leased at_vfaddf32rdn ∧
    (floatForm (Instr.vfadd 6 3 4 1 FltTy.f32) = some (6, 3, 4, 1, FltTy.f32, fun (m : Rm) (x x_1 y : Fp) => Fp.add m x_1 y)) :=
  ⟨by decide +kernel,
    by rfl,
    by (unfold Sys2Proof.Claims.Leased; decide +kernel),
    by rfl⟩

theorem test_meets_floatLanes_vfaddbf16rdn :
    (Instr.vfadd 6 3 4 1 FltTy.bf16).wf = true ∧
    Quiet at_vfaddf32rdn ∧
    Leased at_vfaddf32rdn ∧
    (floatForm (Instr.vfadd 6 3 4 1 FltTy.bf16) = some (6, 3, 4, 1, FltTy.bf16, fun (m : Rm) (x x_1 y : Fp) => Fp.add m x_1 y)) :=
  ⟨by decide +kernel,
    by rfl,
    by (unfold Sys2Proof.Claims.Leased; decide +kernel),
    by rfl⟩

theorem test_meets_floatLanes_vfmulf32rdn :
    (Instr.vfmul 6 3 4 1 FltTy.f32).wf = true ∧
    Quiet at_vfaddf32rdn ∧
    Leased at_vfaddf32rdn ∧
    (floatForm (Instr.vfmul 6 3 4 1 FltTy.f32) = some (6, 3, 4, 1, FltTy.f32, fun (x : Rm) (x_1 x_2 y : Fp) => x_2.mul y)) :=
  ⟨by decide +kernel,
    by rfl,
    by (unfold Sys2Proof.Claims.Leased; decide +kernel),
    by rfl⟩

theorem test_meets_floatLanes_vfmulbf16rdn :
    (Instr.vfmul 6 3 4 1 FltTy.bf16).wf = true ∧
    Quiet at_vfaddf32rdn ∧
    Leased at_vfaddf32rdn ∧
    (floatForm (Instr.vfmul 6 3 4 1 FltTy.bf16) = some (6, 3, 4, 1, FltTy.bf16, fun (x : Rm) (x_1 x_2 y : Fp) => x_2.mul y)) :=
  ⟨by decide +kernel,
    by rfl,
    by (unfold Sys2Proof.Claims.Leased; decide +kernel),
    by rfl⟩

theorem test_meets_floatLanes_vfmaf32rdn :
    (Instr.vfma 6 3 4 1 FltTy.f32).wf = true ∧
    Quiet at_vfaddf32rdn ∧
    Leased at_vfaddf32rdn ∧
    (floatForm (Instr.vfma 6 3 4 1 FltTy.f32) = some (6, 3, 4, 1, FltTy.f32, fun (m : Rm) (z x y : Fp) => Fp.add m z (x.mul y))) :=
  ⟨by decide +kernel,
    by rfl,
    by (unfold Sys2Proof.Claims.Leased; decide +kernel),
    by rfl⟩

theorem test_meets_floatLanes_vfmabf16rdn :
    (Instr.vfma 6 3 4 1 FltTy.bf16).wf = true ∧
    Quiet at_vfaddf32rdn ∧
    Leased at_vfaddf32rdn ∧
    (floatForm (Instr.vfma 6 3 4 1 FltTy.bf16) = some (6, 3, 4, 1, FltTy.bf16, fun (m : Rm) (z x y : Fp) => Fp.add m z (x.mul y))) :=
  ⟨by decide +kernel,
    by rfl,
    by (unfold Sys2Proof.Claims.Leased; decide +kernel),
    by rfl⟩

theorem test_meets_floatLanes_vfmsf32rdn :
    (Instr.vfms 6 3 4 1 FltTy.f32).wf = true ∧
    Quiet at_vfaddf32rdn ∧
    Leased at_vfaddf32rdn ∧
    (floatForm (Instr.vfms 6 3 4 1 FltTy.f32) = some (6, 3, 4, 1, FltTy.f32, fun (m : Rm) (z x y : Fp) => Fp.add m z (x.mul y).neg)) :=
  ⟨by decide +kernel,
    by rfl,
    by (unfold Sys2Proof.Claims.Leased; decide +kernel),
    by rfl⟩

theorem test_meets_floatLanes_vfmsbf16rdn :
    (Instr.vfms 6 3 4 1 FltTy.bf16).wf = true ∧
    Quiet at_vfaddf32rdn ∧
    Leased at_vfaddf32rdn ∧
    (floatForm (Instr.vfms 6 3 4 1 FltTy.bf16) = some (6, 3, 4, 1, FltTy.bf16, fun (m : Rm) (z x y : Fp) => Fp.add m z (x.mul y).neg)) :=
  ⟨by decide +kernel,
    by rfl,
    by (unfold Sys2Proof.Claims.Leased; decide +kernel),
    by rfl⟩

theorem test_meets_floatLanes_vrcp :
    (Instr.vrcp 6 3 1 FltTy.f32).wf = true ∧
    Quiet (one vuser) ∧
    Leased (one vuser) ∧
    (floatForm (Instr.vrcp 6 3 1 FltTy.f32) = some (6, 3, 3, 1, FltTy.f32, fun (x : Rm) (x_1 x_2 x_3 : Fp) => x_2.rcp)) :=
  ⟨by decide +kernel,
    by rfl,
    by (unfold Sys2Proof.Claims.Leased; decide +kernel),
    by rfl⟩

theorem test_meets_floatLanes_vrsq :
    (Instr.vrsq 6 3 1 FltTy.f32).wf = true ∧
    Quiet (one vuser) ∧
    Leased (one vuser) ∧
    (floatForm (Instr.vrsq 6 3 1 FltTy.f32) = some (6, 3, 3, 1, FltTy.f32, fun (x : Rm) (x_1 x_2 x_3 : Fp) => x_2.rsq)) :=
  ⟨by decide +kernel,
    by rfl,
    by (unfold Sys2Proof.Claims.Leased; decide +kernel),
    by rfl⟩

theorem test_meets_floatLanes_vexp2 :
    (Instr.vexp2 6 3 1 FltTy.f32).wf = true ∧
    Quiet (one vuser) ∧
    Leased (one vuser) ∧
    (floatForm (Instr.vexp2 6 3 1 FltTy.f32) = some (6, 3, 3, 1, FltTy.f32, fun (x : Rm) (x_1 x_2 x_3 : Fp) => x_2.exp2)) :=
  ⟨by decide +kernel,
    by rfl,
    by (unfold Sys2Proof.Claims.Leased; decide +kernel),
    by rfl⟩

theorem test_meets_floatLanes_vlog2 :
    (Instr.vlog2 6 3 1 FltTy.f32).wf = true ∧
    Quiet (one vuser) ∧
    Leased (one vuser) ∧
    (floatForm (Instr.vlog2 6 3 1 FltTy.f32) = some (6, 3, 3, 1, FltTy.f32, fun (x : Rm) (x_1 x_2 x_3 : Fp) => x_2.log2)) :=
  ⟨by decide +kernel,
    by rfl,
    by (unfold Sys2Proof.Claims.Leased; decide +kernel),
    by rfl⟩

theorem test_meets_floatLanes_vfmin :
    (Instr.vfmin 6 3 4 1 FltTy.f32).wf = true ∧
    Quiet at_redff32sr ∧
    Leased at_redff32sr ∧
    (floatForm (Instr.vfmin 6 3 4 1 FltTy.f32) = some (6, 3, 4, 1, FltTy.f32, fun (x : Rm) (x_1 x_2 y : Fp) => x_2.least y)) :=
  ⟨by decide +kernel,
    by rfl,
    by (unfold Sys2Proof.Claims.Leased; decide +kernel),
    by rfl⟩

theorem test_meets_floatLanes_vfmax :
    (Instr.vfmax 6 3 4 1 FltTy.f32).wf = true ∧
    Quiet at_redff32sr ∧
    Leased at_redff32sr ∧
    (floatForm (Instr.vfmax 6 3 4 1 FltTy.f32) = some (6, 3, 4, 1, FltTy.f32, fun (x : Rm) (x_1 x_2 y : Fp) => x_2.greatest y)) :=
  ⟨by decide +kernel,
    by rfl,
    by (unfold Sys2Proof.Claims.Leased; decide +kernel),
    by rfl⟩

theorem test_meets_floatLanes_vfabs :
    (Instr.vfabs 6 3 1 FltTy.f32).wf = true ∧
    Quiet at_redff32sr ∧
    Leased at_redff32sr ∧
    (choiceForm (Instr.vfabs 6 3 1 FltTy.f32) = some (6, 3, 3, 1, FltTy.f32, fun (x x_1 : Fp) => x.abs)) :=
  ⟨by decide +kernel,
    by rfl,
    by (unfold Sys2Proof.Claims.Leased; decide +kernel),
    by rfl⟩

/-! ### Conversions -/

theorem test_meets_conversions_ciii8u4 :
    Quiet at_redff32sr ∧
    Leased at_redff32sr :=
  ⟨by rfl,
    by (unfold Sys2Proof.Claims.Leased; decide +kernel)⟩

theorem test_meets_conversions_ciii64i8 :
    Quiet at_redff32sr ∧
    Leased at_redff32sr :=
  ⟨by rfl,
    by (unfold Sys2Proof.Claims.Leased; decide +kernel)⟩

theorem test_meets_conversions_ciiu8i32 :
    Quiet at_redff32sr ∧
    Leased at_redff32sr :=
  ⟨by rfl,
    by (unfold Sys2Proof.Claims.Leased; decide +kernel)⟩

theorem test_meets_conversions_ciit2i8 :
    Quiet at_redff32sr ∧
    Leased at_redff32sr :=
  ⟨by rfl,
    by (unfold Sys2Proof.Claims.Leased; decide +kernel)⟩

theorem test_meets_conversions_cfif32i8 :
    Quiet (one vuser) ∧
    Leased (one vuser) :=
  ⟨by rfl,
    by (unfold Sys2Proof.Claims.Leased; decide +kernel)⟩

theorem test_meets_conversions_cfif32i64 :
    Quiet (one vuser) ∧
    Leased (one vuser) :=
  ⟨by rfl,
    by (unfold Sys2Proof.Claims.Leased; decide +kernel)⟩

theorem test_meets_conversions_cfie4m3i16 :
    Quiet (one vuser) ∧
    Leased (one vuser) :=
  ⟨by rfl,
    by (unfold Sys2Proof.Claims.Leased; decide +kernel)⟩

theorem test_meets_conversions_cfff32e4m3 :
    Quiet (one vuser) ∧
    Leased (one vuser) ∧
    FltTy.f32 ≠ FltTy.e8m0 ∧
    FltTy.e4m3 ≠ FltTy.e8m0 :=
  ⟨by rfl,
    by (unfold Sys2Proof.Claims.Leased; decide +kernel),
    by decide +kernel⟩

theorem test_meets_conversions_cfff32e2m1 :
    Quiet (one vuser) ∧
    Leased (one vuser) ∧
    FltTy.f32 ≠ FltTy.e8m0 ∧
    FltTy.e2m1 ≠ FltTy.e8m0 :=
  ⟨by rfl,
    by (unfold Sys2Proof.Claims.Leased; decide +kernel),
    by decide +kernel⟩

theorem test_meets_conversions_cffbf16f32 :
    Quiet (one vuser) ∧
    Leased (one vuser) ∧
    FltTy.bf16 ≠ FltTy.e8m0 ∧
    FltTy.f32 ≠ FltTy.e8m0 :=
  ⟨by rfl,
    by (unfold Sys2Proof.Claims.Leased; decide +kernel),
    by decide +kernel⟩

theorem test_meets_conversions_cffe5m2bf16 :
    Quiet (one vuser) ∧
    Leased (one vuser) ∧
    FltTy.e5m2 ≠ FltTy.e8m0 ∧
    FltTy.bf16 ≠ FltTy.e8m0 :=
  ⟨by rfl,
    by (unfold Sys2Proof.Claims.Leased; decide +kernel),
    by decide +kernel⟩

theorem test_meets_conversions_cifi32e4m3 :
    Quiet (one vuser) ∧
    Leased (one vuser) ∧
    FltTy.e4m3 ≠ FltTy.e8m0 :=
  ⟨by rfl,
    by (unfold Sys2Proof.Claims.Leased; decide +kernel),
    by decide +kernel⟩

theorem test_meets_conversions_cifi8f32 :
    Quiet (one vuser) ∧
    Leased (one vuser) ∧
    FltTy.f32 ≠ FltTy.e8m0 :=
  ⟨by rfl,
    by (unfold Sys2Proof.Claims.Leased; decide +kernel),
    by decide +kernel⟩

theorem test_meets_conversions_cifu64bf16 :
    Quiet (one vuser) ∧
    Leased (one vuser) ∧
    FltTy.bf16 ≠ FltTy.e8m0 :=
  ⟨by rfl,
    by (unfold Sys2Proof.Claims.Leased; decide +kernel),
    by decide +kernel⟩

theorem test_meets_conversions_qmxe4m3 :
    Quiet (one vuser) ∧
    Leased (one vuser) ∧
    FltTy.e4m3.isNarrow = true :=
  ⟨by rfl,
    by (unfold Sys2Proof.Claims.Leased; decide +kernel),
    by decide +kernel⟩

theorem test_meets_conversions_qmx3e4m3 :
    Quiet (one vuser) ∧
    Leased (one vuser) ∧
    FltTy.e4m3.isNarrow = true :=
  ⟨by rfl,
    by (unfold Sys2Proof.Claims.Leased; decide +kernel),
    by decide +kernel⟩

theorem test_meets_conversions_qmxe2m1 :
    Quiet (one vuser) ∧
    Leased (one vuser) ∧
    FltTy.e2m1.isNarrow = true :=
  ⟨by rfl,
    by (unfold Sys2Proof.Claims.Leased; decide +kernel),
    by decide +kernel⟩

theorem test_meets_conversions_qmx3e2m1 :
    Quiet (one vuser) ∧
    Leased (one vuser) ∧
    FltTy.e2m1.isNarrow = true :=
  ⟨by rfl,
    by (unfold Sys2Proof.Claims.Leased; decide +kernel),
    by decide +kernel⟩

theorem test_meets_conversions_qmxe5m2 :
    Quiet (one vuser) ∧
    Leased (one vuser) ∧
    FltTy.e5m2.isNarrow = true :=
  ⟨by rfl,
    by (unfold Sys2Proof.Claims.Leased; decide +kernel),
    by decide +kernel⟩

theorem test_meets_conversions_qmx3e5m2 :
    Quiet (one vuser) ∧
    Leased (one vuser) ∧
    FltTy.e5m2.isNarrow = true :=
  ⟨by rfl,
    by (unfold Sys2Proof.Claims.Leased; decide +kernel),
    by decide +kernel⟩

/-- What the witness of `vfree17` runs on. -/
def at_vfree17 := { msgStrand user with cores := [(0, { kbg with strands := [(17, user)] })], cur := ⟨0, 17⟩ }

/-- What the witness of `vfree` runs on. -/
def at_vfree := (one { user with vl := false })

/-! ### VectorAccesses -/

theorem test_meets_vectorAccesses_vld :
    (Instr.vld 6 15 1 IntTy.n32).wf = true ∧
    Calm vmemS ∧
    Leased vmemS ∧
    (vloadForm vmemS (Instr.vld 6 15 1 IntTy.n32) = some (6, 1, IntTy.n32, fun (j : Nat) => vmemS.rg 15 + BitVec.ofNat 64 (j * (IntTy.n32.width / 8))) ∨ vstoreForm vmemS (Instr.vld 6 15 1 IntTy.n32) = some (6, 1, IntTy.n32, fun (j : Nat) => vmemS.rg 15 + BitVec.ofNat 64 (j * (IntTy.n32.width / 8)))) ∧
    (∀ j < 1024 / IntTy.n32.width, active vmemS 1 j = true → OwnElement vmemS (vmemS.rg 15 + BitVec.ofNat 64 (j * (IntTy.n32.width / 8))) (64 + 4 * j) (IntTy.n32.width / 8)) ∧
    (vloadForm vmemS (Instr.vld 6 15 1 IntTy.n32) = some (6, 1, IntTy.n32, fun (j : Nat) => vmemS.rg 15 + BitVec.ofNat 64 (j * (IntTy.n32.width / 8)))) :=
  ⟨by decide +kernel,
    by (constructor <;> first | decide +kernel | rfl),
    by (unfold Sys2Proof.Claims.Leased; decide +kernel),
    by (constructor <;> first | decide +kernel | rfl),
    by (intro j hj ha; constructor <;> (revert j; decide +kernel)),
    by rfl⟩

theorem test_meets_vectorAccesses_vlds :
    (Instr.vlds 6 14 2 1 IntTy.i16).wf = true ∧
    Calm vmemS ∧
    Leased vmemS ∧
    (vloadForm vmemS (Instr.vlds 6 14 2 1 IntTy.i16) = some (6, 1, IntTy.i16, fun (j : Nat) => vmemS.rg 14 + BitVec.ofNat 64 j * vmemS.rg 2) ∨ vstoreForm vmemS (Instr.vlds 6 14 2 1 IntTy.i16) = some (6, 1, IntTy.i16, fun (j : Nat) => vmemS.rg 14 + BitVec.ofNat 64 j * vmemS.rg 2)) ∧
    (∀ j < 1024 / IntTy.i16.width, active vmemS 1 j = true → OwnElement vmemS (vmemS.rg 14 + BitVec.ofNat 64 j * vmemS.rg 2) (768 - 8 * j) (IntTy.i16.width / 8)) ∧
    (vloadForm vmemS (Instr.vlds 6 14 2 1 IntTy.i16) = some (6, 1, IntTy.i16, fun (j : Nat) => vmemS.rg 14 + BitVec.ofNat 64 j * vmemS.rg 2)) :=
  ⟨by decide +kernel,
    by (constructor <;> first | decide +kernel | rfl),
    by (unfold Sys2Proof.Claims.Leased; decide +kernel),
    by (constructor <;> first | decide +kernel | rfl),
    by (intro j hj ha; constructor <;> (revert j; decide +kernel)),
    by rfl⟩

theorem test_meets_vectorAccesses_vst :
    (Instr.vst 6 15 1 IntTy.n32).wf = true ∧
    Calm vmemS ∧
    Leased vmemS ∧
    (vloadForm vmemS (Instr.vst 6 15 1 IntTy.n32) = some (6, 1, IntTy.n32, fun (j : Nat) => vmemS.rg 15 + BitVec.ofNat 64 (j * (IntTy.n32.width / 8))) ∨ vstoreForm vmemS (Instr.vst 6 15 1 IntTy.n32) = some (6, 1, IntTy.n32, fun (j : Nat) => vmemS.rg 15 + BitVec.ofNat 64 (j * (IntTy.n32.width / 8)))) ∧
    (∀ j < 1024 / IntTy.n32.width, active vmemS 1 j = true → OwnElement vmemS (vmemS.rg 15 + BitVec.ofNat 64 (j * (IntTy.n32.width / 8))) (64 + 4 * j) (IntTy.n32.width / 8)) ∧
    (vstoreForm vmemS (Instr.vst 6 15 1 IntTy.n32) = some (6, 1, IntTy.n32, fun (j : Nat) => vmemS.rg 15 + BitVec.ofNat 64 (j * (IntTy.n32.width / 8)))) :=
  ⟨by decide +kernel,
    by (constructor <;> first | decide +kernel | rfl),
    by (unfold Sys2Proof.Claims.Leased; decide +kernel),
    by (right; rfl),
    by (intro j hj ha; constructor <;> (revert j; decide +kernel)),
    by rfl⟩

theorem test_meets_vectorAccesses_vsts :
    (Instr.vsts 1 14 4 1 IntTy.i16).wf = true ∧
    Calm vmemS ∧
    Leased vmemS ∧
    (vloadForm vmemS (Instr.vsts 1 14 4 1 IntTy.i16) = some (1, 1, IntTy.i16, fun (j : Nat) => vmemS.rg 14 + BitVec.ofNat 64 j * vmemS.rg 4) ∨ vstoreForm vmemS (Instr.vsts 1 14 4 1 IntTy.i16) = some (1, 1, IntTy.i16, fun (j : Nat) => vmemS.rg 14 + BitVec.ofNat 64 j * vmemS.rg 4)) ∧
    (∀ j < 1024 / IntTy.i16.width, active vmemS 1 j = true → OwnElement vmemS (vmemS.rg 14 + BitVec.ofNat 64 j * vmemS.rg 4) 768 (IntTy.i16.width / 8)) ∧
    (vstoreForm vmemS (Instr.vsts 1 14 4 1 IntTy.i16) = some (1, 1, IntTy.i16, fun (j : Nat) => vmemS.rg 14 + BitVec.ofNat 64 j * vmemS.rg 4)) :=
  ⟨by decide +kernel,
    by (constructor <;> first | decide +kernel | rfl),
    by (unfold Sys2Proof.Claims.Leased; decide +kernel),
    by (right; rfl),
    by (intro j hj ha; constructor <;> (revert j; decide +kernel)),
    by rfl⟩

theorem test_meets_vectorAccesses_vscat :
    (Instr.vscat 1 14 8 1 IntTy.n32).wf = true ∧
    Calm vmemS ∧
    Leased vmemS ∧
    (vloadForm vmemS (Instr.vscat 1 14 8 1 IntTy.n32) = some (1, 1, IntTy.n32, fun (j : Nat) => vmemS.rg 14 + BitVec.signExtend 64 (vlane IntTy.n32.width (vmemS.me.vr 8) j)) ∨ vstoreForm vmemS (Instr.vscat 1 14 8 1 IntTy.n32) = some (1, 1, IntTy.n32, fun (j : Nat) => vmemS.rg 14 + BitVec.signExtend 64 (vlane IntTy.n32.width (vmemS.me.vr 8) j))) ∧
    (∀ j < 1024 / IntTy.n32.width, active vmemS 1 j = true → OwnElement vmemS (vmemS.rg 14 + BitVec.signExtend 64 (vlane IntTy.n32.width (vmemS.me.vr 8) j)) (768 + 4 * (j % 3)) (IntTy.n32.width / 8)) ∧
    (vstoreForm vmemS (Instr.vscat 1 14 8 1 IntTy.n32) = some (1, 1, IntTy.n32, fun (j : Nat) => vmemS.rg 14 + BitVec.signExtend 64 (vlane IntTy.n32.width (vmemS.me.vr 8) j))) :=
  ⟨by decide +kernel,
    by (constructor <;> first | decide +kernel | rfl),
    by (unfold Sys2Proof.Claims.Leased; decide +kernel),
    by (right; rfl),
    by (intro j hj ha; constructor <;> (revert j; decide +kernel)),
    by rfl⟩

theorem test_meets_vectorAccesses_vgath :
    (Instr.vgath 1 14 8 1 IntTy.n32).wf = true ∧
    Calm vmemS ∧
    Leased vmemS ∧
    (vloadForm vmemS (Instr.vgath 1 14 8 1 IntTy.n32) = some (1, 1, IntTy.n32, fun (j : Nat) => vmemS.rg 14 + BitVec.signExtend 64 (vlane IntTy.n32.width (vmemS.me.vr 8) j)) ∨ vstoreForm vmemS (Instr.vgath 1 14 8 1 IntTy.n32) = some (1, 1, IntTy.n32, fun (j : Nat) => vmemS.rg 14 + BitVec.signExtend 64 (vlane IntTy.n32.width (vmemS.me.vr 8) j))) ∧
    (∀ j < 1024 / IntTy.n32.width, active vmemS 1 j = true → OwnElement vmemS (vmemS.rg 14 + BitVec.signExtend 64 (vlane IntTy.n32.width (vmemS.me.vr 8) j)) (768 + 4 * (j % 3)) (IntTy.n32.width / 8)) ∧
    (vloadForm vmemS (Instr.vgath 1 14 8 1 IntTy.n32) = some (1, 1, IntTy.n32, fun (j : Nat) => vmemS.rg 14 + BitVec.signExtend 64 (vlane IntTy.n32.width (vmemS.me.vr 8) j))) :=
  ⟨by decide +kernel,
    by (constructor <;> first | decide +kernel | rfl),
    by (unfold Sys2Proof.Claims.Leased; decide +kernel),
    by (constructor <;> first | decide +kernel | rfl),
    by (intro j hj ha; constructor <;> (revert j; decide +kernel)),
    by rfl⟩

theorem test_meets_vectorAccesses_valign :
    (Instr.vlds 6 14 3 1 IntTy.i16).wf = true ∧
    Calm vmemS ∧
    Leased vmemS ∧
    (vloadForm vmemS (Instr.vlds 6 14 3 1 IntTy.i16) = some (6, 1, IntTy.i16, fun (j : Nat) => vmemS.rg 14 + BitVec.ofNat 64 j * vmemS.rg 3) ∨ vstoreForm vmemS (Instr.vlds 6 14 3 1 IntTy.i16) = some (6, 1, IntTy.i16, fun (j : Nat) => vmemS.rg 14 + BitVec.ofNat 64 j * vmemS.rg 3)) ∧
    3 < 1024 / IntTy.i16.width ∧
    active vmemS 1 3 = true ∧
    BitVec.toNat (vmemS.rg 14 + BitVec.ofNat 64 3 * vmemS.rg 3) % (IntTy.i16.width / 8) ≠ 0 ∧
    (∀ j < 3, active vmemS 1 j = true → OwnElement vmemS (vmemS.rg 14 + BitVec.ofNat 64 j * vmemS.rg 3) 768 (IntTy.i16.width / 8)) :=
  ⟨by decide +kernel,
    by (constructor <;> first | decide +kernel | rfl),
    by (unfold Sys2Proof.Claims.Leased; decide +kernel),
    by (constructor <;> first | decide +kernel | rfl),
    by decide +kernel,
    by decide +kernel,
    by decide +kernel,
    by (intro j hj ha; constructor <;> (revert j; decide +kernel))⟩

theorem test_meets_vectorAccesses_vsalign :
    (Instr.vsts 6 14 3 1 IntTy.i16).wf = true ∧
    Calm vmemS ∧
    Leased vmemS ∧
    (vloadForm vmemS (Instr.vsts 6 14 3 1 IntTy.i16) = some (6, 1, IntTy.i16, fun (j : Nat) => vmemS.rg 14 + BitVec.ofNat 64 j * vmemS.rg 3) ∨ vstoreForm vmemS (Instr.vsts 6 14 3 1 IntTy.i16) = some (6, 1, IntTy.i16, fun (j : Nat) => vmemS.rg 14 + BitVec.ofNat 64 j * vmemS.rg 3)) ∧
    3 < 1024 / IntTy.i16.width ∧
    active vmemS 1 3 = true ∧
    BitVec.toNat (vmemS.rg 14 + BitVec.ofNat 64 3 * vmemS.rg 3) % (IntTy.i16.width / 8) ≠ 0 ∧
    (∀ j < 3, active vmemS 1 j = true → OwnElement vmemS (vmemS.rg 14 + BitVec.ofNat 64 j * vmemS.rg 3) 768 (IntTy.i16.width / 8)) :=
  ⟨by decide +kernel,
    by (constructor <;> first | decide +kernel | rfl),
    by (unfold Sys2Proof.Claims.Leased; decide +kernel),
    by (right; rfl),
    by decide +kernel,
    by decide +kernel,
    by decide +kernel,
    by (intro j hj ha; constructor <;> (revert j; decide +kernel))⟩

/-! ### PackedElements -/

theorem test_meets_packedElements_vldbit :
    Calm vmemS ∧
    Leased vmemS ∧
    (Instr.vldbit 6 true 1 (2 : Fin 32) 1 IntTy.i8).wf = true ∧
    BitsOk vmemS (vmemS.me.bp 1).toNat (1024 / IntTy.i8.width * (↑(2 : Fin 32) + 1)) :=
  ⟨by (constructor <;> first | decide +kernel | rfl),
    by (unfold Sys2Proof.Claims.Leased; decide +kernel),
    by decide +kernel,
    by (unfold Sys2Proof.Claims.BitsOk; decide +kernel)⟩

theorem test_meets_packedElements_vldbitn :
    Calm vmemS ∧
    Leased vmemS ∧
    (Instr.vldbit 6 true 1 (2 : Fin 32) 1 IntTy.n16).wf = true ∧
    BitsOk vmemS (vmemS.me.bp 1).toNat (1024 / IntTy.n16.width * (↑(2 : Fin 32) + 1)) :=
  ⟨by (constructor <;> first | decide +kernel | rfl),
    by (unfold Sys2Proof.Claims.Leased; decide +kernel),
    by decide +kernel,
    by (unfold Sys2Proof.Claims.BitsOk; decide +kernel)⟩

theorem test_meets_packedElements_vldbit16 :
    Calm vmemS ∧
    Leased vmemS ∧
    (Instr.vldbit 6 false 1 (15 : Fin 32) 1 IntTy.i16).wf = true ∧
    BitsOk vmemS (vmemS.me.bp 1).toNat (1024 / IntTy.i16.width * (↑(15 : Fin 32) + 1)) :=
  ⟨by (constructor <;> first | decide +kernel | rfl),
    by (unfold Sys2Proof.Claims.Leased; decide +kernel),
    by decide +kernel,
    by (unfold Sys2Proof.Claims.BitsOk; decide +kernel)⟩

theorem test_meets_packedElements_vldbitt2 :
    Calm vmemS ∧
    Leased vmemS ∧
    (Instr.vldbit 6 false 1 (1 : Fin 32) 1 IntTy.t2).wf = true ∧
    BitsOk vmemS (vmemS.me.bp 1).toNat (1024 / IntTy.t2.width * (↑(1 : Fin 32) + 1)) :=
  ⟨by (constructor <;> first | decide +kernel | rfl),
    by (unfold Sys2Proof.Claims.Leased; decide +kernel),
    by decide +kernel,
    by (unfold Sys2Proof.Claims.BitsOk; decide +kernel)⟩

theorem test_meets_packedElements_vstbit :
    Calm vmemS ∧
    Leased vmemS ∧
    (Instr.vldbit 6 true 1 (2 : Fin 32) 1 IntTy.i8).wf = true ∧
    BitsOk vmemS (vmemS.me.bp 1).toNat (1024 / IntTy.i8.width * (↑(2 : Fin 32) + 1)) :=
  ⟨by (constructor <;> first | decide +kernel | rfl),
    by (unfold Sys2Proof.Claims.Leased; decide +kernel),
    by decide +kernel,
    by (unfold Sys2Proof.Claims.BitsOk; decide +kernel)⟩

theorem test_meets_packedElements_vstbit4 :
    Calm vmemS ∧
    Leased vmemS ∧
    (Instr.vldbit 6 false 1 (3 : Fin 32) 0 IntTy.i4).wf = true ∧
    BitsOk vmemS (vmemS.me.bp 1).toNat (1024 / IntTy.i4.width * (↑(3 : Fin 32) + 1)) :=
  ⟨by (constructor <;> first | decide +kernel | rfl),
    by (unfold Sys2Proof.Claims.Leased; decide +kernel),
    by decide +kernel,
    by (unfold Sys2Proof.Claims.BitsOk; decide +kernel)⟩

theorem test_meets_packedElements_vbitbad :
    Calm vmemS ∧
    Leased vmemS ∧
    (Instr.vldbit 6 false 2 (3 : Fin 32) 0 IntTy.i4).wf = true ∧
    2 ^ 22 < (vmemS.me.bp 2).toNat + 1024 / IntTy.i4.width * (↑(3 : Fin 32) + 1) :=
  ⟨by (constructor <;> first | decide +kernel | rfl),
    by (unfold Sys2Proof.Claims.Leased; decide +kernel),
    by decide +kernel⟩

/-! ### Checksums -/

theorem test_meets_checksums_ckclr :
    Quiet ckS ∧
    Leased ckS :=
  ⟨by rfl,
    by (unfold Sys2Proof.Claims.Leased; decide +kernel)⟩

theorem test_meets_checksums_ckai8 :
    Quiet ckS ∧
    Leased ckS :=
  ⟨by rfl,
    by (unfold Sys2Proof.Claims.Leased; decide +kernel)⟩

theorem test_meets_checksums_ckat2 :
    Quiet ckS ∧
    Leased ckS :=
  ⟨by rfl,
    by (unfold Sys2Proof.Claims.Leased; decide +kernel)⟩

theorem test_meets_checksums_ckan64 :
    Quiet ckS ∧
    Leased ckS :=
  ⟨by rfl,
    by (unfold Sys2Proof.Claims.Leased; decide +kernel)⟩

theorem test_meets_checksums_ckaf :
    Quiet ckS ∧
    Leased ckS ∧
    FltTy.f32.isWide = true :=
  ⟨by rfl,
    by (unfold Sys2Proof.Claims.Leased; decide +kernel),
    by decide +kernel⟩

theorem test_meets_checksums_ckafb :
    Quiet ckS ∧
    Leased ckS ∧
    FltTy.bf16.isWide = true :=
  ⟨by rfl,
    by (unfold Sys2Proof.Claims.Leased; decide +kernel),
    by decide +kernel⟩

theorem test_meets_checksums_ckchki :
    Quiet ckS ∧
    Leased ckS ∧
    CheckPasses ckS 1 2 (CkArg.i 3) :=
  ⟨by rfl,
    by (unfold Sys2Proof.Claims.Leased; decide +kernel),
    by (unfold Sys2Proof.Claims.CheckPasses; decide +kernel)⟩

theorem test_meets_checksums_ckchkin :
    Quiet ckS ∧
    Leased ckS ∧
    (¬CheckPasses ckS 9 2 (CkArg.i 3)) :=
  ⟨by rfl,
    by (unfold Sys2Proof.Claims.Leased; decide +kernel),
    by (unfold Sys2Proof.Claims.CheckPasses; decide +kernel)⟩

theorem test_meets_checksums_ckchkig :
    Quiet ckS ∧
    Leased ckS ∧
    CheckPasses ckS 1 2 (CkArg.ig 10) :=
  ⟨by rfl,
    by (unfold Sys2Proof.Claims.Leased; decide +kernel),
    by (unfold Sys2Proof.Claims.CheckPasses; decide +kernel)⟩

theorem test_meets_checksums_ckchkign :
    Quiet ckS ∧
    Leased ckS ∧
    (¬CheckPasses ckS 1 2 (CkArg.ig 1)) :=
  ⟨by rfl,
    by (unfold Sys2Proof.Claims.Leased; decide +kernel),
    by (unfold Sys2Proof.Claims.CheckPasses; decide +kernel)⟩

theorem test_meets_checksums_ckchkf :
    Quiet ckF ∧
    Leased ckF ∧
    CheckPasses ckF 11 1 (CkArg.f 2) :=
  ⟨by rfl,
    by (unfold Sys2Proof.Claims.Leased; decide +kernel),
    by (constructor <;> first | decide +kernel | rfl)⟩

theorem test_meets_checksums_ckchkfn :
    Quiet ckF ∧
    Leased ckF ∧
    (¬CheckPasses ckF 12 1 (CkArg.f 2)) :=
  ⟨by rfl,
    by (unfold Sys2Proof.Claims.Leased; decide +kernel),
    by (intro h; cases h)⟩

theorem test_meets_checksums_ckchkfg :
    Quiet ckF ∧
    Leased ckF ∧
    CheckPasses ckF 11 1 (CkArg.fg 13) :=
  ⟨by rfl,
    by (unfold Sys2Proof.Claims.Leased; decide +kernel),
    by (constructor <;> first | decide +kernel | rfl)⟩

theorem test_meets_checksums_ckchkfgn :
    Quiet ckF ∧
    Leased ckF ∧
    (¬CheckPasses ckF 12 1 (CkArg.fg 13)) :=
  ⟨by rfl,
    by (unfold Sys2Proof.Claims.Leased; decide +kernel),
    by (intro h; cases h)⟩

theorem test_meets_checksums_ckchkinf :
    Quiet ckS ∧
    Leased ckS ∧
    CheckPasses ckS 12 0 (CkArg.f 0) :=
  ⟨by rfl,
    by (unfold Sys2Proof.Claims.Leased; decide +kernel),
    by rfl⟩

theorem test_meets_checksums_ckchkinfn :
    Quiet ckS ∧
    Leased ckS ∧
    (¬CheckPasses ckS 12 0 (CkArg.f 1)) :=
  ⟨by rfl,
    by (unfold Sys2Proof.Claims.Leased; decide +kernel),
    by (intro h; cases h)⟩

/-! ### Leases -/

theorem test_meets_leases_vlease16 :
    Quiet (msgStrand user) ∧
    (msgStrand user).me.st = SlotSt.ready ∧
    16 ≤ (msgStrand user).cur.slot :=
  ⟨by rfl,
    by decide +kernel⟩

theorem test_meets_leases_vfree17 :
    Quiet at_vfree17 ∧
    at_vfree17.me.st = SlotSt.ready ∧
    16 ≤ at_vfree17.cur.slot ∧
    at_vfree17.cur.slot ∈ [17, 18] :=
  ⟨by rfl,
    by decide +kernel⟩

theorem test_meets_leases_vfree16 :
    Quiet (msgStrand user) ∧
    (msgStrand user).me.st = SlotSt.ready ∧
    16 ≤ (msgStrand user).cur.slot ∧
    (msgStrand user).cur.slot = 16 :=
  ⟨by rfl,
    by decide +kernel⟩

theorem test_meets_leases_vlease :
    Quiet (one user) ∧
    (one user).me.st = SlotSt.ready ∧
    (one user).cur.slot < 16 ∧
    (one user).me.vl = true :=
  ⟨by rfl,
    by decide +kernel⟩

theorem test_meets_leases_vfree :
    Quiet at_vfree ∧
    at_vfree.me.st = SlotSt.ready ∧
    at_vfree.cur.slot < 16 ∧
    at_vfree.me.vl = false :=
  ⟨by rfl,
    by decide +kernel⟩

theorem test_meets_leases_vlease1 :
    Quiet at_vfree ∧
    at_vfree.me.st = SlotSt.ready ∧
    at_vfree.cur.slot < 16 ∧
    at_vfree.me.vl = false ∧
    at_vfree.mine.leases < 4 :=
  ⟨by rfl,
    by decide +kernel⟩

theorem test_meets_leases_vleasep :
    Quiet (leaseS false []) ∧
    (leaseS false []).me.st = SlotSt.ready ∧
    (leaseS false []).cur.slot < 16 ∧
    (leaseS false []).me.vl = false ∧
    4 ≤ (leaseS false []).mine.leases :=
  ⟨by rfl,
    by decide +kernel⟩

theorem test_meets_leases_vfree1 :
    Quiet (leaseS true []) ∧
    (leaseS true []).me.st = SlotSt.ready ∧
    (leaseS true []).cur.slot < 16 ∧
    (leaseS true []).me.vl = true :=
  ⟨by rfl,
    by decide +kernel⟩

theorem test_meets_leases_vfree2 :
    Quiet (leaseS2 [9, 10]) ∧
    (leaseS2 [9, 10]).me.st = SlotSt.ready ∧
    (leaseS2 [9, 10]).cur.slot < 16 ∧
    (leaseS2 [9, 10]).me.vl = true :=
  ⟨by rfl,
    by decide +kernel⟩

/-- What the witness of `mcanl` runs on. -/
def at_mcanl := (mx { mxHolds with load := some loadB } (mxUser 0) [])

/-- What the witness of `mstat2` runs on. -/
def at_mstat2 := (mx { mxRuns tile1 with res := none, accv := false, err := true, rows := 3 } (mxUser 0) [])

/-- What the witness of `mlc8` runs on. -/
def at_mlc8 := (mx { mxHolds with load := some { loadB with got := [0x8001020304050607] } } (mxUser 0) [])

/-- What the witness of `mlc8` runs on. -/
def at_mlc8_2 := { loadB with got := [0x8001020304050607] }

/-- What the witness of `mlct` runs on. -/
def at_mlct := (mx { mxHolds with load := some { loadB with fmtb := 9, nout := 6, got := [0x8001020304050687] } } (mxUser 0) [])

/-- What the witness of `mlct` runs on. -/
def at_mlct_2 := { loadB with fmtb := 9, nout := 6, got := [0x8001020304050687] }

/-- What the witness of `mlref` runs on. -/
def at_mlref := (mx { mxHolds with load := some { loadB with src := some 0x2000000000000000 } } (mxUser 0) [])

/-- What the witness of `mlref` runs on. -/
def at_mlref_2 := { loadB with src := some 0x2000000000000000 }

/-- What the witness of `row3` runs on. -/
def at_row3 := (mx (mxRuns { mxOp false true true 4 3 3 with scla := 0 }) user [])

/-- What the witness of `toc` runs on. -/
def at_toc := (mxEnds { mxOp false true false 4 4 4 with sums := [[1], [2], [3], [4]] })

/-- What the witness of `toc33` runs on. -/
def at_toc33 := (mxEnds { mxOp false true false 33 33 33 with sums := List.replicate 33 [1] })

/-- What the witness of `tof` runs on. -/
def at_tof := (mxEnds { mxOp false true false 4 2 1 with fault := some 0x45 })

/-- What the witness of `tofc` runs on. -/
def at_tofc := (mxEnds { mxOp false true false 4 2 1 with fault := some 2 })

/-! ### MatrixStarts -/

theorem test_meets_matrixStarts_mrow :
    Quiet Tests.rowStrand ∧
    Tests.rowStrand.cur.slot ∈ [17, 18] :=
  ⟨by rfl,
    by decide +kernel⟩

theorem test_meets_matrixStarts_mbad :
    Quiet (mx mxHolds (mxUser 9) []) ∧
    (mx mxHolds (mxUser 9) []).cur.slot < 17 ∧
    (¬GoodDesc ((mx mxHolds (mxUser 9) []).rg 3) (mx mxHolds (mxUser 9) []).me.fmtb) :=
  ⟨by rfl,
    by decide +kernel,
    by (unfold Sys2Proof.Claims.GoodDesc; decide +kernel)⟩

theorem test_meets_matrixStarts_mbad8 :
    Quiet (mx mxHolds (mxUser 0) []) ∧
    (mx mxHolds (mxUser 0) []).cur.slot < 17 ∧
    (¬GoodDesc ((mx mxHolds (mxUser 0) []).rg 2) (mx mxHolds (mxUser 0) []).me.fmtb) :=
  ⟨by rfl,
    by decide +kernel,
    by (unfold Sys2Proof.Claims.GoodDesc; decide +kernel)⟩

theorem test_meets_matrixStarts_mbusy :
    Quiet (mx (mxRuns tile1) (mxUser 9) []) ∧
    (mx (mxRuns tile1) (mxUser 9) []).cur.slot < 17 ∧
    GoodDesc ((mx (mxRuns tile1) (mxUser 9) []).rg 2) (mx (mxRuns tile1) (mxUser 9) []).me.fmtb ∧
    (¬Idle (mx (mxRuns tile1) (mxUser 9) []).mine.matrix) :=
  ⟨by rfl,
    by decide +kernel,
    by (unfold Sys2Proof.Claims.GoodDesc; decide +kernel),
    by (unfold Claims.Idle; decide +kernel)⟩

theorem test_meets_matrixStarts_mload :
    Quiet (mx mxHolds (mxUser 9) []) ∧
    (mx mxHolds (mxUser 9) []).cur.slot < 17 ∧
    GoodDesc ((mx mxHolds (mxUser 9) []).rg 2) (mx mxHolds (mxUser 9) []).me.fmtb ∧
    Idle (mx mxHolds (mxUser 9) []).mine.matrix :=
  ⟨by rfl,
    by decide +kernel,
    by (unfold Sys2Proof.Claims.GoodDesc; decide +kernel),
    by (unfold Sys2Proof.Claims.Idle; decide +kernel)⟩

theorem test_meets_matrixStarts_mload8 :
    Quiet (mx mxHolds (mxUser 0) []) ∧
    (mx mxHolds (mxUser 0) []).cur.slot < 17 ∧
    GoodDesc ((mx mxHolds (mxUser 0) []).rg 8) (mx mxHolds (mxUser 0) []).me.fmtb ∧
    Idle (mx mxHolds (mxUser 0) []).mine.matrix :=
  ⟨by rfl,
    by decide +kernel,
    by (unfold Sys2Proof.Claims.GoodDesc; decide +kernel),
    by (unfold Sys2Proof.Claims.Idle; decide +kernel)⟩

theorem test_meets_matrixStarts_mloadqu :
    Quiet (mx mxHolds (mxUser 0) []) ∧
    (mx mxHolds (mxUser 0) []).cur.slot < 17 ∧
    GoodDesc ((mx mxHolds (mxUser 0) []).rg 8) (mx mxHolds (mxUser 0) []).me.fmtb ∧
    ((List.all (mx mxHolds (mxUser 0) []).mine.queues fun (y : Nat × QBind) => decide (y.2.kind ≠ QKind.mb)) = true) :=
  ⟨by rfl,
    by decide +kernel,
    by (unfold Sys2Proof.Claims.GoodDesc; decide +kernel),
    by decide +kernel⟩

theorem test_meets_matrixStarts_mloadq :
    Quiet (mx mxHolds (mxUser 0) [(3, { slot := 0, kind := QKind.mb : QBind })]) ∧
    (mx mxHolds (mxUser 0) [(3, { slot := 0, kind := QKind.mb : QBind })]).cur.slot < 17 ∧
    GoodDesc ((mx mxHolds (mxUser 0) [(3, { slot := 0, kind := QKind.mb : QBind })]).rg 8) (mx mxHolds (mxUser 0) [(3, { slot := 0, kind := QKind.mb : QBind })]).me.fmtb ∧
    Idle (mx mxHolds (mxUser 0) [(3, { slot := 0, kind := QKind.mb : QBind })]).mine.matrix ∧
    (mx mxHolds (mxUser 0) [(3, { slot := 0, kind := QKind.mb : QBind })]).mine.matrix.portb = [] ∧
    (∃ (q : QReg), (mx mxHolds (mxUser 0) [(3, { slot := 0, kind := QKind.mb : QBind })]).mine.queue q = some { slot := (mx mxHolds (mxUser 0) [(3, { slot := 0, kind := QKind.mb : QBind })]).cur.slot, kind := QKind.mb : QBind }) :=
  ⟨by rfl,
    by decide +kernel,
    by (unfold Sys2Proof.Claims.GoodDesc; decide +kernel),
    by (unfold Sys2Proof.Claims.Idle; decide +kernel),
    by decide +kernel⟩

theorem test_meets_matrixStarts_mtilebad :
    Quiet (mx mxHolds (mxUser 0) []) ∧
    (mx mxHolds (mxUser 0) []).cur.slot < 17 ∧
    ((askedTile (mx mxHolds (mxUser 0) []) 1 5 6 3).m = 0 ∨ ((askedTile (mx mxHolds (mxUser 0) []) 1 5 6 3).acc = true ∨ (askedTile (mx mxHolds (mxUser 0) []) 1 5 6 3).drain = false) ∧ 32 < (askedTile (mx mxHolds (mxUser 0) []) 1 5 6 3).m) :=
  ⟨by rfl,
    by decide +kernel⟩

theorem test_meets_matrixStarts_mtilebad0 :
    Quiet (mx mxHolds (mxUser 0) []) ∧
    (mx mxHolds (mxUser 0) []).cur.slot < 17 ∧
    ((askedTile (mx mxHolds (mxUser 0) []) 1 9 6 3).m = 0 ∨ ((askedTile (mx mxHolds (mxUser 0) []) 1 9 6 3).acc = true ∨ (askedTile (mx mxHolds (mxUser 0) []) 1 9 6 3).drain = false) ∧ 32 < (askedTile (mx mxHolds (mxUser 0) []) 1 9 6 3).m) :=
  ⟨by rfl,
    by decide +kernel⟩

theorem test_meets_matrixStarts_mtileunb :
    Quiet (mx mxHolds (mxUser 0) []) ∧
    (mx mxHolds (mxUser 0) []).cur.slot < 17 ∧
    (askedTile (mx mxHolds (mxUser 0) []) 1 7 6 3).m ≠ 0 ∧
    ((askedTile (mx mxHolds (mxUser 0) []) 1 7 6 3).m ≤ 32 ∨ (askedTile (mx mxHolds (mxUser 0) []) 1 7 6 3).acc = false ∧ (askedTile (mx mxHolds (mxUser 0) []) 1 7 6 3).drain = true) ∧
    (askedTile (mx mxHolds (mxUser 0) []) 1 7 6 3).aq = true ∧
    ((List.all (mx mxHolds (mxUser 0) []).mine.queues fun (y : Nat × QBind) => decide (y.2.kind ≠ QKind.ma)) = true) :=
  ⟨by rfl,
    by decide +kernel⟩

theorem test_meets_matrixStarts_mtilebusy :
    Quiet (mx (mxRuns tile1) (mxUser 0) []) ∧
    (mx (mxRuns tile1) (mxUser 0) []).cur.slot < 17 ∧
    (askedTile (mx (mxRuns tile1) (mxUser 0) []) 1 4 6 3).m ≠ 0 ∧
    ((askedTile (mx (mxRuns tile1) (mxUser 0) []) 1 4 6 3).m ≤ 32 ∨ (askedTile (mx (mxRuns tile1) (mxUser 0) []) 1 4 6 3).acc = false ∧ (askedTile (mx (mxRuns tile1) (mxUser 0) []) 1 4 6 3).drain = true) ∧
    (askedTile (mx (mxRuns tile1) (mxUser 0) []) 1 4 6 3).aq = false ∧
    (¬Idle (mx (mxRuns tile1) (mxUser 0) []).mine.matrix) :=
  ⟨by rfl,
    by decide +kernel,
    by decide +kernel,
    by decide +kernel,
    (by decide +kernel),
    by (unfold Claims.Idle; decide +kernel)⟩

theorem test_meets_matrixStarts_mtile :
    Quiet (mx mxHolds (mxUser 0) []) ∧
    (mx mxHolds (mxUser 0) []).cur.slot < 17 ∧
    (askedTile (mx mxHolds (mxUser 0) []) 1 4 6 3).m ≠ 0 ∧
    ((askedTile (mx mxHolds (mxUser 0) []) 1 4 6 3).m ≤ 32 ∨ (askedTile (mx mxHolds (mxUser 0) []) 1 4 6 3).acc = false ∧ (askedTile (mx mxHolds (mxUser 0) []) 1 4 6 3).drain = true) ∧
    (askedTile (mx mxHolds (mxUser 0) []) 1 4 6 3).aq = false ∧
    Idle (mx mxHolds (mxUser 0) []).mine.matrix ∧
    (mx mxHolds (mxUser 0) []).launchInc (mx mxHolds (mxUser 0) []).me.job (mx mxHolds (mxUser 0) []).me.lid.toNat = (mx mxHolds (mxUser 0) [], true) ∧
    Fits (mx mxHolds (mxUser 0) []).mine.matrix (askedTile (mx mxHolds (mxUser 0) []) 1 4 6 3) :=
  ⟨by rfl,
    by decide +kernel,
    by decide +kernel,
    by decide +kernel,
    (by decide +kernel),
    by (unfold Sys2Proof.Claims.Idle; decide +kernel),
    by decide +kernel,
    by (unfold Sys2Proof.Claims.Fits; decide +kernel)⟩

theorem test_meets_matrixStarts_mtilefmt :
    Quiet mxFaults ∧
    mxFaults.cur.slot < 17 ∧
    (askedTile mxFaults 1 4 6 3).m ≠ 0 ∧
    ((askedTile mxFaults 1 4 6 3).m ≤ 32 ∨ (askedTile mxFaults 1 4 6 3).acc = false ∧ (askedTile mxFaults 1 4 6 3).drain = true) ∧
    (askedTile mxFaults 1 4 6 3).aq = false ∧
    Idle mxFaults.mine.matrix ∧
    mxFaults.launchInc mxFaults.me.job mxFaults.me.lid.toNat = (mxFaults, true) ∧
    (¬Fits mxFaults.mine.matrix (askedTile mxFaults 1 4 6 3)) ∧
    mxFaults.split = true :=
  ⟨by rfl,
    by decide +kernel,
    by decide +kernel,
    by decide +kernel,
    (by decide +kernel),
    by (unfold Sys2Proof.Claims.Idle; decide +kernel),
    by decide +kernel,
    by (rintro ⟨r, hr, h⟩; cases hr; revert h; decide +kernel),
    by decide +kernel⟩

theorem test_meets_matrixStarts_mcanl :
    Quiet at_mcanl ∧
    at_mcanl.mine.matrix.load = some loadB ∧
    at_mcanl.mine.matrix.tile = none ∧
    at_mcanl.mine.matrix.queued = none :=
  ⟨by rfl,
    by decide +kernel⟩

theorem test_meets_matrixStarts_mcant :
    Quiet (mx (mxRuns tile1) (mxUser 0) []) ∧
    (mx (mxRuns tile1) (mxUser 0) []).mine.matrix.load = none ∧
    (mx (mxRuns tile1) (mxUser 0) []).mine.matrix.tile = some tile1 ∧
    tile1.fault = none ∧
    if tile1.drain = true then tile1.passed ≠ tile1.m else tile1.next ≠ tile1.m :=
  ⟨by rfl,
    by decide +kernel⟩

theorem test_meets_matrixStarts_mcani :
    Quiet (mx mxHolds (mxUser 0) []) ∧
    Idle (mx mxHolds (mxUser 0) []).mine.matrix :=
  ⟨by rfl,
    by (unfold Sys2Proof.Claims.Idle; decide +kernel)⟩

theorem test_meets_matrixStarts_mstat :
    Quiet (mx mxHolds (mxUser 0) []) ∧
    (mx mxHolds (mxUser 0) []).mine.matrix.rows < 2 ^ 16 :=
  ⟨by rfl,
    by decide +kernel⟩

theorem test_meets_matrixStarts_mstat2 :
    Quiet at_mstat2 ∧
    at_mstat2.mine.matrix.rows < 2 ^ 16 :=
  ⟨by rfl,
    by decide +kernel⟩

/-! ### MatrixLoads -/

theorem test_meets_matrixLoads_mlc8 :
    (at_mlc8.core 0).matrix.load = some at_mlc8_2 ∧
    (at_mlc8.core 0).matrix.tile = none ∧
    (at_mlc8.core 0).matrix.queued = none ∧
    1 ≤ at_mlc8_2.k ∧
    1 ≤ at_mlc8_2.nout ∧
    at_mlc8_2.src = none ∧
    (at_mlc8_2.fmtb = 9 ∧ 3 = (at_mlc8_2.nout + 3) / 4 ∨ at_mlc8_2.fmtb = 0 ∧ 3 = at_mlc8_2.nout) ∧
    3 * at_mlc8_2.k ≤ 8 * at_mlc8_2.got.length :=
  by decide +kernel

theorem test_meets_matrixLoads_mlct :
    (at_mlct.core 0).matrix.load = some at_mlct_2 ∧
    (at_mlct.core 0).matrix.tile = none ∧
    (at_mlct.core 0).matrix.queued = none ∧
    1 ≤ at_mlct_2.k ∧
    1 ≤ at_mlct_2.nout ∧
    at_mlct_2.src = none ∧
    (at_mlct_2.fmtb = 9 ∧ 2 = (at_mlct_2.nout + 3) / 4 ∨ at_mlct_2.fmtb = 0 ∧ 2 = at_mlct_2.nout) ∧
    2 * at_mlct_2.k ≤ 8 * at_mlct_2.got.length :=
  by decide +kernel

theorem test_meets_matrixLoads_mlref :
    (at_mlref.core 0).matrix.load = some at_mlref_2 ∧
    (at_mlref.core 0).matrix.tile = none ∧
    (at_mlref.core 0).matrix.queued = none ∧
    1 ≤ at_mlref_2.k ∧
    1 ≤ at_mlref_2.nout ∧
    at_mlref_2.src = some 2305843009213693952 ∧
    (at_mlref_2.fmtb = 9 ∨ at_mlref_2.fmtb = 0) ∧
    space false 2305843009213693952 = Except.error 5 ∧
    ((List.all (at_mlref.core 0).queues fun (q : Nat × QBind) => decide (q.2.slot < 19)) = true) :=
  by decide +kernel

/-! ### MatrixRows -/

theorem test_meets_matrixRows_row1 :
    ((mx (mxRuns (mxOp true false true 4 2 0)) user []).core 0).matrix.tile = some (mxOp true false true 4 2 0) ∧
    ((mx (mxRuns (mxOp true false true 4 2 0)) user []).core 0).matrix.res = some resB ∧
    Shaped resB ∧
    ((mx (mxRuns (mxOp true false true 4 2 0)) user []).core 0).matrix.load = none ∧
    ((mx (mxRuns (mxOp true false true 4 2 0)) user []).core 0).matrix.held = none ∧
    (mxOp true false true 4 2 0).fault = none ∧
    (mxOp true false true 4 2 0).next < (mxOp true false true 4 2 0).m ∧
    (mxOp true false true 4 2 0).fmta = 0 ∧
    (mx (mxRuns (mxOp true false true 4 2 0)) user []).preempts = [] ∧
    (mxOp true false true 4 2 0).aq = true ∧
    (resB.k + 7) / 8 ≤ ((mx (mxRuns (mxOp true false true 4 2 0)) user []).core 0).matrix.porta.length ∧
    (mxOp true false true 4 2 0).m ≤ 32 ∧
    ((mxOp true false true 4 2 0).acc = true → (((mx (mxRuns (mxOp true false true 4 2 0)) user []).core 0).matrix.bank.getD (mxOp true false true 4 2 0).next []).length = resB.nout) ∧
    (mxOp true false true 4 2 0).drain = false :=
  ⟨by decide +kernel,
    by decide +kernel,
    by (unfold Sys2Proof.Claims.Shaped; decide +kernel),
    by decide +kernel⟩

theorem test_meets_matrixRows_row2 :
    ((mx (mxRuns (mxOp false false true 4 2 0)) user []).core 0).matrix.tile = some (mxOp false false true 4 2 0) ∧
    ((mx (mxRuns (mxOp false false true 4 2 0)) user []).core 0).matrix.res = some resB ∧
    Shaped resB ∧
    ((mx (mxRuns (mxOp false false true 4 2 0)) user []).core 0).matrix.load = none ∧
    ((mx (mxRuns (mxOp false false true 4 2 0)) user []).core 0).matrix.held = none ∧
    (mxOp false false true 4 2 0).fault = none ∧
    (mxOp false false true 4 2 0).next < (mxOp false false true 4 2 0).m ∧
    (mxOp false false true 4 2 0).fmta = 0 ∧
    (mx (mxRuns (mxOp false false true 4 2 0)) user []).preempts = [] ∧
    (mxOp false false true 4 2 0).aq = true ∧
    (resB.k + 7) / 8 ≤ ((mx (mxRuns (mxOp false false true 4 2 0)) user []).core 0).matrix.porta.length ∧
    (mxOp false false true 4 2 0).m ≤ 32 ∧
    ((mxOp false false true 4 2 0).acc = true → (((mx (mxRuns (mxOp false false true 4 2 0)) user []).core 0).matrix.bank.getD (mxOp false false true 4 2 0).next []).length = resB.nout) ∧
    (mxOp false false true 4 2 0).drain = false :=
  ⟨by decide +kernel,
    by decide +kernel,
    by (unfold Sys2Proof.Claims.Shaped; decide +kernel),
    by decide +kernel⟩

theorem test_meets_matrixRows_row3 :
    (at_row3.core 0).matrix.tile = some ({ (mxOp false true true 4 3 3) with scla := 0 : Tile }) ∧
    (at_row3.core 0).matrix.res = some resB ∧
    Shaped resB ∧
    (at_row3.core 0).matrix.load = none ∧
    (at_row3.core 0).matrix.held = none ∧
    ({ (mxOp false true true 4 3 3) with scla := 0 : Tile }).fault = none ∧
    ({ (mxOp false true true 4 3 3) with scla := 0 : Tile }).next < ({ (mxOp false true true 4 3 3) with scla := 0 : Tile }).m ∧
    ({ (mxOp false true true 4 3 3) with scla := 0 : Tile }).fmta = 0 ∧
    at_row3.preempts = [] ∧
    ({ (mxOp false true true 4 3 3) with scla := 0 : Tile }).aq = true ∧
    (resB.k + 7) / 8 ≤ (at_row3.core 0).matrix.porta.length ∧
    ({ (mxOp false true true 4 3 3) with scla := 0 : Tile }).m ≤ 32 ∧
    (({ (mxOp false true true 4 3 3) with scla := 0 : Tile }).acc = true → ((at_row3.core 0).matrix.bank.getD ({ (mxOp false true true 4 3 3) with scla := 0 : Tile }).next []).length = resB.nout) ∧
    ({ (mxOp false true true 4 3 3) with scla := 0 : Tile }).drain = true ∧
    ({ (mxOp false true true 4 3 3) with scla := 0 : Tile }).scla = 0 ∧
    ({ (mxOp false true true 4 3 3) with scla := 0 : Tile }).sclb = 0 ∧
    (at_row3.core 0).matrix.bufs = [] :=
  ⟨by decide +kernel,
    by decide +kernel,
    by (unfold Sys2Proof.Claims.Shaped; decide +kernel),
    by decide +kernel⟩

theorem test_meets_matrixRows_rowf :
    ((mx (mxRuns (mxOp true false false 4 2 0)) user []).core 0).matrix.tile = some (mxOp true false false 4 2 0) ∧
    ((mx (mxRuns (mxOp true false false 4 2 0)) user []).core 0).matrix.res = some resB ∧
    Shaped resB ∧
    ((mx (mxRuns (mxOp true false false 4 2 0)) user []).core 0).matrix.load = none ∧
    ((mx (mxRuns (mxOp true false false 4 2 0)) user []).core 0).matrix.held = none ∧
    (mxOp true false false 4 2 0).fault = none ∧
    (mxOp true false false 4 2 0).next < (mxOp true false false 4 2 0).m ∧
    (mxOp true false false 4 2 0).fmta = 0 ∧
    (mx (mxRuns (mxOp true false false 4 2 0)) user []).preempts = [] ∧
    (mxOp true false false 4 2 0).aq = false ∧
    1 ≤ resB.k ∧
    space false ((mxOp true false false 4 2 0).asrc + BitVec.ofNat 64 ((mxOp true false false 4 2 0).next * (mxOp true false false 4 2 0).astride)) = Except.error 5 :=
  ⟨by decide +kernel,
    by decide +kernel,
    by (unfold Sys2Proof.Claims.Shaped; decide +kernel),
    by decide +kernel⟩

/-! ### RowHandlers -/

theorem test_meets_rowHandlers_rhs :
    (mxRow.core 0).matrix.tile = some (mxOp false true true 4 2 1) ∧
    (mxOp false true true 4 2 1).fault = none ∧
    (mxRow.core 0).matrix.bufs = [(↑(1 : Fin 2), mxBuf 1)] ∧
    (mxBuf 1).started = false ∧
    ((List.all (mxRow.core 0).queues fun (y : Nat × QBind) => decide (y.2.kind ≠ QKind.mout)) = true) ∧
    (mxRow.strand 0 (17 + ↑(1 : Fin 2))).st = SlotSt.free ∧
    mxRow.opens 0 = true ∧
    mxRow.handlerEntry 0 (mxOp false true true 4 2 1).hidx.toNat = (mxRow, Except.ok 256) ∧
    mxRow.core 0 = mxRow.core 0 :=
  by decide +kernel

theorem test_meets_rowHandlers_rgno :
    Quiet (mx mxHolds (mxUser 9) []) ∧
    ((mx mxHolds (mxUser 9) []).me.row = none ∨ (mx mxHolds (mxUser 9) []).cur.slot < 17) :=
  ⟨by rfl,
    by decide +kernel⟩

theorem test_meets_rowHandlers_rgf :
    Quiet mxHandler ∧
    1 < 2 ∧
    mxHandler.cur.slot = 17 + 1 ∧
    mxHandler.me.row ≠ none ∧
    mxHandler.mine.matrix.bufs = [(1, mxBuf 1)] :=
  ⟨by rfl,
    by decide +kernel⟩

theorem test_meets_rowHandlers_rgs :
    Quiet mxHandler ∧
    1 < 2 ∧
    mxHandler.cur.slot = 17 + 1 ∧
    mxHandler.me.row ≠ none ∧
    mxHandler.mine.matrix.bufs = [(1, mxBuf 1)] :=
  ⟨by rfl,
    by decide +kernel⟩

theorem test_meets_rowHandlers_rgp :
    Quiet mxHandler ∧
    1 < 2 ∧
    mxHandler.cur.slot = 17 + 1 ∧
    mxHandler.me.row ≠ none ∧
    mxHandler.mine.matrix.bufs = [(1, mxBuf 1)] ∧
    Calm mxHandler ∧
    mxHandler.mine.matrix.held = none :=
  ⟨by rfl,
    by decide +kernel,
    by decide +kernel,
    by decide +kernel,
    (by decide +kernel),
    by (constructor <;> first | decide +kernel | rfl),
    by decide +kernel⟩

theorem test_meets_rowHandlers_toc :
    (at_toc.core 0).matrix.tile = some ({ (mxOp false true false 4 4 4) with sums := [[1], [2], [3], [4]] : Tile }) ∧
    (at_toc.core 0).matrix.load = none ∧
    at_toc.split = true ∧
    ({ (mxOp false true false 4 4 4) with sums := [[1], [2], [3], [4]] : Tile }).task = none ∧
    ({ (mxOp false true false 4 4 4) with sums := [[1], [2], [3], [4]] : Tile }).fault = none ∧
    if ({ (mxOp false true false 4 4 4) with sums := [[1], [2], [3], [4]] : Tile }).drain = true then ({ (mxOp false true false 4 4 4) with sums := [[1], [2], [3], [4]] : Tile }).passed = ({ (mxOp false true false 4 4 4) with sums := [[1], [2], [3], [4]] : Tile }).m else ({ (mxOp false true false 4 4 4) with sums := [[1], [2], [3], [4]] : Tile }).next = ({ (mxOp false true false 4 4 4) with sums := [[1], [2], [3], [4]] : Tile }).m :=
  by decide +kernel

theorem test_meets_rowHandlers_toc33 :
    (at_toc33.core 0).matrix.tile = some ({ (mxOp false true false 33 33 33) with sums := List.replicate 33 [1] : Tile }) ∧
    (at_toc33.core 0).matrix.load = none ∧
    at_toc33.split = true ∧
    ({ (mxOp false true false 33 33 33) with sums := List.replicate 33 [1] : Tile }).task = none ∧
    ({ (mxOp false true false 33 33 33) with sums := List.replicate 33 [1] : Tile }).fault = none ∧
    if ({ (mxOp false true false 33 33 33) with sums := List.replicate 33 [1] : Tile }).drain = true then ({ (mxOp false true false 33 33 33) with sums := List.replicate 33 [1] : Tile }).passed = ({ (mxOp false true false 33 33 33) with sums := List.replicate 33 [1] : Tile }).m else ({ (mxOp false true false 33 33 33) with sums := List.replicate 33 [1] : Tile }).next = ({ (mxOp false true false 33 33 33) with sums := List.replicate 33 [1] : Tile }).m :=
  by decide +kernel

theorem test_meets_rowHandlers_tof :
    (at_tof.core 0).matrix.tile = some ({ (mxOp false true false 4 2 1) with fault := some 69 : Tile }) ∧
    (at_tof.core 0).matrix.load = none ∧
    at_tof.split = true ∧
    ({ (mxOp false true false 4 2 1) with fault := some 69 : Tile }).task = none ∧
    ({ (mxOp false true false 4 2 1) with fault := some 69 : Tile }).fault = some 69 ∧
    69 ≠ 0 ∧
    ({ (mxOp false true false 4 2 1) with fault := some 69 : Tile }).ran = [] :=
  by decide +kernel

theorem test_meets_rowHandlers_tofc :
    (at_tofc.core 0).matrix.tile = some ({ (mxOp false true false 4 2 1) with fault := some 2 : Tile }) ∧
    (at_tofc.core 0).matrix.load = none ∧
    at_tofc.split = true ∧
    ({ (mxOp false true false 4 2 1) with fault := some 2 : Tile }).task = none ∧
    ({ (mxOp false true false 4 2 1) with fault := some 2 : Tile }).fault = some 2 ∧
    2 ≠ 0 ∧
    ({ (mxOp false true false 4 2 1) with fault := some 2 : Tile }).ran = [] :=
  by decide +kernel

/-- What the witness of `waddfirst` runs on. -/
def at_waddfirst := (waleS { tileW .exact .opened [(20, 30)] with lid := 9 })

/-- What the witness of `waddfirst` runs on. -/
def at_waddfirst_2 := { tileW .exact .opened [(20, 30)] with lid := 9 }

/-- What the witness of `wtcompx` runs on. -/
def at_wtcompx := (waleS { tileW .exact .complete [(0, 100)] with data := [1, -2, 16777217, -16777219, 0, 9] })

/-- What the witness of `wtcompx` runs on. -/
def at_wtcompx_2 := { tileW .exact .complete [(0, 100)] with data := [1, -2, 16777217, -16777219, 0, 9] }

/-- What the witness of `wiarr` runs on. -/
def at_wiarr := { waleWaits (tileW .order .opened []) (.wstat (handle 5 7 3)) 0 with wreqs := [] }

/-- What the witness of `wird` runs on. -/
def at_wird := { waleWaits (tileW .order .complete [(0, 100)]) (.wread (handle 5 7 3) 31 false) 0 with wreqs := [] }

/-- What the witness of `ww16` runs on. -/
def at_ww16 := { waleS (tileW .order .opened []) with cores := [(0, { kbg with strands := [(16, (waleS (tileW .order .opened [])).me)] })], cur := ⟨0, 16⟩ }

/-- What the witness of `add` runs on. -/
def at_add := (waleParked { tileW .order .opened [(0, 100)] with adds := [(0, [0x3F800000, 0x40000000, 0, 0x40400000, 0xBF800000, 0x80000000]), (10, [1, 2, 3, 4, 5, 6])] })

/-- What the witness of `addx` runs on. -/
def at_addx := (waleParked { tileW .exact .opened [(0, 100)] with adds := [(0, [-5, 0x40000000, 0, 0x40400000, 0xBF800000, 0x80000000])] })

/-- What the witness of `add1` runs on. -/
def at_add1 := (waleParked { tileW .order .opened [(1, 100)] with adds := [(1, [1, 2, 3, 4, 5, 6])] })

/-- What the witness of `addst` runs on. -/
def at_addst := (waleParked { tileW .order .opened [(0, 100)] with staged := [(3, 100, [1, 2, 3, 4, 5, 6])], adds := [(1, [1, 2, 3, 4, 5, 6])] })

/-! ### WaleArms -/

theorem test_meets_waleArms_warmshape :
    (field (warmWord 100 3 2 3 3 none) 24 2 = 3 ∨ field (warmWord 100 3 2 3 3 none) 60 4 ≠ 0) :=
  by decide +kernel

theorem test_meets_waleArms_warmrange0 :
    field (warmWord 0 0 2 3 3 none) 24 2 ≠ 3 ∧
    field (warmWord 0 0 2 3 3 none) 60 4 = 0 ∧
    (field (warmWord 0 0 2 3 3 none) 0 24 = 0 ∨ BitVec.getLsbD (warmWord 0 0 2 3 3 none) 45 = true ∧ (waleS Wale.empty).inHoods 1 (field (warmWord 0 0 2 3 3 none) 46 9) = false) :=
  by decide +kernel

theorem test_meets_waleArms_warmrangeb :
    field (warmWord 4 0 2 3 3 (some (9, 1))) 24 2 ≠ 3 ∧
    field (warmWord 4 0 2 3 3 (some (9, 1))) 60 4 = 0 ∧
    (field (warmWord 4 0 2 3 3 (some (9, 1))) 0 24 = 0 ∨ BitVec.getLsbD (warmWord 4 0 2 3 3 (some (9, 1))) 45 = true ∧ (waleS Wale.empty).inHoods 1 (field (warmWord 4 0 2 3 3 (some (9, 1))) 46 9) = false) :=
  by decide +kernel

theorem test_meets_waleArms_warmfull :
    field (warmWord 4 1 2 3 3 none) 24 2 ≠ 3 ∧
    field (warmWord 4 1 2 3 3 none) 60 4 = 0 ∧
    field (warmWord 4 1 2 3 3 none) 0 24 ≠ 0 ∧
    (BitVec.getLsbD (warmWord 4 1 2 3 3 none) 45 = false ∨ waleFull.inHoods 1 (field (warmWord 4 1 2 3 3 none) 46 9) = true) ∧
    field (warmWord 4 1 2 3 3 none) 24 2 ≠ 0 ∧
    (∀ j < 64, waleFull.slotFree (field (warmWord 4 1 2 3 3 none) 36 9 * 64 + j) = false) :=
  by decide +kernel

theorem test_meets_waleArms_warm :
    field (warmWord 4 1 2 3 3 (some (0, 31))) 24 2 ≠ 3 ∧
    field (warmWord 4 1 2 3 3 (some (0, 31))) 60 4 = 0 ∧
    field (warmWord 4 1 2 3 3 (some (0, 31))) 0 24 ≠ 0 ∧
    (BitVec.getLsbD (warmWord 4 1 2 3 3 (some (0, 31))) 45 = false ∨ walePair.inHoods 1 (field (warmWord 4 1 2 3 3 (some (0, 31))) 46 9) = true) ∧
    field (warmWord 4 1 2 3 3 (some (0, 31))) 24 2 ≠ 0 ∧
    1 < 64 ∧
    walePair.slotFree (field (warmWord 4 1 2 3 3 (some (0, 31))) 36 9 * 64 + 1) = true ∧
    (∀ i < 1, walePair.slotFree (field (warmWord 4 1 2 3 3 (some (0, 31))) 36 9 * 64 + i) = false) :=
  by decide +kernel

theorem test_meets_waleArms_warm2 :
    field (warmWord 16777215 2 32 32 3 none) 24 2 ≠ 3 ∧
    field (warmWord 16777215 2 32 32 3 none) 60 4 = 0 ∧
    field (warmWord 16777215 2 32 32 3 none) 0 24 ≠ 0 ∧
    (BitVec.getLsbD (warmWord 16777215 2 32 32 3 none) 45 = false ∨ (waleS (tileW WaleMode.order WaleSt.opened [])).inHoods 1 (field (warmWord 16777215 2 32 32 3 none) 46 9) = true) ∧
    field (warmWord 16777215 2 32 32 3 none) 24 2 ≠ 0 ∧
    0 < 64 ∧
    (waleS (tileW WaleMode.order WaleSt.opened [])).slotFree (field (warmWord 16777215 2 32 32 3 none) 36 9 * 64 + 0) = true ∧
    (∀ i < 0, (waleS (tileW WaleMode.order WaleSt.opened [])).slotFree (field (warmWord 16777215 2 32 32 3 none) 36 9 * 64 + i) = false) :=
  by decide +kernel

theorem test_meets_waleArms_warmx :
    field (warmWord 4 0 2 3 3 (some (0, 31))) 24 2 ≠ 3 ∧
    field (warmWord 4 0 2 3 3 (some (0, 31))) 60 4 = 0 ∧
    field (warmWord 4 0 2 3 3 (some (0, 31))) 0 24 ≠ 0 ∧
    (BitVec.getLsbD (warmWord 4 0 2 3 3 (some (0, 31))) 45 = false ∨ walePair.inHoods 1 (field (warmWord 4 0 2 3 3 (some (0, 31))) 46 9) = true) ∧
    field (warmWord 4 0 2 3 3 (some (0, 31))) 24 2 = 0 ∧
    3 < 32 ∧
    walePair.slotFree (field (warmWord 4 0 2 3 3 (some (0, 31))) 36 9 * 64 + 2 * 3) = true ∧
    walePair.slotFree (field (warmWord 4 0 2 3 3 (some (0, 31))) 36 9 * 64 + 2 * 3 + 1) = true ∧
    (∀ i < 3, walePair.slotFree (field (warmWord 4 0 2 3 3 (some (0, 31))) 36 9 * 64 + 2 * i) = false ∨ walePair.slotFree (field (warmWord 4 0 2 3 3 (some (0, 31))) 36 9 * 64 + 2 * i + 1) = false) :=
  by decide +kernel

/-! ### WaleContributions -/

theorem test_meets_waleContributions_wadddead :
    Held (waleS (tileW WaleMode.order WaleSt.dead [])) 7 3 (tileW WaleMode.order WaleSt.dead []) 1 ∧
    handle 5 7 3 = handle (tileW WaleMode.order WaleSt.dead []).gen 7 3 ∧
    GoodExts (tileW WaleMode.order WaleSt.dead []).exts ∧
    ((tileW WaleMode.order WaleSt.dead []).st = WaleSt.dead ∨ (tileW WaleMode.order WaleSt.dead []).st = WaleSt.free) :=
  ⟨by (constructor <;> first | decide +kernel | rfl),
    by decide +kernel,
    by (unfold Sys2Proof.Claims.GoodExts; decide +kernel),
    by decide +kernel⟩

theorem test_meets_waleContributions_waddshape :
    Held (waleS (tileW WaleMode.order WaleSt.opened [])) 7 3 (tileW WaleMode.order WaleSt.opened []) 1 ∧
    handle 5 7 3 = handle (tileW WaleMode.order WaleSt.opened []).gen 7 3 ∧
    GoodExts (tileW WaleMode.order WaleSt.opened []).exts ∧
    ((tileW WaleMode.order WaleSt.opened []).st = WaleSt.opened ∨ (tileW WaleMode.order WaleSt.opened []).st = WaleSt.complete) ∧
    (¬(field (ivWord 0 10 1) 50 14 = 0 ∧ if (tileW WaleMode.order WaleSt.opened []).mode = WaleMode.exact then field (ivWord 0 10 1) 48 2 = 1 ∨ field (ivWord 0 10 1) 48 2 = 2 else field (ivWord 0 10 1) 48 2 = 0)) :=
  ⟨by (constructor <;> first | decide +kernel | rfl),
    by decide +kernel,
    by (unfold Sys2Proof.Claims.GoodExts; decide +kernel),
    by decide +kernel⟩

theorem test_meets_waleContributions_waddrange :
    Held (waleS (tileW WaleMode.order WaleSt.opened [])) 7 3 (tileW WaleMode.order WaleSt.opened []) 1 ∧
    handle 5 7 3 = handle (tileW WaleMode.order WaleSt.opened []).gen 7 3 ∧
    GoodExts (tileW WaleMode.order WaleSt.opened []).exts ∧
    ((tileW WaleMode.order WaleSt.opened []).st = WaleSt.opened ∨ (tileW WaleMode.order WaleSt.opened []).st = WaleSt.complete) ∧
    (field (ivWord 0 101 0) 50 14 = 0 ∧ if (tileW WaleMode.order WaleSt.opened []).mode = WaleMode.exact then field (ivWord 0 101 0) 48 2 = 1 ∨ field (ivWord 0 101 0) 48 2 = 2 else field (ivWord 0 101 0) 48 2 = 0) ∧
    (field (ivWord 0 101 0) 24 24 ≤ field (ivWord 0 101 0) 0 24 ∨ (tileW WaleMode.order WaleSt.opened []).k < field (ivWord 0 101 0) 24 24) :=
  ⟨by (constructor <;> first | decide +kernel | rfl),
    by decide +kernel,
    by (unfold Sys2Proof.Claims.GoodExts; decide +kernel),
    by decide +kernel⟩

theorem test_meets_waleContributions_waddmeets :
    Held (waleS (tileW WaleMode.order WaleSt.opened [(0, 10), (20, 30)])) 7 3 (tileW WaleMode.order WaleSt.opened [(0, 10), (20, 30)]) 1 ∧
    handle 5 7 3 = handle (tileW WaleMode.order WaleSt.opened [(0, 10), (20, 30)]).gen 7 3 ∧
    GoodExts (tileW WaleMode.order WaleSt.opened [(0, 10), (20, 30)]).exts ∧
    ((tileW WaleMode.order WaleSt.opened [(0, 10), (20, 30)]).st = WaleSt.opened ∨ (tileW WaleMode.order WaleSt.opened [(0, 10), (20, 30)]).st = WaleSt.complete) ∧
    (field (ivWord 9 20 0) 50 14 = 0 ∧ if (tileW WaleMode.order WaleSt.opened [(0, 10), (20, 30)]).mode = WaleMode.exact then field (ivWord 9 20 0) 48 2 = 1 ∨ field (ivWord 9 20 0) 48 2 = 2 else field (ivWord 9 20 0) 48 2 = 0) ∧
    field (ivWord 9 20 0) 0 24 < field (ivWord 9 20 0) 24 24 ∧
    field (ivWord 9 20 0) 24 24 ≤ (tileW WaleMode.order WaleSt.opened [(0, 10), (20, 30)]).k ∧
    (∃ e ∈ (tileW WaleMode.order WaleSt.opened [(0, 10), (20, 30)]).exts, e.1 < field (ivWord 9 20 0) 24 24 ∧ field (ivWord 9 20 0) 0 24 < e.2) :=
  ⟨by (constructor <;> first | decide +kernel | rfl),
    by decide +kernel,
    by (unfold Sys2Proof.Claims.GoodExts; decide +kernel),
    by decide +kernel⟩

theorem test_meets_waleContributions_waddfull :
    Held (waleS (tileW WaleMode.arrive WaleSt.opened [(0, 1), (3, 4), (6, 7), (9, 10), (12, 13), (15, 16), (18, 19), (21, 22)])) 7 3 (tileW WaleMode.arrive WaleSt.opened [(0, 1), (3, 4), (6, 7), (9, 10), (12, 13), (15, 16), (18, 19), (21, 22)]) 1 ∧
    handle 5 7 3 = handle (tileW WaleMode.arrive WaleSt.opened [(0, 1), (3, 4), (6, 7), (9, 10), (12, 13), (15, 16), (18, 19), (21, 22)]).gen 7 3 ∧
    GoodExts (tileW WaleMode.arrive WaleSt.opened [(0, 1), (3, 4), (6, 7), (9, 10), (12, 13), (15, 16), (18, 19), (21, 22)]).exts ∧
    ((tileW WaleMode.arrive WaleSt.opened [(0, 1), (3, 4), (6, 7), (9, 10), (12, 13), (15, 16), (18, 19), (21, 22)]).st = WaleSt.opened ∨ (tileW WaleMode.arrive WaleSt.opened [(0, 1), (3, 4), (6, 7), (9, 10), (12, 13), (15, 16), (18, 19), (21, 22)]).st = WaleSt.complete) ∧
    (field (ivWord 30 40 0) 50 14 = 0 ∧ if (tileW WaleMode.arrive WaleSt.opened [(0, 1), (3, 4), (6, 7), (9, 10), (12, 13), (15, 16), (18, 19), (21, 22)]).mode = WaleMode.exact then field (ivWord 30 40 0) 48 2 = 1 ∨ field (ivWord 30 40 0) 48 2 = 2 else field (ivWord 30 40 0) 48 2 = 0) ∧
    field (ivWord 30 40 0) 0 24 < field (ivWord 30 40 0) 24 24 ∧
    field (ivWord 30 40 0) 24 24 ≤ (tileW WaleMode.arrive WaleSt.opened [(0, 1), (3, 4), (6, 7), (9, 10), (12, 13), (15, 16), (18, 19), (21, 22)]).k ∧
    (¬∃ e ∈ (tileW WaleMode.arrive WaleSt.opened [(0, 1), (3, 4), (6, 7), (9, 10), (12, 13), (15, 16), (18, 19), (21, 22)]).exts, e.1 < field (ivWord 30 40 0) 24 24 ∧ field (ivWord 30 40 0) 0 24 < e.2) ∧
    (¬∃ e ∈ (tileW WaleMode.arrive WaleSt.opened [(0, 1), (3, 4), (6, 7), (9, 10), (12, 13), (15, 16), (18, 19), (21, 22)]).exts, e.2 = field (ivWord 30 40 0) 0 24 ∨ e.1 = field (ivWord 30 40 0) 24 24) ∧
    (tileW WaleMode.arrive WaleSt.opened [(0, 1), (3, 4), (6, 7), (9, 10), (12, 13), (15, 16), (18, 19), (21, 22)]).exts.length = 8 :=
  ⟨by (constructor <;> first | decide +kernel | rfl),
    by decide +kernel,
    by (unfold Sys2Proof.Claims.GoodExts; decide +kernel),
    by decide +kernel⟩

theorem test_meets_waleContributions_waddstfull :
    Held (waleS staged16) 7 3 staged16 1 ∧
    handle 5 7 3 = handle staged16.gen 7 3 ∧
    GoodExts staged16.exts ∧
    (staged16.st = WaleSt.opened ∨ staged16.st = WaleSt.complete) ∧
    (field (ivWord 30 40 0) 50 14 = 0 ∧ if staged16.mode = WaleMode.exact then field (ivWord 30 40 0) 48 2 = 1 ∨ field (ivWord 30 40 0) 48 2 = 2 else field (ivWord 30 40 0) 48 2 = 0) ∧
    field (ivWord 30 40 0) 0 24 < field (ivWord 30 40 0) 24 24 ∧
    field (ivWord 30 40 0) 24 24 ≤ staged16.k ∧
    (¬∃ e ∈ staged16.exts, e.1 < field (ivWord 30 40 0) 24 24 ∧ field (ivWord 30 40 0) 0 24 < e.2) ∧
    ((∃ e ∈ staged16.exts, e.2 = field (ivWord 30 40 0) 0 24 ∨ e.1 = field (ivWord 30 40 0) 24 24) ∨ staged16.exts.length ≠ 8) ∧
    (staged16.mode = WaleMode.order ∧ (match staged16.exts.head? with | some e => if e.1 = 0 then e.2 else 0 | none => 0) < field (ivWord 30 40 0) 0 24) ∧
    16 ≤ (waleS staged16).stagedIn 3 :=
  ⟨by (constructor <;> first | decide +kernel | rfl),
    by decide +kernel,
    by (unfold Sys2Proof.Claims.GoodExts; decide +kernel),
    by decide +kernel⟩

theorem test_meets_waleContributions_waddstage :
    Held (waleS staged1) 7 3 staged1 1 ∧
    handle 5 7 3 = handle staged1.gen 7 3 ∧
    GoodExts staged1.exts ∧
    (staged1.st = WaleSt.opened ∨ staged1.st = WaleSt.complete) ∧
    (field (ivWord 40 50 0) 50 14 = 0 ∧ if staged1.mode = WaleMode.exact then field (ivWord 40 50 0) 48 2 = 1 ∨ field (ivWord 40 50 0) 48 2 = 2 else field (ivWord 40 50 0) 48 2 = 0) ∧
    field (ivWord 40 50 0) 0 24 < field (ivWord 40 50 0) 24 24 ∧
    field (ivWord 40 50 0) 24 24 ≤ staged1.k ∧
    (¬∃ e ∈ staged1.exts, e.1 < field (ivWord 40 50 0) 24 24 ∧ field (ivWord 40 50 0) 0 24 < e.2) ∧
    ((∃ e ∈ staged1.exts, e.2 = field (ivWord 40 50 0) 0 24 ∨ e.1 = field (ivWord 40 50 0) 24 24) ∨ staged1.exts.length ≠ 8) ∧
    (¬(staged1.mode = WaleMode.order ∧ (match staged1.exts.head? with | some e => if e.1 = 0 then e.2 else 0 | none => 0) < field (ivWord 40 50 0) 0 24) ∨ (waleS staged1).stagedIn 3 < 16) :=
  ⟨by (constructor <;> first | decide +kernel | rfl),
    by decide +kernel,
    by (unfold Sys2Proof.Claims.GoodExts; decide +kernel),
    by decide +kernel⟩

theorem test_meets_waleContributions_waddjoin :
    Held (waleS staged1) 7 3 staged1 1 ∧
    handle 5 7 3 = handle staged1.gen 7 3 ∧
    GoodExts staged1.exts ∧
    (staged1.st = WaleSt.opened ∨ staged1.st = WaleSt.complete) ∧
    (field (ivWord 10 20 0) 50 14 = 0 ∧ if staged1.mode = WaleMode.exact then field (ivWord 10 20 0) 48 2 = 1 ∨ field (ivWord 10 20 0) 48 2 = 2 else field (ivWord 10 20 0) 48 2 = 0) ∧
    field (ivWord 10 20 0) 0 24 < field (ivWord 10 20 0) 24 24 ∧
    field (ivWord 10 20 0) 24 24 ≤ staged1.k ∧
    (¬∃ e ∈ staged1.exts, e.1 < field (ivWord 10 20 0) 24 24 ∧ field (ivWord 10 20 0) 0 24 < e.2) ∧
    ((∃ e ∈ staged1.exts, e.2 = field (ivWord 10 20 0) 0 24 ∨ e.1 = field (ivWord 10 20 0) 24 24) ∨ staged1.exts.length ≠ 8) ∧
    (¬(staged1.mode = WaleMode.order ∧ (match staged1.exts.head? with | some e => if e.1 = 0 then e.2 else 0 | none => 0) < field (ivWord 10 20 0) 0 24) ∨ (waleS staged1).stagedIn 3 < 16) :=
  ⟨by (constructor <;> first | decide +kernel | rfl),
    by decide +kernel,
    by (unfold Sys2Proof.Claims.GoodExts; decide +kernel),
    by decide +kernel⟩

theorem test_meets_waleContributions_waddfirst :
    Held at_waddfirst 7 3 at_waddfirst_2 1 ∧
    handle 5 7 3 = handle at_waddfirst_2.gen 7 3 ∧
    GoodExts at_waddfirst_2.exts ∧
    (at_waddfirst_2.st = WaleSt.opened ∨ at_waddfirst_2.st = WaleSt.complete) ∧
    (field (ivWord 0 15 2) 50 14 = 0 ∧ if at_waddfirst_2.mode = WaleMode.exact then field (ivWord 0 15 2) 48 2 = 1 ∨ field (ivWord 0 15 2) 48 2 = 2 else field (ivWord 0 15 2) 48 2 = 0) ∧
    field (ivWord 0 15 2) 0 24 < field (ivWord 0 15 2) 24 24 ∧
    field (ivWord 0 15 2) 24 24 ≤ at_waddfirst_2.k ∧
    (¬∃ e ∈ at_waddfirst_2.exts, e.1 < field (ivWord 0 15 2) 24 24 ∧ field (ivWord 0 15 2) 0 24 < e.2) ∧
    ((∃ e ∈ at_waddfirst_2.exts, e.2 = field (ivWord 0 15 2) 0 24 ∨ e.1 = field (ivWord 0 15 2) 24 24) ∨ at_waddfirst_2.exts.length ≠ 8) ∧
    (¬(at_waddfirst_2.mode = WaleMode.order ∧ (match at_waddfirst_2.exts.head? with | some e => if e.1 = 0 then e.2 else 0 | none => 0) < field (ivWord 0 15 2) 0 24) ∨ at_waddfirst.stagedIn 3 < 16) :=
  ⟨by (constructor <;> first | decide +kernel | rfl),
    by decide +kernel,
    by (unfold Sys2Proof.Claims.GoodExts; decide +kernel),
    by decide +kernel⟩

/-! ### WaleTiles -/

theorem test_meets_waleTiles_wtgen :
    Held (waleS (tileW WaleMode.exact WaleSt.opened [])) 7 3 (tileW WaleMode.exact WaleSt.opened []) (tileW WaleMode.exact WaleSt.opened []).job ∧
    ((tileW WaleMode.exact WaleSt.opened []).gen ≠ 6 ∨ (tileW WaleMode.exact WaleSt.opened []).job ≠ 1 ∨ (tileW WaleMode.exact WaleSt.opened []).st = WaleSt.free) ∧
    (WaleOp.wdrop (handle 6 7 3) = WaleOp.wdrop (handle 6 7 3) ∨ WaleOp.wdrop (handle 6 7 3) = WaleOp.wfree (handle 6 7 3) ∨ ∃ (v : VReg) (i : Bool), WaleOp.wdrop (handle 6 7 3) = WaleOp.wread (handle 6 7 3) v i) :=
  ⟨by (constructor <;> first | decide +kernel | rfl),
    by decide +kernel⟩

theorem test_meets_waleTiles_wtgen2 :
    Held (waleS (tileW WaleMode.exact WaleSt.opened [])) 7 3 (tileW WaleMode.exact WaleSt.opened []) (tileW WaleMode.exact WaleSt.opened []).job ∧
    ((tileW WaleMode.exact WaleSt.opened []).gen ≠ 5 ∨ (tileW WaleMode.exact WaleSt.opened []).job ≠ 2 ∨ (tileW WaleMode.exact WaleSt.opened []).st = WaleSt.free) ∧
    (WaleOp.wfree (handle 5 7 3) = WaleOp.wdrop (handle 5 7 3) ∨ WaleOp.wfree (handle 5 7 3) = WaleOp.wfree (handle 5 7 3) ∨ ∃ (v : VReg) (i : Bool), WaleOp.wfree (handle 5 7 3) = WaleOp.wread (handle 5 7 3) v i) :=
  ⟨by (constructor <;> first | decide +kernel | rfl),
    by decide +kernel⟩

theorem test_meets_waleTiles_wtdead :
    Held (waleS (tileW WaleMode.exact WaleSt.dead [])) 7 3 (tileW WaleMode.exact WaleSt.dead []) (tileW WaleMode.exact WaleSt.dead []).job ∧
    (tileW WaleMode.exact WaleSt.dead []).st = WaleSt.dead :=
  ⟨by (constructor <;> first | decide +kernel | rfl),
    by decide +kernel⟩

theorem test_meets_waleTiles_wtdead2 :
    Held (waleS (tileW WaleMode.exact WaleSt.dead [])) 7 3 (tileW WaleMode.exact WaleSt.dead []) (tileW WaleMode.exact WaleSt.dead []).job ∧
    (tileW WaleMode.exact WaleSt.dead []).st = WaleSt.dead :=
  ⟨by (constructor <;> first | decide +kernel | rfl),
    by decide +kernel⟩

theorem test_meets_waleTiles_wtstat :
    Held (waleS staged1) 7 3 staged1 staged1.job ∧
    (staged1.st = WaleSt.opened ∨ staged1.st = WaleSt.complete) ∧
    GoodExts staged1.exts ∧
    staged1.exts.length ≤ 8 ∧
    staged1.staged.length ≤ 16 ∧
    (∀ e ∈ staged1.exts, e.2 ≤ staged1.k) ∧
    staged1.k < 2 ^ 24 :=
  ⟨by (constructor <;> first | decide +kernel | rfl),
    by decide +kernel,
    by (unfold Sys2Proof.Claims.GoodExts; decide +kernel),
    by decide +kernel⟩

theorem test_meets_waleTiles_wtdrop :
    Held (waleS staged1) 7 3 staged1 staged1.job ∧
    (staged1.st = WaleSt.opened ∨ staged1.st = WaleSt.complete) :=
  ⟨by (constructor <;> first | decide +kernel | rfl),
    by decide +kernel⟩

theorem test_meets_waleTiles_wtdropc :
    Held (waleS (tileW WaleMode.order WaleSt.complete [(0, 100)])) 7 3 (tileW WaleMode.order WaleSt.complete [(0, 100)]) (tileW WaleMode.order WaleSt.complete [(0, 100)]).job ∧
    ((tileW WaleMode.order WaleSt.complete [(0, 100)]).st = WaleSt.opened ∨ (tileW WaleMode.order WaleSt.complete [(0, 100)]).st = WaleSt.complete) :=
  ⟨by (constructor <;> first | decide +kernel | rfl),
    by decide +kernel⟩

theorem test_meets_waleTiles_wtopen :
    Held (waleS staged1) 7 3 staged1 staged1.job ∧
    staged1.st = WaleSt.opened :=
  ⟨by (constructor <;> first | decide +kernel | rfl),
    by decide +kernel⟩

theorem test_meets_waleTiles_wtopen2 :
    Held (waleS staged1) 7 3 staged1 staged1.job ∧
    staged1.st = WaleSt.opened :=
  ⟨by (constructor <;> first | decide +kernel | rfl),
    by decide +kernel⟩

theorem test_meets_waleTiles_wtcomp :
    Held (waleS (tileW WaleMode.order WaleSt.complete [(0, 100)])) 7 3 (tileW WaleMode.order WaleSt.complete [(0, 100)]) (tileW WaleMode.order WaleSt.complete [(0, 100)]).job ∧
    (tileW WaleMode.order WaleSt.complete [(0, 100)]).st = WaleSt.complete :=
  ⟨by (constructor <;> first | decide +kernel | rfl),
    by decide +kernel⟩

theorem test_meets_waleTiles_wtcompx :
    Held at_wtcompx 7 3 at_wtcompx_2 at_wtcompx_2.job ∧
    at_wtcompx_2.st = WaleSt.complete :=
  ⟨by (constructor <;> first | decide +kernel | rfl),
    by decide +kernel⟩

theorem test_meets_waleTiles_wtfree :
    Held (waleS (tileW WaleMode.order WaleSt.dead [])) 7 3 (tileW WaleMode.order WaleSt.dead []) (tileW WaleMode.order WaleSt.dead []).job ∧
    ((tileW WaleMode.order WaleSt.dead []).st = WaleSt.complete ∨ (tileW WaleMode.order WaleSt.dead []).st = WaleSt.dead) :=
  ⟨by (constructor <;> first | decide +kernel | rfl),
    by decide +kernel⟩

/-! ### WaleInstructions -/

theorem test_meets_waleInstructions_wisend :
    (waleForm (waleSplit staged1) (Instr.warm 4 1 2) = some (4, 2, WaleOp.warm ((waleSplit staged1).rg 1)) ∨ ∃ (n : VReg), wreadForm (waleSplit staged1) (Instr.warm 4 1 2) = some (4, n, 2, WaleOp.warm ((waleSplit staged1).rg 1)) ∧ Leased (waleSplit staged1)) ∧
    (waleSplit staged1).split = true :=
  ⟨by (constructor <;> first | decide +kernel | rfl),
    by decide +kernel⟩

theorem test_meets_waleInstructions_wisendr :
    (waleForm (waleSplit staged1) (Instr.wreadI 4 2 30 2) = some (4, 2, WaleOp.wread ((waleSplit staged1).rg 2) 30 true) ∨ ∃ (n : VReg), wreadForm (waleSplit staged1) (Instr.wreadI 4 2 30 2) = some (4, n, 2, WaleOp.wread ((waleSplit staged1).rg 2) 30 true) ∧ Leased (waleSplit staged1)) ∧
    (waleSplit staged1).split = true :=
  ⟨by (exact Or.inr ⟨30, rfl, by unfold Claims.Leased; decide +kernel⟩),
    by decide +kernel⟩

theorem test_meets_waleInstructions_winow :
    (waleForm (waleS (tileW WaleMode.order WaleSt.opened [])) (Instr.warm 4 1 2) = some (4, 2, WaleOp.warm ((waleS (tileW WaleMode.order WaleSt.opened [])).rg 1)) ∨ ∃ (n : VReg), wreadForm (waleS (tileW WaleMode.order WaleSt.opened [])) (Instr.warm 4 1 2) = some (4, n, 2, WaleOp.warm ((waleS (tileW WaleMode.order WaleSt.opened [])).rg 1)) ∧ Leased (waleS (tileW WaleMode.order WaleSt.opened []))) ∧
    (waleS (tileW WaleMode.order WaleSt.opened [])).split = false ∧
    (waleS (tileW WaleMode.order WaleSt.opened [])).waleAt (waleS (tileW WaleMode.order WaleSt.opened [])).me.job (waleS (tileW WaleMode.order WaleSt.opened [])).me.lid (WaleOp.warm ((waleS (tileW WaleMode.order WaleSt.opened [])).rg 1)) = (((waleS (tileW WaleMode.order WaleSt.opened [])).waleAt 1 0 (WaleOp.warm (warmWord 100 1 2 3 3 (some (0, 2))))).1, WaleAns.stat (handle 1 0 3)) ∧
    ((waleS (tileW WaleMode.order WaleSt.opened [])).waleAt 1 0 (WaleOp.warm (warmWord 100 1 2 3 3 (some (0, 2))))).1.cur = (waleS (tileW WaleMode.order WaleSt.opened [])).cur :=
  ⟨by (constructor <;> first | decide +kernel | rfl),
    by decide +kernel,
    by rfl,
    by rfl⟩

theorem test_meets_waleInstructions_winowst :
    (waleForm (waleS (tileW WaleMode.order WaleSt.opened [])) (Instr.wstat 4 2 0) = some (4, 0, WaleOp.wstat ((waleS (tileW WaleMode.order WaleSt.opened [])).rg 2)) ∨ ∃ (n : VReg), wreadForm (waleS (tileW WaleMode.order WaleSt.opened [])) (Instr.wstat 4 2 0) = some (4, n, 0, WaleOp.wstat ((waleS (tileW WaleMode.order WaleSt.opened [])).rg 2)) ∧ Leased (waleS (tileW WaleMode.order WaleSt.opened []))) ∧
    (waleS (tileW WaleMode.order WaleSt.opened [])).split = false ∧
    (waleS (tileW WaleMode.order WaleSt.opened [])).waleAt (waleS (tileW WaleMode.order WaleSt.opened [])).me.job (waleS (tileW WaleMode.order WaleSt.opened [])).me.lid (WaleOp.wstat ((waleS (tileW WaleMode.order WaleSt.opened [])).rg 2)) = (waleS (tileW WaleMode.order WaleSt.opened []), WaleAns.stat 0) ∧
    (waleS (tileW WaleMode.order WaleSt.opened [])).cur = (waleS (tileW WaleMode.order WaleSt.opened [])).cur :=
  ⟨by (constructor <;> first | decide +kernel | rfl),
    by decide +kernel,
    by rfl,
    by decide +kernel⟩

theorem test_meets_waleInstructions_wiarr :
    ArrivalOf 9 (Instr.wstatArrival 9) { core := 0, slot := 0, job := 1, lid := 3, d := 4, l := 0, op := WaleOp.wstat (handle 5 7 3) : WaleReq }.op ∧
    (waleWaits (tileW WaleMode.order WaleSt.opened []) (WaleOp.wstat (handle 5 7 3)) 0).wreqs = [(9, { core := 0, slot := 0, job := 1, lid := 3, d := 4, l := 0, op := WaleOp.wstat (handle 5 7 3) : WaleReq })] ∧
    ((waleWaits (tileW WaleMode.order WaleSt.opened []) (WaleOp.wstat (handle 5 7 3)) 0).strand { core := 0, slot := 0, job := 1, lid := 3, d := 4, l := 0, op := WaleOp.wstat (handle 5 7 3) : WaleReq }.core { core := 0, slot := 0, job := 1, lid := 3, d := 4, l := 0, op := WaleOp.wstat (handle 5 7 3) : WaleReq }.slot).st = SlotSt.waiting (Wait.wale 9) ∧
    { (waleWaits (tileW WaleMode.order WaleSt.opened []) (WaleOp.wstat (handle 5 7 3)) 0) with wreqs := [] : State }.waleAt { core := 0, slot := 0, job := 1, lid := 3, d := 4, l := 0, op := WaleOp.wstat (handle 5 7 3) : WaleReq }.job { core := 0, slot := 0, job := 1, lid := 3, d := 4, l := 0, op := WaleOp.wstat (handle 5 7 3) : WaleReq }.lid { core := 0, slot := 0, job := 1, lid := 3, d := 4, l := 0, op := WaleOp.wstat (handle 5 7 3) : WaleReq }.op = (at_wiarr, WaleAns.stat 0) ∧
    (at_wiarr.strand { core := 0, slot := 0, job := 1, lid := 3, d := 4, l := 0, op := WaleOp.wstat (handle 5 7 3) : WaleReq }.core { core := 0, slot := 0, job := 1, lid := 3, d := 4, l := 0, op := WaleOp.wstat (handle 5 7 3) : WaleReq }.slot).st = SlotSt.waiting (Wait.wale 9) :=
  ⟨by rfl,
    by decide +kernel,
    by decide +kernel,
    by rfl,
    by decide +kernel⟩

theorem test_meets_waleInstructions_wird :
    ArrivalOf 9 (Instr.wreadArrival 9) { core := 0, slot := 0, job := 1, lid := 3, d := 4, l := 0, op := WaleOp.wread (handle 5 7 3) 31 false : WaleReq }.op ∧
    (waleWaits (tileW WaleMode.order WaleSt.complete [(0, 100)]) (WaleOp.wread (handle 5 7 3) 31 false) 0).wreqs = [(9, { core := 0, slot := 0, job := 1, lid := 3, d := 4, l := 0, op := WaleOp.wread (handle 5 7 3) 31 false : WaleReq })] ∧
    ((waleWaits (tileW WaleMode.order WaleSt.complete [(0, 100)]) (WaleOp.wread (handle 5 7 3) 31 false) 0).strand { core := 0, slot := 0, job := 1, lid := 3, d := 4, l := 0, op := WaleOp.wread (handle 5 7 3) 31 false : WaleReq }.core { core := 0, slot := 0, job := 1, lid := 3, d := 4, l := 0, op := WaleOp.wread (handle 5 7 3) 31 false : WaleReq }.slot).st = SlotSt.waiting (Wait.wale 9) ∧
    { core := 0, slot := 0, job := 1, lid := 3, d := 4, l := 0, op := WaleOp.wread (handle 5 7 3) 31 false : WaleReq }.op = WaleOp.wread (handle 5 7 3) 31 false ∧
    { (waleWaits (tileW WaleMode.order WaleSt.complete [(0, 100)]) (WaleOp.wread (handle 5 7 3) 31 false) 0) with wreqs := [] : State }.waleAt { core := 0, slot := 0, job := 1, lid := 3, d := 4, l := 0, op := WaleOp.wread (handle 5 7 3) 31 false : WaleReq }.job { core := 0, slot := 0, job := 1, lid := 3, d := 4, l := 0, op := WaleOp.wread (handle 5 7 3) 31 false : WaleReq }.lid { core := 0, slot := 0, job := 1, lid := 3, d := 4, l := 0, op := WaleOp.wread (handle 5 7 3) 31 false : WaleReq }.op = (at_wird, WaleAns.data 32 [1065353216, 1073741824, 0, 1077936128, 1065353216, 2147483648]) ∧
    (32 = 32 ∨ 32 = 64) ∧
    [1065353216, 1073741824, 0, 1077936128, 1065353216, 2147483648].length ≤ 32 * (1024 / 32 : Nat) ∧
    (at_wird.strand { core := 0, slot := 0, job := 1, lid := 3, d := 4, l := 0, op := WaleOp.wread (handle 5 7 3) 31 false : WaleReq }.core { core := 0, slot := 0, job := 1, lid := 3, d := 4, l := 0, op := WaleOp.wread (handle 5 7 3) 31 false : WaleReq }.slot).st = SlotSt.waiting (Wait.wale 9) ∧
    (at_wird.strand { core := 0, slot := 0, job := 1, lid := 3, d := 4, l := 0, op := WaleOp.wread (handle 5 7 3) 31 false : WaleReq }.core { core := 0, slot := 0, job := 1, lid := 3, d := 4, l := 0, op := WaleOp.wread (handle 5 7 3) 31 false : WaleReq }.slot).outs = [] :=
  ⟨by rfl,
    by decide +kernel,
    by decide +kernel,
    by decide +kernel,
    by rfl,
    by decide +kernel⟩

theorem test_meets_waleInstructions_ww16 :
    Held at_ww16 7 3 (tileW WaleMode.order WaleSt.opened []) at_ww16.me.job ∧
    at_ww16.rg 2 = handle (tileW WaleMode.order WaleSt.opened []).gen 7 3 ∧
    Quiet at_ww16 ∧
    16 ≤ at_ww16.cur.slot :=
  ⟨by (constructor <;> first | decide +kernel | rfl),
    by decide +kernel,
    by rfl,
    by decide +kernel⟩

theorem test_meets_waleInstructions_wwp :
    Held (waleS (tileW WaleMode.order WaleSt.opened [])) 7 3 (tileW WaleMode.order WaleSt.opened []) (waleS (tileW WaleMode.order WaleSt.opened [])).me.job ∧
    (waleS (tileW WaleMode.order WaleSt.opened [])).rg 2 = handle (tileW WaleMode.order WaleSt.opened []).gen 7 3 ∧
    Quiet (waleS (tileW WaleMode.order WaleSt.opened [])) ∧
    (waleS (tileW WaleMode.order WaleSt.opened [])).cur.slot < 16 ∧
    (tileW WaleMode.order WaleSt.opened []).st = WaleSt.opened ∧
    (waleS (tileW WaleMode.order WaleSt.opened [])).waits = [] :=
  ⟨by (constructor <;> first | decide +kernel | rfl),
    by decide +kernel,
    by rfl,
    by decide +kernel⟩

theorem test_meets_waleInstructions_wwd :
    Held (waleS (tileW WaleMode.order WaleSt.dead [])) 7 3 (tileW WaleMode.order WaleSt.dead []) (waleS (tileW WaleMode.order WaleSt.dead [])).me.job ∧
    (waleS (tileW WaleMode.order WaleSt.dead [])).rg 2 = handle (tileW WaleMode.order WaleSt.dead []).gen 7 3 ∧
    Quiet (waleS (tileW WaleMode.order WaleSt.dead [])) ∧
    (waleS (tileW WaleMode.order WaleSt.dead [])).cur.slot < 16 ∧
    (tileW WaleMode.order WaleSt.dead []).st ≠ WaleSt.opened :=
  ⟨by (constructor <;> first | decide +kernel | rfl),
    by decide +kernel,
    by rfl,
    by decide +kernel⟩

theorem test_meets_waleInstructions_add :
    7 < 64 ∧
    3 < 512 ∧
    at_add.wale (3 * 64 + 7) = at_add.wale (3 * 64 + 7) ∧
    (at_add.wale (3 * 64 + 7)).adds = [(0, [1065353216, 1073741824, 0, 1077936128, 3212836864, 2147483648]), (10, [1, 2, 3, 4, 5, 6])] ∧
    (at_add.wale (3 * 64 + 7)).pois = false ∧
    (at_add.wale (3 * 64 + 7)).data.length = [1065353216, 1073741824, 0, 1077936128, 3212836864, 2147483648].length :=
  by decide +kernel

theorem test_meets_waleInstructions_addx :
    7 < 64 ∧
    3 < 512 ∧
    at_addx.wale (3 * 64 + 7) = at_addx.wale (3 * 64 + 7) ∧
    (at_addx.wale (3 * 64 + 7)).adds = [(0, [-5, 1073741824, 0, 1077936128, 3212836864, 2147483648])] ∧
    (at_addx.wale (3 * 64 + 7)).pois = false ∧
    (at_addx.wale (3 * 64 + 7)).data.length = [-5, 1073741824, 0, 1077936128, 3212836864, 2147483648].length :=
  by decide +kernel

theorem test_meets_waleInstructions_add1 :
    7 < 64 ∧
    3 < 512 ∧
    at_add1.wale (3 * 64 + 7) = at_add1.wale (3 * 64 + 7) ∧
    (at_add1.wale (3 * 64 + 7)).adds = [(1, [1, 2, 3, 4, 5, 6])] ∧
    (at_add1.wale (3 * 64 + 7)).pois = false ∧
    (at_add1.wale (3 * 64 + 7)).data.length = [1, 2, 3, 4, 5, 6].length :=
  by decide +kernel

theorem test_meets_waleInstructions_addst :
    7 < 64 ∧
    3 < 512 ∧
    at_addst.wale (3 * 64 + 7) = at_addst.wale (3 * 64 + 7) ∧
    (at_addst.wale (3 * 64 + 7)).adds = [(1, [1, 2, 3, 4, 5, 6])] ∧
    (at_addst.wale (3 * 64 + 7)).pois = false ∧
    (at_addst.wale (3 * 64 + 7)).data.length = [1, 2, 3, 4, 5, 6].length :=
  by decide +kernel

end Sys2Proof.Tests
end

