-- ==== Sys2Proof/Tests/Slice0.lean ====
section
/-! SUPPORT. Small tests: words of the spec's encodings decode to the instructions they stand for, ill-formed terms are refused,
and single steps give the results that the spec states or that follow from it by hand. -/

set_option maxRecDepth 100000
set_option Elab.async false

open Sys2Proof Sys2Proof.Machine Sys2Proof.Claims

namespace Sys2Proof.Tests

/-! ## Decoding -/

/-- A word of each instruction of major 0x01, its fields set one by one as spec/opcode_table.json places them. -/
theorem test_decode_registerRegister :
    decode 0x048C4000 = .ok (.add 2 3 1) ∧
    decode 0x048C4001 = .ok (.sub 2 3 1) ∧
    decode 0x048C4002 = .ok (.mul 2 3 1) ∧
    decode 0x048C4003 = .ok (.mulh 2 3 1) ∧
    decode 0x048C4004 = .ok (.mulhn 2 3 1) ∧
    decode 0x048C4005 = .ok (.div 2 3 1) ∧
    decode 0x048C4006 = .ok (.divn 2 3 1) ∧
    decode 0x048C4007 = .ok (.rem 2 3 1) ∧
    decode 0x048C4008 = .ok (.remn 2 3 1) ∧
    decode 0x048C4010 = .ok (.and 2 3 1) ∧
    decode 0x048C4011 = .ok (.or 2 3 1) ∧
    decode 0x048C4012 = .ok (.xor 2 3 1) ∧
    decode 0x048C4013 = .ok (.andn 2 3 1) ∧
    decode 0x048C4014 = .ok (.orn 2 3 1) ∧
    decode 0x048C4018 = .ok (.shl 2 3 1) ∧
    decode 0x048C4019 = .ok (.shr 2 3 1) ∧
    decode 0x048C401A = .ok (.sra 2 3 1) ∧
    decode 0x048C401B = .ok (.rot 2 3 1) ∧
    decode 0x048C001C = .ok (.clz 2 3) ∧
    decode 0x048C001D = .ok (.ctz 2 3) ∧
    decode 0x048C001E = .ok (.popc 2 3) ∧
    decode 0x048C4020 = .ok (.min 2 3 1) ∧
    decode 0x048C4021 = .ok (.max 2 3 1) ∧
    decode 0x048C4022 = .ok (.minn 2 3 1) ∧
    decode 0x048C4023 = .ok (.maxn 2 3 1) ∧
    decode 0x048C4024 = .ok (.slt 2 3 1) ∧
    decode 0x048C4025 = .ok (.sltn 2 3 1) ∧
    decode 0x048C4026 = .ok (.seq 2 3 1) ∧
    decode 0x048C4027 = .ok (.sel 2 3 1) ∧
    decode 0x048C4028 = .ok (.bfx 2 3 1) ∧
    decode 0x048C4029 = .ok (.bfi 2 3 1) := by
  decide +kernel

/-- A word of each instruction of majors 0x02 to 0x0C, its fields set one by one as spec/opcode_table.json places them. -/
theorem test_decode_immediates :
    decode 0x088C02A5 = .ok (.addi 2 3 677) ∧
    decode 0x0C8C02A5 = .ok (.andi 2 3 677) ∧
    decode 0x108C02A5 = .ok (.ori 2 3 677) ∧
    decode 0x148C02A5 = .ok (.xori 2 3 677) ∧
    decode 0x188C0006 = .ok (.shli 2 3 6) ∧
    decode 0x188C0046 = .ok (.shri 2 3 6) ∧
    decode 0x188C0086 = .ok (.srai 2 3 6) ∧
    decode 0x1C8C02A5 = .ok (.slti 2 3 677) ∧
    decode 0x208C02A5 = .ok (.sltni 2 3 677) ∧
    decode 0x248002A5 = .ok (.li 2 677) ∧
    decode 0x288002A5 = .ok (.lis 2 677) ∧
    decode 0x2C8002A5 = .ok (.addpc 2 677) ∧
    decode 0x308C02A5 = .ok (.lea 2 3 677) ∧
    decode 0x308D02A5 = .ok (.mkwin 2 3 677) ∧
    decode 0x30820003 = .ok (.myid 2 .job) := by
  decide +kernel

/-- A word of each instruction of majors 0x10 to 0x1A, its fields set one by one as spec/opcode_table.json places them. -/
theorem test_decode_controlFlow :
    decode 0x40C40015 = .ok (.beq 3 1 21) ∧
    decode 0x44C40015 = .ok (.bne 3 1 21) ∧
    decode 0x48C40015 = .ok (.blt 3 1 21) ∧
    decode 0x4CC40015 = .ok (.bge 3 1 21) ∧
    decode 0x50C40015 = .ok (.bltn 3 1 21) ∧
    decode 0x54C40015 = .ok (.bgen 3 1 21) ∧
    decode 0x58000015 = .ok (.jmp 21) ∧
    decode 0x5C000015 = .ok (.call 21) ∧
    decode 0x600C0000 = .ok (.jr 3) ∧
    decode 0x600C0001 = .ok (.callr 3) ∧
    decode 0x60000002 = .ok .ret ∧
    decode 0x650CBEF8 = .ok (.rpt 4 3 5 0x1E 0x1F) ∧
    decode 0x68000000 = .ok .follow ∧
    decode 0x68200000 = .ok .unfollow := by
  decide +kernel

/-- A word of each instruction of major 0x20, its fields set one by one as spec/opcode_table.json places them. -/
theorem test_decode_loads :
    decode 0x808CB255 = .ok (.ldb 2 3 .acq .pkg 9 21) ∧
    decode 0x808C3255 = .ok (.ldbn 2 3 .acq .pkg 9 21) ∧
    decode 0x808DB255 = .ok (.ldh 2 3 .acq .pkg 9 21) ∧
    decode 0x808D3255 = .ok (.ldhn 2 3 .acq .pkg 9 21) ∧
    decode 0x808EB255 = .ok (.ldw 2 3 .acq .pkg 9 21) ∧
    decode 0x808E3255 = .ok (.ldwn 2 3 .acq .pkg 9 21) ∧
    decode 0x808F3255 = .ok (.ldd 2 3 .acq .pkg 9 21) := by
  decide +kernel

/-- A word of each instruction of major 0x21, its fields set one by one as spec/opcode_table.json places them. -/
theorem test_decode_stores :
    decode 0x848C5015 = .ok (.stb 2 3 .rel .pkg 21) ∧
    decode 0x848D5015 = .ok (.sth 2 3 .rel .pkg 21) ∧
    decode 0x848E5015 = .ok (.stw 2 3 .rel .pkg 21) ∧
    decode 0x848F5015 = .ok (.std 2 3 .rel .pkg 21) := by
  decide +kernel

/-- A word of each instruction of major 0x22, its fields set one by one as spec/opcode_table.json places them. -/
theorem test_decode_bits :
    decode 0x88069269 = .ok (.ldbit 3 4 .setp 1 6 9) ∧
    decode 0x88260A69 = .ok (.ldbits 3 0 .inc 1 6 9) ∧
    decode 0x88469260 = .ok (.stbit 3 4 .setp 1 6) := by
  decide +kernel

/-- A word of each instruction of major 0x23, its fields set one by one as spec/opcode_table.json places them. -/
theorem test_decode_atomics :
    decode 0x8C8C4349 = .ok (.amoadd 2 3 1 true .rel .pkg 9) ∧
    decode 0x8C8C4749 = .ok (.amoand 2 3 1 true .rel .pkg 9) ∧
    decode 0x8C8C4B49 = .ok (.amoor 2 3 1 true .rel .pkg 9) ∧
    decode 0x8C8C4F49 = .ok (.amoxor 2 3 1 true .rel .pkg 9) ∧
    decode 0x8C8C5349 = .ok (.amomin 2 3 1 true .rel .pkg 9) ∧
    decode 0x8C8C5749 = .ok (.amomax 2 3 1 true .rel .pkg 9) ∧
    decode 0x8C8C5B49 = .ok (.amominn 2 3 1 true .rel .pkg 9) ∧
    decode 0x8C8C5F49 = .ok (.amomaxn 2 3 1 true .rel .pkg 9) ∧
    decode 0x8C8C6349 = .ok (.amoswp 2 3 1 true .rel .pkg 9) ∧
    decode 0x8C8C6749 = .ok (.amocas 2 3 1 true .rel .pkg 9) ∧
    decode 0x8C8C6949 = .ok (.amofadd 2 3 1 .rel .pkg 9) := by
  decide +kernel

/-- A word of each instruction of major 0x24, its fields set one by one as spec/opcode_table.json places them. -/
theorem test_decode_fences :
    decode 0x90003000 = .ok (.fenceAcq .pkg) ∧
    decode 0x90005000 = .ok (.fenceRel .pkg) ∧
    decode 0x90007000 = .ok (.fenceAr .pkg) ∧
    decode 0x90001800 = .ok .fenceSc ∧
    decode 0x900D9015 = .ok (.pref 3 true .pkg 21) ∧
    decode 0x908E1000 = .ok (.flush 2 3 .pkg) := by
  decide +kernel

/-- A word of each instruction of major 0x28, its fields set one by one as spec/opcode_table.json places them. -/
theorem test_decode_barriers :
    decode 0xA0060060 = .ok (.binit 3 6) ∧
    decode 0xA0260060 = .ok (.barr 3 6) ∧
    decode 0xA0462069 = .ok (.bwait 3 1 6 9) ∧
    decode 0xA0660069 = .ok (.baw 3 6 9) ∧
    decode 0xA0860069 = .ok (.bstat 3 6 9) ∧
    decode 0xA0A00060 = .ok (.breset 6) := by
  decide +kernel

/-- A word of each instruction of major 0x29, its fields set one by one as spec/opcode_table.json places them. -/
theorem test_decode_copies :
    decode 0xA6523490 = .ok (.cpy 37 2 3 4 .pkg true false) := by
  decide +kernel

/-- A word of each instruction of major 0x2A, its fields set one by one as spec/opcode_table.json places them. -/
theorem test_decode_tagsRingsBanks :
    decode 0xA8062009 = .ok (.tagwany 3 1 9) ∧
    decode 0xA8202000 = .ok (.tagwall 1) ∧
    decode 0xA8462009 = .ok (.tagff 3 1 9) ∧
    decode 0xA8602000 = .ok (.tagclr 1) ∧
    decode 0xA8860000 = .ok (.rginit 3) ∧
    decode 0xA8C62069 = .ok (.rgawait 3 1 6 9) ∧
    decode 0xA8E60000 = .ok (.rgrel 3) ∧
    decode 0xA9002000 = .ok (.bankset 1) ∧
    decode 0xA8A68110 = .ok (.rgfill 3 4 true false .pkg) := by
  decide +kernel

/-- A word of each instruction of major 0x2B, its fields set one by one as spec/opcode_table.json places them. -/
theorem test_decode_queues :
    decode 0xAC060E00 = .ok (.qbindFifo 3 7) ∧
    decode 0xAC062E10 = .ok (.qbindStream 3 1 7) ∧
    decode 0xAC000E20 = .ok (.qbindMa 7) ∧
    decode 0xAC000E30 = .ok (.qbindMb 7) ∧
    decode 0xAC000E40 = .ok (.qbindMout 7) ∧
    decode 0xAC060E50 = .ok (.qbindMbox 3 7) ∧
    decode 0xAC202E00 = .ok (.qpush 1 7) ∧
    decode 0xAC460E09 = .ok (.qpop 3 7 9) ∧
    decode 0xAC600E60 = .ok (.vqpush 7 6) ∧
    decode 0xAC800E60 = .ok (.vqpop 7 6) ∧
    decode 0xACA60A00 = .ok (.qstat 3 (.q 5)) ∧
    decode 0xACC00E00 = .ok (.qfree 7) := by
  decide +kernel

/-- A word of each instruction of major 0x30, its fields set one by one as spec/opcode_table.json places them. -/
theorem test_decode_vectorIntegers :
    decode 0xC0430D20 = .ok (.vadd 2 3 1 5 .i32) ∧
    decode 0xC0430D21 = .ok (.vsub 2 3 1 5 .i32) ∧
    decode 0xC0430D22 = .ok (.vmul 2 3 1 5 .i32) ∧
    decode 0xC0430D23 = .ok (.vmulh 2 3 1 5 .i32) ∧
    decode 0xC0430D24 = .ok (.vmin 2 3 1 5 .i32) ∧
    decode 0xC0430D25 = .ok (.vmax 2 3 1 5 .i32) ∧
    decode 0xC0430D26 = .ok (.vand 2 3 1 5 .i32) ∧
    decode 0xC0430D27 = .ok (.vor 2 3 1 5 .i32) ∧
    decode 0xC0430D28 = .ok (.vxor 2 3 1 5 .i32) ∧
    decode 0xC0430D29 = .ok (.vshl 2 3 1 5 .i32) ∧
    decode 0xC0430D2A = .ok (.vshr 2 3 1 5 .i32) ∧
    decode 0xC0430D2B = .ok (.vsra 2 3 1 5 .i32) ∧
    decode 0xC043052C = .ok (.vabs 2 3 5 .i32) ∧
    decode 0xC043052D = .ok (.vneg 2 3 5 .i32) ∧
    decode 0xC3C30D2E = .ok (.vcmp .ge 6 3 1 5 .i32) ∧
    decode 0xC0430D2F = .ok (.vsel 2 3 1 5 .i32) := by
  decide +kernel

/-- A word of each instruction of major 0x31, its fields set one by one as spec/opcode_table.json places them. -/
theorem test_decode_vectorFloats :
    decode 0xC4430D10 = .ok (.vfadd 2 3 1 5 .f16) ∧
    decode 0xC4430D11 = .ok (.vfsub 2 3 1 5 .f16) ∧
    decode 0xC4430D12 = .ok (.vfmul 2 3 1 5 .f16) ∧
    decode 0xC4430D13 = .ok (.vfma 2 3 1 5 .f16) ∧
    decode 0xC4430D14 = .ok (.vfms 2 3 1 5 .f16) ∧
    decode 0xC4430D15 = .ok (.vfmin 2 3 1 5 .f16) ∧
    decode 0xC4430D16 = .ok (.vfmax 2 3 1 5 .f16) ∧
    decode 0xC4430517 = .ok (.vfabs 2 3 5 .f16) ∧
    decode 0xC4430518 = .ok (.vrcp 2 3 5 .f16) ∧
    decode 0xC4430519 = .ok (.vrsq 2 3 5 .f16) ∧
    decode 0xC443051A = .ok (.vexp2 2 3 5 .f16) ∧
    decode 0xC443051B = .ok (.vlog2 2 3 5 .f16) ∧
    decode 0xC7C30D1C = .ok (.vfcmp .ge 6 3 1 5 .f16) := by
  decide +kernel

/-- A word of each instruction of major 0x32, its fields set one by one as spec/opcode_table.json places them. -/
theorem test_decode_vectorMoves :
    decode 0xC8430520 = .ok (.vbcast 2 3 5 .i32) ∧
    decode 0xC8430821 = .ok (.vext 2 3 1 .i32) ∧
    decode 0xC8430D22 = .ok (.vins 2 3 1 5 .i32) ∧
    decode 0xC8430D23 = .ok (.vperm 2 3 1 5 .i32) ∧
    decode 0xC8430D24 = .ok (.vslide 2 3 1 5 .i32) ∧
    decode 0xC8430525 = .ok (.vredadd 2 3 5 .i32) ∧
    decode 0xC8430516 = .ok (.vredfadd 2 3 5 .f16) ∧
    decode 0xC8430527 = .ok (.vredmax 2 3 5 .i32) ∧
    decode 0xC8430518 = .ok (.vredfmax 2 3 5 .f16) ∧
    decode 0xC8432929 = .ok (.vcvtInt 2 3 (.flt .bf16) (.mode .rtz) .i32) ∧
    decode 0xC843211A = .ok (.vcvtFloat 2 3 (.int .i32) (.mode .rtz) .f16) ∧
    decode 0xC843073B = .ok (.vqmx 2 3 .frm .e4m3) ∧
    decode 0xC843003C = .ok (.vdqmx 2 3 .e4m3) ∧
    decode 0xC8430D2D = .ok (.vpack 2 3 1 5 .i32) ∧
    decode 0xC8430D2E = .ok (.vunpack 2 3 true 5 .i32) ∧
    decode 0xC843080F = .ok (.kand 2 3 1) ∧
    decode 0xC843081F = .ok (.kor 2 3 1) ∧
    decode 0xC843002F = .ok (.knot 2 3) ∧
    decode 0xC843003F = .ok (.kmov 2 3) ∧
    decode 0xC843004F = .ok (.kpopc 2 3) := by
  decide +kernel

/-- A word of each instruction of major 0x33, its fields set one by one as spec/opcode_table.json places them. -/
theorem test_decode_vectorMemory :
    decode 0xCC430520 = .ok (.vld 2 3 5 .i32) ∧
    decode 0xCC430521 = .ok (.vst 2 3 5 .i32) ∧
    decode 0xCC430D22 = .ok (.vlds 2 3 1 5 .i32) ∧
    decode 0xCC430D23 = .ok (.vsts 2 3 1 5 .i32) ∧
    decode 0xCC430D24 = .ok (.vgath 2 3 1 5 .i32) ∧
    decode 0xCC430D25 = .ok (.vscat 2 3 1 5 .i32) ∧
    decode 0xCC471D26 = .ok (.vldbit 2 true 3 3 5 .i32) ∧
    decode 0xCC471D27 = .ok (.vstbit 2 true 3 3 5 .i32) := by
  decide +kernel

/-- A word of each instruction of major 0x34, its fields set one by one as spec/opcode_table.json places them. -/
theorem test_decode_checksums :
    decode 0xD0600000 = .ok (.ckclr 3) ∧
    decode 0xD0630521 = .ok (.cka 3 3 5 .i32) ∧
    decode 0xD0630512 = .ok (.ckaf 3 3 5 .f16) ∧
    decode 0xD1222833 = .ok (.ckchk 9 2 (.fg 5)) := by
  decide +kernel

/-- A word of each instruction of major 0x35, its fields set one by one as spec/opcode_table.json places them. -/
theorem test_decode_leases :
    decode 0xD4000000 = .ok .vlease ∧
    decode 0xD4000001 = .ok .vfree := by
  decide +kernel

/-- A word of each instruction of major 0x38, its fields set one by one as spec/opcode_table.json places them. -/
theorem test_decode_matrix :
    decode 0xE0062000 = .ok (.mload 3 1) ∧
    decode 0xE0002010 = .ok (.mloadQ 1) ∧
    decode 0xE0262E60 = .ok (.mtile 3 1 7 6) ∧
    decode 0xE0400000 = .ok .mcancel ∧
    decode 0xE0660009 = .ok (.mstat 3 9) ∧
    decode 0xE0802060 = .ok (.rowgetF 1 6) ∧
    decode 0xE0802260 = .ok (.rowgetS 1 6) ∧
    decode 0xE0A00000 = .ok .rowpass := by
  decide +kernel

/-- A word of each instruction of major 0x39, its fields set one by one as spec/opcode_table.json places them. -/
theorem test_decode_wales :
    decode 0xE4062009 = .ok (.warm 3 1 9) ∧
    decode 0xE4262E69 = .ok (.wadd 3 1 7 6 9) ∧
    decode 0xE4462009 = .ok (.wstat 3 1 9) ∧
    decode 0xE4602000 = .ok (.wwait 1) ∧
    decode 0xE4862069 = .ok (.wreadF 3 1 6 9) ∧
    decode 0xE4862269 = .ok (.wreadI 3 1 6 9) ∧
    decode 0xE4A62009 = .ok (.wdrop 3 1 9) ∧
    decode 0xE4C62009 = .ok (.wfree 3 1 9) := by
  decide +kernel

/-- A word of each instruction of major 0x3A, its fields set one by one as spec/opcode_table.json places them. -/
theorem test_decode_tasksAndRecords :
    decode 0xE8062009 = .ok (.ttsub 3 1 9) ∧
    decode 0xE8262009 = .ok (.ttstat 3 1 9) ∧
    decode 0xE8402000 = .ok (.send 1) ∧
    decode 0xE8602000 = .ok (.reply 1) := by
  decide +kernel

/-- A word of each instruction of major 0x3B, its fields set one by one as spec/opcode_table.json places them. -/
theorem test_decode_strands :
    decode 0xEC062E09 = .ok (.spawn 3 1 7 9) ∧
    decode 0xEC200000 = .ok .exit ∧
    decode 0xEC400000 = .ok .yield ∧
    decode 0xEC600000 = .ok .park ∧
    decode 0xEC802E00 = .ok (.wake 1 7) ∧
    decode 0xECA02000 = .ok (.migrate 1) ∧
    decode 0xECC02000 = .ok (.monarm 1) ∧
    decode 0xECE00000 = .ok .monwait ∧
    decode 0xED002000 = .ok (.prio 1) ∧
    decode 0xED202000 = .ok (.role 1) ∧
    decode 0xED402E00 = .ok (.cntarm 1 7) := by
  decide +kernel

/-- A word of each instruction of major 0x3C, its fields set one by one as spec/opcode_table.json places them. -/
theorem test_decode_hierarchy :
    decode 0xF0062009 = .ok (.launch 3 1 9) ∧
    decode 0xF0262009 = .ok (.join 3 1 9) ∧
    decode 0xF0402000 = .ok (.cancel 1) ∧
    decode 0xF0662009 = .ok (.cntstat 3 1 9) ∧
    decode 0xF0802000 = .ok (.phaseend 1) := by
  decide +kernel

/-- A word of each instruction of major 0x3E, its fields set one by one as spec/opcode_table.json places them. -/
theorem test_decode_system :
    decode 0xF8060259 = .ok (.ctlr 3 .agewin 9) ∧
    decode 0xF8208250 = .ok (.ctlw 4 .agewin) ∧
    decode 0xF8468259 = .ok (.ctlx 3 4 .agewin 9) ∧
    decode 0xF8600060 = .ok (.trap 6) ∧
    decode 0xF8800000 = .ok .eret ∧
    decode 0xF8A00000 = .ok .halt ∧
    decode 0xF8C02E00 = .ok (.xlinv 1 7) ∧
    decode 0xF8E02E00 = .ok (.attrset 1 7) ∧
    decode 0xF9002000 = .ok (.sealPage 1) ∧
    decode 0xF9262E09 = .ok (.msdecl 3 1 7 9) ∧
    decode 0xF9400000 = .ok .msdone ∧
    decode 0xF9662009 = .ok (.jrnl 3 1 9) ∧
    decode 0xF9862009 = .ok (.wingrant 3 1 9) ∧
    decode 0xF9A02000 = .ok (.winrev 1) := by
  decide +kernel

/-- The words that the spec itself writes out beside the assembly, for the scalar instructions (08 R157, R162, R163; 09). -/
theorem test_decode_spec_scalar :
    decode 0x64142108 = .ok (.rpt 0 5 1 1 1) ∧ decode 0x4443FFFD = .ok (.bne 1 0 (-3)) ∧
    decode 0x188C0087 = .ok (.srai 2 3 7) ∧ decode 0x24400004 = .ok (.li 1 4) ∧ decode 0x28423456 = .ok (.lis 1 0x23456) ∧
    decode 0x2841E26A = .ok (.lis 1 0x1E26A) ∧ decode 0x2843CDEF = .ok (.lis 1 0x3CDEF) ∧ decode 0x30420000 = .ok (.myid 1 .core) ∧
    decode 0x60000002 = .ok .ret ∧ decode 0xF8060050 = .ok (.ctlr 3 .frm 0) ∧ decode 0xF8468250 = .ok (.ctlx 3 4 .agewin 0) := by
  decide +kernel

/-- The same for memory, barriers, queues and copies (08; 10). -/
theorem test_decode_spec_memory :
    decode 0x84AE5000 = .ok (.stw 2 11 .rel .pkg 0) ∧ decode 0x88060A50 = .ok (.ldbit 3 0 .inc 1 5 0) ∧
    decode 0x90005000 = .ok (.fenceRel .pkg) ∧ decode 0x8CE88131 = .ok (.amoadd 3 10 2 false .rel .twr 1) ∧
    decode 0xA0660040 = .ok (.baw 3 4 0) ∧ decode 0xAC08C010 = .ok (.qbindStream 4 6 0) ∧ decode 0xAC4E0002 = .ok (.qpop 7 0 2) := by
  decide +kernel

/-- The same for vectors, engines and the system group (11; 12; 16; 23). -/
theorem test_decode_spec_engines :
    decode 0xC222182E = .ok (.vcmp .lt 1 2 3 0 .i32) ∧ decode 0xC4088003 = .ok (.vfma 0 8 16 0 .f32) ∧
    decode 0xC841004F = .ok (.kpopc 2 1) ∧ decode 0xCC650020 = .ok (.vld 3 5 0 .i32) ∧ decode 0xD0200102 = .ok (.ckaf 1 0 1 .f32) ∧
    decode 0xE0357830 = .ok (.mtile 10 11 12 3) ∧ decode 0xE42EAC00 = .ok (.wadd 7 5 6 0 0) ∧ decode 0xE8400000 = .ok (.send 0) ∧
    decode 0xECC00000 = .ok (.monarm 0) ∧ decode 0xECE00000 = .ok .monwait ∧ decode 0xF0800000 = .ok (.phaseend 0) ∧
    decode 0xF8C00000 = .ok (.xlinv 0 0) ∧ decode 0xF9868000 = .ok (.wingrant 3 4 0) ∧ decode 0xF8800000 = .ok .eret ∧
    decode 0xF9268A01 = .ok (.msdecl 3 4 5 1) ∧ decode 0xF9400000 = .ok .msdone := by
  decide +kernel

/-- Reserved encodings are refused: a field that must be zero, a reserved scope, ordering, type, rounding code, register number,
and the XLINV with la = 1 of 13. -/
theorem test_decode_refuses :
    (∀ w ∈ [0xF8C00001, 0x04000009, 0x048C401C, 0x30430000, 0x30420005, 0x80001C00, 0x84002000, 0x8C000600 + 0x2800,
        0x90002001, 0xA0600000 + 0x2000, 0xAC000060, 0xC0000090, 0xC400000D, 0xC4000030, 0xC8000609, 0xCC000081, 0xD4000002,
        0xD4000010, 0xE0C00000, 0xED600000, 0xF9C00000, 0xF8000180, 0x6C000000, 0xFC000000],
      (match decode (BitVec.ofNat 32 w) with | .ok _ => false | .error _ => true) = true) := by
  decide +kernel

/-! ## Ill-formed terms: one for each check of WellFormed -/

theorem test_illformed_bits : (Instr.ldbit 1 3 .inc 0 4 0).wf = false ∧ (Instr.ldbit 1 3 .xch 0 4 0).wf = false ∧
    (Instr.ldbits 1 3 .xch 0 0 0).wf = false ∧ (Instr.stbit 1 3 .xch 0 0).wf = false ∧ (Instr.stbit 1 3 .keep 0 0).wf = false := by decide

theorem test_illformed_types : (Instr.vadd 1 2 3 0 .t2).wf = false ∧ (Instr.vcmp .lt 1 2 3 0 .t2).wf = false ∧
    (Instr.vfadd 1 2 3 0 .e4m3).wf = false ∧ (Instr.vfcmp .lt 1 2 3 0 .e2m1).wf = false ∧ (Instr.vredfadd 1 2 0 .e8m0).wf = false ∧
    (Instr.ckaf 1 2 0 .e5m2).wf = false ∧ (Instr.vcvtInt 1 2 (.flt .e8m0) .frm .i8).wf = false ∧
    (Instr.vcvtFloat 1 2 (.int .i8) .frm .e8m0).wf = false ∧ (Instr.vcvtFloat 1 2 (.flt .e8m0) .frm .f32).wf = false ∧
    (Instr.vqmx 1 2 .frm .f32).wf = false ∧ (Instr.vdqmx 1 2 .bf16).wf = false ∧ (Instr.vpack 1 2 3 0 .n64).wf = false ∧
    (Instr.vunpack 1 2 true 0 .i64).wf = false ∧ (Instr.vld 1 2 0 .i4).wf = false ∧ (Instr.vgath 1 2 3 0 .i16).wf = false := by decide

theorem test_illformed_masks : (Instr.vcmp .lt 0 2 3 0 .i8).wf = false ∧ (Instr.vfcmp .lt 0 2 3 0 .f32).wf = false ∧
    (Instr.kand 0 1 2).wf = false ∧ (Instr.kmov 0 1).wf = false ∧ (Instr.vldbit 1 false 0 8 0 .i8).wf = false ∧
    (Instr.vstbit 1 false 0 0 0 .t2).wf = false := by decide

theorem test_illformed_events : (Instr.sealCmd ⟨0, [], 1, 2 ^ 32, []⟩).wf = false ∧ (Instr.storeAck 512 0).wf = false ∧
    (Instr.asyncTrap 0 19).wf = false ∧ (Instr.tileSchedulerIssue 32).wf = false ∧ (Instr.waleAddDone 0 64).wf = false ∧
    (Instr.weaverSample 4).wf = false ∧ (Instr.preemptionStart 0 512).wf = false ∧ (Instr.uncorrectableError 0 (some 19)).wf = false ∧
    (Instr.clockChange 0 1650).wf = false ∧ (Instr.millinerSample []).wf = false := by decide

/-! ## Single steps -/

/-- The state after an instruction. -/
def after (i : Instr) (s : State) : State :=
  match exec i s with
  | .next t => t
  | .fault _ => s
  | .refused _ => s

/-- A strand with these values in its general registers. -/
def withG (l : List (Nat × Word)) : State := one { user with regs := { Regs.zero with g := l } }

theorem test_mul_low : (after (.mul 3 1 2) (withG [(1, 0xFFFFFFFFFFFFFFFF), (2, 0xFFFFFFFFFFFFFFFF)])).rg 3 = 0x1 := by decide +kernel

theorem test_mulh_signed : (after (.mulh 3 1 2) (withG [(1, 0xFFFFFFFFFFFFFFFF), (2, 2)])).rg 3 = 0xFFFFFFFFFFFFFFFF := by decide +kernel

theorem test_mulhn_unsigned : (after (.mulhn 3 1 2) (withG [(1, 0xFFFFFFFFFFFFFFFF), (2, 2)])).rg 3 = 0x1 := by decide +kernel

theorem test_div_truncates : (after (.div 3 1 2) (withG [(1, 0xFFFFFFFFFFFFFFF9), (2, 2)])).rg 3 = 0xFFFFFFFFFFFFFFFD := by decide +kernel

theorem test_div_overflow : (after (.div 3 1 2) (withG [(1, 0x8000000000000000), (2, 0xFFFFFFFFFFFFFFFF)])).rg 3 = 0x8000000000000000 := by decide +kernel

theorem test_divn_zero : (after (.divn 3 1 2) (withG [(1, 9)])).rg 3 = 0xFFFFFFFFFFFFFFFF := by decide +kernel

theorem test_rem_sign : (after (.rem 3 1 2) (withG [(1, 0xFFFFFFFFFFFFFFF9), (2, 2)])).rg 3 = 0xFFFFFFFFFFFFFFFF := by decide +kernel

theorem test_rem_overflow : (after (.rem 3 1 2) (withG [(1, 0x8000000000000000), (2, 0xFFFFFFFFFFFFFFFF)])).rg 3 = 0x0 := by decide +kernel

theorem test_remn_zero : (after (.remn 3 1 2) (withG [(1, 9)])).rg 3 = 0x9 := by decide +kernel

theorem test_add_wraps : (after (.add 1 1 1) (withG [(1, 0x8000000000000001)])).rg 1 = 0x2 := by decide +kernel

theorem test_sub_wraps : (after (.sub 3 1 2) (withG [(1, 1), (2, 2)])).rg 3 = 0xFFFFFFFFFFFFFFFF := by decide +kernel

theorem test_andn : (after (.andn 3 1 2) (withG [(1, 0xFF), (2, 0x0F)])).rg 3 = 0xF0 := by decide +kernel

theorem test_orn : (after (.orn 3 1 2) (withG [(1, 1), (2, 0xFFFFFFFFFFFFFFF0)])).rg 3 = 0xF := by decide +kernel

theorem test_shl_count : (after (.shl 3 1 2) (withG [(1, 3), (2, 0x7F)])).rg 3 = 0x8000000000000000 := by decide +kernel

theorem test_sra_sign : (after (.sra 3 1 2) (withG [(1, 0x8000000000000000), (2, 63)])).rg 3 = 0xFFFFFFFFFFFFFFFF := by decide +kernel

theorem test_rot : (after (.rot 3 1 2) (withG [(1, 0x8000000000000001), (2, 1)])).rg 3 = 0x3 := by decide +kernel

theorem test_clz_zero : (after (.clz 3 1) (withG [])).rg 3 = 0x40 := by decide +kernel

theorem test_ctz : (after (.ctz 3 1) (withG [(1, 0x100)])).rg 3 = 0x8 := by decide +kernel

theorem test_popc : (after (.popc 3 1) (withG [(1, 0xF0F)])).rg 3 = 0x8 := by decide +kernel

theorem test_min_signed : (after (.min 3 1 2) (withG [(1, 0xFFFFFFFFFFFFFFFF), (2, 1)])).rg 3 = 0xFFFFFFFFFFFFFFFF := by decide +kernel

theorem test_minn_unsigned : (after (.minn 3 1 2) (withG [(1, 0xFFFFFFFFFFFFFFFF), (2, 1)])).rg 3 = 0x1 := by decide +kernel

theorem test_sltn : (after (.sltn 3 1 2) (withG [(1, 1), (2, 0xFFFFFFFFFFFFFFFF)])).rg 3 = 0x1 := by decide +kernel

theorem test_sel_condition : (after (.sel 3 1 2) (withG [(1, 4), (2, 5), (3, 0)])).rg 3 = 0x5 := by decide +kernel

theorem test_bfx_top : (after (.bfx 3 1 2) (withG [(1, 0xF000000000000000), (2, 0x73C)])).rg 3 = 0xF := by decide +kernel

theorem test_bfi_drops : (after (.bfi 3 1 2) (withG [(1, 0xFF), (2, 0x73C), (3, 1)])).rg 3 = 0xF000000000000001 := by decide +kernel

theorem test_addi_negative : (after (.addi 3 1 0x3FFFF) (withG [(1, 5)])).rg 3 = 0x4 := by decide +kernel

theorem test_ori_zero_extends : (after (.ori 3 1 0x3FFFF) (withG [])).rg 3 = 0x3FFFF := by decide +kernel

theorem test_sltni : (after (.sltni 3 1 0x3FFFF) (withG [(1, 0x3FFFE)])).rg 3 = 0x1 := by decide +kernel

theorem test_slti : (after (.slti 3 1 0x3FFFF) (withG [(1, 0xFFFFFFFFFFFFFFFE)])).rg 3 = 0x1 := by decide +kernel

theorem test_lis_spec : (after (.lis 1 0x3CDEF) (withG [(1, 0x48D159E26A)])).rg 1 = 0x123456789ABCDEF := by decide +kernel

theorem test_mkwin_spec : (after (.mkwin 4 5 0x2008) (withG [(5, 345)])).rg 4 = 0x800AC80000010040 := by decide +kernel

theorem test_lea_negative : (after (.lea 3 1 0xFFFF) (withG [(1, 0)])).rg 3 = 0xFFFFFFFFFFFFFFFF := by decide +kernel

theorem test_addpc : (after (.addpc 3 0x3FFFF) (withG [])).rg 3 = 0xFC := by decide +kernel

/-- A taken branch goes back three words; CALL links; RET to an address that is no word's traps and keeps the pc (09 R175 to R177). -/
theorem test_jumps : (after (.bne 1 2 (-3)) (one user)).me.pc = 0xF4 ∧ (after (.beq 1 2 (-3)) (one user)).me.pc = 0x104 ∧
    (after (.call 4) (one user)).me.pc = 0x110 ∧ (after (.call 4) (one user)).rg 15 = 0x104 ∧
    (after (.jr 4) (one user)).mine.cause = 5 ∧ (after (.jr 4) (one user)).mine.faddr = 0x102 ∧
    (after (.jr 4) (one user)).mine.epc = 0x100 ∧ (after (.jr 4) (one user)).me.sup = true := by decide +kernel

/-- ERET in user mode is a privilege trap; TRAP raises SOFT with its number (15). -/
theorem test_traps : (after .eret (one user)).mine.cause = 2 ∧ (after (.trap 9) (one user)).mine.cause = 3 ∧
    (after (.trap 9) (one user)).mine.faddr = 9 ∧ (after .halt (one user)).mine.cause = 2 := by decide +kernel

end Sys2Proof.Tests
end

section
/-!
PROOF. What the proofs about scheduling share: fields of words, keys of tables, searches of ranges, and jobs after a change of one.
-/

open Sys2Proof Sys2Proof.Machine Sys2Proof.Claims

namespace Sys2Proof.Scheduling

/-! Fields of words. -/

theorem bits_eq_field (w : Word) (lo n : Nat) : bits w lo n = field w lo n := rfl

theorem field_lt (w : Word) (lo n : Nat) : field w lo n < 2 ^ n := Nat.mod_lt _ (Nat.two_pow_pos n)

theorem bit_eq_getLsbD {n : Nat} (w : BitVec n) (i : Nat) : bit w i = w.getLsbD i := by
  rw [BitVec.getLsbD, Nat.testBit_eq_decide_div_mod_eq, bit, bits, Nat.pow_one]

/-! Searches. -/

theorem lowest_eq_some {n i : Nat} {p : Nat → Bool} :
    lowest n p = some i ↔ p i = true ∧ i < n ∧ ∀ m < i, p m = false := by
  simp [lowest, List.find?_range_eq_some]

theorem lowest_eq_none {n : Nat} {p : Nat → Bool} : lowest n p = none ↔ ∀ i < n, p i = false := by
  simp [lowest]

/-! Tables searched by key. -/

theorem find_put {α : Type} (t : Tab α) (k k' : Nat) (v : α) :
    (t.put k v).find? (fun x => decide (x.1 = k')) =
      if k' = k then some (k, v) else t.find? fun x => decide (x.1 = k') := by
  induction t with
  | nil => by_cases h : k' = k <;> simp [Tab.put, h, Ne.symm]
  | cons x t ih =>
    rw [Tab.put_cons]
    by_cases hx : x.1 = k
    · by_cases h : k' = k <;> simp [hx, h, Ne.symm]
    · by_cases h : k' = k
      · subst h
        by_cases hlt : k' < x.1 <;> simp [hx, hlt, ih]
      · by_cases hlt : k < x.1 <;> simp [hx, h, hlt, ih, List.find?_cons, Ne.symm h]

theorem find_map {α : Type} (f : α → α) (t : Tab α) (k : Nat) :
    (t.map fun x => (x.1, f x.2)).find? (fun x => decide (x.1 = k)) =
      (t.find? fun x => decide (x.1 = k)).map fun x => (x.1, f x.2) := by
  rw [List.find?_map]
  rfl

/-! Jobs. -/

theorem job?_modJob (s : State) (j j' : BitVec 16) (f : Job → Job) :
    (s.modJob j f).job? j' = if j' = j then (s.job? j).map f else s.job? j' := by
  have key : j'.toNat = j.toNat ↔ j' = j := ⟨BitVec.eq_of_toNat_eq, fun h => h ▸ rfl⟩
  unfold State.modJob
  cases h : s.job? j with
  | none =>
    by_cases e : j' = j
    · simp [e, h]
    · simp [e]
  | some x =>
    by_cases e : j' = j <;> simp [State.job?, find_put, key, e]

/-- A change of a job changes the table of jobs and nothing else. -/
theorem modJob_eq (s : State) (j : BitVec 16) (f : Job → Job) :
    s.modJob j f = { s with jobs := (s.modJob j f).jobs } := by
  unfold State.modJob
  split <;> rfl

theorem modJob_cores (s : State) (j : BitVec 16) (f : Job → Job) : (s.modJob j f).cores = s.cores := by
  rw [modJob_eq]

theorem core_modJob (s : State) (j : BitVec 16) (f : Job → Job) (c : Nat) : (s.modJob j f).core c = s.core c := by
  rw [State.core, modJob_cores]
  rfl

theorem me_modJob (s : State) (j : BitVec 16) (f : Job → Job) : (s.modJob j f).me = s.me := by
  rw [modJob_eq]
  rfl

/-- A member's increment changes the table of jobs and nothing else. -/
theorem launchInc_eq (s : State) (job : BitVec 16) (lid : Nat) :
    (s.launchInc job lid).1 = { s with jobs := (s.launchInc job lid).1.jobs } := by
  unfold State.launchInc
  split
  · split
    · rfl
    · split
      · rfl
      · exact modJob_eq ..
  · rfl

/-! Cores that are reached, and what arrives there. -/

/-- A core that has not been pre-empted is reached under its own number. -/
theorem reach_of_here {s : State} {c : Nat} (h : (s.core c).fwd = none) : s.reach c = c := by
  show s.target (511 + 1) c = c
  rw [State.target, h]

theorem closed_of_here {s : State} {c : Nat} (h : (s.core c).fwd = none) : s.closed c = s.shut c := by
  rw [State.closed, reach_of_here h, Bool.or_self]

/-- With no pre-emption in the part no router holds anything. -/
theorem routerHeld_of_calm {s : State} (h : s.preempts = []) (c : Nat) : s.routerHeld c = false := by
  rw [State.routerHeld, h, List.any_nil]

/-- The search of a FREE general slot. -/
theorem freeSlot_eq_some {k : Core} {n : Nat} :
    k.freeSlot = some n ↔ (k.strand n).st = .free ∧ n < 16 ∧ ∀ m < n, (k.strand m).st ≠ .free := by
  simp [Core.freeSlot, lowest_eq_some, Strand.live]

theorem freeSlot_eq_none {k : Core} : k.freeSlot = none ↔ ∀ n < 16, (k.strand n).st ≠ .free := by
  simp [Core.freeSlot, lowest_eq_none, Strand.live]

theorem popWaits_eq_true {s : State} {c : Nat} :
    s.popWaits c = true ↔ s.opens c = true ∧ (∃ n, (s.core c).freeSlot = some n) ∧ (s.core c).deque ≠ [] := by
  simp [State.popWaits, Option.isSome_iff_exists, and_assoc]

/-- Without room for it or a record of its own a core pops nothing. -/
theorem popWaits_eq_false {s : State} {c : Nat}
    (h : s.opens c = false ∨ (∀ n < 16, (s.strand c n).st ≠ .free) ∨ (s.core c).deque = []) : s.popWaits c = false := by
  rw [← Bool.not_eq_true, popWaits_eq_true]
  rintro ⟨opens, ⟨n, free⟩, some⟩
  obtain ⟨free, lt, -⟩ := freeSlot_eq_some.mp free
  rcases h with h | h | h
  · exact absurd opens (by rw [h]; exact Bool.false_ne_true)
  · exact h n lt free
  · exact some h

theorem entryHdr_eq_hdr (e : DqEnt) : entryHdr e = e.hdr := by
  cases e <;> rfl

/-- With room in its ring an entry enters at the owner end. -/
theorem pushEnt_of_room {s : State} {c : Nat} {e : DqEnt} (h : (s.core c).deque.length < 256) :
    s.pushEnt c e = some (s.modCore c fun k => { k with deque := k.deque ++ [e] }) := if_pos h

/-- A push to a core of the records' job that takes it. -/
theorem remotePush_of_room {s : State} {c : Nat} {e : DqEnt} (here : (s.core c).fwd = none) (shut : s.shut c = false)
    (job : hdrJob e.hdr = s.coreJob c) (live : s.cancelled e = false) (room : (s.core c).deque.length < 256) :
    s.remotePush c e = s.modCore c fun k => { k with deque := k.deque ++ [e] } := by
  simp only [State.remotePush, closed_of_here here, reach_of_here here, shut, job, live, pushEnt_of_room room,
    Bool.false_eq_true, ne_eq, not_true_eq_false, or_self, if_false]

theorem freeSlot_of_hungry {s : State} {c n : Nat} (h : Hungry s c n) : (s.core c).freeSlot = some n := by
  obtain ⟨-, -, ⟨lt, free, least⟩, -⟩ := h
  exact freeSlot_eq_some.mpr ⟨free, lt, least⟩

theorem slot_of_hungry {s : State} {c n : Nat} (h : Hungry s c n) : n < 16 := by
  obtain ⟨-, -, ⟨lt, -⟩, -⟩ := h
  exact lt

theorem cancelled_eq_false {s : State} {e : DqEnt}
    (live : ∀ x, s.counter? (hdrJob e.hdr) .launch (hdrLid e.hdr) = some x → x.canc = false) : s.cancelled e = false := by
  rw [State.cancelled, Option.any_eq_false]
  exact fun x hx => by rw [live x hx]

end Sys2Proof.Scheduling
end

section
/-!
PROOF. Reads by an engine of the part: what they leave, and what they do not depend on.
-/

open Sys2Proof Sys2Proof.Machine Sys2Proof.Claims

namespace Sys2Proof.Scheduling

/-! What a read leaves. -/

/-- A read changes the translations kept, the masks of privatised lines, and what leaves the part. -/
def Reads (s t : State) : Prop :=
  t = { s with xlates := t.xlates, serial := t.serial, priv := t.priv, sent := t.sent, free := t.free }

namespace Reads

theorem refl (s : State) : Reads s s := rfl

theorem trans {s t u : State} (p : Reads s t) (q : Reads t u) : Reads s u := by
  unfold Reads at *
  rw [p] at q
  exact q

theorem cores {s t : State} (h : Reads s t) : t.cores = s.cores := by rw [h]
theorem cur {s t : State} (h : Reads s t) : t.cur = s.cur := by rw [h]

theorem translate (s : State) (ag : Agent) (va : Nat) (nd : Need) : Reads s (s.translate ag va nd).1 := by
  unfold State.translate
  dsimp only
  split
  · exact refl s
  · split
    · exact refl s
    · split
      · exact refl s
      · split
        · exact refl s
        · split <;> rfl

theorem privAccess_load (s : State) (t pa n : Nat) : Reads s (s.privAccess t pa n false) := by
  unfold State.privAccess
  dsimp only
  rw [if_neg Bool.false_ne_true]
  split <;> rfl

theorem outside (s : State) {ag : Agent} {a : Word} {n : Nat} {k : AccKind} {t : State} {v : Nat}
    (h : s.outside ag a n k = .ok t v) : Reads s t := by
  unfold State.outside at h
  split at h
  · cases h
  · cases h
    rfl

theorem readVirt {s t : State} {ag : Agent} {va n v : Nat} (h : s.readVirt ag va n .engine = .ok t v) : Reads s t := by
  have goes (h : State.readVirt.go ag va n .engine s = .ok t v) : Reads s t := by
    unfold State.readVirt.go at h
    split at h
    · cases h
    · cases h
    · next s' pa ty sealed ver _ _ found =>
      have moved : Reads s s' := by
        have := translate s ag va .load
        rwa [found] at this
      dsimp only at h
      split at h
      · cases h
      · simp only [ne_eq, not_true_eq_false, decide_false, Bool.and_false, Bool.false_eq_true, if_false] at h
        cases h
        split
        · exact moved.trans (privAccess_load ..)
        · exact moved
  unfold State.readVirt at h
  split at h
  · split at h
    · split at h
      · cases h
      · cases h
        exact refl s
    · exact goes h
  · exact goes h

/-- A read by an engine fills no line. -/
theorem readAt {s t : State} {ag : Agent} {a : Word} {n v : Nat} (h : s.readAt ag a n .engine = .ok t v) : Reads s t := by
  unfold State.readAt at h
  split at h
  · cases h
  · split at h
    · cases h
    · split at h
      · exact readVirt h
      · unfold State.readBank at h
        dsimp only at h
        repeat' split at h
        all_goals cases h
        exact refl s
      · exact outside s h
      · exact outside s h
      · split at h
        · cases h
        · cases h
          exact refl s

end Reads

/-! What a read does not depend on. -/

/-- The part with other weavers. -/
def withWeavers (W : Tab Weaver) (s : State) : State := { s with weavers := W }

theorem reach_withWeavers (W : Tab Weaver) (s : State) (fuel c : Nat) :
    (withWeavers W s).target fuel c = s.target fuel c := by
  induction fuel generalizing c with
  | zero => rfl
  | succ fuel ih =>
    show (match (s.core c).fwd with
      | some c' => (withWeavers W s).target fuel c'
      | none => c) = match (s.core c).fwd with
      | some c' => s.target fuel c'
      | none => c
    cases (s.core c).fwd with
    | none => rfl
    | some c' => exact ih c'

theorem walk_withWeavers (W : Tab Weaver) (s : State) (va fuel table : Nat) :
    (withWeavers W s).walk va fuel table = s.walk va fuel table := by
  induction fuel generalizing table with
  | zero => rfl
  | succ fuel ih => simp only [State.walk, ih]; rfl

theorem walkPoisoned_withWeavers (W : Tab Weaver) (s : State) (b : Bases) (j : BitVec 16) (va : Nat) :
    (withWeavers W s).walkPoisoned b j va = s.walkPoisoned b j va := rfl

theorem translate_withWeavers (W : Tab Weaver) (s : State) (ag : Agent) (va : Nat) (nd : Need) :
    (withWeavers W s).translate ag va nd = (withWeavers W (s.translate ag va nd).1, (s.translate ag va nd).2) := by
  have xlates : (withWeavers W s).xlates = s.xlates := rfl
  have serial : (withWeavers W s).serial = s.serial := rfl
  have entry : (withWeavers W s).jobEntryOk ag.bases.jt ag.job = s.jobEntryOk ag.bases.jt ag.job := rfl
  have park : (withWeavers W s).xlPark ag.bases.jt ag.job = s.xlPark ag.bases.jt ag.job := rfl
  have leaf (e : Word) (level pte tag : Nat) : (withWeavers W s).leafCheck ag.bases.fat ag.core e level va nd pte tag =
      s.leafCheck ag.bases.fat ag.core e level va nd pte tag := rfl
  have walk : (withWeavers W s).walkJob ag.bases.jt ag.job va = s.walkJob ag.bases.jt ag.job va := walk_withWeavers ..
  simp only [State.translate, xlates, serial, entry, park, leaf, walk, walkPoisoned_withWeavers]
  split
  · rfl
  · split
    · rfl
    · split
      · rfl
      · split
        · rfl
        · split <;> rfl

/-- What a read gives, with its state changed. -/
def onState {α : Type} (f : State → State) : Got α → Got α
  | .ok s x => .ok (f s) x
  | .bad s c => .bad (f s) c
  | .invalid s e p => .invalid (f s) e p

theorem privAccess_withWeavers (W : Tab Weaver) (s : State) (t pa n : Nat) :
    (withWeavers W s).privAccess t pa n false = withWeavers W (s.privAccess t pa n false) := by
  have masks : (withWeavers W s).masks (lineOf pa) = s.masks (lineOf pa) := rfl
  simp only [State.privAccess, masks, Bool.false_eq_true, if_false]
  split <;> rfl

theorem dataAt_withWeavers (W : Tab Weaver) (s : State) (ag : Agent) (va pa n : Nat) (ty : PageTy) :
    (withWeavers W s).dataAt ag va pa n ty = s.dataAt ag va pa n ty := rfl

/-- A page's data, as an engine reads them. -/
def pageRead (ag : Agent) (va n : Nat) : State × Tr → Got Nat
  | (s, .bad c) => .bad s c
  | (s, .invalid e v0 park) => .invalid s e (v0 && park)
  | (s, .ok pa ty _ _ _ _) =>
    let s' := if ty = .rc then s.privAccess (towerOf ag.core) pa n false else s
    match s'.dataAt ag va pa n ty with
    | none => .bad s' Cause.poison
    | some v => .ok s' v

theorem readVirt_go_engine (s : State) (ag : Agent) (va n : Nat) :
    State.readVirt.go ag va n .engine s = pageRead ag va n (s.translate ag va .load) := by
  unfold State.readVirt.go pageRead
  split <;> simp only [*, ne_eq, not_true_eq_false, decide_false, Bool.and_false, Bool.false_eq_true, if_false] <;>
    rfl

theorem pageRead_withWeavers (W : Tab Weaver) (ag : Agent) (va n : Nat) (x : State × Tr) :
    pageRead ag va n (withWeavers W x.1, x.2) = onState (withWeavers W) (pageRead ag va n x) := by
  obtain ⟨s, tr⟩ := x
  cases tr with
  | bad => rfl
  | invalid => rfl
  | ok pa ty sealed ver pte tag =>
    have moved : (if ty = .rc then (withWeavers W s).privAccess (towerOf ag.core) pa n false else withWeavers W s) =
        withWeavers W (if ty = .rc then s.privAccess (towerOf ag.core) pa n false else s) := by
      split
      · exact privAccess_withWeavers ..
      · rfl
    simp only [pageRead, moved, dataAt_withWeavers]
    split <;> rfl

theorem readVirt_withWeavers (W : Tab Weaver) (s : State) (ag : Agent) (va n : Nat) :
    (withWeavers W s).readVirt ag va n .engine = onState (withWeavers W) (s.readVirt ag va n .engine) := by
  have line : (withWeavers W s).l1 ag.core ag.job va = s.l1 ag.core ag.job va := rfl
  simp only [State.readVirt, line, readVirt_go_engine, translate_withWeavers, pageRead_withWeavers]
  split
  · split
    · split <;> rfl
    · rfl
  · rfl

theorem readBank_withWeavers (W : Tab Weaver) (s : State) (ag : Agent) (c off n : Nat) :
    (withWeavers W s).readBank ag c off n = onState (withWeavers W) (s.readBank ag c off n) := by
  have reach : (withWeavers W s).reach c = s.reach c := reach_withWeavers ..
  have core (c : Nat) : (withWeavers W s).core c = s.core c := rfl
  have away : (withWeavers W s).turnsAway ag c = s.turnsAway ag c := by
    simp only [State.turnsAway, reach]
    rfl
  simp only [State.readBank, away, reach, core]
  cases s.turnsAway ag c with
  | true => rfl
  | false =>
    cases (s.core (s.reach c)).scratchOk off n with
    | false => rfl
    | true => cases touches (s.core (s.reach c)).spois off n <;> rfl

theorem outside_withWeavers (W : Tab Weaver) (s : State) (ag : Agent) (a : Word) (n : Nat) (k : AccKind) :
    (withWeavers W s).outside ag a n k = onState (withWeavers W) (s.outside ag a n k) := by
  have free : (withWeavers W s).free = s.free := rfl
  simp only [State.outside, free]
  split <;> rfl

theorem readAt_withWeavers (W : Tab Weaver) (s : State) (ag : Agent) (a : Word) (n : Nat) :
    (withWeavers W s).readAt ag a n .engine = onState (withWeavers W) (s.readAt ag a n .engine) := by
  have check (sp : Space) : (withWeavers W s).windowCheck ag sp n .load = s.windowCheck ag sp n .load := rfl
  have poisoned (pa : Nat) : (withWeavers W s).poisoned pa n = s.poisoned pa n := rfl
  simp only [State.readAt, check, readVirt_withWeavers, readBank_withWeavers, outside_withWeavers, poisoned]
  split
  · rfl
  · split
    · rfl
    · split
      · rfl
      · rfl
      · rfl
      · rfl
      · split <;> rfl

/-- What a read of words gives, with its state changed. -/
def onWords (f : State → State) : Except (State × Stop) (State × List Word) → Except (State × Stop) (State × List Word)
  | .ok (s, ws) => .ok (f s, ws)
  | .error (s, e) => .error (f s, e)

/-- The words that an engine reads do not depend on the weavers. -/
theorem readWords_withWeavers (W : Tab Weaver) (s : State) (ag : Agent) (a : Word) (n : Nat) :
    (withWeavers W s).readWords ag .engine a n = onWords (withWeavers W) (s.readWords ag .engine a n) := by
  induction n generalizing s a with
  | zero => rfl
  | succ n ih =>
    simp only [State.readWords, readAt_withWeavers]
    cases s.readAt ag a 8 .engine with
    | bad => rfl
    | invalid => rfl
    | ok t v =>
      simp only [onState, ih]
      cases t.readWords ag .engine (a + 8) n with
      | error => rfl
      | ok => rfl

/-! Rings. -/

/-- The rings of a die do not depend on what its weaver holds beside the registers that the last sample found. -/
theorem ring_withWeavers {W : Tab Weaver} {s : State} (seen : ∀ d, ((withWeavers W s).weaver d).seen = (s.weaver d).seen)
    (c i : Nat) : (withWeavers W s).ring c i = s.ring c i := by
  have party (j : BitVec 16) : (withWeavers W s).party c j false = s.party c j false := rfl
  simp only [State.ring, Weaver.ringJob, seen, party, readWords_withWeavers]
  split
  · rfl
  · cases s.readWords (s.party c (BitVec.ofNat 16 (bits ((s.weaver (towerOf c)).seen.look i 0) 48 16)) false) .engine
      (word (bits ((s.weaver (towerOf c)).seen.look i 0) 6 42 * 64)) 5 with
    | error => rfl
    | ok => rfl

theorem dieRing_withWeavers {W : Tab Weaver} {s : State} (seen : ∀ d, ((withWeavers W s).weaver d).seen = (s.weaver d).seen)
    (die i : Nat) : (withWeavers W s).dieRing die i = s.dieRing die i := by
  have core (j : BitVec 16) : (withWeavers W s).ringCore die j = s.ringCore die j := rfl
  simp only [State.dieRing, Weaver.ringJob, seen, core, ring_withWeavers seen]

theorem seenRings_withWeavers {W : Tab Weaver} {s : State} (seen : ∀ d, ((withWeavers W s).weaver d).seen = (s.weaver d).seen)
    (die : Nat) : (withWeavers W s).seenRings die = s.seenRings die := by
  simp only [State.seenRings, dieRing_withWeavers seen]

end Sys2Proof.Scheduling
end

section
/-!
PROOF. The start of a record on a core (02 R33, R34).
-/

open Sys2Proof Sys2Proof.Machine Sys2Proof.Claims

namespace Sys2Proof.Scheduling

/-- Words taken up from register `i` on, one after another. -/
theorem look_foldl_put (ws : List Word) (i k : Nat) (t : Tab Word) :
    (((List.range' i ws.length).zip ws).foldl (fun t x => t.put x.1 x.2) t).look k 0 =
      if i ≤ k ∧ k < i + ws.length then ws.getD (k - i) 0 else t.look k 0 := by
  induction ws generalizing i t with
  | nil => exact (if_neg (by simp only [List.length_nil]; omega)).symm
  | cons w ws ih =>
    rw [List.length_cons, List.range'_succ, List.zip_cons_cons, List.foldl_cons, ih, Tab.look_put]
    rcases Nat.lt_trichotomy k i with lt | rfl | gt
    · rw [if_neg (by omega), if_neg (by omega), if_neg (by omega)]
    · rw [if_neg (by omega), if_pos rfl, if_pos (by omega), Nat.sub_self]
      rfl
    · have step : k - i = k - (i + 1) + 1 := by omega
      by_cases below : k < i + 1 + ws.length
      · rw [if_pos (by omega), if_pos (by omega), step, List.getD_cons_succ]
      · rw [if_neg (by omega), if_neg (by omega), if_neg (by omega)]

theorem look_ofList (ws : List Word) (k : Nat) : (Regs.ofList ws).g.look k 0 = ws.getD k 0 := by
  rw [Regs.ofList, List.range_eq_range', look_foldl_put, Nat.zero_add, Nat.sub_zero]
  by_cases h : k < ws.length
  · rw [if_pos ⟨Nat.zero_le k, h⟩]
  · rw [if_neg (fun c => h c.2), Tab.look_nil, List.getD_eq_default _ _ (Nat.le_of_not_lt h)]

/-- 02 R34: the registers of a record that starts. -/
theorem look_trimArgs (r : Rec) (k : Nat) :
    (Regs.ofList (trimArgs r)).g.look k 0 = if k ≤ field (r.getD 0 0) 24 3 then r.getD k 0 else 0 := by
  have argc := field_lt (r.getD 0 0) 24 3
  rw [look_ofList, trimArgs]
  by_cases h : k < 8
  · rw [List.getD_eq_getElem _ _ (by rw [List.length_map, List.length_range]; exact h), List.getElem_map, List.getElem_range]
    rfl
  · rw [List.getD_eq_default _ _ (by rw [List.length_map, List.length_range]; omega), if_neg (by omega)]

/-- A strand identity that is given is not 0 (12 R256). -/
theorem newStrid_ne_zero (s : State) (job : BitVec 16) : (s.newStrid job).2 ≠ 0 := by
  unfold State.newStrid
  split
  · dsimp only
    split
    · decide
    · assumption
  · exact show (1 : BitVec 32) ≠ 0 by decide

/-- A strand identity that is given changes the table of jobs and nothing else. -/
theorem newStrid_eq (s : State) (job : BitVec 16) :
    (s.newStrid job).1 = { s with jobs := (s.newStrid job).1.jobs } := by
  unfold State.newStrid
  split
  · exact modJob_eq ..
  · rfl

/-- The handler's entry where the word at its address is odd. -/
theorem handlerEntry_of_read {s s1 : State} {c v : Nat} {h : Word} (read : EntryRead s c h s1 v) (odd : v % 2 = 1) :
    s.handlerEntry c (hdrHidx h) = (s1, .ok (BitVec.ofNat 64 (v / 4 % 2 ^ 46 * 4))) := by
  obtain ⟨within, read⟩ := read
  have inside : ¬field (s.core c).htbase 0 12 < field h 0 12 := by omega
  have set : ¬v % 2 = 0 := by omega
  have fits : field (word v) 2 46 = v / 4 % 2 ^ 46 := by
    rw [field, word, BitVec.toNat_ofNat]
    omega
  have read' : s.readAt (s.party c (s.coreJob c) false)
      (word (field (s.core c).htbase 15 49 * 2 ^ 15 + 8 * hdrHidx h)) 8 .engine = .ok s1 v := read
  simp only [State.handlerEntry, bits_eq_field, hdrHidx, inside, if_false] at read' ⊢
  rw [read']
  simp only [set, if_false, fits]
  rfl

/-- What the start of a record leaves: the strand in its slot; the core's RC lines go where the record's fences order it. -/
theorem startRecord_of_read {s s1 : State} {c n v : Nat} {r : Rec} (read : EntryRead s c (r.getD 0 0) s1 v) (odd : v % 2 = 1)
    (slot : n < 16) :
    ∃ (js : Tab Job) (k : Core) (t : Strand), (k = s1.core c ∨ k = (s1.core c).dropRc) ∧
      s.startRecord c n r = ({ s1 with jobs := js } : State).setCore c (k.setStrand n t) ∧
      Started t r (BitVec.ofNat 64 (v / 4 % 2 ^ 46 * 4)) (s.coreJob c) := by
  have general : ¬n = msgSlot := by unfold msgSlot; omega
  refine ⟨(s1.newStrid (s.coreJob c)).1.jobs, if Rec.ordered r c then (s1.core c).dropRc else s1.core c,
    Strand.fresh (.ofList (trimArgs r)) (BitVec.ofNat 64 (v / 4 % 2 ^ 46 * 4)) (s.coreJob c) (hdrLid (r.getD 0 0))
      (s1.newStrid (s.coreJob c)).2, ?_, ?_, ?_⟩
  · split
    · exact .inr rfl
    · exact .inl rfl
  · have started : s.startRecord c n r =
        (if Rec.ordered r c then (s1.newStrid (s.coreJob c)).1.invalidateRc c else (s1.newStrid (s.coreJob c)).1).setStrand c n
          (Strand.fresh (.ofList (trimArgs r)) (BitVec.ofNat 64 (v / 4 % 2 ^ 46 * 4)) (s.coreJob c) (hdrLid (r.getD 0 0))
            (s1.newStrid (s.coreJob c)).2) := by
      simp only [State.startRecord, recHdr, handlerEntry_of_read read odd, general, if_false]
    rw [started, newStrid_eq s1]
    split
    · rw [State.setStrand, State.invalidateRc, State.core_modCore_same, State.modCore, State.setCore_setCore]
      rfl
    · rfl
  · refine ⟨rfl, rfl, rfl, ?_, newStrid_ne_zero s1 (s.coreJob c), rfl,
      rfl, rfl, rfl, rfl, rfl, rfl, rfl, rfl, ?_, fun j _ => ?_⟩
    · exact (BitVec.toNat_ofNat ..).trans (Nat.mod_eq_of_lt (field_lt (r.getD 0 0) 12 12))
    · exact (look_trimArgs r 0).trans (if_pos (Nat.zero_le _))
    · exact look_trimArgs r j.val

end Sys2Proof.Scheduling
end

section
/-!
PROOF. What a counter's decrement leaves in the cores: their deques, and the slots that are FREE.
-/

open Sys2Proof Sys2Proof.Machine Sys2Proof.Claims

namespace Sys2Proof.Scheduling

/-! JOINs that return. -/

/-- A strand once the JOINs of its job on a unit return. -/
def wokenStrand (job : BitVec 16) (lv : Level) (n : Nat) (w : Word) (t : Strand) : Strand :=
  if t.job = job then t.joined lv n w else t

/-- A core once the JOINs of a job on a unit return. -/
def wokenCore (job : BitVec 16) (lv : Level) (n : Nat) (w : Word) (k : Core) : Core :=
  let ts := k.strands.map fun x => (x.1, wokenStrand job lv n w x.2)
  if ts = k.strands then k else { k.dropRc with strands := ts }

theorem wakeJoins_eq (s : State) (job : BitVec 16) (lv : Level) (n : Nat) (w : Word) :
    s.wakeJoins job lv n w = { s with cores := s.cores.map fun x => (x.1, wokenCore job lv n w x.2) } := rfl

/-- A strand that is FREE returns from no JOIN. -/
theorem wokenStrand_of_free {t : Strand} (h : t.st = .free) (job : BitVec 16) (lv : Level) (n : Nat) (w : Word) :
    wokenStrand job lv n w t = t := by
  rw [wokenStrand, Strand.joined, h]
  exact ite_self t

/-! What stays. -/

/-- Every core keeps its deque, and what is FREE in it stays FREE. -/
structure Steady (s t : State) : Prop where
  deque : ∀ c, (t.core c).deque = (s.core c).deque
  free : ∀ c n, (s.strand c n).st = .free → (t.strand c n).st = .free

namespace Steady

theorem refl (s : State) : Steady s s := ⟨fun _ => rfl, fun _ _ => id⟩

theorem trans {s t u : State} (p : Steady s t) (q : Steady t u) : Steady s u :=
  ⟨fun c => (q.deque c).trans (p.deque c), fun c n h => q.free c n (p.free c n h)⟩

theorem of_cores {s t : State} (h : t.cores = s.cores) : Steady s t := by
  have core (c : Nat) : t.core c = s.core c := by rw [State.core, h, State.core]
  exact ⟨fun c => congrArg Core.deque (core c), fun c n free => (congrArg (fun k => (k.strand n).st) (core c)).trans free⟩

/-- Every core is changed by one function, which leaves a core after reset as it is. -/
theorem mapCores (s : State) {g : Core → Core} (reset : g Core.reset = Core.reset) (deque : ∀ k, (g k).deque = k.deque)
    (free : ∀ k n, (k.strand n).st = .free → ((g k).strand n).st = .free) :
    Steady s { s with cores := s.cores.map fun x => (x.1, g x.2) } := by
  have core (c : Nat) : ({ s with cores := s.cores.map fun x => (x.1, g x.2) } : State).core c = g (s.core c) := by
    show Tab.look _ c Core.reset = _
    rw [← reset, Tab.look_map, State.core]
  refine ⟨fun c => (congrArg Core.deque (core c)).trans (deque _), fun c n h => ?_⟩
  exact (congrArg (fun k => (k.strand n).st) (core c)).trans (free _ n h)

theorem modJob (s : State) (j : BitVec 16) (f : Job → Job) : Steady s (s.modJob j f) := of_cores (modJob_cores ..)

theorem lapseArms (s : State) (job : BitVec 16) (lid : Nat) : Steady s (s.lapseArms job lid) :=
  mapCores s (g := fun k => { k with arms := k.arms.filter fun x => !(x.2.job = job && x.2.lid.toNat = lid) }) rfl
    (fun _ => rfl) fun _ _ => id

theorem wakeJoins (s : State) (job : BitVec 16) (lv : Level) (n : Nat) (w : Word) : Steady s (s.wakeJoins job lv n w) := by
  rw [wakeJoins_eq]
  refine mapCores s (g := wokenCore job lv n w) rfl (fun k => ?_) fun k m h => ?_
  · dsimp only [wokenCore]
    split <;> rfl
  · dsimp only [wokenCore]
    split
    · exact h
    · show (Tab.look (k.strands.map fun x => (x.1, wokenStrand job lv n w x.2)) m Strand.empty).st = _
      rw [← wokenStrand_of_free (t := Strand.empty) rfl job lv n w, Tab.look_map]
      exact (congrArg Strand.st (wokenStrand_of_free h job lv n w)).trans h

theorem jobDec (s : State) (job : BitVec 16) (err : Bool) : Steady s (s.jobDec job err) := by
  unfold State.jobDec
  split
  · dsimp only
    split
    · exact (modJob ..).trans (wakeJoins ..)
    · exact modJob ..
  · exact refl s

theorem phaseDec (s : State) (job : BitVec 16) (p : Nat) (err : Bool) : Steady s (s.phaseDec job p err) := by
  unfold State.phaseDec
  split
  · split
    · exact refl s
    · dsimp only
      split
      · exact ((modJob ..).trans (wakeJoins ..)).trans ((modJob ..).trans (jobDec ..))
      · exact modJob ..
  · exact refl s

theorem freeLaunches (s : State) (job : BitVec 16) (g : Nat) : Steady s (s.freeLaunches job g) :=
  of_cores (modJob_cores ..)

theorem graphDec (s : State) (job : BitVec 16) (g : Nat) (err : Bool) : Steady s (s.graphDec job g err) := by
  unfold State.graphDec
  split
  · dsimp only
    split
    · exact ((modJob ..).trans (wakeJoins ..)).trans ((freeLaunches ..).trans (phaseDec ..))
    · exact modJob ..
  · exact refl s

theorem launchDec (s : State) (job : BitVec 16) (lid n : Nat) (err : Bool) : Steady s (s.launchDec job lid n err) := by
  unfold State.launchDec
  split
  · split
    · exact refl s
    · dsimp only
      split
      · exact ((modJob ..).trans (modJob ..)).trans (((lapseArms ..).trans (wakeJoins ..)).trans (graphDec ..))
      · exact modJob ..
  · exact refl s

theorem sendDec (s : State) (job : BitVec 16) (lid : Nat) (err : Bool) : Steady s (s.sendDec job lid err) := by
  unfold State.sendDec
  split
  · exact of_cores rfl
  · exact launchDec ..

theorem discardEnt (s : State) (e : DqEnt) : Steady s (s.discardEnt e) := by
  cases e with
  | one r => exact sendDec ..
  | range => exact launchDec ..

end Steady

end Sys2Proof.Scheduling
end

section
/-!
PROOF. The values that reset leaves (09 R184 to R188, 22 R382).
-/

open Sys2Proof Sys2Proof.Machine Sys2Proof.Claims

namespace Sys2Proof.Scheduling

theorem core_reset (c : Nat) : State.reset.core c = Core.reset := rfl
theorem strand_reset (n : Nat) : Core.reset.strand n = Strand.empty := rfl

/-- Settles O58: after reset every table is empty, so each part reads as its default. -/
theorem resetValues : Obligations.ResetValues := by
  unfold Obligations.ResetValues
  refine ⟨fun c => ?_, fun i => ⟨rfl, rfl, rfl⟩, fun d n => rfl, fun i => ⟨rfl, rfl⟩, fun x => rfl⟩
  rw [core_reset]
  refine ⟨rfl, rfl, rfl, rfl, rfl, rfl, rfl, rfl, rfl, rfl, rfl, rfl, rfl, rfl, rfl, rfl, fun b => rfl, fun x => rfl,
    fun b => rfl, fun q => rfl, fun n => ?_⟩
  rw [strand_reset]
  exact ⟨rfl, rfl, rfl, rfl, rfl, rfl⟩

end Sys2Proof.Scheduling
end

section
/-!
PROOF. Tile tasks (03 R62): the record that the statement and the model send to different units.
-/

open Sys2Proof Sys2Proof.Machine Sys2Proof.Claims

namespace Sys2Proof.Scheduling

/-- A record of one row and a contraction of 1 under tag 0, submitted from core 0. -/
def untagged : Task := ⟨0, [0, 0x40000000000, 0, 1, 0, 0, 0, 0], 0, 0, 0⟩

/-- Cluster 0 holds that record; the unit of core 1 holds a B under tag 0, that of core 0 holds none. -/
def untaggedHeld : State :=
  { State.reset with
      cores := [(1, { Core.reset with matrix := { Matrix.reset with res := some ⟨0, 0, 1, 1, 0, false, []⟩ } })],
      scheds := [(0, ⟨[untagged], 1, [(0, ⟨0, false, 0⟩)]⟩)] }

/-- A tile scheduler that is powered considers its records, the oldest first (03 R62). -/
theorem exec_tileSchedulerIssue {cl : Nat} {s : State} (h : s.deaf = false) :
    exec (.tileSchedulerIssue cl) s = .next (s.considerTasks cl (s.sched cl).held) := by
  show execTileSchedulerIssue cl s = _
  rw [execTileSchedulerIssue, h, if_neg Bool.false_ne_true]

/-- The record goes to core 0: a tag of 0 matches no unit (07 R127). -/
theorem untagged_goes_to_lowest :
    ((untaggedHeld.considerTasks 0 [untagged]).sched 0).tickets = [(0, ⟨1, false, 0⟩)] := by decide +kernel

/-- `UnitFor` names core 1 all the same, the only one whose resident B has the record's tag 0. -/
theorem untagged_unitFor : UnitFor untaggedHeld 0 untagged 1 := by
  have free : FreeUnit untaggedHeld 0 1 := by unfold FreeUnit; decide +kernel
  have tagged : HasTag untaggedHeld untagged 1 := by unfold HasTag; decide +kernel
  have none_below : ¬HasTag untaggedHeld untagged 0 := by unfold HasTag; decide +kernel
  exact ⟨free, .inl ⟨tagged, fun e he _ => by
    obtain rfl : e = 0 := by omega
    exact none_below⟩⟩

/-- Refutes O36: a record under tag 0, which never matches a resident tag (07 R127), goes to the lowest free unit, where
`UnitFor` picks a higher one that holds a B under tag 0. -/
theorem not_tileTasks : ¬ Obligations.TileTasks := by
  unfold Obligations.TileTasks
  rintro ⟨-, issue⟩
  obtain ⟨t, run, -, tickets, -⟩ := issue 0 1 untaggedHeld untagged [] rfl rfl (by simp) rfl untagged_unitFor
    (by decide +kernel) (by decide +kernel) (.inl (by decide +kernel))
  rw [exec_tileSchedulerIssue rfl] at run
  have goes : untaggedHeld.considerTasks 0 [untagged] = t := Host.Outcome.next.inj run
  rw [← goes, untagged_goes_to_lowest] at tickets
  exact absurd tickets (by decide +kernel)

end Sys2Proof.Scheduling
end

section
/-!
PROOF. Launches (12 R258): the checks of a descriptor, the job with a launch added, the placement of its entry.
-/

open Sys2Proof Sys2Proof.Machine Sys2Proof.Claims

namespace Sys2Proof.Scheduling

/-! The job with a launch added. -/

theorem launch?_put (j : Job) (n m : Nat) (l : Launch) :
    ({ j with launches := j.launches.put n l } : Job).launch? m = if m = n then some l else j.launch? m := by
  rw [Job.launch?, find_put]
  split <;> rfl

theorem graph?_put (j : Job) (n m : Nat) (g : Graph) :
    ({ j with graphs := j.graphs.put n g } : Job).graph? m = if m = n then some g else j.graph? m := by
  rw [Job.graph?, find_put]
  split <;> rfl

theorem setCounter_graph {j : Job} {n : Nat} {g : Graph} (h : j.graph? n = some g) (c : Counter) :
    j.setCounter .graph n c = { j with graphs := j.graphs.put n { g with ctr := c } } := by
  simp [Job.setCounter, h]

theorem setCounter_phase {j : Job} {n : Nat} {p : Phase} (h : j.phase? n = some p) (c : Counter) :
    j.setCounter .phase n c = { j with phases := j.phases.put n { p with ctr := c } } := by
  simp [Job.setCounter, h]

/-- A live graph is open already. -/
theorem openGraph_of_live {j : Job} {g : Nat} {x : Graph} (h : j.graph? g = some x) : j.openGraph g = j := by
  simp [Job.openGraph, h]

/-- A number that names no live graph opens one in the open phase, which counts it. -/
theorem openGraph_of_none {j : Job} {g : Nat} (h : j.graph? g = none) :
    j.openGraph g = { j with
      graphs := j.graphs.put g ⟨.start 0, j.phase⟩,
      phases := match j.phase? j.phase with
        | some p => j.phases.put j.phase { p with ctr := { p.ctr with count := p.ctr.count + 1 } }
        | none => j.phases } := by
  have keep : ({ j with graphs := j.graphs.put g ⟨.start 0, j.phase⟩ } : Job).phase? j.phase = j.phase? j.phase := rfl
  simp only [Job.openGraph, h, Option.isSome_none, Bool.false_eq_true, if_false, Job.counter?, keep]
  cases hp : j.phase? j.phase with
  | none => rfl
  | some p => simp only [Option.map_some, setCounter_phase (keep.trans hp)]

theorem openGraph_launches (j : Job) (g : Nat) : (j.openGraph g).launches = j.launches := by
  cases h : j.graph? g with
  | some x => rw [openGraph_of_live h]
  | none => rw [openGraph_of_none h]

theorem openGraph_launch? (j : Job) (g m : Nat) : (j.openGraph g).launch? m = j.launch? m := by
  rw [Job.launch?, openGraph_launches, Job.launch?]

theorem openGraph_graph? (j : Job) (g : Nat) :
    (j.openGraph g).graph? g = some ((j.graph? g).getD ⟨.start 0, j.phase⟩) := by
  cases h : j.graph? g with
  | some x => rw [openGraph_of_live h, h, Option.getD_some]
  | none =>
    rw [openGraph_of_none h, Job.graph?, find_put, if_pos rfl]
    rfl

theorem openGraph_phase? {j : Job} {g : Nat} {p : Phase} (h : j.graph? g = none) (hp : j.phase? j.phase = some p) :
    (j.openGraph g).phase? j.phase = some { p with ctr := { p.ctr with count := p.ctr.count + 1 } } := by
  rw [openGraph_of_none h, Job.phase?]
  simp only [hp]
  rw [find_put, if_pos rfl, Option.map_some]

theorem openGraph_waitsFor (j : Job) (g : Nat) (w : Word) : (j.openGraph g).waitsFor g w = j.waitsFor g w := by
  simp only [Job.waitsFor, openGraph_launch?]

/-- A descriptor waits for the launches that it names where they are used, of its graph, and incomplete. -/
theorem mem_waitsFor (j : Job) (d : List Word) (n : Nat) :
    n ∈ j.waitsFor (field (d.getD 0 0) 44 8) (d.getD 2 0) ↔ Awaited j d n := by
  unfold Job.waitsFor Awaited
  simp only [List.mem_map, List.mem_filter, List.mem_range, Bool.and_eq_true, bit_eq_getLsbD, bits_eq_field]
  constructor
  · rintro ⟨i, ⟨hi, hb, ho⟩, rfl⟩
    exact ⟨i, hi, hb, rfl, ho⟩
  · rintro ⟨i, hi, hb, rfl, ho⟩
    exact ⟨i, ⟨hi, hb, ho⟩, rfl⟩

theorem waitsFor_eq_nil (j : Job) (d : List Word) :
    j.waitsFor (field (d.getD 0 0) 44 8) (d.getD 2 0) = [] ↔ ∀ n, ¬Awaited j d n := by
  simp only [List.eq_nil_iff_forall_not_mem, mem_waitsFor]

/-- The launch that a descriptor makes. -/
def launchFor (j : Job) (d : List Word) (e : Option (Nat × DqEnt)) : Launch :=
  let g := field (d.getD 0 0) 44 8
  { ctr := .start (field (d.getD 0 0) 0 32), graph := g, waits := (j.openGraph g).waitsFor g (d.getD 2 0), entry := e }

/-- The job with a descriptor's launch under its number and its graph live, which does not count it yet. -/
def withLaunch (j : Job) (lid : Nat) (d : List Word) (e : Option (Nat × DqEnt)) : Job :=
  let j' := j.openGraph (field (d.getD 0 0) 44 8)
  { j' with launches := j'.launches.put lid (launchFor j d e) }

/-- The graph of a descriptor in such a job. -/
def graphFor (j : Job) (d : List Word) : Graph := (j.graph? (field (d.getD 0 0) 44 8)).getD ⟨.start 0, j.phase⟩

theorem withLaunch_graph? (j : Job) (lid : Nat) (d : List Word) (e : Option (Nat × DqEnt)) :
    (withLaunch j lid d e).graph? (field (d.getD 0 0) 44 8) = some (graphFor j d) := openGraph_graph? ..

/-- What `addLaunch` makes: the graph counts the launch. -/
theorem addLaunch_eq (j : Job) (lid : Nat) (d : List Word) (e : Option (Nat × DqEnt)) :
    j.addLaunch lid d e = { withLaunch j lid d e with
      graphs := (withLaunch j lid d e).graphs.put (field (d.getD 0 0) 44 8)
        { graphFor j d with ctr := { (graphFor j d).ctr with count := (graphFor j d).ctr.count + 1 } } } := by
  have live := withLaunch_graph? j lid d e
  have counts : (withLaunch j lid d e).counter? .graph (field (d.getD 0 0) 44 8) = some (graphFor j d).ctr := by
    rw [Job.counter?, live, Option.map_some]
  rw [← setCounter_graph live]
  show (match (withLaunch j lid d e).counter? .graph (field (d.getD 0 0) 44 8) with
    | some c => (withLaunch j lid d e).setCounter .graph (field (d.getD 0 0) 44 8) { c with count := c.count + 1 }
    | none => withLaunch j lid d e) = _
  rw [counts]

theorem launch?_addLaunch (j : Job) (lid m : Nat) (d : List Word) (e : Option (Nat × DqEnt)) :
    (j.addLaunch lid d e).launch? m = if m = lid then some (launchFor j d e) else j.launch? m := by
  rw [addLaunch_eq]
  refine (launch?_put (j.openGraph (field (d.getD 0 0) 44 8)) lid m (launchFor j d e)).trans ?_
  rw [openGraph_launch?]

theorem graph?_addLaunch (j : Job) (lid : Nat) (d : List Word) (e : Option (Nat × DqEnt)) :
    (j.addLaunch lid d e).graph? (field (d.getD 0 0) 44 8) =
      some { graphFor j d with ctr := { (graphFor j d).ctr with count := (graphFor j d).ctr.count + 1 } } := by
  rw [addLaunch_eq, graph?_put, if_pos rfl]

/-- 12 R258: the job after a launch has been added is as `Launched` says. -/
theorem launched_addLaunch (j : Job) (lid : Nat) (d : List Word) (e : Option (Nat × DqEnt)) :
    Launched j (j.addLaunch lid d e) lid d e := by
  refine ⟨⟨launchFor j d e, ?_, rfl, rfl, rfl, fun n => ?_⟩, fun m hm => ?_, fun x hx => ?_,
    fun hn => ⟨?_, fun p hp => ?_⟩⟩
  · rw [launch?_addLaunch, if_pos rfl]
  · rw [launchFor, openGraph_waitsFor, mem_waitsFor]
  · rw [launch?_addLaunch, if_neg hm]
  · rw [graph?_addLaunch, graphFor, hx, Option.getD_some]
  · rw [graph?_addLaunch, graphFor, hn]
    rfl
  · rw [addLaunch_eq]
    exact openGraph_phase? hn hp

end Sys2Proof.Scheduling
end

section
/-!
PROOF. Launches, continued (12 R258): the branches of LAUNCH, and the launch that it makes.
-/

open Sys2Proof Sys2Proof.Machine Sys2Proof.Claims

namespace Sys2Proof.Scheduling

/-! The instruction. -/

theorem launchOk_iff (d : List Word) :
    launchOk d = true ↔ field (d.getD 0 0) 61 3 = 0 ∧ field (d.getD 2 0) 52 12 = 0 := by
  simp [launchOk, bits_eq_field]

theorem freeLid_eq_some {j : Job} {lid : Nat} :
    j.freeLid = some lid ↔ j.launch? lid = none ∧ lid < 4096 ∧ ∀ n < lid, j.launch? n ≠ none := by
  simp [Job.freeLid, lowest_eq_some, Option.isSome_iff_ne_none]

theorem freeLid_eq_none {j : Job} : j.freeLid = none ↔ ∀ n < 4096, j.launch? n ≠ none := by
  simp [Job.freeLid, lowest_eq_none, Option.isSome_iff_ne_none]

theorem fenceMark_eq_fencesOf (s : State) : s.fenceMark = fencesOf s := rfl

/-- The launch entry of a descriptor is the one that 12 R258 lists. -/
theorem launchEntry_eq_entryOf (s : State) {frm lid : Nat} (d : List Word) (hf : frm < 512) (hl : lid < 4096) :
    launchEntry s.me.job frm lid d s.fenceMark = entryOf s frm lid d := by
  have hidx := field_lt (d.getD 0 0) 32 12
  have dst := field_lt (d.getD 0 0) 52 9
  have hdr : mkHdr s.me.job frm (field (d.getD 0 0) 52 9) 0 true 7 lid (field (d.getD 0 0) 32 12) =
      BitVec.ofNat 64 (field (d.getD 0 0) 32 12 + 2 ^ 12 * lid + 2 ^ 24 * 7 + 2 ^ 27 + 2 ^ 30 * field (d.getD 0 0) 52 9 +
        2 ^ 39 * frm + 2 ^ 48 * s.me.job.toNat) := by
    rw [mkHdr, word, Nat.mod_eq_of_lt (b := 4096) hidx, Nat.mod_eq_of_lt hl, Nat.mod_eq_of_lt (b := 512) dst,
      Nat.mod_eq_of_lt hf]
    simp only [ofB, if_true, Nat.mul_one, Nat.zero_mod, Nat.mul_zero, Nat.add_zero, Nat.reduceMod]
  rw [launchEntry, entryOf, fenceMark_eq_fencesOf]
  simp only [bits_eq_field, hdr]

/-- A change of the issuing strand changes its core's table of strands. -/
theorem mine_modMe (s : State) (f : Strand → Strand) : (s.modMe f).mine = s.mine.setStrand s.cur.slot (f s.me) :=
  State.core_modStrand_same ..

/-- A FENCE.REL that is done changes its strand's mark, and the lines that it has merged. -/
theorem relDone_eq (s : State) :
    s.relDone.me = { s.me with rel := none } ∧ s.relDone.cur = s.cur ∧ s.relDone.jobs = s.jobs ∧ s.relDone.mem = s.mem ∧
      s.relDone.mine.deque = s.mine.deque := by
  unfold State.relDone
  split
  · next sc h =>
    have merged : ∃ p, s.released sc = { s with priv := p } := by
      unfold State.released
      split <;> exact ⟨_, rfl⟩
    obtain ⟨p, hp⟩ := merged
    rw [hp, mine_modMe, State.me_modMe]
    exact ⟨rfl, rfl, rfl, rfl, rfl⟩
  · next h => exact ⟨by rw [← h], rfl, rfl, rfl, rfl⟩

theorem relDone_job? (s : State) (j : BitVec 16) : s.relDone.job? j = s.job? j := by
  rw [State.job?, (relDone_eq s).2.2.1, State.job?]

theorem exec_launch_of_misaligned {a b : GReg} {l : La} {s : State} (h : (s.rg b).toNat % 8 ≠ 0) :
    exec (.launch a b l) s = .next (s.trap Cause.align (s.rg b)) := by
  show execLaunch a b l s = _
  simp only [execLaunch, ne_eq, h, not_false_eq_true, if_true]

section Executed

variable {a b : GReg} {l : La} {s s1 : State} {d : List Word} {j : Job}
  (aligned : (s.rg b).toNat % 8 = 0) (read : s.words (s.rg b) 8 = .ok (s1, d))
include aligned read

theorem exec_launch_of_reserved (h : launchOk d = false) :
    exec (.launch a b l) s = .next (s1.trap Cause.badLnch (s.rg b)) := by
  show execLaunch a b l s = _
  simp only [execLaunch, aligned, read, h,
    ne_eq, not_true_eq_false, if_true, if_false, Bool.not_false]

variable (ok : launchOk d = true)
include ok

theorem exec_launch_of_outside (h : s1.inHoods s1.me.job (field (d.getD 0 0) 52 9) = false) :
    exec (.launch a b l) s = .next (s1.trap Cause.hoodRef (s.rg b)) := by
  show execLaunch a b l s = _
  simp only [execLaunch, aligned, read, ok, bits_eq_field, h,
    ne_eq, not_true_eq_false, if_true, if_false, Bool.not_true, Bool.not_false, Bool.false_eq_true]

variable (hood : s1.inHoods s1.me.job (field (d.getD 0 0) 52 9) = true)
include hood

theorem exec_launch_of_held (h : s1.relStill = true) : exec (.launch a b l) s = .next s1.block := by
  show execLaunch a b l s = _
  simp only [execLaunch, aligned, read, ok, bits_eq_field, hood, h,
    ne_eq, not_true_eq_false, if_true, if_false, Bool.not_true, Bool.false_eq_true]

variable (goes : s1.relStill = false) (job : s1.job? s1.me.job = some j)
include goes job

theorem exec_launch_of_full (h : j.freeLid = none) : exec (.launch a b l) s = .next s1.block := by
  show execLaunch a b l s = _
  simp only [execLaunch, aligned, read, ok, bits_eq_field, hood, goes, job, h,
    ne_eq, not_true_eq_false, if_false, Bool.not_true, Bool.false_eq_true, Option.bind_some]

theorem exec_launch_of_made {lid : Nat} {t : State} (free : j.freeLid = some lid)
    (made : s1.relDone.makeLaunch s1.me.job (some s1.cur.core) lid d s1.fenceMark = some t) :
    exec (.launch a b l) s = .next (t.writeLate a (BitVec.ofNat 64 lid) l) := by
  show execLaunch a b l s = _
  simp only [execLaunch, aligned, read, ok, bits_eq_field, hood, goes, job, free, made, word,
    ne_eq, not_true_eq_false, if_false, Bool.not_true, Bool.false_eq_true, Option.bind_some]

end Executed

/-! The launch that is made. -/

section Made

variable {s : State} {jb : BitVec 16} {c : Nat} {j : Job} {lid : Nat} {d : List Word} (mark : Rec)
  (job : s.job? jb = some j)
include job

/-- A launch on the own core that waits for nothing enters the own deque. -/
theorem makeLaunch_here (count : field (d.getD 0 0) 0 32 ≠ 0) (here : field (d.getD 0 0) 52 9 = c)
    (now : ∀ n, ¬Awaited j d n) (room : (s.core c).deque.length < 256) :
    s.makeLaunch jb (some c) lid d mark =
      some ((s.modJob jb fun j => j.addLaunch lid d none).modCore c fun k =>
        { k with deque := k.deque ++ [launchEntry jb c lid d mark] }) := by
  have nowait := (waitsFor_eq_nil j d).mpr now
  have deque : (s.modJob jb fun j => j.addLaunch lid d none).core c = s.core c := by
    rw [State.core, modJob_cores]
    rfl
  simp only [State.makeLaunch, bits_eq_field, count, here, job, nowait, State.pushEnt, deque, room, if_true, if_false,
    Option.getD_some, Option.all_some, decide_true, Bool.and_true]

/-- A launch for another core, or one that waits, holds its entry. -/
theorem makeLaunch_held (count : field (d.getD 0 0) 0 32 ≠ 0)
    (waits : field (d.getD 0 0) 52 9 ≠ c ∨ ∃ n, Awaited j d n) :
    s.makeLaunch jb (some c) lid d mark =
      some (s.modJob jb fun j => j.addLaunch lid d (some (field (d.getD 0 0) 52 9, launchEntry jb c lid d mark))) := by
  have later : ¬(c = field (d.getD 0 0) 52 9 ∧ j.waitsFor (field (d.getD 0 0) 44 8) (d.getD 2 0) = []) := by
    rw [waitsFor_eq_nil]
    rintro ⟨here, now⟩
    exact waits.elim (fun h => h here.symm) fun ⟨n, hn⟩ => now n hn
  simp only [State.makeLaunch, bits_eq_field, count, job, if_false, Option.getD_some, Option.all_some, Option.some.injEq,
    Bool.and_eq_true, decide_eq_true_eq]
  exact if_neg fun ⟨here, now⟩ => later ⟨here, of_decide_eq_true now⟩

end Made

end Sys2Proof.Scheduling
end

section
/-!
PROOF. Launches, continued (12 R258, 02 R38): what LAUNCH leaves, and a launch of no records.
-/

open Sys2Proof Sys2Proof.Machine Sys2Proof.Claims

namespace Sys2Proof.Scheduling

/-! What LAUNCH leaves. -/

/-- A change of a core's deque leaves the issuing strand as it is. -/
theorem me_modCore_deque (s : State) (c : Nat) (f : Core → List DqEnt) :
    (s.modCore c fun k => { k with deque := f k }).me = s.me := by
  show ((s.modCore c fun k => { k with deque := f k }).core s.cur.core).strand s.cur.slot = _
  by_cases h : s.cur.core = c
  · rw [h, State.core_modCore_same, ← h]
    rfl
  · rw [State.core_modCore_ne _ _ h]
    rfl

theorem job?_addLaunch {s : State} {jb : BitVec 16} {j : Job} (job : s.job? jb = some j) (lid : Nat) (d : List Word)
    (e : Option (Nat × DqEnt)) : (s.modJob jb fun j => j.addLaunch lid d e).job? jb = some (j.addLaunch lid d e) := by
  rw [job?_modJob, if_pos rfl, job, Option.map_some]

section Left

variable {s : State} {j : Job} {lid : Nat} {d : List Word} (job : s.job? s.me.job = some j) (number : lid < 4096)
  (home : s.cur.core < 512)
include job number home

theorem makeLaunch_relDone_here (count : field (d.getD 0 0) 0 32 ≠ 0) (here : field (d.getD 0 0) 52 9 = s.cur.core)
    (now : ∀ n, ¬Awaited j d n) (room : s.mine.deque.length < 256) :
    ∃ (t : State) (j' : Job), s.relDone.makeLaunch s.me.job (some s.cur.core) lid d s.fenceMark = some t ∧
      t.me = { s.me with rel := none } ∧ t.job? s.me.job = some j' ∧ Launched j j' lid d none ∧ t.mem = s.mem ∧
      t.mine.deque = s.mine.deque ++ [entryOf s s.cur.core lid d] := by
  obtain ⟨me, cur, -, mem, deque⟩ := relDone_eq s
  have live : s.relDone.job? s.me.job = some j := (relDone_job? ..).trans job
  have own : (s.relDone.core s.cur.core).deque = s.mine.deque := by rw [← deque, ← cur]; rfl
  refine ⟨_, _, makeLaunch_here s.fenceMark live count here now (by rw [own]; exact room),
    ?_, job?_addLaunch live lid d none, launched_addLaunch j lid d none, ?_, ?_⟩
  · rw [me_modCore_deque, me_modJob, me]
  · exact (Silent.modJob ..).mem.trans mem
  · rw [State.mine, show ∀ k f, (State.modCore _ k f).cur.core = s.cur.core from fun _ _ => by
      rw [← cur]; exact congrArg (·.cur.core) (modJob_eq ..), State.core_modCore_same, core_modJob,
      launchEntry_eq_entryOf s d home number, own]

theorem makeLaunch_relDone_held (count : field (d.getD 0 0) 0 32 ≠ 0)
    (waits : field (d.getD 0 0) 52 9 ≠ s.cur.core ∨ ∃ n, Awaited j d n) :
    ∃ (t : State) (j' : Job), s.relDone.makeLaunch s.me.job (some s.cur.core) lid d s.fenceMark = some t ∧
      t.me = { s.me with rel := none } ∧ t.job? s.me.job = some j' ∧ t.cores = s.relDone.cores ∧ t.mem = s.mem ∧
      Launched j j' lid d (some (field (d.getD 0 0) 52 9, entryOf s s.cur.core lid d)) := by
  obtain ⟨me, -, -, mem, -⟩ := relDone_eq s
  have live : s.relDone.job? s.me.job = some j := (relDone_job? ..).trans job
  rw [← launchEntry_eq_entryOf s d home number]
  refine ⟨_, _, makeLaunch_held s.fenceMark live count waits, (me_modJob ..).trans me, job?_addLaunch live lid d _,
    modJob_cores .., (Silent.modJob ..).mem.trans mem, launched_addLaunch j lid d _⟩

end Left

/-! A launch of no records completes at once. -/

theorem job?_wakeJoins (s : State) (job : BitVec 16) (lv : Level) (n : Nat) (w : Word) (j : BitVec 16) :
    (s.wakeJoins job lv n w).job? j = s.job? j := rfl

theorem job?_lapseArms (s : State) (job : BitVec 16) (lid : Nat) (j : BitVec 16) :
    (s.lapseArms job lid).job? j = s.job? j := rfl

/-- A decrement that is not a graph's last changes its counter and nothing else. -/
theorem graphDec_more {s : State} {job : BitVec 16} {g : Nat} {err : Bool} {j : Job} {x : Graph}
    (hj : s.job? job = some j) (hx : j.graph? g = some x) (incomplete : x.ctr.done = false) (more : 2 ≤ x.ctr.count) :
    s.graphDec job g err = s.modJob job fun j => { j with
      graphs := j.graphs.put g { x with ctr := { x.ctr with count := x.ctr.count - 1, err := x.ctr.err || err } } } := by
  have left : ¬x.ctr.count - 1 = 0 := by omega
  simp only [State.graphDec, hj, Option.bind_some, hx, Counter.dec, incomplete, left, decide_false, Bool.or_false,
    Bool.false_eq_true, if_false]

/-- The job with a launch DONE, for which no launch waits any more. -/
def launchDone (j : Job) (lid : Nat) (l : Launch) (err : Bool) : Job :=
  let done : Launch := { l with ctr := { l.ctr with count := 0, err := l.ctr.err || err, done := true } }
  { j with launches := (j.launches.put lid done).map fun x => (x.1, { x.2 with waits := x.2.waits.filter (· ≠ lid) }) }

theorem launchDone_launch? (j : Job) (lid : Nat) (l : Launch) (err : Bool) :
    (launchDone j lid l err).launch? lid = some { l with
      ctr := { l.ctr with count := 0, err := l.ctr.err || err, done := true }, waits := l.waits.filter (· ≠ lid) } := by
  rw [launchDone, Job.launch?, find_map fun l : Launch => { l with waits := l.waits.filter (· ≠ lid) }, find_put,
    if_pos rfl]
  rfl

/-- 02 R38: the last decrement of a launch makes it DONE, and its graph, which has another member, counts one less. -/
theorem launchDec_last {s : State} {job : BitVec 16} {lid n : Nat} {err : Bool} {j : Job} {l : Launch} {x : Graph}
    (hj : s.job? job = some j) (hl : j.launch? lid = some l) (undone : l.ctr.done = false) (last : l.ctr.count = n)
    (hx : j.graph? l.graph = some x) (incomplete : x.ctr.done = false) (more : 2 ≤ x.ctr.count) :
    (s.launchDec job lid n err).counter? job .launch lid =
        some { l.ctr with count := 0, err := l.ctr.err || err, done := true } ∧
      (s.launchDec job lid n err).counter? job .graph l.graph =
        some { x.ctr with count := x.ctr.count - 1, err := x.ctr.err || (l.ctr.err || err) } := by
  simp only [State.launchDec, hj, Option.bind_some, hl, undone, Bool.false_eq_true, if_false, last, Nat.sub_self,
    decide_true, if_true]
  generalize hs : State.wakeJoins _ job .launch lid _ = s1
  have hj1 : s1.job? job = some (launchDone j lid l err) := by
    rw [← hs, job?_wakeJoins, job?_lapseArms, job?_modJob, if_pos rfl, job?_modJob, if_pos rfl, hj]
    rfl
  have hx1 : (launchDone j lid l err).graph? l.graph = some x := hx
  rw [graphDec_more hj1 hx1 incomplete more, State.counter?, State.counter?, job?_modJob, if_pos rfl, hj1]
  refine ⟨congrArg (Option.map Launch.ctr) (launchDone_launch? j lid l err), ?_⟩
  exact congrArg (Option.map Machine.Graph.ctr) ((graph?_put ..).trans (if_pos rfl))

/-- A launch of no records, made into a graph with another member. -/
theorem makeLaunch_empty {s : State} {jb : BitVec 16} {own : Option Nat} {j : Job} {lid : Nat} {d : List Word} (mark : Rec)
    {x : Graph} (hj : s.job? jb = some j) (count : field (d.getD 0 0) 0 32 = 0)
    (hx : j.graph? (field (d.getD 0 0) 44 8) = some x) (incomplete : x.ctr.done = false) (more : 1 ≤ x.ctr.count) :
    ∃ t : State, s.makeLaunch jb own lid d mark = some t ∧ t.mem = s.mem ∧
      t.counter? jb .launch lid = some ⟨0, true, false, false⟩ ∧
      t.counter? jb .graph (field (d.getD 0 0) 44 8) = some x.ctr := by
  have made : s.makeLaunch jb own lid d mark =
      some ((s.modJob jb fun j => j.addLaunch lid d none).launchDec jb lid 0 false) := by
    simp only [State.makeLaunch, bits_eq_field, count, if_true]
  have counts : (j.addLaunch lid d none).graph? (field (d.getD 0 0) 44 8) =
      some { x with ctr := { x.ctr with count := x.ctr.count + 1 } } := by
    rw [graph?_addLaunch, graphFor, hx, Option.getD_some]
  have live : (j.addLaunch lid d none).launch? lid = some (launchFor j d none) := by rw [launch?_addLaunch, if_pos rfl]
  obtain ⟨launch, graph⟩ := launchDec_last (n := 0) (err := false) (job?_addLaunch hj lid d none) live rfl count counts
    incomplete (by show 2 ≤ x.ctr.count + 1; omega)
  refine ⟨_, made, ?_, launch, graph.trans ?_⟩
  · exact (Silent.launchDec ..).mem.trans (Silent.modJob ..).mem
  · simp [launchFor, Counter.start]

end Sys2Proof.Scheduling
end

section
/-!
PROOF. Launches, concluded (03 R52): a held entry that is placed, and the obligation.
-/

open Sys2Proof Sys2Proof.Machine Sys2Proof.Claims

namespace Sys2Proof.Scheduling

theorem dropEntry_eq (s : State) (job : BitVec 16) (lid : Nat) :
    s.dropEntry job lid = { s with jobs := (s.dropEntry job lid).jobs } := modJob_eq ..

theorem dropEntry_job? {s : State} {job : BitVec 16} {lid : Nat} {j : Job} {l : Launch} (hj : s.job? job = some j)
    (hl : j.launch? lid = some l) :
    (s.dropEntry job lid).job? job = some { j with launches := j.launches.put lid { l with entry := none } } := by
  rw [State.dropEntry, job?_modJob, if_pos rfl, hj, Option.map_some, hl]

/-- A held entry that goes leaves every launch's counter as it is. -/
theorem dropEntry_counter? {s : State} {job : BitVec 16} {lid : Nat} {j : Job} {l : Launch} (hj : s.job? job = some j)
    (hl : j.launch? lid = some l) (jb : BitVec 16) (n : Nat) :
    (s.dropEntry job lid).counter? jb .launch n = s.counter? jb .launch n := by
  by_cases h : jb = job
  · subst h
    rw [State.counter?, State.counter?, dropEntry_job? hj hl, hj, Option.bind_some, Option.bind_some, Job.counter?,
      Job.counter?, launch?_put]
    by_cases e : n = lid
    · rw [if_pos e, e, hl]
      rfl
    · rw [if_neg e]
  · rw [State.counter?, State.dropEntry, job?_modJob, if_neg h, State.counter?]

/-- 03 R52: a held entry of a launch that waits for nothing is placed, once no pop of the core's own waits. -/
theorem exec_launchEntryPlacement {job : BitVec 16} {lid c : Nat} {s : State} {j : Job} {l : Launch} {e : DqEnt}
    (hj : s.job? job = some j) (hl : j.launch? lid = some l) (entry : l.entry = some (c, e)) :
    exec (.launchEntryPlacement job lid) s =
      .next (if l.waits ≠ [] ∨ s.routerHeld c = true ∨ s.popWaits (s.reach c) = true then s
        else (s.dropEntry job lid).remotePush c e) := by
  show execLaunchEntryPlacement job lid s = _
  simp only [execLaunchEntryPlacement, hj, Option.bind_some, hl, entry]

/-- The entry that is placed enters the deque at the owner end. -/
theorem dropEntry_remotePush {job : BitVec 16} {lid c : Nat} {s : State} {j : Job} {l : Launch} {e : DqEnt}
    (hj : s.job? job = some j) (hl : j.launch? lid = some l) (here : (s.core c).fwd = none) (shut : s.shut c = false)
    (own : BitVec.ofNat 16 (field (entryHdr e) 48 16) = s.coreJob c)
    (live : ∀ x, s.counter? (s.coreJob c) .launch (field (entryHdr e) 12 12) = some x → x.canc = false)
    (room : (s.core c).deque.length < 256) :
    (s.dropEntry job lid).remotePush c e =
      (s.dropEntry job lid).modCore c fun k => { k with deque := k.deque ++ [e] } := by
  have core : (s.dropEntry job lid).core c = s.core c := core_modJob ..
  rw [entryHdr_eq_hdr] at own live
  have own' : hdrJob e.hdr = s.coreJob c := own
  refine remotePush_of_room (by rw [core, here]) ?_ ?_ ?_ (by rw [core]; exact room)
  · rw [dropEntry_eq]; exact shut
  · rw [own', dropEntry_eq]; rfl
  · refine cancelled_eq_false fun x hx => live x ?_
    rwa [dropEntry_counter? hj hl, own'] at hx

/-- Settles O40, by the checks of LAUNCH in their order, what `makeLaunch` leaves in each case, and the placement. -/
theorem launches : Obligations.Launches := by
  unfold Obligations.Launches
  refine ⟨fun a b l s s1 d j => ⟨fun misaligned => ?_, fun aligned read job home =>
    ⟨fun reserved => ?_, fun kind zero => ?_⟩⟩,
    fun job lid c s j l e hj hl entry => ⟨fun waits => ?_, fun now calm here shut own live room free => ?_⟩⟩
  · exact exec_launch_of_misaligned misaligned
  · exact exec_launch_of_reserved aligned read
      (by rw [← Bool.not_eq_true, launchOk_iff, not_and_or]; exact reserved)
  · have ok := (launchOk_iff d).mpr ⟨kind, zero⟩
    refine ⟨fun outside => ?_, fun hood held => ?_, fun hood goes => ⟨fun full => ?_, fun lid number free least count =>
      ⟨fun here now room => ?_, fun waits => ?_⟩, fun lid number x free least count graph incomplete more => ?_⟩⟩
    · exact exec_launch_of_outside aligned read ok outside
    · exact exec_launch_of_held aligned read ok hood held
    · exact exec_launch_of_full aligned read ok hood goes job (freeLid_eq_none.mpr full)
    · obtain ⟨t, j', made, left⟩ := makeLaunch_relDone_here job number home count here now room
      exact ⟨t, j', exec_launch_of_made aligned read ok hood goes job
        (freeLid_eq_some.mpr ⟨free, number, least⟩) made, left⟩
    · obtain ⟨t, j', made, left⟩ := makeLaunch_relDone_held job number home count waits
      exact ⟨t, j', exec_launch_of_made aligned read ok hood goes job
        (freeLid_eq_some.mpr ⟨free, number, least⟩) made, left⟩
    · obtain ⟨t, made, mem, left⟩ := makeLaunch_empty (own := some s1.cur.core) s1.fenceMark ((relDone_job? ..).trans job)
        count graph incomplete more
      exact ⟨t, exec_launch_of_made aligned read ok hood goes job
        (freeLid_eq_some.mpr ⟨free, number, least⟩) made, mem.trans (relDone_eq s1).2.2.2.1, left⟩
  · rw [exec_launchEntryPlacement hj hl entry, if_pos (.inl waits)]
  · have goes : ¬(l.waits ≠ [] ∨ s.routerHeld c = true ∨ s.popWaits (s.reach c) = true) := by
      rw [routerHeld_of_calm calm, reach_of_here here, popWaits_eq_false free]
      simp [now]
    refine ⟨_, (exec_launchEntryPlacement hj hl entry).trans
        (congrArg _ ((if_neg goes).trans (dropEntry_remotePush hj hl here shut own live room))), ?_,
      _, dropEntry_job? hj hl, (launch?_put ..).trans (if_pos rfl), (Silent.modJob ..).mem⟩
    rw [State.core_modCore_same, State.dropEntry, core_modJob]

end Sys2Proof.Scheduling
end

section
/-!
PROOF. Thieves and arbiters (03 R52 to R55).
-/

open Sys2Proof Sys2Proof.Machine Sys2Proof.Claims

namespace Sys2Proof.Scheduling

/-! The next of an ascending list. -/

theorem find?_ascending {l : List Nat} (asc : l.Pairwise (· < ·)) {p : Nat → Bool} {v : Nat} (mem : v ∈ l) (hp : p v = true)
    (least : ∀ w ∈ l, p w = true → v ≤ w) : l.find? p = some v := by
  induction l with
  | nil => cases mem
  | cons w l ih =>
    obtain ⟨above, asc⟩ := List.pairwise_cons.mp asc
    by_cases hw : p w = true
    · have le := least w List.mem_cons_self hw
      rcases List.mem_cons.mp mem with rfl | mem
      · exact List.find?_cons_of_pos hw
      · have := above v mem
        omega
    · rw [List.find?_cons_of_neg hw]
      rcases List.mem_cons.mp mem with rfl | mem
      · exact absurd hp hw
      · exact ih asc mem fun x hx => least x (List.mem_cons_of_mem _ hx)

theorem head?_ascending {l : List Nat} (asc : l.Pairwise (· < ·)) {v : Nat} (mem : v ∈ l) (least : ∀ w ∈ l, v ≤ w) :
    l.head? = some v := by
  have found := find?_ascending asc (p := fun _ => true) mem rfl fun w hw _ => least w hw
  cases l with
  | nil => cases mem
  | cons w l => exact found

theorem nextAfter_of_nextOf {l : List Nat} (asc : l.Pairwise (· < ·)) {x v : Nat} (h : NextOf l x v) :
    nextAfter l (some x) = some v := by
  obtain ⟨mem, ⟨above, least⟩ | ⟨none, least⟩⟩ := h
  · rw [nextAfter, find?_ascending asc mem (decide_eq_true above) fun w hw hx => least w hw (of_decide_eq_true hx),
      Option.some_or]
  · have nothing : l.find? (fun c => decide (x < c)) = Option.none :=
      List.find?_eq_none.mpr fun w hw => by simpa using none w hw
    rw [nextAfter, nothing, Option.none_or, head?_ascending asc mem least]

theorem range_filter_ascending (n : Nat) (p : Nat → Bool) : ((List.range n).filter p).Pairwise (· < ·) :=
  List.pairwise_lt_range.filter _

/-! The cores that a thief asks. -/

theorem mates_ascending (s : State) (c : Nat) : (mates s c).Pairwise (· < ·) := by
  rw [mates]
  exact range_filter_ascending ..

theorem coresOn_ascending (s : State) (c d : Nat) : (coresOn s c d).Pairwise (· < ·) := by
  rw [coresOn]
  exact range_filter_ascending ..

theorem dies_ascending (s : State) (c : Nat) : (dies s c).Pairwise (· < ·) := by
  rw [dies]
  exact range_filter_ascending ..

theorem dieMates_eq_mates (s : State) (c : Nat) : s.dieMates c = mates s c := by
  rw [State.dieMates, State.jobCores, List.filter_filter, mates]
  refine List.filter_congr fun x _ => ?_
  rw [Bool.eq_iff_iff]
  simp only [towerOf, Bool.and_eq_true, decide_eq_true_eq]
  exact ⟨fun ⟨⟨die, other⟩, hood⟩ => ⟨⟨hood, of_decide_eq_true die⟩, other⟩,
    fun ⟨⟨hood, die⟩, other⟩ => ⟨⟨decide_eq_true die, other⟩, hood⟩⟩

theorem coresOn_eq (s : State) (c d : Nat) :
    ((s.jobCores (s.coreJob c)).filter fun x => towerOf x = d) = coresOn s c d := by
  rw [State.jobCores, List.filter_filter, coresOn]
  exact List.filter_congr fun x _ => Bool.and_comm ..

theorem otherDies_eq_dies (s : State) (c : Nat) : s.otherDies c = dies s c := by
  refine List.filter_congr fun d _ => congrArg _ ?_
  rw [← coresOn_eq, Bool.eq_iff_iff, decide_eq_true_iff, ne_eq, List.filter_eq_nil_iff, List.any_eq_true]
  simp only [not_forall, exists_prop, not_not]

theorem mates_ne {s : State} {c v : Nat} (h : v ∈ mates s c) : v ≠ c := by
  simp only [mates, List.mem_filter, Bool.and_eq_true, decide_eq_true_eq] at h
  exact h.2.2

/-! Who steals. -/

theorem hungry_eq_true {s : State} {c n : Nat} (h : Hungry s c n) : s.hungry c = true := by
  have slot := freeSlot_of_hungry h
  obtain ⟨opens, hood, -, deque, spill⟩ := h
  simp [State.hungry, opens, Option.isSome_iff_ne_none.mpr hood, slot, deque, spill]

theorem ringReady_of_noStage {s : State} {c : Nat} (h : NoStage s c) : s.ringReady c = none := by
  obtain ⟨wvmove, stageasn⟩ := h
  have idle : (s.core c).stage = none := by
    rw [Core.stage, wvmove]
    exact if_neg (by rw [bit_eq_getLsbD, stageasn]; exact Bool.false_ne_true)
  rw [State.ringReady, idle]

theorem thief_eq_true {s : State} {c n : Nat} (hungry : Hungry s c n) (stage : NoStage s c)
    (out : (s.core c).thief.out = none) (backoff : (s.core c).thief.backoff = none) : s.thief c = true := by
  simp only [State.thief, hungry_eq_true hungry, out, backoff, ringReady_of_noStage stage, Option.isNone_none, Bool.and_self]

/-! Asking. -/

/-- A thief that asks another core. -/
theorem asked_ask {s : State} {c v : Nat} (t : Thief) (remote : Bool) (h : v ≠ c) :
    (((s.setThief c t).ask c v remote).core c).thief = t ∧
      (((s.setThief c t).ask c v remote).core v).asked = (s.core v).asked ++ [(c, s.coreJob c, remote)] := by
  constructor
  · rw [State.ask, State.core_modCore_ne _ _ (Ne.symm h), State.setThief, State.core_modCore_same]
  · rw [State.ask, State.core_modCore_same, State.setThief, State.core_modCore_ne _ _ h]
    rfl

section Thief

variable {s : State} {c : Nat}

theorem exec_steal (steals : s.thief c = true) (tried : (s.core c).thief.tried < (mates s c).length) {x v : Nat}
    (last : (s.core c).thief.last = some x) (next : NextOf (mates s c) x v) : exec (.steal c) s = .next ((s.setThief c
      { (s.core c).thief with last := some v, out := some (v, false), tried := (s.core c).thief.tried + 1 }).ask c v false) := by
  have goes : ¬((!s.thief c) = true ∨ (mates s c).length ≤ (s.core c).thief.tried) := by
    rw [steals]
    simpa using tried
  have victim : nextAfter (mates s c) (((s.core c).thief.last).or (some (Config.firstVictim c))) = some v := by
    rw [last, Option.some_or, nextAfter_of_nextOf (mates_ascending s c) next]
  show execSteal c s = _
  rw [execSteal, dieMates_eq_mates, if_neg goes, victim]

/-- After a full round a thief asks no core of its die. -/
theorem exec_steal_of_round (round : (mates s c).length ≤ (s.core c).thief.tried) : exec (.steal c) s = .next s := by
  show execSteal c s = _
  rw [execSteal, dieMates_eq_mates, if_pos (.inr round)]

theorem remoteSteal_goes (steals : s.thief c = true) (round : (mates s c).length ≤ (s.core c).thief.tried) :
    ¬((!s.thief c) = true ∨ (s.core c).thief.tried < (s.dieMates c).length) := by
  rw [steals, dieMates_eq_mates]
  simpa using round

theorem exec_remoteSteal (steals : s.thief c = true) (round : (mates s c).length ≤ (s.core c).thief.tried) {d e v : Nat}
    (last : (s.core c).thief.lastDie = some e) (next : NextOf (dies s c) e d) (first : (s.core c).thief.lastOn = [])
    (mem : v ∈ coresOn s c d) (least : ∀ y ∈ coresOn s c d, v ≤ y) : exec (.remoteSteal c) s = .next ((s.setThief c
      { (s.core c).thief with out := some (v, true), lastDie := some d, lastOn := [(d, v)] }).ask c v true) := by
  have die : nextAfter (s.otherDies c) (s.core c).thief.lastDie = some d := by
    rw [last, otherDies_eq_dies, nextAfter_of_nextOf (dies_ascending s c) next]
  have victim : nextAfter (coresOn s c d) none = some v :=
    head?_ascending (coresOn_ascending s c d) mem least
  show execRemoteSteal c s = _
  rw [execRemoteSteal, if_neg (remoteSteal_goes steals round), die]
  simp only [coresOn_eq, first, List.find?_nil, Option.map_none, victim]
  rfl

/-- Where no other die has a core of the job the thief waits. -/
theorem exec_remoteSteal_of_alone (steals : s.thief c = true) (round : (mates s c).length ≤ (s.core c).thief.tried)
    (alone : dies s c = []) :
    exec (.remoteSteal c) s = .next (s.setThief c { (s.core c).thief with tried := 0, backoff := some 256 }) := by
  have none : nextAfter (s.otherDies c) (s.core c).thief.lastDie = Option.none := by
    rw [otherDies_eq_dies, alone]
    cases (s.core c).thief.lastDie <;> rfl
  show execRemoteSteal c s = _
  rw [execRemoteSteal, if_neg (remoteSteal_goes steals round), none]
  rfl

end Thief

/-! Arbiters. -/

section Arbiter

variable {s : State} {c v : Nat} {job : BitVec 16} {remote : Bool} (asked : (s.core v).asked = [(c, job, remote)])

theorem popWaits_iff : s.popWaits v = true ↔ PopWaits s v := by
  rw [popWaits_eq_true, PopWaits]
  refine and_congr_right fun _ => and_congr_left fun _ => ⟨fun ⟨n, h⟩ => ?_, fun ⟨n, lt, free⟩ => ?_⟩
  · obtain ⟨free, lt, -⟩ := freeSlot_eq_some.mp h
    exact ⟨n, lt, free⟩
  · cases h : (s.core v).freeSlot with
    | some m => exact ⟨m, rfl⟩
    | none => exact absurd free (freeSlot_eq_none.mp h n lt)

/-- A core whose arbiter has taken its only question. -/
def unasked (k : Core) : Core := { k with asked := [] }

/-- The part once the arbiter of a core has taken its only question. -/
def answering (s : State) (v : Nat) : State := s.modCore v unasked

theorem answering_core (s : State) (v : Nat) : (answering s v).core v = unasked (s.core v) := State.core_modCore_same ..

theorem answering_shut (s : State) (v : Nat) : (answering s v).shut v = s.shut v := by
  rw [State.shut, answering_core]
  rfl

include asked

/-- The own pop goes first (03 R52). -/
theorem exec_stealAnswer_of_pop (pop : PopWaits s v) : exec (.stealAnswer v) s = .next s := by
  show execStealAnswer v s = _
  rw [execStealAnswer, Core.nextAsk, asked]
  exact congrArg _ (if_pos (popWaits_iff.mpr pop))

theorem exec_stealAnswer (free : ¬PopWaits s v) : exec (.stealAnswer v) s = .next (
    if job ≠ s.coreJob v ∨ (answering s v).closed v ∨ s.preempted v then (answering s v).packet job v c .empty
    else match ((answering s v).core v).giveEnd with
      | some (e, k) => ((answering s v).setCore v k).packet job v c (.grant e)
      | none => (answering s v).packet job v c .empty) := by
  have nopop : ¬s.popWaits v = true := fun h => free (popWaits_iff.mp h)
  have taken : (s.modCore v fun k => { k with asked := k.asked.erase (c, job, remote) }) = answering s v := by
    rw [answering, State.modCore, State.modCore, unasked, asked, List.erase_cons_head]
  show execStealAnswer v s = _
  rw [execStealAnswer, Core.nextAsk, asked]
  refine congrArg _ ((if_neg nopop).trans ?_)
  simp only [taken]
  rfl

end Arbiter

end Sys2Proof.Scheduling
end

section
/-!
PROOF. Arbiters (03 R52, R53, R55): what the victim of a steal gives.
-/

open Sys2Proof Sys2Proof.Machine Sys2Proof.Claims

namespace Sys2Proof.Scheduling

theorem ceilDiv_two (n : Nat) : ceilDiv n 2 = (n + 1) / 2 := by
  unfold ceilDiv
  omega

theorem giveEnd_of_empty {k : Core} (deque : k.deque = []) (spill : k.dspill = []) : k.giveEnd = none := by
  rw [Core.giveEnd, spill, deque]
  rfl

theorem giveEnd_of_deque {k : Core} (spill : k.dspill = []) {e : DqEnt} {q : List DqEnt}
    (give : stealEnd k.deque = some (e, q)) : ∃ k', k.giveEnd = some (e, k') ∧ k'.deque = q := by
  rw [Core.giveEnd, spill, give]
  exact ⟨_, rfl, rfl⟩

/-- 03 R53: a launch entry of one index gives that index's record. -/
theorem stealEnd_single (h : Word) (lo k : Nat) (b st : Word) (sh : List Word) (q : List DqEnt) :
    stealEnd (.range h lo (lo + 1) k b st sh :: q) = some (.one ([h, BitVec.ofNat 64 lo, b + BitVec.ofNat 64 lo * st,
      sh.getD 0 0, sh.getD 1 0, sh.getD 2 0, sh.getD 3 0, BitVec.ofNat 64 k] ++ sh.drop 4), q) :=
  if_pos (show lo + 1 - lo < 2 by omega)

/-- 03 R53: a launch entry of more gives its upper part. -/
theorem stealEnd_upper {h : Word} {lo hi k : Nat} {b st : Word} {sh : List Word} {q : List DqEnt} (more : lo + 2 ≤ hi) :
    stealEnd (.range h lo hi k b st sh :: q) = some (.range h (lo + (hi - lo + 1) / 2) hi k b st sh,
      .range h lo (lo + (hi - lo + 1) / 2) k b st sh :: q) := by
  rw [stealEnd, if_neg (show ¬hi - lo < 2 by omega), ceilDiv_two]

section Arbiter

variable {s : State} {c v : Nat} {job : BitVec 16} {remote : Bool} (asked : (s.core v).asked = [(c, job, remote)])
  (free : ¬PopWaits s v)
include asked free

theorem stealAnswer_refuses (h : job ≠ s.coreJob v ∨ s.shut v = true ∨ s.preempted v = true ∨
    ((s.core v).deque = [] ∧ (s.core v).dspill = [])) :
    ∃ t, exec (.stealAnswer v) s = .next t ∧ t.packets = s.packets ++ [⟨s.serial, job, v, c, .empty⟩] ∧
      (t.core v).asked = [] ∧ (t.core v).deque = (s.core v).deque ∧ t.mem = s.mem := by
  refine ⟨_, exec_stealAnswer asked free |>.trans (congrArg _ (?_ : _ = (answering s v).packet job v c .empty)), rfl,
    congrArg Core.asked (answering_core s v), (congrArg Core.deque (answering_core s v) :), rfl⟩
  by_cases no : job ≠ s.coreJob v ∨ (answering s v).closed v = true ∨ s.preempted v = true
  · exact if_pos no
  · have empty : (s.core v).deque = [] ∧ (s.core v).dspill = [] := by
      rcases h with h | h | h | h
      · exact absurd (.inl h) no
      · exact absurd (.inr (.inl (by rw [State.closed, answering_shut, h, Bool.true_or]))) no
      · exact absurd (.inr (.inr h)) no
      · exact h
    refine (if_neg no).trans ?_
    rw [answering_core, giveEnd_of_empty (k := unasked (s.core v)) empty.1 empty.2]

theorem stealAnswer_gives (own : job = s.coreJob v) (shut : s.shut v = false) (here : (s.core v).fwd = none)
    (stays : s.preempted v = false) (spill : (s.core v).dspill = []) {e : DqEnt} {q : List DqEnt}
    (give : stealEnd (s.core v).deque = some (e, q)) :
    ∃ t, exec (.stealAnswer v) s = .next t ∧ (t.core v).deque = q ∧
      t.packets = s.packets ++ [⟨s.serial, job, v, c, .grant e⟩] ∧ t.mem = s.mem := by
  have opens : (answering s v).closed v = false := by
    rw [closed_of_here (by rw [answering_core]; exact here), answering_shut, shut]
  have yes : ¬(job ≠ s.coreJob v ∨ (answering s v).closed v = true ∨ s.preempted v = true) := by
    simp [own, opens, stays]
  obtain ⟨k, gives, deque⟩ := giveEnd_of_deque (k := (answering s v).core v) (by rw [answering_core]; exact spill)
    (by rw [answering_core]; exact give)
  refine ⟨((answering s v).setCore v k).packet job v c (.grant e),
    exec_stealAnswer asked free |>.trans (congrArg _ ((if_neg yes).trans (by rw [gives]))), ?_, rfl, rfl⟩
  exact (congrArg Core.deque (State.core_setCore_same ..)).trans deque

end Arbiter

end Sys2Proof.Scheduling
end

section
/-!
PROOF. Answers that a thief receives (03 R52 to R55), and the obligation.
-/

open Sys2Proof Sys2Proof.Machine Sys2Proof.Claims

namespace Sys2Proof.Scheduling

/-! The thief. -/

theorem answered_answered {t : Thief} {v : Nat} {remote : Bool} (out : t.out = some (v, remote)) (granted : Bool) :
    answered t v remote granted (t.answered granted) := by
  cases remote <;> simp [answered, Thief.answered, out, backoffCycles]

/-- What a thief is after an answer is determined. -/
theorem eq_answered {t u : Thief} {v : Nat} {remote granted : Bool} (h : answered t v remote granted u)
    (die : u.lastDie = t.lastDie) (on : u.lastOn = t.lastOn) : u = t.answered granted := by
  obtain ⟨out, gone, last, far, near⟩ := h
  cases u
  cases remote
  · obtain ⟨backoff, tried⟩ := near rfl
    simp_all [Thief.answered]
  · obtain ⟨tried, backoff⟩ := far rfl
    simp_all [Thief.answered, backoffCycles]

/-- A core whose thief has an answer. -/
def withAnswer (granted : Bool) (k : Core) : Core := { k with thief := k.thief.answered granted }

/-- The part once the only packet on its way has answered the thief of a core. -/
def receiving (s : State) (c : Nat) (granted : Bool) : State :=
  ({ s with packets := [] } : State).modCore c (withAnswer granted)

theorem receiving_core (s : State) (c : Nat) (granted : Bool) :
    (receiving s c granted).core c = withAnswer granted (s.core c) := State.core_modCore_same ..

theorem receiving_strand (s : State) (c n : Nat) (granted : Bool) : (receiving s c granted).strand c n = s.strand c n := by
  rw [State.strand, receiving_core]
  rfl

theorem receiving_shut (s : State) (c : Nat) (granted : Bool) : (receiving s c granted).shut c = s.shut c := by
  rw [State.shut, receiving_core]
  rfl

theorem receiving_fwd (s : State) (c : Nat) (granted : Bool) : ((receiving s c granted).core c).fwd = (s.core c).fwd := by
  rw [receiving_core]
  rfl

section Packet

variable {s : State} {id c v : Nat} {pj : BitVec 16}

/-- The only packet on its way is taken. -/
theorem took_only {p : Packet} (only : s.packets = [p]) : s.took p = { s with packets := [] } := by
  rw [State.took, only]
  simp

theorem inbox_only (calm : s.preempts = []) {p : Packet} (only : s.packets = [p]) (dst : p.dst = c) {f : Flit → Bool}
    (kind : f p.flit = true) : s.inbox c f = some p := by
  simp [State.inbox, routerHeld_of_calm calm, only, dst, kind]

theorem exec_empty (calm : s.preempts = []) (only : s.packets = [⟨id, pj, v, c, .empty⟩]) :
    exec (.empty c) s = .next (receiving s c false) := by
  show execEmpty c s = _
  rw [execEmpty, inbox_only calm only rfl rfl]
  exact congrArg (fun s => Host.Outcome.next (State.modCore s c (withAnswer false))) (took_only only)

theorem exec_grant (calm : s.preempts = []) {e : DqEnt} (only : s.packets = [⟨id, pj, v, c, .grant e⟩]) :
    exec (.grant c) s = .next ((receiving s c true).granted c e) := by
  show execGrant c s = _
  rw [execGrant, inbox_only calm only rfl rfl]
  exact congrArg (fun s => Host.Outcome.next ((State.modCore s c (withAnswer true)).granted c e)) (took_only only)

end Packet

/-! What a grant does. -/

theorem granted_of_foreign {s : State} {c : Nat} {e : DqEnt} (h : hdrJob e.hdr ≠ s.coreJob c) :
    s.granted c e = s.discardEnt e := if_pos h

theorem granted_range {s : State} {c : Nat} {h : Word} (own : hdrJob h = s.coreJob c) (lo hi k : Nat) (b st : Word)
    (sh : List Word) : s.granted c (.range h lo hi k b st sh) = s.remotePush c (.range h lo hi k b st sh) :=
  if_neg (not_not_intro own)

theorem granted_record {s : State} {c n : Nat} {r : Rec} (own : hdrJob (r.getD 0 0) = s.coreJob c) (hungry : Hungry s c n)
    (live : s.cancelled (.one r) = false) : s.granted c (.one r) = s.startRecord c n r := by
  refine (if_neg (not_not_intro own)).trans ?_
  rw [freeSlot_of_hungry hungry]
  exact if_pos (by simp [hungry_eq_true hungry, live])

theorem receiving_hungry {s : State} {c n : Nat} (granted : Bool) (h : Hungry s c n) : Hungry (receiving s c granted) c n := by
  obtain ⟨opens, hood, ⟨lt, free, least⟩, deque, spill⟩ := h
  refine ⟨?_, hood, ⟨lt, ?_, fun m hm => ?_⟩, ?_, ?_⟩
  · rw [State.opens, receiving_shut, receiving_fwd]
    exact opens
  · rw [receiving_strand, free]
  · rw [receiving_strand]
    exact least m hm
  · rw [receiving_core]
    exact deque
  · rw [receiving_core]
    exact spill

theorem silent_discardEnt (s : State) (e : DqEnt) : Silent s (s.discardEnt e) := by
  cases e with
  | one r => exact Silent.sendDec ..
  | range => exact Silent.launchDec ..

/-! The four parts of the obligation. -/

/-- A granted launch entry enters the own deque. -/
theorem grant_range {s : State} {id c v : Nat} {pj : BitVec 16} {remote : Bool} (calm : s.preempts = [])
    (here : (s.core c).fwd = none) (out : (s.core c).thief.out = some (v, remote)) {h : Word} {lo hi k : Nat} {b st : Word}
    {sh : List Word} (only : s.packets = [⟨id, pj, v, c, .grant (.range h lo hi k b st sh)⟩]) (shut : s.shut c = false)
    (welcome : Welcome s c h) (room : (s.core c).deque.length < 256) :
    ∃ t, exec (.grant c) s = .next t ∧ t.packets = [] ∧ t.mem = s.mem ∧
      answered (s.core c).thief v remote true (t.core c).thief ∧
      (t.core c).deque = (s.core c).deque ++ [.range h lo hi k b st sh] := by
  obtain ⟨own, live⟩ := welcome
  have job : hdrJob h = (receiving s c true).coreJob c := own
  have pushed : (receiving s c true).granted c (.range h lo hi k b st sh) =
      (receiving s c true).modCore c fun k' => { k' with deque := k'.deque ++ [.range h lo hi k b st sh] } := by
    refine (granted_range job ..).trans (remotePush_of_room ?_ ?_ job ?_ ?_)
    · rw [receiving_fwd, here]
    · rw [receiving_shut, shut]
    · refine cancelled_eq_false fun x hx => live x ?_
      rw [← own]
      exact hx
    · rw [receiving_core]
      exact room
  refine ⟨_, (exec_grant calm only).trans (congrArg _ pushed), rfl, rfl, ?_, ?_⟩
  · rw [State.core_modCore_same, receiving_core]
    exact answered_answered out true
  · rw [State.core_modCore_same, receiving_core]
    rfl

/-- What is of another job than the core's is discarded. -/
theorem grant_foreign {s : State} {id c v : Nat} {pj : BitVec 16} (calm : s.preempts = []) {e : DqEnt}
    (only : s.packets = [⟨id, pj, v, c, .grant e⟩]) (foreign : BitVec.ofNat 16 (field (entryHdr e) 48 16) ≠ s.coreJob c) :
    ∃ t, exec (.grant c) s = .next t ∧ (t.core c).deque = (s.core c).deque ∧ t.mem = s.mem ∧
      ∀ m, (s.strand c m).st = .free → (t.strand c m).st = .free := by
  rw [entryHdr_eq_hdr] at foreign
  have job : hdrJob e.hdr ≠ (receiving s c true).coreJob c := foreign
  have steady := Steady.discardEnt (receiving s c true) e
  refine ⟨_, (exec_grant calm only).trans (congrArg _ (granted_of_foreign job)), ?_, (silent_discardEnt ..).mem,
    fun m free => steady.free c m ?_⟩
  · rw [steady.deque, receiving_core]
    rfl
  · rw [receiving_strand, free]

/-- A granted record starts in the lowest FREE slot. -/
theorem grant_record {s s0 s1 : State} {id c v n x : Nat} {pj : BitVec 16} {remote : Bool} (calm : s.preempts = []) {r : Rec}
    (only : s.packets = [⟨id, pj, v, c, .grant (.one r)⟩]) (hungry : Hungry s c n)
    (own : BitVec.ofNat 16 (field (r.getD 0 0) 48 16) = s.coreJob c)
    (live : ∀ k, s.counter? (BitVec.ofNat 16 (field (r.getD 0 0) 48 16)) .launch (field (r.getD 0 0) 12 12) = some k →
      k.canc = false)
    (told : ∃ u, answered (s.core c).thief v remote true u ∧ u.lastDie = (s.core c).thief.lastDie ∧
      u.lastOn = (s.core c).thief.lastOn ∧ s0 = ({ s with packets := [] } : State).setCore c { s.core c with thief := u })
    (read : EntryRead s0 c (r.getD 0 0) s1 x) (odd : x % 2 = 1) :
    ∃ t, exec (.grant c) s = .next t ∧ t.packets = s1.packets ∧ (t.core c).deque = (s1.core c).deque ∧
      Started (t.strand c n) r (BitVec.ofNat 64 (x / 4 % 2 ^ 46 * 4)) (s.coreJob c) := by
  obtain ⟨u, told, die, on, rfl⟩ := told
  obtain rfl := eq_answered told die on
  have job : hdrJob (r.getD 0 0) = (receiving s c true).coreJob c := own
  have started := granted_record job (receiving_hungry true hungry) (cancelled_eq_false live)
  obtain ⟨js, k, t, core, start, isStarted⟩ := startRecord_of_read (s := receiving s c true) (r := r) read odd
    (slot_of_hungry hungry)
  refine ⟨_, (exec_grant calm only).trans (congrArg _ (started.trans start)), rfl, ?_, ?_⟩
  · rw [State.core_setCore_same]
    rcases core with rfl | rfl <;> rfl
  · rw [State.strand, State.core_setCore_same, Core.strand_setStrand_same]
    exact isStarted

/-- Settles O51, thief by thief, arbiter by arbiter and answer by answer. -/
theorem stealing : Obligations.Stealing := by
  unfold Obligations.Stealing
  refine ⟨fun c v n x s hungry stage out backoff last => ⟨fun tried next => ?_, fun round => ⟨?_,
    fun d e die next first mem least other => ?_, fun alone => ?_⟩⟩, fun c v job remote s q asked => ⟨fun pop => ?_, fun free refused => ?_,
    fun free own shut here stays spill => ⟨fun r deque => ?_, fun h lo k b st sh deque => ?_,
      fun h lo hi k b st sh deque more => ?_⟩⟩,
    fun id c v n pj remote s calm here out => ⟨fun only => ?_, fun h lo hi k b st sh only => grant_range calm here out only,
      fun e only => grant_foreign calm only, fun r s0 s1 x only hungry own live told read odd =>
        grant_record calm only hungry own live told read odd⟩,
    fun c s => ⟨fun now => ?_, fun later => ?_⟩⟩
  · obtain ⟨thief, question⟩ := asked_ask (s := s) { (s.core c).thief with
      last := some v, out := some (v, false), tried := (s.core c).thief.tried + 1 } false (mates_ne next.1)
    exact ⟨_, exec_steal (thief_eq_true hungry stage out backoff) tried last next, thief, question, rfl⟩
  · exact exec_steal_of_round round
  · obtain ⟨thief, question⟩ := asked_ask (s := s) { (s.core c).thief with
      out := some (v, true), lastDie := some d, lastOn := [(d, v)] } true other
    exact ⟨_, exec_remoteSteal (thief_eq_true hungry stage out backoff) round die next first mem least, thief, question, rfl⟩
  · exact ⟨_, exec_remoteSteal_of_alone (thief_eq_true hungry stage out backoff) round alone, rfl,
      congrArg Core.thief (State.core_modCore_same ..)⟩
  · exact exec_stealAnswer_of_pop asked pop
  · exact stealAnswer_refuses asked free refused
  · exact stealAnswer_gives asked free own shut here stays spill (by rw [deque]; rfl)
  · obtain ⟨t, run, deque, packets, mem⟩ := stealAnswer_gives asked free own shut here stays spill
      (by rw [deque]; exact stealEnd_single ..)
    exact ⟨t, run, deque, mem, packets⟩
  · obtain ⟨t, run, deque, packets, mem⟩ := stealAnswer_gives asked free own shut here stays spill
      (by rw [deque]; exact stealEnd_upper more)
    exact ⟨t, run, deque, mem, packets⟩
  · refine ⟨_, exec_empty calm only, rfl, rfl, ?_⟩
    rw [receiving_core]
    exact answered_answered out false
  · refine ⟨_, congrArg Host.Outcome.next (if_pos now), ?_, rfl⟩
    rw [State.core_modCore_same]
  · exact congrArg Host.Outcome.next (if_neg later)

end Sys2Proof.Scheduling
end

section
/-!
PROOF. Stage rings (03 R58, R60): the record that a core takes, and the increment of HEAD.
-/

open Sys2Proof Sys2Proof.Machine Sys2Proof.Claims

namespace Sys2Proof.Scheduling

/-- The move that the weaver has decided is written at the next take. -/
theorem tookMove_eq_moved (k : Core) : k.tookMove = moved k := by
  have stage (m : BitVec 8) : 256#9 ||| m.setWidth 9 = BitVec.ofNat 9 (256 + m.toNat) := by
    have bits := Nat.two_pow_add_eq_or_of_lt (i := 8) m.isLt 1
    have lt := m.isLt
    apply BitVec.eq_of_toNat_eq
    rw [BitVec.toNat_or, BitVec.toNat_setWidth, BitVec.toNat_ofNat, BitVec.toNat_ofNat, Nat.mod_eq_of_lt (a := m.toNat) (by omega),
      Nat.mod_eq_of_lt (a := 256 + m.toNat) (by omega)]
    exact bits.symm
  unfold Core.tookMove moved
  split <;> simp only [*]

theorem exec_stageRingTake {c n i h : Nat} {s s1 : State} {r : Ring} {x : Rec} (hungry : Hungry s c n)
    (ready : s.ringReady c = some (i, r)) (inc : s.incHead c (s.coreJob c) r = some (s1, h))
    (record : s1.ringRecord c (s.coreJob c) r h = some x) (spill : (s1.weaver (c / 128)).spill = [])
    (gone : (s1.weaver (c / 128)).gone = []) (live : s1.cancelled (.one x) = false) :
    exec (.stageRingTake c) s = .next ((s1.setCore c (moved (s1.core c))).startRecord c n x) := by
  have refilled : (s1.modCore c Core.tookMove).ringRefill c i (s.coreJob c) r = s1.setCore c (moved (s1.core c)) := by
    have empty : ((s1.modCore c Core.tookMove).weaver (towerOf c)).spill.look i [] = [] :=
      (congrArg (fun t => Tab.look t i []) spill).trans rfl
    rw [State.ringRefill, empty, State.modCore, tookMove_eq_moved]
  have none : ((s1.setCore c (moved (s1.core c))).weaver (towerOf c)).gone = [] := gone
  have goes : (s1.setCore c (moved (s1.core c))).cancelled (.one x) = false := live
  show execStageRingTake c s = _
  simp only [execStageRingTake, hungry_eq_true hungry, ready, freeSlot_of_hungry hungry, inc, record, refilled, none, goes,
    List.contains_nil, Bool.not_true, Bool.false_eq_true, if_false]

/-- An increment by an atomic at a home. -/
theorem amoHome_increment {s t : State} {j : BitVec 16} {pa v : Nat} (h : s.amoHome j pa ⟨.add, 8, 1, 0⟩ = .ok t v) :
    v = s.mem.read pa 8 ∧ t.mem = s.mem.write pa 8 ((v + 1) % 2 ^ 64) := by
  unfold State.amoHome at h
  split at h
  · cases h
  · cases h
    exact ⟨rfl, State.homeWrite_mem ..⟩

/-- The increment of HEAD at its data home. -/
theorem incHead_of_sc {c h : Nat} {s s0 s1 : State} {job : BitVec 16} {r : Ring} {pa pte tag : Nat} {ver : BitVec 16}
    (page : s.translate (s.party c job false) (field (r.addr + 16) 0 48) .amo = (s0, .ok pa .sc false ver pte tag))
    (inc : s.incHead c job r = some (s1, h)) : h = s0.mem.read pa 8 ∧ s1.mem = s0.mem.write pa 8 ((h + 1) % 2 ^ 64) := by
  simp only [State.incHead, bits_eq_field, page, State.amoPage] at inc
  cases atomic : s0.amoHome (s.party c job false).job pa ⟨.add, 8, 1, 0⟩ with
  | ok t v =>
    obtain ⟨old, mem⟩ := amoHome_increment atomic
    rw [atomic] at inc
    cases inc
    exact ⟨old, mem⟩
  | bad => rw [atomic] at inc; cases inc
  | invalid => rw [atomic] at inc; cases inc

/-- What the increment of HEAD leaves in memory. -/
theorem incHead_mem {c h : Nat} {s s0 s1 : State} {job : BitVec 16} {r : Ring} {pa pte tag : Nat} {ver : BitVec 16}
    (page : s.translate (s.party c job false) (field (r.addr + 16) 0 48) .amo = (s0, .ok pa .sc false ver pte tag))
    (inc : s.incHead c job r = some (s1, h)) :
    h = s0.mem.read pa 8 ∧ s1.mem.read pa 8 = (h + 1) % 2 ^ 64 ∧
      ∀ a, a < pa ∨ pa + 8 ≤ a → s1.mem.get a = s0.mem.get a := by
  obtain ⟨old, mem⟩ := incHead_of_sc page inc
  refine ⟨old, ?_, fun a out => ?_⟩
  · rw [mem, Memory.read_write, Nat.mod_mod]
  · rw [mem, Memory.write]
    exact Memory.get_putBytes_out _ _ _ _ (by rw [leBytes_length]; exact out)

/-- 03 R58: the record taken starts in the lowest FREE slot. -/
theorem stageRingTake {c n i h v : Nat} {s s1 s2 : State} {r : Ring} {x : Rec} (hungry : Hungry s c n)
    (ready : s.ringReady c = some (i, r)) (inc : s.incHead c (s.coreJob c) r = some (s1, h))
    (record : s1.ringRecord c (s.coreJob c) r h = some x) (spill : (s1.weaver (c / 128)).spill = [])
    (gone : (s1.weaver (c / 128)).gone = []) (live : (s1.counter? (BitVec.ofNat 16 (field (x.getD 0 0) 48 16)) .launch
      (field (x.getD 0 0) 12 12)).all (fun k => !k.canc) = true)
    (read : EntryRead (s1.setCore c (moved (s1.core c))) c (x.getD 0 0) s2 v) (odd : v % 2 = 1) :
    ∃ t, exec (.stageRingTake c) s = .next t ∧
      Started (t.strand c n) x (BitVec.ofNat 64 (v / 4 % 2 ^ 46 * 4)) (s1.coreJob c) ∧
      (t.core c).stageasn = (moved (s1.core c)).stageasn ∧ (t.core c).wvmove = none ∧ t.mem = s2.mem := by
  have lives : s1.cancelled (.one x) = false := cancelled_eq_false fun k hk => by
    have all : (some k).all (fun k => !k.canc) = true := by rw [← hk]; exact live
    simpa using all
  obtain ⟨js, k, t, core, start, isStarted⟩ := startRecord_of_read read odd (slot_of_hungry hungry)
  have kept : s2.core c = moved (s1.core c) := by
    rw [State.core, (Reads.readAt read.2).cores]
    exact State.core_setCore_same ..
  have settled : (moved (s1.core c)).wvmove = none := by
    unfold moved
    split
    · rfl
    · assumption
  refine ⟨_, (exec_stageRingTake hungry ready inc record spill gone lives).trans (congrArg _ start), ?_, ?_, ?_, rfl⟩
  · rw [State.strand, State.core_setCore_same, Core.strand_setStrand_same]
    exact isStarted
  · rw [State.core_setCore_same, ← kept]
    rcases core with rfl | rfl <;> rfl
  · rw [State.core_setCore_same, ← settled, ← kept]
    rcases core with rfl | rfl <;> rfl

end Sys2Proof.Scheduling
end

section
/-!
PROOF. The weaver (03 R59): a sample of the rings of a die.
-/

open Sys2Proof Sys2Proof.Machine Sys2Proof.Claims

namespace Sys2Proof.Scheduling

@[simp] theorem weaver_modWeaver_same (s : State) (d : Nat) (f : Weaver → Weaver) :
    (s.modWeaver d f).weaver d = f (s.weaver d) := Tab.look_put_same ..

/-- A weaver that has found the ring registers as they stand (09 R188). -/
def looked (w : Weaver) : Weaver :=
  { w with seen := w.rings, gone := w.gone.filter fun g => w.rings.look g.1 0 = w.seen.look g.1 0 }

/-- A weaver that has counted a sample. -/
def sampled (cold hot : List Seen) (w : Weaver) : Weaver :=
  { w with samples := w.samples + 1, starved := cold.map fun x => stageKey x.job x.stage,
           congested := hot.map fun x => stageKey x.job x.stage, due := false }

/-- The rings of a list that are below LOW. -/
def coldOf (l : List Seen) : List Seen := l.filter fun x => x.below.isSome

/-- The rings of a list that are above HIGH. -/
def hotOf (l : List Seen) : List Seen := l.filter fun x => x.above.isSome

/-- The part after a sample has been counted, before a core moves. -/
def counted (s : State) (die : Nat) : State :=
  let l := (s.modWeaver die looked).seenRings die
  (s.modWeaver die looked).modWeaver die (sampled (coldOf l) (hotOf l))

theorem counted_weaver (s : State) (die : Nat) : (counted s die).weaver die =
    sampled (coldOf ((s.modWeaver die looked).seenRings die)) (hotOf ((s.modWeaver die looked).seenRings die))
      (looked (s.weaver die)) := by
  rw [counted, weaver_modWeaver_same, weaver_modWeaver_same]

/-- The congested stage of a sample: congested in two of them. -/
def hottest (s : State) (die : Nat) : Option Seen :=
  best (·.above) ((hotOf ((s.modWeaver die looked).seenRings die)).filter fun x =>
    (s.weaver die).congested.contains (stageKey x.job x.stage))

/-- The stage that gives up a core: starved in two samples. -/
def coldest (s : State) (die : Nat) (hi : Seen) : Option Seen :=
  best (·.below) ((coldOf ((s.modWeaver die looked).seenRings die)).filter fun x =>
    (s.weaver die).starved.contains (stageKey x.job x.stage) && x.job = hi.job && x.stage ≠ hi.stage)

/-- A core is told to work for a stage. -/
def movesTo (s : State) (die c : Nat) (hi : Seen) : State :=
  (s.modCore c fun k => { k with wvmove := some (BitVec.ofNat 8 hi.stage) }).modWeaver die fun w =>
    { w with movedAt := w.movedAt.put c w.samples }

/-- A sample: it is counted, and a core moves where both tests name a stage. -/
theorem sampleRings_eq (s : State) (die : Nat) : s.sampleRings die =
    match hottest s die with
    | none => counted s die
    | some hi => match (coldest s die hi).bind ((counted s die).leaver die) with
      | none => counted s die
      | some c => movesTo (counted s die) die c hi := by
  have w : (s.modWeaver die looked).weaver die = looked (s.weaver die) := weaver_modWeaver_same ..
  have starved : ((s.modWeaver die looked).weaver die).starved = (s.weaver die).starved := by rw [w]; rfl
  have congested : ((s.modWeaver die looked).weaver die).congested = (s.weaver die).congested := by rw [w]; rfl
  unfold State.sampleRings
  dsimp only
  generalize hb : best (fun x : Seen => x.above) _ = hi
  have hot : hottest s die = hi := by
    rw [← hb, hottest, ← congested]
    rfl
  rw [hot]
  cases hi with
  | none => rfl
  | some hi =>
    dsimp only
    generalize hc : Option.bind (best _ _) _ = c
    have cold : (coldest s die hi).bind ((counted s die).leaver die) = c := by
      rw [← hc, coldest, ← starved]
      rfl
    rw [cold]
    cases c with
    | none => rfl
    | some c => rfl

/-! No ring registered. -/

theorem towerOf_ringCore {s : State} {die c : Nat} {job : BitVec 16} (h : s.ringCore die job = some c) : towerOf c = die := by
  simpa using List.find?_some h

/-- A register of a die that names no ring gives none. -/
theorem dieRing_of_unregistered {s : State} {die i : Nat} (h : ((s.weaver die).seen.look i 0).getLsbD 0 = false) :
    s.dieRing die i = none := by
  rw [State.dieRing, Option.bind_eq_none_iff]
  intro c core
  have unset : bit ((s.weaver (towerOf c)).seen.look i 0) 0 = false := by
    rw [towerOf_ringCore core, bit_eq_getLsbD, h]
  simp only [State.ring, unset, Bool.not_false, if_true, Option.map_none]

theorem seenRings_of_unregistered {s : State} {die : Nat}
    (h : ∀ i < 16, ((s.weaver die).seen.look i 0).getLsbD 0 = false) : s.seenRings die = [] := by
  rw [State.seenRings, List.filterMap_eq_nil_iff]
  intro i hi
  rw [dieRing_of_unregistered (h i (List.mem_range.mp hi)), Option.map_none]

/-- A sample that finds no ring counts, and moves no core. -/
theorem sampleRings_of_unregistered {s : State} {die : Nat}
    (h : ∀ i < 16, ((s.weaver die).rings.look i 0).getLsbD 0 = false) :
    s.sampleRings die = counted s die ∧ (s.modWeaver die looked).seenRings die = [] := by
  have none : (s.modWeaver die looked).seenRings die = [] := seenRings_of_unregistered (by
    rw [weaver_modWeaver_same]
    exact h)
  have cool : hottest s die = Option.none := by
    rw [hottest, none]
    rfl
  exact ⟨by rw [sampleRings_eq, cool], none⟩

/-! The core that leaves a stage. -/

theorem find?_reverse_ascending {l : List Nat} (asc : l.Pairwise (· < ·)) {p : Nat → Bool} {v : Nat} (mem : v ∈ l)
    (hp : p v = true) (greatest : ∀ w ∈ l, w ≤ v) : l.reverse.find? p = some v := by
  induction l with
  | nil => cases mem
  | cons w l ih =>
    obtain ⟨above, asc⟩ := List.pairwise_cons.mp asc
    rw [List.reverse_cons, List.find?_append]
    rcases List.mem_cons.mp mem with rfl | mem
    · have last : l = [] := List.eq_nil_iff_forall_not_mem.mpr fun x hx => by
        have := above x hx
        have := greatest x (List.mem_cons_of_mem _ hx)
        omega
      rw [last, List.reverse_nil, List.find?_nil, Option.none_or, List.find?_cons_of_pos hp]
    · rw [ih asc mem fun x hx => greatest x (List.mem_cons_of_mem _ hx), Option.some_or]

/-- A core that no move is decided for works for the stage in STAGEASN. -/
theorem stage_eq_some {k : Core} {n : Nat} (still : k.wvmove = none) :
    k.stage = some n ↔ k.stageasn.toNat = 256 + n ∧ n < 256 := by
  have lt := k.stageasn.isLt
  rw [Core.stage, still]
  by_cases set : bit k.stageasn 8 = true
  · have high : k.stageasn.toNat / 2 ^ 8 % 2 ^ 1 = 1 := of_decide_eq_true set
    rw [if_pos set, Option.some.injEq, bits]
    omega
  · have high : ¬k.stageasn.toNat / 2 ^ 8 % 2 ^ 1 = 1 := fun h => set (decide_eq_true h)
    rw [if_neg set]
    simp only [reduceCtorEq, false_iff]
    omega

end Sys2Proof.Scheduling
end

section
/-!
PROOF. The weaver, continued (03 R59, R60): the core that a sample moves.
-/

open Sys2Proof Sys2Proof.Machine Sys2Proof.Claims

namespace Sys2Proof.Scheduling

theorem mem_stageCores {s : State} {die z stage : Nat} {job : BitVec 16} : z ∈ s.stageCores die job stage ↔
    z < 512 ∧ s.inHoods job z = true ∧ towerOf z = die ∧ (s.core z).stage = some stage := by
  simp only [State.stageCores, State.jobCores, allCores, List.mem_filter, List.mem_range, Bool.and_eq_true,
    decide_eq_true_eq, and_assoc]

theorem stageCores_ascending (s : State) (die stage : Nat) (job : BitVec 16) :
    (s.stageCores die job stage).Pairwise (· < ·) := by
  rw [State.stageCores, State.jobCores, allCores]
  exact (range_filter_ascending ..).filter _

/-- 03 R59: the highest core of the stage leaves it, while another stays. -/
theorem leaver_of_greatest {s : State} {die c e : Nat} {y : Seen} (still : (s.weaver die).movedAt = [])
    (mem : c ∈ s.stageCores die y.job y.stage) (other : e ∈ s.stageCores die y.job y.stage) (below : e < c)
    (greatest : ∀ z ∈ s.stageCores die y.job y.stage, z ≤ c) : s.leaver die y = some c := by
  have more : ¬(s.stageCores die y.job y.stage).length < 2 := by
    intro few
    generalize s.stageCores die y.job y.stage = l at *
    match l, few with
    | [], _ => cases mem
    | [a], _ =>
      have := List.mem_singleton.mp mem
      have := List.mem_singleton.mp other
      omega
  rw [State.leaver, if_neg more, still]
  exact find?_reverse_ascending (stageCores_ascending ..) mem rfl greatest

/-- Of one ring that passes a test and has the measure, the best is itself. -/
theorem best_filter_singleton {f : Seen → Option Nat} {p : Seen → Bool} {x : Seen} {n : Nat} (measure : f x = some n)
    (test : p x = true) : best f ([x].filter p) = some x := by
  simp [best, measure, test]

section Moves

variable {s : State} {die : Nat} {x y : Seen} {m k : Nat} (rings : s.seenRings die = [x, y])
  (settled : (s.weaver die).seen = (s.weaver die).rings)
include settled rings

/-- Registers that stand as the last sample found them give the same rings. -/
theorem seenRings_looked : (s.modWeaver die looked).seenRings die = [x, y] := by
  rw [← rings]
  refine seenRings_withWeavers (W := (s.modWeaver die looked).weavers) (fun d => ?_) die
  show ((s.modWeaver die looked).weaver d).seen = _
  by_cases h : d = die
  · rw [h, weaver_modWeaver_same]
    exact settled.symm
  · exact congrArg Weaver.seen (Tab.look_put_ne _ _ _ h)

theorem hottest_eq (high : x.above = some m) (shallow : y.above = none)
    (congested : x.job.toNat * 2 ^ 16 + x.stage ∈ (s.weaver die).congested) : hottest s die = some x := by
  have twice : (s.weaver die).congested.contains (stageKey x.job x.stage) = true := List.contains_iff_mem.mpr congested
  have hot : hotOf [x, y] = [x] := by simp [hotOf, high, shallow]
  rw [hottest, seenRings_looked rings settled, hot]
  exact best_filter_singleton high twice

theorem coldest_eq (low : x.below = none) (deep : y.below = some k)
    (starved : y.job.toNat * 2 ^ 16 + y.stage ∈ (s.weaver die).starved) (job : x.job = y.job) (stage : x.stage ≠ y.stage) :
    coldest s die x = some y := by
  have twice : (s.weaver die).starved.contains (stageKey y.job y.stage) = true := List.contains_iff_mem.mpr starved
  have cold : coldOf [x, y] = [y] := by simp [coldOf, low, deep]
  have both : ((s.weaver die).starved.contains (stageKey y.job y.stage) && decide (y.job = x.job) &&
      decide (y.stage ≠ x.stage)) = true := by
    rw [twice]
    simp [job, stage.symm]
  rw [coldest, seenRings_looked rings settled, cold]
  exact best_filter_singleton deep both

end Moves

/-- A sample of two rings, one congested twice and one of its job starved twice. -/
theorem sampleRings_moves {s : State} {die c e m k : Nat} {x y : Seen} (rings : s.seenRings die = [x, y])
    (settled : (s.weaver die).seen = (s.weaver die).rings) (high : x.above = some m) (low : x.below = none)
    (deep : y.below = some k) (shallow : y.above = none) (job : x.job = y.job) (stage : x.stage ≠ y.stage)
    (congested : x.job.toNat * 2 ^ 16 + x.stage ∈ (s.weaver die).congested)
    (starved : y.job.toNat * 2 ^ 16 + y.stage ∈ (s.weaver die).starved) (still : (s.weaver die).movedAt = [])
    (mem : c ∈ s.stageCores die y.job y.stage) (other : e ∈ s.stageCores die y.job y.stage) (below : e < c)
    (greatest : ∀ z ∈ s.stageCores die y.job y.stage, z ≤ c) :
    s.sampleRings die = movesTo (counted s die) die c x := by
  have leaves : (counted s die).leaver die y = some c :=
    leaver_of_greatest (by rw [counted_weaver]; exact still) mem other below greatest
  rw [sampleRings_eq, hottest_eq rings settled high shallow congested]
  simp only [coldest_eq rings settled low deep starved job stage, Option.bind_some, leaves]

theorem movesTo_weaver (s : State) (die c : Nat) (hi : Seen) : (movesTo s die c hi).weaver die =
    { s.weaver die with movedAt := (s.weaver die).movedAt.put c (s.weaver die).samples } := by
  rw [movesTo, weaver_modWeaver_same]
  rfl

theorem movesTo_wvmove (s : State) (die c : Nat) (hi : Seen) :
    ((movesTo s die c hi).core c).wvmove = some (BitVec.ofNat 8 hi.stage) :=
  congrArg Core.wvmove (State.core_modCore_same s c fun k => { k with wvmove := some (BitVec.ofNat 8 hi.stage) })

/-! Samples that are due. -/

theorem exec_weaverSample (s : State) (die : Nat) : exec (.weaverSample die) s = .next (s.sampleDie die) := rfl

theorem sampleDie_of_due {s : State} {die : Nat} (h : (s.weaver die).due = true) : s.sampleDie die = s.sampleRings die :=
  if_pos h

/-- Every sample is counted. -/
theorem sampleRings_samples (s : State) (die : Nat) :
    ((s.sampleRings die).weaver die).samples = (s.weaver die).samples + 1 := by
  have counts : ((counted s die).weaver die).samples = (s.weaver die).samples + 1 := by
    rw [counted_weaver]
    rfl
  rw [sampleRings_eq]
  split
  · exact counts
  · split
    · exact counts
    · rw [movesTo_weaver]
      exact counts

theorem sampleRings_islands (s : State) (die : Nat) : (s.sampleRings die).islands = s.islands := by
  rw [sampleRings_eq]
  split
  · rfl
  · split <;> rfl

theorem sampleArm_keeps (s : State) (c : Nat) (x : Nat × Arm) :
    (s.sampleArm c x).islands = s.islands ∧ (s.sampleArm c x).weavers = s.weavers := by
  unfold State.sampleArm
  dsimp only
  by_cases h : if x.2.falling = true then x.2.thresh < s.counterValue c x.2.cnt.toNat
    else s.counterValue c x.2.cnt.toNat < x.2.thresh
  · rw [if_pos h]
    exact ⟨rfl, rfl⟩
  · rw [if_neg h]
    have counts := launchInc_eq (s.modCore c fun k => { k with arms := k.arms.del x.1 }) x.2.job x.2.lid.toNat
    have islands := congrArg State.islands counts
    have weavers := congrArg State.weavers counts
    split <;> next taken =>
      rw [taken] at islands weavers
      exact ⟨islands, weavers⟩

theorem sampleCore_keeps (s : State) (c : Nat) :
    (s.sampleCore c).islands = s.islands ∧ (s.sampleCore c).weavers = s.weavers := by
  unfold State.sampleCore
  dsimp only
  split
  · exact ⟨rfl, rfl⟩
  · exact foldl_keeps (P := fun t : State => t.islands = s.islands ∧ t.weavers = s.weavers) (fun t x ⟨hi, hw⟩ => by
      obtain ⟨islands, weavers⟩ := sampleArm_keeps t c x
      exact ⟨islands.trans hi, weavers.trans hw⟩) _ ⟨rfl, rfl⟩

end Sys2Proof.Scheduling
end

section
/-!
PROOF. Samples of the counters (17 R303), what a cycle makes due, and the obligation.
-/

open Sys2Proof Sys2Proof.Machine Sys2Proof.Claims

namespace Sys2Proof.Scheduling

/-! A cycle of an island. -/

theorem takeDue_islands (s : State) (i : Nat) : (s.takeDue i).islands = s.islands := by
  have sampled := foldl_keeps (P := fun t : State => t.islands = s.islands)
    (fun t c h => (sampleCore_keeps t c).1.trans h) ((s.cores.filter fun x => islandOf x.1 = i && x.2.due).map (·.1)) rfl
  unfold State.takeDue State.sampleDie
  dsimp only
  split
  · split
    · exact (sampleRings_islands ..).trans sampled
    · exact sampled
  · exact sampled

/-- The sample that is due is taken before the cycle. -/
theorem takeDue_samples {s : State} {die : Nat} (due : (s.weaver die).due = true) :
    ((s.takeDue (4 * die)).weaver die).samples = (s.weaver die).samples + 1 := by
  have sampled := foldl_keeps (P := fun t : State => t.weavers = s.weavers)
    (fun t c h => (sampleCore_keeps t c).2.trans h) ((s.cores.filter fun x => islandOf x.1 = 4 * die && x.2.due).map (·.1)) rfl
  unfold State.takeDue
  generalize List.foldl State.sampleCore s _ = t at sampled ⊢
  have weaver : t.weaver die = s.weaver die := congrArg (fun w => Tab.look w die Weaver.reset) sampled
  have first : 4 * die % 4 = 0 := Nat.mul_mod_right ..
  have own : 4 * die / 4 = die := Nat.mul_div_cancel_left _ (by decide)
  simp only [first, own, weaver, due, decide_true, Bool.and_self, if_true]
  rw [sampleDie_of_due (by rw [weaver, due]), sampleRings_samples, weaver]

/-- A cycle that ends at a multiple of 4096 makes the sample due. -/
theorem tick_due {s : State} {die : Nat} (ends : ((s.island (4 * die)).cycle.toNat + 1) % 4096 = 0) :
    ((s.tick (4 * die) 1).weaver die).due = true := by
  have island : (s.takeDue (4 * die)).island (4 * die) = s.island (4 * die) := by
    rw [State.island, takeDue_islands]
    rfl
  have one : min 1 (1024 - (s.island (4 * die)).cycle.toNat % 1024) = 1 := by omega
  have first : 4 * die % 4 = 0 := Nat.mul_mod_right ..
  have own : 4 * die / 4 = die := Nat.mul_div_cancel_left _ (by decide)
  simp only [State.tick, island, one, first, own, ends, Nat.zero_lt_one, and_self, if_true, weaver_modWeaver_same]

/-- A cycle passes only after the sample that is due. -/
theorem tick_samples {s : State} {die : Nat} (n : Nat) (due : (s.weaver die).due = true) :
    ((s.tick (4 * die) n).weaver die).samples = (s.weaver die).samples + 1 := by
  have own : 4 * die / 4 = die := Nat.mul_div_cancel_left _ (by decide)
  rw [← takeDue_samples due]
  unfold State.tick
  dsimp only
  split
  · rw [own, weaver_modWeaver_same]
    rfl
  · rfl

/-! Counters. -/

theorem exec_counterSample (s : State) (c : Nat) : exec (.counterSample c) s = .next (s.sampleCore c) := rfl

/-- A core whose counters have been kept. -/
def kept (vs : List Nat) (k : Core) : Core := { k with due := false, sampled := vs }

theorem sampleCore_of_due {s : State} {c : Nat} (due : (s.core c).due = true) : s.sampleCore c =
    ((s.core c).arms.foldl (fun s x => s.sampleArm c x) s).modCore c (kept ((List.range 12).map (s.counterValue c))) := by
  simp only [State.sampleCore, due, Bool.not_true, Bool.false_eq_true, if_false]
  rfl

/-- An arm below its threshold stays. -/
theorem sampleArm_of_below {s : State} {c i : Nat} {a : Arm} (rising : a.falling = false)
    (below : s.counterValue c a.cnt.toNat < a.thresh) : s.sampleArm c (i, a) = s := by
  simp only [State.sampleArm, rising, Bool.false_eq_true, if_false, below, if_true]

theorem modJob_modCore (s : State) (c : Nat) (f : Core → Core) (j : BitVec 16) (g : Job → Job) :
    (s.modCore c f).modJob j g = (s.modJob j g).modCore c f := by
  have job : (s.modCore c f).job? j = s.job? j := rfl
  unfold State.modJob
  rw [job]
  split <;> rfl

theorem launchInc_modCore (s : State) (c : Nat) (f : Core → Core) (job : BitVec 16) (lid : Nat) :
    (s.modCore c f).launchInc job lid = ((s.launchInc job lid).1.modCore c f, (s.launchInc job lid).2) := by
  have same : (s.modCore c f).job? job = s.job? job := rfl
  simp only [State.launchInc, same, modJob_modCore]
  split
  · split
    · rfl
    · split <;> rfl
  · rfl

/-- A core whose arm has fired. -/
def disarmed (i : Nat) (k : Core) : Core := { k with arms := k.arms.del i }

/-- 03 R61: an arm whose counter has crossed sends its record, as a member of its launch, and is disarmed. -/
theorem sampleArm_of_crossed {s s1 : State} {c i : Nat} {a : Arm} (rising : a.falling = false)
    (crossed : a.thresh ≤ s.counterValue c a.cnt.toNat) (inc : s.launchInc a.job a.lid.toNat = (s1, true)) :
    s.sampleArm c (i, a) = { s1.modCore c (disarmed i) with
      mails := s1.mails ++ [⟨s1.serial, c, a.target, false, a.record⟩], serial := s1.serial + 1 } := by
  have above : ¬s.counterValue c a.cnt.toNat < a.thresh := by omega
  have inc' : (s.modCore c fun k => { k with arms := k.arms.del i }).launchInc a.job a.lid.toNat =
      (s1.modCore c (disarmed i), true) := by
    rw [launchInc_modCore, inc]
    rfl
  simp only [State.sampleArm, rising, Bool.false_eq_true, if_false, above, inc']
  rfl

/-! The parts of the obligation. -/

theorem weaverSample_unregistered {s : State} {die : Nat} (due : (s.weaver die).due = true)
    (none : ∀ i < 16, ((s.weaver die).rings.look i 0).getLsbD 0 = false) :
    ∃ t, exec (.weaverSample die) s = .next t ∧ t.cores = s.cores ∧ (t.weaver die).samples = (s.weaver die).samples + 1 ∧
      (t.weaver die).due = false ∧ (t.weaver die).starved = [] ∧ (t.weaver die).congested = [] ∧
      (t.weaver die).rings = (s.weaver die).rings ∧ (t.weaver die).seen = (s.weaver die).rings ∧ t.mem = s.mem := by
  obtain ⟨counts, nothing⟩ := sampleRings_of_unregistered none
  refine ⟨counted s die, by rw [exec_weaverSample, sampleDie_of_due due, counts], rfl, ?_⟩
  rw [counted_weaver, nothing]
  exact ⟨rfl, rfl, rfl, rfl, rfl, rfl, rfl⟩

/-- Core `z` works for the stage of a ring of its die, and no move is decided for it. -/
def WorksFor (s : State) (die : Nat) (y : Seen) (z : Nat) : Prop :=
  s.inHoods y.job z = true ∧ z / 128 = die ∧ (s.core z).wvmove = none ∧ (s.core z).stageasn.toNat = 256 + y.stage

theorem mem_stageCores_iff_worksFor {s : State} {die z : Nat} {y : Seen} (lt : z < 512) (idle : (s.core z).wvmove = none) :
    z ∈ s.stageCores die y.job y.stage ↔ WorksFor s die y z := by
  have small := (s.core z).stageasn.isLt
  rw [mem_stageCores, stage_eq_some idle]
  exact ⟨fun ⟨_, hood, die, asn, _⟩ => ⟨hood, die, idle, asn⟩,
    fun ⟨hood, die, _, asn⟩ => ⟨lt, hood, die, asn, by omega⟩⟩

theorem weaverSample_moves {s : State} {die c e m k : Nat} {x y : Seen} (due : (s.weaver die).due = true)
    (settled : (s.weaver die).seen = (s.weaver die).rings) (rings : s.seenRings die = [x, y]) (high : x.above = some m)
    (low : x.below = none) (deep : y.below = some k) (shallow : y.above = none) (job : x.job = y.job)
    (stage : x.stage ≠ y.stage) (congested : x.job.toNat * 2 ^ 16 + x.stage ∈ (s.weaver die).congested)
    (starved : y.job.toNat * 2 ^ 16 + y.stage ∈ (s.weaver die).starved) (idle : ∀ z < 512, (s.core z).wvmove = none)
    (hc : WorksFor s die y c) (lt : c < 512) (he : WorksFor s die y e) (below : e < c)
    (greatest : ∀ z < 512, WorksFor s die y z → z ≤ c) (still : (s.weaver die).movedAt = []) :
    ∃ t, exec (.weaverSample die) s = .next t ∧ (t.core c).wvmove = some (BitVec.ofNat 8 x.stage) ∧
      (t.weaver die).movedAt = [(c, (s.weaver die).samples + 1)] ∧ t.mem = s.mem := by
  have lower : e < 512 := Nat.lt_trans below lt
  have moves := sampleRings_moves rings settled high low deep shallow job stage congested starved still
    ((mem_stageCores_iff_worksFor lt (idle c lt)).mpr hc) ((mem_stageCores_iff_worksFor lower (idle e lower)).mpr he) below
    fun z mem => by
      have lt := (mem_stageCores.mp mem).1
      exact greatest z lt ((mem_stageCores_iff_worksFor lt (idle z lt)).mp mem)
  refine ⟨movesTo (counted s die) die c x, by rw [exec_weaverSample, sampleDie_of_due due, moves], movesTo_wvmove ..,
    ?_, rfl⟩
  · rw [movesTo_weaver, counted_weaver]
    exact congrArg (fun t => Tab.put t c ((s.weaver die).samples + 1)) still

/-- A sample of a core without arms keeps its counters. -/
theorem counterSample_keeps {s : State} {c : Nat} (due : (s.core c).due = true) (arms : (s.core c).arms = []) :
    exec (.counterSample c) s = .next (s.modCore c (kept ((List.range 12).map (s.counterValue c)))) := by
  rw [exec_counterSample, sampleCore_of_due due, arms, List.foldl_nil]

/-- A sample of a core with one arm. -/
theorem counterSample_arm {s : State} {c i : Nat} {a : Arm} (due : (s.core c).due = true) (arms : (s.core c).arms = [(i, a)]) :
    exec (.counterSample c) s =
      .next ((s.sampleArm c (i, a)).modCore c (kept ((List.range 12).map (s.counterValue c)))) := by
  rw [exec_counterSample, sampleCore_of_due due, arms, List.foldl_cons, List.foldl_nil]

theorem counterValue_deque {s : State} {c : Nat} {a : Arm} (two : a.cnt = 2) :
    s.counterValue c a.cnt.toNat = (s.core c).deque.length + (s.core c).dspill.length := by
  rw [two]
  rfl

theorem counterSample_crossed {s s1 : State} {c i : Nat} {a : Arm} (due : (s.core c).due = true)
    (arms : (s.core c).arms = [(i, a)]) (two : a.cnt = 2) (rising : a.falling = false)
    (crossed : a.thresh ≤ (s.core c).deque.length + (s.core c).dspill.length)
    (inc : s.launchInc a.job a.lid.toNat = (s1, true)) :
    ∃ t, exec (.counterSample c) s = .next t ∧ (t.core c).arms = [] ∧ t.jobs = s1.jobs ∧
      t.mails = s.mails ++ [⟨s.serial, c, a.target, false, a.record⟩] := by
  have same : s1 = { s with jobs := s1.jobs } := by
    have := launchInc_eq s a.job a.lid.toNat
    rwa [inc] at this
  have fires := sampleArm_of_crossed (c := c) (i := i) rising (by rw [counterValue_deque two]; exact crossed) inc
  refine ⟨_, counterSample_arm due arms, ?_, ?_, ?_⟩
  · have gone : (s1.core c).arms.del i = [] := by
      rw [same]
      exact (congrArg (fun t => Tab.del t i) arms).trans (by simp [Tab.del])
    rw [fires, State.core_modCore_same]
    exact (congrArg Core.arms (State.core_modCore_same s1 c (disarmed i))).trans gone
  · rw [fires]; rfl
  · rw [fires, same]; rfl

/-- Settles O52, by the record that a take starts, the increment at HEAD's home, and the samples' equations. -/
theorem stagesAndCounters : Obligations.StagesAndCounters := by
  unfold Obligations.StagesAndCounters
  refine ⟨fun c n i h s s1 s2 r x v hungry ready inc record spill gone live read odd =>
      stageRingTake hungry ready inc record spill gone live read odd,
    fun c h s s0 s1 job r pa pte tag ver _ page inc _ => incHead_mem page inc,
    fun die s idle => ?_, fun die s due none => weaverSample_unregistered due none,
    fun die c e m k s x y due settled rings high low deep shallow job stage _ congested starved idle hc lt he below greatest
      still => weaverSample_moves due settled rings high low deep shallow job stage congested starved idle hc lt he below
      greatest still, fun die n s => ⟨tick_due, tick_samples n⟩, fun c s => ⟨fun idle => ?_, fun due =>
      ⟨fun arms => ?_, fun i a arms two rising => ⟨fun less => ?_, fun crossed s1 inc =>
        counterSample_crossed due arms two rising crossed inc⟩⟩⟩⟩
  · rw [exec_weaverSample, State.sampleDie, idle, if_neg Bool.false_ne_true]
  · rw [exec_counterSample, State.sampleCore, idle, Bool.not_false, if_pos rfl]
  · refine ⟨_, counterSample_keeps due arms, ?_⟩
    rw [State.core_modCore_same]
    exact ⟨rfl, rfl, rfl, rfl, rfl, rfl, rfl, rfl, rfl⟩
  · have stays := sampleArm_of_below (c := c) (i := i) rising (by rw [counterValue_deque two]; exact less)
    refine ⟨_, counterSample_arm due arms, ?_, ?_⟩
    · rw [State.core_modCore_same, stays]
      exact arms
    · rw [stays]
      rfl

end Sys2Proof.Scheduling
end

section
/-!
PROOF. Which words may stand in RPT's body (08 R157): the majors whose instructions are no checksum's.
-/

open Sys2Proof Sys2Proof.Machine Sys2Proof.Claims

namespace Sys2Proof.Scheduling

/-- The checksum instructions that a body may hold. -/
def isSum : Instr → Bool
  | .ckclr _ | .cka .. | .ckaf .. => true
  | _ => false

/-- Whether what a decoding gives is one of them. -/
def Sums (b : Bool) (r : Except Reject Instr) : Prop := ∀ i, r = .ok i → isSum i = b

namespace Sums

variable {b : Bool}

@[simp] theorem ok_iff {i : Instr} : Sums b (.ok i) ↔ isSum i = b :=
  ⟨fun h => h i rfl, fun h _ e => by cases e; exact h⟩

@[simp] theorem error (e : Reject) : Sums b (.error e) := fun _ h => nomatch h

@[simp] theorem ite_iff {p : Prop} [Decidable p] {x y : Except Reject Instr} :
    Sums b (if p then x else y) ↔ (p → Sums b x) ∧ (¬p → Sums b y) := by
  split <;> simp [*]

@[simp] theorem ifZero_iff {i : Instr} {z : Nat} : Sums b (ifZero z i) ↔ (z = 0 → isSum i = b) := by
  simp [ifZero]

@[simp] theorem ifWf_iff {i : Instr} : Sums b (ifWf i) ↔ (i.wf = true → isSum i = b) := by
  simp [ifWf]

@[simp] theorem withVal {α : Type} {k : α → Except Reject Instr} {o : Option α} (h : ∀ x, Sums b (k x)) :
    Sums b (withVal o k) := by
  cases o with
  | none => exact error _
  | some x => exact h x

@[simp] theorem decAddr (d a : GReg) (az imm : Nat) : Sums false (decAddr d a az imm) := by
  unfold Sys2Proof.decAddr
  split <;> simp [isSum]

@[simp] theorem decJump (d a b z fn : Nat) : Sums false (decJump d a b z fn) := by
  unfold Sys2Proof.decJump
  split <;> simp [isSum]

@[simp] theorem decFollow (f : EFields) : Sums false (decFollow f) := by
  unfold Sys2Proof.decFollow
  split <;> simp [isSum]

@[simp] theorem decLoad (d a : GReg) (sz sgn ord sc la disp : Nat) : Sums false (decLoad d a sz sgn ord sc la disp) := by
  refine withVal fun s => ?_
  split <;> simp [isSum]

@[simp] theorem decStore (d a : GReg) (sz sgn ord sc la disp : Nat) : Sums false (decStore d a sz sgn ord sc la disp) := by
  refine withVal fun s => withVal fun o => ?_
  split <;> simp [isSum]

@[simp] theorem decBit (f : EFields) : Sums false (decBit f) := by
  unfold Sys2Proof.decBit
  dsimp only
  split <;> simp [isSum]

@[simp] theorem decAmo (d a b : GReg) (fn dw ord sc la : Nat) : Sums false (decAmo d a b fn dw ord sc la) := by
  refine withVal fun s => ?_
  split <;> simp [isSum]

@[simp] theorem decFence (d a sz sgn ord sc la disp : Nat) : Sums false (decFence d a sz sgn ord sc la disp) := by
  refine withVal fun s => ?_
  split
  · split <;> simp [isSum]
  all_goals simp [isSum]

@[simp] theorem decBar (f : EFields) : Sums false (decBar f) := by
  unfold Sys2Proof.decBar
  split <;> simp [isSum]

@[simp] theorem decTag (f : EFields) : Sums false (decTag f) := by
  unfold Sys2Proof.decTag
  split <;> simp [isSum]

@[simp] theorem decQueue (f : EFields) : Sums false (decQueue f) := by
  unfold Sys2Proof.decQueue
  dsimp only
  split
  · split <;> simp [isSum]
  all_goals simp [isSum]

@[simp] theorem decVMem (f : VFields) : Sums false (decVMem f) := by
  refine withVal fun t => ?_
  split <;> simp [isSum]

@[simp] theorem decLease (f : VFields) : Sums false (decLease f) := by
  unfold Sys2Proof.decLease
  split <;> simp [isSum]

@[simp] theorem decMatrix (f : EFields) : Sums false (decMatrix f) := by
  unfold Sys2Proof.decMatrix
  split <;> simp [isSum]

@[simp] theorem decWale (f : EFields) : Sums false (decWale f) := by
  unfold Sys2Proof.decWale
  split <;> simp [isSum]

@[simp] theorem decTask (f : EFields) : Sums false (decTask f) := by
  unfold Sys2Proof.decTask
  split <;> simp [isSum]

@[simp] theorem decStrand (f : EFields) : Sums false (decStrand f) := by
  unfold Sys2Proof.decStrand
  split <;> simp [isSum]

@[simp] theorem decHier (f : EFields) : Sums false (decHier f) := by
  unfold Sys2Proof.decHier
  split <;> simp [isSum]

@[simp] theorem decSys (f : EFields) : Sums false (decSys f) := by
  unfold Sys2Proof.decSys
  split <;> simp [isSum]

end Sums

/-- The majors of 08 R157. -/
def bodyMajors : List Nat := [0x01, 0x02, 0x03, 0x04, 0x05, 0x06, 0x07, 0x08, 0x09, 0x0A, 0x30, 0x31, 0x32]

/-- A major that no body holds, other than the checksums', decodes to no checksum instruction. -/
theorem sums_decodeNat {w : Nat} (other : fld w 31 26 ∉ 0x34 :: bodyMajors) : Sums false (decodeNat w) := by
  have outside (m : Nat) (h : m ∈ 0x34 :: bodyMajors) : fld w 31 26 ≠ m := fun e => other (e ▸ h)
  unfold decodeNat
  dsimp only
  split
  any_goals simp [isSum]
  all_goals exact absurd ‹fld w 31 26 = _› (outside _ (by decide))

/-- The checksums' own major: CKCLR, CKA and CKAF are its functions 0 to 2. -/
theorem sums_decCheck (f : VFields) : Sums (decide (f.fn < 3)) (decCheck f) := by
  unfold decCheck
  split
  any_goals simp [isSum, *]

theorem isSum_iff {w : Nat} {i : Instr} (h : decodeNat w = .ok i) (body : fld w 31 26 ∉ bodyMajors) :
    isSum i = true ↔ fld w 31 26 = 0x34 ∧ fld w 3 0 < 3 := by
  by_cases check : fld w 31 26 = 0x34
  · have sums := sums_decCheck (vFields w) i (by simpa only [decodeNat, check] using h)
    rw [sums, decide_eq_true_iff]
    exact (and_iff_right check).symm
  · have none := sums_decodeNat (w := w) (by simpa using ⟨check, body⟩) i h
    simp [none, check]

/-! Words of a body. -/

theorem major_eq (w : BitVec 32) : bits w 26 6 = w.toNat / 2 ^ 26 := by
  have lt := w.isLt
  rw [bits]
  omega

theorem mem_bodyMajors (m : Nat) : m ∈ bodyMajors ↔ 1 ≤ m ∧ m ≤ 0x0A ∨ 0x30 ≤ m ∧ m ≤ 0x32 := by
  simp only [bodyMajors, List.mem_cons, List.not_mem_nil, or_false]
  omega

theorem inBody_eq_true {w : BitVec 32} {i : Instr} : inBody w i = true ↔ w.toNat / 2 ^ 26 ∈ bodyMajors ∨ isSum i = true := by
  unfold inBody
  rw [Bool.or_eq_true, decide_eq_true_iff]
  rfl

theorem bodyOk_of_decode {w : BitVec 32} {i : Instr} (h : decode w = .ok i) : bodyOk w = inBody w i := by
  rw [Bool.eq_iff_iff, inBody_eq_true, ← major_eq]
  by_cases body : bits w 26 6 ∈ bodyMajors
  · have range := (mem_bodyMajors _).mp body
    simp only [bodyOk, h, body, true_or, iff_true, Bool.true_and, Bool.or_eq_true, Bool.and_eq_true, decide_eq_true_iff]
    exact .inl range
  · have range := mt (mem_bodyMajors _).mpr body
    rw [isSum_iff h body]
    simp only [bodyOk, h, body, false_or, Bool.true_and, Bool.or_eq_true, Bool.and_eq_true, decide_eq_true_iff, range]
    rfl

theorem bodyOk_iff (w : BitVec 32) : bodyOk w = true ↔ ∃ i, decode w = .ok i ∧ inBody w i = true := by
  cases h : decode w with
  | error e => simp [bodyOk, h]
  | ok i => simp [bodyOk_of_decode h]

end Sys2Proof.Scheduling
end

section
/-!
PROOF. RPT (08 R157): the checks of its body in order, and the replay that begins.
-/

open Sys2Proof Sys2Proof.Machine Sys2Proof.Claims

namespace Sys2Proof.Scheduling

/-! Fetching. -/

theorem reads_fetch {s t : State} {ag : Agent} {pc : Word} {w : BitVec 32} (h : s.fetch ag pc = .ok t w) : Reads s t := by
  unfold State.fetch at h
  split at h
  · cases h
  · split at h
    · cases h
    · cases h
      exact Reads.refl s
  · next va _ =>
    split at h
    · cases h
    · cases h
    · next s' pa ty _ _ _ _ found =>
      have moved : Reads s s' := by
        have := Reads.translate s ag va .fetch
        rwa [found] at this
      split at h
      · cases h
      · dsimp only at h
        split at h
        · cases h
        · cases h
          split
          · exact moved.trans (Reads.privAccess_load ..)
          · exact moved
  · cases h

/-- Fetching the words of a body leaves the issuing strand as it is. -/
theorem reads_fetchWords {s t : State} {ag : Agent} {pc : Word} {n : Nat} {ws : List (BitVec 32)}
    (h : s.fetchWords ag pc n = .ok (t, ws)) : Reads s t := by
  induction n generalizing s pc ws with
  | zero =>
    cases h
    exact Reads.refl _
  | succ n ih =>
    unfold State.fetchWords at h
    split at h
    · cases h
    · cases h
    · next s' w fetched =>
      split at h
      · cases h
      · next t' ws' rest =>
        cases h
        exact (reads_fetch fetched).trans (ih rest)

/-! The checks of a body. -/

theorem all_bodyOk_iff (ws : List (BitVec 32)) :
    ws.all bodyOk = true ↔ ∀ w ∈ ws, ∃ i, decode w = .ok i ∧ inBody w i = true := by
  simp only [List.all_eq_true, bodyOk_iff]

theorem any_bodyVec_iff (ws : List (BitVec 32)) : ws.any bodyVec = true ↔ ∃ w ∈ ws, 0x30 ≤ w.toNat / 2 ^ 26 := by
  simp only [List.any_eq_true, bodyVec, major_eq, decide_eq_true_iff]

theorem hasVec_iff (slot : Nat) (t : Strand) : hasVec slot t = true ↔ t.vl = true ∨ slot ∈ [17, 18] := by
  simp [hasVec, isRow]

theorem follows_iff (t : Strand) : t.follows = true ↔ t.fl = .follower ∨ t.fl = .owes := by
  simp [Strand.follows]

section Body

variable {len : Fin 16} {a : GReg} {sd sa sb : Fin 32} {s s1 : State} {ws : List (BitVec 32)}
  (fetched : s.fetchWords s.agent (s.me.pc + 4) (len.val + 1) = .ok (s1, ws))
include fetched

theorem cur_fetched : s1.cur = s.cur := (reads_fetchWords fetched).cur

/-- RPT once its body is fetched. -/
theorem exec_rpt : exec (.rpt len a sd sa sb) s = .next (
    if ws.all bodyOk = false then s1.trap 0x18 s1.me.pc
    else if ws.any bodyVec = true ∧ hasVec s.cur.slot s.me = false then s1.trap 0x11 s1.me.pc
    else if s.me.follows = true then s1.goto (s1.leadPc s.cur.core)
    else if (s1.mine.replay.any fun r => r.slot ≠ s.cur.slot) = true then s1.block
    else if (s.rg a).toNat % 2 ^ 12 = 0 then s1.goto (s.me.pc + 8 + BitVec.ofNat 64 (4 * len.val))
    else (s1.goto s.me.pc).modMine fun k => { k with
      replay := some ⟨s.cur.slot, ws, (s.rg a).toNat % 2 ^ 12, 0, 0, sd.val, sa.val, sb.val⟩ }) := by
  have past : s.me.pc + 4 + 4 * word (len.val + 1) = s.me.pc + 8 + BitVec.ofNat 64 (4 * len.val) := by
    apply BitVec.eq_of_toNat_eq
    simp [word]
    omega
  have count : bits (s.rg a) 0 12 = (s.rg a).toNat % 2 ^ 12 := by rw [bits, Nat.pow_zero, Nat.div_one]
  show execRpt len a sd sa sb s = _
  simp only [execRpt, fetched, cur_fetched fetched, past, count, Bool.not_eq_true', Bool.and_eq_true]
  rfl

theorem exec_rpt_of_bad (bad : ∃ w ∈ ws, ∀ i, decode w = .ok i → inBody w i = false) :
    exec (.rpt len a sd sa sb) s = .next (s1.trap 0x18 s1.me.pc) := by
  have refused : ws.all bodyOk = false := by
    rw [← Bool.not_eq_true, all_bodyOk_iff]
    intro all
    obtain ⟨w, mem, none⟩ := bad
    obtain ⟨i, dec, body⟩ := all w mem
    exact absurd body (by rw [none i dec]; exact Bool.false_ne_true)
  rw [exec_rpt fetched, if_pos refused]

variable (good : ∀ w ∈ ws, ∃ i, decode w = .ok i ∧ inBody w i = true)
include good

theorem exec_rpt_of_unleased (vec : ∃ w ∈ ws, 0x30 ≤ w.toNat / 2 ^ 26) (none : hasVec s.cur.slot s.me = false) :
    exec (.rpt len a sd sa sb) s = .next (s1.trap 0x11 s1.me.pc) := by
  have passes : ¬ws.all bodyOk = false := by simp [(all_bodyOk_iff ws).mpr good]
  rw [exec_rpt fetched, if_neg passes, if_pos ⟨(any_bodyVec_iff ws).mpr vec, none⟩]

theorem exec_rpt_of_allowed (allowed : s.me.vl = true ∨ s.cur.slot ∈ [17, 18] ∨ ∀ w ∈ ws, w.toNat / 2 ^ 26 < 0x30) :
    exec (.rpt len a sd sa sb) s = .next (
      if s.me.follows = true then s1.goto (s1.leadPc s.cur.core)
      else if (s1.mine.replay.any fun r => r.slot ≠ s.cur.slot) = true then s1.block
      else if (s.rg a).toNat % 2 ^ 12 = 0 then s1.goto (s.me.pc + 8 + BitVec.ofNat 64 (4 * len.val))
      else (s1.goto s.me.pc).modMine fun k => { k with
        replay := some ⟨s.cur.slot, ws, (s.rg a).toNat % 2 ^ 12, 0, 0, sd.val, sa.val, sb.val⟩ }) := by
  have passes : ¬ws.all bodyOk = false := by simp [(all_bodyOk_iff ws).mpr good]
  have leased : ¬(ws.any bodyVec = true ∧ hasVec s.cur.slot s.me = false) := by
    rintro ⟨vec, none⟩
    rw [← Bool.not_eq_true, hasVec_iff, not_or] at none
    obtain ⟨w, mem, major⟩ := (any_bodyVec_iff ws).mp vec
    rcases allowed with lease | row | scalar
    · exact none.1 lease
    · exact none.2 row
    · exact absurd (scalar w mem) (by omega)
  rw [exec_rpt fetched, if_neg passes, if_neg leased]

end Body

theorem follows_eq_false {t : Strand} (notFollower : t.fl ≠ .follower) (notOwes : t.fl ≠ .owes) : ¬t.follows = true := by
  rw [follows_iff, not_or]
  exact ⟨notFollower, notOwes⟩

/-- The word that a replay issues, with its strides applied. -/
theorem instr_of_decode {r : Replay} {w : BitVec 32} {i : Instr} (word : r.body.getD r.j 0 = w) (h : decode w = .ok i) :
    r.instr = some (strided (r.i * r.sd) (r.i * r.sa) (r.i * r.sb) i) := by
  rw [Replay.instr, word, h]

/-- 08 R157: RPT's checks in order, and what the replay issues. -/
theorem replays : Claims.Replays := by
  refine ⟨fun len a sd sa sb s s1 c p stop => ?_, fun len a sd sa sb s s1 ws fetched => ⟨exec_rpt_of_bad fetched, fun good =>
    ⟨fun vec lease slot => exec_rpt_of_unleased fetched good vec ?_, fun allowed => ?_⟩⟩, fun r w word =>
    ⟨fun d a b h => instr_of_decode word h, fun d a i h => instr_of_decode word h, fun d i h => instr_of_decode word h,
      fun d a b k t h => instr_of_decode word h, fun c h => instr_of_decode word h⟩⟩
  · show execRpt len a sd sa sb s = _
    simp only [execRpt, stop]
    rfl
  · rw [← Bool.not_eq_true, hasVec_iff, lease, List.mem_pair]
    rintro (held | row)
    · exact Bool.false_ne_true held
    · omega
  · rw [exec_rpt_of_allowed fetched good allowed]
    refine ⟨fun follows => ?_, fun notF notO other => ?_, fun notF notO zero idle => ?_, fun notF notO more idle => ?_⟩
    · rw [if_pos ((follows_iff _).mpr follows)]
    · obtain ⟨r, held, slot⟩ := other
      rw [if_neg (follows_eq_false notF notO), if_pos (by simp [held, slot])]
    · rw [if_neg (follows_eq_false notF notO), if_neg (by simp [idle]), if_pos zero]
    · rw [if_neg (follows_eq_false notF notO), if_neg (by simp [idle]), if_neg more]

end Sys2Proof.Scheduling
end

section
/-!
PROOF. Lead streams (03 R63, R64; 09 R179), and the obligation about replays and streams.
-/

open Sys2Proof Sys2Proof.Machine Sys2Proof.Claims

namespace Sys2Proof.Scheduling

/-! A follower that detaches. -/

/-- A strand that has left its part in a lead stream, with what is left of its lead's replay. -/
def detached (t : Strand) (pc : Word) (rest : Option Replay) : Strand :=
  let t' := { t with fl := .none, rest := if t.fl = .follower then rest else t.rest }
  if t.runs ∧ t.fl ≠ .owes then { t' with pc := pc, st := .ready } else t'

theorem leadRest_eq (s : State) (c n : Nat) : (s.leadReplay c).map (fun r => { r with slot := n }) = leadRest s c n := by
  unfold State.leadReplay leadRest
  dsimp only
  cases (s.core (leaderOf (clusterOf c))).replay with
  | none => rfl
  | some r => by_cases h : ((s.core (leaderOf (clusterOf c))).strand r.slot).fl = .lead <;> simp [h]

theorem detach_eq (s : State) (c n : Nat) (pc : Word) :
    s.detach c n pc = s.setStrand c n (detached (s.strand c n) pc (leadRest s c n)) := by
  rw [← leadRest_eq]
  rfl

theorem detached_fl (t : Strand) (pc : Word) (rest : Option Replay) : (detached t pc rest).fl = .none := by
  unfold detached
  dsimp only
  split <;> rfl

theorem detached_of_follower {t : Strand} (h : t.fl = .follower) (pc : Word) (rest : Option Replay) :
    detached t pc rest = Claims.apart t pc rest := by
  simp [detached, Claims.apart, h]

theorem detached_of_owes {t : Strand} (h : t.fl = .owes) (pc : Word) (rest : Option Replay) :
    detached t pc rest = { t with fl := .none } := by
  simp [detached, h]

theorem detached_of_waitLead {t : Strand} (h : t.fl = .waitLead) (rest : Option Replay) :
    detached t t.pc rest = if t.runs then { t with fl := .none, st := .ready } else { t with fl := .none } := by
  simp [detached, h]

/-! Every follower of a lead detaches. -/

theorem core_replay_setStrand (s : State) (c n c' : Nat) (t : Strand) :
    ((s.setStrand c n t).core c').replay = (s.core c').replay := by
  by_cases h : c' = c
  · rw [h, State.setStrand, State.core_setCore_same]
    rfl
  · rw [State.setStrand, State.core_setCore_ne _ _ h]

/-- No follower is its cluster's lead, before or after it detaches. -/
theorem leadRest_detach {s : State} {c n : Nat} (follows : (s.strand c n).follows = true) (pc : Word) (c' n' : Nat) :
    leadRest (s.detach c n pc) c' n' = leadRest s c' n' := by
  have notLead : (s.strand c n).fl ≠ .lead := by
    rcases (follows_iff _).mp follows with h | h <;> rw [h] <;> decide
  have lead (c1 n1 : Nat) : ((s.detach c n pc).strand c1 n1).fl = .lead ↔ (s.strand c1 n1).fl = .lead := by
    rw [detach_eq]
    by_cases h : c1 = c ∧ n1 = n
    · obtain ⟨rfl, rfl⟩ := h
      rw [State.strand_setStrand_same, detached_fl]
      simp [notLead]
    · rw [State.strand_setStrand_ne _ _ h]
  have replay : ((s.detach c n pc).core (leaderOf (clusterOf c'))).replay = (s.core (leaderOf (clusterOf c'))).replay := by
    rw [detach_eq, core_replay_setStrand]
  unfold leadRest
  dsimp only
  rw [replay]
  split
  · next r _ => exact if_congr (lead _ r.slot) rfl rfl
  · rfl

/-- Followers detach one after another, each with what is left of the lead's replay. -/
theorem strand_foldl_detach {xs : List (Nat × Nat)} (nodup : xs.Nodup) (pc : Word) {s : State}
    (follow : ∀ x ∈ xs, (s.strand x.1 x.2).follows = true) (c n : Nat) :
    (xs.foldl (fun s x => s.detach x.1 x.2 pc) s).strand c n =
      if (c, n) ∈ xs then detached (s.strand c n) pc (leadRest s c n) else s.strand c n := by
  induction xs generalizing s with
  | nil => simp
  | cons x xs ih =>
    obtain ⟨fresh, nodup'⟩ := List.nodup_cons.mp nodup
    obtain ⟨c0, n0⟩ := x
    have head := follow _ List.mem_cons_self
    have other {c n : Nat} (h : (c, n) ≠ (c0, n0)) : (s.detach c0 n0 pc).strand c n = s.strand c n := by
      rw [detach_eq]
      exact State.strand_setStrand_ne _ _ fun ⟨hc, hn⟩ => h (by rw [hc, hn])
    rw [List.foldl_cons, ih nodup' fun x hx => by
      rw [other fun e => fresh (e ▸ hx)]
      exact follow x (List.mem_cons_of_mem _ hx)]
    by_cases h : (c, n) = (c0, n0)
    · obtain ⟨rfl, rfl⟩ := Prod.mk.inj h
      rw [if_neg fresh, if_pos List.mem_cons_self, detach_eq, State.strand_setStrand_same]
    · simp only [other h, leadRest_detach head, List.mem_cons, h, false_or]

theorem mem_followers {s : State} {cl c n : Nat} :
    (c, n) ∈ s.followers cl ↔ c < 512 ∧ clusterOf c = cl ∧ n < 19 ∧ (s.strand c n).follows = true := by
  simp only [State.followers, clusterCores, allCores, allSlots, List.mem_flatMap, List.mem_map, List.mem_filter,
    List.mem_range, decide_eq_true_eq, Prod.mk.injEq]
  constructor
  · rintro ⟨c, ⟨lt, cl⟩, n, ⟨slot, follows⟩, rfl, rfl⟩
    exact ⟨lt, cl, slot, follows⟩
  · rintro ⟨lt, cl, slot, follows⟩
    exact ⟨c, ⟨lt, cl⟩, n, ⟨slot, follows⟩, rfl, rfl⟩

theorem followers_nodup (s : State) (cl : Nat) : (s.followers cl).Nodup := by
  refine List.nodup_flatMap.mpr ⟨fun c _ => ?_, ?_⟩
  · exact (List.nodup_range.filter _).map fun _ _ e => (Prod.mk.inj e).2
  · refine (List.nodup_range.filter _).imp fun {c c'} ne => ?_
    rintro ⟨_, _⟩ h h'
    obtain ⟨n, -, e⟩ := List.mem_map.mp h
    obtain ⟨n', -, e'⟩ := List.mem_map.mp h'
    exact ne (Prod.mk.inj (e.trans e'.symm)).1

theorem strand_detachAll (s : State) (c0 : Nat) (pc : Word) (c n : Nat) : (s.detachAll c0 pc).strand c n =
    if (c, n) ∈ s.followers (clusterOf c0) then detached (s.strand c n) pc (leadRest s c n) else s.strand c n :=
  strand_foldl_detach (followers_nodup ..) pc (fun _ h => (mem_followers.mp h).2.2.2) c n

theorem cur_detachAll (s : State) (c : Nat) (pc : Word) : (s.detachAll c pc).cur = s.cur :=
  foldl_keeps (P := fun t : State => t.cur = s.cur) (fun t x h => by rw [detach_eq]; exact h) _ rfl

/-! The instructions. -/

/-- A strand that goes on with nothing outstanding. -/
theorem advance_of_quiet {s : State} (quiet : Quiet s) (f : Strand → Strand) :
    s.advance.modMe f = withMe s (f (wentOn s.me (s.me.pc + 4))) := by
  rw [State.advance, State.modMe_modMe]
  exact congrArg (fun t => withMe s (f t)) (Strand.retire_of_outs_nil quiet _)

theorem exec_follow_of_special {s : State} (special : 16 ≤ s.cur.slot) : exec .follow s = .next (s.trap 0x12 s.me.pc) ∧
    exec .unfollow s = .next (s.trap 0x12 s.me.pc) := by
  have no : (!isGeneral s.cur.slot) = true := by simpa [isGeneral] using special
  constructor
  · show execFollow s = _
    rw [execFollow, if_pos no]
    rfl
  · show execUnfollow s = _
    rw [execUnfollow, if_pos no]
    rfl

section General

variable {s : State} (general : s.cur.slot < 16) (runs : s.me.intrap = false)
include general runs

theorem exec_unfollow : exec .unfollow s = .next (s.unlead s.cur.core s.cur.slot (s.me.pc + 4)).advance := by
  have yes : ¬(!isGeneral s.cur.slot) = true := by simpa [isGeneral] using general
  show execUnfollow s = _
  rw [execUnfollow, if_neg yes, runs, if_neg Bool.false_ne_true]

variable (alone : (s.mine.strands.all fun x => decide (x.2.fl = .none)) = true)
include alone

/-- In a core whose strands have no part in a stream FOLLOW makes one. -/
theorem exec_follow_of_alone : exec .follow s = .next (s.advance.modMe fun t => { t with
    fl := if leaderOf (clusterOf s.cur.core) = s.cur.core then .lead else .waitLead }) := by
  have yes : ¬(!isGeneral s.cur.slot) = true := by simpa [isGeneral] using general
  have none {x : Nat × Strand} (mem : x ∈ s.mine.strands) : x.2.fl = .none := by
    simpa using List.all_eq_true.mp alone x mem
  have noLead : (s.mine.strands.any fun x => decide (x.2.fl = .lead)) = false := by
    rw [List.any_eq_false]
    intro x mem
    simp [none mem]
  have noPart : (s.mine.strands.any fun x => decide (x.2.follows = true ∨ x.2.fl = .waitLead)) = false := by
    rw [List.any_eq_false]
    intro x mem
    simp [Strand.follows, none mem]
  show execFollow s = _
  rw [execFollow, if_neg yes, runs, if_neg Bool.false_ne_true]
  simp only [noLead, noPart, Bool.false_eq_true, if_false]
  split <;> rfl

theorem exec_unfollow_of_alone : exec .unfollow s = .next s.advance := by
  have part : (s.strand s.cur.core s.cur.slot).fl = .none := by
    rcases Tab.look_mem s.mine.strands s.cur.slot Strand.empty with default | ⟨x, mem, value⟩
    · exact congrArg Strand.fl default
    · exact (congrArg Strand.fl value.symm).trans (by simpa using List.all_eq_true.mp alone x mem)
  rw [exec_unfollow general runs, State.unlead, part]

end General

/-- A lead that leads no more. -/
def unled (t : Strand) : Strand := { t with fl := .none }

/-- UNFOLLOW by the lead: it goes on, and every follower detaches at the pc after it. -/
theorem unfollow_of_lead {s : State} (quiet : Quiet s) (general : s.cur.slot < 16) (runs : s.me.intrap = false)
    (lead : s.me.fl = .lead) :
    ∃ t, exec .unfollow s = .next t ∧ t.me = { wentOn s.me (s.me.pc + 4) with fl := .none } ∧
      ∀ c n, c < 512 → clusterOf c = clusterOf s.cur.core → n < 19 → (s.strand c n).fl = .follower →
        t.strand c n = Claims.apart (s.strand c n) (s.me.pc + 4) (leadRest s c n) := by
  have notFollower : (s.cur.core, s.cur.slot) ∉ s.followers (clusterOf s.cur.core) := fun mem => by
    have follows := (mem_followers.mp mem).2.2.2
    rw [show s.strand s.cur.core s.cur.slot = s.me from rfl, Strand.follows, lead] at follows
    exact absurd follows (by decide)
  have led : (s.strand s.cur.core s.cur.slot).fl = .lead := lead
  have left : s.unlead s.cur.core s.cur.slot (s.me.pc + 4) = (s.detachAll s.cur.core (s.me.pc + 4)).modMe unled := by
    rw [State.unlead, led, State.modMe, cur_detachAll]
    rfl
  have run : exec .unfollow s = .next ((s.detachAll s.cur.core (s.me.pc + 4)).modMe fun t =>
      (unled t).retire ((unled t).pc + 4)) := by
    rw [exec_unfollow general runs, left, State.advance, State.modMe_modMe]
  have me : (s.detachAll s.cur.core (s.me.pc + 4)).me = s.me := by
    rw [State.me, cur_detachAll, strand_detachAll, if_neg notFollower]
    rfl
  refine ⟨_, run, ?_, fun c n lt cluster slot follower => ?_⟩
  · rw [State.me_modMe, me]
    exact Strand.retire_of_outs_nil (t := unled s.me) quiet _
  · have other : ¬(c = s.cur.core ∧ n = s.cur.slot) := by
      rintro ⟨rfl, rfl⟩
      exact absurd (follower.symm.trans lead) (by decide)
    have follows : (c, n) ∈ s.followers (clusterOf s.cur.core) :=
      mem_followers.mpr ⟨lt, cluster, slot, (follows_iff _).mpr (.inl follower)⟩
    rw [State.modMe, cur_detachAll, State.strand_modStrand_ne _ _ other, strand_detachAll, if_pos follows,
      detached_of_follower follower]

/-! In time. -/

/-- The only slot that passes a test is the one found. -/
theorem find?_allSlots {p : Nat → Bool} {n : Nat} (slot : n < 19) (hp : p n = true) (others : ∀ m, m ≠ n → p m = false) :
    allSlots.find? p = some n :=
  lowest_eq_some.mpr ⟨hp, slot, fun m lt => others m (Nat.ne_of_lt lt)⟩

theorem exec_followerDetach {s : State} {c n : Nat} (slot : n < 19) (others : ∀ m, m ≠ n → (s.strand c m).fl = .none)
    (follows : (s.strand c n).follows = true) (age : 64 ≤ (s.strand c n).age) :
    exec (.followerDetach c) s =
      .next (s.setStrand c n (detached (s.strand c n) (s.strand c n).pc (leadRest s c n))) := by
  show execFollowerDetach c s = _
  rw [execFollowerDetach, find?_allSlots slot (by simp [follows, age]) fun m h => by simp [Strand.follows, others m h]]
  exact congrArg _ (detach_eq ..)

theorem exec_followTimeout {s : State} {c n : Nat} (slot : n < 19) (others : ∀ m, m ≠ n → (s.strand c m).fl = .none)
    (waits : (s.strand c n).fl = .waitLead) (age : 4096 ≤ (s.strand c n).age) :
    exec (.followTimeout c) s =
      .next (s.setStrand c n (detached (s.strand c n) (s.strand c n).pc (leadRest s c n))) := by
  show execFollowTimeout c s = _
  rw [execFollowTimeout, find?_allSlots slot (by simp [waits, age]) fun m h => by simp [others m h]]
  exact congrArg _ (detach_eq ..)

/-- 03 R63, R64, 09 R179: FOLLOW, UNFOLLOW, and followers that detach in time. -/
theorem leadStreams : Claims.LeadStreams := by
  refine ⟨fun s _ special => exec_follow_of_special special, fun s quiet general runs alone => ⟨?_, ?_⟩,
    fun s quiet general runs lead => unfollow_of_lead quiet general runs lead,
    fun s c n slot others => ⟨fun follower age => ?_, fun owes age => ?_, fun waits age => ?_⟩⟩
  · rw [exec_follow_of_alone general runs alone, advance_of_quiet quiet]
  · exact exec_unfollow_of_alone general runs alone
  · rw [exec_followerDetach slot others ((follows_iff _).mpr (.inl follower)) age, detached_of_follower follower]
  · rw [exec_followerDetach slot others ((follows_iff _).mpr (.inr owes)) age, detached_of_owes owes]
  · rw [exec_followTimeout slot others waits age, detached_of_waitLead waits]

/-- Settles O19: RPT by its checks in order, the streams by what a detached follower is. -/
theorem streams : Obligations.Streams := ⟨replays, leadStreams⟩

end Sys2Proof.Scheduling
end

section
/-!
PROOF. Memories in canonical form: each operation of the state keeps them. Every lemma takes the state from its goal, so that
what an instruction builds from operations is proved by their lemmas, named from the outside in.
-/

open Sys2Proof Sys2Proof.Machine Sys2Proof.Claims

namespace Sys2Proof.Memories

/-- DRAM with the save store, and the scratch of every core, in canonical form. -/
def CanonicalIn (m : Memory) (ks : Tab Core) : Prop := m.wf = true ∧ ∀ x ∈ ks, x.2.scratch.wf = true

/-- The memories of a state are in canonical form: only DRAM and the cores matter. -/
def Canonical (s : State) : Prop := CanonicalIn s.mem s.cores

theorem canonical_iff (s : State) : Canonical s ↔ s.MemoriesWf := Iff.rfl

/-- Whatever a read or a write answers. -/
def CanonicalGot {α : Type} : Got α → Prop
  | .ok s _ | .bad s _ | .invalid s _ _ => Canonical s

/-- Whatever an operation answers that may stop: `p` and `q` say where the state stands in its answers. -/
def CanonicalExcept {ε α : Type} (p : ε → State) (q : α → State) : Except ε α → Prop
  | .ok x => Canonical (q x)
  | .error e => Canonical (p e)

/-- Whatever an operation answers that may find nothing to do. -/
def CanonicalOption {α : Type} (p : α → State) : Option α → Prop
  | some x => Canonical (p x)
  | none => True

/-- Whatever an instruction answers. -/
def CanonicalRes : Res → Prop
  | .next s => Canonical s
  | .fault _ | .refused _ => True

/-- Whatever comes of a part of a posted store. -/
def CanonicalFate : Fate → Prop
  | .done s => Canonical s
  | .refused _ | .waits => True

/-- Whatever comes of trying to execute a command. -/
def CanonicalAttempt : Attempt → Prop
  | .done s | .stuck s => Canonical s

section Answers

variable {α ε : Type} {s t : State} {x : α} {y : ε} {p : ε → State} {q : α → State}

theorem CanonicalGot.ok {g : Got α} (h : CanonicalGot g) (eq : g = .ok t x) : Canonical t := by
  subst eq
  exact h

theorem CanonicalGot.bad {g : Got α} {c : BitVec 8} (h : CanonicalGot g) (eq : g = .bad t c) : Canonical t := by
  subst eq
  exact h

theorem CanonicalGot.invalid {g : Got α} {e : Nat} {p : Bool} (h : CanonicalGot g) (eq : g = .invalid t e p) :
    Canonical t := by
  subst eq
  exact h

theorem CanonicalExcept.ok {w : Except ε α} (h : CanonicalExcept p q w) (eq : w = .ok x) : Canonical (q x) := by
  subst eq
  exact h

theorem CanonicalExcept.error {w : Except ε α} (h : CanonicalExcept p q w) (eq : w = .error y) : Canonical (p y) := by
  subst eq
  exact h

theorem CanonicalOption.some {o : Option α} (h : CanonicalOption q o) (eq : o = .some x) : Canonical (q x) := by
  subst eq
  exact h

theorem CanonicalRes.next {r : Res} (h : CanonicalRes r) (eq : r = .next t) : Canonical t := by
  subst eq
  exact h

theorem CanonicalFate.done {f : Fate} (h : CanonicalFate f) (eq : f = .done t) : Canonical t := by
  subst eq
  exact h

theorem CanonicalAttempt.done {f : Attempt} (h : CanonicalAttempt f) (eq : f = .done t) : Canonical t := by
  subst eq
  exact h

theorem CanonicalAttempt.stuck {f : Attempt} (h : CanonicalAttempt f) (eq : f = .stuck t) : Canonical t := by
  subst eq
  exact h

/-- The state of an answer that is a pair. -/
theorem Canonical.fst {p : State × α} (eq : p = (t, x)) (h : Canonical p.1) : Canonical t := by
  subst eq
  exact h

end Answers

namespace Canonical

variable {s t : State} {c n d off va pa lo hi entry m : Nat} {j job : BitVec 16} {ag : Agent} {a w v pc : Word} {bs : List Byte}
  {f : Core → Core} {cause : BitVec 8} {ty : PageTy} {m0 : Memory} {err abrupt p rd : Bool} {i : TrapInfo} {l : Line}

/-- Other parts of the state do not matter. -/
theorem upd {cur agenda split free serial cores mem pois written scfill priv writer xlates dropped accs wreqs wales
    mails packets ctrs moves preempts waits scheds weavers islands jobs hoods ports corrections device seals spills backs
    sealedAt acks milliner brim events sent} (h : CanonicalIn mem cores) :
    Canonical ⟨cur, agenda, split, free, serial, cores, mem, pois, written, scfill, priv, writer, xlates, dropped, accs,
      wreqs, wales, mails, packets, ctrs, moves, preempts, waits, scheds, weavers, islands, jobs, hoods, ports, corrections,
      device, seals, spills, backs, sealedAt, acks, milliner, brim, events, sent⟩ := h

theorem ite {p : Prop} [Decidable p] (hs : Canonical s) (ht : Canonical t) : Canonical (if p then s else t) := by
  split <;> assumption

/-- What each step of a fold keeps, the fold keeps. -/
theorem foldl {β : Type} {f : State → β → State} {l : List β} (h : Canonical s)
    (hf : ∀ {t x}, Canonical t → Canonical (f t x)) : Canonical (l.foldl f s) := foldl_keeps (fun _ _ => hf) l h

theorem core (h : Canonical s) : (s.core c).scratch.wf = true :=
  (s.core_scratch_mem c).elim (fun e => e ▸ rfl) fun ⟨y, hy, e⟩ => e ▸ h.2 y hy

/-- A core is replaced by one whose scratch is in canonical form. -/
theorem setCore {k : Core} (h : Canonical s) (hk : k.scratch.wf = true) : Canonical (s.setCore c k) :=
  ⟨h.1, fun x hx => (Tab.mem_put hx).elim (fun e => e ▸ hk) (h.2 x)⟩

/-- A change of a core that keeps its scratch in canonical form. -/
theorem modCore (h : Canonical s) (hf : ∀ k : Core, k.scratch.wf = true → (f k).scratch.wf = true) :
    Canonical (s.modCore c f) := setCore h (hf _ (core h))

/-- A change of a core that leaves its scratch. -/
theorem modCore_of_scratch (h : Canonical s) (hf : ∀ k : Core, (f k).scratch = k.scratch) : Canonical (s.modCore c f) :=
  modCore h fun k hk => hf k ▸ hk

theorem modMine (h : Canonical s) (hf : ∀ k : Core, k.scratch.wf = true → (f k).scratch.wf = true) :
    Canonical (s.modMine f) := modCore h hf

theorem modMine_of_scratch (h : Canonical s) (hf : ∀ k : Core, (f k).scratch = k.scratch) : Canonical (s.modMine f) :=
  modCore_of_scratch h hf

/-- Every core is changed by a function that leaves its scratch. -/
theorem mapCores {m : Memory} {ks : Tab Core} {f : Nat × Core → Core} (h : CanonicalIn m ks)
    (hf : ∀ x, (f x).scratch = x.2.scratch) : CanonicalIn m (ks.map fun x => (x.1, f x)) := by
  refine ⟨h.1, fun x hx => ?_⟩
  obtain ⟨y, hy, rfl⟩ := List.mem_map.mp hx
  exact hf y ▸ h.2 y hy

/-- Bytes are written in DRAM or the save store. -/
theorem putBytes {m : Memory} {ks : Tab Core} (h : CanonicalIn m ks) : CanonicalIn (m.putBytes n bs) ks :=
  ⟨Memory.wf_putBytes h.1 n bs, h.2⟩

/-! Strands. -/

section Strands

variable {f : Strand → Strand} {x : Strand} {r : GReg} {la : La} {wt : Wait} {pk : Park}

theorem setStrand (h : Canonical s) : Canonical (s.setStrand c n x) := setCore h (core h)
theorem modStrand (h : Canonical s) : Canonical (s.modStrand c n f) := setStrand h
theorem modMe (h : Canonical s) : Canonical (s.modMe f) := modStrand h
theorem goto (h : Canonical s) : Canonical (s.goto pc) := modMe h
theorem advance (h : Canonical s) : Canonical s.advance := modMe h
theorem write (h : Canonical s) : Canonical (s.write r v) := modMe h
theorem writeLate (h : Canonical s) : Canonical (s.writeLate r v la) := modMe h
theorem block (h : Canonical s) : Canonical s.block := modMe h
theorem await (h : Canonical s) : Canonical (s.await wt) := modMe h
theorem park (h : Canonical s) : Canonical (s.park pk) := modMe h

end Strands

/-! Parts that hold no memory. -/

theorem modIsland {f : Island → Island} (h : Canonical s) : Canonical (s.modIsland n f) := h
theorem modHoods {p : Hood → Bool} {f : Hood → Hood} (h : Canonical s) : Canonical (s.modHoods p f) := h
theorem modSched {f : Sched → Sched} (h : Canonical s) : Canonical (s.modSched n f) := h
theorem modWeaver {f : Weaver → Weaver} (h : Canonical s) : Canonical (s.modWeaver n f) := h
theorem modPort {f : Port → Port} (h : Canonical s) : Canonical (s.modPort n f) := h
theorem send {x : Sent} (h : Canonical s) : Canonical (s.send x) := h
theorem tell {e : SupEvent} (h : Canonical s) : Canonical (s.tell e) := h
theorem packet {f : Flit} (h : Canonical s) : Canonical (s.packet j c d f) := h
theorem useFree (h : Canonical s) : Canonical s.useFree := h
theorem modJob {f : Job → Job} (h : Canonical s) : Canonical (s.modJob j f) := (Silent.modJob ..).keeps h

theorem heard {f : State → State} (h : Canonical s) (hf : ∀ {t : State}, Canonical t → Canonical (f t)) : Canonical (s.heard f) :=
  ite h (hf h)

/-! Homes and the L1. -/

theorem wakeAll (h : Canonical s) : Canonical (s.wakeAll m0 lo n) := (Silent.wakeAll ..).keeps h
theorem updateSharers (h : Canonical s) : Canonical (s.updateSharers pa bs) := (Silent.updateSharers ..).keeps h
theorem homePut (h : Canonical s) : Canonical (s.homePut j pa bs) := State.MemoriesWf.homePut h ..
theorem homeWrite (h : Canonical s) : Canonical (s.homeWrite j pa bs) := State.MemoriesWf.homeWrite h ..
theorem merge (h : Canonical s) : Canonical (s.merge n) := h
theorem mergeRange (h : Canonical s) : Canonical (s.mergeRange lo hi) := h
theorem woMark (h : Canonical s) : Canonical (s.woMark pa n) := h
theorem woClear (h : Canonical s) : Canonical (s.woClear lo hi) := h
theorem writeBackLine (h : Canonical s) : Canonical (s.writeBackLine c l) := State.MemoriesWf.writeBackLine h ..
theorem dropLines {p : Line → Bool} (h : Canonical s) : Canonical (s.dropLines c p) := State.MemoriesWf.dropLines h ..
theorem dropAllLines {p : Line → Bool} (h : Canonical s) : Canonical (s.dropAllLines p) := State.MemoriesWf.dropAllLines h p
theorem invalidateRc (h : Canonical s) : Canonical (s.invalidateRc c) := (Silent.invalidateRc ..).keeps h
theorem fill {ver : BitVec 16} (h : Canonical s) : Canonical (s.fill c j va pa ty ver rd) := State.MemoriesWf.fill h ..
theorem scrWrite (h : Canonical s) : Canonical (s.scrWrite c off bs) := State.MemoriesWf.scrWrite h ..

/-! Streams, counters, the end of a strand. -/

section Counters

variable {lv : Level}

theorem detach (h : Canonical s) : Canonical (s.detach c n pc) := (Silent.detach ..).keeps h
theorem detachAll (h : Canonical s) : Canonical (s.detachAll c pc) := (Silent.detachAll ..).keeps h
theorem unlead (h : Canonical s) : Canonical (s.unlead c n pc) := (Silent.unlead ..).keeps h
theorem releaseHold (h : Canonical s) : Canonical (s.releaseHold c) := (Silent.releaseHold ..).keeps h
theorem wakeJoins (h : Canonical s) : Canonical (s.wakeJoins job lv n w) := (Silent.wakeJoins ..).keeps h
theorem jobDec (h : Canonical s) : Canonical (s.jobDec job err) := (Silent.jobDec ..).keeps h
theorem phaseDec (h : Canonical s) : Canonical (s.phaseDec job n err) := (Silent.phaseDec ..).keeps h
theorem freeLaunches (h : Canonical s) : Canonical (s.freeLaunches job n) := (Silent.freeLaunches ..).keeps h
theorem graphDec (h : Canonical s) : Canonical (s.graphDec job n err) := (Silent.graphDec ..).keeps h
theorem lapseArms (h : Canonical s) : Canonical (s.lapseArms job n) := (Silent.lapseArms ..).keeps h
theorem launchDec (h : Canonical s) : Canonical (s.launchDec job n m err) := (Silent.launchDec ..).keeps h
theorem launchInc (h : Canonical s) : Canonical (s.launchInc job n).1 := (Silent.launchInc ..).keeps h
theorem sendDec (h : Canonical s) : Canonical (s.sendDec job n err) := (Silent.sendDec ..).keeps h
theorem markErr (h : Canonical s) : Canonical (s.markErr job n) := (Silent.markErr ..).keeps h
theorem dropUntranslated (h : Canonical s) : Canonical (s.dropUntranslated c n) := h
theorem flushBanks (h : Canonical s) : Canonical (s.flushBanks c n) := State.MemoriesWf.flushBanks h ..
theorem endStrand (h : Canonical s) : Canonical (s.endStrand c n err abrupt) := State.MemoriesWf.endStrand h ..

end Counters

/-! Traps. -/

theorem takeTrap (h : Canonical s) : Canonical (s.takeTrap c n i pc) := State.MemoriesWf.takeTrap h ..
theorem trap (h : Canonical s) : Canonical (s.trap cause a) := State.MemoriesWf.trap h ..
theorem trapPc (h : Canonical s) : Canonical (s.trapPc cause) := trap h
theorem raise (h : Canonical s) : Canonical (s.raise c n i) := modStrand h
theorem takeAsync (h : Canonical s) : Canonical (s.takeAsync c n) := State.MemoriesWf.takeAsync h ..
theorem eret (h : Canonical s) : Canonical s.eret := State.MemoriesWf.eret h
theorem invalidAt (h : Canonical s) : Canonical (s.invalidAt entry p a) := State.MemoriesWf.invalidAt h ..
theorem land {e : Stop} (h : Canonical s) : Canonical (e.land s) := State.MemoriesWf.land h e

/-- An access lands: a trap or a wait where it fails, else what its answer is for. -/
theorem gotLand {α : Type} {g : Got α} {k : State → α → State} (h : CanonicalGot g)
    (hk : ∀ {t x}, Canonical t → Canonical (k t x)) : Canonical (g.land a k) := by
  cases g with
  | ok => exact hk h
  | bad => exact trap h
  | invalid => exact invalidAt h

end Canonical

end Sys2Proof.Memories
end

section
/-!
PROOF. Memories in canonical form: translation, reads and writes of every space, cancellation and the fetch keep them.
-/

open Sys2Proof Sys2Proof.Machine Sys2Proof.Claims

namespace Sys2Proof.Memories.Canonical

/-! What a core's own operations do to its scratch. -/

theorem takeIn_scratch {k : Core} {vn : Bool} {r : Rec} : (k.takeIn vn r).scratch = k.scratch := by
  unfold Core.takeIn
  dsimp only
  split <;> rfl

theorem refillBox_scratch {vn : Bool} {n : Nat} {k : Core} : (Core.refillBox vn n k).scratch = k.scratch := by
  induction n generalizing k with
  | zero => rfl
  | succ n ih =>
    unfold Core.refillBox
    split
    · rfl
    · split
      · rfl
      · exact ih.trans takeIn_scratch

theorem forget_scratch {k : Core} {n : Nat} : (k.forget n).scratch = k.scratch := Core.forget_scratch ..

theorem unbind_scratch {k : Core} {n : Nat} : (k.unbind n).scratch = k.scratch := Core.unbind_scratch ..

theorem unbindAll_scratch {k : Core} {n : Nat} : (k.unbindAll n).scratch = k.scratch := Core.unbindAll_scratch ..

theorem freePorts_scratch {k : Core} : k.freePorts.scratch = k.scratch := unbindAll_scratch

theorem grantLease_scratch {k : Core} : k.grantLease.scratch = k.scratch := Core.grantLease_scratch ..

theorem refill_scratch {k : Core} {vn : Bool} : (k.refill vn).scratch = k.scratch := refillBox_scratch

/-- Bytes that go leave the canonical form. -/
theorem wf_filter {m : Memory} {p : Host.Cell → Bool} (h : m.wf = true) : Memory.wf (m.filter p) = true := by
  rw [Memory.wf_iff] at h ⊢
  exact ⟨fun x hx => h.1 x (List.mem_filter.mp hx).1, h.2.filter _⟩

theorem getD {s : State} {o : Option State} (ho : CanonicalOption id o) (h : Canonical s) : Canonical (o.getD s) := by
  cases o with
  | none => exact h
  | some => exact ho

/-! Reads and writes of memory, cancellation, fetching. -/

theorem wake1 {s : State} {m0 : Memory} {lo n : Nat} {w : Bool × Nat × Nat × Nat} (h : Canonical s) :
    Canonical (State.wake1 m0 lo n s w) := by
  unfold State.wake1
  dsimp only
  refine ite (ite (ite (setStrand (upd h)) (upd h)) h) (ite ?_ h)
  split
  · exact ite (setStrand (upd h)) h
  · exact h

theorem privAccess {s : State} {t pa n : Nat} {store : Bool} (h : Canonical s) : Canonical (s.privAccess t pa n store) := by
  unfold State.privAccess
  dsimp only
  exact ite (upd (ite (merge h) h)) (ite (merge h) h)

theorem l1Fill {s : State} {c : Nat} {l : Line} (h : Canonical s) : Canonical (s.l1Fill c l) := by
  unfold State.l1Fill
  dsimp only
  split
  · exact modCore_of_scratch h fun _ => rfl
  · split
    · exact modCore_of_scratch (writeBackLine (useFree h)) fun _ => rfl
    · exact h

theorem storedAll {s : State} {c : Nat} {pas offs : List (Nat × Nat)} (h : Canonical s) :
    Canonical (s.storedAll c pas offs) := by
  unfold State.storedAll
  dsimp only
  exact ite h (upd (modCore_of_scratch h fun _ => rfl))

theorem translate {s : State} {ag : Agent} {va : Nat} {nd : Need} (h : Canonical s) :
    Canonical (s.translate ag va nd).1 := by
  unfold State.translate
  dsimp only
  split
  · exact h
  · split
    · exact h
    · split
      · exact h
      · split
        · exact h
        · split
          · exact h
          · exact upd h

theorem outside {s : State} {ag : Agent} {a : Word} {n : Nat} {k : AccKind} (h : Canonical s) :
    CanonicalGot (s.outside ag a n k) := by
  unfold State.outside
  dsimp only
  split <;> exact useFree (send h)

theorem outsideWrite {s : State} {ag : Agent} {a : Word} {bs : List Byte} (h : Canonical s) :
    CanonicalGot (s.outsideWrite ag a bs) := by
  unfold State.outsideWrite
  split
  · next eq => exact (outside h).ok eq
  · next eq => exact (outside h).bad eq
  · next eq => exact (outside h).invalid eq

theorem readVirt_go {s : State} {ag : Agent} {va n : Nat} {via : Via} (h : Canonical s) :
    CanonicalGot (State.readVirt.go ag va n via s) := by
  unfold State.readVirt.go
  dsimp only
  split
  · next eq => exact fst eq (translate h)
  · next eq => exact fst eq (translate h)
  · next s1 _ _ _ _ _ _ eq =>
      have h1 : Canonical s1 := fst eq (translate h)
      split
      · exact ite (privAccess h1) h1
      · exact ite (fill (ite (privAccess h1) h1)) (ite (privAccess h1) h1)

theorem readVirt {s : State} {ag : Agent} {va n : Nat} {via : Via} (h : Canonical s) :
    CanonicalGot (s.readVirt ag va n via) := by
  unfold State.readVirt
  split
  · split
    · split <;> exact h
    · exact readVirt_go h
  · exact readVirt_go h

theorem readBank {s : State} {ag : Agent} {c off n : Nat} (h : Canonical s) : CanonicalGot (s.readBank ag c off n) := by
  unfold State.readBank
  dsimp only
  split
  · exact h
  · split
    · exact h
    · split <;> exact h

theorem readAt {s : State} {ag : Agent} {a : Word} {n : Nat} {via : Via} (h : Canonical s) :
    CanonicalGot (s.readAt ag a n via) := by
  unfold State.readAt
  split
  · exact h
  · split
    · exact h
    · split
      · exact readVirt h
      · exact readBank h
      · exact outside h
      · exact outside h
      · split <;> exact h

theorem writeBank {s : State} {ag : Agent} {c off : Nat} {bs : List Byte} (h : Canonical s) :
    CanonicalGot (s.writeBank ag c off bs) := by
  unfold State.writeBank
  dsimp only
  split
  · exact h
  · split
    · exact h
    · exact scrWrite h

theorem writeWo {s : State} {ag : Agent} {pa : Nat} {isSealed : Bool} {bs : List Byte} (h : Canonical s) :
    CanonicalGot (s.writeWo ag pa isSealed bs) := by
  unfold State.writeWo
  split
  · exact h
  · split
    · exact h
    · exact homeWrite (woMark h)

theorem writeHome_own {s : State} {ag : Agent} {va : Nat} {bs : List Byte} {viaL1 : Bool} (h : Canonical s) :
    Canonical (State.writeHome.own ag va bs viaL1 s) := by
  unfold State.writeHome.own
  split
  · exact ite (modCore_of_scratch h fun _ => rfl) h
  · exact h

theorem writeHome {s : State} {ag : Agent} {va pa : Nat} {ty : PageTy} {bs : List Byte} {viaL1 : Bool} (h : Canonical s) :
    Canonical (s.writeHome ag va pa ty bs viaL1) := by
  have filled : Canonical (if viaL1 then s.fill ag.core ag.job va pa .ip 0 (s.readable ag va) else s) := ite (fill h) h
  unfold State.writeHome
  cases ty with
  | rc => exact writeHome_own (homeWrite (privAccess h))
  | ip =>
    dsimp only
    split
    · exact wakeAll (modCore_of_scratch filled fun _ => rfl)
    · exact homeWrite filled
  | sc => exact writeHome_own (homeWrite h)
  | wo => exact homeWrite h

theorem writeVirt {s : State} {ag : Agent} {va : Nat} {bs : List Byte} {viaL1 : Bool} (h : Canonical s) :
    CanonicalGot (s.writeVirt ag va bs viaL1) := by
  unfold State.writeVirt
  split
  · next eq => exact fst eq (translate h)
  · next eq => exact fst eq (translate h)
  · next eq =>
      split
      · exact writeWo (fst eq (translate h))
      · exact writeHome (fst eq (translate h))

theorem collWrite {s : State} {job : BitVec 16} {k off : Nat} {bs : List Byte} (h : Canonical s) :
    Canonical (s.collWrite job k off bs) := by
  unfold State.collWrite
  dsimp only
  exact modJob h

theorem writeAt {s : State} {ag : Agent} {a : Word} {bs : List Byte} {viaL1 : Bool} (h : Canonical s) :
    CanonicalGot (s.writeAt ag a bs viaL1) := by
  unfold State.writeAt
  split
  · exact h
  · split
    · exact h
    · split
      · exact writeVirt h
      · exact writeBank h
      · split
        · exact collWrite h
        · exact outsideWrite h
      · exact outsideWrite h
      · exact homeWrite h

theorem readWords {s : State} {ag : Agent} {via : Via} {a : Word} {n : Nat} (h : Canonical s) :
    CanonicalExcept Prod.fst Prod.fst (s.readWords ag via a n) := by
  induction n generalizing s a with
  | zero => exact h
  | succ n ih =>
    unfold State.readWords
    split
    · next eq => exact (readAt h).bad eq
    · next eq => exact (readAt h).invalid eq
    · next s1 _ eq =>
        have h1 := ih (a := a + 8) ((readAt h).ok eq)
        split
        · next eq1 => exact h1.error eq1
        · next s2 _ eq1 =>
            have h2 : Canonical s2 := h1.ok eq1
            exact h2

theorem markCanc {s : State} {job : BitVec 16} {lv : Level} {n : Nat} (h : Canonical s) : Canonical (s.markCanc job lv n)
    := by
  unfold State.markCanc
  split
  · exact ite h (modJob h)
  · exact h

theorem wakeWale {s : State} {i : Nat} (h : Canonical s) : Canonical (s.wakeWale i) := by
  unfold State.wakeWale
  dsimp only
  refine upd (mapCores h fun _ => ?_)
  split <;> exact rfl

theorem dropTile {s : State} {i : Nat} {code : BitVec 8} (h : Canonical s) : Canonical (s.dropTile i code) := by
  unfold State.dropTile
  dsimp only
  refine wakeWale ?_
  split
  · exact packet (upd h)
  · exact upd h

theorem dropRecords {s : State} {job : BitVec 16} {lid : Nat} (h : Canonical s) : Canonical (s.dropRecords job lid) := by
  unfold State.dropRecords
  dsimp only
  exact ite (upd (mapCores h fun _ => rfl)) (launchDec (upd (mapCores h fun _ => rfl)))

theorem dropTiles {s : State} {job : BitVec 16} {p : Wale → Bool} (h : Canonical s) : Canonical (s.dropTiles job p) := by
  unfold State.dropTiles
  exact foldl h fun ht => dropTile ht

theorem dropEntry {s : State} {job : BitVec 16} {lid : Nat} (h : Canonical s) : Canonical (s.dropEntry job lid) := by
  unfold State.dropEntry
  exact modJob h

theorem cancelLaunch {s : State} {job : BitVec 16} {lid : Nat} (h : Canonical s) : Canonical (s.cancelLaunch job lid) := by
  unfold State.cancelLaunch
  dsimp only
  split
  · exact h
  · refine ite (foldl (dropTiles (dropRecords ?_)) fun ht => endStrand ht) h
    split
    · exact launchDec (dropEntry (lapseArms (markCanc h)))
    · exact lapseArms (markCanc h)

theorem cancelGraph {s : State} {job : BitVec 16} {g : Nat} (h : Canonical s) : Canonical (s.cancelGraph job g) := by
  unfold State.cancelGraph
  dsimp only
  split
  · exact ite (foldl (dropTiles (markCanc h)) fun ht => cancelLaunch ht) h
  · exact h

theorem cancelUnder {s : State} {job : BitVec 16} {p : Nat} (h : Canonical s) : Canonical (s.cancelUnder job p) := by
  unfold State.cancelUnder
  exact foldl (dropTiles h) fun ht => cancelGraph ht

theorem cancelPhase {s : State} {job : BitVec 16} {p : Nat} (h : Canonical s) : Canonical (s.cancelPhase job p) := by
  unfold State.cancelPhase
  split
  · exact ite (cancelUnder (markCanc h)) h
  · exact h

theorem modColl {s : State} {job : BitVec 16} {c : Nat} {f : Coll → Coll} (h : Canonical s) : Canonical (s.modColl job c f)
    := by
  unfold State.modColl
  exact modJob h

theorem failGen {s : State} {job : BitVec 16} {c : Nat} {code : BitVec 8} (h : Canonical s) :
    Canonical (s.failGen job c code) := by
  unfold State.failGen
  dsimp only
  split
  · exact h
  · exact packet (modColl h)

theorem breakColl {s : State} {job : BitVec 16} {c : Nat} (h : Canonical s) : Canonical (s.breakColl job c) := by
  unfold State.breakColl
  split
  · exact ite h (failGen (modColl h))
  · exact h

theorem loseMember {s : State} {job : BitVec 16} {c : Nat} (h : Canonical s) : Canonical (s.loseMember job c) := by
  unfold State.loseMember
  split
  · exact breakColl (send h)
  · exact h

theorem cancelUnit {s : State} {job : BitVec 16} {lv : Level} {n : Nat} (h : Canonical s) :
    Canonical (s.cancelUnit job lv n) := by
  unfold State.cancelUnit
  dsimp only
  split
  · exact cancelLaunch h
  · exact cancelGraph h
  · exact cancelPhase h
  · split
    · exact ite h (foldl (foldl (dropTiles (markCanc h)) fun ht => cancelPhase ht) fun ht => loseMember ht)
    · exact h

theorem fetch {s : State} {ag : Agent} {pc : Word} (h : Canonical s) : CanonicalGot (s.fetch ag pc) := by
  unfold State.fetch
  dsimp only
  split
  · exact h
  · split <;> exact h
  · split
    · next eq2 => exact fst eq2 (translate h)
    · next eq2 => exact fst eq2 (translate h)
    · next eq2 =>
        split
        · exact fst eq2 (translate h)
        · split <;> exact ite (privAccess (fst eq2 (translate h))) (fst eq2 (translate h))
  · exact h

theorem fetchWords {s : State} {ag : Agent} {pc : Word} {n : Nat} (h : Canonical s) :
    CanonicalExcept Prod.fst Prod.fst (s.fetchWords ag pc n) := by
  induction n generalizing s pc with
  | zero => exact h
  | succ n ih =>
    unfold State.fetchWords
    split
    · next eq => exact (fetch h).bad eq
    · next eq => exact (fetch h).invalid eq
    · next s1 _ eq =>
        have h1 := ih (pc := pc + 4) ((fetch h).ok eq)
        split
        · next eq1 => exact h1.error eq1
        · next s2 _ eq1 =>
            have h2 : Canonical s2 := h1.ok eq1
            exact h2


end Sys2Proof.Memories.Canonical
end

section
/-!
PROOF. Memories in canonical form: control flow, loads and stores, atomics, accesses in flight, barriers and bit accesses keep them.
-/

open Sys2Proof Sys2Proof.Machine Sys2Proof.Claims

namespace Sys2Proof.Memories.Canonical

theorem branch {s : State} {cond : Bool} {p : BitVec 18} (h : Canonical s) : Canonical (s.branch cond p) := by
  unfold State.branch
  exact goto h

theorem link {s : State} {t : Word} (h : Canonical s) : Canonical (s.link t) := by
  unfold State.link
  exact modMe h

theorem exec_rpt {s : State} {len : Fin 16} {a : GReg} {sd sa sb : Fin 32} (h : Canonical s) :
    CanonicalRes (execRpt len a sd sa sb s) := by
  unfold execRpt
  dsimp only
  split
  · next eq => exact land ((fetchWords h).error eq)
  · next eq =>
      exact ite (trapPc ((fetchWords h).ok eq)) (ite (trapPc ((fetchWords h).ok eq)) (ite (goto ((fetchWords h).ok eq))
        (ite (block ((fetchWords h).ok eq)) (ite (goto ((fetchWords h).ok eq)) (modMine_of_scratch (goto
        ((fetchWords h).ok eq)) fun _ => rfl)))))

theorem exec_follow {s : State} (h : Canonical s) : CanonicalRes (execFollow s) := by
  unfold execFollow
  dsimp only
  exact ite (trapPc h) (ite (advance h) (ite (ite (advance h) (modMe (advance h))) (ite (advance h) (modMe (advance h)))))

theorem vec {s : State} {f : Strand → Strand} (h : Canonical s) : CanonicalRes (s.vec f) := by
  unfold State.vec
  exact ite (modMe h) (trapPc h)

theorem startMove {s : State} {c n dst : Nat} {hint : Bool} (h : Canonical s) : Canonical (s.startMove c n dst hint) := by
  unfold State.startMove
  dsimp only
  exact upd (modStrand (unlead h))

theorem words {s : State} {a : Word} {n : Nat} (h : Canonical s) : CanonicalExcept id Prod.fst (s.words a n) := by
  have h1 := readWords (ag := s.agent) (via := .strand) (a := a) (n := n) h
  unfold State.words
  split
  · next eq => exact land (h1.error eq)
  · next x eq =>
      split
      · exact block h
      · exact (h1.ok eq : Canonical x.1)

theorem released {s : State} {sc : Scope} (h : Canonical s) : Canonical (s.released sc) := by
  unfold State.released
  exact ite h (upd h)

theorem fenced {s : State} {sc : Scope} (h : Canonical s) : Canonical (s.fenced sc) := by
  unfold State.fenced
  exact modMe h

theorem relDone {s : State} (h : Canonical s) : Canonical s.relDone := by
  unfold State.relDone
  split
  · exact modMe (released h)
  · exact h

theorem acquired {s : State} {acq : Bool} {sc : Scope} (h : Canonical s) : Canonical (s.acquired acq sc) := by
  unfold State.acquired
  exact ite (invalidateRc h) h

theorem waitAt {s : State} {a : Word} {sp : Space} {nd : Need} (h : Canonical s) : Canonical (s.waitAt a sp nd) := by
  unfold State.waitAt
  split
  · split
    · exact trap h
    · exact invalidAt h
    · exact ite (trap h) (block h)
  · exact block h

theorem depart {s : State} {k : AccKind} {a : Word} {size : Nat} {o : AmOrd} {sc : Scope} {st : Stage} (h : Canonical s) :
    Canonical (s.depart k a size o sc st).1 := by
  unfold State.depart
  dsimp only
  exact ite (send (upd h)) (upd h)

theorem loadFrom {s : State} {sgn : Bool} {size : Nat} {d : GReg} {o : LdOrd} {sc : Scope} {l : La} {a : Word} {sp : Space}
    (h : Canonical s) :
    Canonical (s.loadFrom sgn size d o sc l a sp) := by
  unfold State.loadFrom
  dsimp only
  exact ite (modMe (depart h)) (gotLand (readAt h) fun ht => writeLate (acquired ht))

theorem load {s : State} {sgn : Bool} {size : Nat} {d b : GReg} {o : LdOrd} {sc : Scope} {l : La} {disp : BitVec 6}
    (h : Canonical s) :
    Canonical (s.load sgn size d b o sc l disp) := by
  unfold State.load
  dsimp only
  split
  · exact trap h
  · refine ite (waitAt h) ?_
    split
    · exact startMove (ite (unlead h) h)
    · exact loadFrom (ite (unlead h) h)

theorem post {s : State} {lanes : List Lane} {sz : BitVec 2} {full : Bool} (h : Canonical s) :
    Canonical (s.post lanes sz full) := by
  unfold State.post
  dsimp only
  split
  · exact block h
  · exact ite (modMe (upd (modMine_of_scratch h fun _ => rfl))) (advance (upd (modMine_of_scratch h fun _ => rfl)))

theorem storeVirt {s : State} {size va : Nat} {v : Word} {a : Word} {full : Bool} (h : Canonical s) :
    Canonical (s.storeVirt size va v a full) := by
  unfold State.storeVirt
  split
  · next eq => exact trap (fst eq (translate h))
  · next eq => exact invalidAt (fst eq (translate h))
  · next eq =>
      exact ite (post (fst eq (translate h))) (ite (block (fst eq (translate h))) (advance (writeHome (fst eq
        (translate h)))))

theorem storeTo {s : State} {size : Nat} {v : Word} {o : StOrd} {sc : Scope} {a : Word} {sp : Space} (h : Canonical s) :
    Canonical (s.storeTo size v o sc a sp) := by
  unfold State.storeTo
  dsimp only
  split
  · exact ite (post h) (ite (modMe (depart h)) (advance (scrWrite h)))
  · exact post h
  · exact post h
  · exact ite (await (depart h)) (storeVirt h)
  · exact ite (modMe (depart h)) (ite (block h) (advance (homeWrite h)))

theorem store {s : State} {size : Nat} {d b : GReg} {o : StOrd} {sc : Scope} {disp : BitVec 6} (h : Canonical s) :
    Canonical (s.store size d b o sc disp) := by
  unfold State.store
  dsimp only
  split
  · exact trap h
  · exact ite (waitAt h) (storeTo (ite (released (relDone h)) (relDone h)))

theorem amoBank {s : State} {ag : Agent} {c off : Nat} {x : Amo} (h : Canonical s) :
    CanonicalGot (s.amoBank ag c off x) := by
  unfold State.amoBank
  split
  · next eq =>
      split
      · exact scrWrite ((readBank h).ok eq)
      · exact (readBank h).ok eq
  · exact readBank h

theorem amoHome {s : State} {j : BitVec 16} {pa : Nat} {x : Amo} (h : Canonical s) : CanonicalGot (s.amoHome j pa x) := by
  unfold State.amoHome
  dsimp only
  split
  · exact h
  · split
    · exact homeWrite h
    · exact h

theorem amoL1 {s : State} {ag : Agent} {va : Nat} (h : Canonical s) : Canonical (s.amoL1 ag va) := by
  unfold State.amoL1
  exact modCore_of_scratch h fun _ => rfl

theorem amoPage {s : State} {ag : Agent} {va pa : Nat} {ty : PageTy} {x : Amo} (h : Canonical s) :
    CanonicalGot (s.amoPage ag va pa ty x) := by
  unfold State.amoPage
  split
  · exact h
  · exact h
  · split
    · next eq => exact amoL1 ((amoHome (privAccess h)).ok eq)
    · exact amoHome (privAccess h)
  · split
    · next eq => exact amoL1 ((amoHome h).ok eq)
    · exact amoHome h

theorem amoAt {s : State} {ag : Agent} {a : Word} {sp : Space} {x : Amo} (h : Canonical s) :
    CanonicalGot (s.amoAt ag a sp x) := by
  unfold State.amoAt
  split
  · exact amoBank h
  · exact outside h
  · exact outside h
  · split
    · exact amoHome h
    · exact h
  · split
    · next eq => exact fst eq (translate h)
    · next eq => exact fst eq (translate h)
    · next eq => exact amoPage (fst eq (translate h))

theorem amo {s : State} {fn : AmoFn} {d a b : GReg} {dw : Bool} {o : AmOrd} {sc : Scope} {l : La} (h : Canonical s) :
    Canonical (s.amo fn d a b dw o sc l) := by
  unfold State.amo
  dsimp only
  split
  · exact trap h
  · exact ite (trap h) (ite (waitAt h) (ite (modMe (depart (ite (released (relDone h)) (relDone h))))
      (gotLand (amoAt (ite (released (relDone h)) (relDone h))) fun ht => writeLate (acquired ht))))

theorem exec_pref {s : State} {a : GReg} {_w : Bool} {c : Scope} {p : BitVec 6} (h : Canonical s) :
    CanonicalRes (execPref a _w c p s) := by
  unfold execPref
  dsimp only
  refine advance ?_
  split
  · refine ite h ?_
    split
    · next eq2 => exact ite (fst eq2 (translate h)) (fill (fst eq2 (translate h)))
    · exact h
  · exact h

theorem exec_flush {s : State} {d a : GReg} {c : Scope} (h : Canonical s) : CanonicalRes (execFlush d a c s) := by
  unfold execFlush
  dsimp only
  refine ite (advance h) ?_
  split
  · exact trap h
  · exact ite (trap h) (await h)
  · exact ite (trap h) (await h)
  · exact trap h

theorem asStrand {s : State} {c n : Nat} {f : State → State} (h : Canonical s)
    (hf : ∀ {t : State}, Canonical t → Canonical (f t)) : Canonical (s.asStrand c n f) := upd (hf (upd h))

theorem dropAcc {s : State} {id : Nat} (h : Canonical s) : Canonical (s.dropAcc id) := by
  unfold State.dropAcc
  exact upd h

theorem rewind {s : State} {c n : Nat} {o : Out} (h : Canonical s) : Canonical (s.rewind c n o) := by
  unfold State.rewind
  dsimp only
  exact modStrand (modCore_of_scratch (dropUntranslated (upd (ite (unlead h) h))) fun _ => forget_scratch)

theorem lateFault {s : State} {c n : Nat} (h : Canonical s) : Canonical (s.lateFault c n) := by
  unfold State.lateFault
  split
  · split
    · exact takeTrap (rewind h)
    · exact h
  · exact h

theorem accDone {s : State} {id : Nat} {a : Access} {v : Option Word} (h : Canonical s) : Canonical (s.accDone id a v) := by
  unfold State.accDone
  exact lateFault (modStrand (dropAcc h))

theorem accFault {s : State} {id : Nat} {a : Access} {code : BitVec 8} (h : Canonical s) :
    Canonical (s.accFault id a code) := by
  unfold State.accFault
  dsimp only
  exact lateFault (modStrand (dropAcc h))

theorem accAcquire {s : State} {a : Access} (h : Canonical s) : Canonical (s.accAcquire a) := by
  unfold State.accAcquire
  exact ite (invalidateRc h) h

theorem gotReply {g : Got Nat} {id : Nat} {a : Access} (h : CanonicalGot g) : Canonical (g.reply id a) := by
  cases g with
  | ok =>
    unfold Got.reply
    dsimp only
    split
    · exact accDone (accAcquire h)
    · exact accDone (accAcquire h)
    · exact accDone h
  | bad => exact accFault h
  | invalid => exact accFault h

theorem storeTranslated {s : State} {id : Nat} {a : Access} {v : Word} {pa : Nat} {ty : PageTy} {shut : Bool} {tag : Nat}
    (h : Canonical s) :
    Canonical (s.storeTranslated id a v pa ty shut tag) := by
  unfold State.storeTranslated
  dsimp only
  exact asStrand h fun ht => ite (post (modMe (dropAcc ht))) (modMe (upd ht))

theorem postMoved {s : State} {id : Nat} {a : Access} {v : Word} {pa : Nat} {shut : Bool} {tag : Nat} (h : Canonical s) :
    Canonical (s.postMoved id a v pa shut tag) := by
  unfold State.postMoved
  dsimp only
  split
  · exact h
  · exact ite (modStrand (modCore_of_scratch (dropAcc h) fun _ => rfl))
      (modStrand (modCore_of_scratch (dropAcc h) fun _ => rfl))

theorem storeRefused {s : State} {id : Nat} {a : Access} {f : State → State} (h : Canonical s)
    (hf : ∀ {t : State}, Canonical t → Canonical (f t)) : Canonical (s.storeRefused id a f) :=
  asStrand h fun ht => hf (modMe (dropAcc ht))

theorem accInvalid {s : State} {id : Nat} {a : Access} {moved : Bool} {entry : Nat} {v0 park : Bool} (h : Canonical s) :
    Canonical (s.accInvalid id a moved entry v0 park) := by
  unfold State.accInvalid
  refine ite h ?_
  split
  · exact storeRefused h fun ht => invalidAt ht
  · exact accFault h
  · split
    · exact ite (asStrand (rewind h) fun ht => invalidAt ht) h
    · exact dropAcc h

theorem translateAcc {s : State} {id : Nat} {a : Access} {moved : Bool} (h : Canonical s) :
    Canonical (s.translateAcc id a moved) := by
  unfold State.translateAcc
  dsimp only
  split
  · next eq =>
      refine ite h ?_
      split
      · exact upd (fst eq (translate h))
      · exact ite (accFault (fst eq (translate h))) (upd (fst eq (translate h)))
      · exact ite (storeTranslated (fst eq (translate h))) (ite (postMoved (fst eq (translate h))) (upd (fst eq (translate
          h))))
  · next eq =>
      split
      · exact storeRefused (fst eq (translate h)) fun ht => trap ht
      · exact accFault (fst eq (translate h))
  · next eq => exact accInvalid (fst eq (translate h))

theorem exec_translation {s : State} {id : Nat} (h : Canonical s) : CanonicalRes (execTranslation id s) := by
  unfold execTranslation
  split
  · split
    · exact translateAcc h
    · exact h
  · exact h

theorem homeLoad {s : State} {a : Access} {pa : Nat} {ty : PageTy} {tag : Nat} (h : Canonical s) :
    CanonicalGot (s.homeLoad a pa ty tag) := by
  unfold State.homeLoad
  dsimp only
  split
  · exact ite (privAccess h) h
  · exact ite (fill (ite (privAccess h) h)) (ite (privAccess h) h)

theorem homeAcc {s : State} {a : Access} {pa : Nat} {ty : PageTy} {tag : Nat} (h : Canonical s) :
    CanonicalGot (s.homeAcc a pa ty tag) := by
  unfold State.homeAcc
  dsimp only
  split
  · exact homeLoad h
  · split
    · exact homeWrite h
    · exact writeHome h
  · split
    · exact amoHome h
    · exact amoPage h

theorem exec_homeAccess {s : State} {id : Nat} (h : Canonical s) : CanonicalRes (execHomeAccess id s) := by
  unfold execHomeAccess
  split
  · split
    · exact ite h (ite h (ite h (ite (accFault h) (ite (accFault h) (gotReply (homeAcc h))))))
    · exact h
  · exact h

theorem ownBank {s : State} {id : Nat} {a : Access} (h : Canonical s) : Canonical (s.ownBank id a) := by
  unfold State.ownBank
  dsimp only
  split
  · exact gotReply (scrWrite h)
  · refine gotReply ?_
    split <;> exact h

theorem exec_bankAccess {s : State} {id : Nat} (h : Canonical s) : CanonicalRes (execBankAccess id s) := by
  unfold execBankAccess
  dsimp only
  split
  · exact ite h (ite (ownBank h) (gotReply (readBank h)))
  · exact h

theorem exec_packageWindowAtomic {s : State} {id : Nat} (h : Canonical s) :
    CanonicalRes (execPackageWindowAtomic id s) := by
  unfold execPackageWindowAtomic
  dsimp only
  split
  · exact ite h (gotReply (amoBank h))
  · exact h

theorem exec_accessReply {s : State} {id : Nat} {r : Option (BitVec 6)} {v : Word} (h : Canonical s) :
    CanonicalRes (execAccessReply id r v s) := by
  unfold execAccessReply
  refine heard h fun ht => ?_
  split
  · refine ite ht ?_
    split
    · exact accFault ht
    · exact gotReply ht
  · exact ht

theorem exec_moved {s : State} {id : Nat} (h : Canonical s) : CanonicalRes (execMoved id s) := by
  unfold execMoved
  split
  · split
    · exact ite (upd h) h
    · exact h
  · exact h

theorem performWo {s : State} {ag : Agent} {l : Lane} {pa : Nat} (h : Canonical s) :
    CanonicalFate (s.performWo ag l pa) := by
  unfold State.performWo
  dsimp only
  split
  · split
    · next eq =>
        split
        · split
          · exact trivial
          · split
            · exact trivial
            · split
              · next eq3 => exact (writeWo (fst eq (translate h))).ok eq3
              · exact trivial
              · exact trivial
        · exact writeHome (fst eq (translate h))
    · exact trivial
    · split <;> exact trivial
  · split
    · exact trivial
    · split
      · exact trivial
      · split
        · next eq => exact (writeWo h).ok eq
        · exact trivial
        · exact trivial

theorem perform {s : State} {c : Nat} {e : JEnt} {l : Lane} (h : Canonical s) : CanonicalFate (s.perform c e l) := by
  unfold State.perform
  dsimp only
  split
  · exact performWo h
  · split
    · split
      · exact trivial
      · split
        · next eq3 => exact (writeBank h).ok eq3
        · exact trivial
        · exact trivial
    · split
      · exact collWrite h
      · split
        · exact trivial
        · exact send h
    · exact trivial

/-- The state once every lane is performed, each in a way that keeps the memories. -/
theorem performAll {act : State → Lane → Fate} (hact : ∀ {t : State} {l : Lane}, Canonical t → CanonicalFate (act t l))
    {ls done : List Lane} {s : State} {bad : List (Lane × BitVec 8)} (h : Canonical s) :
    CanonicalOption Prod.fst (Machine.performAll act ls s done bad) := by
  induction ls generalizing s done bad with
  | nil => exact h
  | cons l ls ih =>
    unfold Machine.performAll
    split
    · next eq => exact ih ((hact h).done eq)
    · exact ih h
    · trivial

theorem laneMarks {s : State} {c : Nat} {ls : List Lane} (h : Canonical s) : Canonical (s.laneMarks c ls) := by
  unfold State.laneMarks
  dsimp only
  exact foldl (storedAll h) fun ht => storedAll ht

theorem settleEntry {s : State} {c j : Nat} {r : Option (BitVec 8 × Word)} (h : Canonical s) :
    Canonical (s.settleEntry c j r) := by
  unfold State.settleEntry
  dsimp only
  split
  · exact ite (modStrand (modCore_of_scratch h fun _ => rfl)) (raise (modStrand (modCore_of_scratch h fun _ => rfl)))
  · exact modStrand (modCore_of_scratch h fun _ => rfl)

theorem answer {s : State} {c j : Nat} {act : State → Lane → Fate} (h : Canonical s)
    (hact : ∀ {t : State} {l : Lane}, Canonical t → CanonicalFate (act t l)) : Canonical (s.answer c j act) := by
  unfold State.answer
  dsimp only
  split
  · next eq => exact settleEntry (laneMarks ((performAll hact h).some eq))
  · exact h

theorem answerStore {s : State} {c j : Nat} {deny : Lane → Option (BitVec 8)} (h : Canonical s) :
    Canonical (s.answerStore c j deny) := by
  unfold State.answerStore
  dsimp only
  refine ite h (answer h fun ht => ?_)
  split
  · exact trivial
  · exact perform ht

theorem completePhase_scratch {k : Core} {n : BarNo} {err : Bool} {fault : BitVec 8} :
    (k.completePhase n err fault).scratch = k.scratch := rfl

theorem arrive_scratch {k : Core} {n : BarNo} {slot : Option Nat} : (k.arrive n slot).scratch = k.scratch := by
  unfold Core.arrive
  dsimp only
  split
  · rfl
  · split <;> rfl

theorem errArrive_scratch {k : Core} {n : BarNo} {code : BitVec 8} : (k.errArrive n code).scratch = k.scratch := by
  unfold Core.errArrive
  split <;> rfl

theorem exec_baw {s : State} {a : GReg} {n : BarNo} {l : La} (h : Canonical s) : CanonicalRes (execBaw a n l s) := by
  unfold execBaw
  dsimp only
  exact ite (trapPc h) (ite (trapPc h) (ite (block h) (ite (writeLate (modMine_of_scratch h fun _ => arrive_scratch))
    (park (modMine_of_scratch h fun _ => arrive_scratch)))))

theorem arrival {s : State} {c : Nat} {p : Packet} (h : Canonical s) : Canonical (s.arrival c p) := by
  unfold State.arrival
  dsimp only
  refine ite h (ite (upd h) ?_)
  split
  · exact modCore_of_scratch (upd h) fun _ => arrive_scratch
  · exact modCore_of_scratch (upd h) fun _ => errArrive_scratch
  · exact upd h

theorem exec_barrierArrival {s : State} {c : Nat} {n : BarNo} (h : Canonical s) :
    CanonicalRes (execBarrierArrival c n s) := by
  unfold execBarrierArrival
  split
  · exact arrival h
  · exact h

theorem exec_errorArrival {s : State} {c : Nat} {n : BarNo} (h : Canonical s) : CanonicalRes (execErrorArrival c n s) := by
  unfold execErrorArrival
  dsimp only
  split
  · exact arrival h
  · exact h

theorem writeBits {s : State} {c b w v : Nat} (h : Canonical s) : Canonical (s.writeBits c b w v) := by
  unfold State.writeBits
  dsimp only
  exact scrWrite h

theorem loadBits {s : State} {sgn : Bool} {a b : GReg} {pm : PtrMode} {p : BpReg} {n : Fin 32} {l : La} (h : Canonical s) :
    Canonical (s.loadBits sgn a b pm p n l) := by
  unfold State.loadBits
  dsimp only
  refine ite (writeLate (modMe h)) ?_
  split
  · exact trap h
  · exact ite (block h) (writeLate (modMe h))

theorem exec_stbit {s : State} {a b : GReg} {pm : PtrMode} {p : BpReg} {n : Fin 32} (h : Canonical s) :
    CanonicalRes (execStbit a b pm p n s) := by
  unfold execStbit
  dsimp only
  split
  · exact trap h
  · exact ite (block h) (advance (modMe (writeBits (relDone h))))

theorem exec_vldbit {s : State} {d : VReg} {i : Bool} {p : BpReg} {e : Fin 32} {k : KReg} {ty : IntTy} (h : Canonical s) :
    CanonicalRes (execVldbit d i p e k ty s) := by
  unfold execVldbit
  dsimp only
  split
  · exact trapPc h
  · split
    · exact trap h
    · split
      · exact block h
      · exact vec h

theorem putElems {s : State} {b e w : Nat} {k : KWord} {x : VWord} (h : Canonical s) :
    Canonical (s.putElems b e w k x) := by
  unfold State.putElems
  exact foldl h fun ht => ite (writeBits ht) ht

theorem exec_vstbit {s : State} {d : VReg} {i : Bool} {p : BpReg} {e : Fin 32} {k : KReg} {ty : IntTy} (h : Canonical s) :
    CanonicalRes (execVstbit d i p e k ty s) := by
  unfold execVstbit
  dsimp only
  split
  · exact trapPc h
  · split
    · exact trap h
    · split
      · exact block h
      · exact vec (putElems (relDone h))

end Sys2Proof.Memories.Canonical
end

section
/-!
PROOF. Memories in canonical form: copies, tags, rings and banks, queues, records and handlers, and the matrix unit keep them.
-/

open Sys2Proof Sys2Proof.Machine Sys2Proof.Claims

namespace Sys2Proof.Memories.Canonical

theorem readPattern {s : State} {a : Word} (h : Canonical s) : CanonicalExcept id Prod.fst (s.readPattern a) := by
  unfold State.readPattern
  split
  · exact trap h
  · split
    · next eq => exact (words h).error eq
    · next eq =>
        split
        · exact (words h).ok eq
        · exact trap ((words h).ok eq)

theorem queueCopy {s : State} {tag : Fin 64} {ring : Option (Nat × Nat)} {dst src : Word} {p : Pattern} {sc : Scope}
    {acq rel : Bool} (h : Canonical s) :
    Canonical (s.queueCopy tag ring dst src p sc acq rel) := by
  unfold State.queueCopy
  dsimp only
  exact modMine_of_scratch (upd h) fun _ => rfl

theorem exec_cpy {s : State} {t : Fin 64} {d sr p : GReg} {c : Scope} {q r : Bool} (h : Canonical s) :
    CanonicalRes (execCpy t d sr p c q r s) := by
  unfold execCpy
  dsimp only
  split
  · next eq => exact (readPattern h).error eq
  · next eq =>
      split
      · exact trap ((readPattern h).ok eq)
      · exact trap ((readPattern h).ok eq)
      · exact ite (block ((readPattern h).ok eq)) (advance (queueCopy (modMine_of_scratch (relDone ((readPattern h).ok eq))
          fun _ => rfl)))

theorem copyRead {s : State} {ag : Agent} {edge : Bool} {a : Word} {n : Nat} (h : Canonical s) :
    CanonicalGot (s.copyRead ag edge a n) := by
  unfold State.copyRead
  split
  · exact h
  · exact readAt h

theorem copyWrite {s : State} {c : Nat} {x : Copy} {a : Word} {bs : List Byte} (h : Canonical s) :
    CanonicalGot (s.copyWrite c x a bs) := by
  unfold State.copyWrite
  dsimp only
  split
  · split
    · exact h
    · split
      · exact scrWrite h
      · exact h
  · split
    · exact h
    · exact writeAt h

theorem elemRead {s : State} {ag : Agent} {edge : Bool} {us : List (Word × Nat)} (h : Canonical s) :
    Canonical (s.elemRead ag edge us).1 := by
  induction us generalizing s with
  | nil => exact h
  | cons u us ih =>
    unfold State.elemRead
    split
    · next eq => exact (copyRead h).bad eq
    · next eq => exact (copyRead h).invalid eq
    · next eq =>
        have h1 := ih ((copyRead h).ok eq)
        split
        · next eq1 => exact fst eq1 h1
        · exact h1

theorem elemWrite {s : State} {c : Nat} {x : Copy} {us : List (Word × Nat)} {bs : List Byte} (h : Canonical s) :
    Canonical (s.elemWrite c x us bs).1 := by
  induction us generalizing s bs with
  | nil => exact h
  | cons u us ih =>
    unfold State.elemWrite
    split
    · next eq => exact (copyWrite h).bad eq
    · next eq => exact (copyWrite h).invalid eq
    · next eq => exact ih ((copyWrite h).ok eq)

theorem modCopy_scratch {k : Core} {id : Nat} {f : Copy → Copy} : (k.modCopy id f).scratch = k.scratch := rfl

theorem copyElem1 {s : State} {c id : Nat} (h : Canonical s) : Canonical (s.copyElem1 c id) := by
  unfold State.copyElem1
  dsimp only
  split
  · exact h
  · refine ite h (ite h ?_)
    split
    · next eq2 => exact modCore_of_scratch (fst eq2 (elemRead h)) fun _ => rfl
    · next eq2 =>
        split
        · exact modCore_of_scratch (fst eq2 (elemRead h)) fun _ => rfl
        · next eq3 => exact modCore_of_scratch (fst eq3 (elemWrite (fst eq2 (elemRead h)))) fun _ => rfl

theorem copyElems {s : State} {c id n : Nat} (h : Canonical s) : Canonical (s.copyElems c id n) := by
  induction n generalizing s with
  | zero => exact h
  | succ n ih => exact ih (copyElem1 h)

theorem copyRest {s : State} {c id : Nat} (h : Canonical s) : Canonical (s.copyRest c id) := by
  unfold State.copyRest
  split
  · exact h
  · exact copyElems h

theorem exec_copyComplete {c id : Nat} {s : State} (h : Canonical s) : CanonicalRes (execCopyComplete c id s) := by
  unfold execCopyComplete
  dsimp only
  split
  · exact copyRest h
  · exact ite (copyRest h) (modCore (copyRest h) fun k hk => k.finishCopy_wf id hk)

theorem exec_copyFault {c id : Nat} {s : State} (h : Canonical s) : CanonicalRes (execCopyFault c id s) := by
  unfold execCopyFault
  dsimp only
  split
  · exact copyRest h
  · split
    · exact copyRest h
    · exact ite (ite (copyRest h) (raise (copyRest h)))
        (modCore (copyRest h) fun k hk => k.finishCopy_wf id hk)

theorem exec_edgeRefusal {s : State} {c id : Nat} {i : Fin 4096} (h : Canonical s) :
    CanonicalRes (execEdgeRefusal c id i s) := by
  unfold execEdgeRefusal
  dsimp only
  split
  · exact h
  · exact ite (modCore_of_scratch h fun _ => rfl) h

theorem exec_rginit {s : State} {a : GReg} (h : Canonical s) : CanonicalRes (execRginit a s) := by
  unfold execRginit
  dsimp only
  split
  · exact trap h
  · exact ite (trap h) (advance (scrWrite h))

theorem exec_rgfill {s : State} {a b : GReg} {q r : Bool} {c : Scope} (h : Canonical s) :
    CanonicalRes (execRgfill a b q r c s) := by
  unfold execRgfill
  dsimp only
  split
  · exact trap h
  · exact ite (trap h) (ite (block h) (advance (scrWrite (queueCopy (relDone h)))))

theorem exec_rgawait {s : State} {a b : GReg} {n : Fin 32} {l : La} (h : Canonical s) :
    CanonicalRes (execRgawait a b n l s) := by
  unfold execRgawait
  dsimp only
  split
  · exact trap h
  · exact ite (trap h) (ite (block h) (writeLate (invalidateRc h)))

theorem exec_rgrel {a : GReg} {s : State} (h : Canonical s) : CanonicalRes (execRgrel a s) := by
  unfold execRgrel
  dsimp only
  split
  · exact trap h
  · exact ite (trap h) (ite (block h) (advance (modMine h fun _ hk => Memory.wf_write hk ..)))

theorem bankLeave_scratch {k : Core} {slot : Nat} : (k.bankLeave slot).scratch = k.scratch := rfl

theorem bankReturn_scratch {k : Core} {slot : Nat} : (k.bankReturn slot).scratch = k.scratch := rfl

theorem bankApply {s : State} {c : Nat} {q : BankReq} (h : Canonical s) : Canonical (s.bankApply c q) := by
  unfold State.bankApply
  exact ite (takeTrap (setCore h (core h))) (ite (setCore h (core h)) (setCore h (core h)))

theorem bankPump {s : State} {c n : Nat} (h : Canonical s) : Canonical (State.bankPump c n s) := by
  induction n generalizing s with
  | zero => exact h
  | succ n ih =>
    unfold State.bankPump
    split
    · exact h
    · exact ite h (ih (bankApply h))

theorem clearBank_wf {k : Core} {b : Nat} (hk : k.scratch.wf = true) : (k.clearBank b).scratch.wf = true :=
  wf_filter hk

theorem bankDone_scratch {k : Core} : k.bankDone.scratch = k.scratch := by
  unfold Core.bankDone
  exact foldl_keeps (P := fun x : Core => x.scratch = k.scratch) (fun _ _ hx => bankReturn_scratch.trans hx) _ rfl

theorem exec_bankModeChangeComplete {c : Nat} {b : Fin 16} {s : State} (h : Canonical s) :
    CanonicalRes (execBankModeChangeComplete c b s) := by
  unfold execBankModeChangeComplete
  dsimp only
  split
  · exact h
  · refine ite h (bankPump (modCore (ite (dropLines h) h) fun k hk => ?_))
    rw [bankDone_scratch]
    exact clearBank_wf hk

theorem bind {s : State} {q : QReg} {k : QKind} (h : Canonical s) : Canonical (s.bind q k) := by
  unfold State.bind
  exact advance (modMine_of_scratch h fun _ => rfl)

theorem exec_qbindStream {s : State} {a b : GReg} {c : QReg} (h : Canonical s) :
    CanonicalRes (execQbindStream a b c s) := by
  unfold execQbindStream
  refine ite (trapPc h) ?_
  split
  · next eq => exact (readPattern h).error eq
  · next eq => exact bind ((readPattern h).ok eq)

theorem bindPort {s : State} {c : QReg} {k : QKind} (h : Canonical s) : Canonical (s.bindPort c k) := by
  unfold State.bindPort
  exact ite (trapPc h) (ite (block h) (bind h))

theorem exec_qbindMbox {s : State} {a : GReg} {c : QReg} (h : Canonical s) : CanonicalRes (execQbindMbox a c s) := by
  unfold execQbindMbox
  dsimp only
  exact ite (trapPc h) (modMine_of_scratch (bind (modMine_of_scratch h fun _ => rfl)) fun _ => refill_scratch)

theorem exec_streamReadahead {s : State} {c : Nat} {q : QReg} (h : Canonical s) :
    CanonicalRes (execStreamReadahead c q s) := by
  unfold execStreamReadahead
  dsimp only
  split
  · exact ite h (modCore_of_scratch (elemRead h) fun _ => rfl)
  · exact h

theorem rebind {s : State} {q : QReg} {k : QKind} (h : Canonical s) : Canonical (s.rebind q k) := by
  unfold State.rebind
  exact modMine_of_scratch h fun _ => rfl

theorem emptyPop {s : State} (h : Canonical s) : Canonical s.emptyPop := by
  unfold State.emptyPop
  exact ite (block h) (trapPc h)

theorem push {s : State} {k : QKind} {ws : List Word} (h : Canonical s) : Canonical (s.push k ws) := by
  unfold State.push
  dsimp only
  split
  · exact ite (block h) (advance (modMine_of_scratch h fun _ => rfl))
  · exact ite (block h) (advance (modMine_of_scratch h fun _ => rfl))
  · exact ite (block h) (advance (modMine_of_scratch h fun _ => rfl))
  · exact trapPc h

theorem exec_qpush {s : State} {b : GReg} {c : QReg} (h : Canonical s) : CanonicalRes (execQpush b c s) := by
  unfold execQpush
  split
  · exact trapPc h
  · exact push h

theorem exec_vqpush {s : State} {c : QReg} {n : VReg} (h : Canonical s) : CanonicalRes (execVqpush c n s) := by
  unfold execVqpush
  refine ite (trapPc h) ?_
  split
  · exact trapPc h
  · exact push h

theorem popped {s : State} {q : QReg} {k : QKind} {strips : Bool} {ahead : List Ahead} (h : Canonical s) :
    Canonical (s.popped q k strips ahead) := by
  unfold State.popped
  split
  · exact rebind h
  · exact h

theorem popWait {s : State} {q : QReg} {k : QKind} {strips : Bool} {ahead : List Ahead} (h : Canonical s) :
    Canonical (s.popWait q k strips ahead) := by
  unfold State.popWait
  exact ite (block (popped h)) (emptyPop h)

theorem popFault {s : State} {q : QReg} {k : QKind} {code : BitVec 8} {a : Word} (h : Canonical s) :
    Canonical (s.popFault q k code a) := by
  unfold State.popFault
  refine trap ?_
  split
  · exact rebind h
  · exact h

theorem exec_qpop {s : State} {a : GReg} {c : QReg} {l : La} (h : Canonical s) : CanonicalRes (execQpop a c l s) := by
  unfold execQpop
  dsimp only
  split
  · exact trapPc h
  · split
    · exact emptyPop h
    · exact writeLate (modMine_of_scratch h fun _ => rfl)
  · next ws _ =>
      cases ws with
      | nil => exact emptyPop h
      | cons => exact writeLate (rebind h)
  · refine ite (trapPc h) ?_
    split
    · exact trapPc h
    · exact popFault h
    · exact popWait h
    · exact writeLate (popped h)
  · exact trapPc h

theorem writeV {s : State} {n : VReg} {x : VWord} (h : Canonical s) : Canonical (s.writeV n x) := by
  unfold State.writeV
  exact advance (modMe h)

theorem exec_vqpop {s : State} {c : QReg} {n : VReg} (h : Canonical s) : CanonicalRes (execVqpop c n s) := by
  unfold execVqpop
  dsimp only
  refine ite (trapPc h) ?_
  split
  · exact trapPc h
  · exact ite (emptyPop h) (writeV (modMine_of_scratch h fun _ => rfl))
  · refine ite (trapPc h) ?_
    split
    · exact trapPc h
    · exact popFault h
    · exact popWait h
    · exact writeV (popped h)
  · split
    · exact emptyPop h
    · exact writeV (modMine_of_scratch h fun _ => rfl)
  · exact trapPc h

theorem exec_qfree {s : State} {c : QReg} (h : Canonical s) : CanonicalRes (execQfree c s) := by
  unfold execQfree
  split
  · exact advance h
  · exact ite (trapPc h) (ite (block h) (advance (modMine_of_scratch h fun _ => unbind_scratch)))

theorem newStrid {s : State} {job : BitVec 16} (h : Canonical s) : Canonical (s.newStrid job).1 := by
  unfold State.newStrid
  dsimp only
  split
  · exact modJob h
  · exact h

theorem handlerEntry {s : State} {c hidx : Nat} (h : Canonical s) : Canonical (s.handlerEntry c hidx).1 := by
  unfold State.handlerEntry
  dsimp only
  split
  · exact h
  · split
    · next eq => exact (readAt h).bad eq
    · next eq => exact (readAt h).invalid eq
    · next eq => split <;> exact (readAt h).ok eq

theorem startRecord {s : State} {c n : Nat} {r : Rec} (h : Canonical s) : Canonical (s.startRecord c n r) := by
  unfold State.startRecord
  dsimp only
  split
  · next eq => exact tell (sendDec (fst eq (handlerEntry h)))
  · next eq =>
      exact setStrand (ite (invalidateRc (newStrid (fst eq (handlerEntry h)))) (newStrid (fst eq (handlerEntry h))))

theorem pushEnt {s : State} {c : Nat} {e : DqEnt} (h : Canonical s) : CanonicalOption id (s.pushEnt c e) := by
  unfold State.pushEnt
  dsimp only
  split
  · exact modCore_of_scratch h fun _ => rfl
  · split
    · exact modCore_of_scratch h fun _ => rfl
    · exact trivial

theorem discardEnt {s : State} {e : DqEnt} (h : Canonical s) : Canonical (s.discardEnt e) := by
  unfold State.discardEnt
  split
  · exact sendDec h
  · exact launchDec h

theorem quotaEvent {s : State} {job : BitVec 16} (h : Canonical s) : Canonical (s.quotaEvent job) := by
  unfold State.quotaEvent
  exact tell (useFree h)

theorem dropEnt {s : State} {e : DqEnt} (h : Canonical s) : Canonical (s.dropEnt e) := by
  unfold State.dropEnt
  exact launchDec h

theorem remotePush {s : State} {c : Nat} {e : DqEnt} (h : Canonical s) : Canonical (s.remotePush c e) := by
  unfold State.remotePush
  dsimp only
  refine ite (discardEnt h) (ite (dropEnt h) ?_)
  split
  · next eq => exact (pushEnt h).some eq
  · exact quotaEvent (discardEnt h)

theorem unitRead {s : State} {ag : Agent} {us : List (Word × Nat)} (h : Canonical s) : Canonical (s.unitRead ag us).1 := by
  induction us generalizing s with
  | nil => exact h
  | cons u us ih =>
    unfold State.unitRead
    split
    · next eq => exact (readAt h).bad eq
    · next eq => exact (readAt h).invalid eq
    · next eq => exact ih ((readAt h).ok eq)

theorem engineRead {s : State} {ag : Agent} {a : Word} {n : Nat} (h : Canonical s) : Canonical (s.engineRead ag a n).1 := by
  unfold State.engineRead
  exact unitRead h

theorem modMatrix {s : State} {c : Nat} {f : Matrix → Matrix} (h : Canonical s) : Canonical (s.modMatrix c f) := by
  unfold State.modMatrix
  exact modCore_of_scratch h fun _ => rfl

theorem mload {s : State} {src : Option Word} {d : Word} (h : Canonical s) : Canonical (s.mload src d) := by
  unfold State.mload
  dsimp only
  exact ite (trapPc h) (ite (trapPc h) (ite (trapPc h) (ite (block h) (advance (modMatrix h)))))

theorem loadImage {s : State} {c : Nat} {l : Load} (h : Canonical s) : CanonicalOption Prod.fst (s.loadImage c l) := by
  unfold State.loadImage
  dsimp only
  split
  · split
    · exact trivial
    · exact engineRead h
  · split
    · exact trivial
    · exact h

theorem setTicket {s : State} {cl : Nat} {k : BitVec 16} {x : Ticket} (h : Canonical s) :
    Canonical (s.setTicket cl k x) := by
  unfold State.setTicket
  dsimp only
  exact modSched h

theorem tileEnds {s : State} {c : Nat} {t : Tile} {code : BitVec 8} (h : Canonical s) :
    Canonical (s.tileEnds c t code) := by
  unfold State.tileEnds
  dsimp only
  refine sendDec (modCore_of_scratch ?_ fun _ => freePorts_scratch)
  split
  · refine setTicket ?_
    split
    · exact packet h
    · exact h
  · split
    · exact packet h
    · exact h

theorem zeroRows_scratch {k : Core} : k.zeroRows.scratch = k.scratch := rfl

theorem startTile {s : State} {c : Nat} {t : Tile} (h : Canonical s) : Canonical (s.startTile c t) := by
  unfold State.startTile
  dsimp only
  exact ite (modCore_of_scratch h fun _ => rfl) (tileEnds (modMatrix h))

theorem exec_mtile {s : State} {a b c : GReg} {n : BarNo} (h : Canonical s) : CanonicalRes (execMtile a b c n s) := by
  unfold execMtile
  dsimp only
  refine ite (trapPc h) (ite (trapPc h) (ite (trapPc h) (ite (block h) ?_)))
  split
  · next eq => exact advance (startTile (fst eq (launchInc h)))
  · next eq => exact advance (fst eq (launchInc h))

theorem abandonTile {s : State} {c : Nat} {code : BitVec 8} (h : Canonical s) : Canonical (s.abandonTile c code) := by
  unfold State.abandonTile
  split
  · exact h
  · exact ite (tileEnds (modMatrix h)) (modMatrix h)

theorem beginTask {s : State} {cl c : Nat} {k : Task} (h : Canonical s) : Canonical (s.beginTask cl c k) := by
  unfold State.beginTask
  dsimp only
  exact ite (startTile h) (modMatrix h)

theorem loadEnds {s : State} {c : Nat} (h : Canonical s) : Canonical (s.loadEnds c) := by
  unfold State.loadEnds
  dsimp only
  split
  · exact beginTask (modMatrix (modCore_of_scratch h fun _ => freePorts_scratch))
  · exact modCore_of_scratch h fun _ => freePorts_scratch

theorem failLoad {s : State} {c : Nat} {code : BitVec 8} (h : Canonical s) : Canonical (s.failLoad c code) := by
  unfold State.failLoad
  split
  · exact modCore_of_scratch (modMatrix h) fun _ => freePorts_scratch
  · exact h

theorem exec_mloadComplete {s : State} {c : Nat} (h : Canonical s) : CanonicalRes (execMloadComplete c s) := by
  unfold execMloadComplete
  dsimp only
  split
  · exact h
  · split
    · next eq2 =>
        split
        · exact startTile (modMatrix (modMatrix ((loadImage h).some eq2)))
        · exact loadEnds (modMatrix ((loadImage h).some eq2))
    · exact h

theorem exec_mloadRefused {s : State} {c : Nat} (h : Canonical s) : CanonicalRes (execMloadRefused c s) := by
  unfold execMloadRefused
  split
  · exact h
  · split
    · next eq2 => exact loadEnds (modMatrix ((loadImage h).some eq2))
    · exact h

theorem rowBytes {s : State} {c : Nat} {t : Tile} {k w : Nat} (h : Canonical s) :
    CanonicalOption Prod.fst (s.rowBytes c t k w) := by
  unfold State.rowBytes
  dsimp only
  split
  · split
    · exact trivial
    · exact modMatrix h
  · split
    · exact trivial
    · exact engineRead h

theorem scales {s : State} {c : Nat} {t : Tile} {nout : Nat} (h : Canonical s) : Canonical (s.scales c t nout).1 := by
  have read {x : State × List Byte × Option (BitVec 8)} {on : Bool} {a : Word} {n : Nat} (hx : Canonical x.1) :
      Canonical (if on && x.2.2.isNone then x.1.engineRead (unitAgent c t.job t.bases) a n else (x.1, [], x.2.2)).1 := by
    split
    · exact engineRead hx
    · exact hx
  exact read (read (read (x := (s, [], none)) h))

theorem formRow {s : State} {c : Nat} {t : Tile} {r : Resident} {a : ARow} (h : Canonical s) :
    Canonical (s.formRow c t r a) := by
  unfold State.formRow
  dsimp only
  refine ite (modMatrix h) ?_
  split
  · next eq => exact modMatrix (fst eq (scales h))
  · next eq => exact modMatrix (fst eq (scales h))

theorem exec_rowEntry {s : State} {c : Nat} (h : Canonical s) : CanonicalRes (execRowEntry c s) := by
  unfold execRowEntry
  dsimp only
  split
  · refine ite h ?_
    split
    · exact h
    · split
      · exact h
      · next eq4 => exact modMatrix ((rowBytes h).some eq4)
      · next eq4 => exact formRow ((rowBytes h).some eq4)
  · exact h

theorem exec_rowHandlerStart {s : State} {c : Nat} {i : Fin 2} (h : Canonical s) :
    CanonicalRes (execRowHandlerStart c i s) := by
  unfold execRowHandlerStart
  dsimp only
  split
  · refine ite h ?_
    split
    · next eq3 => exact modMatrix (fst eq3 (handlerEntry h))
    · next eq3 => exact modMatrix (setStrand (newStrid (fst eq3 (handlerEntry h))))
  · exact h

theorem exec_rowgetF {s : State} {b : GReg} {n : VReg} (h : Canonical s) : CanonicalRes (execRowgetF b n s) := by
  unfold execRowgetF
  split
  · exact trapPc h
  · exact writeV h

theorem exec_rowgetS {s : State} {b : GReg} {n : VReg} (h : Canonical s) : CanonicalRes (execRowgetS b n s) := by
  unfold execRowgetS
  split
  · exact trapPc h
  · exact writeV h

theorem exec_tileOperationComplete {s : State} {c : Nat} (h : Canonical s) :
    CanonicalRes (execTileOperationComplete c s) := by
  unfold execTileOperationComplete
  split
  · exact ite h (tileEnds (modMatrix h))
  · exact h

theorem endHandlers {s : State} {c : Nat} {ns : List Nat} (h : Canonical s) : Canonical (s.endHandlers c ns) := by
  unfold State.endHandlers
  exact foldl h fun ht => endStrand (modStrand ht)

theorem faultEnds {s : State} {c : Nat} (h : Canonical s) : Canonical (s.faultEnds c) := by
  unfold State.faultEnds
  split
  · split
    · exact h
    · exact ite h (tileEnds (modMatrix (endHandlers h)))
  · exact h

end Sys2Proof.Memories.Canonical
end

section
/-!
PROOF. Memories in canonical form: tasks, records, strands, launches, scheduling, wale tiles and containment keep them.
-/

open Sys2Proof Sys2Proof.Machine Sys2Proof.Claims

namespace Sys2Proof.Memories.Canonical

theorem exec_ttsub {s : State} {a b : GReg} {l : La} (h : Canonical s) : CanonicalRes (execTtsub a b l s) := by
  unfold execTtsub
  dsimp only
  refine ite (trap h) ?_
  split
  · next eq => exact (words h).error eq
  · next eq =>
      refine ite (trap ((words h).ok eq)) (ite (block ((words h).ok eq)) (ite (block (released (relDone
        (fenced ((words h).ok eq))))) ?_))
      split
      · next eq2 => exact writeLate (modSched (fst eq2 (launchInc (released (relDone (fenced ((words h).ok eq)))))))
      · next eq2 => exact writeLate (useFree (fst eq2 (launchInc (released (relDone (fenced ((words h).ok eq)))))))

theorem unheld {s : State} {cl : Nat} {k : Task} (h : Canonical s) : Canonical (s.unheld cl k) := by
  unfold State.unheld
  exact modSched h

theorem startTask {s : State} {cl c : Nat} {k : Task} (h : Canonical s) : Canonical (s.startTask cl c k) := by
  unfold State.startTask
  dsimp only
  exact ite (modMatrix (setTicket (unheld h))) (beginTask (setTicket (unheld h)))

theorem dependence {s : State} {k : Task} (h : Canonical s) : Canonical (s.dependence k).1 := by
  unfold State.dependence
  dsimp only
  split
  · exact h
  · split
    · exact h
    · split
      · exact h
      · split
        · next eq => exact (readAt h).bad eq
        · next eq => exact (readAt h).invalid eq
        · next eq => exact (readAt h).ok eq

set_option maxRecDepth 2000 in
theorem considerTasks_cons {s : State} {cl : Nat} {k : Machine.Task} {ks : List Machine.Task} :
    s.considerTasks cl (k :: ks) = match s.dependence k with
      | (s', .error e) => (s'.unheld cl k).tileEnds k.core (k.tile cl (s.core k.core).bases) (FaultCode.operand e)
      | (s', .ok true) => (match s'.unitFor cl k with
        | some c => s'.startTask cl c k
        | none => s.considerTasks cl ks)
      | (_, .ok false) => s.considerTasks cl ks := rfl

theorem considerTasks {s : State} {cl : Nat} {ks : List Machine.Task} (h : Canonical s) :
    Canonical (s.considerTasks cl ks) := by
  induction ks with
  | nil => exact h
  | cons k ks ih =>
    rw [considerTasks_cons]
    split
    · next eq => exact tileEnds (unheld (fst eq (dependence h)))
    · next eq =>
        split
        · exact startTask (fst eq (dependence h))
        · exact ih
    · exact ih

theorem pushOwn {s : State} {r : Rec} (h : Canonical s) : Canonical (s.pushOwn r) := by
  unfold State.pushOwn
  split
  · next eq =>
      split
      · next eq2 => exact advance ((pushEnt (fst eq (launchInc h))).some eq2)
      · exact trap (useFree h)
  · next eq => exact advance (fst eq (launchInc h))

theorem enqueue {s : State} {vn : Bool} {r : Rec} (h : Canonical s) : Canonical (s.enqueue vn r) := by
  unfold State.enqueue
  dsimp only
  refine ite (ite (trapPc h) (block h)) ?_
  split
  · next eq => exact advance (modMine_of_scratch (upd (fst eq (launchInc h))) fun _ => rfl)
  · next eq => exact advance (fst eq (launchInc h))

theorem sendRec {s : State} {a : Word} {f : Word → Word} (h : Canonical s) : Canonical (s.sendRec a f) := by
  unfold State.sendRec
  dsimp only
  refine ite (trap h) ?_
  split
  · next eq => exact (words h).error eq
  · next eq =>
      exact ite (trap ((words h).ok eq)) (ite (trap ((words h).ok eq)) (ite (block ((words h).ok eq))
        (ite (pushOwn (relDone ((words h).ok eq))) (enqueue (relDone ((words h).ok eq))))))

theorem exec_reply {s : State} {b : GReg} (h : Canonical s) : CanonicalRes (execReply b s) := by
  unfold execReply
  split
  · exact ite (trapPc h) (sendRec h)
  · exact trapPc h

theorem exec_recordDeparture {s : State} {c : Nat} {vn : Bool} (h : Canonical s) :
    CanonicalRes (execRecordDeparture c vn s) := by
  unfold execRecordDeparture
  dsimp only
  split
  · exact h
  · exact ite h (upd (modCore_of_scratch h fun _ => rfl))

theorem landed {s : State} {id : Nat} (h : Canonical s) : Canonical (s.landed id) := by
  unfold State.landed
  exact upd h

theorem deliver {s : State} {dst : Nat} {vn : Bool} {r : Rec} (h : Canonical s) : Canonical (s.deliver dst vn r) := by
  unfold State.deliver
  dsimp only
  exact ite (discardEnt h) (ite (modCore_of_scratch h fun _ => takeIn_scratch) (ite (modCore_of_scratch h fun _ => rfl)
    (quotaEvent (discardEnt h))))

theorem exec_mailboxArrival {s : State} {id : Nat} (h : Canonical s) : CanonicalRes (execMailboxArrival id s) := by
  unfold execMailboxArrival
  split
  · exact ite h (deliver (landed h))
  · exact h

theorem exec_dequePush {s : State} {id : Nat} (h : Canonical s) : CanonicalRes (execDequePush id s) := by
  unfold execDequePush
  split
  · exact ite (remotePush (landed h)) h
  · exact h

theorem exec_messageHandlerStart {s : State} {c : Nat} (h : Canonical s) : CanonicalRes (execMessageHandlerStart c s) := by
  unfold execMessageHandlerStart
  dsimp only
  refine ite h ?_
  split
  · exact startRecord (modCore_of_scratch h fun _ => refill_scratch)
  · exact startRecord (modCore_of_scratch h fun _ => refill_scratch)
  · exact h

theorem exec_spawn {s : State} {a b c : GReg} {l : La} (h : Canonical s) : CanonicalRes (execSpawn a b c l s) := by
  unfold execSpawn
  dsimp only
  refine ite (trapPc h) (ite (trap h) (ite (block h) ?_))
  split
  · exact writeLate h
  · split
    · next eq2 => exact writeLate (fst eq2 (launchInc h))
    · next eq2 => exact writeLate (setStrand (newStrid (fst eq2 (launchInc h))))

theorem exec_migrate {s : State} {b : GReg} (h : Canonical s) : CanonicalRes (execMigrate b s) := by
  unfold execMigrate
  dsimp only
  exact ite (trapPc (ite (unlead h) h)) (ite (advance (ite (unlead h) h)) (ite (trap (ite (unlead h) h))
    (ite (trapPc (ite (unlead h) h)) (ite (advance (ite (unlead h) h)) (startMove (advance (unlead (ite (unlead h) h))))))))

theorem unmonitor {s : State} (h : Canonical s) : Canonical s.unmonitor := by
  unfold State.unmonitor
  exact upd h

theorem exec_monarm {s : State} {b : GReg} (h : Canonical s) : CanonicalRes (execMonarm b s) := by
  unfold execMonarm
  dsimp only
  split
  · split
    · next eq2 => exact trap (fst eq2 (translate h))
    · next eq2 => exact invalidAt (fst eq2 (translate h))
    · next eq2 =>
        exact ite (advance (modMe (upd (unmonitor (fst eq2 (translate h)))))) (trap (tell (fst eq2 (translate h))))
  · exact trap h

theorem exec_monwait {s : State} (h : Canonical s) : CanonicalRes (execMonwait s) := by
  unfold execMonwait
  refine ite (trapPc h) ?_
  split
  · exact park h
  · exact advance (modMe (unmonitor h))

theorem exec_cntarm {s : State} {b c : GReg} (h : Canonical s) : CanonicalRes (execCntarm b c s) := by
  unfold execCntarm
  dsimp only
  refine ite (trap h) ?_
  split
  · next eq => exact (words h).error eq
  · next eq =>
      exact ite (trap ((words h).ok eq)) (ite (trap ((words h).ok eq)) (advance (modMine_of_scratch ((words h).ok eq) fun _
        => rfl)))

theorem setMove {s : State} {m : Move} (h : Canonical s) : Canonical (s.setMove m) := by
  unfold State.setMove
  exact upd h

theorem dropMove {s : State} {c n : Nat} (h : Canonical s) : Canonical (s.dropMove c n) := by
  unfold State.dropMove
  exact upd h

theorem stay {s : State} {m : Move} (h : Canonical s) : Canonical (s.stay m) := by
  unfold State.stay
  exact modStrand (dropMove h)

theorem exec_migrationSend {s : State} {c n : Nat} (h : Canonical s) : CanonicalRes (execMigrationSend c n s) := by
  unfold execMigrationSend
  split
  · exact h
  · exact ite h (ite (modStrand (stay h)) (ite h (setMove (asStrand h fun ht => released (relDone (fenced ht))))))

theorem exec_migrationArrival {s : State} {c n : Nat} (h : Canonical s) : CanonicalRes (execMigrationArrival c n s) := by
  unfold execMigrationArrival
  dsimp only
  split
  · exact h
  · refine ite h ?_
    split
    · exact ite (setStrand (setMove (setStrand (invalidateRc (upd h))))) (setMove h)
    · exact setMove h

theorem exec_migrationAccept {s : State} {c n : Nat} (h : Canonical s) : CanonicalRes (execMigrationAccept c n s) := by
  unfold execMigrationAccept
  split
  · exact ite (modCore_of_scratch (setStrand (dropMove h)) fun _ => rfl) h
  · exact h

theorem exec_migrationRefuse {s : State} {c n : Nat} (h : Canonical s) : CanonicalRes (execMigrationRefuse c n s) := by
  unfold execMigrationRefuse
  split
  · exact ite (stay h) h
  · exact h

theorem wakeAt {s : State} {c : Nat} {job : BitVec 16} {id : BitVec 32} (h : Canonical s) :
    Canonical (s.wakeAt c job id) := by
  unfold State.wakeAt
  dsimp only
  split
  · exact modStrand h
  · exact h

theorem exec_wakeArrival {s : State} {id : Nat} (h : Canonical s) : CanonicalRes (execWakeArrival id s) := by
  unfold execWakeArrival
  dsimp only
  split
  · split
    · exact ite h (ite (upd h) (wakeAt (upd h)))
    · exact h
  · exact h

theorem exec_followerDetach {s : State} {c : Nat} (h : Canonical s) : CanonicalRes (execFollowerDetach c s) := by
  unfold execFollowerDetach
  split
  · exact detach h
  · exact h

theorem exec_followTimeout {s : State} {c : Nat} (h : Canonical s) : CanonicalRes (execFollowTimeout c s) := by
  unfold execFollowTimeout
  split
  · exact detach h
  · exact h

theorem makeLaunch {s : State} {job : BitVec 16} {own : Option Nat} {lid : Nat} {d : List Word} {mark : Rec}
    (h : Canonical s) :
    CanonicalOption id (s.makeLaunch job own lid d mark) := by
  unfold State.makeLaunch
  dsimp only
  split
  · exact launchDec (modJob h)
  · split
    · exact pushEnt (modJob h)
    · exact modJob h

theorem exec_launch {s : State} {a b : GReg} {l : La} (h : Canonical s) : CanonicalRes (execLaunch a b l s) := by
  unfold execLaunch
  dsimp only
  refine ite (trap h) ?_
  split
  · next eq => exact (words h).error eq
  · next eq =>
      refine ite (trap ((words h).ok eq)) (ite (trap ((words h).ok eq)) (ite (block ((words h).ok eq)) ?_))
      split
      · exact block ((words h).ok eq)
      · split
        · next eq3 => exact writeLate (CanonicalOption.some (makeLaunch (relDone ((words h).ok eq))) eq3)
        · exact trap (useFree ((words h).ok eq))

theorem exec_launchEntryPlacement {s : State} {job : BitVec 16} {lid : Nat} (h : Canonical s) :
    CanonicalRes (execLaunchEntryPlacement job lid s) := by
  unfold execLaunchEntryPlacement
  split
  · split
    · exact ite h (remotePush (dropEntry h))
    · exact h
  · exact h

theorem readCounter {s : State} {d : GReg} {l : La} {lv : Level} {n : Nat} (h : Canonical s) :
    Canonical (s.readCounter d l lv n) := by
  unfold State.readCounter
  dsimp only
  exact writeLate (ite (invalidateRc h) h)

theorem exec_join {s : State} {a b : GReg} {l : La} (h : Canonical s) : CanonicalRes (execJoin a b l s) := by
  unfold execJoin
  refine ite (trapPc h) ?_
  split
  · exact trapPc h
  · exact ite (readCounter h) (park h)

theorem exec_cntstat {s : State} {a b : GReg} {l : La} (h : Canonical s) : CanonicalRes (execCntstat a b l s) := by
  unfold execCntstat
  split
  · exact trapPc h
  · exact readCounter h

theorem exec_cancel {s : State} {b : GReg} (h : Canonical s) : CanonicalRes (execCancel b s) := by
  unfold execCancel
  dsimp only
  split
  · exact trapPc h
  · exact ite (upd (advance h)) (cancelUnit (advance h))

theorem nextPhase {s : State} {job : BitVec 16} {cls : Bool} (h : Canonical s) : Canonical (s.nextPhase job cls) := by
  unfold State.nextPhase
  dsimp only
  split
  · exact h
  · exact phaseDec (modJob h)

theorem exec_completionCounterEvent {s : State} {job : BitVec 16} {lv : Level} {n : Nat} {ev : CountEv} (h : Canonical s) :
    CanonicalRes (execCompletionCounterEvent job lv n ev s) := by
  unfold execCompletionCounterEvent
  dsimp only
  refine ite h ?_
  split
  · exact cancelUnit (upd h)
  · exact launchInc (upd h)
  · exact upd h
  · exact launchDec (upd h)
  · exact graphDec (upd h)
  · exact phaseDec (upd h)
  · exact jobDec (upd h)

theorem exec_dequePop {s : State} {c : Nat} (h : Canonical s) : CanonicalRes (execDequePop c s) := by
  unfold execDequePop
  split
  · exact ite (startRecord (modCore_of_scratch h fun _ => rfl)) h
  · exact h

theorem exec_dequeRefill {c : Nat} {s : State} (h : Canonical s) : CanonicalRes (execDequeRefill c s) :=
  modCore_of_scratch h fun _ => by
    dsimp only
    split <;> rfl

theorem setThief {s : State} {c : Nat} {t : Thief} (h : Canonical s) : Canonical (s.setThief c t) := by
  unfold State.setThief
  exact modCore_of_scratch h fun _ => rfl

theorem ask {s : State} {c v : Nat} {remote : Bool} (h : Canonical s) : Canonical (s.ask c v remote) := by
  unfold State.ask
  exact modCore_of_scratch h fun _ => rfl

theorem exec_steal {s : State} {c : Nat} (h : Canonical s) : CanonicalRes (execSteal c s) := by
  unfold execSteal
  dsimp only
  refine ite h ?_
  split
  · exact ask (setThief h)
  · exact h

theorem exec_remoteSteal {s : State} {c : Nat} (h : Canonical s) : CanonicalRes (execRemoteSteal c s) := by
  unfold execRemoteSteal
  dsimp only
  refine ite h ?_
  split
  · exact setThief h
  · split
    · exact ask (setThief h)
    · exact h

theorem giveEnd_scratch {k k' : Core} {e : DqEnt} (eq : k.giveEnd = some (e, k')) : k'.scratch = k.scratch := by
  unfold Core.giveEnd at eq
  split at eq
  · cases eq
    rfl
  · obtain ⟨x, -, eq⟩ := Option.map_eq_some_iff.mp eq
    cases eq
    rfl

theorem exec_stealAnswer {v : Nat} {s : State} (h : Canonical s) : CanonicalRes (execStealAnswer v s) := by
  unfold execStealAnswer
  dsimp only
  split
  · exact h
  · next x _ =>
      have asked : Canonical (s.modCore v fun k => { k with asked := k.asked.erase x }) := modCore_of_scratch h fun _ => rfl
      refine ite h (ite (packet asked) ?_)
      split
      · next eq => exact packet (setCore asked (giveEnd_scratch eq ▸ core asked))
      · exact packet asked

theorem took {s : State} {p : Packet} (h : Canonical s) : Canonical (s.took p) := by
  unfold State.took
  exact upd h

theorem granted {s : State} {c : Nat} {e : DqEnt} (h : Canonical s) : Canonical (s.granted c e) := by
  unfold State.granted
  refine ite (discardEnt h) ?_
  split
  · exact ite (startRecord h) (remotePush h)
  · exact remotePush h

theorem exec_grant {s : State} {c : Nat} (h : Canonical s) : CanonicalRes (execGrant c s) := by
  unfold execGrant
  dsimp only
  split
  · split
    · exact granted (modCore_of_scratch (took h) fun _ => rfl)
    · exact modCore_of_scratch (took h) fun _ => rfl
  · exact h

theorem exec_empty {s : State} {c : Nat} (h : Canonical s) : CanonicalRes (execEmpty c s) := by
  unfold execEmpty
  split
  · exact modCore_of_scratch (took h) fun _ => rfl
  · exact h

theorem writeWords {s : State} {ag : Agent} {a : Word} {ws : List Word} (h : Canonical s) :
    CanonicalOption id (s.writeWords ag a ws) := by
  induction ws generalizing s a with
  | nil => exact h
  | cons w ws ih =>
    unfold State.writeWords
    split
    · next eq => exact ih ((writeAt h).ok eq)
    · trivial

theorem ringFill {s : State} {ag : Agent} {r : Ring} {x : Rec} (h : Canonical s) :
    CanonicalOption id (s.ringFill ag r x) := by
  unfold State.ringFill
  have filled := writeWords (ag := ag) (a := r.slot r.tail) (ws := x.take 8) h
  cases eq : s.writeWords ag (r.slot r.tail) (x.take 8) with
  | none => trivial
  | some t => exact writeWords (filled.some eq)

theorem ringRefill {s : State} {c i : Nat} {job : BitVec 16} {r : Ring} (h : Canonical s) :
    Canonical (s.ringRefill c i job r) := by
  unfold State.ringRefill
  split
  · exact h
  · split
    · next eq2 => exact modWeaver ((ringFill h).some eq2)
    · exact h

theorem ringOffer {s : State} {die i : Nat} {x : Rec} (h : Canonical s) : Canonical (s.ringOffer die i x) := by
  unfold State.ringOffer
  split
  · exact h
  · exact ite (getD (ringFill h) h) (ite (modWeaver h) (quotaEvent (discardEnt h)))

theorem incHead {s : State} {c : Nat} {job : BitVec 16} {r : Ring} (h : Canonical s) :
    CanonicalOption Prod.fst (s.incHead c job r) := by
  unfold State.incHead
  dsimp only
  split
  · next eq =>
      split
      · next eq2 => exact (amoPage (fst eq (translate h))).ok eq2
      · exact trivial
  · exact trivial

theorem tookMove_scratch {k : Core} : k.tookMove.scratch = k.scratch := by
  unfold Core.tookMove
  split <;> rfl

theorem exec_stageRingTake {s : State} {c : Nat} (h : Canonical s) : CanonicalRes (execStageRingTake c s) := by
  unfold execStageRingTake
  dsimp only
  refine ite h ?_
  split
  · split
    · next eq3 =>
        split
        · exact ite (modWeaver (ringRefill (modCore_of_scratch ((incHead h).some eq3) fun _ => tookMove_scratch)))
            (ite (ringRefill (modCore_of_scratch ((incHead h).some eq3) fun _ => tookMove_scratch))
            (startRecord (ringRefill (modCore_of_scratch ((incHead h).some eq3) fun _ => tookMove_scratch))))
        · exact h
    · exact h
  · exact h

theorem sampleRings {s : State} {die : Nat} (h : Canonical s) : Canonical (s.sampleRings die) := by
  unfold State.sampleRings
  extract_lets s1 seen w key hot cold s2
  have h2 : Canonical s2 := modWeaver (modWeaver h)
  clear_value s2 cold hot key w
  split
  · exact h2
  · extract_lets from_
    clear_value from_
    split
    · exact h2
    · exact modWeaver (modCore_of_scratch h2 fun _ => rfl)

theorem sampleDie {s : State} {die : Nat} (h : Canonical s) : Canonical (s.sampleDie die) := by
  unfold State.sampleDie
  exact ite (sampleRings h) h

theorem sampleArm {s : State} {c : Nat} {x : Nat × Arm} (h : Canonical s) : Canonical (s.sampleArm c x) := by
  unfold State.sampleArm
  dsimp only
  refine ite h ?_
  split
  · next eq => exact upd (fst eq (launchInc (modCore_of_scratch h fun _ => rfl)))
  · next eq => exact fst eq (launchInc (modCore_of_scratch h fun _ => rfl))

theorem sampleCore {s : State} {c : Nat} (h : Canonical s) : Canonical (s.sampleCore c) := by
  unfold State.sampleCore
  dsimp only
  exact ite h (modCore_of_scratch (foldl h fun ht => sampleArm ht) fun _ => rfl)

theorem completeTile {s : State} {i : Nat} (h : Canonical s) : Canonical (s.completeTile i) := by
  unfold State.completeTile
  dsimp only
  refine ite (wakeWale ?_) h
  split
  · exact packet (upd h)
  · exact upd h

theorem addNext {s : State} {i : Nat} (h : Canonical s) : Canonical (s.addNext i) := by
  unfold State.addNext
  dsimp only
  split
  · exact h
  · exact ite (dropTile h) (completeTile (upd h))

theorem addAll {s : State} {i n : Nat} (h : Canonical s) : Canonical (s.addAll i n) := by
  induction n generalizing s with
  | zero => exact h
  | succ n ih => exact ih (addNext h)

theorem flushAdds {s : State} {i : Nat} (h : Canonical s) : Canonical (s.flushAdds i) := by
  unfold State.flushAdds
  exact addAll h

theorem warmAt {s : State} {job : BitVec 16} {lid : BitVec 12} {w : Word} (h : Canonical s) :
    Canonical (s.warmAt job lid w).1 := by
  unfold State.warmAt
  dsimp only
  split
  · exact h
  · split
    · exact h
    · split
      · exact h
      · split
        · exact h
        · exact upd h

theorem waddAt {s : State} {i : Nat} {iv : Word} {elems : List Int} (h : Canonical s) :
    Canonical (s.waddAt i iv elems).1 := by
  unfold State.waddAt
  dsimp only
  split
  · exact h
  · split
    · exact h
    · split
      · exact h
      · split
        · exact h
        · split
          · exact h
          · split
            · exact h
            · exact upd h

theorem tileOp {s : State} {job : BitVec 16} {w : Word} {dead : WaleAns} {free : Bool} {f : State → Nat → State × WaleAns}
    (h : Canonical s) (hf : ∀ {t : State} {i : Nat}, Canonical t → Canonical (f t i).1) :
    Canonical (s.tileOp job w dead free f).1 := by
  unfold State.tileOp
  split
  · exact h
  · next i _ _ =>
      have flushed : Canonical (if ((s.flushAdds i).wale i).pois ∧ (((s.flushAdds i).wale i).st = .opened ∨
          ((s.flushAdds i).wale i).st = .complete) then (s.flushAdds i).dropTile i (FaultCode.operand Cause.poison)
          else s.flushAdds i) := ite (dropTile (flushAdds h)) (flushAdds h)
      extract_lets s1 s2 w
      split
      · exact flushed
      · exact hf flushed

theorem waleAt {s : State} {job : BitVec 16} {lid : BitVec 12} {op : WaleOp} (h : Canonical s) :
    Canonical (s.waleAt job lid op).1 := by
  unfold State.waleAt
  dsimp only
  split
  · exact warmAt h
  · exact tileOp h fun ht => waddAt ht
  · exact tileOp h fun ht => ht
  · exact tileOp h fun ht => ht
  · exact tileOp h fun ht => dropTile ht
  · refine tileOp h fun ht => ?_
    split
    · exact ht
    · exact upd ht

theorem waleReply {s : State} {c n : Nat} {d : GReg} {l : La} {v : Nat} {a : WaleAns} (h : Canonical s) :
    Canonical (s.waleReply c n d l v a) := by
  unfold State.waleReply
  split
  · exact modStrand h
  · exact modStrand (invalidateRc h)

theorem waleIssue {s : State} {d : GReg} {l : La} {op : WaleOp} (h : Canonical s) : Canonical (s.waleIssue d l op) := by
  unfold State.waleIssue
  dsimp only
  refine ite (await (upd h)) ?_
  split
  · split
    · exact flushAdds (waleReply (waleAt h))
    · exact waleReply (waleAt h)
  · exact waleReply (waleAt h)

theorem exec_wwait {s : State} {b : GReg} (h : Canonical s) : CanonicalRes (execWwait b s) := by
  unfold execWwait
  dsimp only
  refine ite (trapPc h) ?_
  split
  · exact advance (invalidateRc h)
  · exact ite (upd (park h)) (trap (tell h))

theorem wread {s : State} {a b : GReg} {n : VReg} {l : La} {int : Bool} (h : Canonical s) :
    Canonical (s.wread a b n l int) := by
  unfold State.wread
  exact ite (trapPc h) (waleIssue h)

theorem waleArrival {s : State} {id : Nat} {kind : WaleOp → Bool} (h : Canonical s) :
    Canonical (s.waleArrival id kind) := by
  unfold State.waleArrival
  split
  · exact h
  · refine ite h ?_
    split
    · next eq2 => exact ite (waleReply (fst eq2 (waleAt (upd h)))) (fst eq2 (waleAt (upd h)))

theorem dropTask {s : State} {cl : Nat} {t : Task} (h : Canonical s) : Canonical (s.dropTask cl t) := by
  unfold State.dropTask
  dsimp only
  exact sendDec (setTicket (unheld h))

theorem stopTile {s : State} {c : Nat} (h : Canonical s) : Canonical (s.stopTile c) := by
  unfold State.stopTile
  dsimp only
  split
  · exact abandonTile h
  · exact endHandlers (abandonTile h)

theorem stopCore {s : State} {c : Nat} (h : Canonical s) : Canonical (s.stopCore c) := by
  unfold State.stopCore
  dsimp only
  refine faultEnds (modCore_of_scratch (foldl (foldl ?_ fun ht => discardEnt ht) fun ht => dropTask ht) fun _ => rfl)
  split
  · exact sendDec (setTicket (foldl h fun ht => endStrand ht))
  · exact foldl h fun ht => endStrand ht

theorem abandonPreempt {s : State} {p : Preempt} (h : Canonical s) : Canonical (s.abandonPreempt p) := by
  unfold State.abandonPreempt
  dsimp only
  split
  · exact tileEnds (modMatrix (releaseHold (upd h)))
  · exact releaseHold (upd h)

theorem dropMoves {s : State} {c : Nat} (h : Canonical s) : Canonical (s.dropMoves c) := by
  unfold State.dropMoves
  dsimp only
  exact upd (foldl h fun ht => setStrand ht)

theorem fence {s : State} {leader : Nat} {told : Bool} (h : Canonical s) : Canonical (s.fence leader told) := by
  unfold State.fence
  dsimp only
  split
  · exact h
  · exact ite h (ite (tell (modJob (foldl (foldl (foldl (foldl (foldl (modHoods h) fun ht => abandonPreempt ht) fun ht =>
      stopTile ht) fun ht => cancelLaunch ht) fun ht => stopCore ht) fun ht => dropMoves ht)))
      (modJob (foldl (foldl (foldl (foldl (foldl (modHoods h) fun ht => abandonPreempt ht) fun ht => stopTile ht) fun ht =>
      cancelLaunch ht) fun ht => stopCore ht) fun ht => dropMoves ht)))

theorem exec_halt {s : State} (h : Canonical s) : CanonicalRes (execHalt s) := by
  unfold execHalt
  dsimp only
  refine ite (trapPc h) ?_
  split
  · exact fence (modMine_of_scratch (advance h) fun _ => rfl)
  · exact modMine_of_scratch (advance h) fun _ => rfl

theorem writeBlock_scratch {k : Core} {b : Block} : (k.writeBlock b).scratch = k.scratch := rfl

theorem withdraw {s : State} {c : Nat} (h : Canonical s) : Canonical (s.withdraw c) := by
  unfold State.withdraw
  dsimp only
  exact modCore_of_scratch (upd h) fun _ => rfl

theorem resetCore {s : State} {c : Nat} (h : Canonical s) : Canonical (s.resetCore c) := by
  unfold State.resetCore
  dsimp only
  exact setCore (withdraw (upd (foldl h fun ht => packet ht))) rfl

theorem exec_hoodReset {s : State} {leader : Nat} (h : Canonical s) : CanonicalRes (execHoodReset leader s) := by
  unfold execHoodReset
  dsimp only
  split
  · exact h
  · exact ite h (foldl (upd (foldl (modHoods h) fun ht => resetCore ht)) fun ht => loseMember ht)

theorem exec_hoodResetEnd {s : State} {leader : Nat} (h : Canonical s) : CanonicalRes (execHoodResetEnd leader s) := by
  unfold execHoodResetEnd
  dsimp only
  split
  · exact h
  · exact ite h (ite (upd h) (modHoods (foldl h fun ht => modCore_of_scratch ht fun _ => rfl)))

theorem exec_uncorrectableError {c : Nat} {slot : Option Nat} {s : State} (h : Canonical s) :
    CanonicalRes (execUncorrectableError c slot s) := by
  unfold execUncorrectableError
  split
  · exact ite (endStrand h) h
  · split
    · exact fence h
    · exact h

theorem writeBackHome {s : State} {line : Nat} {bad : List Nat} (h : Canonical s) :
    Canonical (s.writeBackHome line bad) := by
  unfold State.writeBackHome
  dsimp only
  exact ite h (ite (upd h) (tell (upd h)))

theorem spoil {s : State} {x : Spot} (h : Canonical s) : Canonical (s.spoil x) := by
  unfold State.spoil
  split
  · exact ite (upd h) (ite (upd h) h)
  · exact ite (modCore_of_scratch h fun _ => rfl) h
  · split
    · exact ite (modCore_of_scratch h fun _ => rfl) h
    · exact h
  · exact modColl h
  · exact ite (upd h) h

theorem correct {s : State} {n : Nat} (h : Canonical s) : Canonical (s.correct n) := h

end Sys2Proof.Memories.Canonical
end

section
/-!
PROOF. Memories in canonical form: page changes, host commands, the fabric and pre-emption keep them.
-/

open Sys2Proof Sys2Proof.Machine Sys2Proof.Claims

namespace Sys2Proof.Memories.Canonical

theorem dropScope {s : State} {sc : Scope} {c : Nat} {p : Line → Bool} (h : Canonical s) :
    Canonical (s.dropScope sc c p) := by
  unfold State.dropScope
  exact foldl h fun ht => dropLines ht

theorem flushGranule {s : State} {lo hi : Nat} {sc : Scope} (h : Canonical s) :
    CanonicalExcept id id (s.flushGranule lo hi sc) := by
  unfold State.flushGranule
  dsimp only
  split
  · exact trap h
  · split
    · next eq => exact trap (fst eq (translate h))
    · next eq => exact trap (fst eq (translate h))
    · next eq => exact ite (mergeRange (dropScope (fst eq (translate h)))) (dropScope (fst eq (translate h)))

theorem flushVirt {s : State} {lo hi n : Nat} {sc : Scope} (h : Canonical s) : Canonical (s.flushVirt lo hi sc n) := by
  induction n generalizing s lo with
  | zero => exact advance h
  | succ n ih =>
    unfold State.flushVirt
    dsimp only
    split
    · next eq => exact (flushGranule h).error eq
    · next eq => exact ih ((flushGranule h).ok eq)

theorem flushPhys {s : State} {lo hi : Nat} {sc : Scope} (h : Canonical s) : Canonical (s.flushPhys lo hi sc) := by
  unfold State.flushPhys
  dsimp only
  exact advance (ite (mergeRange (dropScope h)) (dropScope h))

theorem exec_flushComplete {s : State} {c n : Nat} (h : Canonical s) : CanonicalRes (execFlushComplete c n s) := by
  unfold execFlushComplete
  dsimp only
  split
  · exact ite h (asStrand h fun ht => ite (flushPhys (modMe ht)) (flushVirt (modMe ht)))
  · exact h

theorem xlDrop {s : State} {job : BitVec 16} {lo hi : Nat} (h : Canonical s) : Canonical (s.xlDrop job lo hi) := by
  unfold State.xlDrop
  dsimp only
  exact dropAllLines (upd h)

theorem xlTell {s : State} {job : BitVec 16} {lo hi : Nat} (h : Canonical s) : Canonical (s.xlTell job lo hi) := by
  unfold State.xlTell
  dsimp only
  exact foldl (upd h) fun ht => send ht

theorem xlTry {s : State} {job : BitVec 16} {lo hi : Nat} (h : Canonical s) : Canonical (s.xlTry job lo hi).1 := by
  unfold State.xlTry
  dsimp only
  split
  · exact xlTell h
  · exact xlDrop (xlTell h)

theorem peerAck {s : State} {n : Nat} (h : Canonical s) : Canonical (s.peerAck n) := by
  unfold State.peerAck
  exact heard h fun ht => upd ht

theorem exec_xlinv {s : State} {b c : GReg} (h : Canonical s) : CanonicalRes (execXlinv b c s) := by
  unfold execXlinv
  dsimp only
  exact ite (trapPc h) (ite (trap h) (ite (block h) (await (acquired (released (relDone (fenced h)))))))

theorem exec_xlinvComplete {s : State} {c n : Nat} (h : Canonical s) : CanonicalRes (execXlinvComplete c n s) := by
  unfold execXlinvComplete
  split
  · split
    · next eq2 => exact ite (asStrand (fst eq2 (xlTry h)) fun ht => advance ht) (fst eq2 (xlTry h))
  · exact h

theorem attrChange {s : State} {job : BitVec 16} {fatbase : Word} {frame : Nat} {ty : PageTy} (h : Canonical s) :
    Canonical (s.attrChange job fatbase frame ty) := by
  unfold State.attrChange
  dsimp only
  exact homeWrite (upd (ite (woClear (dropAllLines (mergeRange h))) (dropAllLines (mergeRange h))))

theorem exec_attrsetComplete {s : State} {c n : Nat} (h : Canonical s) : CanonicalRes (execAttrsetComplete c n s) := by
  unfold execAttrsetComplete
  split
  · exact asStrand (attrChange h) fun ht => advance ht
  · exact h

theorem sealPage {s : State} {job : BitVec 16} {va pte lo hi : Nat} (h : Canonical s) :
    Canonical (s.sealPage job va pte lo hi) := by
  unfold State.sealPage
  dsimp only
  exact ite h (homeWrite (upd (dropAllLines (woClear h))))

theorem exec_sealPage {s : State} {b : GReg} (h : Canonical s) : CanonicalRes (execSealPage b s) := by
  unfold execSealPage
  dsimp only
  split
  · exact trap h
  · split
    · next eq2 => exact trap (fst eq2 (translate h))
    · next eq2 => exact invalidAt (fst eq2 (translate h))
    · next eq2 =>
        refine ite (trap (fst eq2 (translate h))) (ite (advance (fst eq2 (translate h))) ?_)
        split
        · exact invalidAt (fst eq2 (translate h))
        · exact ite (block (fst eq2 (translate h))) (await (released (relDone (fenced (fst eq2 (translate h))))))
  · exact trap h

theorem exec_sealComplete {s : State} {c n : Nat} (h : Canonical s) : CanonicalRes (execSealComplete c n s) := by
  unfold execSealComplete
  split
  · exact ite h (asStrand (sealPage h) fun ht => advance ht)
  · exact h

theorem exec_wingrant {s : State} {a b : GReg} {l : La} (h : Canonical s) : CanonicalRes (execWingrant a b l s) := by
  unfold execWingrant
  dsimp only
  refine ite (trap h) ?_
  split
  · next eq => exact (words h).error eq
  · next eq =>
      refine ite (trap ((words h).ok eq)) ?_
      split
      · exact writeLate ((words h).ok eq)
      · exact await (send (modJob ((words h).ok eq)))

theorem exec_wingrantAck {s : State} {job : BitVec 16} {i : Nat} (h : Canonical s) :
    CanonicalRes (execWingrantAck job i s) := by
  unfold execWingrantAck
  dsimp only
  refine heard h fun ht => ?_
  split
  · exact ht
  · exact ite ht (upd (mapCores (modJob ht) fun _ => rfl))

theorem exec_winrev {s : State} {b : GReg} (h : Canonical s) : CanonicalRes (execWinrev b s) := by
  unfold execWinrev
  dsimp only
  refine ite (trap h) ?_
  split
  · exact advance h
  · exact await (ite (modJob h) (send (modJob h)))

theorem exec_winrevComplete {s : State} {job : BitVec 16} {i : Nat} (h : Canonical s) :
    CanonicalRes (execWinrevComplete job i s) := by
  unfold execWinrevComplete
  dsimp only
  refine heard h fun ht => ?_
  split
  · exact ite ht (upd (mapCores (modJob ht) fun _ => rfl))
  · exact ht

theorem badArg {s : State} (h : Canonical s) : Canonical s.badArg.1 := by
  unfold State.badArg
  exact h

theorem okData {s : State} {d : List Byte} (h : Canonical s) : Canonical (s.okData d).1 := by
  unfold State.okData
  exact h

theorem jobnew {s : State} {key : List Byte} {p : List Byte} (h : Canonical s) : Canonical (s.jobnew key p).1 := by
  unfold State.jobnew
  dsimp only
  split
  · exact h
  · split
    · exact h
    · split
      · exact h
      · exact upd h

theorem hoodset {s : State} {f : From} {p : List Byte} (h : Canonical s) : Canonical (s.hoodset f p).1 := by
  unfold State.hoodset
  dsimp only
  split
  · exact badArg h
  · split
    · exact badArg h
    · split
      · exact h
      · exact okData (upd (foldl h fun ht => setCore ht rfl))

theorem cregset {s : State} {f : From} {p : List Byte} (h : Canonical s) : Canonical (s.cregset f p).1 := by
  unfold State.cregset
  dsimp only
  split
  · exact badArg h
  · split
    · exact okData (modHoods (foldl h fun ht => modCore_of_scratch ht fun _ => rfl))
    · exact badArg h

theorem mapEntry {s : State} {job : BitVec 16} {j : Job} {x : Word × Word} (h : Canonical s) :
    CanonicalOption Prod.fst (s.mapEntry job j x) := by
  unfold State.mapEntry
  dsimp only
  split
  · trivial
  · cases s.tableAt (bits x.1 0 48) (bits x.1 48 2) 4 (bits (s.jobEntry j.jtbase job 0) 0 48) with
    | none => trivial
    | some => exact homeWrite h

theorem mapInv {s : State} {job : BitVec 16} {x : Word × Word} (h : Canonical s) : Canonical (s.mapInv job x).1 := by
  unfold State.mapInv
  exact xlTry h

theorem mapFrom {s : State} {job : BitVec 16} {j : Job} {n : Nat} {xs : List (Word × Word)} (h : Canonical s) :
    Canonical (s.mapFrom job j n xs).1 := by
  induction xs generalizing s n with
  | nil => exact h
  | cons x xs ih =>
    unfold State.mapFrom
    split
    · exact h
    · next eq => exact ih ((mapEntry h).some eq)
    · next eq =>
        have h1 := mapInv (job := job) (x := x) ((mapEntry h).some eq)
        dsimp only
        split
        · exact ih h1
        · exact modJob h1

theorem takePairs {f : State → Word × Word → Option State} {s : State} {n : Nat} {xs : List (Word × Word)} (h : Canonical s)
    (hf : ∀ {t : State} {x : Word × Word}, Canonical t → CanonicalOption id (f t x)) :
    Canonical (Machine.takePairs f s n xs).1 := by
  induction xs generalizing s n with
  | nil => exact h
  | cons x xs ih =>
    unfold Machine.takePairs
    split
    · next eq => exact ih ((hf h).some eq)
    · exact h

theorem pairsDone {s : State} {k n : Nat} (h : Canonical s) : Canonical (pairsDone s k n).1 := by
  unfold Machine.pairsDone
  exact h

theorem mapPairs {s : State} {f : From} {p : List Byte} (h : Canonical s) : Canonical (s.mapPairs f p).1 := by
  unfold State.mapPairs
  dsimp only
  split
  · split
    · exact badArg h
    · split
      · split
        · exact pairsDone (mapFrom h)
        · exact mapFrom h
      · split
        · split
          · exact pairsDone (mapFrom (modJob (mapInv h)))
          · exact mapFrom (modJob (mapInv h))
        · exact mapInv h
  · exact badArg h

theorem attrPairs {s : State} {f : From} {p : List Byte} (h : Canonical s) : Canonical (s.attrPairs f p).1 := by
  unfold State.attrPairs
  dsimp only
  split
  · split
    · exact badArg h
    · refine pairsDone (takePairs h fun ht => ?_)
      split
      · exact attrChange ht
      · exact trivial
  · exact badArg h

theorem writeLines {s : State} {job : BitVec 16} {wo : Bool} {fuel pa : Nat} {bs : List Byte} (h : Canonical s) :
    Canonical (s.writeLines job wo fuel pa bs) := by
  induction fuel generalizing s pa bs with
  | zero => exact h
  | succ n ih =>
    unfold State.writeLines
    exact ite h (ih (homeWrite (ite (woMark h) h)))

theorem loadPiece {s : State} {job : BitVec 16} {x : Piece} {bs : List Byte} (h : Canonical s) :
    Canonical (s.loadPiece job x bs) := by
  unfold State.loadPiece
  dsimp only
  exact writeLines (dropAllLines (mergeRange h))

theorem loadPieces {s : State} {job : BitVec 16} {xs : List Piece} {bs : List Byte} (h : Canonical s) :
    Canonical (s.loadPieces job xs bs) := by
  induction xs generalizing s bs with
  | nil => exact h
  | cons x xs ih => exact ih (loadPiece h)

theorem loadBytes {s : State} {f : From} {p : List Byte} (h : Canonical s) : Canonical (s.loadBytes f p).1 := by
  unfold State.loadBytes
  dsimp only
  split
  · exact badArg h
  · split
    · exact badArg h
    · split
      · exact badArg h
      · split
        · exact badArg h
        · exact okData (foldl h fun ht => loadPieces ht)

theorem readBytes {s : State} {f : From} {p : List Byte} (h : Canonical s) : Canonical (s.readBytes f p).1 := by
  unfold State.readBytes
  dsimp only
  split
  · exact badArg h
  · split
    · exact badArg h
    · split
      · exact badArg h
      · split
        · exact badArg h
        · exact okData (foldl h fun ht => dropAllLines (mergeRange ht))

theorem launchFor {s : State} {f : From} {p : List Byte} (h : Canonical s) : Canonical (s.launchFor f p).1 := by
  unfold State.launchFor
  dsimp only
  split
  · exact badArg h
  · split
    · exact h
    · split
      · next eq2 => exact okData ((makeLaunch h).some eq2)
      · exact h

theorem hwgrant {s : State} {f : From} {p : List Byte} (h : Canonical s) : Canonical (s.hwgrant f p).1 := by
  unfold State.hwgrant
  dsimp only
  split
  · exact badArg h
  · exact okData (modJob h)

theorem hwrevoke {s : State} {f : From} {p : List Byte} (h : Canonical s) : Canonical (s.hwrevoke f p).1 := by
  unfold State.hwrevoke
  dsimp only
  split
  · exact badArg h
  · split
    · exact okData h
    · split
      · exact modJob h
      · exact okData (modJob h)

theorem sealFor {s : State} {f : From} {p : List Byte} (h : Canonical s) : Canonical (s.sealFor f p).1 := by
  unfold State.sealFor
  dsimp only
  split
  · exact badArg h
  · split
    · exact badArg h
    · split
      · exact badArg h
      · split
        · exact badArg h
        · split
          · exact okData h
          · split
            · exact h
            · exact okData (sealPage h)

theorem cntread {s : State} {f : From} {p : List Byte} (h : Canonical s) : Canonical (s.cntread f p).1 := by
  unfold State.cntread
  dsimp only
  split
  · exact badArg h
  · split
    · exact okData h
    · split
      · exact okData h
      · split
        · split
          · exact okData h
          · exact badArg h
        · split
          · exact okData h
          · split
            · exact okData h
            · exact badArg h

theorem collset {s : State} {f : From} {p : List Byte} (h : Canonical s) : Canonical (s.collset f p).1 := by
  unfold State.collset
  dsimp only
  split
  · exact badArg h
  · exact okData (modJob h)

theorem attest {s : State} {p : List Byte} (h : Canonical s) : Canonical (s.attest p).1 := by
  unfold State.attest
  split
  · exact okData h
  · exact badArg h

theorem beginEnd {s : State} {job : BitVec 16} (h : Canonical s) : Canonical (s.beginEnd job) := by
  unfold State.beginEnd
  dsimp only
  exact modHoods (foldl (foldl (modJob (cancelUnit h)) fun ht => withdraw ht) fun ht => fence ht)

theorem finishEnd {s : State} {job : BitVec 16} (h : Canonical s) : Canonical (s.finishEnd job) := by
  unfold State.finishEnd
  dsimp only
  exact upd h

theorem jobend {s : State} {f : From} {p : List Byte} (h : Canonical s) : Canonical (s.jobend f p).1 := by
  unfold State.jobend
  dsimp only
  split
  · exact badArg h
  · split
    · split
      · exact h
      · exact okData h
    · split
      · exact beginEnd h
      · exact okData (beginEnd h)

theorem ifEnded {s : State} {job : BitVec 16} (h : Canonical s) : Canonical (s.ifEnded job) := by
  unfold State.ifEnded
  exact ite (finishEnd h) h

theorem logPut {s : State} {job : BitVec 16} {j : Job} {off : Nat} {bs : List Byte} (h : Canonical s) :
    Canonical (s.logPut job j off bs) := by
  unfold State.logPut
  dsimp only
  exact writeLines (writeLines h)

theorem logAppend {s : State} {job : BitVec 16} {r : LogRec} (h : Canonical s) : Canonical (s.logAppend job r) := by
  unfold State.logAppend
  split
  · exact h
  · exact modJob (logPut h)

theorem logStatus {s : State} {job : BitVec 16} {seq status : Nat} (h : Canonical s) :
    Canonical (s.logStatus job seq status) := by
  unfold State.logStatus
  dsimp only
  split
  · exact h
  · exact ite h (modJob (logPut h))

theorem runCode {s : State} {f : From} {code : BitVec 8} {p : List Byte} (h : Canonical s) :
    Canonical (s.runCode f code p).1 := by
  unfold State.runCode
  split
  · exact hoodset h
  · exact mapPairs h
  · exact attrPairs h
  · exact loadBytes h
  · exact readBytes h
  · exact launchFor h
  · exact hwgrant h
  · exact hwrevoke h
  · exact sealFor h
  · exact cntread h
  · exact attest h
  · exact collset h
  · exact jobend h
  · exact cregset h
  · exact h

theorem complete {s : State} {port : Fin 8} {job : BitVec 16} {seq status : Nat} {d : List Byte} (h : Canonical s) :
    Canonical (s.complete port job seq status d) := by
  unfold State.complete
  exact send h

theorem executed {s : State} {port : Fin 8} {job : BitVec 16} {seq status : Nat} {d : List Byte} (h : Canonical s) :
    Canonical (s.executed port job seq status d) := by
  unfold State.executed
  dsimp only
  exact complete (ifEnded (modJob (logStatus h)))

theorem replayOne {s : State} {job : BitVec 16} {r : LogRec} (h : Canonical s) : Canonical (s.replayOne job r).1 := by
  unfold State.replayOne
  dsimp only
  split
  · next eq => exact fst eq (runCode h)
  · next eq => exact ifEnded (ite (logStatus (fst eq (runCode h))) (complete (logStatus (fst eq (runCode h)))))

theorem replayRun {s : State} {job : BitVec 16} {n : Nat} (h : Canonical s) : Canonical (s.replayRun job n) := by
  induction n generalizing s with
  | zero => exact h
  | succ n ih =>
    unfold State.replayRun
    split
    · split
      · next eq => exact ih (modJob (fst eq (replayOne h)))
      · next eq => exact fst eq (replayOne h)
    · exact h

theorem replayStep {s : State} {job : BitVec 16} (h : Canonical s) : Canonical (s.replayStep job).1 := by
  unfold State.replayStep
  split
  · exact h
  · split
    · exact h
    · extract_lets s1 quiet s2 s3
      have h1 : Canonical s1 := ite (modJob (cancelUnder (cancelPhase h))) h
      have h3 : Canonical s3 := replayRun (ite (modJob h1) h1)
      clear_value s3
      split
      · exact modJob h3
      · exact h3

theorem logctl {s : State} {f : From} {p : List Byte} (h : Canonical s) : Canonical (s.logctl f p).1 := by
  unfold State.logctl
  dsimp only
  split
  · exact badArg h
  · split
    · exact badArg h
    · split
      · exact okData h
      · split
        · exact okData (replayStep h)
        · exact replayStep h

theorem attempt {s : State} {job : BitVec 16} {j : Job} {code : BitVec 8} {c : Cmd} (h : Canonical s) :
    CanonicalAttempt (s.attempt job j code c) := by
  unfold State.attempt
  extract_lets f here r s1
  have h1 : Canonical s1 := ite (logAppend h) h
  have ran : Canonical (if code = 0x0C then s1.logctl f c.payload else s1.runCode f code c.payload).1 := by
    split
    · exact logctl h1
    · exact runCode h1
  clear_value s1
  split
  · exact complete (modJob h)
  · split
    · next eq => exact executed (fst eq ran)
    · next eq => exact fst eq ran

theorem pump {s : State} {job : BitVec 16} {n : Nat} (h : Canonical s) : Canonical (s.pump job n) := by
  induction n generalizing s with
  | zero => exact h
  | succ n ih =>
    unfold State.pump
    split
    · exact h
    · split
      · exact h
      · split
        · next eq => exact ih ((attempt h).done eq)
        · next eq => exact (attempt h).stuck eq

theorem pumpJob {s : State} {job : BitVec 16} (h : Canonical s) : Canonical (s.pumpJob job) := by
  unfold State.pumpJob
  exact pump h

theorem command {s : State} {code : BitVec 8} {c : Cmd} (h : Canonical s) : Canonical (s.command code c) := by
  unfold State.command
  dsimp only
  refine ite h (ite (complete (jobnew h)) ?_)
  split
  · exact complete h
  · refine ite (modPort h) ?_
    split
    · exact complete h
    · exact ite (complete h) (ite (complete (modJob h)) (pumpJob (ite h (modJob h))))

theorem grantNoticed {s : State} {dev : Nat} {job : BitVec 16} {n : Notice} (h : Canonical s) :
    Canonical (s.grantNoticed dev job n) := by
  unfold State.grantNoticed
  exact send (modJob h)

theorem revokeNoticed {s : State} {dev : Nat} {job : BitVec 16} {i : Nat} (h : Canonical s) :
    Canonical (s.revokeNoticed dev job i) := by
  unfold State.revokeNoticed
  dsimp only
  exact send (modJob h)

theorem peerAt {s : State} {job : BitVec 16} {pa : Nat} {ty : PageTy} {shut : Bool} {op : PeerOp} (h : Canonical s) :
    CanonicalGot (s.peerAt job pa ty shut op) := by
  unfold State.peerAt
  dsimp only
  split
  · split
    · split <;> exact privAccess h
    · split <;> exact h
  · split
    · exact h
    · split
      · split
        · next eq2 => exact (writeWo h).ok eq2
        · next eq2 => exact (writeWo h).bad eq2
        · next eq2 => exact (writeWo h).invalid eq2
      · exact homeWrite (ite (privAccess h) h)
  · split
    · exact h
    · exact h
    · exact amoHome (privAccess h)
    · exact amoHome h

theorem peerVirt {s : State} {dev : Nat} {job : BitVec 16} {j : Job} {va : Nat} {op : PeerOp} (h : Canonical s) :
    CanonicalGot (s.peerVirt dev job j va op) := by
  unfold State.peerVirt
  dsimp only
  split
  · exact h
  · split
    · exact h
    · split
      · exact h
      · exact h
      · exact peerAt (ite (upd h) h)

theorem peer {s : State} {own : BitVec 16 → Bool} {dev : Nat} {job : BitVec 16} {idx off : Nat} {op : PeerOp}
    (h : Canonical s) :
    Canonical (s.peer own dev job idx off op) := by
  unfold State.peer
  dsimp only
  split
  · exact send h
  · refine ite (send h) (ite (send h) (ite (send h) ?_))
    split
    · next eq2 => exact send ((peerVirt h).ok eq2)
    · next eq2 => exact send ((peerVirt h).bad eq2)
    · next eq2 => exact send ((peerVirt h).invalid eq2)

/-- One piece of a collective's result. -/
theorem collPiece {ag : Agent} {r : State × Option (BitVec 8)} {b : Word × List Byte} (h : Canonical r.1) :
    Canonical (match r.2 with
      | some _ => r
      | none => match r.1.writeAt ag b.1 b.2 false with
        | .ok s _ => (s, none)
        | .bad s c => (s, some c)
        | .invalid s _ _ => (s, some Cause.xlFault) : State × Option (BitVec 8)).1 := by
  split
  · exact h
  · split
    · next eq => exact (writeAt h).ok eq
    · next eq => exact (writeAt h).bad eq
    · next eq => exact (writeAt h).invalid eq

theorem collResult {s : State} {ag : Agent} {a : Word} {w : Nat} {vs : List Nat} (h : Canonical s) :
    Canonical (s.collResult ag a w vs).1 := by
  induction vs generalizing s a with
  | nil => exact h
  | cons v vs ih =>
    unfold State.collResult
    extract_lets step put parts
    have put_keeps (r : State × Option (BitVec 8)) (b : Word × List Byte) (hr : Canonical r.1) : Canonical (put r b).1 :=
      collPiece hr
    have written : Canonical (parts.foldl put (s, none)).1 :=
      foldl_keeps (P := fun r : State × Option (BitVec 8) => Canonical r.1) put_keeps _ h
    split
    · next eq => exact ih (fst eq written)
    · exact written

theorem collTry {s : State} {job : BitVec 16} {c : Nat} (h : Canonical s) : Canonical (s.collTry job c) := by
  unfold State.collTry
  split
  · exact h
  · extract_lets tell
    have told {t : State} {d : List Nat} {code : BitVec 8} (ht : Canonical t) : Canonical (tell d code t) := ite (send ht)
      ht
    clear_value tell
    refine ite h (ite (told (failGen h)) ?_)
    split
    · exact h
    · dsimp only
      split
      · exact failGen (collResult (told h))
      · exact packet (modColl (collResult (told h)))

theorem contribute {s : State} {job : BitVec 16} {c rank gen : Nat} {d : Option (List Nat)} (h : Canonical s) :
    Canonical (s.contribute job c rank gen d) := by
  unfold State.contribute
  split
  · exact h
  · exact ite h (collTry (modColl h))

theorem collGo {s : State} {job : BitVec 16} {c : Nat} {x : Coll} (h : Canonical s) : Canonical (s.collGo job c x) := by
  unfold State.collGo
  dsimp only
  exact ite (failGen h) (contribute (send (modColl h)))

theorem goLane {s : State} {job : BitVec 16} {c gen : Nat} (h : Canonical s) : CanonicalFate (s.goLane job c gen) := by
  unfold State.goLane
  split
  · exact trivial
  · split
    · exact trivial
    · exact collGo h

theorem exec_goWord {s : State} {job : BitVec 16} {c : Fin 32} {gen : Word} (h : Canonical s) :
    CanonicalRes (execGoWord job c gen s) := by
  unfold execGoWord
  dsimp only
  split
  · exact h
  · refine answer h fun ht => ?_
    split
    · exact goLane ht
    · exact perform ht

theorem contributed {s : State} {job : BitVec 16} {c rank gen : Nat} {d : List Byte} (h : Canonical s) :
    Canonical (s.contributed job c rank gen d) := by
  unfold State.contributed
  split
  · exact ite h (contribute h)
  · exact h

theorem exec_collectiveTimeout {s : State} {job : BitVec 16} {c : Fin 32} (h : Canonical s) :
    CanonicalRes (execCollectiveTimeout job c s) := by
  unfold execCollectiveTimeout
  split
  · exact ite (breakColl h) h
  · exact h

theorem join {s : State} {dev : Nat} (h : Canonical s) : Canonical (s.join dev) := by
  unfold State.join
  exact upd h

theorem leave {s : State} (h : Canonical s) : Canonical s.leave := by
  unfold State.leave
  dsimp only
  exact foldl h fun ht => loseMember ht

theorem delivered {s : State} {own : BitVec 16} {x : Inbound} (h : Canonical s) : Canonical (s.delivered own x) := by
  cases x with
  | cmd => exact command h
  | peer => exact peer h
  | grantNotice => exact grantNoticed h
  | revokeNotice => exact revokeNoticed h
  | contribution => exact contributed h
  | loss => exact breakColl h

theorem exec_linkRetry {port : Option (Fin 8)} {s : State} (h : Canonical s) : CanonicalRes (execLinkRetry port s) := by
  unfold execLinkRetry
  split
  · exact modPort h
  · exact h

theorem takeOwed {s : State} {c : Nat} (h : Canonical s) : Canonical (s.takeOwed c) := by
  unfold State.takeOwed
  exact foldl h fun ht => takeAsync ht

theorem stopIssue {s : State} {c : Nat} (h : Canonical s) : Canonical (s.stopIssue c) := by
  unfold State.stopIssue
  dsimp only
  exact foldl h fun ht => ite (modStrand (unlead ht)) ht

theorem abandonUnit {s : State} {c : Nat} (h : Canonical s) : Canonical (s.abandonUnit c).1 := by
  unfold State.abandonUnit
  dsimp only
  split
  · exact failLoad h
  · split
    · exact failLoad h
    · exact endHandlers (modMatrix (failLoad h))

theorem abandonStep {s : State} {p : Preempt} (h : Canonical s) : Canonical (s.abandonStep p) := by
  unfold State.abandonStep
  dsimp only
  exact ite h (upd (abandonUnit h))

theorem exec_preemptionStream {s : State} {src : Nat} (h : Canonical s) : CanonicalRes (execPreemptionStream src s) := by
  unfold execPreemptionStream
  dsimp only
  split
  · exact h
  · exact ite h (ite (abandonStep (stopIssue h)) (upd (abandonStep (stopIssue h))))

theorem moved_scratch {k old : Core} : (k.moved old).scratch = k.scratch := rfl

theorem rename {s : State} {src dst : Nat} (h : Canonical s) : Canonical (s.rename src dst) := by
  unfold State.rename
  dsimp only
  exact upd h

theorem reexecute {s : State} {c : Nat} {redo : Bool} (h : Canonical s) : Canonical (s.reexecute c redo) := by
  unfold State.reexecute
  dsimp only
  split
  · exact loadEnds h
  · exact ite (modCore_of_scratch (modMatrix h) fun _ => rfl) (loadEnds (tileEnds (modMatrix (modMatrix h))))

theorem exec_preemptionResume {src : Nat} {s : State} (h : Canonical s) : CanonicalRes (execPreemptionResume src s) := by
  unfold execPreemptionResume
  split
  · exact h
  · next p _ =>
      have left : Canonical (((s.dropLines src fun _ => true).dropLines p.dst fun _ => true).withdraw p.dst) :=
        withdraw (dropLines (dropLines h))
      exact ite h (releaseHold (reexecute (rename (upd (setCore (setCore left (core left)) rfl)))))

end Sys2Proof.Memories.Canonical
end

section
/-!
PROOF. Memories in canonical form: the brim sequence, the platform, control registers and the vector instructions keep them.
-/

open Sys2Proof Sys2Proof.Machine Sys2Proof.Claims

namespace Sys2Proof.Memories.Canonical

theorem raisePFail {s : State} {c : Nat} (h : Canonical s) : Canonical (s.raisePFail c) := by
  unfold State.raisePFail
  split
  · exact raise h
  · exact h

theorem stopUnit {s : State} {c : Nat} (h : Canonical s) : Canonical (s.stopUnit c) := by
  unfold State.stopUnit
  dsimp only
  split
  · exact abandonTile (failLoad h)
  · exact faultEnds (endHandlers (abandonTile (failLoad h)))

theorem detect {s : State} {thermal : Bool} (h : Canonical s) : Canonical (s.detect thermal) := by
  unfold State.detect
  dsimp only
  exact ite h (foldl (foldl (foldl (upd h) fun ht => abandonPreempt ht) fun ht => stopUnit ht) fun ht => raisePFail ht)

theorem trip {s : State} {island : Nat} {data : List Byte} (h : Canonical s) : Canonical (s.trip island data) := by
  unfold State.trip
  dsimp only
  exact ite h (upd h)

theorem flushLane {s : State} {e : JEnt} {c : Nat} {l : Lane} (h : Canonical s) : Canonical (State.flushLane e c s l) := by
  unfold State.flushLane
  dsimp only
  refine ite h ?_
  split
  · next eq => exact (perform h).done eq
  · exact h

theorem flushJournal {s : State} {c : Nat} (h : Canonical s) : Canonical (s.flushJournal c) := by
  unfold State.flushJournal
  dsimp only
  exact modCore_of_scratch (foldl h fun ht => foldl ht fun ht => flushLane ht) fun _ => rfl

theorem flushStore {s : State} {a : Access} (h : Canonical s) : Canonical (s.flushStore a) := by
  unfold State.flushStore
  dsimp only
  split
  · split
    · next eq3 => exact (homeAcc h).ok eq3
    · next eq3 => exact (homeAcc h).bad eq3
    · next eq3 => exact (homeAcc h).invalid eq3
  · exact scrWrite h
  · split
    · next eq3 => exact (writeVirt h).ok eq3
    · next eq3 => exact (writeVirt h).bad eq3
    · next eq3 => exact (writeVirt h).invalid eq3
  · exact h

theorem exec_phaseAEnd {s : State} (h : Canonical s) : CanonicalRes (execPhaseAEnd s) := by
  unfold execPhaseAEnd
  dsimp only
  exact ite h (upd (dropAllLines (upd (foldl (foldl (upd (mapCores h fun _ => rfl)) fun ht => flushJournal ht) fun ht =>
    flushStore ht))))

theorem saveWrite {s : State} {off : Nat} {bs : List Byte} (h : Canonical s) : Canonical (s.saveWrite off bs) := by
  unfold State.saveWrite
  exact upd (putBytes h)

theorem saveItem {s : State} {gen : BitVec 16} {room : Nat} {x : SaveItem × Nat} (h : Canonical s) :
    Canonical (State.saveItem gen room s x) := by
  unfold State.saveItem
  dsimp only
  split
  · exact h
  · exact upd (saveWrite h)

theorem saveAll {s : State} {room : Nat} {xs : List SaveItem} (h : Canonical s) : Canonical (s.saveAll room xs) := by
  unfold State.saveAll
  dsimp only
  exact upd (ite (saveWrite (saveWrite (foldl (saveWrite (saveWrite h)) fun ht => saveItem ht)))
    (foldl (saveWrite (saveWrite h)) fun ht => saveItem ht))

theorem exec_ckchk {s : State} {g : GReg} {a : CReg} {b : CkArg} (h : Canonical s) : CanonicalRes (execCkchk g a b s) := by
  unfold execCkchk
  split
  · exact trap h
  · exact vec h

theorem exec_vlease {s : State} (h : Canonical s) : CanonicalRes (execVlease s) := by
  unfold execVlease
  exact ite (trapPc h) (ite (advance h) (ite (advance (modMe h)) (modMine_of_scratch (park h) fun _ => rfl)))

theorem exec_vfree {s : State} (h : Canonical s) : CanonicalRes (execVfree s) := by
  unfold execVfree
  exact ite (trapPc h) (ite (modMine_of_scratch (advance (modMe h)) fun _ => grantLease_scratch) (advance h))

theorem modMilliner {s : State} {f : Milliner → Milliner} (h : Canonical s) : Canonical (s.modMilliner f) := by
  unfold State.modMilliner
  exact upd h

theorem sampleIsland {s : State} {i : Nat} {r : Reading} (h : Canonical s) : Canonical (s.sampleIsland i r) := by
  unfold State.sampleIsland
  dsimp only
  exact ite (modMilliner (modIsland h)) (modIsland h)

theorem exec_millinerSample {rs : List Reading} {s : State} (h : Canonical s) : CanonicalRes (execMillinerSample rs s) := by
  unfold execMillinerSample
  extract_lets rd s1 s2
  have h2 : Canonical s2 := foldl (modMilliner h) fun ht => sampleIsland ht
  clear_value s2 rd
  split
  · exact ite h2 (detect (trip h2))
  · exact ite (modMilliner h2) h2

/-- Of the memories the save store alone is kept. -/
theorem exec_boot {microcode : List (List Byte)} {s : State} (h : Canonical s) : CanonicalRes (execBoot microcode s) :=
  ite h (upd ⟨wf_filter h.1, fun _ hx => nomatch hx⟩)

theorem setCr {s : State} {c : CrName} {x : Word} (h : Canonical s) : Canonical (s.setCr c x) := by
  unfold State.setCr
  dsimp only
  split
  · exact modMe h
  · exact modMe h
  · exact modMe h
  · exact modMe h
  · exact modMe h
  · exact modMe h
  · exact modMe h
  · exact modMe h
  · exact modMe h
  · exact modMe h
  · exact modMine_of_scratch h fun _ => rfl
  · exact modMine_of_scratch h fun _ => rfl
  · exact modMine_of_scratch h fun _ => rfl
  · exact modMine_of_scratch h fun _ => rfl
  · exact modMine_of_scratch h fun _ => rfl
  · exact modMine_of_scratch h fun _ => rfl
  · exact modMine_of_scratch h fun _ => rfl
  · exact modMine_of_scratch h fun _ => rfl
  · exact modMine_of_scratch h fun _ => rfl
  · exact modMine_of_scratch h fun _ => rfl
  · exact modMine_of_scratch h fun _ => rfl
  · exact modMine_of_scratch h fun _ => rfl
  · exact modWeaver h
  · exact h
  · exact h
  · exact h
  · exact h
  · exact h
  · exact h
  · exact h
  · exact h
  · exact h

theorem wrCr {s : State} {c : CrName} {v : Word} {k : State → State} (h : Canonical s)
    (hk : ∀ {t : State}, Canonical t → Canonical (k t)) : Canonical (s.wrCr c v k) := by
  unfold State.wrCr
  split
  · exact trapPc h
  · exact ite (trap h) (hk (setCr h))

theorem exec_ctlr {s : State} {a : GReg} {c : CrName} {l : La} (h : Canonical s) : CanonicalRes (execCtlr a c l s) := by
  unfold execCtlr
  split
  · exact trapPc h
  · exact writeLate h

theorem intOp {s : State} {d a b : VReg} {k : KReg} {ty : IntTy} {f : Nat → Nat → Nat} (h : Canonical s) :
    CanonicalRes (s.intOp d a b k ty f) := by
  unfold State.intOp
  dsimp only
  exact vec h

theorem fltOp2 {s : State} {d a b : VReg} {k : KReg} {ty : FltTy} {f : Rm → Fp → Fp → Fp} (h : Canonical s) :
    CanonicalRes (s.fltOp2 d a b k ty f) := by
  unfold State.fltOp2
  dsimp only
  exact vec h

theorem fltOp1 {s : State} {d a : VReg} {k : KReg} {ty : FltTy} {f : Fp → Fp} (h : Canonical s) :
    CanonicalRes (s.fltOp1 d a k ty f) := by
  unfold State.fltOp1
  dsimp only
  exact vec h

theorem fltFused {s : State} {d a b : VReg} {k : KReg} {ty : FltTy} {f : Fp → Fp} (h : Canonical s) :
    CanonicalRes (s.fltFused d a b k ty f) := by
  unfold State.fltFused
  dsimp only
  exact vec h

theorem fltPick2 {s : State} {d a b : VReg} {k : KReg} {ty : FltTy} {f : Fp → Fp → Fp} (h : Canonical s) :
    CanonicalRes (s.fltPick2 d a b k ty f) := by
  unfold State.fltPick2
  dsimp only
  exact vec h

theorem laneCheck {s : State} {a : Word} {n : Nat} {nd : Need} (h : Canonical s) : CanonicalGot (s.laneCheck a n nd) := by
  unfold State.laneCheck
  split
  · exact h
  · exact h
  · exact h
  · exact h
  · exact h
  · split
    · next eq2 => exact fst eq2 (translate h)
    · next eq2 => exact fst eq2 (translate h)
    · next eq2 => exact fst eq2 (translate h)

theorem laneChecks {s : State} {n : Nat} {nd : Need} {xs : List (Nat × Word)} (h : Canonical s) :
    CanonicalExcept Prod.fst Prod.fst (s.laneChecks n nd xs) := by
  induction xs generalizing s with
  | nil => exact h
  | cons x xs ih =>
    unfold State.laneChecks
    split
    · next eq => exact (laneCheck h).bad eq
    · next eq => exact (laneCheck h).invalid eq
    · next eq =>
        have h1 := ih ((laneCheck h).ok eq)
        split
        · next eq1 => exact h1.error eq1
        · next s2 _ eq1 =>
            have h2 : Canonical s2 := h1.ok eq1
            exact h2

theorem laneReads {s : State} {n : Nat} {xs : List (Nat × Word)} (h : Canonical s) :
    CanonicalExcept Prod.fst Prod.fst (s.laneReads n xs) := by
  induction xs generalizing s with
  | nil => exact h
  | cons x xs ih =>
    unfold State.laneReads
    split
    · next eq => exact (readAt h).bad eq
    · next eq => exact (readAt h).invalid eq
    · next eq =>
        have h1 := ih ((readAt h).ok eq)
        split
        · next eq1 => exact h1.error eq1
        · next s2 _ eq1 =>
            have h2 : Canonical s2 := h1.ok eq1
            exact h2

theorem vload {s : State} {d : VReg} {k : KReg} {ty : IntTy} {f : Nat → Word} (h : Canonical s) :
    CanonicalRes (s.vload d k ty f) := by
  unfold State.vload
  dsimp only
  split
  · exact trapPc h
  · split
    · next eq => exact land ((laneChecks h).error eq)
    · next eq =>
        split
        · exact block ((laneChecks h).ok eq)
        · split
          · next eq2 => exact land ((laneReads (CanonicalExcept.ok (laneChecks h) eq)).error eq2)
          · next eq2 => exact vec ((laneReads (CanonicalExcept.ok (laneChecks h) eq)).ok eq2)

theorem putElem {s : State} {d : Dest} {bs : List Byte} (h : Canonical s) : Canonical (s.putElem d bs) := by
  unfold State.putElem
  split
  · exact scrWrite h
  · exact writeHome h
  · exact homeWrite h
  · exact h

theorem vstore {s : State} {d : VReg} {k : KReg} {ty : IntTy} {f : Nat → Word} (h : Canonical s) :
    Canonical (s.vstore d k ty f) := by
  unfold State.vstore
  dsimp only
  refine ite (trapPc h) ?_
  split
  · next eq => exact land ((laneChecks h).error eq)
  · next eq =>
      exact ite (block ((laneChecks h).ok eq)) (ite (advance (storedAll (foldl (relDone ((laneChecks h).ok eq)) fun ht =>
        putElem ht))) (post (storedAll (foldl (relDone ((laneChecks h).ok eq)) fun ht => putElem ht))))

end Sys2Proof.Memories.Canonical
end

section
/-!
PROOF. Memories in canonical form: every instruction and every event keeps them.
-/

open Sys2Proof Sys2Proof.Machine Sys2Proof.Claims

namespace Sys2Proof.Memories.Canonical

/-- Whatever an instruction or an event does, the memories stay in canonical form. -/
theorem exec {i : Instr} {s : State} (h : Canonical s) : CanonicalRes (Machine.exec i s) := by
  unfold Machine.exec
  cases i with
  | add | sub | mul | mulh | mulhn | div | divn | rem | remn | and | or | xor | andn | orn | shl | shr | sra | rot | clz |
    ctz | popc | min | max | minn | maxn | slt | sltn | seq | sel | bfx | bfi | addi | andi | ori | xori | shli | shri |
    srai | slti | sltni | li | lis | addpc | lea | mkwin | myid | qstat =>
    exact write h
  | beq | bne | blt | bge | bltn | bgen => exact branch h
  | jmp => exact goto h
  | call => exact link h
  | jr | ret => exact ite (trap h) (goto h)
  | callr => exact ite (trap h) (link h)
  | rpt => exact exec_rpt h
  | follow => exact exec_follow h
  | unfollow => exact ite (trapPc h) (ite (advance h) (advance (unlead h)))
  | ldb | ldbn | ldh | ldhn | ldw | ldwn | ldd => exact load h
  | stb | sth | stw | std => exact store h
  | ldbit | ldbits => exact loadBits h
  | stbit => exact exec_stbit h
  | amoadd | amoand | amoor | amoxor | amomin | amomax | amominn | amomaxn | amoswp | amocas | amofadd => exact amo h
  | fenceAcq => exact ite (block h) (advance (acquired h))
  | fenceRel => exact ite (block h) (ite (advance (modMe (fenced h))) (advance (released (relDone (fenced h)))))
  | fenceAr | fenceSc => exact ite (block h) (advance (acquired (released (relDone (fenced h)))))
  | pref _ w => exact exec_pref (_w := w) h
  | flush => exact exec_flush h
  | binit => exact ite (trapPc h) (ite (trapPc h) (advance (modMine_of_scratch h fun _ => rfl)))
  | barr => exact ite (trapPc h) (ite (block h) (write (modMine_of_scratch h fun _ => arrive_scratch)))
  | bwait => exact ite (trapPc h) (ite (ite (park h) (trapPc h)) (writeLate h))
  | baw => exact exec_baw h
  | bstat | mstat => exact writeLate h
  | breset => exact ite (advance h) (advance (modMine_of_scratch h fun _ => rfl))
  | cpy => exact exec_cpy h
  | tagwany => exact ite (block h) (writeLate (invalidateRc h))
  | tagwall => exact ite (advance (invalidateRc h)) (block h)
  | tagff => exact writeLate (invalidateRc h)
  | tagclr => exact advance (modMine_of_scratch h fun _ => rfl)
  | rginit => exact exec_rginit h
  | rgfill => exact exec_rgfill h
  | rgawait => exact exec_rgawait h
  | rgrel => exact exec_rgrel h
  | bankset => exact ite (trapPc h) (ite (trapPc h) (bankPump (await (modMine_of_scratch h fun _ => rfl))))
  | qbindFifo => exact ite (trapPc h) (ite (trapPc h) (bind h))
  | qbindStream => exact exec_qbindStream h
  | qbindMa | qbindMb | qbindMout => exact bindPort h
  | qbindMbox => exact exec_qbindMbox h
  | qpush => exact exec_qpush h
  | qpop => exact exec_qpop h
  | vqpush => exact exec_vqpush h
  | vqpop => exact exec_vqpop h
  | qfree => exact exec_qfree h
  | vadd | vsub | vmul | vmulh | vmin | vmax | vand | vor | vxor | vshl | vshr | vsra | vabs | vneg | vperm =>
    exact intOp h
  | vcmp | vsel | vfcmp | vbcast | vext | vins | vslide | vredadd | vredfadd | vredmax | vredfmax | vcvtInt | vcvtFloat |
    vqmx | vdqmx | vpack | vunpack | kand | kor | knot | kmov | kpopc | ckclr | cka | ckaf =>
    exact vec h
  | vfadd | vfsub | vfmul | vfmin | vfmax => exact fltOp2 h
  | vfma | vfms => exact fltFused h
  | vfabs => exact fltPick2 h
  | vrcp | vrsq | vexp2 | vlog2 => exact fltOp1 h
  | vld | vlds | vgath => exact vload h
  | vst | vsts | vscat => exact vstore h
  | vldbit => exact exec_vldbit h
  | vstbit => exact exec_vstbit h
  | ckchk => exact exec_ckchk h
  | vlease => exact exec_vlease h
  | vfree => exact exec_vfree h
  | mload | mloadQ => exact mload h
  | mtile => exact exec_mtile h
  | mcancel => exact advance (ite (loadEnds (failLoad h)) (ite h (modMatrix h)))
  | rowgetF => exact exec_rowgetF h
  | rowgetS => exact exec_rowgetS h
  | rowpass => exact ite (trapPc h) (ite (block h) (advance (modMe (modMatrix h))))
  | warm | wstat | wdrop | wfree => exact waleIssue h
  | wadd => exact ite (trapPc h) (ite (block h) (waleIssue (released (relDone (fenced h)))))
  | wwait => exact exec_wwait h
  | wreadF | wreadI => exact wread h
  | ttsub => exact exec_ttsub h
  | ttstat | jrnl => exact ite (trap h) (writeLate h)
  | send => exact sendRec h
  | reply => exact exec_reply h
  | spawn => exact exec_spawn h
  | exit => exact ite (block h) (endStrand (released h))
  | yield => exact modMe h
  | park => exact ite (trapPc h) (ite (advance (modMe h)) (park h))
  | wake => exact ite (trap h) (advance (packet h))
  | migrate => exact exec_migrate h
  | monarm => exact exec_monarm h
  | monwait => exact exec_monwait h
  | prio | role => exact advance (modMe h)
  | cntarm => exact exec_cntarm h
  | launch => exact exec_launch h
  | join => exact exec_join h
  | cancel => exact exec_cancel h
  | cntstat => exact exec_cntstat h
  | phaseend => exact ite (trapPc h) (ite (block h) (advance (nextPhase (released (relDone (fenced h))))))
  | ctlr => exact exec_ctlr h
  | ctlw => exact wrCr h fun ht => advance ht
  | ctlx => exact wrCr h fun ht => writeLate ht
  | trap => exact takeTrap h
  | eret => exact ite (trapPc h) (eret h)
  | halt => exact exec_halt h
  | xlinv => exact exec_xlinv h
  | attrset => exact ite (trapPc h) (ite (trap h) (await h))
  | sealPage => exact exec_sealPage h
  | msdecl => exact ite (writeLate h) (writeLate (modMine_of_scratch (upd h) fun _ => rfl))
  | msdone => exact ite (advance h) (ite (block h) (modMe (advance (released (relDone (fenced h))))))
  | wingrant => exact exec_wingrant h
  | winrev => exact exec_winrev h
  | jobnew | hoodset | mapCmd | attrCmd | loadCmd | readCmd | launchCmd | hwgrant | hwrevoke | sealCmd | cntreadCounter |
    cntreadRestartSummary | cntreadPort | cntreadCore | cntreadCorrections | logctlQuery | logctlReplay | attest | collset
    | jobend | cregset | badcmd =>
    exact command h
  | packetReceive => exact heard h fun ht => ite (modPort ht) (ite (modPort ht) (delivered ht))
  | linkRetry => exact exec_linkRetry h
  | peerAccess => exact heard h fun ht => peer ht
  | grantNotice => exact heard h fun ht => grantNoticed ht
  | wingrantAck => exact exec_wingrantAck h
  | revocationNotice => exact heard h fun ht => revokeNoticed ht
  | winrevComplete => exact exec_winrevComplete h
  | translation => exact exec_translation h
  | homeAccess => exact exec_homeAccess h
  | bankAccess => exact exec_bankAccess h
  | packageWindowAtomic => exact exec_packageWindowAtomic h
  | accessReply => exact exec_accessReply h
  | storeAck => exact answerStore h
  | postedStoreRefusal => exact heard h fun ht => answerStore (ite ht (useFree ht))
  | moved => exact exec_moved h
  | asyncTrap => exact takeAsync h
  | copyComplete => exact exec_copyComplete h
  | copyFault => exact exec_copyFault h
  | edgeRefusal => exact exec_edgeRefusal h
  | edgeResend => exact modCore_of_scratch h fun _ => rfl
  | streamReadahead => exact exec_streamReadahead h
  | bankModeChangeComplete => exact exec_bankModeChangeComplete h
  | flushComplete => exact exec_flushComplete h
  | sealComplete => exact exec_sealComplete h
  | xlinvComplete => exact exec_xlinvComplete h
  | attrsetComplete => exact exec_attrsetComplete h
  | mloadComplete => exact exec_mloadComplete h
  | mloadRefused => exact exec_mloadRefused h
  | rowEntry => exact exec_rowEntry h
  | rowHandlerStart => exact exec_rowHandlerStart h
  | tileOperationComplete => exact exec_tileOperationComplete h
  | tileOperationFault => exact faultEnds h
  | tileSchedulerIssue => exact ite h (considerTasks h)
  | barrierArrival => exact exec_barrierArrival h
  | errorArrival => exact exec_errorArrival h
  | warmArrival | waddArrival | wstatArrival | wreadArrival | wdropArrival | wfreeArrival => exact waleArrival h
  | waleAddDone => exact addNext h
  | dequePop => exact exec_dequePop h
  | dequePush => exact exec_dequePush h
  | dequeRefill => exact exec_dequeRefill h
  | mailboxArrival => exact exec_mailboxArrival h
  | messageHandlerStart => exact exec_messageHandlerStart h
  | steal => exact exec_steal h
  | stealAnswer => exact exec_stealAnswer h
  | grant => exact exec_grant h
  | empty => exact exec_empty h
  | remoteSteal => exact exec_remoteSteal h
  | stealBackoffExpiry => exact ite (modCore_of_scratch h fun _ => rfl) h
  | stageRingTake => exact exec_stageRingTake h
  | weaverSample => exact sampleDie h
  | counterSample => exact sampleCore h
  | completionCounterEvent => exact exec_completionCounterEvent h
  | launchEntryPlacement => exact exec_launchEntryPlacement h
  | migrationSend => exact exec_migrationSend h
  | migrationArrival => exact exec_migrationArrival h
  | migrationAccept => exact exec_migrationAccept h
  | migrationRefuse => exact exec_migrationRefuse h
  | wakeArrival => exact exec_wakeArrival h
  | followerDetach => exact exec_followerDetach h
  | followTimeout => exact exec_followTimeout h
  | preemptionStart => exact ite h (abandonStep (stopIssue (upd (takeOwed h))))
  | preemptionStream => exact exec_preemptionStream h
  | preemptionResume => exact exec_preemptionResume h
  | forward => exact upd h
  | uncorrectableError => exact exec_uncorrectableError h
  | hoodReset => exact exec_hoodReset h
  | hoodResetEnd => exact exec_hoodResetEnd h
  | refresh => exact ite h (ite (upd h) (ite (upd h) h))
  | goWord => exact exec_goWord h
  | collectiveContribution => exact heard h fun ht => contributed ht
  | lossNotice => exact heard h fun ht => breakColl ht
  | collectiveTimeout => exact exec_collectiveTimeout h
  | millinerSample => exact exec_millinerSample h
  | clockChange => exact ite h (modIsland h)
  | droop => exact ite h (modMilliner (modIsland h))
  | droopRecovery => exact modIsland h
  | firmwareStage => exact modMilliner h
  | boot => exact exec_boot h
  | supplyLoss => exact detect (ite (trip h) h)
  | phaseAEnd => exact exec_phaseAEnd h
  | phaseB => exact ite h (upd (ite h (saveAll h)))
  | illegalInstruction => exact trapPc h
  | fetchFault => exact trap h
  | recordDeparture => exact exec_recordDeparture h
  | peerXlinv => exact heard h fun ht => send ht

end Sys2Proof.Memories.Canonical
end

section
/-!
PROOF. Memories in canonical form: spill rings, turns, events and the step keep them.
-/

open Sys2Proof Sys2Proof.Machine Sys2Proof.Claims

namespace Sys2Proof.Memories.Canonical

theorem storeEnt {s : State} {job : BitVec 16} {key : Nat} {x : Option Rec × Nat} (h : Canonical s) :
    Canonical (State.storeEnt job key s x) := by
  unfold State.storeEnt
  dsimp only
  split
  · exact ite (upd (homeWrite h)) (homeWrite h)
  · exact h

theorem layOut {s : State} {r : SpillRing} (h : Canonical s) : Canonical (s.layOut r) := by
  unfold State.layOut
  dsimp only
  exact foldl (upd h) fun ht => storeEnt ht

theorem spillsRead {s : State} (h : Canonical s) : Canonical s.spillsRead := by
  unfold State.spillsRead
  dsimp only
  exact upd (mapCores h fun _ => rfl)

theorem spilt {s : State} (h : Canonical s) : Canonical (s.spilt s0) := by
  unfold State.spilt
  dsimp only
  exact ite h (ite (spillsRead (upd h)) (foldl (upd h) fun ht => layOut ht))

theorem resState {r : Res} {s : State} (hr : CanonicalRes r) (h : Canonical s) : Canonical (Machine.resState r s) := by
  cases r with
  | next => exact hr
  | fault => exact h
  | refused => exact h

theorem counted {s : State} {c n : Nat} {u : FuncUnit} (h : Canonical s) : Canonical (s.counted c n u) := by
  unfold State.counted
  exact modCore_of_scratch h fun _ => rfl

theorem execFor {s : State} {c n : Nat} {w : BitVec 32} {i : Instr} (h : Canonical s) :
    CanonicalRes (s.execFor c n w i) := by
  have h1 : CanonicalRes (Machine.exec i { s with cur := ⟨c, n⟩ }) := exec (upd h)
  unfold State.execFor
  split
  · next eq => exact ite (counted (h1.next eq)) (upd (h1.next eq))
  · exact h1

theorem metFor {s : State} {c n : Nat} {f : State → Res} (h : Canonical s)
    (hf : ∀ {t : State}, Canonical t → CanonicalRes (f t)) : CanonicalRes (s.metFor c n f) := by
  have h1 : CanonicalRes (f { s with cur := ⟨c, n⟩ }) := hf (upd h)
  unfold State.metFor
  split
  · next eq => exact ite (h1.next eq) (upd (h1.next eq))
  · exact h1

theorem gather {s : State} {cl : Nat} {job : BitVec 16} {pc : Word} (h : Canonical s) : Canonical (s.gather cl job pc) := by
  unfold State.gather
  dsimp only
  exact foldl h fun ht => ite (modCore_of_scratch ht fun _ => rfl) ht

theorem followAll {w : BitVec 32} {i : Instr} {xs : List (Nat × Nat)} {s : State} (h : Canonical s) :
    Canonical (State.followAll w i xs s).1 := by
  induction xs generalizing s with
  | nil => exact h
  | cons x xs ih =>
    unfold State.followAll
    dsimp only
    split
    · exact ih h
    · split
      · exact ih (resState (execFor h) h)
      · exact resState (execFor h) h

theorem part {s : State} {i : Instr} {xs : List (Nat × Nat)} {pc : Word} (h : Canonical s) :
    Canonical (s.part i xs pc) := by
  unfold State.part
  dsimp only
  exact ite h (foldl h fun ht => ite (modStrand ht) ht)

theorem stall {s : State} {c n : Nat} (h : Canonical s) : Canonical (s.stall c n) := by
  unfold State.stall
  exact modStrand h

theorem paid {s : State} {c n : Nat} (h : Canonical s) : Canonical (s.paid c n) := by
  unfold State.paid
  exact modStrand h

theorem execLed {s : State} {c n : Nat} {w : BitVec 32} {i : Instr} (h : Canonical s) :
    CanonicalRes (s.execLed c n w i) := by
  unfold State.execLed
  extract_lets g xs
  have gathered : Canonical g := gather h
  clear_value g xs
  split
  · split
    · next eq => exact ite (paid ((execFor h).next eq)) ((execFor h).next eq)
    · exact execFor h
  · split
    · exact stall h
    · split
      · next eq =>
          split
          · exact (execFor gathered).next eq
          · exact ite (part (followAll ((execFor gathered).next eq))) (stall h)
      · exact execFor gathered

theorem replayed {s : State} {c : Nat} {r : Replay} {pc : Word} (h : Canonical s) : Canonical (s.replayed c r pc) := by
  unfold State.replayed
  dsimp only
  exact modCore_of_scratch (foldl (modStrand h) fun ht => modStrand ht) fun _ => rfl

theorem issueReplay {s : State} {c n : Nat} {r : Replay} (h : Canonical s) : CanonicalRes (s.issueReplay c n r) := by
  unfold State.issueReplay
  split
  · exact h
  · split
    · next eq => exact ite (replayed ((execLed h).next eq)) ((execLed h).next eq)
    · exact execLed h

theorem issueFetch {s : State} {c n : Nat} (h : Canonical s) : CanonicalRes (s.issueFetch c n) := by
  unfold State.issueFetch
  dsimp only
  split
  · exact metFor h fun ht => trap ht
  · split
    · next eq => exact metFor ((fetch h).bad eq) fun ht => trap ht
    · next eq => exact metFor ((fetch h).invalid eq) fun ht => invalidAt ht
    · next eq =>
        split
        · exact metFor ((fetch h).ok eq) fun ht => trapPc ht
        · split
          · exact stall ((fetch h).ok eq)
          · exact execLed ((fetch h).ok eq)

theorem resumeReplay {s : State} {c n : Nat} {r : Replay} (h : Canonical s) : CanonicalRes (s.resumeReplay c n r) := by
  unfold State.resumeReplay
  exact issueReplay (modCore_of_scratch (modStrand h) fun _ => rfl)

theorem runNext {s : State} {c n : Nat} (h : Canonical s) : CanonicalRes (s.runNext c n) := by
  unfold State.runNext
  dsimp only
  split
  · exact takeTrap (modStrand h)
  · split
    · exact takeAsync h
    · split
      · exact stall h
      · split
        · split
          · exact issueReplay h
          · exact issueFetch h
        · exact stall h
        · exact resumeReplay h
        · exact issueFetch h

theorem issue {s : State} {c n : Nat} (h : Canonical s) : CanonicalRes (s.issue c n) := by
  unfold State.issue
  split
  · exact runNext h
  · exact h

theorem unblocked {s : State} (h : Canonical s) : Canonical s.unblocked := by
  unfold State.unblocked
  dsimp only
  refine upd (mapCores h fun _ => ?_)
  split <;> exact rfl

theorem tick_scratch {k : Core} {at0 n : Nat} : (k.tick at0 n).scratch = k.scratch := by
  unfold Core.tick
  dsimp only
  split <;> rfl

theorem yielded_scratch {s : State} {c n : Nat} {k : Core} : (s.yielded c n k).scratch = k.scratch := by
  unfold State.yielded
  dsimp only
  split <;> rfl

theorem takeDue {s : State} {i : Nat} (h : Canonical s) : Canonical (s.takeDue i) := by
  unfold State.takeDue
  dsimp only
  exact ite (sampleDie (foldl h fun ht => sampleCore ht)) (foldl h fun ht => sampleCore ht)

theorem tick {s : State} {i n : Nat} (h : Canonical s) : Canonical (s.tick i n) := by
  unfold State.tick
  extract_lets s1 at0 m t u
  have h1 : Canonical u := upd (mapCores (takeDue h) fun _ => by
    split
    · exact tick_scratch.trans yielded_scratch
    · rfl)
  exact ite (modWeaver h1) h1

theorem cycle {s : State} (h : Canonical s) : Canonical s.cycle := by
  unfold State.cycle
  exact foldl h fun ht => tick ht

theorem arrives {s : State} {id : Nat} (h : Canonical s) : CanonicalRes (s.arrives id) := by
  unfold State.arrives
  split
  · exact h
  · split
    · exact exec (i := .wakeArrival _) h
    · exact arrival h
    · exact arrival h
    · exact exec (i := .grant _) h
    · exact exec (i := .empty _) h

theorem turn {s : State} {x : Turn} (h : Canonical s) : CanonicalRes (s.turn x) := by
  unfold State.turn
  split
  · split
    · exact issue h
    · trivial
  · split
    · exact exec h
    · trivial
  · exact tick h
  · split
    · exact copyElems h
    · trivial
  · exact upd h
  · exact writeBackHome h
  · exact correct h
  · exact spoil h
  · exact ringOffer h
  · exact arrives h
  · exact peerAck h
  · exact join h
  · exact leave h

theorem settled {s : State} (h : Canonical s) : Canonical (s.settled s0) := by
  unfold State.settled
  exact unblocked (spilt h)

theorem settledFrom {s0 : State} {r : Res} (h : CanonicalRes r) : CanonicalRes (Machine.settledFrom s0 r) := by
  cases r with
  | next => exact settled h
  | fault => trivial
  | refused => trivial

theorem issueN {c n : Nat} {s : State} (h : Canonical s) : Canonical (State.issueN c n s) := by
  induction n generalizing s with
  | zero => exact h
  | succ n ih =>
    unfold State.issueN
    split
    · exact ih (resState (runNext h) h)
    · exact h

theorem issueCore {s : State} {c : Nat} (h : Canonical s) : Canonical (s.issueCore c) := by
  unfold State.issueCore
  exact issueN h

/-- What is found by trying one after another. -/
theorem firstSome {α : Type} {f : α → Option State} (hf : ∀ x, CanonicalOption id (f x)) (xs : List α) :
    CanonicalOption id (Machine.firstSome f xs) := by
  induction xs with
  | nil => trivial
  | cons x xs ih =>
    unfold Machine.firstSome
    split
    · next eq => exact eq ▸ hf x
    · exact ih

theorem issueOn {s : State} {cs : Tab Core} (h : Canonical s) : CanonicalOption id (s.issueOn cs) :=
  firstSome (fun _ => by
    dsimp only
    split
    · exact issueCore h
    · trivial) cs

theorem or {a b : Option State} (ha : CanonicalOption id a) (hb : CanonicalOption id b) : CanonicalOption id (a.or b) := by
  cases a with
  | none => exact hb
  | some => exact ha

theorem pickIssue {s : State} (h : Canonical s) : CanonicalOption id s.pickIssue := or (issueOn h) (issueOn (cycle h))

/-- An event keeps the memories. -/
def Keeps (e : Event1) : Prop := ∀ s, Canonical s → CanonicalRes (e s)

theorem keeps_exec (i : Instr) : Keeps (Machine.exec i) := fun _ => exec

theorem pickEvent {s : State} {l : List Event1} (h : Canonical s) (hl : ∀ e ∈ l, Keeps e) :
    CanonicalOption id (s.pickEvent l) := by
  unfold State.pickEvent
  cases eq : l.find? s.moves1 with
  | none => trivial
  | some e => exact resState (hl e (List.mem_of_find?_eq_some eq) s h) h

theorem keeps_inFlight (s : State) : ∀ e ∈ s.inFlight, Keeps e := by
  simp only [State.inFlight, List.forall_mem_append, List.forall_mem_map, List.forall_mem_flatMap, List.forall_mem_cons,
    List.not_mem_nil, false_implies, implies_true, and_true]
  refine ⟨⟨⟨⟨fun x _ => ?_, fun x _ => ?_⟩, fun x _ => ⟨keeps_exec (.forward _), ?_⟩⟩, fun m _ =>
    ⟨keeps_exec (.forward _), keeps_exec (.mailboxArrival _), keeps_exec (.dequePush _)⟩⟩, fun x _ =>
    keeps_exec (.completionCounterEvent ..)⟩
  · split <;> intro e he <;> simp only [List.mem_cons, List.not_mem_nil, or_false] at he
    · exact he ▸ keeps_exec (.translation _)
    · obtain rfl | rfl := he
      · exact keeps_exec (.moved _)
      · exact keeps_exec (.homeAccess _)
    · exact he ▸ keeps_exec (.bankAccess _)
    · exact he ▸ keeps_exec (.packageWindowAtomic _)
  · split
    · exact keeps_exec (.warmArrival _)
    · exact keeps_exec (.waddArrival _)
    · exact keeps_exec (.wstatArrival _)
    · exact keeps_exec (.wreadArrival _)
    · exact keeps_exec (.wdropArrival _)
    · exact keeps_exec (.wfreeArrival _)
  · split
    · exact keeps_exec (.wakeArrival _)
    · exact keeps_exec (.barrierArrival ..)
    · exact keeps_exec (.errorArrival ..)
    · exact keeps_exec (.grant _)
    · exact keeps_exec (.empty _)

theorem pickJob {s : State} (h : Canonical s) : CanonicalOption id s.pickJob :=
  firstSome (fun _ => by
    dsimp only
    split
    · exact pumpJob h
    · trivial) s.jobs

theorem keeps_ofCore (s : State) (c : Nat) : ∀ e ∈ s.ofCore c, Keeps e := by
  simp only [State.ofCore, List.forall_mem_append, List.forall_mem_map, List.forall_mem_flatMap, List.forall_mem_cons,
    List.not_mem_nil, false_implies, implies_true, and_true]
  refine ⟨⟨⟨⟨⟨⟨fun x _ => ?_, fun x _ => ⟨?_, ?_⟩⟩, fun x _ => ⟨keeps_exec (.edgeResend ..), keeps_exec (.copyComplete ..),
    keeps_exec (.copyFault ..)⟩⟩, fun x _ => keeps_exec (.streamReadahead ..)⟩, fun x _ =>
    keeps_exec (.bankModeChangeComplete ..)⟩, ?_⟩, keeps_exec (.recordDeparture ..), keeps_exec (.recordDeparture ..),
    keeps_exec (.stealAnswer _), keeps_exec (.messageHandlerStart _)⟩
  · split
    · simp only [List.forall_mem_append, List.forall_mem_cons, List.not_mem_nil, false_implies, implies_true, and_true]
      refine ⟨keeps_exec (.storeAck ..), fun e he => ?_⟩
      obtain ⟨l, -, he⟩ := List.mem_filterMap.mp he
      obtain ⟨w, -, rfl⟩ := Option.map_eq_some_iff.mp he
      exact keeps_exec (.goWord ..)
    · exact fun _ he => nomatch he
  · split
    · exact List.forall_mem_singleton.mpr (keeps_exec (.asyncTrap ..))
    · exact fun _ he => nomatch he
  · split
    · exact List.forall_mem_singleton.mpr (keeps_exec (.flushComplete ..))
    · exact List.forall_mem_singleton.mpr (keeps_exec (.xlinvComplete ..))
    · exact List.forall_mem_singleton.mpr (keeps_exec (.attrsetComplete ..))
    · exact List.forall_mem_singleton.mpr (keeps_exec (.sealComplete ..))
    · simp only [List.forall_mem_cons, List.not_mem_nil, false_implies, implies_true, and_true]
      exact ⟨keeps_exec (.migrationSend ..), keeps_exec (.migrationArrival ..), keeps_exec (.migrationAccept ..),
        keeps_exec (.migrationRefuse ..)⟩
    · exact fun _ he => nomatch he
  · split
    · simp only [List.forall_mem_cons, List.not_mem_nil, false_implies, implies_true, and_true]
      exact ⟨keeps_exec (.mloadComplete _), keeps_exec (.mloadRefused _), keeps_exec (.tileOperationFault _),
        keeps_exec (.tileOperationComplete _), keeps_exec (.rowHandlerStart ..), keeps_exec (.rowHandlerStart ..),
        keeps_exec (.rowEntry _)⟩
    · exact fun _ he => nomatch he

theorem keeps_ofPart (s : State) : ∀ e ∈ s.ofPart, Keeps e := by
  simp only [State.ofPart, List.forall_mem_append, List.forall_mem_map, List.forall_mem_flatMap, List.forall_mem_cons,
    List.not_mem_nil, false_implies, implies_true, and_true]
  exact ⟨⟨⟨⟨fun x _ => keeps_exec (.tileSchedulerIssue _), fun x _ => keeps_exec (.waleAddDone ..)⟩, fun x _ l _ =>
    keeps_exec (.launchEntryPlacement ..)⟩, fun p _ => ⟨keeps_exec (.preemptionStream _), keeps_exec (.preemptionResume
      _)⟩⟩,
    fun i _ => ⟨keeps_exec (.hoodReset _), keeps_exec (.hoodResetEnd _)⟩⟩

theorem keeps_startsOf (c : Nat) : ∀ e ∈ startsOf c, Keeps e := by
  simp only [startsOf, List.forall_mem_cons, List.not_mem_nil, false_implies, implies_true, and_true]
  exact ⟨keeps_exec (.dequePop _), keeps_exec (.dequeRefill _), keeps_exec (.stageRingTake _),
    keeps_exec (.stealBackoffExpiry _)⟩

theorem keeps_stealsOf (c : Nat) : ∀ e ∈ stealsOf c, Keeps e := by
  simp only [stealsOf, List.forall_mem_cons, List.not_mem_nil, false_implies, implies_true, and_true]
  exact ⟨keeps_exec (.steal _), keeps_exec (.remoteSteal _)⟩

theorem pickOther {s : State} (h : Canonical s) : CanonicalOption id s.pickOther := by
  refine or (or (pickEvent h ?_) (pickJob h)) (pickEvent h ?_)
  · simp only [List.forall_mem_append, List.forall_mem_flatMap]
    exact ⟨⟨keeps_inFlight s, fun c _ => keeps_ofCore s c⟩, keeps_ofPart s⟩
  · simp only [List.forall_mem_append, List.forall_mem_flatMap]
    exact ⟨fun c _ => keeps_startsOf c, fun c _ => keeps_stealsOf c⟩

theorem onward {s : State} (h : Canonical s) : Canonical s.onward := by
  unfold State.onward
  refine getD ?_ (cycle h)
  split
  · exact or (pickOther h) (pickIssue h)
  · exact or (pickIssue h) (pickOther h)

theorem step {s : State} (h : Canonical s) : CanonicalRes (Machine.step s) := by
  unfold Machine.step
  split
  · exact settledFrom (turn (upd h))
  · exact settled (onward h)

end Sys2Proof.Memories.Canonical
end

section
/-!
PROOF. The memories are in canonical form after reset, and every step keeps them so.
-/

open Sys2Proof Sys2Proof.Machine Sys2Proof.Claims

namespace Sys2Proof.Memories

/-- Settles O59: no store has happened yet, so no block is listed. -/
theorem resetMemories : Obligations.ResetMemories := ⟨rfl, fun _ hx => nomatch hx⟩

/-- Settles O60: the step lemma of the canonical form, read at a next state. -/
theorem stepKeepsMemories : Obligations.StepKeepsMemories := fun _ _ h eq => (Canonical.step h).next eq

end Sys2Proof.Memories
end

section
/-!
PROOF. What loads, stores and atomics have in common (10 R189): their forms, their addresses, and the traps of the checks.
-/

open Sys2Proof Sys2Proof.Machine Sys2Proof.Claims

namespace Sys2Proof.Hierarchy

/-! Forms. -/

theorem dispAddr_eq_accessAddr (s : State) (b : GReg) (p : BitVec 6) (n : Nat) :
    dispAddr (s.rg b) p n = accessAddr s b p n := by
  unfold dispAddr accessAddr
  rw [BitVec.ofInt_mul, BitVec.ofInt_natCast]
  rfl

theorem exec_load {i : Instr} {g : Bool} {n : Nat} {d b : GReg} {o : LdOrd} {sc : Scope} {l : La} {p : BitVec 6}
    (form : loadForm i = some (g, n, d, b, o, sc, l, p)) (s : State) : exec i s = .next (s.load g n d b o sc l p) := by
  cases i with
  | ldb | ldbn | ldh | ldhn | ldw | ldwn | ldd => cases form; rfl
  | _ => cases form

theorem exec_store {i : Instr} {n : Nat} {d b : GReg} {o : StOrd} {sc : Scope} {p : BitVec 6}
    (form : storeForm i = some (n, d, b, o, sc, p)) (s : State) : exec i s = .next (s.store n d b o sc p) := by
  cases i with
  | stb | sth | stw | std => cases form; rfl
  | _ => cases form

theorem exec_amo {i : Instr} {fn : AmoFn} {w : Bool} {d a b : GReg} {o : AmOrd} {sc : Scope} {l : La}
    (form : amoForm i = some (fn, w, d, a, b, o, sc, l)) (s : State) : exec i s = .next (s.amo fn d a b w o sc l) := by
  cases i with
  | amoadd | amoand | amoor | amoxor | amomin | amomax | amominn | amomaxn | amoswp | amocas | amofadd => cases form; rfl
  | _ => cases form


/-! Checks. -/

section
variable {s : State} {a : Word} {n : Nat} {nd : Need} {c : BitVec 8} {sp : Space}

theorem check_of_misaligned (bad : a.toNat % n ≠ 0) : s.check a n nd = .error Cause.align := if_pos bad

theorem check_of_bad_space (aligned : a.toNat % n = 0) (bad : space s.me.sup a = .error c) : s.check a n nd = .error c := by
  simp only [State.check, aligned, ne_eq, not_true_eq_false, if_false, bad]

theorem check_of_ok (aligned : a.toNat % n = 0) (good : space s.me.sup a = .ok sp)
    (window : s.windowCheck s.agent sp n nd = none) : s.check a n nd = .ok sp := by
  simp only [State.check, aligned, ne_eq, not_true_eq_false, if_false, good, window]

end

section
variable {s : State} {b : GReg} {p : BitVec 6} {n : Nat} {c : BitVec 8}

theorem load_of_error {g : Bool} {d : GReg} {o : LdOrd} {sc : Scope} {l : La}
    (bad : s.check (accessAddr s b p n) n .load = .error c) : s.load g n d b o sc l p = s.trap c (accessAddr s b p n) := by
  simp only [State.load, dispAddr_eq_accessAddr, bad]

theorem store_of_error {d : GReg} {o : StOrd} {sc : Scope} (bad : s.check (accessAddr s b p n) n .store = .error c) :
    s.store n d b o sc p = s.trap c (accessAddr s b p n) := by
  simp only [State.store, dispAddr_eq_accessAddr, bad]

theorem amo_of_error {fn : AmoFn} {d a : GReg} {w : Bool} {o : AmOrd} {sc : Scope} {l : La}
    (bad : s.check (s.rg a) (if w then 8 else 4) .amo = .error c) : s.amo fn d a b w o sc l = s.trap c (s.rg a) := by
  simp only [State.amo, bad]

end

/-! Spaces (04 R65). -/

section
variable {sup : Bool} {a : Word}

theorem bits_region (a : Word) : bits a 61 3 = a.toNat / 2 ^ 61 := Nat.mod_eq_of_lt (by omega)

theorem space_virt (region : a.toNat / 2 ^ 61 = 0) :
    space sup a = if bits a 48 13 = 0 then .ok (.virt (bits a 0 48)) else .error Cause.badAddr := by
  simp only [space, bits_region, region]

theorem space_pkg (region : a.toNat / 2 ^ 61 = 4) :
    space sup a = if bits a 52 9 = 0 ∧ bits a 20 23 = 0 ∧ bits a 19 1 = 0 then .ok (.pkg (bits a 43 9) (bits a 0 19))
      else .error Cause.badAddr := by
  simp only [space, bits_region, region]

theorem space_dom (region : a.toNat / 2 ^ 61 = 5) :
    space sup a = .ok (.dom (bits a 49 12) (bits a 40 9) (bits a 0 40)) := by
  simp only [space, bits_region, region]

theorem space_host (region : a.toNat / 2 ^ 61 = 6) :
    space sup a = if bits a 52 9 = 0 then .ok (.host (bits a 40 12) (bits a 0 40)) else .error Cause.badAddr := by
  simp only [space, bits_region, region]

theorem space_phys (region : a.toNat / 2 ^ 61 = 7) :
    space sup a = if !sup then .error Cause.priv
      else if bits a 48 13 = 0 ∧ (isDram (bits a 0 48) ∨ isSave (bits a 0 48)) then .ok (.phys (bits a 0 48))
      else .error Cause.badAddr := by
  simp only [space, bits_region, region]

theorem space_none (region : a.toNat / 2 ^ 61 ∈ [1, 2, 3]) : space sup a = .error Cause.badAddr := by
  simp only [List.mem_cons, List.not_mem_nil, or_false] at region
  rcases region with h | h | h <;> simp only [space, bits_region, h]

end

theorem lt_of_isDram_or_isSave {pa : Nat} (h : isDram pa = true ∨ isSave pa = true) : pa < 2 ^ 48 := by
  simp only [isDram, isSave, Bool.and_eq_true, decide_eq_true_eq] at h
  omega

theorem addressSpaces : Claims.AddressSpaces := by
  intro sup a
  refine ⟨fun h => ?_, fun c off hc ho h => ?_, fun d i off hd hi ho h => ?_, fun i off hi ho h => ?_, fun pa hpa h => ?_,
    space_none, fun h h' => ?_, fun h bad => ?_, fun h bad => ?_, fun h => ?_, fun h bad => ?_⟩
  · rw [space_virt (by omega), if_pos (by simp only [bits]; omega)]
    simp only [bits]; congr; omega
  · rw [space_pkg (by omega), if_pos (by simp only [bits]; omega)]
    simp only [bits]; congr <;> omega
  · rw [space_dom (by omega)]
    simp only [bits]; congr <;> omega
  · rw [space_host (by omega), if_pos (by simp only [bits]; omega)]
    simp only [bits]; congr <;> omega
  · have lt := lt_of_isDram_or_isSave hpa
    have field : bits a 0 48 = pa := by simp only [bits]; omega
    have zero : bits a 48 13 = 0 := by simp only [bits]; omega
    rw [space_phys (by omega), field]
    cases sup
    · rfl
    · simp only [Bool.not_true, Bool.false_eq_true, if_false, if_true, zero, hpa, true_and]
  · rw [space_virt (by omega), if_neg (by simp only [bits]; omega)]
  · rw [space_pkg h, if_neg (by simp only [bits]; omega)]
  · rw [space_host h, if_neg (by simp only [bits]; omega)]
  · rw [space_phys h]; rfl
  · rw [space_phys h, if_neg (by decide), if_neg]
    rintro ⟨zero, mem⟩
    have lt : a.toNat % 2 ^ 61 < 2 ^ 48 := by simp only [bits] at zero; omega
    have field : bits a 0 48 = a.toNat % 2 ^ 61 := by simp only [bits]; omega
    rw [field] at mem
    rcases bad with big | ⟨dram, save⟩
    · omega
    · rw [dram, save] at mem
      exact mem.elim nofun nofun

/-! The obligation. -/

theorem badSpaceTraps : Claims.BadSpaceTraps := by
  refine ⟨fun i s g n d b o sc l p c form aligned bad => ?_, fun i s n d b o sc p c form aligned bad => ?_,
    fun i s fn w d a b o sc l c form aligned bad => ?_⟩
  · rw [exec_load form, load_of_error (check_of_bad_space aligned bad)]
  · rw [exec_store form, store_of_error (check_of_bad_space aligned bad)]
  · rw [exec_amo form, amo_of_error (check_of_bad_space aligned bad)]

theorem misalignedAccessTraps : Claims.MisalignedAccessTraps := by
  refine ⟨fun i s g n d b o sc l p form bad => ?_, fun i s n d b o sc p form bad => ?_,
    fun i s fn w d a b o sc l form bad => ?_⟩
  · rw [exec_load form, load_of_error (check_of_misaligned bad)]
  · rw [exec_store form, store_of_error (check_of_misaligned bad)]
  · rw [exec_amo form, amo_of_error (check_of_misaligned bad)]

/-- Settles O14: the fields of an address by its top three bits, and the two tests that come before every other. -/
theorem addressesAndAlignment : Obligations.AddressesAndAlignment :=
  ⟨addressSpaces, badSpaceTraps, misalignedAccessTraps⟩

end Sys2Proof.Hierarchy
end

section
/-!
PROOF. Loads (10 R190): a load with the migrate hint detaches a follower first, wherever its address leads.
-/

open Sys2Proof Sys2Proof.Machine Sys2Proof.Claims

namespace Sys2Proof.Hierarchy

/-- A strand of core 1 that follows the lead stream of its cluster, in a hood of job 0; its g2 names byte 0 of its own scratch. -/
def hintingFollower : State :=
  { State.reset with
      cur := ⟨1, 0⟩
      cores := [(0, Core.reset.setStrand 0 { Strand.empty with st := .ready, fl := .lead }),
        (1, Core.reset.setStrand 0 (({ Strand.empty with st := .ready, fl := .follower } : Strand).putG 2 (pkgForm 1 0)))]
      hoods := [{ job := 0, tower := 0, row := 0, col := 0, h := 1, w := 1, st := .active, block := ⟨0, 0, 0, 0, 0⟩,
                  ending := false }] }

theorem hintingFollower_calm : Calm hintingFollower := ⟨rfl, rfl, rfl⟩

theorem hintingFollower_space : space hintingFollower.me.sup (accessAddr hintingFollower 2 0 1) = .ok (.pkg 1 0) := by
  decide +kernel

/-- LDB of that byte with the hint detaches the strand (09 R179). -/
theorem hint_detaches : (hintingFollower.load true 1 1 2 .mig .str 0 0).me.fl = .none := by decide +kernel

/-- What the statement leaves is a follower still. -/
theorem writeLate_follows (v : Word) : (hintingFollower.writeLate 1 v 0).me.fl = .follower := rfl

/-- Refutes O15: a follower's load with the migrate hint detaches it (09 R179), also where it reads the own scratch, so it
does more than write its destination. -/
theorem not_loads : ¬ Obligations.Loads := by
  rintro ⟨own, -⟩
  have aligned : (accessAddr hintingFollower 2 0 1).toNat % 1 = 0 := Nat.mod_one _
  obtain ⟨inScratch, -⟩ := own (.ldb 1 2 .mig .str 0 0) hintingFollower true 1 1 2 .mig .str 0 0 rfl hintingFollower_calm aligned
  obtain ⟨atOnce, -⟩ := inScratch 0 hintingFollower_space (by decide +kernel) (by decide +kernel) (by decide +kernel) rfl
  have same := Host.Outcome.next.inj ((exec_load rfl _).symm.trans (atOnce rfl))
  have follows := (congrArg (fun t : State => t.me.fl) same).symm.trans hint_detaches
  exact absurd ((writeLate_follows _).symm.trans follows) (by decide)

end Sys2Proof.Hierarchy
end

section
/-!
PROOF. What a strand's memory instructions find and leave: nothing to wait for, its strand alone changed, bytes written.
-/

open Sys2Proof Sys2Proof.Machine Sys2Proof.Claims

namespace Sys2Proof.Hierarchy

/-! Nothing to wait for. -/

section
variable {k : Core}

theorem jent_v_of_journal (h : (k.journal.all fun x => !x.2.v) = true) (j : Nat) : (k.jent j).v = false := by
  rcases Tab.look_mem k.journal j JEnt.empty with eq | ⟨x, mem, eq⟩
  · exact congrArg JEnt.v eq
  · have free := List.all_eq_true.1 h x mem
    rw [Bool.not_eq_true', eq] at free
    exact free

theorem usc_of_journal (h : (k.journal.all fun x => !x.2.v) = true) : k.usc = 0 := by
  simp only [Core.usc, jent_v_of_journal h, List.filter_false, List.length_nil]

theorem any_of_journal (h : (k.journal.all fun x => !x.2.v) = true) (p : Nat × JEnt → Bool) :
    (k.journal.any fun x => x.2.v && p x) = false := by
  rw [List.any_eq_false]
  intro x mem
  have free := List.all_eq_true.1 h x mem
  rw [Bool.not_eq_true'] at free
  rw [free, Bool.false_and]
  exact Bool.false_ne_true

end

theorem loadsWait_of_quiet {s : State} (quiet : Quiet s) : s.loadsWait = false := by
  rw [State.loadsWait, State.loadsOut, show (s.strand s.cur.core s.cur.slot).outs = [] from quiet]
  rfl

end Sys2Proof.Hierarchy

namespace Sys2Proof.Claims.Calm

open Sys2Proof.Hierarchy

variable {s : State} (h : Calm s)
include h

theorem held : s.held = false := by
  rw [State.held, show s.me.outs = [] from h.quiet, h.flight]
  rfl

theorem storesOut : s.storesOut s.cur.core s.cur.slot = false := by
  rw [State.storesOut, show (s.strand s.cur.core s.cur.slot).outs = [] from h.quiet]
  exact any_of_journal h.journal fun x => decide (x.2.slot = s.cur.slot)

theorem relWait : s.relWait = false := by
  rw [State.relWait, loadsWait_of_quiet h.quiet, h.storesOut]
  rfl

theorem fenceWait : s.fenceWait = false := by
  rw [State.fenceWait, h.relWait, usc_of_journal h.journal]
  rfl

theorem relStill : s.relStill = false := by
  rw [State.relStill, h.storesOut, usc_of_journal h.journal]
  exact Bool.and_false _

theorem pendingAcc {a : Word} {n : Nat} (free : s.heldAt s.cur.core a = false) : s.pendingAcc true [(a, n)] = false := by
  simp only [State.pendingAcc, h.flight, List.any_nil, List.any_cons, free, Bool.not_true, Bool.false_and, Bool.or_self]

theorem earlierTo (c n seq : Nat) (c_eq : c = s.cur.core) (ts : List (Option Target)) : s.earlierTo c n seq ts = false := by
  subst c_eq
  simp only [State.earlierTo, h.flight, List.any_nil, Bool.or_false, Bool.and_assoc]
  exact any_of_journal h.journal _

theorem posting (pa : Nat) : s.posting pa = false := h.earlierTo _ _ _ rfl _

end Sys2Proof.Claims.Calm

namespace Sys2Proof.Hierarchy

/-! Addresses whose accesses no router holds. -/

theorem space_sup {sup : Bool} {a : Word} {sp : Space} (h : space sup a = .ok sp) : space true a = .ok sp := by
  cases sup
  · unfold space at h ⊢
    split <;> simp_all
  · exact h

theorem heldAt_of_own {s : State} {a : Word} {c off : Nat} (h : space true a = .ok (.pkg c off)) : s.heldAt c a = false := by
  simp only [State.heldAt, h, ne_eq, not_true_eq_false, decide_false, Bool.false_and]

theorem heldAt_of_free {s : State} {a : Word} {c d off : Nat} (h : space true a = .ok (.pkg d off))
    (free : s.bankHeld d = false) : s.heldAt c a = false := by
  simp only [State.heldAt, h, free, Bool.and_false]

theorem heldAt_of_phys {s : State} {a : Word} {c pa : Nat} (h : space true a = .ok (.phys pa)) : s.heldAt c a = false := by
  simp only [State.heldAt, h]

/-! Bytes. -/

theorem getD_leBytes {n j : Nat} (lt : j < n) (x : Nat) (d : Byte) : (leBytes n x).getD j d = BitVec.ofNat 8 (x / 256 ^ j) := by
  induction n generalizing x j with
  | zero => omega
  | succ n ih =>
    cases j with
    | zero => rw [leBytes, List.getD_cons_zero, Nat.pow_zero, Nat.div_one]
    | succ j => rw [leBytes, List.getD_cons_succ, ih (by omega), Nat.div_div_eq_div_mul, Nat.pow_succ']

theorem get_putBytes_in (m : Memory) (a : Nat) {j : Nat} {bs : List Byte} (lt : j < bs.length) (d : Byte) :
    (m.putBytes a bs).get (a + j) = bs.getD j d := by
  induction bs generalizing m a j with
  | nil => exact absurd lt (Nat.not_lt_zero _)
  | cons b bs ih =>
    cases j with
    | zero =>
      rw [Memory.putBytes, Nat.add_zero a, Memory.get_putBytes_out _ _ _ _ (by omega), Memory.get_put, if_pos rfl,
        List.getD_cons_zero]
    | succ j => rw [Memory.putBytes, List.getD_cons_succ, show a + (j + 1) = a + 1 + j by omega, ih _ _ (by simpa using lt)]

theorem get_putBytes_leBytes (m : Memory) (a x : Nat) {j n : Nat} (lt : j < n) :
    (m.putBytes a (leBytes n x)).get (a + j) = BitVec.ofNat 8 (x / 256 ^ j) := by
  rw [get_putBytes_in m a (by rwa [leBytes_length]) 0, getD_leBytes lt]

theorem get_putBytes_leBytes_out (m : Memory) (a x : Nat) {i n : Nat} (out : ¬(a ≤ i ∧ i < a + n)) :
    (m.putBytes a (leBytes n x)).get i = m.get i :=
  Memory.get_putBytes_out _ _ _ _ (by rw [leBytes_length]; omega)

theorem ofNat_div_eq_extractLsb' (w : Word) (j : Nat) : BitVec.ofNat 8 (w.toNat / 256 ^ j) = w.extractLsb' (8 * j) 8 := by
  apply BitVec.eq_of_toNat_eq
  rw [BitVec.extractLsb'_toNat, BitVec.toNat_ofNat, Nat.shiftRight_eq_div_pow, Nat.pow_mul]

/-! A step of the issuing strand that changes no more than its strand, and lines that are merged. -/

/-- A strand whose FENCE.REL holds nothing any more. -/
def unheld (x : Strand) : Strand := { x with rel := none }

/-- From `s` to `t` only the issuing strand has changed, into `x`; lines may have been merged. -/
structure OnlyMe (s t : State) (x : Strand) : Prop where
  rest : ∃ cs pr, t = { s with cores := cs, priv := pr }
  core : ∀ c, ∃ ss, t.core c = { s.core c with strands := ss }
  me : t.me = x
  others : ∀ c m, ¬(c = s.cur.core ∧ m = s.cur.slot) → t.strand c m = s.strand c m

namespace OnlyMe

variable {s t : State} {x : Strand}

theorem refl (s : State) : OnlyMe s s s.me := ⟨⟨_, _, rfl⟩, fun _ => ⟨_, rfl⟩, rfl, fun _ _ _ => rfl⟩

theorem cur (h : OnlyMe s t x) : t.cur = s.cur := by obtain ⟨_, _, rfl⟩ := h.rest; rfl
theorem mem (h : OnlyMe s t x) : t.mem = s.mem := by obtain ⟨_, _, rfl⟩ := h.rest; rfl
theorem serial (h : OnlyMe s t x) : t.serial = s.serial := by obtain ⟨_, _, rfl⟩ := h.rest; rfl
theorem accs (h : OnlyMe s t x) : t.accs = s.accs := by obtain ⟨_, _, rfl⟩ := h.rest; rfl
theorem waits (h : OnlyMe s t x) : t.waits = s.waits := by obtain ⟨_, _, rfl⟩ := h.rest; rfl
theorem split (h : OnlyMe s t x) : t.split = s.split := by obtain ⟨_, _, rfl⟩ := h.rest; rfl
theorem scratch (h : OnlyMe s t x) (c : Nat) : (t.core c).scratch = (s.core c).scratch := by
  obtain ⟨_, eq⟩ := h.core c; rw [eq]
theorem lines (h : OnlyMe s t x) (c : Nat) : (t.core c).lines = (s.core c).lines := by
  obtain ⟨_, eq⟩ := h.core c; rw [eq]
theorem journal (h : OnlyMe s t x) (c : Nat) : (t.core c).journal = (s.core c).journal := by
  obtain ⟨_, eq⟩ := h.core c; rw [eq]
theorem bases (h : OnlyMe s t x) (c : Nat) : (t.core c).bases = (s.core c).bases := by
  obtain ⟨_, eq⟩ := h.core c; rw [eq]; rfl

theorem of_priv {pr : Tab (Tab (BitVec 128))} (h : OnlyMe s t x) : OnlyMe s { t with priv := pr } x := by
  obtain ⟨⟨_, _, rfl⟩, core, me, others⟩ := h
  exact ⟨⟨_, _, rfl⟩, core, me, others⟩

theorem modMe (h : OnlyMe s t x) (f : Strand → Strand) : OnlyMe s (t.modMe f) (f x) := by
  refine ⟨?_, fun c => ?_, by rw [State.me_modMe, h.me], fun c m ne => ?_⟩
  · obtain ⟨_, _, rfl⟩ := h.rest
    exact ⟨_, _, rfl⟩
  · obtain ⟨ss, eq⟩ := h.core c
    rw [State.modMe, State.modStrand, State.setStrand, State.core_setCore]
    split
    · next same =>
      subst same
      exact ⟨_, by rw [eq]; rfl⟩
    · exact ⟨ss, eq⟩
  · rw [State.modMe, State.strand_modStrand_ne _ _ (by rwa [h.cur]), h.others c m ne]

theorem released (h : OnlyMe s t x) (sc : Scope) : OnlyMe s (t.released sc) x := by
  unfold State.released
  split
  · exact h
  · exact h.of_priv

theorem relDone (h : OnlyMe s t x) : OnlyMe s t.relDone (unheld x) := by
  unfold State.relDone
  split
  · exact (h.released _).modMe _
  · next none =>
    rw [h.me] at none
    rw [unheld, ← none]
    exact h

theorem calm (h : OnlyMe s t x) (calm : Calm s) (quiet : x.outs = []) : Calm t where
  quiet := by rw [Quiet, h.me]; exact quiet
  journal := by rw [State.mine, h.journal, h.cur]; exact calm.journal
  flight := by rw [h.accs]; exact calm.flight

theorem advance (h : OnlyMe s t x) : OnlyMe s t.advance (x.retire (x.pc + 4)) := h.modMe _

end OnlyMe

end Sys2Proof.Hierarchy
end

section
/-!
PROOF. Stores (10 R191): what a store that waits for nothing does in its own scratch and in physical memory.
-/

open Sys2Proof Sys2Proof.Machine Sys2Proof.Claims

namespace Sys2Proof.Hierarchy

section
variable {s : State} {off n pa : Nat} {nd : Need}

theorem windowCheck_own (hood : s.inHoods s.me.job s.cur.core = true) (scratch : s.mine.scratchOk off n = true) :
    s.windowCheck s.agent (.pkg s.cur.core off) n nd = none := by
  have mine : (s.core s.cur.core).scratchOk off n = true := scratch
  simp only [State.windowCheck, State.agent, State.party, hood, mine, Bool.not_true, Bool.false_eq_true, if_false, and_false]

theorem windowCheck_other {c : Nat} (hood : s.inHoods s.me.job c = true) (other : c ≠ s.cur.core) :
    s.windowCheck s.agent (.pkg c off) n nd = none := by
  simp only [State.windowCheck, State.agent, State.party, hood, other, Bool.not_true, Bool.false_eq_true, if_false, false_and]

theorem windowCheck_phys : s.windowCheck s.agent (.phys pa) n nd = none := rfl

end

/-! A store that waits for nothing. -/

/-- The state in which a store is performed: a FENCE.REL that held it is done, and a release has merged its lines. -/
def storing (s : State) (o : StOrd) (sc : Scope) : State := if stReleases o then s.relDone.released sc else s.relDone

theorem storing_onlyMe (s : State) (o : StOrd) (sc : Scope) : OnlyMe s (storing s o sc) (unheld s.me) := by
  unfold storing
  split
  · exact (OnlyMe.refl s).relDone.released sc
  · exact (OnlyMe.refl s).relDone

theorem rg_relDone (s : State) (d : GReg) : s.relDone.rg d = s.rg d := by
  rw [State.rg, (OnlyMe.refl s).relDone.me]
  rfl

section
variable {s : State} {n : Nat} {d b : GReg} {o : StOrd} {sc : Scope} {p : BitVec 6} {sp : Space}

theorem store_of_calm (calm : Calm s) (check : s.check (accessAddr s b p n) n .store = .ok sp)
    (free : s.heldAt s.cur.core (accessAddr s b p n) = false) :
    s.store n d b o sc p = (storing s o sc).storeTo n (s.rg d) o sc (accessAddr s b p n) sp := by
  simp only [State.store, dispAddr_eq_accessAddr, check, calm.held, calm.pendingAcc free, calm.relStill, calm.relWait, storing,
    Bool.and_false, Bool.or_self, Bool.false_eq_true, if_false, rg_relDone]

end

/-! What the issuing strand leaves. -/

theorem retire_relDone {s : State} (quiet : Quiet s) :
    (unheld s.me).retire ((unheld s.me).pc + 4) = { wentOn s.me (s.me.pc + 4) with rel := none } :=
  Strand.retire_of_outs_nil (t := unheld s.me) quiet _

/-- An access that stays in the part leaves its core under the next number. -/
theorem depart_eq {st : Stage} (stays : st ≠ .outside) (s : State) (k : AccKind) (a : Word) (n : Nat) (o : AmOrd) (sc : Scope) :
    s.depart k a n o sc st = ({ s with
      accs := s.accs.put s.serial ⟨s.cur.core, s.cur.slot, s.me.job, s.me.sup, s.mine.bases, k, a, n, o, sc, st⟩,
      serial := s.serial + 1 }, s.serial) := by
  simp only [State.depart, stays, if_false, Nat.add_sub_cancel]


/-- A store sent on its way to the banks, with what else its strand has changed. -/
theorem store_departed {s u : State} (quiet : Quiet s) (only : OnlyMe s u (unheld s.me)) (flight : s.accs = [])
    (k : AccKind) (a : Word) (n : Nat) (o : AmOrd) (sc : Scope) (full : Bool) :
    let t := (u.depart k a n o sc .bank).1.modMe fun x => x.lateAcc (u.depart k a n o sc .bank).2 none 0 full (x.pc + 4)
    t.accs = [(s.serial, ⟨s.cur.core, s.cur.slot, s.me.job, s.me.sup, s.mine.bases, k, a, n, o, sc, .bank⟩)] ∧
      t.me.pc = s.me.pc + 4 ∧ t.me.st = .ready ∧ (∀ e, t.rg e = s.rg e) ∧ t.mem = s.mem ∧
      ∀ k, (t.core k).scratch = (s.core k).scratch := by
  rw [depart_eq (by decide)]
  dsimp only
  have outs : u.me.outs = [] := by rw [only.me]; exact quiet
  have bases : u.mine.bases = s.mine.bases := by rw [State.mine, only.bases, only.cur]; rfl
  refine ⟨?_, ?_, ?_, fun e => ?_, only.mem, fun c => (State.setStrand_scratch ..).trans (only.scratch c)⟩
  · simp only [State.modMe_accs, only.accs, flight, only.cur, only.serial, bases, only.me, unheld, Tab.put]
  · rw [State.me_modMe]
    show u.me.pc + 4 = _
    rw [only.me]
    rfl
  · rw [State.me_modMe]
    rfl
  · rw [State.rg, State.me_modMe]
    show (u.me.retire (u.me.pc + 4)).g e = _
    rw [Strand.retire_of_outs_nil outs, only.me]
    rfl

/-! In the own scratch. -/

theorem strand_scrWrite (s : State) (c off : Nat) (bs : List Byte) (c' m : Nat) :
    (s.scrWrite c off bs).strand c' m = s.strand c' m := by
  rw [State.scrWrite, State.modCore, State.strand, State.core_setCore]
  split
  · next h => rw [h]; rfl
  · rfl

theorem me_scrWrite (s : State) (c off : Nat) (bs : List Byte) : (s.scrWrite c off bs).me = s.me := strand_scrWrite ..

theorem scratch_advance (s : State) (c : Nat) : (s.advance.core c).scratch = (s.core c).scratch := State.setStrand_scratch ..

theorem strand_advance_ne (s : State) {c m : Nat} (ne : ¬(c = s.cur.core ∧ m = s.cur.slot)) :
    s.advance.strand c m = s.strand c m := State.strand_modStrand_ne _ _ ne

theorem me_advance (s : State) : s.advance.me = s.me.retire (s.me.pc + 4) := State.me_modMe ..

theorem store_scratch {s u : State} (quiet : Quiet s) (only : OnlyMe s u (unheld s.me)) (off n : Nat) (v : Word) :
    let t := (u.scrWrite s.cur.core off (leBytes n v.toNat)).advance
    (∀ j < n, t.mine.scratch.get (off + j) = v.extractLsb' (8 * j) 8) ∧
      (∀ x, ¬(off ≤ x ∧ x < off + n) → t.mine.scratch.get x = s.mine.scratch.get x) ∧
      (∀ c x, c ≠ s.cur.core → ((t.core c).scratch).get x = ((s.core c).scratch).get x) ∧
      (∀ x, t.mem.get x = s.mem.get x) ∧ t.me = { wentOn s.me (s.me.pc + 4) with rel := none } ∧
      ∀ c m, ¬(c = s.cur.core ∧ m = s.cur.slot) → t.strand c m = s.strand c m := by
  intro t
  have cur : t.cur = s.cur := only.cur
  have own : t.mine.scratch = s.mine.scratch.putBytes off (leBytes n v.toNat) := by
    rw [State.mine, cur, scratch_advance, State.scrWrite_core, if_pos rfl, only.scratch]
    rfl
  refine ⟨fun j lt => ?_, fun x out => ?_, fun c x ne => ?_, fun x => ?_, ?_, fun c m ne => ?_⟩
  · rw [own, get_putBytes_leBytes _ _ _ lt, ofNat_div_eq_extractLsb']
  · rw [own, get_putBytes_leBytes_out _ _ _ out]
  · rw [scratch_advance, State.scrWrite_core, if_neg ne, only.scratch]
  · rw [State.advance_mem, State.scrWrite_mem, only.mem]
  · rw [me_advance, me_scrWrite, only.me, retire_relDone quiet]
  · have ne' : ¬(c = t.cur.core ∧ m = t.cur.slot) := by rwa [cur]
    exact (strand_advance_ne (u.scrWrite ..) ne').trans ((strand_scrWrite ..).trans (only.others c m ne))

/-! At a home. -/

theorem homeWrite_of_no_waits {s : State} (nobody : s.waits = []) (j : BitVec 16) (pa : Nat) (bs : List Byte) :
    s.homeWrite j pa bs = s.homePut j pa bs := by
  rw [State.homeWrite, State.wakeAll, show (s.homePut j pa bs).waits = [] from nobody]
  rfl

theorem strand_updateSharers (s : State) (pa : Nat) (bs : List Byte) (c m : Nat) :
    (s.updateSharers pa bs).strand c m = s.strand c m := by
  let f (k : Core) : Core := if k.lines = [] then k else { k with lines := s.patched pa bs k.lines }
  have keeps (k : Core) : (f k).strand m = k.strand m := by
    dsimp only [f]
    split <;> rfl
  exact (congrArg (Core.strand · m) (Tab.look_map f s.cores c Core.reset)).trans (keeps _)

theorem strand_homePut (s : State) (j : BitVec 16) (pa : Nat) (bs : List Byte) (c m : Nat) :
    (s.homePut j pa bs).strand c m = s.strand c m := strand_updateSharers ..

theorem store_home {s u : State} (quiet : Quiet s) (only : OnlyMe s u (unheld s.me)) (nobody : s.waits = [])
    (j : BitVec 16) (pa n : Nat) (v : Word) :
    let t := (u.homeWrite j pa (leBytes n v.toNat)).advance
    (∀ j < n, t.mem.get (pa + j) = v.extractLsb' (8 * j) 8) ∧
      (∀ x, ¬(pa ≤ x ∧ x < pa + n) → t.mem.get x = s.mem.get x) ∧
      (∀ c x, ((t.core c).scratch).get x = ((s.core c).scratch).get x) ∧
      t.me = { wentOn s.me (s.me.pc + 4) with rel := none } ∧
      ∀ c m, ¬(c = s.cur.core ∧ m = s.cur.slot) → t.strand c m = s.strand c m := by
  intro t
  have mem : t.mem = s.mem.putBytes pa (leBytes n v.toNat) := by
    rw [State.advance_mem, State.homeWrite_mem, only.mem]
  have put : u.homeWrite j pa (leBytes n v.toNat) = u.homePut j pa (leBytes n v.toNat) :=
    homeWrite_of_no_waits (only.waits.trans nobody) ..
  refine ⟨fun j lt => ?_, fun x out => ?_, fun c x => ?_, ?_, fun c m ne => ?_⟩
  · rw [mem, get_putBytes_leBytes _ _ _ lt, ofNat_div_eq_extractLsb']
  · rw [mem, get_putBytes_leBytes_out _ _ _ out]
  · rw [scratch_advance, State.homeWrite_scratch, only.scratch]
  · have me : (u.homePut j pa (leBytes n v.toNat)).me = u.me := strand_homePut ..
    rw [me_advance, put, me, only.me, retire_relDone quiet]
  · have ne' : ¬(c = (u.homePut j pa (leBytes n v.toNat)).cur.core ∧ m = (u.homePut j pa (leBytes n v.toNat)).cur.slot) := by
      rwa [show (u.homePut j pa (leBytes n v.toNat)).cur = s.cur from only.cur]
    show (u.homeWrite j pa (leBytes n v.toNat)).advance.strand c m = _
    rw [put]
    exact (strand_advance_ne _ ne').trans ((strand_homePut ..).trans (only.others c m ne))

/-! The statement's first part. -/

theorem ownStores : Claims.OwnStores := by
  intro i s n d b o sc p form calm aligned
  have only := storing_onlyMe s o sc
  refine ⟨fun off sp hood scratch => ?_, fun pa sp apart nobody => ?_⟩
  · have exec_eq : exec i s = .next ((storing s o sc).storeTo n (s.rg d) o sc (accessAddr s b p n) (.pkg s.cur.core off)) := by
      rw [exec_store form, store_of_calm calm (check_of_ok aligned sp (windowCheck_own hood scratch))
        (heldAt_of_own (space_sup sp))]
    rw [exec_eq]
    refine ⟨fun apart => ⟨_, rfl, ?_⟩, fun apart => ⟨_, rfl, ?_⟩⟩
    · simp only [State.storeTo, only.cur, only.split, apart, ne_eq, not_true_eq_false, if_false, Bool.false_eq_true]
      exact store_scratch calm.quiet only off n _
    · simp only [State.storeTo, only.cur, only.split, apart, ne_eq, not_true_eq_false, if_false, if_true]
      exact store_departed calm.quiet only calm.flight ..
  · have posting : (storing s o sc).posting pa = false := (only.calm calm calm.quiet).posting pa
    have exec_eq : exec i s = .next ((storing s o sc).storeTo n (s.rg d) o sc (accessAddr s b p n) (.phys pa)) := by
      rw [exec_store form, store_of_calm calm (check_of_ok aligned sp windowCheck_phys)
        (heldAt_of_phys (space_sup sp))]
    refine ⟨_, exec_eq, ?_⟩
    simp only [State.storeTo, only.split, apart, posting, if_false, Bool.false_eq_true]
    exact store_home calm.quiet only nobody ..

end Sys2Proof.Hierarchy
end

section
/-!
PROOF. Posted stores (04 R85; 18 R314, R315): the journal entry that one takes.
-/

open Sys2Proof Sys2Proof.Machine Sys2Proof.Claims

namespace Sys2Proof.Hierarchy

theorem jent_of_single {k : Core} {j : Nat} {e : JEnt} (h : k.journal = [(j, e)]) : k.jent j = e := by
  rw [Core.jent, h, Tab.look_cons, if_pos rfl]

theorem usc_of_single {k : Core} {e : JEnt} (h : k.journal = [(0, e)]) (v : e.v = true) : k.usc = 1 := by
  have marks (j : Nat) : (k.jent j).v = decide (j = 0) := by
    rw [Core.jent, h, Tab.look_cons]
    by_cases zero : j = 0
    · rw [if_pos zero.symm, v, decide_eq_true zero]
    · rw [if_neg (Ne.symm zero), decide_eq_false zero]
      rfl
  simp only [Core.usc, marks]
  decide

theorem freeEntry_of_empty {k : Core} (h : k.journal = []) : k.freeEntry = some 0 := by
  rw [Core.freeEntry, Scheduling.lowest_eq_some, Core.jent, h]
  exact ⟨rfl, by decide, fun m lt => absurd lt (Nat.not_lt_zero m)⟩

/-- The journal entry of a store of the issuing strand. -/
def entryFor (s : State) (lanes : List Lane) (sz : BitVec 2) : JEnt :=
  { v := true, fail := false, cause := 0, sz := sz, slot := s.cur.slot, pc := s.me.pc, taken := false, job := s.me.job,
    bases := s.mine.bases, lanes := lanes, seq := s.serial }

/-- A core with a journal entry replaced. -/
def withEntry (j : Nat) (e : JEnt) (k : Core) : Core := { k with journal := k.journal.put j e }

/-- The state with the lowest entry taken by a store. -/
def posted (s : State) (lanes : List Lane) (sz : BitVec 2) : State :=
  { s.modMine (withEntry 0 (entryFor s lanes sz)) with serial := s.serial + 1 }

theorem post_of_empty {s : State} (h : s.mine.journal = []) (lanes : List Lane) (sz : BitVec 2) :
    s.post lanes sz false = (posted s lanes sz).advance := by
  simp only [State.post, freeEntry_of_empty h, Bool.false_eq_true, if_false]
  rfl

theorem log2_size {i : Instr} {n : Nat} {d b : GReg} {o : StOrd} {sc : Scope} {p : BitVec 6}
    (form : storeForm i = some (n, d, b, o, sc, p)) : (sizeCode n).toNat = Nat.log2 n := by
  cases i with
  | stb | sth | stw | std => cases form; decide
  | _ => cases form

theorem core_posted (s : State) (lanes : List Lane) (sz : BitVec 2) (c : Nat) :
    ((posted s lanes sz).core c).scratch = (s.core c).scratch ∧ ((posted s lanes sz).core c).strands = (s.core c).strands := by
  rw [show (posted s lanes sz).core c = (s.modCore s.cur.core (withEntry 0 (entryFor s lanes sz))).core c from rfl,
    State.modCore, State.core_setCore]
  split
  · next h => exact h ▸ ⟨rfl, rfl⟩
  · exact ⟨rfl, rfl⟩

theorem mine_posted {s : State} (h : s.mine.journal = []) (lanes : List Lane) (sz : BitVec 2) :
    (posted s lanes sz).mine.journal = [(0, entryFor s lanes sz)] := by
  have put : (posted s lanes sz).mine.journal = s.mine.journal.put 0 (entryFor s lanes sz) :=
    congrArg Core.journal (State.mine_modMine s (withEntry 0 (entryFor s lanes sz)))
  rw [put, h]
  rfl

/-- What a posted store of the issuing strand leaves. -/
theorem post_leaves {s : State} (h : s.mine.journal = []) (lanes : List Lane) (sz : BitVec 2) :
    let t := (posted s lanes sz).advance
    t.mine.journal = [(0, entryFor s lanes sz)] ∧ t.me.pc = s.me.pc + 4 ∧ t.me.st = .ready ∧ t.mem = s.mem ∧
      ∀ c, (t.core c).scratch = (s.core c).scratch := by
  intro t
  have me : (posted s lanes sz).me = s.me := by
    rw [State.me, State.strand, Core.strand, (core_posted s lanes sz _).2]
    rfl
  refine ⟨?_, ?_, ?_, rfl, fun c => (scratch_advance _ c).trans (core_posted s lanes sz c).1⟩
  · have mine := Scheduling.mine_modMe (posted s lanes sz) fun t => t.retire (t.pc + 4)
    exact (congrArg Core.journal mine).trans (mine_posted h lanes sz)
  · rw [me_advance, me]
    rfl
  · rw [me_advance]
    rfl

/-- A store to another core's window that waits for nothing takes the lowest journal entry. -/
theorem posts {i : Instr} {s : State} {n : Nat} {d b : GReg} {o : StOrd} {sc : Scope} {p : BitVec 6} {c off : Nat}
    (form : storeForm i = some (n, d, b, o, sc, p)) (plain : o ≠ .ar) (calm : Calm s)
    (aligned : (accessAddr s b p n).toNat % n = 0) (sp : space s.me.sup (accessAddr s b p n) = .ok (.pkg c off))
    (other : c ≠ s.cur.core) (hood : s.inHoods s.me.job c = true) (free : s.bankHeld c = false)
    (empty : s.mine.journal = []) :
    ∃ t, exec i s = .next t ∧ (t.mine.jent 0).v = true ∧ (t.mine.jent 0).slot = s.cur.slot ∧
      (t.mine.jent 0).pc = s.me.pc ∧ (t.mine.jent 0).sz.toNat = Nat.log2 n ∧ t.mine.usc = 1 ∧ t.me.pc = s.me.pc + 4 ∧
      t.me.st = .ready ∧ (∀ x, t.mem.get x = s.mem.get x) ∧
      ∀ c x, ((t.core c).scratch).get x = ((s.core c).scratch).get x := by
  have only := storing_onlyMe s o sc
  have exec_eq : exec i s = .next ((storing s o sc).storeTo n (s.rg d) o sc (accessAddr s b p n) (.pkg c off)) := by
    rw [exec_store form, store_of_calm calm (check_of_ok aligned sp (windowCheck_other hood other))
      (heldAt_of_free (space_sup sp) free)]
  refine ⟨_, exec_eq, ?_⟩
  have empty' : (storing s o sc).mine.journal = [] := by
    rw [State.mine, only.journal, only.cur]
    exact empty
  simp only [State.storeTo, only.cur, other, ne_eq, not_false_eq_true, if_true, plain, decide_false, post_of_empty empty']
  obtain ⟨journal, pc, st, mem, scratch⟩ := post_leaves empty' [⟨accessAddr s b p n, none, 0, false, n, (s.rg d).toNat % 2 ^ (8 * n)⟩]
    (sizeCode n)
  have entry := jent_of_single journal
  rw [entry]
  refine ⟨rfl, congrArg Cur.slot only.cur, (congrArg Strand.pc only.me).trans rfl, log2_size form, usc_of_single journal rfl, ?_, st,
    fun x => ?_, fun c x => ?_⟩
  · rw [pc, only.me]
    rfl
  · rw [mem, only.mem]
  · rw [scratch, only.scratch]

end Sys2Proof.Hierarchy
end

section
/-!
PROOF. Posted stores that are answered (18 R315, 20 R352): performed at their target, or refused.
-/

open Sys2Proof Sys2Proof.Machine Sys2Proof.Claims

namespace Sys2Proof.Hierarchy

/-! Marks cleared. -/

/-- From `s` to `t` no core's scratch, journal or strands have changed. -/
def CoresKept (s t : State) : Prop :=
  ∀ c, (t.core c).scratch = (s.core c).scratch ∧ (t.core c).journal = (s.core c).journal ∧
    (t.core c).strands = (s.core c).strands

theorem CoresKept.modCore (s : State) (c : Nat) {f : Core → Core} (scratch : ∀ k, (f k).scratch = k.scratch)
    (journal : ∀ k, (f k).journal = k.journal) (strands : ∀ k, (f k).strands = k.strands) : CoresKept s (s.modCore c f) := by
  intro c'
  rw [State.modCore, State.core_setCore]
  split
  · next h => exact h ▸ ⟨scratch _, journal _, strands _⟩
  · exact ⟨rfl, rfl, rfl⟩

/-- A line of an L1 whose words that the writes cover are marked no more. -/
def Line.unmarked (pas : List (Nat × Nat)) (l : Line) : Line :=
  { l with pois := (List.range 16).foldl (fun (m : BitVec 16) i =>
      if covers pas (l.pa / 8 + i) then m &&& ~~~ (1#16 <<< i) else m) l.pois }

/-- A core whose words that the writes cover are marked no more. -/
def unmarked (pas offs : List (Nat × Nat)) (k : Core) : Core :=
  { k with spois := k.spois.filter fun w => !covers offs w,
           lines := k.lines.map fun l => if l.pois = 0 then l else Line.unmarked pas l }

theorem CoresKept.storedAll (s : State) (c : Nat) (pas offs : List (Nat × Nat)) : CoresKept s (s.storedAll c pas offs) := by
  unfold State.storedAll
  dsimp only
  split
  · exact fun _ => ⟨rfl, rfl, rfl⟩
  · exact CoresKept.modCore s c (f := unmarked pas offs) (fun _ => rfl) (fun _ => rfl) fun _ => rfl

theorem CoresKept.trans {s t u : State} (p : CoresKept s t) (q : CoresKept t u) : CoresKept s u := fun c =>
  ⟨(q c).1.trans (p c).1, (q c).2.1.trans (p c).2.1, (q c).2.2.trans (p c).2.2⟩

theorem CoresKept.laneMarks (s : State) (c : Nat) (ls : List Lane) : CoresKept s (s.laneMarks c ls) := by
  unfold State.laneMarks
  exact foldl_keeps (P := CoresKept s) (fun t k h => h.trans (CoresKept.storedAll t _ _ _)) _ (CoresKept.storedAll s _ _ _)

/-! The entry settled. -/

theorem core_setStrand_journal (s : State) (c n : Nat) (x : Strand) (d : Nat) :
    ((s.setStrand c n x).core d).journal = (s.core d).journal := by
  rw [State.setStrand, State.core_setCore]
  split
  · next h => exact h ▸ rfl
  · rfl

theorem jent_modEntry (s : State) (c j : Nat) (e : JEnt) : ((s.modCore c (withEntry j e)).core c).jent j = e := by
  rw [State.core_modCore_same]
  exact Tab.look_put_same ..

theorem scratch_modEntry (s : State) (c j : Nat) (e : JEnt) (k : Nat) :
    ((s.modCore c (withEntry j e)).core k).scratch = (s.core k).scratch := by
  rw [State.modCore, State.core_setCore]
  split
  · next h => exact h ▸ rfl
  · rfl

/-- An entry that is acknowledged is free; no byte of scratch changes. -/
theorem settleEntry_none (s : State) (c j : Nat) :
    ((s.settleEntry c j none).core c).jent j = { (s.core c).jent j with v := false, fail := false } ∧
      ∀ k, ((s.settleEntry c j none).core k).scratch = (s.core k).scratch := by
  refine ⟨?_, fun k => ?_⟩
  · rw [Core.jent, State.settleEntry, State.modStrand, core_setStrand_journal]
    exact jent_modEntry ..
  · exact (State.setStrand_scratch ..).trans (scratch_modEntry ..)

/-- An entry that is refused keeps the cause, and its strand has one more trap to take. -/
theorem settleEntry_some {s : State} {c j : Nat} {code : BitVec 8} {a : Word} {e : JEnt} (entry : (s.core c).jent j = e)
    (live : e.taken = false) (ready : (s.strand c e.slot).st = .ready) (quiet : (s.strand c e.slot).outs = []) :
    ((s.settleEntry c j (some (code, a))).core c).jent j = { e with v := false, fail := true, cause := code.setWidth 6 } ∧
      ((s.settleEntry c j (some (code, a))).strand c e.slot).traps =
        (s.strand c e.slot).traps ++ [⟨Cause.posted code, BitVec.ofNat 6 j, none, a, none⟩] := by
  simp only [State.settleEntry, entry, live, Bool.false_eq_true, if_false]
  have strand (x : JEnt) : (s.modCore c fun k => { k with journal := k.journal.put j x }).strand c e.slot = s.strand c e.slot := by
    rw [State.strand, State.core_modCore_same]
    rfl
  refine ⟨?_, ?_⟩
  · rw [Core.jent, State.raise, State.modStrand, core_setStrand_journal, State.modStrand, core_setStrand_journal]
    exact jent_modEntry ..
  · rw [State.raise, State.strand_modStrand_same, State.strand_modStrand_same, strand, Strand.live, ready, Strand.returned, quiet]
    rfl

/-! One lane. -/

section
variable {s : State} {c j : Nat} {e : JEnt} {l : Lane}

theorem earlierTo_of_alone (alone : (s.core c).journal = [(j, e)]) (flight : s.accs = []) (ts : List (Option Target)) :
    s.earlierTo c e.slot e.seq ts = false := by
  simp only [State.earlierTo, alone, flight, List.any_cons, List.any_nil, Nat.lt_irrefl, decide_false, Bool.and_false,
    Bool.false_and, Bool.or_false]

/-- What becomes of a part of the posted store in an entry, where the other side may refuse it. -/
def answerLane (deny : Lane → Option (BitVec 8)) (c : Nat) (e : JEnt) (s : State) (l : Lane) : Fate :=
  match deny l with
  | some x => .refused x
  | none => s.perform c e l

theorem answerStore_of_alone (alone : (s.core c).journal = [(j, e)]) (flight : s.accs = []) (v : e.v = true)
    (lanes : e.lanes = [l]) (noGo : s.goOf l = none) (deny : Lane → Option (BitVec 8)) :
    s.answerStore c j deny = s.answer c j (answerLane deny c e) := by
  have go : s.isGo e = false := by rw [State.isGo, lanes, List.any_cons, noGo]; rfl
  simp only [State.answerStore, jent_of_single alone, v, go, earlierTo_of_alone alone flight, Bool.not_true,
    Bool.false_eq_true, or_self, if_false]
  rfl

theorem answer_of_lane (alone : (s.core c).journal = [(j, e)]) (lanes : e.lanes = [l]) (noGo : s.goOf l = none)
    (act : State → Lane → Fate) :
    (∀ t, act s l = .done t → s.answer c j act = (t.laneMarks c [l]).settleEntry c j none) ∧
      ∀ x, act s l = .refused x → s.answer c j act = (s.laneMarks c []).settleEntry c j (some (x, l.addr)) := by
  have order : ([l].filter fun x => !(s.goOf x).isSome) ++ [l].filter (fun x => (s.goOf x).isSome) = [l] := by
    rw [List.filter_cons, List.filter_cons, noGo]
    rfl
  refine ⟨fun t h => ?_, fun x h => ?_⟩
  · simp only [State.answer, jent_of_single alone, order, performAll, h, List.nil_append, lanes, firstSome, List.find?_nil,
      Option.map_none]
  · simp only [State.answer, jent_of_single alone, order, performAll, h, List.nil_append, lanes, firstSome, List.find?_cons,
      decide_true, Option.map_some]

end

end Sys2Proof.Hierarchy
end

section
/-!
PROOF. Posted stores, concluded (18 R309, R315; 20 R352): the acknowledgement, the refusal, and the obligation.
-/

open Sys2Proof Sys2Proof.Machine Sys2Proof.Claims

namespace Sys2Proof.Hierarchy

section
variable {s : State} {c : Nat} {e : JEnt} {l : Lane}

theorem goOf_of_pkg {k off : Nat} (sp : space true l.addr = .ok (.pkg k off)) : s.goOf l = none := by
  rw [State.goOf, State.collWindow, sp]
  rfl

/-- A part for a package window is written there, where its hood does not turn it away. -/
theorem perform_pkg {k off : Nat} (unposted : l.pa = none) (sp : space true l.addr = .ok (.pkg k off))
    (free : s.bankHeld k = false) (here : s.reach k = k) (owned : k = c ∨ (s.shut k = false ∧ s.inHoods e.job k = true))
    (scratch : (s.core k).scratchOk off l.n = true) : s.perform c e l = .done (s.scrWrite k off (leBytes l.n l.v)) := by
  have admitted : s.turnsAway ⟨c, e.job, true, e.bases⟩ k = false := by
    rw [State.turnsAway, here]
    rcases owned with rfl | ⟨opened, hood⟩
    · simp only [ne_eq, not_true_eq_false, decide_false, Bool.false_and, Bool.or_self]
    · simp only [opened, hood, Bool.and_false, Bool.or_self, Bool.not_true]
  simp only [State.perform, unposted, sp, free, Bool.false_eq_true, if_false, State.writeBank, admitted, here, leBytes_length,
    scratch, Bool.not_true]

theorem storeAcks {k off : Nat} (v : e.v = true) (lanes : e.lanes = [l]) (unposted : l.pa = none)
    (sp : space true l.addr = .ok (.pkg k off)) (alone : (s.core c).journal = [(0, e)]) (flight : s.accs = [])
    (free : s.bankHeld k = false) (here : s.reach k = k) (owned : k = c ∨ (s.shut k = false ∧ s.inHoods e.job k = true))
    (scratch : (s.core k).scratchOk off l.n = true) :
    ∃ t, exec (.storeAck c 0) s = .next t ∧ ((t.core c).jent 0).v = false ∧ ((t.core c).jent 0).fail = false ∧
      (∀ j < l.n, ((t.core k).scratch).get (off + j) = BitVec.ofNat 8 (l.v / 256 ^ j)) ∧
      ∀ x, ¬(off ≤ x ∧ x < off + l.n) → ((t.core k).scratch).get x = ((s.core k).scratch).get x := by
  have noGo : s.goOf l = none := goOf_of_pkg sp
  have done : answerLane (fun _ => none) c e s l = .done (s.scrWrite k off (leBytes l.n l.v)) :=
    perform_pkg unposted sp free here owned scratch
  have acked : exec (.storeAck c 0) s = .next (((s.scrWrite k off (leBytes l.n l.v)).laneMarks c [l]).settleEntry c 0 none) :=
    congrArg Host.Outcome.next ((answerStore_of_alone alone flight v lanes noGo _).trans ((answer_of_lane alone lanes noGo _).1 _ done))
  refine ⟨_, acked, ?_⟩
  obtain ⟨jent, bytes⟩ := settleEntry_none ((s.scrWrite k off (leBytes l.n l.v)).laneMarks c [l]) c 0
  have scr := (bytes k).trans ((CoresKept.laneMarks (s.scrWrite k off (leBytes l.n l.v)) c [l]) k).1
  rw [State.scrWrite_core, if_pos rfl] at scr
  rw [jent, scr]
  exact ⟨rfl, rfl, fun j lt => get_putBytes_leBytes _ _ _ lt, fun x out => get_putBytes_leBytes_out _ _ _ out⟩

end

/-! Refusals. -/

section
variable {s : State} {c : Nat} {e : JEnt} {l : Lane} {x : Space} {code : BitVec 6}

/-- A part goes to a device or the host. -/
def Outward (s : State) (x : Space) : Prop := (∃ d i off, x = .dom d i off ∧ ¬(d = s.device ∧ 480 ≤ i)) ∨ ∃ i off, x = .host i off

theorem collWindow_of_outward (sp : space true l.addr = .ok x) (out : Outward s x) : s.collWindow true l.addr = none := by
  rcases out with ⟨d, i, off, rfl, other⟩ | ⟨i, off, rfl⟩
  · simp only [State.collWindow, sp, other, if_false]
  · simp only [State.collWindow, sp]

theorem leaves_of_outward (unposted : l.pa = none) (sp : space true l.addr = .ok x) (out : Outward s x) : s.leaves l = true := by
  rw [State.leaves, unposted, collWindow_of_outward sp out, sp]
  rcases out with ⟨d, i, off, rfl, -⟩ | ⟨i, off, rfl⟩ <;> rfl

theorem goOf_of_outward (sp : space true l.addr = .ok x) (out : Outward s x) : s.goOf l = none := by
  rw [State.goOf, collWindow_of_outward sp out]
  rfl

/-- The cause that 18 R309 lets a refusal of a posted store have. -/
def refusalCause (a : Word) (code : BitVec 6) : BitVec 6 :=
  if a.toNat / 2 ^ 61 = 5 ∧ code ∈ [0x06, 0x07, 0x08, 0x0A, 0x0B] then code else 0x0E

/-- The top three bits of an address of a space. -/
def region : Space → Nat
  | .virt _ => 0
  | .pkg .. => 4
  | .dom .. => 5
  | .host .. => 6
  | .phys _ => 7

theorem region_of_space {sup : Bool} {a : Word} {x : Space} (sp : space sup a = .ok x) : a.toNat / 2 ^ 61 = region x := by
  rw [space, bits_region] at sp
  split at sp
  · next r =>
    split at sp
    · cases sp; exact r
    · cases sp
  · next r =>
    split at sp
    · cases sp; exact r
    · cases sp
  · next r => cases sp; exact r
  · next r =>
    split at sp
    · cases sp; exact r
    · cases sp
  · next r =>
    split at sp
    · cases sp
    · split at sp
      · cases sp; exact r
      · cases sp
  · cases sp

/-- The causes that 18 R309 gives a posted store that a device refuses. -/
theorem deviceCauses (code : BitVec 6) :
    [Cause.xlFault, Cause.perm, Cause.attrMis, Cause.woSealed, Cause.woDup].contains (code.setWidth 8) =
      decide (code ∈ [0x06, 0x07, 0x08, 0x0A, 0x0B]) := by
  revert code
  decide

theorem postedCause_of_outward (sp : space true l.addr = .ok x) (out : Outward s x) :
    postedCause l.addr (code.setWidth 8) = (refusalCause l.addr code).setWidth 8 := by
  have top := region_of_space sp
  rw [postedCause, isHost, bits_region, refusalCause, deviceCauses, top]
  rcases out with ⟨d, i, off, rfl, -⟩ | ⟨i, off, rfl⟩
  · by_cases listed : code ∈ [0x06, 0x07, 0x08, 0x0A, 0x0B] <;> simp only [region, listed] <;> rfl
  · simp only [region]
    rfl

/-- Which cause the other side gives a part, where it refuses that of `l`. -/
def refusing (s : State) (l : Lane) (code : BitVec 6) (l' : Lane) : Option (BitVec 8) :=
  if [l].contains l' ∨ (postedCause l'.addr (code.setWidth 8) = Cause.revoked ∧ s.leaves l') then
    some (postedCause l'.addr (code.setWidth 8)) else none

theorem exec_refusal {j : Fin 64} (alone : (s.core c).journal = [(j.val, e)]) (heard : s.deaf = false)
    (leaving : e.lanes.filter s.leaves = [l]) :
    exec (.postedStoreRefusal c j code) s = .next (s.answerStore c j.val (refusing s l code)) := by
  show execPostedStoreRefusal c j code s = _
  simp only [execPostedStoreRefusal, jent_of_single alone, leaving, State.heard, heard, List.length_singleton, Nat.le_refl,
    if_true, Bool.false_eq_true, if_false]
  rfl

theorem postedStoreRefused : Claims.PostedStoreRefused := by
  intro s c x code e l alone flight v live lanes unposted sp heard out ready quiet z
  have noGo : s.goOf l = none := goOf_of_outward sp out
  have jent := jent_of_single alone
  have leaving : e.lanes.filter s.leaves = [l] := by rw [lanes, List.filter_cons, leaves_of_outward unposted sp out]; rfl
  have refused : answerLane (refusing s l code) c e s l = .refused ((refusalCause l.addr code).setWidth 8) := by
    rw [answerLane, refusing, if_pos (.inl (by simp)), postedCause_of_outward sp out]
  have answered := (exec_refusal (j := 5) (code := code) alone heard leaving).trans (congrArg Host.Outcome.next
    ((answerStore_of_alone alone flight v lanes noGo _).trans ((answer_of_lane alone lanes noGo _).2 _ refused)))
  have kept := CoresKept.laneMarks s c []
  have strand : (s.laneMarks c []).strand c e.slot = s.strand c e.slot := by
    rw [State.strand, Core.strand, (kept c).2.2]
    rfl
  have entry : ((s.laneMarks c []).core c).jent 5 = e := by
    rw [Core.jent, (kept c).2.1]
    exact jent_of_single alone
  obtain ⟨failed, raised⟩ := settleEntry_some (code := (refusalCause l.addr code).setWidth 8) (a := l.addr) entry live
    (by rw [strand]; exact ready) (by rw [strand]; exact quiet)
  refine ⟨_, answered, congrArg JEnt.v failed, congrArg JEnt.fail failed, ?_, ?_⟩
  · have kept6 (b : BitVec 6) : (b.setWidth 8).setWidth 6 = b := by
      rw [BitVec.setWidth_setWidth_of_le _ (by decide), BitVec.setWidth_eq]
    exact (congrArg JEnt.cause failed).trans (kept6 _)
  · rw [strand] at raised
    exact raised

theorem postedStores : Claims.PostedStores :=
  ⟨fun _ _ _ _ _ _ _ _ _ _ form plain calm aligned sp other hood free empty =>
      posts form plain calm aligned sp other hood free empty,
    fun _ _ _ _ _ _ _ v _ lanes unposted sp alone flight free here owned scratch _ =>
      storeAcks v lanes unposted sp alone flight free here owned scratch⟩

/-- Settles O16: the checks pass, nothing is waited for, and a store writes its bytes or takes an entry, whose answer
performs it or raises the trap. -/
theorem stores : Obligations.Stores := ⟨ownStores, postedStores, postedStoreRefused⟩

end

end Sys2Proof.Hierarchy
end

section
/-!
PROOF. Fences (05 R93, 10 R195): what each leaves where it waits for nothing.
-/

open Sys2Proof Sys2Proof.Machine Sys2Proof.Claims

namespace Sys2Proof.Hierarchy

theorem acquired_eq_acquiring (s : State) (acq : Bool) (sc : Scope) : s.acquired acq sc = acquiring s acq sc := by
  have wide : wideScope sc = true ↔ sc ≠ .str ∧ sc ≠ .cor := by cases sc <;> decide
  simp only [State.acquired, acquiring, wide]

/-- A strand that remembers a fence of a scope. -/
def fencedBy (sc : Scope) (x : Strand) : Strand := { x with fence := some (widest x.fence sc) }

theorem OnlyMe.fenced {s t : State} {x : Strand} (h : OnlyMe s t x) (sc : Scope) : OnlyMe s (t.fenced sc) (fencedBy sc x) :=
  h.modMe (fencedBy sc)

/-- What a fence with release leaves before it acquires: its strand remembers it, and holds nothing. -/
theorem fenceReleased_onlyMe (s : State) (sc : Scope) :
    OnlyMe s (((s.fenced sc).relDone).released sc) (unheld (fencedBy sc s.me)) :=
  (((OnlyMe.refl s).fenced sc).relDone).released sc

/-- The issuing strand after a fence with release that waits for nothing. -/
def fencedOn (s : State) (sc : Scope) : Strand :=
  { wentOn s.me (s.me.pc + 4) with rel := none, fence := some (widest s.me.fence sc) }

theorem retire_fenced {s : State} (quiet : Quiet s) (sc : Scope) :
    (unheld (fencedBy sc s.me)).retire ((unheld (fencedBy sc s.me)).pc + 4) = fencedOn s sc :=
  Strand.retire_of_outs_nil (t := unheld (fencedBy sc s.me)) quiet _

theorem exec_fenceAcq {s : State} (calm : Calm s) (sc : Scope) :
    exec (.fenceAcq sc) s = .next (acquiring s true sc).advance := by
  show execFenceAcq sc s = _
  rw [execFenceAcq, loadsWait_of_quiet calm.quiet, if_neg Bool.false_ne_true, acquired_eq_acquiring]

theorem fenceRel_leaves {s : State} (calm : Calm s) (sc : Scope) :
    ∃ t, exec (.fenceRel sc) s = .next t ∧ t.me = fencedOn s sc ∧ t.mem = s.mem ∧
      ∀ k, (t.core k).scratch = (s.core k).scratch ∧ (t.core k).lines = (s.core k).lines := by
  have only := (fenceReleased_onlyMe s sc).advance
  refine ⟨((s.fenced sc).relDone.released sc).advance, ?_, only.me.trans (retire_fenced calm.quiet sc), only.mem,
    fun k => ⟨only.scratch k, only.lines k⟩⟩
  show execFenceRel sc s = _
  rw [execFenceRel, loadsWait_of_quiet calm.quiet, calm.fenceWait, if_neg Bool.false_ne_true, if_neg Bool.false_ne_true]

/-! An acquire drops RC lines. -/

/-- The lines that an acquire of a scope leaves. -/
def linesAfter (sc : Scope) (ls : List Line) : List Line :=
  if sc = .str ∨ sc = .cor then ls else ls.filter fun x => decide (x.ty ≠ .rc)

theorem acquiring_leaves (s : State) (sc : Scope) :
    (acquiring s true sc).me = s.me ∧ (acquiring s true sc).mem = s.mem ∧ (acquiring s true sc).cur = s.cur ∧
      (∀ k, ((acquiring s true sc).core k).scratch = (s.core k).scratch) ∧
      (acquiring s true sc).mine.lines = linesAfter sc s.mine.lines := by
  unfold acquiring linesAfter
  by_cases wide : sc ≠ .str ∧ sc ≠ .cor
  · rw [if_pos ⟨rfl, wide⟩, if_neg (not_or.2 wide)]
    have kept := CoresKept.modCore s s.cur.core (f := Core.dropRc) (fun _ => rfl) (fun _ => rfl) fun _ => rfl
    refine ⟨?_, rfl, rfl, fun k => (kept k).1, congrArg Core.lines (State.core_modCore_same s s.cur.core Core.dropRc)⟩
    exact congrArg (Tab.look · s.cur.slot Strand.empty) (kept s.cur.core).2.2
  · rw [if_neg fun h => wide h.2, if_pos (by simpa only [not_and_or, not_not] using wide)]
    exact ⟨rfl, rfl, rfl, fun _ => rfl, rfl⟩

theorem lines_advance (s : State) : s.advance.mine.lines = s.mine.lines :=
  (congrArg Core.lines (Scheduling.mine_modMe s fun t => t.retire (t.pc + 4))).trans rfl

/-- What a fence with acquire and release leaves that waits for nothing. -/
theorem fenceBoth_leaves {s : State} (calm : Calm s) (sc : Scope) :
    let t := (((s.fenced sc).relDone.released sc).acquired true sc).advance
    t.me = fencedOn s sc ∧ t.mem = s.mem ∧ (∀ k, (t.core k).scratch = (s.core k).scratch) ∧
      t.mine.lines = linesAfter sc s.mine.lines := by
  have only := fenceReleased_onlyMe s sc
  rw [acquired_eq_acquiring]
  obtain ⟨me, mem, cur, scratch, lines⟩ := acquiring_leaves ((s.fenced sc).relDone.released sc) sc
  refine ⟨?_, mem.trans only.mem, fun k => (scratch_advance _ k).trans ((scratch k).trans (only.scratch k)), ?_⟩
  · rw [me_advance, me, only.me]
    exact retire_fenced calm.quiet sc
  · rw [lines_advance, lines, State.mine, only.lines, only.cur]
    rfl

/-- A release whose stores are not acknowledged goes on, and holds what must follow them. -/
theorem fenceRel_holds {s : State} {j : Nat} {e : JEnt} (quiet : Quiet s) (alone : s.mine.journal = [(j, e)]) (v : e.v = true)
    (slot : e.slot = s.cur.slot) (sc : Scope) :
    ∃ t, exec (.fenceRel sc) s = .next t ∧ t.mem = s.mem ∧ (∀ k, (t.core k).scratch = (s.core k).scratch) ∧
      t.me = { wentOn s.me (s.me.pc + 4) with rel := some (widest s.me.rel sc), fence := some (widest s.me.fence sc) } := by
  have waits : s.fenceWait = true := by
    have stores : s.storesOut s.cur.core s.cur.slot = true := by
      rw [State.storesOut, show (s.core s.cur.core).journal = [(j, e)] from alone, List.any_cons, v, slot, decide_eq_true rfl]
      exact Bool.or_true _
    rw [State.fenceWait, State.relWait, stores, Bool.or_true, Bool.true_or]
  have only := ((OnlyMe.refl s).fenced sc).modMe (fun t => { t with rel := some (widest t.rel sc) }) |>.advance
  refine ⟨_, ?_, only.mem, only.scratch, only.me.trans (Strand.retire_of_outs_nil (by exact quiet) _)⟩
  show execFenceRel sc s = _
  rw [execFenceRel, loadsWait_of_quiet quiet, waits, if_neg Bool.false_ne_true, if_pos rfl]

theorem fences : Claims.Fences := by
  refine ⟨fun c s calm => ⟨exec_fenceAcq calm c, fenceRel_leaves calm c, ?_, ?_⟩,
    fun c s j e quiet alone v slot => fenceRel_holds quiet alone v slot c⟩
  · refine ⟨_, ?_, fenceBoth_leaves calm c⟩
    show execFenceAr c s = _
    rw [execFenceAr, calm.fenceWait, if_neg Bool.false_ne_true]
  · refine ⟨_, ?_, fenceBoth_leaves calm .sys⟩
    show execFenceSc s = _
    rw [execFenceSc, calm.fenceWait, if_neg Bool.false_ne_true]

end Sys2Proof.Hierarchy
end

section
/-!
PROOF. Prefetches and flushes (10 R196, R197): the lines that they visit, and what they leave unchanged.
-/

open Sys2Proof Sys2Proof.Machine Sys2Proof.Claims

namespace Sys2Proof.Hierarchy

/-! Lines taken in and dropped. -/

/-- From `s` to `t` the strand that issues is the same, and no core's scratch, journal or strands have changed. -/
structure Unmoved (s t : State) : Prop where
  cur : t.cur = s.cur
  cores : CoresKept s t

namespace Unmoved

variable {s t u : State}

theorem refl (s : State) : Unmoved s s := ⟨rfl, fun _ => ⟨rfl, rfl, rfl⟩⟩

theorem trans (p : Unmoved s t) (q : Unmoved t u) : Unmoved s u := ⟨q.cur.trans p.cur, p.cores.trans q.cores⟩

theorem of_cores (cur : t.cur = s.cur) (cores : t.cores = s.cores) : Unmoved s t :=
  ⟨cur, fun c => by rw [State.core, State.core, cores]; exact ⟨rfl, rfl, rfl⟩⟩

theorem of_reads (h : Scheduling.Reads s t) : Unmoved s t := of_cores h.cur h.cores

theorem strand (h : Unmoved s t) (c n : Nat) : t.strand c n = s.strand c n := by
  rw [State.strand, Core.strand, (h.cores c).2.2]
  rfl

theorem me (h : Unmoved s t) : t.me = s.me := by rw [State.me, h.cur, h.strand]; rfl

theorem scratch (h : Unmoved s t) (c : Nat) : (t.core c).scratch = (s.core c).scratch := (h.cores c).1

theorem modCore (s : State) (c : Nat) {f : Core → Core} (scratch : ∀ k, (f k).scratch = k.scratch)
    (journal : ∀ k, (f k).journal = k.journal) (strands : ∀ k, (f k).strands = k.strands) : Unmoved s (s.modCore c f) :=
  ⟨rfl, CoresKept.modCore s c scratch journal strands⟩

theorem updateSharers (s : State) (pa : Nat) (bs : List Byte) : Unmoved s (s.updateSharers pa bs) := by
  let f (k : Core) : Core := if k.lines = [] then k else { k with lines := s.patched pa bs k.lines }
  have kept (k : Core) : (f k).scratch = k.scratch ∧ (f k).journal = k.journal ∧ (f k).strands = k.strands := by
    dsimp only [f]
    split <;> exact ⟨rfl, rfl, rfl⟩
  refine ⟨rfl, fun c => ?_⟩
  rw [show (s.updateSharers pa bs).core c = f (s.core c) from Tab.look_map f s.cores c Core.reset]
  exact kept _

theorem homePut (s : State) (j : BitVec 16) (pa : Nat) (bs : List Byte) : Unmoved s (s.homePut j pa bs) :=
  (of_cores rfl rfl : Unmoved s { s with mem := s.mem.putBytes pa bs, pois := clears s.pois pa bs.length,
                                         writer := s.writer.put (lineOf pa) j }).trans (updateSharers ..)

theorem writeBackLine (s : State) (c : Nat) (l : Line) : Unmoved s (s.writeBackLine c l) := by
  unfold State.writeBackLine
  split
  · exact refl s
  · dsimp only
    split
    · exact (homePut ..).trans (of_cores rfl rfl)
    · exact (homePut ..).trans (of_cores rfl rfl)

theorem dropLines (s : State) (c : Nat) (p : Line → Bool) : Unmoved s (s.dropLines c p) :=
  (foldl_keeps (P := Unmoved s) (fun t l h => h.trans (writeBackLine t c l)) _ (refl s)).trans
    (modCore _ c (f := fun k => { k with lines := k.lines.filter fun l => !p l }) (fun _ => rfl) (fun _ => rfl) fun _ => rfl)

theorem dropAllLines (s : State) (p : Line → Bool) : Unmoved s (s.dropAllLines p) :=
  foldl_keeps (P := Unmoved s) (fun t c h => h.trans (dropLines t c p)) _ (refl s)

theorem dropScope (s : State) (sc : Scope) (c : Nat) (p : Line → Bool) : Unmoved s (s.dropScope sc c p) :=
  foldl_keeps (P := Unmoved s) (fun t c h => h.trans (dropLines t c p)) _ (refl s)

theorem mergeRange (s : State) (lo hi : Nat) : Unmoved s (s.mergeRange lo hi) := of_cores rfl rfl

theorem l1Fill (s : State) (c : Nat) (l : Line) : Unmoved s (s.l1Fill c l) := by
  unfold State.l1Fill
  dsimp only
  split
  · exact modCore s c (fun _ => rfl) (fun _ => rfl) fun _ => rfl
  · split
    · exact ((of_cores rfl rfl : Unmoved s s.useFree).trans (writeBackLine ..)).trans
        (modCore _ c (fun _ => rfl) (fun _ => rfl) fun _ => rfl)
    · exact refl s

theorem fill (s : State) (c : Nat) (j : BitVec 16) (va pa : Nat) (ty : PageTy) (ver : BitVec 16) (rd : Bool) :
    Unmoved s (s.fill c j va pa ty ver rd) := by
  have dropping (t : State) (f : Core → Core) (l : Line) (scratch : ∀ k, (f k).scratch = k.scratch)
      (journal : ∀ k, (f k).journal = k.journal) (strands : ∀ k, (f k).strands = k.strands) (h : Unmoved s t) :
      Unmoved s ((t.modCore c f).l1Fill c l) := (h.trans (modCore t c scratch journal strands)).trans (l1Fill ..)
  unfold State.fill
  dsimp only
  split
  · exact refl s
  · refine dropping _ _ _ (fun _ => rfl) (fun _ => rfl) (fun _ => rfl) ?_
    split
    · exact of_cores rfl rfl
    · exact refl s

end Unmoved

theorem fill_of_uncached {s : State} {c : Nat} (none : (s.core c).cacheBanks = []) (j : BitVec 16) (va pa : Nat) (ty : PageTy)
    (ver : BitVec 16) (rd : Bool) : s.fill c j va pa ty ver rd = s := if_pos (.inl none)

/-! PREF. -/

/-- The state before PREF goes on: a line may have come into the L1. -/
def prefetched (s : State) (addr : Word) (c : Scope) : State :=
  match space s.me.sup addr with
  | .ok (.virt va) =>
    if 2 ≤ scopeCode c then s
    else match s.translate s.agent va .pref with
      | (s1, .ok pa ty isSealed ver _ _) =>
        if (ty = PageTy.wo ∧ !isSealed) ∨ s1.poisoned pa 1 then s1
        else s1.fill s1.cur.core s1.me.job va pa ty ver (s1.readable s1.agent va)
      | _ => s
  | _ => s

theorem exec_pref (a : GReg) (w : Bool) (c : Scope) (p : BitVec 6) (s : State) :
    exec (.pref a w c p) s = .next (prefetched s (dispAddr (s.rg a) p 8) c).advance := rfl

theorem prefetched_leaves (s : State) (addr : Word) (c : Scope) :
    Unmoved s (prefetched s addr c) ∧ (s.mine.cacheBanks = [] → (prefetched s addr c).mem = s.mem) := by
  unfold prefetched
  split
  · next va _ =>
    split
    · exact ⟨.refl s, fun _ => rfl⟩
    · split
      · next s1 pa ty isSealed ver _ _ found =>
        have reads : Scheduling.Reads s s1 := by
          have := Scheduling.Reads.translate s s.agent va .pref
          rwa [found] at this
        have mem : s1.mem = s.mem := by rw [reads]
        split
        · exact ⟨.of_reads reads, fun _ => mem⟩
        · refine ⟨(Unmoved.of_reads reads).trans (.fill ..), fun none => ?_⟩
          have none' : (s1.core s1.cur.core).cacheBanks = [] := by
            rw [State.core, reads.cores, reads.cur]
            exact none
          rw [fill_of_uncached none', mem]
      · exact ⟨.refl s, fun _ => rfl⟩
  · exact ⟨.refl s, fun _ => rfl⟩

theorem pref_leaves {s : State} (quiet : Quiet s) (a : GReg) (w : Bool) (c : Scope) (p : BitVec 6) :
    ∃ t, exec (.pref a w c p) s = .next t ∧ t.me = wentOn s.me (s.me.pc + 4) ∧
      (∀ k, (t.core k).scratch = (s.core k).scratch) ∧ (s.mine.cacheBanks = [] → t.mem = s.mem) := by
  obtain ⟨unmoved, mem⟩ := prefetched_leaves s (dispAddr (s.rg a) p 8) c
  refine ⟨_, exec_pref a w c p s, ?_, fun k => (scratch_advance _ k).trans (unmoved.scratch k), fun none => mem none⟩
  rw [me_advance, unmoved.me]
  exact Strand.retire_of_outs_nil quiet _

/-! FLUSH at issue. -/

section
variable {s : State} {d a : GReg}

theorem exec_flush_none (c : Scope) (none : s.rg d = 0) : exec (.flush d a c) s = .next s.advance := by
  show execFlush d a c s = _
  rw [execFlush, none]
  rfl

theorem exec_flush_range (c : Scope) {x : Nat} {phys : Bool} (some : 0 < (s.rg d).toNat) (short : (s.rg d).toNat < 2 ^ 40)
    (sp : space s.me.sup (s.rg a) = .ok (if phys then .phys x else .virt x)) :
    exec (.flush d a c) s = .next (withMe s { s.me with
      st := .waiting (.flush (x / 128 * 128) ((x + (s.rg d).toNat + 127) / 128 * 128) phys c) }) := by
  show execFlush d a c s = _
  have zero : (s.rg d).toNat / 2 ^ 40 = 0 := Nat.div_eq_of_lt short
  cases phys <;> simp only [execFlush, Nat.ne_of_gt some, sp, zero, if_true, if_false, ne_eq, not_true_eq_false, Bool.false_eq_true] <;>
    rfl

theorem exec_flush_long (c : Scope) (long : 2 ^ 40 ≤ (s.rg d).toNat)
    (sp : (∃ v, space s.me.sup (s.rg a) = .ok (.virt v)) ∨ ∃ v, space s.me.sup (s.rg a) = .ok (.phys v)) :
    exec (.flush d a c) s = .next (s.trap Cause.badAddr (s.rg a)) := by
  show execFlush d a c s = _
  have some : (s.rg d).toNat ≠ 0 := by omega
  have big : (s.rg d).toNat / 2 ^ 40 ≠ 0 := by omega
  rcases sp with ⟨v, sp⟩ | ⟨v, sp⟩ <;> simp only [execFlush, some, sp, big, if_true, if_false, ne_eq, not_false_eq_true]

end

/-! FLUSH complete. -/

section
variable {s : State} {lo hi : Nat} {c : Scope}

theorem asStrand_cur (s : State) (f : State → State) (keeps : (f s).cur = s.cur) : s.asStrand s.cur.core s.cur.slot f = f s := by
  show { f s with cur := s.cur } = f s
  rw [← keeps]

/-- The strand goes on, from the state in which the visits are done. -/
theorem me_flushed {t : State} (quiet : Quiet s) (visits : Unmoved (withMe s { s.me with st := .ready }) t) :
    t.advance.me = wentOn s.me (s.me.pc + 4) := by
  have me : t.me = { s.me with st := .ready } := visits.me.trans (State.strand_setStrand_same ..)
  rw [me_advance, me]
  exact Strand.retire_of_outs_nil (by exact quiet) _

theorem flushPhys_leaves (t : State) (lo hi : Nat) (c : Scope) :
    ∃ u, Unmoved t u ∧ t.flushPhys lo hi c = u.advance := by
  unfold State.flushPhys
  dsimp only
  split
  · exact ⟨_, (Unmoved.dropScope ..).trans (.mergeRange ..), rfl⟩
  · exact ⟨_, Unmoved.dropScope .., rfl⟩

/-- The granules of a range are one. -/
theorem flushVirt_of_granule {t s1 : State} {pa pte tag : Nat} {ty : PageTy} {shut : Bool} {ver : BitVec 16} (lt : lo < hi)
    (le : hi ≤ 2 ^ 48) (same : lo / 2 ^ 16 = (hi - 1) / 2 ^ 16)
    (found : t.translate t.agent lo .load = (s1, .ok pa ty shut ver pte tag)) :
    ∃ u, Unmoved t u ∧ t.flushVirt lo hi c ((hi - 1) / 0x10000 - lo / 0x10000 + 1) = u.advance := by
  have reads : Scheduling.Reads t s1 := by
    have := Scheduling.Reads.translate t t.agent lo .load
    rwa [found] at this
  have count : (hi - 1) / 0x10000 - lo / 0x10000 + 1 = 1 := by omega
  have mid : min hi (lo / 0x10000 * 0x10000 + 0x10000) = hi := by omega
  have inside : ¬2 ^ 48 ≤ lo := by omega
  rw [count]
  simp only [State.flushVirt, mid, State.flushGranule, inside, if_false, found]
  split
  · exact ⟨_, ((Unmoved.of_reads reads).trans (.dropScope ..)).trans (.mergeRange ..), rfl⟩
  · exact ⟨_, (Unmoved.of_reads reads).trans (.dropScope ..), rfl⟩

/-- What FLUSH_COMPLETE does for the issuing strand. -/
def flushing (lo hi : Nat) (phys : Bool) (c : Scope) (s : State) : State :=
  if phys then (withMe s { s.me with st := .ready }).flushPhys lo hi c
  else (withMe s { s.me with st := .ready }).flushVirt lo hi c ((hi - 1) / 0x10000 - lo / 0x10000 + 1)

theorem exec_flushComplete {phys : Bool} (wait : s.me.st = .waiting (.flush lo hi phys c))
    (stores : s.storesOut s.cur.core s.cur.slot = false) :
    exec (.flushComplete s.cur.core s.cur.slot) s = .next (s.asStrand s.cur.core s.cur.slot (flushing lo hi phys c)) := by
  show execFlushComplete s.cur.core s.cur.slot s = _
  have wait' : (s.strand s.cur.core s.cur.slot).st = .waiting (.flush lo hi phys c) := wait
  rw [execFlushComplete, wait']
  simp only [stores, Bool.false_eq_true, if_false]
  rfl

/-- FLUSH_COMPLETE where the visits are done. -/
theorem flushComplete_of_visits {phys : Bool} {u : State} (quiet : Quiet s) (wait : s.me.st = .waiting (.flush lo hi phys c))
    (stores : s.storesOut s.cur.core s.cur.slot = false) (visits : Unmoved (withMe s { s.me with st := .ready }) u)
    (done : flushing lo hi phys c s = u.advance) :
    ∃ t, exec (.flushComplete s.cur.core s.cur.slot) s = .next t ∧ t.me = wentOn s.me (s.me.pc + 4) := by
  have cur : (flushing lo hi phys c s).cur = s.cur := by rw [done]; exact visits.cur
  exact ⟨_, exec_flushComplete wait stores, by rw [asStrand_cur s _ cur, done]; exact me_flushed quiet visits⟩

end

theorem withMe_onlyMe (s : State) (x : Strand) : OnlyMe s (withMe s x) x := (OnlyMe.refl s).modMe fun _ => x

theorem agent_withMe {s : State} {x : Strand} (job : x.job = s.me.job) (sup : x.sup = s.me.sup) :
    (withMe s x).agent = s.agent := by
  have only := withMe_onlyMe s x
  rw [State.agent, State.party, only.me, only.cur, only.bases, job, sup]
  rfl

theorem prefetchAndFlush : Claims.PrefetchAndFlush := by
  refine ⟨fun a w c p s quiet => pref_leaves quiet a w c p, fun d a c s none => exec_flush_none c none,
    fun d a c s x phys some short sp => exec_flush_range c some short sp, fun d a c s long sp => exec_flush_long c long sp,
    fun lo hi c s quiet wait stores => ?_, fun lo hi c s s1 pa pte tag ty shut ver quiet wait stores lt le same found => ?_⟩
  · obtain ⟨u, visits, done⟩ := flushPhys_leaves (withMe s { s.me with st := .ready }) lo hi c
    exact flushComplete_of_visits quiet wait stores visits done
  · have agent : (withMe s { s.me with st := .ready }).agent = s.agent := agent_withMe rfl rfl
    obtain ⟨u, visits, done⟩ := flushVirt_of_granule (c := c) lt le same (by rw [agent]; exact found)
    exact flushComplete_of_visits quiet wait stores visits done

/-- Settles O18: a fence that waits for nothing changes its strand's marks and the RC lines alone; PREF and the visits of a
FLUSH change lines, homes and masks, and no strand. -/
theorem fencesAndFlushes : Obligations.FencesAndFlushes := ⟨fences, prefetchAndFlush⟩

end Sys2Proof.Hierarchy
end

section
/-!
PROOF. BANKSET (10 R211): its selection, its checks, and the changes that it starts.
-/

open Sys2Proof Sys2Proof.Machine Sys2Proof.Claims

namespace Sys2Proof.Hierarchy

/-! The selection. -/

/-- A BANKSET word selects a bank. -/
def Selects (w : Word) (i : Nat) : Prop := i < 16 ∧ w.getLsbD (32 + i) = true

theorem bankModeOf_eq_some {n : Nat} {m : BankMode} : bankModeOf n = some m ↔ n = m.code := by
  constructor
  · intro h
    unfold bankModeOf at h
    split at h <;> cases h <;> rfl
  · rintro rfl
    cases m <;> rfl

theorem mem_bankSel {w : Word} {i : Nat} {m : BankMode} : (i, m) ∈ bankSel w ↔ Selects w i ∧ field w (2 * i) 2 = m.code := by
  simp only [bankSel, List.mem_filterMap, List.mem_range, Selects, Scheduling.bit_eq_getLsbD, Scheduling.bits_eq_field]
  constructor
  · rintro ⟨j, lt, h⟩
    split at h
    · next on mode =>
      cases h
      exact ⟨⟨lt, on⟩, bankModeOf_eq_some.1 mode⟩
    · cases h
  · rintro ⟨⟨lt, on⟩, mode⟩
    exact ⟨i, lt, by rw [on, bankModeOf_eq_some.2 mode]⟩

/-- A selected bank whose mode is not 11 gets a mode. -/
theorem exists_mode {w : Word} {i : Nat} (legal : field w (2 * i) 2 ≠ 3) : ∃ m : BankMode, field w (2 * i) 2 = m.code := by
  have lt := Scheduling.field_lt w (2 * i) 2
  have cases3 : field w (2 * i) 2 = 0 ∨ field w (2 * i) 2 = 1 ∨ field w (2 * i) 2 = 2 := by omega
  rcases cases3 with h | h | h
  · exact ⟨.scratch, h⟩
  · exact ⟨.cache, h⟩
  · exact ⟨.fifo, h⟩

theorem mem_bankChanges {k : Core} {w : Word} {i : Nat} {m : BankMode} :
    (i, m) ∈ k.bankChanges (bankSel w) ↔ Selects w i ∧ field w (2 * i) 2 = m.code ∧ k.bank i ≠ m := by
  simp only [Core.bankChanges, List.mem_filter, mem_bankSel, decide_eq_true_eq, and_assoc]

theorem code_inj {m m' : BankMode} (h : m.code = m'.code) : m = m' := by
  exact Option.some.inj ((bankModeOf_eq_some.2 rfl).symm.trans (bankModeOf_eq_some.2 h))

theorem bankRefused_iff {k : Core} {w : Word} : k.bankRefused (k.bankChanges (bankSel w)) = true ↔
    ∃ i, Selects w i ∧ field w (2 * i) 2 ≠ 2 ∧ field w (2 * i) 2 ≠ 3 ∧ k.bank i = .fifo ∧ k.bankBound i = true := by
  simp only [Core.bankRefused, List.any_eq_true, Bool.and_eq_true, decide_eq_true_eq, Prod.exists, mem_bankChanges]
  constructor
  · rintro ⟨i, m, ⟨sel, mode, ne⟩, fifo, bound⟩
    rw [fifo] at ne
    refine ⟨i, sel, ?_, ?_, fifo, bound⟩ <;> rw [mode] <;> revert ne <;> cases m <;> decide
  · rintro ⟨i, sel, ne, legal, fifo, bound⟩
    obtain ⟨m, mode⟩ := exists_mode legal
    refine ⟨i, m, ⟨sel, mode, fun same => ne ?_⟩, fifo, bound⟩
    rw [mode, ← same, fifo]
    rfl

/-! The checks. -/

section
variable {b : GReg} {s : State}

/-- A BANKSET word that 10 R211 does not allow. -/
def BadBanks (w : Word) : Prop := field w 48 16 ≠ 0 ∨ ∃ i, Selects w i ∧ field w (2 * i) 2 = 3

theorem badBanks_iff (w : Word) :
    (bits w 48 16 ≠ 0 ∨ (List.range 16).any (fun i => bit w (32 + i) && bits w (2 * i) 2 = 3) = true) ↔ BadBanks w := by
  simp only [BadBanks, Selects, Scheduling.bit_eq_getLsbD, List.any_eq_true, List.mem_range, Bool.and_eq_true,
    decide_eq_true_eq, and_assoc]
  rfl

theorem exec_bankset_of_bad (bad : BadBanks (s.rg b)) : exec (.bankset b) s = .next (s.trap 0x1D s.me.pc) := by
  show execBankset b s = _
  rw [execBankset, if_pos ((badBanks_iff _).2 bad)]
  rfl

theorem exec_bankset_of_bound (good : ¬BadBanks (s.rg b)) (bound : s.mine.bankRefused (s.mine.bankChanges (bankSel (s.rg b))) = true) :
    exec (.bankset b) s = .next (s.trap 0x1E s.me.pc) := by
  show execBankset b s = _
  rw [execBankset, if_neg ((badBanks_iff _).not.2 good), if_pos bound]
  rfl

/-- The issuing core while its one BANKSET waits. -/
def bankWaiting (s : State) (set : List (Nat × BankMode)) : Core :=
  { s.mine.setStrand s.cur.slot { s.me with st := .waiting .bankset } with bankq := [⟨s.cur.slot, set, none⟩] }

theorem exec_bankset_of_good (good : ¬BadBanks (s.rg b)) (free : s.mine.bankRefused (s.mine.bankChanges (bankSel (s.rg b))) = false)
    (first : s.mine.bankq = []) :
    exec (.bankset b) s = .next (State.bankPump s.cur.core 1 (s.setCore s.cur.core (bankWaiting s (bankSel (s.rg b))))) := by
  show execBankset b s = _
  rw [execBankset, if_neg ((badBanks_iff _).not.2 good), free, if_neg Bool.false_ne_true]
  have mine := State.mine_modMine s fun k => { k with bankq := k.bankq ++ [⟨s.cur.slot, bankSel (s.rg b), none⟩] }
  have waiting : (s.modMine fun k => { k with bankq := k.bankq ++ [⟨s.cur.slot, bankSel (s.rg b), none⟩] }).await .bankset =
      s.setCore s.cur.core (bankWaiting s (bankSel (s.rg b))) := by
    simp only [State.await, State.modMe, State.modStrand, State.setStrand, State.strand, State.modMine, State.modCore,
      State.setCore_cur, State.core_setCore_same, State.setCore_setCore, bankWaiting, State.mine, State.me]
    rw [show (s.core s.cur.core).bankq = [] from first]
    rfl
  dsimp only
  rw [waiting, mine, first]
  rfl

/-! The changes. -/

theorem busySelected_iff (good : ¬BadBanks (s.rg b)) :
    (s.mine.busy.any fun x => (bankSel (s.rg b)).any fun y => y.1 = x.1) = true ↔ ∃ x ∈ s.mine.busy, Selects (s.rg b) x.1 := by
  simp only [List.any_eq_true, decide_eq_true_eq, Prod.exists]
  constructor
  · rintro ⟨i, m, busy, j, m', sel, rfl⟩
    exact ⟨j, m, busy, (mem_bankSel.1 sel).1⟩
  · rintro ⟨i, m, busy, sel⟩
    obtain ⟨m', mode⟩ := exists_mode (w := s.rg b) (i := i) fun h => good (.inr ⟨i, sel, h⟩)
    exact ⟨i, m, busy, i, m', mem_bankSel.2 ⟨sel, mode⟩, rfl⟩

/-- The state in which the BANKSET has been queued. -/
def bankQueued (s : State) (b : GReg) : State := s.setCore s.cur.core (bankWaiting s (bankSel (s.rg b)))

theorem me_bankQueued : (bankQueued s b).me = { s.me with st := .waiting .bankset } := by
  rw [State.me, State.strand, bankQueued, State.setCore_cur, State.core_setCore_same]
  exact Core.strand_setStrand_same ..

theorem bankPump_of_busy (good : ¬BadBanks (s.rg b)) (busy : ∃ x ∈ s.mine.busy, Selects (s.rg b) x.1) :
    State.bankPump s.cur.core 1 (bankQueued s b) = bankQueued s b := by
  have held := (busySelected_iff good).2 busy
  simp only [State.bankPump, bankQueued, State.core_setCore_same, bankWaiting, List.find?_cons, Option.isNone_none,
    Core.setStrand_busy, held, if_true]

theorem bankPump_of_free (good : ¬BadBanks (s.rg b)) (free : ∀ x ∈ s.mine.busy, ¬Selects (s.rg b) x.1) :
    State.bankPump s.cur.core 1 (bankQueued s b) =
      (bankQueued s b).bankApply s.cur.core ⟨s.cur.slot, bankSel (s.rg b), none⟩ := by
  have open_ : (s.mine.busy.any fun x => (bankSel (s.rg b)).any fun y => y.1 = x.1) = false := by
    rw [← Bool.not_eq_true, busySelected_iff good]
    exact fun ⟨x, mem, sel⟩ => free x mem sel
  simp only [State.bankPump, bankQueued, State.core_setCore_same, bankWaiting, List.find?_cons, Option.isNone_none,
    Core.setStrand_busy, open_, Bool.false_eq_true, if_false]

theorem bankReturn_bankWaiting (first : s.mine.bankq = []) (set : List (Nat × BankMode)) :
    (bankWaiting s set).bankReturn s.cur.slot = s.mine.setStrand s.cur.slot (s.me.retire (s.me.pc + 4)) := by
  have alone : ([⟨s.cur.slot, set, none⟩] : List BankReq).filter (fun x => decide (x.slot ≠ s.cur.slot)) = [] := by simp
  have strand : (bankWaiting s set).strand s.cur.slot = { s.me with st := .waiting .bankset } := Core.strand_setStrand_same ..
  simp only [Core.bankReturn, Core.bankLeave, strand]
  simp only [bankWaiting, alone, Core.setStrand, Tab.put_put]
  rw [← first]
  rfl

/-- Where no selected bank's mode differs the strand goes on. -/
theorem bankApply_of_same (first : s.mine.bankq = [])
    (same : s.mine.bankChanges (bankSel (s.rg b)) = []) :
    (bankQueued s b).bankApply s.cur.core ⟨s.cur.slot, bankSel (s.rg b), none⟩ = s.advance := by
  have changes : (bankWaiting s (bankSel (s.rg b))).bankChanges (bankSel (s.rg b)) = [] := same
  have allowed : (bankWaiting s (bankSel (s.rg b))).bankRefused [] = false := rfl
  simp only [State.bankApply, bankQueued, State.core_setCore_same, changes, allowed, Bool.false_eq_true, if_false, if_true,
    State.setCore_setCore, bankReturn_bankWaiting first]
  rfl

/-- Else the changes begin, and the strand waits. -/
theorem bankApply_of_changes (free : s.mine.bankRefused (s.mine.bankChanges (bankSel (s.rg b))) = false)
    (some : s.mine.bankChanges (bankSel (s.rg b)) ≠ []) :
    let t := (bankQueued s b).bankApply s.cur.core ⟨s.cur.slot, bankSel (s.rg b), none⟩
    t.me = { s.me with st := .waiting .bankset } ∧ t.mine.busy = s.mine.busy ++ s.mine.bankChanges (bankSel (s.rg b)) := by
  have changes : (bankWaiting s (bankSel (s.rg b))).bankChanges (bankSel (s.rg b)) = s.mine.bankChanges (bankSel (s.rg b)) := rfl
  have allowed : (bankWaiting s (bankSel (s.rg b))).bankRefused (s.mine.bankChanges (bankSel (s.rg b))) = false := free
  simp only [State.bankApply, bankQueued, State.core_setCore_same, changes, allowed, some, Bool.false_eq_true, if_false,
    State.setCore_setCore]
  refine ⟨?_, congrArg Core.busy (State.core_setCore_same s s.cur.core _)⟩
  rw [State.me, State.strand, State.setCore_cur, State.core_setCore_same]
  exact Core.strand_setStrand_same ..

end

end Sys2Proof.Hierarchy
end

section
/-!
PROOF. BANKSET, concluded (04 R76, 10 R211): a change that is complete, and the obligation.
-/

open Sys2Proof Sys2Proof.Machine Sys2Proof.Claims

namespace Sys2Proof.Hierarchy

theorem bankset_begins (b : GReg) (s : State) :
    (BadBanks (s.rg b) → exec (.bankset b) s = .next (s.trap 0x1D s.me.pc)) ∧
    (¬BadBanks (s.rg b) →
      (s.mine.bankRefused (s.mine.bankChanges (bankSel (s.rg b))) = true → exec (.bankset b) s = .next (s.trap 0x1E s.me.pc)) ∧
      (s.mine.bankRefused (s.mine.bankChanges (bankSel (s.rg b))) = false → s.mine.bankq = [] →
        ((∃ x ∈ s.mine.busy, Selects (s.rg b) x.1) →
          ∃ t, exec (.bankset b) s = .next t ∧ t.me = { s.me with st := .waiting .bankset } ∧ t.mine.busy = s.mine.busy) ∧
        ((∀ x ∈ s.mine.busy, ¬Selects (s.rg b) x.1) →
          (s.mine.bankChanges (bankSel (s.rg b)) = [] → exec (.bankset b) s = .next s.advance) ∧
          (s.mine.bankChanges (bankSel (s.rg b)) ≠ [] →
            ∃ t, exec (.bankset b) s = .next t ∧ t.me = { s.me with st := .waiting .bankset } ∧
              t.mine.busy = s.mine.busy ++ s.mine.bankChanges (bankSel (s.rg b)))))) := by
  refine ⟨exec_bankset_of_bad, fun good => ⟨exec_bankset_of_bound good, fun free first => ?_⟩⟩
  have exec_eq := exec_bankset_of_good good free first
  refine ⟨fun busy => ⟨_, exec_eq, ?_⟩, fun idle => ⟨fun same => ?_, fun some => ⟨_, exec_eq, ?_⟩⟩⟩
  · rw [← bankQueued, bankPump_of_busy good busy]
    exact ⟨me_bankQueued, (congrArg Core.busy (State.core_setCore_same s s.cur.core (bankWaiting s _))).trans rfl⟩
  · rw [exec_eq, ← bankQueued, bankPump_of_free good idle, bankApply_of_same first same]
  · rw [← bankQueued, bankPump_of_free good idle]
    exact bankApply_of_changes free some

/-! A change that is complete. -/

section
variable {s : State} {c : Nat} {b : Fin 16} {m : BankMode}

/-- The core of a bank whose change is complete, before a BANKSET returns. -/
def bankChanged (b : Nat) (m : BankMode) (k : Core) : Core :=
  { k.clearBank b with
    banks := if m = .scratch then k.banks.del b else k.banks.put b m
    busy := k.busy.filter fun x => x.1 ≠ b }

theorem bank_bankChanged_same (b : Nat) (m : BankMode) (k : Core) : (bankChanged b m k).bank b = m := by
  unfold bankChanged Core.bank
  dsimp only
  split
  · next h => rw [Tab.look_del_same, h]
  · rw [Tab.look_put_same]

theorem bank_bankChanged_ne {b i : Nat} (m : BankMode) (k : Core) (ne : i ≠ b) : (bankChanged b m k).bank i = k.bank i := by
  unfold bankChanged Core.bank
  dsimp only
  split
  · rw [Tab.look_del_ne _ _ ne]
  · rw [Tab.look_put_ne _ _ _ ne]

/-- Reading a table some of whose keys have been taken out. -/
theorem look_filter {α : Type} (t : Tab α) (p : Nat → Bool) (k : Nat) (d : α) :
    Tab.look (t.filter fun x => p x.1) k d = if p k then t.look k d else d := by
  induction t with
  | nil => simp
  | cons x t ih =>
    rw [List.filter_cons]
    by_cases keep : p x.1 = true
    · rw [if_pos keep, Tab.look_cons, Tab.look_cons, ih]
      by_cases same : x.1 = k
      · rw [if_pos same, if_pos same, if_pos (same ▸ keep)]
      · rw [if_neg same, if_neg same]
    · rw [if_neg keep, ih, Tab.look_cons]
      by_cases same : x.1 = k
      · rw [if_pos same, if_neg (same ▸ keep), if_neg (same ▸ keep)]
      · rw [if_neg same]

theorem scratch_bankChanged (b : Nat) (m : BankMode) (k : Core) (x : Nat) :
    (bankChanged b m k).scratch.get x = if bankOf x = b then 0 else k.scratch.get x := by
  have cut : (bankChanged b m k).scratch.get x = if decide (bankOf x ≠ b) = true then k.scratch.get x else Memory.unlisted :=
    look_filter k.scratch (fun a => decide (bankOf a ≠ b)) x Memory.unlisted
  rw [cut]
  by_cases same : bankOf x = b <;> simp [same, Memory.unlisted]

theorem exec_bankModeChangeComplete (busy : (s.core c).busy = [(b.val, m)]) (copies : (s.cores.all fun x => x.2.copies.isEmpty) = true)
    (flight : ∀ x ∈ s.accs, x.2.stage ≠ .bank) :
    exec (.bankModeChangeComplete c b) s = .next (
      let s' := if (s.core c).bank b = .cache then s.dropLines c fun l => l.bank = b.val else s
      let t := s'.modCore c fun k => (bankChanged b.val m k).bankDone
      State.bankPump c (t.core c).bankq.length t) := by
  have noCopy : s.copyInto c b = false := by
    rw [State.copyInto, List.any_eq_false]
    intro x mem
    have none := List.all_eq_true.1 copies x mem
    rw [List.isEmpty_iff.1 none]
    exact Bool.false_ne_true
  have noAccess : s.accInto c b = false := by
    rw [State.accInto, List.any_eq_false]
    intro x mem
    simp only [flight x mem, decide_false, Bool.and_false, Bool.false_and, Bool.false_eq_true, not_false_eq_true]
  show execBankModeChangeComplete c b s = _
  simp only [execBankModeChangeComplete, busy, List.find?_cons, decide_true, noCopy, noAccess, Bool.false_eq_true, or_self, and_false,
    if_false]
  rfl

/-- A core without lines drops none. -/
theorem dropLines_of_none (none : (s.core c).lines = []) (p : Line → Bool) :
    (s.dropLines c p).mem = s.mem ∧ ∀ k, (s.dropLines c p).core k = s.core k := by
  have dropped : s.dropLines c p = s.modCore c fun k => { k with lines := k.lines.filter fun l => !p l } := by
    simp only [State.dropLines, none, List.filter_nil, List.foldl_nil]
  rw [dropped]
  refine ⟨rfl, fun k => ?_⟩
  rw [State.modCore, State.core_setCore]
  split
  · next h =>
    rw [h, none, List.filter_nil, ← none]
  · rfl

/-- The core once a complete change has let the BANKSETs return that it ends. -/
def changeEnds (s : State) (c b : Nat) (m : BankMode) : Core := (bankChanged b m (s.core c)).bankDone

/-- A complete change that leaves no BANKSET waiting changes its core alone. -/
theorem bankChange_ends (busy : (s.core c).busy = [(b.val, m)]) (lines : (s.core c).lines = [])
    (copies : (s.cores.all fun x => x.2.copies.isEmpty) = true) (flight : ∀ x ∈ s.accs, x.2.stage ≠ .bank)
    (none : (changeEnds s c b.val m).bankq = []) :
    ∃ t, exec (.bankModeChangeComplete c b) s = .next t ∧ t.mem = s.mem ∧ t.core c = changeEnds s c b.val m ∧
      ∀ k, k ≠ c → t.core k = s.core k := by
  refine ⟨_, exec_bankModeChangeComplete busy copies flight, ?_⟩
  generalize dropped : (if (s.core c).bank b = .cache then s.dropLines c fun l => l.bank = b.val else s) = s'
  have same : s'.mem = s.mem ∧ ∀ k, s'.core k = s.core k := by
    rw [← dropped]
    split
    · exact dropLines_of_none lines _
    · exact ⟨rfl, fun _ => rfl⟩
  obtain ⟨mem, core⟩ := same
  have changed : (s'.modCore c fun k => (bankChanged b.val m k).bankDone).core c = changeEnds s c b.val m := by
    rw [State.core_modCore_same, core]
    rfl
  dsimp only
  rw [changed, none]
  exact ⟨mem, changed, fun k ne => (State.core_modCore_ne s' _ ne).trans (core k)⟩

/-- What a core whose change is complete has of the bank and of the others, whoever returns. -/
theorem bankChange_leaves {t : State} (busy : (s.core c).busy = [(b.val, m)]) (k : Core) (mem : t.mem = s.mem) (core : t.core c = k)
    (others : ∀ n, n ≠ c → t.core n = s.core n) (banks : k.banks = (bankChanged b.val m (s.core c)).banks)
    (scratch : k.scratch = (bankChanged b.val m (s.core c)).scratch) (left : k.busy = (bankChanged b.val m (s.core c)).busy)
    (fifos : k.fifos = (bankChanged b.val m (s.core c)).fifos) :
    (t.core c).bank b.val = m ∧ (t.core c).busy = [] ∧ (∀ i, i ≠ b.val → (t.core c).bank i = (s.core c).bank i) ∧
      (t.core c).fifo b.val = [] ∧ (∀ x, x / 0x8000 = b.val → (t.core c).scratch.get x = 0) ∧
      OnlyScratch s t c (b.val * 0x8000) 0x8000 := by
  have bank (i : Nat) : k.bank i = (bankChanged b.val m (s.core c)).bank i := congrArg (Tab.look · i BankMode.scratch) banks
  have bytes (x : Nat) : (t.core c).scratch.get x = if x / 0x8000 = b.val then 0 else (s.core c).scratch.get x := by
    rw [core, scratch]
    exact scratch_bankChanged b.val m (s.core c) x
  refine ⟨?_, ?_, fun i ne => ?_, ?_, fun x own => ?_, fun x out => ?_, fun n x ne => ?_, fun x => ?_⟩
  · rw [core, bank, bank_bankChanged_same]
  · rw [core, left]
    show (s.core c).busy.filter _ = []
    rw [busy]
    simp
  · rw [core, bank, bank_bankChanged_ne _ _ ne]
  · rw [core, Core.fifo, fifos]
    exact Tab.look_del_same ..
  · rw [bytes, if_pos own]
  · rw [bytes, if_neg fun own => out (by omega)]
  · rw [others n ne]
  · rw [mem]

end

section
variable {s : State} {c : Nat} {b : Fin 16} {m : BankMode}

theorem changeEnds_of_no_wait (none : (s.core c).bankq = []) : changeEnds s c b.val m = bankChanged b.val m (s.core c) := by
  have queue : (bankChanged b.val m (s.core c)).bankq = [] := none
  rw [changeEnds, Core.bankDone, queue]
  rfl

theorem changeEnds_of_wait {n : Nat} {set : List (Nat × BankMode)} (busy : (s.core c).busy = [(b.val, m)])
    (waits : (s.core c).bankq = [⟨n, set, some [b.val]⟩]) :
    changeEnds s c b.val m = (bankChanged b.val m (s.core c)).bankReturn n := by
  have queue : (bankChanged b.val m (s.core c)).bankq = [⟨n, set, some [b.val]⟩] := waits
  have idle : (bankChanged b.val m (s.core c)).busy = [] := by
    show (s.core c).busy.filter _ = []
    rw [busy]
    simp
  rw [changeEnds, Core.bankDone, queue, List.filter_cons, idle]
  rfl

theorem bankq_bankReturn {k : Core} {n : Nat} {set : List (Nat × BankMode)} {bs : Option (List Nat)} (waits : k.bankq = [⟨n, set, bs⟩]) :
    (k.bankReturn n).bankq = [] := by
  show (k.bankq.filter _) = []
  rw [waits]
  simp

end

/-- 10 R211 in the words of its statement: a selection takes no bound bank out of FIFO mode. -/
theorem bankRefused_eq_false {k : Core} {w : Word}
    (free : ∀ i, Selects w i → k.bank i = .fifo → field w (2 * i) 2 ≠ 2 → k.bankBound i = false) :
    k.bankRefused (k.bankChanges (bankSel w)) = false := by
  rw [← Bool.not_eq_true, bankRefused_iff]
  rintro ⟨i, sel, ne, -, fifo, bound⟩
  rw [free i sel fifo ne] at bound
  cases bound

theorem bankChanges_eq_nil_iff {k : Core} {w : Word} (good : ¬BadBanks w) :
    k.bankChanges (bankSel w) = [] ↔ ∀ i, Selects w i → field w (2 * i) 2 = (k.bank i).code := by
  rw [List.eq_nil_iff_forall_not_mem]
  constructor
  · intro none i sel
    obtain ⟨m, mode⟩ := exists_mode (w := w) (i := i) fun h => good (.inr ⟨i, sel, h⟩)
    by_cases same : k.bank i = m
    · rw [mode, same]
    · exact absurd (mem_bankChanges.2 ⟨sel, mode, same⟩) (none (i, m))
  · rintro same ⟨i, m⟩ mem
    obtain ⟨sel, mode, ne⟩ := mem_bankChanges.1 mem
    exact ne (code_inj ((same i sel).symm.trans mode))

/-- Settles O23: the checks, what a BANKSET starts (`bankset_begins`), and what a complete change leaves (`bankChange_leaves`). -/
theorem bankModes : Obligations.BankModes := by
  unfold Obligations.BankModes
  refine ⟨fun b s => ?_, fun s c b m busy lines copies flight => ⟨fun none => ?_, fun n set waits outs => ?_⟩⟩
  · obtain ⟨bad, start⟩ := bankset_begins b s
    refine ⟨bad, fun reserved legal => ?_⟩
    have good : ¬BadBanks (s.rg b) := fun h => h.elim (absurd reserved) fun ⟨i, sel, three⟩ => legal i sel three
    obtain ⟨bound, start⟩ := start good
    refine ⟨fun ⟨i, sel, fifo, ne, held⟩ => bound (bankRefused_iff.2 ⟨i, sel, ne, legal i sel, fifo, held⟩), fun free first => ?_⟩
    obtain ⟨waits, idle⟩ := start (bankRefused_eq_false free) first
    refine ⟨waits, fun quiet => ?_⟩
    obtain ⟨same, change⟩ := idle quiet
    refine ⟨fun alike => same ((bankChanges_eq_nil_iff good).2 alike), fun ⟨i, sel, ne⟩ => ?_⟩
    obtain ⟨t, step, me, busy⟩ := change fun none => ne ((bankChanges_eq_nil_iff good).1 none i sel)
    exact ⟨t, step, me, fun i m => by rw [busy, List.mem_append, mem_bankChanges]; rfl⟩
  · have ends := changeEnds_of_no_wait (b := b) (m := m) none
    obtain ⟨t, step, mem, core, others⟩ := bankChange_ends busy lines copies flight (by rw [ends]; exact none)
    exact ⟨t, step, bankChange_leaves busy _ mem (core.trans ends) others rfl rfl rfl rfl⟩
  · have ends := changeEnds_of_wait busy waits
    have left := bankq_bankReturn (k := bankChanged b.val m (s.core c)) waits
    obtain ⟨t, step, mem, core, others⟩ := bankChange_ends busy lines copies flight (by rw [ends]; exact left)
    obtain ⟨bank, idle, -⟩ := bankChange_leaves busy _ mem (core.trans ends) others rfl rfl rfl rfl
    refine ⟨t, step, bank, idle, by rw [core, ends]; exact left, ?_⟩
    rw [State.strand, core, ends, wentOn, ← Strand.retire_of_outs_nil outs]
    exact Core.strand_setStrand_same ..

end Sys2Proof.Hierarchy
end

section
/-!
PROOF. The tag instructions (10 R208), and what a ring object in scratch holds (04 R88).
-/

open Sys2Proof Sys2Proof.Machine Sys2Proof.Claims

namespace Sys2Proof.Hierarchy

/-! The lowest tag. -/

/-- CTZ from position 64 - n up: the first set bit, or 64. -/
theorem ctzFrom_spec (a : Word) {n : Nat} (le : n ≤ 64) :
    ctzFrom a n ≤ n ∧ (ctzFrom a n < n → a.getLsbD (64 - n + ctzFrom a n) = true) ∧
      ∀ j < ctzFrom a n, a.getLsbD (64 - n + j) = false := by
  induction n with
  | zero => exact ⟨Nat.le_refl _, fun h => absurd h (Nat.not_lt_zero _), fun j h => absurd h (Nat.not_lt_zero _)⟩
  | succ n ih =>
    obtain ⟨bound, found, clear⟩ := ih (by omega)
    rw [ctzFrom]
    have here : 64 - (n + 1) = 63 - n := by omega
    have next (j : Nat) : 64 - (n + 1) + (j + 1) = 64 - n + j := by omega
    split
    · next set => exact ⟨Nat.zero_le _, fun _ => by rw [here]; exact set, fun j h => absurd h (Nat.not_lt_zero _)⟩
    · next unset =>
      refine ⟨by omega, fun lt => ?_, fun j lt => ?_⟩
      · rw [next]
        exact found (by omega)
      · cases j with
        | zero => rw [here]; exact Bool.eq_false_of_not_eq_true unset
        | succ j => rw [next]; exact clear j (by omega)

theorem ctz64_spec (a : Word) : ctz64 a ≤ 64 ∧ (ctz64 a < 64 → a.getLsbD (ctz64 a) = true) ∧ ∀ j < ctz64 a, a.getLsbD j = false := by
  rw [ctz64]
  simpa only [Nat.sub_self, Nat.zero_add] using ctzFrom_spec a (Nat.le_refl 64)

/-- Tags of a core cleared. -/
def tagsCleared (w : Word) (k : Core) : Core := { k with tags := k.tags &&& ~~~w }

theorem mine_advance (s : State) : s.advance.mine = s.mine.setStrand s.cur.slot (s.me.retire (s.me.pc + 4)) :=
  Scheduling.mine_modMe s fun t => t.retire (t.pc + 4)

theorem me_modMine_of_strands {s : State} {f : Core → Core} (kept : (f s.mine).strands = s.mine.strands) : (s.modMine f).me = s.me := by
  have mine : (s.modMine f).core s.cur.core = f s.mine := State.mine_modMine s f
  show ((s.modMine f).core s.cur.core).strand s.cur.slot = s.me
  rw [mine, Core.strand, kept]
  rfl

/-- 10 R208. -/
theorem tags : Claims.Tags := by
  intro a b l s
  have acq : acquiring s true .clu = s.invalidateRc s.cur.core := rfl
  refine ⟨fun none => ?_, fun some => ?_, fun ne => ?_, fun all => ?_, ⟨ctz64 (s.mine.tags &&& s.rg b), rfl, ?_⟩, fun quiet => ?_⟩
  · show execTagwany a b l s = _
    rw [execTagwany, if_pos none]
  · show execTagwany a b l s = _
    rw [execTagwany, if_neg some, acq]
  · show execTagwall b s = _
    rw [execTagwall, if_neg ne]
  · show execTagwall b s = _
    rw [execTagwall, if_pos all, acq]
  · exact ctz64_spec (s.mine.tags &&& s.rg b)
  · have mine : (s.modMine (tagsCleared (s.rg b))).mine = tagsCleared (s.rg b) s.mine := State.mine_modMine s _
    refine ⟨(s.modMine (tagsCleared (s.rg b))).advance, rfl, ?_, ?_, rfl, ?_⟩
    · rw [mine_advance, Core.setStrand_tags, mine]
      rfl
    · rw [me_advance, me_modMine_of_strands rfl, Strand.retire_of_outs_nil quiet, wentOn]
    · rw [mine_advance, Core.setStrand_scratch, mine]
      rfl

/-! Numbers in memory. -/

theorem read_eq_number (m : Memory) (a n : Nat) : m.read a n = number (fun j => m.get (a + j)) n := by
  induction n generalizing a with
  | zero => rfl
  | succ n ih =>
    have step : m.read a (n + 1) = (m.get a).toNat + 256 * m.read (a + 1) n := rfl
    rw [step, ih, number]
    simp only [Nat.add_zero, Nat.add_assoc, Nat.add_comm 1]

theorem leNat_lt (bs : List Byte) : leNat bs < 256 ^ bs.length := by
  induction bs with
  | nil => exact Nat.one_pos
  | cons b bs ih =>
    have lt := b.isLt
    rw [leNat, List.length_cons, Nat.pow_succ]
    omega

theorem read4_lt (m : Memory) (a : Nat) : m.read a 4 < 2 ^ 32 := by
  have lt := leNat_lt (m.bytes a 4)
  rwa [show (m.bytes a 4).length = 4 from rfl, show 256 ^ 4 = 2 ^ 32 from by norm_num] at lt

theorem read8_eq (m : Memory) (a : Nat) : m.read a 8 = m.read a 4 + 2 ^ 32 * m.read (a + 4) 4 := by
  simp only [Memory.read, Memory.bytes, leNat, Nat.add_assoc, Nat.reduceAdd]
  omega

/-- The halves of an 8-byte number. -/
theorem read4_write8 (m : Memory) (a v : Nat) :
    (m.write a 8 v).read a 4 = v % 2 ^ 32 ∧ (m.write a 8 v).read (a + 4) 4 = v / 2 ^ 32 % 2 ^ 32 := by
  have whole := Memory.read_write m a 8 v
  rw [read8_eq] at whole
  have low := read4_lt (m.write a 8 v) a
  have high := read4_lt (m.write a 8 v) (a + 4)
  omega

/-! Ring objects. -/

theorem ringField_eq_read (s : State) (c off i : Nat) : ringField s c off i = (s.core c).scratch.read (off + 4 * i) 4 :=
  (read_eq_number ..).symm

theorem ringField_lt (s : State) (c off i : Nat) : ringField s c off i < 2 ^ 32 := by
  rw [ringField_eq_read]
  exact read4_lt ..

/-- Word `i` of a ring object holds fields 2i and 2i + 1. -/
theorem ringWord_eq (s : State) (c off i : Nat) :
    (s.core c).ringWord off i = ringField s c off (2 * i) + 2 ^ 32 * ringField s c off (2 * i + 1) := by
  have low : off + 4 * (2 * i) = off + 8 * i := by omega
  have high : off + 4 * (2 * i + 1) = off + 8 * i + 4 := by omega
  rw [ringField_eq_read, ringField_eq_read, Core.ringWord, read8_eq, low, high]

theorem ringWord_halves (s : State) (c off i : Nat) :
    (s.core c).ringWord off i % 2 ^ 32 = ringField s c off (2 * i) ∧
      (s.core c).ringWord off i / 2 ^ 32 = ringField s c off (2 * i + 1) := by
  have low := ringField_lt s c off (2 * i)
  rw [ringWord_eq]
  omega

section
variable (s : State) (c off : Nat)

theorem ringSlots_eq : (s.core c).ringSlots off = ringField s c off 2 := (ringWord_halves s c off 1).1
theorem ringSize_eq : (s.core c).ringSize off = ringField s c off 3 := (ringWord_halves s c off 1).2
theorem ringRd_eq : (s.core c).ringRd off = ringField s c off 4 := (ringWord_halves s c off 2).1
theorem ringWr_eq : (s.core c).ringWr off = ringField s c off 5 := (ringWord_halves s c off 2).2
theorem ringFill_eq : (s.core c).ringFill off = ringField s c off 6 := (ringWord_halves s c off 3).1
theorem ringBase_eq : (s.core c).ringWord off 0 = ringBase s c off := ringWord_eq s c off 0

end

theorem slotAddr_eq (s : State) (off i : Nat) : s.mine.slotAddr off i = ringSlot s off i := by
  rw [State.mine, Core.slotAddr, ringBase_eq, ringSize_eq, ringSlots_eq, ringSlot, BitVec.ofNat_add]
  rfl

theorem isPow2_pow (e : Nat) : isPow2 (2 ^ e) = true := by
  rw [isPow2, Nat.and_two_pow_sub_one_eq_mod, Nat.mod_self]
  simp

theorem ringOk_of_good {s : State} {r : Word} {off : Nat} (good : GoodRing s r off) : s.mine.ringOk off = true := by
  obtain ⟨e, low, high, slots⟩ := good.slots
  obtain ⟨aligned, least, most⟩ := good.size
  have two : 2 ≤ 2 ^ e := Nat.le_self_pow (by omega) 2
  have top : 2 ^ e ≤ 2 ^ 16 := Nat.pow_le_pow_right (by omega) high
  have reserved : s.mine.ringWord off 3 / 2 ^ 32 = 0 := (ringWord_halves s s.cur.core off 3).2.trans good.reserved
  have slots_eq : s.mine.ringSlots off = 2 ^ e := (ringSlots_eq ..).trans slots
  have size_eq : s.mine.ringSize off = ringField s s.cur.core off 3 := ringSize_eq ..
  simp only [Core.ringOk, slots_eq, size_eq, isPow2_pow, reserved, aligned, two, least, most, decide_true, Bool.and_true, Bool.and_self,
    Bool.true_and, decide_eq_true_eq]
  exact top

theorem ringAt_of_good {s : State} {r : Word} {off : Nat} (good : GoodRing s r off) : s.ringAt r = .ok off := by
  rw [State.ringAt, if_neg (not_not.2 good.aligned), good.space]
  simp only [ne_eq, not_true, if_false, good.scratch, good.clean, Bool.not_true, Bool.false_eq_true]

end Sys2Proof.Hierarchy
end

section
/-!
PROOF. The ring instructions on a sound ring object of the own scratch (10 R209, 04 R88), and the obligation.
-/

open Sys2Proof Sys2Proof.Machine Sys2Proof.Claims

namespace Sys2Proof.Hierarchy

/-! Bytes written in one core's scratch. -/

/-- From `s` to `t` the memory and the scratch of every core are kept, but for a number written in core `c`'s. -/
structure Wrote (s t : State) (c lo n v : Nat) : Prop where
  own : (t.core c).scratch = (s.core c).scratch.putBytes lo (leBytes n v)
  others : ∀ k, k ≠ c → (t.core k).scratch = (s.core k).scratch
  mem : t.mem = s.mem

section
variable {s t : State} {c lo n v : Nat}

theorem Wrote.onlyScratch (h : Wrote s t c lo n v) : OnlyScratch s t c lo n :=
  ⟨fun x out => by rw [h.own, get_putBytes_leBytes_out _ _ _ out], fun k _ ne => by rw [h.others k ne], fun _ => by rw [h.mem]⟩

theorem Wrote.ringFields {off i : Nat} (h : Wrote s t c (off + 8 * i) 8 v) :
    ringField t c off (2 * i) = v % 2 ^ 32 ∧ ringField t c off (2 * i + 1) = v / 2 ^ 32 % 2 ^ 32 := by
  have low : off + 4 * (2 * i) = off + 8 * i := by omega
  have high : off + 4 * (2 * i + 1) = off + 8 * i + 4 := by omega
  rw [ringField_eq_read, ringField_eq_read, low, high, h.own]
  exact read4_write8 (s.core c).scratch (off + 8 * i) v

theorem Wrote.advance (h : Wrote s t c lo n v) : Wrote s t.advance c lo n v :=
  ⟨(scratch_advance t c).trans h.own, fun k ne => (scratch_advance t k).trans (h.others k ne), (State.advance_mem t).trans h.mem⟩

/-- A state with the scratch and the memory of another, after a write. -/
theorem Wrote.scrWrite (scratch : ∀ k, (t.core k).scratch = (s.core k).scratch) (mem : t.mem = s.mem) (c lo n v : Nat) :
    Wrote s (t.scrWrite c lo (leBytes n v)) c lo n v := by
  refine ⟨?_, fun k ne => ?_, mem⟩
  · rw [State.scrWrite_core, if_pos rfl, ← scratch]
  · rw [State.scrWrite_core, if_neg ne, scratch]

theorem number_eq_zero {f : Nat → Byte} (n : Nat) (zero : ∀ j < n, f j = 0) : number f n = 0 := by
  induction n generalizing f with
  | zero => rfl
  | succ n ih =>
    rw [number, zero 0 (Nat.succ_pos n), ih fun j lt => zero (j + 1) (Nat.succ_lt_succ lt)]
    rfl

/-- Fields 4 to 6 of a ring whose upper half has been zeroed. -/
theorem Wrote.zeroed {off i : Nat} (h : Wrote s t c (off + 16) 16 0) (low : 4 ≤ i) (high : i < 7) : ringField t c off i = 0 := by
  refine number_eq_zero 4 fun j lt => ?_
  have at_ : off + 4 * i + j = off + 16 + (4 * (i - 4) + j) := by omega
  rw [h.own, at_, get_putBytes_leBytes _ _ _ (by omega), Nat.zero_div]
  rfl

end

/-! RGINIT. -/

section
variable {s : State} {b : GReg} {off : Nat} (good : GoodRing s (s.rg b) off)
include good

theorem exec_rginit_of_bad (bad : ringBase s s.cur.core off % 8 ≠ 0) : exec (.rginit b) s = .next (s.trap 0x1C (s.rg b)) := by
  show execRginit b s = _
  simp only [execRginit, ringAt_of_good good]
  rw [if_pos (.inr (by rwa [State.mine, ringBase_eq]))]
  rfl

theorem exec_rginit_of_aligned (aligned : ringBase s s.cur.core off % 8 = 0) :
    exec (.rginit b) s = .next (s.scrWrite s.cur.core (off + 16) (leBytes 16 0)).advance := by
  show execRginit b s = _
  have base : s.mine.ringWord off 0 % 8 = 0 := by rwa [State.mine, ringBase_eq]
  simp only [execRginit, ringAt_of_good good, ringOk_of_good good, base, Bool.not_true, Bool.false_eq_true, ne_eq, not_true, or_self,
    if_false]

theorem rginit_zeroes (quiet : Quiet s) (aligned : ringBase s s.cur.core off % 8 = 0) :
    ∃ t, exec (.rginit b) s = .next t ∧ (∀ i, 4 ≤ i → i < 7 → ringField t s.cur.core off i = 0) ∧
      OnlyScratch s t s.cur.core (off + 16) 16 ∧ t.me = wentOn s.me (s.me.pc + 4) := by
  have wrote := (Wrote.scrWrite (s := s) (t := s) (fun _ => rfl) rfl s.cur.core (off + 16) 16 0).advance
  refine ⟨_, exec_rginit_of_aligned good aligned, fun i => wrote.zeroed, wrote.onlyScratch, ?_⟩
  rw [me_advance, me_scrWrite, Strand.retire_of_outs_nil quiet, wentOn]

end

/-! RGFILL. -/

/-- The fields of a copy that fills slot FILL of a ring. -/
structure FillsSlot (x : Copy) (dst src : Word) (size : Nat) (ring : Nat × Nat) (c : Scope) (q r : Bool) : Prop where
  dst : x.dst = dst
  src : x.src = src
  pat : x.pat = ⟨size, [(1, 0, 0)]⟩
  ring : x.ring = some ring
  done : x.done = 0
  scope : x.scope = c
  acq : x.acq = q
  rel : x.rel = r

theorem queueCopy_leaves (u : State) (tag : Fin 64) (ring : Nat × Nat) (dst src : Word) (size : Nat) (c : Scope) (q r : Bool) :
    let w := u.queueCopy tag (some ring) dst src ⟨size, [(1, 0, 0)]⟩ c q r
    w.cur = u.cur ∧ w.mem = u.mem ∧ w.me = u.me ∧ (∀ k, (w.core k).scratch = (u.core k).scratch) ∧
      ∃ x, w.mine.copies = u.mine.copies ++ [x] ∧ FillsSlot x dst src size ring c q r := by
  refine ⟨rfl, rfl, me_modMine_of_strands rfl, fun k => ?_, _, congrArg Core.copies (State.mine_modMine _ _),
    ⟨rfl, rfl, rfl, rfl, rfl, rfl, rfl, rfl⟩⟩
  rw [State.queueCopy, State.modMine, State.modCore, State.core_setCore]
  split
  · next same =>
    rw [same]
    rfl
  · rfl

theorem copies_scrWrite (s : State) (c off : Nat) (bs : List Byte) (k : Nat) : ((s.scrWrite c off bs).core k).copies = (s.core k).copies := by
  rw [State.scrWrite, State.modCore, State.core_setCore]
  split
  · next same =>
    rw [same]
  · rfl

section
variable {s : State} {a b : GReg} {q r : Bool} {c : Scope} {off : Nat} (calm : Calm s) (good : GoodRing s (s.rg b) off)
include calm good

theorem exec_rgfill_of_full
    (full : (ringField s s.cur.core off 6 + 2 ^ 32 - ringField s s.cur.core off 4) % 2 ^ 32 = ringField s s.cur.core off 2 ∨
      16 ≤ s.mine.copies.length) : exec (.rgfill b a q r c) s = .next s.block := by
  have waits : slotDiff (s.mine.ringFill off) (s.mine.ringRd off) = s.mine.ringSlots off ∨ 16 ≤ s.mine.copies.length := by
    rwa [State.mine, slotDiff, ringFill_eq, ringRd_eq, ringSlots_eq]
  show execRgfill b a q r c s = _
  simp only [execRgfill, ringAt_of_good good, ringOk_of_good good, calm.held, calm.relStill, Bool.not_true, Bool.false_eq_true,
    Bool.or_self, Bool.false_or, Bool.or_eq_true, decide_eq_true_eq, waits, if_false, if_true]

/-- The copy of slot FILL, issued. -/
theorem exec_rgfill_of_room
    (room : (ringField s s.cur.core off 6 + 2 ^ 32 - ringField s s.cur.core off 4) % 2 ^ 32 ≠ ringField s s.cur.core off 2)
    (few : s.mine.copies.length < 16) :
    exec (.rgfill b a q r c) s = .next (
      let w := s.relDone.queueCopy 0 (some (off, ringField s s.cur.core off 6)) (ringSlot s off (ringField s s.cur.core off 6)) (s.rg a)
        ⟨ringField s s.cur.core off 3, [(1, 0, 0)]⟩ c q r
      (w.scrWrite w.cur.core (off + 24) (leBytes 8 ((ringField s s.cur.core off 6 + 1) % 2 ^ 32))).advance) := by
  have fill : s.mine.ringFill off = ringField s s.cur.core off 6 := ringFill_eq ..
  have goes : ¬(slotDiff (ringField s s.cur.core off 6) (s.mine.ringRd off) = s.mine.ringSlots off ∨ 16 ≤ s.mine.copies.length) := by
    rw [not_or, State.mine, slotDiff, ringRd_eq, ringSlots_eq]
    exact ⟨room, Nat.not_le.2 few⟩
  have size : s.mine.ringSize off = ringField s s.cur.core off 3 := ringSize_eq ..
  show execRgfill b a q r c s = _
  simp only [execRgfill, ringAt_of_good good, ringOk_of_good good, calm.held, calm.relStill, Bool.not_true, Bool.false_eq_true,
    Bool.or_self, Bool.false_or, Bool.or_eq_true, decide_eq_true_eq, goes, if_false, slotAddr_eq, size, fill]

theorem rgfill_issues
    (room : (ringField s s.cur.core off 6 + 2 ^ 32 - ringField s s.cur.core off 4) % 2 ^ 32 ≠ ringField s s.cur.core off 2)
    (few : s.mine.copies.length < 16) :
    ∃ t : State, exec (.rgfill b a q r c) s = .next t ∧ (∃ x, t.mine.copies = s.mine.copies ++ [x] ∧
        FillsSlot x (ringSlot s off (ringField s s.cur.core off 6)) (s.rg a) (ringField s s.cur.core off 3)
          (off, ringField s s.cur.core off 6) c q r) ∧
      ringField t s.cur.core off 6 = (ringField s s.cur.core off 6 + 1) % 2 ^ 32 ∧
      OnlyScratch s t s.cur.core (off + 24) 8 ∧ t.me = { wentOn s.me (s.me.pc + 4) with rel := none } := by
  have only := (OnlyMe.refl s).relDone
  obtain ⟨cur, mem, me, scratch, x, copies, fills⟩ := queueCopy_leaves s.relDone 0 (off, ringField s s.cur.core off 6)
    (ringSlot s off (ringField s s.cur.core off 6)) (s.rg a) (ringField s s.cur.core off 3) c q r
  have cur := cur.trans only.cur
  have wrote := (Wrote.scrWrite (s := s) (fun k => (scratch k).trans (only.scratch k)) (mem.trans only.mem) s.cur.core (off + 24) 8
    ((ringField s s.cur.core off 6 + 1) % 2 ^ 32)).advance
  have held : s.relDone.mine.copies = s.mine.copies := by
    obtain ⟨ss, eq⟩ := only.core s.cur.core
    rw [State.mine, only.cur, eq]
    rfl
  refine ⟨_, exec_rgfill_of_room calm good room few, ⟨x, ?_, fills⟩, ?_, ?_, ?_⟩
  · rw [mine_advance, Core.setStrand_copies, State.mine, copies_scrWrite]
    exact copies.trans (by rw [held])
  · dsimp only
    rw [cur]
    exact (Wrote.ringFields (i := 3) wrote).1.trans (Nat.mod_mod _ _)
  · dsimp only
    rw [cur]
    exact wrote.onlyScratch
  · dsimp only
    rw [me_advance, me_scrWrite, me, only.me, retire_relDone calm.quiet]

end

/-! RGAWAIT and RGREL. -/

section
variable {s : State} {a b : GReg} {n : Fin 32} {l : La} {off : Nat} (good : GoodRing s (s.rg b) off)
include good

theorem exec_rgawait_of_beyond (beyond : ringField s s.cur.core off 2 ≤ n.val) :
    exec (.rgawait a b n l) s = .next (s.trap 0x1C (s.rg b)) := by
  have slots : s.mine.ringSlots off ≤ n.val := by rwa [State.mine, ringSlots_eq]
  show execRgawait a b n l s = _
  simp only [execRgawait, ringAt_of_good good, slots, or_true, if_true]
  rfl

theorem exec_rgawait_of_within (within : n.val < ringField s s.cur.core off 2) :
    exec (.rgawait a b n l) s = .next (
      if (ringField s s.cur.core off 5 + 2 ^ 32 - ringField s s.cur.core off 4) % 2 ^ 32 ≤ n.val then s.block
      else (acquiring s true .clu).writeLate a (ringSlot s off (ringField s s.cur.core off 4 + n.val)) l) := by
  have slots : ¬s.mine.ringSlots off ≤ n.val := by rwa [State.mine, ringSlots_eq, Nat.not_le]
  have rd : s.mine.ringRd off = ringField s s.cur.core off 4 := ringRd_eq ..
  have wr : s.mine.ringWr off = ringField s s.cur.core off 5 := ringWr_eq ..
  have acq : acquiring s true .clu = s.invalidateRc s.cur.core := rfl
  show execRgawait a b n l s = _
  simp only [execRgawait, ringAt_of_good good, ringOk_of_good good, slots, Bool.not_true, Bool.false_eq_true, or_self, if_false, rd, wr,
    slotDiff, slotAddr_eq, acq]

theorem exec_rgrel_of_empty (empty : ringField s s.cur.core off 4 = ringField s s.cur.core off 5) :
    exec (.rgrel b) s = .next (s.trap 0x1C (s.rg b)) := by
  have rd : s.mine.ringRd off = s.mine.ringWr off := by rwa [State.mine, ringRd_eq, ringWr_eq]
  show execRgrel b s = _
  simp only [execRgrel, ringAt_of_good good, rd, or_true, if_true]
  rfl

theorem rgrel_steps (quiet : Quiet s) (some : ringField s s.cur.core off 4 ≠ ringField s s.cur.core off 5) :
    ∃ t, exec (.rgrel b) s = .next t ∧ ringField t s.cur.core off 4 = (ringField s s.cur.core off 4 + 1) % 2 ^ 32 ∧
      ringField t s.cur.core off 5 = ringField s s.cur.core off 5 ∧ OnlyScratch s t s.cur.core (off + 16) 8 ∧
      t.me = wentOn s.me (s.me.pc + 4) := by
  have rd : s.mine.ringRd off = ringField s s.cur.core off 4 := ringRd_eq ..
  have wr : s.mine.ringWr off = ringField s s.cur.core off 5 := ringWr_eq ..
  have goes : exec (.rgrel b) s = .next (s.modMine fun k => k.setRing off (k.ringRd off + 1) (k.ringWr off)).advance := by
    show execRgrel b s = _
    simp only [execRgrel, ringAt_of_good good, ringOk_of_good good, rd, wr, some, loadsWait_of_quiet quiet, Bool.not_true,
      Bool.false_eq_true, or_self, if_false]
  have wrote : Wrote s (s.modMine fun k => k.setRing off (k.ringRd off + 1) (k.ringWr off)).advance s.cur.core (off + 16) 8
      ((ringField s s.cur.core off 4 + 1) % 2 ^ 32 + 2 ^ 32 * (ringField s s.cur.core off 5 % 2 ^ 32)) := by
    refine Wrote.advance ⟨?_, fun k ne => ?_, rfl⟩
    · rw [← rd, ← wr]
      exact congrArg Core.scratch (State.core_modCore_same s s.cur.core fun k => k.setRing off (k.ringRd off + 1) (k.ringWr off))
    · exact congrArg Core.scratch (State.core_modCore_ne s _ ne)
  obtain ⟨low, high⟩ := Wrote.ringFields (i := 2) wrote
  have small := ringField_lt s s.cur.core off 5
  refine ⟨_, goes, low.trans (by omega), high.trans (by omega), wrote.onlyScratch, ?_⟩
  rw [me_advance, me_modMine_of_strands rfl, Strand.retire_of_outs_nil quiet, wentOn]

end

/-- 10 R209. -/
theorem rings : Claims.Rings := by
  intro a b q r c n l s off calm good
  refine ⟨exec_rginit_of_bad good, rginit_zeroes good calm.quiet, exec_rgfill_of_full calm good, fun room few => ?_,
    exec_rgawait_of_beyond good, exec_rgawait_of_within good, exec_rgrel_of_empty good, rgrel_steps good calm.quiet⟩
  obtain ⟨t, step, ⟨x, copies, fills⟩, fill, only, me⟩ := rgfill_issues calm good room few (a := a) (q := q) (r := r) (c := c)
  obtain ⟨dst, src, pat, ring, done, scope, acq, rel⟩ := fills
  exact ⟨t, step, x, copies, dst, src, pat, ring, done, scope, acq, rel, fill, only, me⟩

/-- Settles O22: the tag instructions (`tags`) and the ring instructions (`rings`). -/
theorem tagsAndRings : Obligations.TagsAndRings := ⟨tags, rings⟩

end Sys2Proof.Hierarchy
end

section
/-!
PROOF. Operations that bring no access into flight: counters, streams that part, the end of a strand, traps, late failures.
-/

open Sys2Proof Sys2Proof.Machine Sys2Proof.Claims

namespace Sys2Proof.Hierarchy

/-- From `s` to `t` no access has come into flight. -/
structure NoNewAccs (s t : State) : Prop where
  none : s.accs = [] → t.accs = []

namespace NoNewAccs

variable {s t u : State}

theorem same (h : t.accs = s.accs) : NoNewAccs s t := ⟨h.trans⟩

theorem refl (s : State) : NoNewAccs s s := ⟨id⟩

theorem trans (p : NoNewAccs s t) (q : NoNewAccs t u) : NoNewAccs s u := ⟨q.none ∘ p.none⟩

theorem ite {p : Prop} [Decidable p] (ht : NoNewAccs s t) (hu : NoNewAccs s u) : NoNewAccs s (if p then t else u) := by
  split <;> assumption

theorem fold {β : Type} {f : State → β → State} (hf : ∀ s x, NoNewAccs s (f s x)) (l : List β) (s : State) : NoNewAccs s (l.foldl f s) :=
  ⟨foldl_keeps (P := fun t : State => t.accs = []) (fun t x => (hf t x).none) l⟩

theorem modJob (s : State) (j : BitVec 16) (f : Job → Job) : NoNewAccs s (s.modJob j f) := by
  unfold State.modJob
  split
  · exact same rfl
  · exact refl s

/-! Counters. -/

theorem wakeJoins (s : State) (job : BitVec 16) (lv : Level) (n : Nat) (w : Word) : NoNewAccs s (s.wakeJoins job lv n w) := same rfl

theorem lapseArms (s : State) (job : BitVec 16) (lid : Nat) : NoNewAccs s (s.lapseArms job lid) := same rfl

theorem jobDec (s : State) (job : BitVec 16) (err : Bool) : NoNewAccs s (s.jobDec job err) := by
  unfold State.jobDec
  split
  · exact ite ((modJob ..).trans (wakeJoins ..)) (modJob ..)
  · exact refl s

theorem phaseDec (s : State) (job : BitVec 16) (p : Nat) (err : Bool) : NoNewAccs s (s.phaseDec job p err) := by
  unfold State.phaseDec
  split
  · exact ite (refl s) (ite ((((modJob ..).trans (wakeJoins ..)).trans (modJob ..)).trans (jobDec ..)) (modJob ..))
  · exact refl s

theorem freeLaunches (s : State) (job : BitVec 16) (g : Nat) : NoNewAccs s (s.freeLaunches job g) := by
  unfold State.freeLaunches
  dsimp only
  refine trans ?_ (modJob ..)
  exact same rfl

theorem graphDec (s : State) (job : BitVec 16) (g : Nat) (err : Bool) : NoNewAccs s (s.graphDec job g err) := by
  unfold State.graphDec
  split
  · exact ite ((((modJob ..).trans (wakeJoins ..)).trans (freeLaunches ..)).trans (phaseDec ..)) (modJob ..)
  · exact refl s

theorem launchDec (s : State) (job : BitVec 16) (lid n : Nat) (err : Bool) : NoNewAccs s (s.launchDec job lid n err) := by
  unfold State.launchDec
  split
  · exact ite (refl s) (ite (((((modJob ..).trans (modJob ..)).trans (lapseArms ..)).trans (wakeJoins ..)).trans (graphDec ..)) (modJob ..))
  · exact refl s

theorem sendDec (s : State) (job : BitVec 16) (lid : Nat) (err : Bool) : NoNewAccs s (s.sendDec job lid err) :=
  ite (same rfl) (launchDec ..)

theorem markErr (s : State) (job : BitVec 16) (lid : Nat) : NoNewAccs s (s.markErr job lid) := by
  unfold State.markErr
  split
  · exact ite (refl s) (modJob ..)
  · exact refl s

/-! Streams and strands. -/

theorem modStrand (s : State) (c n : Nat) (f : Strand → Strand) : NoNewAccs s (s.modStrand c n f) := same rfl

theorem modCore (s : State) (c : Nat) (f : Core → Core) : NoNewAccs s (s.modCore c f) := same rfl

theorem detachAll (s : State) (c : Nat) (pc : Word) : NoNewAccs s (s.detachAll c pc) := by
  have h (t : State) (x : Nat × Nat) : NoNewAccs t (t.detach x.1 x.2 pc) := same rfl
  unfold State.detachAll
  generalize s.followers (clusterOf c) = xs
  exact fold h xs s

theorem unlead (s : State) (c n : Nat) (pc : Word) : NoNewAccs s (s.unlead c n pc) := by
  unfold State.unlead
  split
  · exact (detachAll ..).trans (modStrand ..)
  · exact refl s
  · exact same rfl
  · exact same rfl

theorem flushBanks (s : State) (c n : Nat) : NoNewAccs s (s.flushBanks c n) := by
  refine ⟨fun none => ?_⟩
  show s.accs.filter _ = []
  rw [none]
  rfl

theorem dropUntranslated (s : State) (c n : Nat) : NoNewAccs s (s.dropUntranslated c n) := by
  refine ⟨fun none => ?_⟩
  show s.accs.filter _ = []
  rw [none]
  rfl

theorem waitsMoves (h : NoNewAccs s t) (ws : List (Bool × Nat × Nat × Nat)) (ms : List Move) :
    NoNewAccs s { t with waits := ws, moves := ms } := ⟨h.none⟩

theorem endStrand (s : State) (c n : Nat) (err abrupt : Bool) : NoNewAccs s (s.endStrand c n err abrupt) := by
  have start := ((unlead s c n (s.strand c n).pc).trans (dropUntranslated _ c n)).trans (flushBanks _ c n)
  have hold (t : State) : NoNewAccs t (t.releaseHold c) := same rfl
  unfold State.endStrand
  refine trans (trans ?_ (ite (hold _) (refl _))) (ite (refl _) (ite (sendDec ..) (ite (markErr ..) (refl _))))
  exact waitsMoves (start.trans (modCore _ c _)) _ _

theorem takeTrap (s : State) (c n : Nat) (i : TrapInfo) (epc : Word) : NoNewAccs s (s.takeTrap c n i epc) := by
  unfold State.takeTrap
  refine ite (modStrand ..) (ite (endStrand ..) (ite (modStrand ..) (trans ?_ (modStrand ..))))
  exact waitsMoves ((unlead s c n _).trans (modCore _ c _)) _ _

theorem filtered (h : NoNewAccs s t) (p : Nat × Access → Bool) (ms : List Move) :
    NoNewAccs s { t with accs := t.accs.filter p, moves := ms } :=
  ⟨fun none => by rw [h.none none, List.filter_nil]⟩

theorem rewind (s : State) (c n : Nat) (o : Out) : NoNewAccs s (s.rewind c n o) := by
  unfold State.rewind
  dsimp only
  refine trans (trans (trans ?_ (dropUntranslated ..)) (modCore _ c _)) (modStrand ..)
  exact filtered (ite (unlead ..) (refl s)) _ _

theorem lateFault (s : State) (c n : Nat) : NoNewAccs s (s.lateFault c n) := by
  unfold State.lateFault
  split
  · split
    · exact (rewind ..).trans (takeTrap ..)
    · exact refl s
  · exact refl s

end NoNewAccs

/-! A late failure writes no memory. -/

theorem rewind_mem (s : State) (c n : Nat) (o : Out) : (s.rewind c n o).mem = s.mem := by
  unfold State.rewind
  show (if (s.strand c n).fl = .lead then s.unlead c n (s.strand c n).pc else s).mem = s.mem
  split
  · exact (Silent.unlead ..).mem
  · rfl

theorem lateFault_mem (s : State) (c n : Nat) : (s.lateFault c n).mem = s.mem := by
  unfold State.lateFault
  split
  · split
    · exact (State.takeTrap_mem ..).trans (rewind_mem ..)
    · rfl
  · rfl

/-! A trap taken at once. -/

theorem any_put {α : Type} (t : Tab α) {n : Nat} {x : α} {p : Nat × α → Bool} (own : ∀ y, p (n, y) = false) :
    (t.put n x).any p = t.any p := by
  induction t with
  | nil => simp [Tab.put, own]
  | cons y t ih =>
    obtain ⟨m, y⟩ := y
    rw [Tab.put_cons]
    split
    · next same =>
      cases same
      simp [own]
    · split
      · simp [own]
      · simp [ih]

theorem trapHeld_setStrand (k : Core) (n : Nat) (t : Strand) : (k.setStrand n t).trapHeld n = k.trapHeld n :=
  any_put _ fun y => by simp

/-- A core's strands once the strand in a slot has left it what it held: of a replay of its own nothing is left. -/
theorem forget_strands (k : Core) (n : Nat) : (k.forget n).strands = k.strands ∨
    (k.forget n).strands = (k.setStrand n { k.strand n with rest := none }).strands := by
  have stopped : (k.stopReplay n).strands =
      (if (k.strand n).rest.isSome then k.setStrand n { k.strand n with rest := none } else k).strands := by
    unfold Core.stopReplay
    dsimp only
    split
    · split <;> rfl
    · rfl
  show (k.stopReplay n).strands = _ ∨ (k.stopReplay n).strands = _
  rw [stopped]
  split
  · exact .inr rfl
  · exact .inl rfl

theorem trapHeld_forget (k : Core) (n : Nat) : (k.forget n).trapHeld n = k.trapHeld n := by
  unfold Core.trapHeld
  rcases forget_strands k n with same | put
  · rw [same]
  · rw [put]
    exact trapHeld_setStrand k n _

theorem intrap_forget (k : Core) (n : Nat) : ((k.forget n).strand n).intrap = (k.strand n).intrap := by
  rcases forget_strands k n with same | put
  · rw [Core.strand, same]
    rfl
  · rw [Core.strand, put, ← Core.strand, Core.strand_setStrand_same]

end Sys2Proof.Hierarchy
end

section
/-!
PROOF. An access in flight that returns, and one that is refused (08 R155).
-/

open Sys2Proof Sys2Proof.Machine Sys2Proof.Claims

namespace Sys2Proof.Hierarchy

section
variable {s u : State} {id : Nat} {a : Access} {d : GReg}

theorem acc?_of_alone (alone : s.accs = [(id, a)]) : s.acc? id = some a := by
  rw [State.acc?, alone, List.find?_cons, decide_eq_true rfl]
  rfl

theorem find?_put {α : Type} (t : Tab α) (k : Nat) (v : α) : (t.put k v).find? (fun x => decide (x.1 = k)) = some (k, v) := by
  induction t with
  | nil => simp [Tab.put]
  | cons x t ih =>
    rw [Tab.put_cons]
    split
    · simp
    · next ne =>
      split
      · simp
      · rw [List.find?_cons, decide_eq_false ne]
        exact ih

/-- An access that has gone on to another stage. -/
theorem acc?_put (s : State) (id : Nat) (a : Access) : ({ s with accs := s.accs.put id a } : State).acc? id = some a :=
  congrArg (Option.map Prod.snd) (find?_put s.accs id a)

/-- Nothing is in flight before the only access. -/
theorem any_before_alone (alone : s.accs = [(id, a)]) (p : Nat × Access → Bool) (before : ∀ x, p (id, x) = false) : s.accs.any p = false := by
  rw [alone, List.any_cons, before]
  rfl

theorem dropAcc_of_alone (alone : s.accs = [(id, a)]) : (s.dropAcc id).accs = [] := by
  show s.accs.del id = []
  rw [alone, Tab.del_cons, if_pos rfl]
  rfl

/-! An access that returns. -/

/-- A strand with one access outstanding, to a register and with no window, when it returns. -/
theorem returned_of_one {t : Strand} {o : Out} (one : t.outs = [o]) (acc : o.acc = some id) (dst : o.dst = some d) (left : o.left = 0)
    (v : Word) : t.returned id (some v) = { t with outs := [], regs := { t.regs with g := t.regs.g.put d.val v } } := by
  have out : (o.returned id (some v)).over = true ∧ (o.returned id (some v)).result = [(d, v)] := by
    simp only [Out.returned, acc, if_true, Out.over, Out.result, left, dst, Option.isNone_none, decide_true, Bool.true_or, Bool.and_self,
      and_self]
  obtain ⟨past, result⟩ := out
  simp only [Strand.returned, Strand.settle, one, List.map_cons, List.map_nil, List.filter_cons, past, Bool.not_true, Bool.false_eq_true,
    if_true, if_false, List.filter_nil, List.flatMap_cons, List.flatMap_nil, List.append_nil, result]
  rfl

theorem lateFault_of_no_outs {c n : Nat} (empty : (u.strand c n).outs = []) : u.lateFault c n = u := by
  have oldest : (u.strand c n).oldest = none := by
    rw [Strand.oldest, empty]
    rfl
  rw [State.lateFault, oldest]

/-- The state in which the access has returned a value. -/
theorem accDone_returns (flight : InFlight s id a d) (accs : u.accs = s.accs) (strand : u.strand a.core a.slot = s.strand a.core a.slot)
    (v : Word) : Returned s (u.accDone id a (some v)) a d v ∧ (u.accDone id a (some v)).mem = u.mem ∧
      ∀ c, ((u.accDone id a (some v)).core c).scratch = (u.core c).scratch := by
  obtain ⟨alone, o, one, acc, dst, left, -⟩ := flight
  have back := returned_of_one (t := (u.dropAcc id).strand a.core a.slot) (id := id) (d := d) ((congrArg Strand.outs strand).trans one) acc dst left v
  have after : ((u.dropAcc id).modStrand a.core a.slot (·.returned id (some v))).strand a.core a.slot = _ :=
    (State.strand_modStrand_same ..).trans back
  have done : u.accDone id a (some v) = (u.dropAcc id).modStrand a.core a.slot (·.returned id (some v)) :=
    lateFault_of_no_outs (congrArg Strand.outs after)
  have same : (u.dropAcc id).strand a.core a.slot = s.strand a.core a.slot := strand
  rw [done]
  refine ⟨⟨dropAcc_of_alone (accs.trans alone), ?_, ?_, fun e ne => ?_, ?_⟩, rfl, fun c => State.setStrand_scratch ..⟩
  · rw [after]
  · rw [after]
    exact Tab.look_put_same ..
  · rw [after, same]
    exact Tab.look_put_ne _ _ _ fun h => ne (Fin.ext h)
  · rw [after, same]

/-- What a read brings back to a load that acquires nothing. -/
theorem reply_of_load {sgn : Bool} {v : Nat} (load : a.kind = .load sgn) (plain : a.ord = .plain) :
    (Got.ok u v).reply id a = u.accDone id a (some (loadValue sgn a.size v)) := by
  simp only [Got.reply, load, State.accAcquire, plain]
  rfl

theorem reply_of_amo {fn : AmoFn} {b cmp : Word} {v : Nat} (amo : a.kind = .amo fn b cmp) (plain : a.ord = .plain) :
    (Got.ok u v).reply id a = u.accDone id a (some (BitVec.ofNat 64 v)) := by
  simp only [Got.reply, amo, State.accAcquire, plain]
  rfl

/-! A load's result. -/

theorem sext_eq_loaded {n x : Nat} (lt : x < 2 ^ (8 * n)) : sext x (8 * n) = loaded true n x := by
  have int : (BitVec.ofNat (8 * n) x).toInt = if 2 * x < 2 ^ (8 * n) then (x : Int) else x - 2 ^ (8 * n) := by
    rw [BitVec.toInt_eq_toNat_cond, BitVec.toNat_ofNat, Nat.mod_eq_of_lt lt]
    push_cast
    rfl
  rw [sext, BitVec.signExtend, int, loaded]
  cases n with
  | zero =>
    have zero : x = 0 := by simpa using lt
    simp [zero]
  | succ n =>
    have half : 2 ^ (8 * (n + 1)) = 2 * 2 ^ (8 * (n + 1) - 1) := by
      rw [← Nat.pow_succ']
      congr 1
    by_cases low : 2 * x < 2 ^ (8 * (n + 1))
    · rw [if_pos low, if_neg (by omega), BitVec.ofInt_natCast]
    · rw [if_neg low, if_pos ⟨rfl, by omega⟩]

theorem loadValue_eq_loaded (sgn : Bool) {n x : Nat} (lt : x < 2 ^ (8 * n)) : loadValue sgn n x = loaded sgn n x := by
  cases sgn with
  | false => rfl
  | true => exact sext_eq_loaded lt

theorem bytes_length (m : Memory) (p n : Nat) : (m.bytes p n).length = n := by
  induction n generalizing p with
  | zero => rfl
  | succ n ih => rw [Memory.bytes, List.length_cons, ih]

theorem read_lt (m : Memory) (p n : Nat) : m.read p n < 2 ^ (8 * n) := by
  have lt := leNat_lt (m.bytes p n)
  rwa [bytes_length, show (256 : Nat) = 2 ^ 8 from rfl, ← Nat.pow_mul] at lt

theorem loadValue_read (sgn : Bool) (m : Memory) (p n : Nat) :
    loadValue sgn n (m.read p n) = loaded sgn n (number (fun j => m.get (p + j)) n) := by
  rw [loadValue_eq_loaded sgn (read_lt ..), read_eq_number]

/-! An access that is refused. -/

/-- The issuing strand's outstanding instruction once its access has failed. -/
def Out.failed (id : Nat) (code : BitVec 8) (a : Word) (o : Out) : Out := if o.acc = some id then { o with fault := some (code, a) } else o

theorem accFault_eq (code : BitVec 8) : u.accFault id a code =
    ((u.dropAcc id).modStrand a.core a.slot fun t => { t with outs := t.outs.map (Out.failed id code a.addr) }).lateFault a.core a.slot := rfl

/-- What a strand of its own stream is, back at an instruction before which nothing was outstanding. -/
def wentBack (t : Strand) (o : Out) : Strand :=
  { t with regs := o.snap, outs := [], pc := o.pc, st := .ready, held := none, fl := if t.fl = .follower ∧ t.pc ≠ o.pc + 4 then .none else t.fl }

theorem core_modCore_modStrand (s : State) (c n : Nat) (f : Core → Core) (g : Strand → Strand) :
    ((s.modCore c f).modStrand c n g).core c = (f (s.core c)).setStrand n (g ((f (s.core c)).strand n)) := by
  rw [State.core_modStrand_same, State.strand, State.core_modCore_same]

theorem rewind_core {c n : Nat} {o : Out} (single : (u.strand c n).fl = .none) (first : o.prior = []) :
    (u.rewind c n o).core c = ((u.core c).forget n).setStrand n (wentBack (((u.core c).forget n).strand n) o) ∧
      (u.rewind c n o).preempts = u.preempts := by
  unfold State.rewind
  simp only [single, reduceCtorEq, if_false, first, List.map_nil, List.filter_nil]
  exact ⟨core_modCore_modStrand .., rfl⟩

/-- An access that is refused, the only one of a strand of its own stream: the strand takes the trap. -/
theorem accFault_traps {code : BitVec 8} (flight : InFlight s id a d) (single : (s.strand a.core a.slot).fl = .none)
    (first : ∃ o, (s.strand a.core a.slot).outs = [o] ∧ o.prior = []) (outside : (s.strand a.core a.slot).intrap = false)
    (free : (s.core a.core).trapHeld a.slot = false) (calm : s.preempts = []) :
    let t := s.accFault id a code
    t.accs = [] ∧ t.mem = s.mem ∧ (t.core a.core).cause = TrapInfo.cause ⟨code, 0, none, a.addr, none⟩ ∧
      (t.core a.core).faddr = a.addr ∧ (t.strand a.core a.slot).intrap = true := by
  obtain ⟨alone, o, one, acc, -, -, small⟩ := flight
  obtain ⟨o', one', prior⟩ := first
  have same : o' = o := List.singleton_inj.1 (one'.symm.trans one)
  subst same
  let u := (s.dropAcc id).modStrand a.core a.slot fun t => { t with outs := t.outs.map (Out.failed id code a.addr) }
  let f : Out := { o' with fault := some (code, a.addr) }
  have strand : u.strand a.core a.slot = { s.strand a.core a.slot with outs := [f] } := by
    have at_ : u.strand a.core a.slot = { s.strand a.core a.slot with outs := (s.strand a.core a.slot).outs.map (Out.failed id code a.addr) } :=
      State.strand_modStrand_same ..
    rw [at_, one, List.map_cons, Out.failed, if_pos acc, List.map_nil]
  have oldest : (u.strand a.core a.slot).oldest = some f := by
    rw [strand, Strand.oldest, List.find?_cons]
    simp only [f, acc, Option.any_some, small, decide_true]
  have taken : s.accFault id a code = (u.rewind a.core a.slot f).takeTrap a.core a.slot ⟨code, 0, none, a.addr, none⟩ f.pc := by
    rw [accFault_eq]
    show u.lateFault a.core a.slot = _
    rw [State.lateFault, oldest]
  have held : (u.core a.core).trapHeld a.slot = (s.core a.core).trapHeld a.slot :=
    (congrArg (Core.trapHeld · a.slot) (State.core_modStrand_same ..)).trans (trapHeld_setStrand ..)
  obtain ⟨back, preempts⟩ := rewind_core (u := u) (c := a.core) (n := a.slot) (o := f) ((congrArg Strand.fl strand).trans single) prior
  have backStrand : (u.rewind a.core a.slot f).strand a.core a.slot = wentBack (((u.core a.core).forget a.slot).strand a.slot) f := by
    rw [State.strand, back, Core.strand_setStrand_same]
  have noTrap : ((u.rewind a.core a.slot f).strand a.core a.slot).intrap = false := by
    rw [backStrand]
    exact (intrap_forget ..).trans ((congrArg Strand.intrap strand).trans outside)
  have noOuts : ((u.rewind a.core a.slot f).strand a.core a.slot).accOut = false := by
    rw [backStrand]
    rfl
  have noHold : ((u.rewind a.core a.slot f).core a.core).trapHeld a.slot = false := by
    rw [back, trapHeld_setStrand, trapHeld_forget, held, free]
  have noSource : (u.rewind a.core a.slot f).preempted a.core = false := by
    rw [State.preempted, preempts, show u.preempts = [] from calm]
    rfl
  dsimp only
  rw [taken]
  refine ⟨(NoNewAccs.takeTrap ..).none ((NoNewAccs.rewind ..).none (dropAcc_of_alone alone)),
    (State.takeTrap_mem ..).trans (rewind_mem ..), ?_⟩
  rcases State.takeTrap_cases (u.rewind a.core a.slot f) a.core a.slot ⟨code, 0, none, a.addr, none⟩ f.pc with
    ⟨waits, -⟩ | ⟨-, twice, -⟩ | ⟨-, held, -⟩ | ⟨-, -, -, cause, -, faddr, -, intrap, -⟩
  · rw [noOuts] at waits
    cases waits
  · rw [noTrap] at twice
    cases twice
  · rw [noHold, noSource] at held
    rcases held with h | h <;> cases h
  · exact ⟨cause, faddr, intrap⟩

end

end Sys2Proof.Hierarchy
end

section
/-!
PROOF. The path of an access in flight, stage by stage (04 R72, 05 R106, 24 R401), and the obligation.
-/

open Sys2Proof Sys2Proof.Machine Sys2Proof.Claims

namespace Sys2Proof.Hierarchy

section
variable {s : State} {id : Nat} {a : Access} {d : GReg}

/-! At the translation slice. -/

theorem tyBefore_of_alone (alone : s.accs = [(id, a)]) (c n : Nat) (ty : PageTy) : s.tyBefore c n id ty = false := by
  rw [State.tyBefore, any_before_alone alone _ fun _ => by simp, Bool.and_false]

theorem translation_leads {sgn again : Bool} {s1 : State} {pa : Nat} {ty : PageTy} {shut : Bool} {ver : BitVec 16} {pte tag : Nat}
    (alone : s.accs = [(id, a)]) (load : a.kind = .load sgn) (stage : a.stage = .xlate again)
    (found : s.translate ⟨a.core, a.job, a.sup, a.bases⟩ (field a.addr 0 48) .load = (s1, .ok pa ty shut ver pte tag)) :
    exec (.translation id) s = .next { s1 with accs := s1.accs.put id { a with stage := .home pa ty tag } } := by
  have found : s.translate a.agent (bits a.addr 0 48) (AccKind.load sgn).need = (s1, .ok pa ty shut ver pte tag) := found
  show execTranslation id s = _
  simp only [execTranslation, acc?_of_alone alone, stage, State.translateAcc, found, tyBefore_of_alone alone, Bool.false_eq_true, if_false,
    load]

/-! At the home. -/

/-- A kind of access that has no order to keep: nothing is in flight before it, and its core has posted nothing. -/
theorem meetsBefore_of_alone (alone : s.accs = [(id, a)]) (posted : (s.core a.core).journal = []) (pa : Nat) (ty : PageTy) :
    s.meetsBefore id a pa ty = false := by
  have stores : s.postedOver a.core a.slot id pa a.size = false := by
    rw [State.postedOver, posted]
    rfl
  have flight (wr : Bool) : s.flightOver a.core a.slot id pa a.size wr = false := any_before_alone alone _ fun _ => by simp
  rw [State.meetsBefore, stores, flight, any_before_alone alone _ fun _ => by simp, Bool.and_false]
  rfl

theorem earlierTo_of_in_flight (alone : s.accs = [(id, a)]) (posted : (s.core a.core).journal = []) (ts : List (Option Target)) :
    s.earlierTo a.core a.slot id ts = false := by
  rw [State.earlierTo, posted, any_before_alone alone _ fun _ => by simp]
  rfl

/-- The translation that an access carries is one that its frame bears out, or none. -/
def Translated (s : State) (a : Access) (pa : Nat) (ty : PageTy) (tag : Nat) : Prop :=
  tag = physTag ∨ tag ∉ s.dropped ∧ s.poisoned (fatWord a.bases.fat pa) 8 = false ∧ s.frameTy a.bases.fat pa = ty

theorem exec_homeAccess {pa : Nat} {ty : PageTy} {tag : Nat} (alone : s.accs = [(id, a)]) (posted : (s.core a.core).journal = [])
    (stage : a.stage = .home pa ty tag) (translated : Translated s a pa ty tag) :
    exec (.homeAccess id) s = .next ((s.homeAcc a pa ty tag).reply id a) := by
  show execHomeAccess id s = _
  rcases translated with none | ⟨kept, sound, same⟩
  · simp only [execHomeAccess, acc?_of_alone alone, stage, none, ne_eq, not_true, false_and, if_false,
      earlierTo_of_in_flight alone posted, meetsBefore_of_alone alone posted, Bool.false_eq_true, and_false]
  · have kept : s.dropped.contains tag = false := by simpa using kept
    simp only [execHomeAccess, acc?_of_alone alone, stage, kept, sound, same, ne_eq, not_true,
      earlierTo_of_in_flight alone posted, meetsBefore_of_alone alone posted, Bool.false_eq_true, and_false, if_false]

/-- A load at its home reads memory. -/
theorem homeLoad_reads {pa : Nat} {ty : PageTy} {tag : Nat} (sound : s.poisoned pa a.size = false)
    (uncached : (s.core a.core).cacheBanks = []) (lines : (s.core a.core).lines = []) :
    ∃ u, Scheduling.Reads s u ∧ s.homeLoad a pa ty tag = .ok u (s.mem.read pa a.size) := by
  have merged : Scheduling.Reads s (if ty = .rc then s.privAccess (towerOf a.core) pa a.size false else s) := by
    split
    · exact Scheduling.Reads.privAccess_load ..
    · exact .refl s
  refine ⟨_, merged, ?_⟩
  generalize into : (if ty = .rc then s.privAccess (towerOf a.core) pa a.size false else s) = u at merged
  have core : u.core a.core = s.core a.core := congrArg (Tab.look · a.core Core.reset) merged.cores
  have read : u.homeRead pa a.size = s.mem.read pa a.size := by rw [merged]; rfl
  have sound' : u.poisoned pa a.size = false := by rw [merged]; exact sound
  have missed : u.l1 a.core a.job (bits a.addr 0 48) = none := by
    rw [State.l1, core, Core.l1, lines]
    rfl
  have data : u.dataAt a.agent (bits a.addr 0 48) pa a.size ty = some (s.mem.read pa a.size) := by
    unfold State.dataAt
    rw [show (if ty = .ip then u.l1 a.agent.core a.agent.job (bits a.addr 0 48) else none) = none by
      split
      · exact missed
      · rfl]
    simp only [sound', Bool.false_eq_true, if_false, read]
  have filled (ty' : PageTy) : u.fill a.core a.job (bits a.addr 0 48) pa ty' 0 true = u := fill_of_uncached (by rw [core, uncached]) ..
  unfold State.homeLoad
  simp only [into, sound', read, data, filled, Bool.false_eq_true, if_false, ite_self]

theorem homeAccess_loads {sgn : Bool} {pa : Nat} {ty : PageTy} {tag : Nat} (flight : InFlight s id a d) (load : a.kind = .load sgn)
    (plain : a.ord = .plain) (stage : a.stage = .home pa ty tag) (translated : Translated s a pa ty tag)
    (sound : s.poisoned pa a.size = false) (uncached : (s.core a.core).cacheBanks = []) (lines : (s.core a.core).lines = [])
    (posted : (s.core a.core).journal = []) :
    ∃ t, exec (.homeAccess id) s = .next t ∧
      Returned s t a d (loaded sgn a.size (number (fun j => s.mem.get (pa + j)) a.size)) ∧ t.mem = s.mem := by
  obtain ⟨u, reads, loads⟩ := homeLoad_reads (ty := ty) (tag := tag) sound uncached lines
  have strand : u.strand a.core a.slot = s.strand a.core a.slot :=
    congrArg (fun cs : Tab Core => (cs.look a.core Core.reset).strand a.slot) reads.cores
  have accs : u.accs = s.accs := by rw [reads]
  obtain ⟨back, mem, -⟩ := accDone_returns flight accs strand (loaded sgn a.size (number (fun j => s.mem.get (pa + j)) a.size))
  refine ⟨_, ?_, back, mem.trans (by rw [reads])⟩
  rw [exec_homeAccess flight.1 posted stage translated, State.homeAcc, load]
  dsimp only
  rw [loads, reply_of_load load plain, loadValue_read]

theorem homeAccess_stores {v : Word} {pa : Nat} (alone : s.accs = [(id, a)]) (store : a.kind = .store v)
    (stage : a.stage = .home pa .sc physTag) (nobody : s.waits = []) (posted : (s.core a.core).journal = []) :
    ∃ t, exec (.homeAccess id) s = .next t ∧ t.accs = [] ∧ (∀ j < a.size, t.mem.get (pa + j) = v.extractLsb' (8 * j) 8) ∧
      ∀ x, x < pa ∨ pa + a.size ≤ x → t.mem.get x = s.mem.get x := by
  have written : s.homeAcc a pa .sc physTag = .ok (s.homeWrite a.job pa (leBytes a.size v.toNat)) 0 := by
    rw [State.homeAcc, store]
    exact if_pos rfl
  have mem : ((s.homeWrite a.job pa (leBytes a.size v.toNat)).accDone id a none).mem = s.mem.putBytes pa (leBytes a.size v.toNat) :=
    (lateFault_mem ..).trans (State.homeWrite_mem ..)
  have accs : ((s.homeWrite a.job pa (leBytes a.size v.toNat)).accDone id a none).accs = [] := by
    rw [homeWrite_of_no_waits nobody]
    exact (NoNewAccs.lateFault ..).none (dropAcc_of_alone (s := s.homePut a.job pa _) alone)
  refine ⟨_, ?_, accs, fun j lt => ?_, fun x out => ?_⟩
  · rw [exec_homeAccess alone posted stage (.inl rfl), written, Got.reply, store]
  · rw [mem, get_putBytes_leBytes _ _ _ lt, ofNat_div_eq_extractLsb']
  · rw [mem, get_putBytes_leBytes_out _ _ _ (by omega)]

/-! At a bank. -/

/-- A core that is where its number says, and whose banks take accesses. -/
structure Reached (s : State) (a : Access) (c off : Nat) : Prop where
  space : space true a.addr = .ok (.pkg c off)
  calm : s.preempts = []
  here : (s.core c).fwd = none

theorem Reached.bits {c off : Nat} (h : Reached s a c off) : bits a.addr 43 9 = c ∧ bits a.addr 0 20 = off := by
  have region : a.addr.toNat / 2 ^ 61 = 4 := region_of_space h.space
  have sp := h.space
  rw [space_pkg region] at sp
  split at sp
  · next zero =>
    cases sp
    refine ⟨rfl, ?_⟩
    obtain ⟨-, -, top⟩ := zero
    simp only [Machine.bits] at top ⊢
    omega
  · cases sp

theorem Reached.bankHeld {c off : Nat} (h : Reached s a c off) (k : Nat) : s.bankHeld k = false := by
  rw [State.bankHeld, h.calm]
  rfl

theorem Reached.reach {c off : Nat} (h : Reached s a c off) : s.reach c = c := Scheduling.reach_of_here h.here

theorem bankBefore_of_alone (alone : s.accs = [(id, a)]) : s.bankBefore id a = false := any_before_alone alone _ fun _ => by simp

/-- Whether a core turns away an access, where it is what its number says. -/
theorem turnsAway_iff {c off : Nat} (h : Reached s a c off) (other : c ≠ a.core) :
    s.turnsAway a.agent c = (s.shut c || !s.inHoods a.job c) := by
  have ne : c ≠ a.agent.core := other
  have job : a.agent.job = a.job := rfl
  rw [State.turnsAway, h.reach, job]
  simp only [ne, ne_eq, not_false_eq_true, decide_true, Bool.true_and]
  cases s.shut c <;> rfl

theorem readBank_of_open {c off : Nat} (h : Reached s a c off) (other : c ≠ a.core) (shut : s.shut c = false) (hood : s.inHoods a.job c = true)
    (ok : (s.core c).scratchOk off a.size = true) (clean : touches (s.core c).spois off a.size = false) :
    s.readBank a.agent c off a.size = .ok s ((s.core c).scratch.read off a.size) := by
  simp only [State.readBank, h.reach, turnsAway_iff h other, shut, hood, ok, clean, Bool.not_true, Bool.or_self, Bool.false_eq_true, if_false]

theorem bankAccess_loads {sgn : Bool} {c off : Nat} (flight : InFlight s id a d) (load : a.kind = .load sgn) (plain : a.ord = .plain)
    (stage : a.stage = .bank) (h : Reached s a c off) (may : c = a.core ∨ s.shut c = false ∧ s.inHoods a.job c = true)
    (ok : (s.core c).scratchOk off a.size = true) (clean : touches (s.core c).spois off a.size = false) :
    ∃ t, exec (.bankAccess id) s = .next t ∧ t.mem = s.mem ∧
      Returned s t a d (loaded sgn a.size (number (fun j => (s.core c).scratch.get (off + j)) a.size)) := by
  obtain ⟨core, offset⟩ := h.bits
  obtain ⟨back, mem, -⟩ := accDone_returns flight rfl rfl (loaded sgn a.size (number (fun j => (s.core c).scratch.get (off + j)) a.size))
  refine ⟨_, ?_, mem, back⟩
  have loads : (Got.ok s ((s.core c).scratch.read off a.size)).reply id a =
      s.accDone id a (some (loaded sgn a.size (number (fun j => (s.core c).scratch.get (off + j)) a.size))) := by
    rw [reply_of_load load plain, loadValue_read]
  show execBankAccess id s = _
  simp only [execBankAccess, acc?_of_alone flight.1, stage, core, offset, h.bankHeld, bankBefore_of_alone flight.1, h.reach, ne_eq, not_true,
    Bool.false_eq_true, or_self, if_false]
  by_cases own : c = a.core
  · subst own
    simp only [if_true, State.ownBank, load, offset, clean, Bool.false_eq_true, if_false, loads]
  · obtain ⟨shut, hood⟩ := may.resolve_left own
    rw [if_neg own, readBank_of_open h own shut hood ok clean, loads]

theorem bankAccess_refused {c off : Nat} (alone : s.accs = [(id, a)]) (stage : a.stage = .bank) (h : Reached s a c off)
    (other : c ≠ a.core) (closed : s.shut c = true ∨ s.inHoods a.job c = false) :
    exec (.bankAccess id) s = .next (s.accFault id a 0x0D) := by
  obtain ⟨core, offset⟩ := h.bits
  have away : s.turnsAway a.agent c = true := by
    rw [turnsAway_iff h other]
    rcases closed with shut | out
    · rw [shut]
      rfl
    · rw [out, Bool.not_false, Bool.or_true]
  show execBankAccess id s = _
  simp only [execBankAccess, acc?_of_alone alone, stage, core, offset, h.bankHeld, bankBefore_of_alone alone, h.reach, ne_eq, not_true,
    Bool.false_eq_true, or_self, if_false, other, State.readBank, away, if_true]
  rfl

/-! From outside, and back to translation. -/

theorem accessReply_loads {sgn : Bool} (flight : InFlight s id a d) (load : a.kind = .load sgn) (plain : a.ord = .plain)
    (stage : a.stage = .outside) (heard : s.deaf = false) (v : Word) :
    ∃ t, exec (.accessReply id none v) s = .next t ∧ Returned s t a d (loaded sgn a.size (v.toNat % 2 ^ (8 * a.size))) ∧ t.mem = s.mem := by
  obtain ⟨back, mem, -⟩ := accDone_returns flight rfl rfl (loaded sgn a.size (v.toNat % 2 ^ (8 * a.size)))
  refine ⟨_, ?_, back, mem⟩
  show execAccessReply id none v s = _
  simp only [execAccessReply, State.heard, heard, acc?_of_alone flight.1, stage, ne_eq, not_true, Bool.false_eq_true, if_false]
  rw [reply_of_load load plain, loadValue_eq_loaded sgn (Nat.mod_lt _ (Nat.two_pow_pos _))]

theorem exec_moved {pa : Nat} {ty : PageTy} {tag : Nat} (alone : s.accs = [(id, a)]) (stage : a.stage = .home pa ty tag)
    (dropped : tag ∈ s.dropped) : exec (.moved id) s = .next { s with accs := s.accs.put id { a with stage := .xlate true } } := by
  have dropped : s.dropped.contains tag = true := by simpa using dropped
  show execMoved id s = _
  simp only [execMoved, acc?_of_alone alone, stage, dropped, if_true]

end

end Sys2Proof.Hierarchy
end

section
/-!
PROOF. An atomic on another core's scratch (05 R106, R107, 10 R199), and the obligation about the path of an access.
-/

open Sys2Proof Sys2Proof.Machine Sys2Proof.Claims

namespace Sys2Proof.Hierarchy

/-! What an atomic writes. -/

theorem sint_toNat {k : Nat} (x : BitVec k) : sint x.toNat k = x.toInt := by
  rw [sint, BitVec.ofNat_toNat, BitVec.setWidth_eq]

/-- Combine of 10 R199, in numbers and in bit vectors; a CAS that fails leaves what stood there. -/
theorem combine_eq_amoNew (fn : AmoFn) {n : Nat} (old b cmp : BitVec (8 * n)) :
    ((combine fn n old.toNat b.toNat cmp.toNat).getD old.toNat) % 2 ^ (8 * n) = (amoNew fn old b cmp).toNat := by
  have small (x : BitVec (8 * n)) : x.toNat % 2 ^ (8 * n) = x.toNat := Nat.mod_eq_of_lt x.isLt
  cases fn with
  | add => simp [combine, amoNew]
  | and => simp [combine, amoNew, ← BitVec.toNat_and, small]
  | or => simp [combine, amoNew, ← BitVec.toNat_or, small]
  | xor => simp [combine, amoNew, ← BitVec.toNat_xor, small]
  | min =>
    simp only [combine, amoNew, sint_toNat, Option.getD_some]
    by_cases lt : old.toInt < b.toInt
    · rw [if_pos lt, if_neg (by omega), small]
    · rw [if_neg lt, if_pos (by omega), small]
  | max =>
    simp only [combine, amoNew, sint_toNat, Option.getD_some]
    by_cases lt : old.toInt < b.toInt
    · rw [if_pos lt, if_neg (by omega), small]
    · rw [if_neg lt, if_pos (by omega), small]
  | minn =>
    simp only [combine, amoNew, Option.getD_some]
    by_cases lt : old.toNat < b.toNat
    · rw [if_pos lt, if_neg (by omega), small]
    · rw [if_neg lt, if_pos (by omega), small]
  | maxn =>
    simp only [combine, amoNew, Option.getD_some]
    by_cases lt : old.toNat < b.toNat
    · rw [if_pos lt, if_neg (by omega), small]
    · rw [if_neg lt, if_pos (by omega), small]
  | swp => simp only [combine, amoNew, Option.getD_some, small]
  | cas =>
    simp only [combine, amoNew, BitVec.toNat_inj]
    by_cases same : old = cmp
    · rw [if_pos same, if_pos same, Option.getD_some, small]
    · rw [if_neg same, if_neg same, Option.getD_none, small]
  | fadd => simp only [combine, amoNew, Option.getD_some, BitVec.toNat_ofNat]

section
variable {s : State} {id : Nat} {a : Access} {d : GReg} {fn : AmoFn} {b cmp : Word} {c off : Nat}

/-- What stands where an atomic has been performed. -/
def amoStands (s : State) (a : Access) (fn : AmoFn) (b cmp : Word) (c off : Nat) : BitVec (8 * a.size) :=
  amoNew fn (BitVec.ofNat _ ((s.core c).scratch.read off a.size)) (b.setWidth _) (cmp.setWidth _)

theorem amoBank_of_open (kind : a.kind = .amo fn b cmp) (h : Reached s a c off) (other : c ≠ a.core) (shut : s.shut c = false)
    (hood : s.inHoods a.job c = true) (ok : (s.core c).scratchOk off a.size = true) (clean : touches (s.core c).spois off a.size = false) :
    ∃ u, s.amoBank a.agent c off a.amo = .ok u ((s.core c).scratch.read off a.size) ∧ u.mem = s.mem ∧ u.accs = s.accs ∧
      (∀ k m, u.strand k m = s.strand k m) ∧ (u.core c).scratch.read off a.size = (amoStands s a fn b cmp c off).toNat ∧
      ∀ x, x < off ∨ off + a.size ≤ x → (u.core c).scratch.get x = (s.core c).scratch.get x := by
  have amo : a.amo = ⟨fn, a.size, (b.setWidth (8 * a.size)).toNat, (cmp.setWidth (8 * a.size)).toNat⟩ := by
    rw [Access.amo, kind, BitVec.toNat_setWidth, BitVec.toNat_setWidth]
  have old : (BitVec.ofNat (8 * a.size) ((s.core c).scratch.read off a.size)).toNat = (s.core c).scratch.read off a.size := by
    rw [BitVec.toNat_ofNat, Nat.mod_eq_of_lt (read_lt ..)]
  have new := combine_eq_amoNew fn (BitVec.ofNat (8 * a.size) ((s.core c).scratch.read off a.size)) (b.setWidth _) (cmp.setWidth _)
  rw [old] at new
  rw [amo, State.amoBank, readBank_of_open h other shut hood ok clean]
  dsimp only
  rw [h.reach]
  cases combined : combine fn a.size ((s.core c).scratch.read off a.size) (b.setWidth (8 * a.size)).toNat (cmp.setWidth (8 * a.size)).toNat with
  | none =>
    rw [combined, Option.getD_none, Nat.mod_eq_of_lt (read_lt ..)] at new
    exact ⟨s, rfl, rfl, rfl, fun _ _ => rfl, new, fun _ _ => rfl⟩
  | some v =>
    rw [combined, Option.getD_some] at new
    have own : ((s.scrWrite c off (leBytes a.size v)).core c).scratch = (s.core c).scratch.putBytes off (leBytes a.size v) := by
      rw [State.scrWrite_core, if_pos rfl]
    refine ⟨_, rfl, State.scrWrite_mem .., rfl, strand_scrWrite _ _ _ _, ?_, fun x out => ?_⟩
    · rw [own, ← Memory.write, Memory.read_write, new, amoStands]
    · rw [own, get_putBytes_leBytes_out _ _ _ (by omega)]

/-- Nothing waits at a core before an atomic: its message strand runs nothing, and no record waits or is on its way. -/
theorem servesAmo_of_idle (alone : s.accs = [(id, a)]) (h : Reached s a c off) (idle : ((s.core c).strand 16).st = .free)
    (requests : (s.core c).box true = []) (replies : (s.core c).box false = [])
    (queues : (s.cores.all fun x => decide (x.2.sq false = [])) = true) (mails : s.mails = []) : s.servesAmo id a = true := by
  obtain ⟨core, -⟩ := h.bits
  have sent (by_ : Option Word) : s.sentBefore a.job by_ id c false = false := by
    rw [State.sentBefore, mails, List.any_nil, Bool.false_or, List.any_eq_false]
    intro x mem
    have none : x.2.sq false = [] := of_decide_eq_true (List.all_eq_true.1 queues x mem)
    rw [none]
    exact Bool.false_ne_true
  have still : ((s.core c).strand msgSlot).live = false := by
    rw [Strand.live, show ((s.core c).strand msgSlot).st = .free from idle]
    rfl
  unfold State.servesAmo
  dsimp only
  rw [any_before_alone alone _ fun _ => by simp]
  simp only [core, h.reach, sent, still, requests, replies, decide_true, Bool.not_false, Bool.and_self, Bool.true_or]

theorem packageWindowAtomic_performs (flight : InFlight s id a d) (kind : a.kind = .amo fn b cmp) (plain : a.ord = .plain)
    (stage : a.stage = .pwa) (h : Reached s a c off) (shut : s.shut c = false) (hood : s.inHoods a.job c = true) (other : c ≠ a.core)
    (ok : (s.core c).scratchOk off a.size = true) (clean : touches (s.core c).spois off a.size = false) (serves : s.servesAmo id a = true) :
    let old := number (fun j => (s.core c).scratch.get (off + j)) a.size
    ∃ t, exec (.packageWindowAtomic id) s = .next t ∧ t.mem = s.mem ∧ Returned s t a d (BitVec.ofNat 64 old) ∧
      number (fun j => (t.core c).scratch.get (off + j)) a.size =
        (amoNew (k := 8 * a.size) fn (BitVec.ofNat _ old) (b.setWidth _) (cmp.setWidth _)).toNat ∧
      ∀ x, x < off ∨ off + a.size ≤ x → (t.core c).scratch.get x = (s.core c).scratch.get x := by
  obtain ⟨core, offset⟩ := h.bits
  obtain ⟨u, performed, mem, accs, strands, stands, others⟩ := amoBank_of_open kind h other shut hood ok clean
  obtain ⟨back, kept, scratch⟩ := accDone_returns flight accs (strands ..) (BitVec.ofNat 64 ((s.core c).scratch.read off a.size))
  have away : s.turnsAway a.agent c = false := by
    rw [turnsAway_iff h other, shut, hood]
    rfl
  rw [← read_eq_number]
  refine ⟨_, ?_, kept.trans mem, back, ?_, fun x out => ?_⟩
  · show execPackageWindowAtomic id s = _
    simp only [execPackageWindowAtomic, acc?_of_alone flight.1, stage, core, offset, h.bankHeld, away, serves, performed, ne_eq, not_true,
      Bool.false_eq_true, Bool.not_true, Bool.not_false, and_false, or_self, if_false]
    rw [reply_of_amo kind plain]
  · rw [← read_eq_number, scratch, stands, amoStands]
  · rw [scratch, others x out]

/-- The core of an access has posted nothing where no core has. -/
theorem journal_of_none (none : (s.cores.all fun x => decide (x.2.journal = [])) = true) (c : Nat) : (s.core c).journal = [] := by
  rcases Tab.look_mem s.cores c Core.reset with reset | ⟨x, mem, same⟩
  · exact congrArg Core.journal reset
  · exact (congrArg Core.journal same).symm.trans (of_decide_eq_true (List.all_eq_true.1 none x mem))

end

theorem cause_hoodRef (a : Word) : field (TrapInfo.cause ⟨0x0D, 0, none, a, none⟩) 0 8 = 0x0D := by
  show field (TrapInfo.cause ⟨0x0D, 0, none, 0, none⟩) 0 8 = 0x0D
  decide

/-- Settles O48: a lemma for each stage of an access in flight. -/
theorem accessPath : Obligations.AccessPath := by
  unfold Obligations.AccessPath
  refine ⟨fun s id a v pa alone store stage nobody posted _ => homeAccess_stores alone store stage nobody (journal_of_none posted _), ?_⟩
  intro s id a d flight
  refine ⟨?_, ?_, ?_, ?_, ?_, ?_, ?_⟩
  · intro sgn again s1 pa ty shut ver pte tag load stage found
    exact ⟨_, translation_leads flight.1 load stage found, acc?_put .., rfl, rfl⟩
  · intro sgn pa ty tag load plain stage kept fat type sound uncached lines posted
    have word : field a.bases.fat 0 48 + 8 * (pa / 2 ^ 21) = fatWord a.bases.fat pa := by
      rw [fatWord, Nat.div_div_eq_div_mul]
      rfl
    rw [word] at fat
    have kept : tag ∉ s.dropped := by simpa using kept
    exact homeAccess_loads flight load plain stage (.inr ⟨kept, fat, type⟩) sound uncached lines posted
  · intro sgn c off load plain stage space calm here may ok clean
    exact bankAccess_loads flight load plain stage ⟨space, calm, here⟩ may ok clean
  · intro sgn c off load stage space calm here other closed outside _ free single first
    obtain ⟨accs, mem, cause, faddr, intrap⟩ := accFault_traps (code := 0x0D) flight single first outside free calm
    exact ⟨_, bankAccess_refused flight.1 stage ⟨space, calm, here⟩ other closed, accs, mem, by rw [cause]; exact cause_hoodRef _, faddr, intrap⟩
  · intro fn b cmp c off kind plain stage _ space calm here shut hood other ok clean idle requests replies queues mails
    have h : Reached s a c off := ⟨space, calm, here⟩
    exact packageWindowAtomic_performs flight kind plain stage h shut hood other ok clean
      (servesAmo_of_idle flight.1 h idle requests replies queues mails)
  · intro sgn v load plain stage heard
    exact accessReply_loads flight load plain stage heard v
  · intro pa ty tag stage dropped
    exact ⟨_, exec_moved flight.1 stage dropped, acc?_put .., rfl, rfl⟩

end Sys2Proof.Hierarchy
end

section
/-!
PROOF. XLINV, ATTRSET and SEAL at issue, and an invalidation that comes from a peer (12 R262, R263, 20 R347, 16 R296).
-/

open Sys2Proof Sys2Proof.Machine Sys2Proof.Claims

namespace Sys2Proof.Hierarchy

section
variable {s : State} {b c : GReg}

/-! XLINV. -/

theorem xlSpan_eq_spanOf (w : Word) {code : Nat} (lt : code < 4) : xlSpan w code = spanOf w code := by
  have cases4 : code = 0 ∨ code = 1 ∨ code = 2 ∨ code = 3 := by omega
  rcases cases4 with rfl | rfl | rfl | rfl <;> simp [xlSpan, spanOf, Scheduling.bits_eq_field]

theorem exec_xlinv_of_long (sup : s.me.sup = true) (long : 2 ^ 18 ≤ (s.rg c).toNat) :
    exec (.xlinv b c) s = .next (s.trap 0x05 (s.rg c)) := by
  have high : bits (s.rg c) 18 46 ≠ 0 := by
    have lt := (s.rg c).isLt
    simp only [bits]
    omega
  show execXlinv b c s = _
  simp only [execXlinv, sup, Bool.not_true, Bool.false_eq_true, if_false, high, ne_eq, not_false_eq_true, if_true]
  rfl

/-- The strand after the fence that XLINV and SEAL make, waiting. -/
def fencedWaiting (s : State) (w : Wait) : Strand := { s.me with rel := none, fence := some (widest s.me.fence .sys), st := .waiting w }

theorem me_await (s : State) (w : Wait) : (s.await w).me = { s.me with st := .waiting w } := State.me_modMe ..

theorem xlinv_waits (calm : Calm s) (sup : s.me.sup = true) (short : (s.rg c).toNat < 2 ^ 18) :
    ∃ t, exec (.xlinv b c) s = .next t ∧ t.mem = s.mem ∧ t.me = fencedWaiting s (.xlinv ((s.rg c).setWidth 16)
      (spanOf (s.rg b) (field (s.rg c) 16 2)).1 (spanOf (s.rg b) (field (s.rg c) 16 2)).2) := by
  have low : bits (s.rg c) 18 46 = 0 := by
    simp only [bits]
    omega
  have span : xlSpan (s.rg b) (bits (s.rg c) 16 2) = spanOf (s.rg b) (field (s.rg c) 16 2) :=
    xlSpan_eq_spanOf _ (Scheduling.field_lt (s.rg c) 16 2)
  have job : BitVec.ofNat 16 (bits (s.rg c) 0 16) = (s.rg c).setWidth 16 := by
    apply BitVec.eq_of_toNat_eq
    simp [bits]
  have only := fenceReleased_onlyMe s .sys
  obtain ⟨me, mem, -⟩ := acquiring_leaves ((s.fenced .sys).relDone.released .sys) .sys
  refine ⟨(acquiring ((s.fenced .sys).relDone.released .sys) true .sys).await (.xlinv ((s.rg c).setWidth 16)
    (spanOf (s.rg b) (field (s.rg c) 16 2)).1 (spanOf (s.rg b) (field (s.rg c) 16 2)).2), ?_, mem.trans only.mem, ?_⟩
  · show execXlinv b c s = _
    simp only [execXlinv, sup, low, calm.fenceWait, span, job, acquired_eq_acquiring, Bool.not_true, Bool.false_eq_true, if_false, ne_eq,
      not_true]
  · rw [me_await, me, only.me]
    rfl

/-! ATTRSET. -/

/-- A value that names a DRAM frame in the form of 04 R412. -/
def FrameForm (w : Word) : Prop := field w 48 16 = 0xE000 ∧ field w 0 16 = 0 ∧ field w 0 48 < 0x6000000000

theorem isFrame_iff (w : Word) : isFrame w = true ↔ FrameForm w := by
  have form : (bits w 61 3 = 7 ∧ bits w 48 13 = 0) ↔ field w 48 16 = 0xE000 := by
    simp only [bits, field]
    omega
  simp only [isFrame, isPhysForm, isDram, FrameForm, Bool.and_eq_true, decide_eq_true_eq, form, and_assoc]
  rfl

theorem exec_attrset_of_bad (sup : s.me.sup = true) (bad : 4 ≤ (s.rg c).toNat ∨ ¬FrameForm (s.rg b)) :
    exec (.attrset b c) s = .next (s.trap 0x05 (s.rg b)) := by
  have refused : (!isFrame (s.rg b)) = true ∨ bits (s.rg c) 2 62 ≠ 0 := by
    rcases bad with long | form
    · refine .inr ?_
      have lt := (s.rg c).isLt
      simp only [bits]
      omega
    · refine .inl ?_
      rw [Bool.not_eq_true', ← Bool.not_eq_true, isFrame_iff]
      exact form
  show execAttrset b c s = _
  simp only [execAttrset, sup, Bool.not_true, Bool.false_eq_true, if_false, refused, if_true]
  rfl

theorem pageTyOf_code (ty : PageTy) : pageTyOf ty.code = ty := by cases ty <;> rfl

theorem exec_attrset_of_good {ty : PageTy} (sup : s.me.sup = true) (type : (s.rg c).toNat = ty.code) (form : FrameForm (s.rg b)) :
    exec (.attrset b c) s = .next (withMe s { s.me with st := .waiting (.attrset s.mine.fatbase (field (s.rg b) 16 32) ty) }) := by
  have small : ty.code < 4 := by cases ty <;> decide
  have high : bits (s.rg c) 2 62 = 0 := by
    simp only [bits]
    omega
  have code : pageTyOf (bits (s.rg c) 0 2) = ty := by
    have low : bits (s.rg c) 0 2 = ty.code := by
      simp only [bits]
      omega
    rw [low, pageTyOf_code]
  have frame : bits (s.rg b) 0 48 / 0x10000 = field (s.rg b) 16 32 := by
    simp only [bits, field]
    omega
  have may : (!s.me.sup) = false := by rw [sup]; rfl
  show execAttrset b c s = _
  simp only [execAttrset, may, (isFrame_iff _).2 form, high, code, frame, Bool.not_true, Bool.false_eq_true, ne_eq, not_true, or_self,
    if_false]
  rfl

/-! SEAL. -/

theorem exec_seal_of_bad (low : 2 ^ 61 ≤ (s.rg b).toNat) (high : (s.rg b).toNat < 2 ^ 63) :
    exec (.sealPage b) s = .next (s.trap 0x05 (s.rg b)) := by
  have sp : space s.me.sup (s.rg b) = .error Cause.badAddr := space_none (by
    simp only [List.mem_cons, List.not_mem_nil, or_false]
    omega)
  show execSealPage b s = _
  simp only [execSealPage, sp]
  rfl

theorem space_low {w : Word} (small : w.toNat < 2 ^ 48) (sup : Bool) : space sup w = .ok (.virt w.toNat) := by
  have zero : bits w 48 13 = 0 := by
    simp only [bits]
    omega
  have va : bits w 0 48 = w.toNat := by
    simp only [bits]
    omega
  rw [space_virt (by omega), if_pos zero, va]

section
variable {s1 : State} {pa pte tag : Nat} {ty : PageTy} {shut : Bool} {ver : BitVec 16}
  (small : (s.rg b).toNat < 2 ^ 48) (found : s.translate s.agent (s.rg b).toNat .seal = (s1, .ok pa ty shut ver pte tag))
include small found

theorem exec_seal_of_type (other : ty ≠ .wo) : exec (.sealPage b) s = .next (s1.trap 0x09 (s.rg b)) := by
  show execSealPage b s = _
  simp only [execSealPage, space_low small, found, other, ne_eq, not_false_eq_true, if_true]
  rfl

theorem exec_seal_of_sealed (wo : ty = .wo) (done : shut = true) : exec (.sealPage b) s = .next s1.advance := by
  show execSealPage b s = _
  simp only [execSealPage, space_low small, found, wo, done, ne_eq, not_true, if_false, if_true]

theorem seal_waits {e : Word} {p : Nat} (wo : ty = .wo) (unsealed : shut = false)
    (walked : s1.walkJob s1.mine.jtbase s1.me.job (s.rg b).toNat = .ok (e, 0, p)) (calm : Calm s1) :
    ∃ t, exec (.sealPage b) s = .next t ∧ t.mem = s1.mem ∧ t.me = fencedWaiting s1 (.sealing (s.rg b) p
      (field e 16 32 * 2 ^ 16) (field e 16 32 * 2 ^ 16 + 2 ^ 16)) := by
  have only := fenceReleased_onlyMe s1 .sys
  refine ⟨((s1.fenced .sys).relDone.released .sys).await (.sealing (s.rg b) p (field e 16 32 * 2 ^ 16)
    (field e 16 32 * 2 ^ 16 + 2 ^ 16)), ?_, only.mem, ?_⟩
  · show execSealPage b s = _
    simp only [execSealPage, space_low small, found, wo, unsealed, walked, calm.fenceWait, ne_eq, not_true, Bool.false_eq_true, if_false]
    rfl
  · rw [me_await, only.me]
    rfl

end

/-! From a peer. -/

theorem exec_peerXlinv (s : State) (dev idx off : Nat) : exec (.peerXlinv dev idx off) s = .next (
    if s.brim.st = .idle ∧ s.milliner.hot = false then { s with sent := s.sent ++ [.dropped dev idx off] } else s) := by
  show execPeerXlinv dev idx off s = _
  rw [execPeerXlinv, State.heard, State.deaf, State.send]
  by_cases idle : s.brim.st = .idle
  · cases hot : s.milliner.hot <;> simp [idle]
  · simp [idle]

end

end Sys2Proof.Hierarchy
end

section
/-!
PROOF. L1 lines that are dropped (04 R77, 20 R347, R349), and writes at a home: what becomes of lines, strands and the rest.
-/

open Sys2Proof Sys2Proof.Machine Sys2Proof.Claims

namespace Sys2Proof.Hierarchy

/-- Two copies of one line: the same place of the same job, in the same frame. -/
structure SameLine (x y : Line) : Prop where
  va : y.va = x.va
  job : y.job = x.job
  frame : y.frame = x.frame

/-- From `s` to `t` no line has come into an L1, and beside the cores only memory, its marks and those that watch it have changed. -/
structure LinesGo (s t : State) : Prop where
  rest : t = { s with cores := t.cores, mem := t.mem, pois := t.pois, writer := t.writer, backs := t.backs, events := t.events,
                      waits := t.waits }
  lines : ∀ d, ∀ y ∈ (t.core d).lines, ∃ x ∈ (s.core d).lines, SameLine x y

namespace LinesGo

variable {s t u : State}

theorem xlates (h : LinesGo s t) : t.xlates = s.xlates := by rw [h.rest]
theorem dropped (h : LinesGo s t) : t.dropped = s.dropped := by rw [h.rest]
theorem seals (h : LinesGo s t) : t.seals = s.seals := by rw [h.rest]
theorem written (h : LinesGo s t) : t.written = s.written := by rw [h.rest]

theorem refl (s : State) : LinesGo s s := ⟨rfl, fun _ y mem => ⟨y, mem, rfl, rfl, rfl⟩⟩

theorem trans (p : LinesGo s t) (q : LinesGo t u) : LinesGo s u := by
  refine ⟨?_, fun d y mem => ?_⟩
  · have rest := q.rest
    rw [p.rest] at rest
    exact rest
  · obtain ⟨x, mem, same⟩ := q.lines d y mem
    obtain ⟨x', mem', same'⟩ := p.lines d x mem
    exact ⟨x', mem', same.va.trans same'.va, same.job.trans same'.job, same.frame.trans same'.frame⟩

theorem fold {β : Type} {f : State → β → State} (hf : ∀ s x, LinesGo s (f s x)) (l : List β) (s : State) : LinesGo s (l.foldl f s) :=
  foldl_keeps (P := LinesGo s) (fun t x h => h.trans (hf t x)) l (refl s)

theorem setCore (s : State) (c : Nat) {k : Core} (sub : ∀ y ∈ k.lines, y ∈ (s.core c).lines) : LinesGo s (s.setCore c k) := by
  refine ⟨rfl, fun d y mem => ?_⟩
  rw [State.core_setCore] at mem
  split at mem
  · next same => exact ⟨y, same ▸ sub y mem, rfl, rfl, rfl⟩
  · exact ⟨y, mem, rfl, rfl, rfl⟩

theorem updateSharers (s : State) (pa : Nat) (bs : List Byte) : LinesGo s (s.updateSharers pa bs) := by
  let f (k : Core) : Core := if k.lines = [] then k else { k with lines := s.patched pa bs k.lines }
  have from_ (k : Core) : ∀ y ∈ (f k).lines, ∃ x ∈ k.lines, SameLine x y := by
    intro y mem
    dsimp only [f] at mem
    split at mem
    · exact ⟨y, mem, rfl, rfl, rfl⟩
    · obtain ⟨x, held, rfl⟩ := List.mem_map.1 mem
      refine ⟨x, held, ?_⟩
      split <;> exact ⟨rfl, rfl, rfl⟩
  refine ⟨rfl, fun d => ?_⟩
  rw [show (s.updateSharers pa bs).core d = f (s.core d) from Tab.look_map f s.cores d Core.reset]
  exact from_ _

theorem homePut (s : State) (j : BitVec 16) (pa : Nat) (bs : List Byte) : LinesGo s (s.homePut j pa bs) := by
  have put : LinesGo s { s with mem := s.mem.putBytes pa bs, pois := clears s.pois pa bs.length, writer := s.writer.put (lineOf pa) j } :=
    ⟨rfl, (refl s).lines⟩
  exact put.trans (updateSharers ..)

theorem writeBackLine (s : State) (c : Nat) (l : Line) : LinesGo s (s.writeBackLine c l) := by
  have marked (t : State) (m : List Nat) (b : Tab Nat) (e : List SupEvent) : LinesGo t { t with pois := m, backs := b, events := e } :=
    ⟨rfl, (refl t).lines⟩
  unfold State.writeBackLine
  split
  · exact refl s
  · dsimp only
    split
    · exact (homePut ..).trans (marked _ _ _ _)
    · exact (homePut ..).trans (marked _ _ _ _)

theorem dropLines (s : State) (c : Nat) (p : Line → Bool) : LinesGo s (s.dropLines c p) :=
  (fold (fun t l => writeBackLine t c l) _ s).trans (setCore _ c fun _ mem => List.mem_of_mem_filter mem)

theorem dropAllLines (s : State) (p : Line → Bool) : LinesGo s (s.dropAllLines p) := fold (fun t c => dropLines t c p) _ s

theorem setStrand (s : State) (c n : Nat) (x : Strand) : LinesGo s (s.setStrand c n x) := setCore s c fun _ => id

theorem wake1 (m0 : Memory) (lo n : Nat) (s : State) (w : Bool × Nat × Nat × Nat) : LinesGo s (State.wake1 m0 lo n s w) := by
  have gone : LinesGo s { s with waits := s.waits.filter (· ≠ w) } := ⟨rfl, (refl s).lines⟩
  obtain ⟨park, key, c, sl⟩ := w
  unfold State.wake1
  dsimp only
  repeat' split
  all_goals first | exact refl s | exact gone | exact gone.trans (setStrand _ _ _ _)

theorem homeWrite (s : State) (j : BitVec 16) (pa : Nat) (bs : List Byte) : LinesGo s (s.homeWrite j pa bs) :=
  (homePut ..).trans (fold (wake1 _ _ _) _ _)

end LinesGo

/-! Lines that pass a test are dropped. -/

/-- A test that tells lines by their place alone. -/
def ByPlace (p : Line → Bool) : Prop := ∀ x y, SameLine x y → p y = p x

/-- No line of a core passes a test. -/
def NoneIn (s : State) (d : Nat) (p : Line → Bool) : Prop := ∀ y ∈ (s.core d).lines, p y = false

theorem NoneIn.after {s t : State} {d : Nat} {p : Line → Bool} (none : NoneIn s d p) (place : ByPlace p) (go : LinesGo s t) : NoneIn t d p := by
  intro y mem
  obtain ⟨x, mem, same⟩ := go.lines d y mem
  rw [place x y same]
  exact none x mem

theorem dropLines_noneIn (s : State) (c : Nat) (p : Line → Bool) : NoneIn (s.dropLines c p) c p := by
  intro y mem
  rw [State.dropLines, State.core_modCore_same] at mem
  simpa using List.of_mem_filter mem

theorem dropEach_noneIn {p : Line → Bool} (place : ByPlace p) (cs : List Nat) (s : State) {d : Nat} (mem : d ∈ cs) :
    NoneIn (cs.foldl (fun s c => s.dropLines c p) s) d p := by
  induction cs generalizing s with
  | nil => cases mem
  | cons c cs ih =>
    rw [List.foldl_cons]
    rcases List.mem_cons.1 mem with rfl | later
    · exact (dropLines_noneIn s d p).after place (LinesGo.fold (fun t c => .dropLines t c p) cs _)
    · exact ih _ later

/-- A core that the table of cores does not name holds no line. -/
theorem lines_of_unlisted {s : State} {d : Nat} (unlisted : d ∉ s.cores.map (·.1)) : (s.core d).lines = [] := by
  have reset : s.core d = Core.reset := by
    rw [State.core]
    generalize s.cores = cs at unlisted
    induction cs with
    | nil => rfl
    | cons x cs ih =>
      rw [List.map_cons, List.mem_cons, not_or] at unlisted
      rw [Tab.look_cons, if_neg (Ne.symm unlisted.1)]
      exact ih unlisted.2
  rw [reset]
  rfl

theorem dropAllLines_noneIn {p : Line → Bool} (place : ByPlace p) (s : State) (d : Nat) : NoneIn (s.dropAllLines p) d p := by
  by_cases listed : d ∈ s.cores.map (·.1)
  · exact dropEach_noneIn place _ s listed
  · intro y mem
    obtain ⟨x, mem, -⟩ := (LinesGo.dropAllLines s p).lines d y mem
    rw [lines_of_unlisted listed] at mem
    cases mem

/-! A part whose cores hold no line. -/

theorem lines_of_noLines {s : State} (none : NoLines s) (d : Nat) : (s.core d).lines = [] := by
  rcases Tab.look_mem s.cores d Core.reset with reset | ⟨x, mem, same⟩
  · exact congrArg Core.lines reset
  · exact (congrArg Core.lines same).symm.trans (of_decide_eq_true (List.all_eq_true.1 none x mem))

theorem dropAllLines_of_noLines {s : State} (none : NoLines s) (p : Line → Bool) : (s.dropAllLines p).mem = s.mem := by
  refine (foldl_keeps (P := fun t : State => t.mem = s.mem ∧ ∀ d, t.core d = s.core d) (fun t c h => ?_) _ ⟨rfl, fun _ => rfl⟩).1
  obtain ⟨mem, core⟩ := h
  obtain ⟨mem', core'⟩ := dropLines_of_none (s := t) (c := c) (by rw [core, lines_of_noLines none]) p
  exact ⟨mem'.trans mem, fun d => (core' d).trans (core d)⟩

/-! A strand that waits for an engine, while memory is written. -/

/-- The strand in a slot waits, at an instruction. -/
def WaitsAt (s : State) (c n : Nat) (w : Wait) (pc : Word) : Prop := (s.strand c n).st = .waiting w ∧ (s.strand c n).pc = pc

theorem WaitsAt.wake1 {s : State} {c n : Nat} {w : Wait} {pc : Word} (h : WaitsAt s c n w pc) (m0 : Memory) (lo k : Nat)
    (x : Bool × Nat × Nat × Nat) : WaitsAt (State.wake1 m0 lo k s x) c n w pc := by
  obtain ⟨st, pc_eq⟩ := h
  have set (ws : List (Bool × Nat × Nat × Nat)) (d m : Nat) (y : Strand) (same : (d, m) = (c, n) → y.st = .waiting w ∧ y.pc = pc) :
      WaitsAt (({ s with waits := ws } : State).setStrand d m y) c n w pc := by
    by_cases here : (d, m) = (c, n)
    · obtain ⟨rfl, rfl⟩ := Prod.mk.inj here
      rw [WaitsAt, State.strand_setStrand_same]
      exact same here
    · rw [WaitsAt, State.strand_setStrand_ne]
      · exact ⟨st, pc_eq⟩
      · rintro ⟨rfl, rfl⟩
        exact here rfl
  obtain ⟨park, key, d, m⟩ := x
  unfold State.wake1
  dsimp only
  split
  · split
    · split
      · next parked =>
        refine set _ d m _ fun same => ?_
        obtain ⟨rfl, rfl⟩ := Prod.mk.inj same
        rw [st] at parked
        cases parked
      · exact ⟨st, pc_eq⟩
    · exact ⟨st, pc_eq⟩
  · split
    · split
      · split
        · refine set _ d m _ fun same => ?_
          obtain ⟨rfl, rfl⟩ := Prod.mk.inj same
          simp only [Strand.monDone, st, pc_eq, and_self]
        · exact ⟨st, pc_eq⟩
      · exact ⟨st, pc_eq⟩
    · exact ⟨st, pc_eq⟩

theorem WaitsAt.unmoved {s t : State} {c n : Nat} {w : Wait} {pc : Word} (h : WaitsAt s c n w pc) (same : Unmoved s t) : WaitsAt t c n w pc := by
  rw [WaitsAt, same.strand]
  exact h

theorem WaitsAt.homeWrite {s : State} {c n : Nat} {w : Wait} {pc : Word} (h : WaitsAt s c n w pc) (j : BitVec 16) (pa : Nat)
    (bs : List Byte) : WaitsAt (s.homeWrite j pa bs) c n w pc :=
  foldl_keeps (P := fun t => WaitsAt t c n w pc) (fun _ x h => h.wake1 _ _ _ x) _ (h.unmoved (Unmoved.homePut s j pa bs))

/-- A strand that an engine lets go on. -/
theorem asStrand_advance (s : State) (c n : Nat) : s.asStrand c n State.advance = s.modStrand c n fun t => t.retire (t.pc + 4) := rfl

theorem strand_asStrand_advance (s : State) (c n : Nat) :
    (s.asStrand c n State.advance).strand c n = (s.strand c n).retire ((s.strand c n).pc + 4) := by
  rw [asStrand_advance, State.strand_modStrand_same]

theorem WaitsAt.goes {s : State} {c n : Nat} {w : Wait} {pc : Word} (h : WaitsAt s c n w pc) :
    ((s.asStrand c n State.advance).strand c n).st = .ready ∧ ((s.asStrand c n State.advance).strand c n).pc = pc + 4 := by
  rw [strand_asStrand_advance, ← h.2]
  exact ⟨rfl, rfl⟩

theorem lines_asStrand_advance (s : State) (c n d : Nat) : ((s.asStrand c n State.advance).core d).lines = (s.core d).lines := by
  rw [asStrand_advance, State.modStrand, State.setStrand, State.core_setCore]
  split
  · next same => rw [same]; rfl
  · rfl

end Sys2Proof.Hierarchy
end

section
/-!
PROOF. Changes to pages when they are complete (12 R262, R263, 10 R197, 20 R347, R349, R351), and the obligation.
-/

open Sys2Proof Sys2Proof.Machine Sys2Proof.Claims

namespace Sys2Proof.Hierarchy

/-- A strand whose core has not touched it goes on. -/
theorem resumed_of_same {s u : State} {c n : Nat} (same : u.strand c n = s.strand c n) (outs : (s.strand c n).outs = []) :
    Resumed s (u.asStrand c n State.advance) c n := by
  have went : (u.asStrand c n State.advance).strand c n = wentOn (s.strand c n) ((s.strand c n).pc + 4) := by
    rw [strand_asStrand_advance, same, Strand.retire_of_outs_nil outs, wentOn]
  rw [Resumed, went]
  exact ⟨rfl, rfl, fun _ => rfl⟩

section
variable {s : State} {c n : Nat}

/-! XLINV. -/

theorem inSpan_iff (lo hi a : Nat) : inSpan lo hi a = true ↔ lo ≤ a ∧ a < hi := by
  rw [inSpan, Bool.and_eq_true, decide_eq_true_eq, decide_eq_true_eq]

section
variable {job : BitVec 16} {lo hi : Nat}

theorem ofSpan_iff (x : Nat × BitVec 16 × Nat) : ofSpan job lo hi x = true ↔ InSpan job lo hi x := by
  rw [ofSpan, Bool.and_eq_true, decide_eq_true_eq, inSpan_iff]
  rfl

theorem sendEach {β : Type} (f : β → Sent) (xs : List β) (s : State) :
    xs.foldl (fun s x => s.send (f x)) s = { s with sent := if s.brim.st = .idle then s.sent ++ xs.map f else s.sent } := by
  induction xs generalizing s with
  | nil => by_cases idle : s.brim.st = .idle <;> simp [idle]
  | cons x xs ih =>
    rw [List.foldl_cons, ih]
    by_cases idle : s.brim.st = .idle <;> simp [State.send, idle]

/-- The state in which the peers that hold sealed copies of a span have been told. -/
theorem xlTell_eq : s.xlTell job lo hi = { s with
    sealedAt := s.sealedAt.filter fun x => !ofSpan job lo hi x
    acks := s.acks ++ s.sealedAt.filter (ofSpan job lo hi)
    sent := if s.brim.st = .idle then s.sent ++ (s.sealedAt.filter (ofSpan job lo hi)).map fun x => .dropPage x.1 x.2.1 x.2.2
      else s.sent } := sendEach _ _ _

theorem awaited_iff : (s.xlTell job lo hi).acks.any (ofSpan job lo hi) = true ↔ ∃ x ∈ s.acks ++ s.sealedAt, InSpan job lo hi x := by
  rw [xlTell_eq]
  simp only [List.any_append, List.any_filter, Bool.and_self, Bool.or_eq_true, List.any_eq_true, ofSpan_iff, List.mem_append,
    or_and_right, exists_or]

theorem exec_xlinvComplete_of_awaited (wait : (s.strand c n).st = .waiting (.xlinv job lo hi))
    (awaited : ∃ x ∈ s.acks ++ s.sealedAt, InSpan job lo hi x) : exec (.xlinvComplete c n) s = .next (s.xlTell job lo hi) := by
  show execXlinvComplete c n s = _
  simp only [execXlinvComplete, wait, State.xlTry, awaited_iff.2 awaited, if_true, Bool.false_eq_true, if_false]

theorem exec_xlinvComplete_of_answered (wait : (s.strand c n).st = .waiting (.xlinv job lo hi))
    (answered : ∀ x ∈ s.acks ++ s.sealedAt, ¬InSpan job lo hi x) :
    exec (.xlinvComplete c n) s = .next (((s.xlTell job lo hi).xlDrop job lo hi).asStrand c n State.advance) := by
  have none : ¬(s.xlTell job lo hi).acks.any (ofSpan job lo hi) = true := by
    rw [awaited_iff]
    exact fun ⟨x, mem, span⟩ => answered x mem span
  show execXlinvComplete c n s = _
  simp only [execXlinvComplete, wait, State.xlTry, none]
  rfl

/-- The peers have been told. -/
theorem xlTell_leaves : let t := s.xlTell job lo hi
    t.cores = s.cores ∧ t.xlates = s.xlates ∧ t.mem = s.mem ∧ (∀ x ∈ t.sealedAt, ¬InSpan job lo hi x) ∧
      ∀ x ∈ s.sealedAt, InSpan job lo hi x → x ∈ t.acks ∧ (s.brim.st = .idle → .dropPage x.1 x.2.1 x.2.2 ∈ t.sent) := by
  dsimp only
  rw [xlTell_eq]
  refine ⟨rfl, rfl, rfl, fun x mem span => ?_, fun x mem span => ⟨?_, fun idle => ?_⟩⟩
  · have out := List.of_mem_filter mem
    rw [(ofSpan_iff x).2 span] at out
    cases out
  · exact List.mem_append_right _ (List.mem_filter.2 ⟨mem, (ofSpan_iff x).2 span⟩)
  · dsimp only
    rw [if_pos idle]
    exact List.mem_append_right _ (List.mem_map.2 ⟨x, List.mem_filter.2 ⟨mem, (ofSpan_iff x).2 span⟩, rfl⟩)

/-- The lines that a job holds of a span. -/
def inJobSpan (job : BitVec 16) (lo hi : Nat) (l : Line) : Bool := l.job = job && inSpan lo hi l.va

theorem inJobSpan_byPlace : ByPlace (inJobSpan job lo hi) := fun x y same => by
  rw [inJobSpan, inJobSpan, same.job, same.va]

/-- What is held of a job's span beside L1 lines is gone. -/
def spanForgotten (s : State) (job : BitVec 16) (lo hi : Nat) : State :=
  let fills (l : List (BitVec 16 × Nat)) : List (BitVec 16 × Nat) := l.filter fun f => !(f.1 = job && inSpan lo hi f.2)
  { s with
    dropped := s.dropped ++ s.spanTags job lo hi, priv := [], scfill := s.scfill.map fun x => (x.1, fills x.2),
    xlates := s.xlates.filter fun x => !(x.job = job && inSpan lo hi (x.gran * 0x10000)),
    seals := s.seals.filter fun x => s.sealHolds x || !(x.job = job && inSpan lo hi x.va) }

theorem xlDrop_eq : s.xlDrop job lo hi = (spanForgotten s job lo hi).dropAllLines (inJobSpan job lo hi) := rfl

/-- The translations, lines and seals after a span's translations have been dropped. -/
theorem xlDrop_leaves : let t := s.xlDrop job lo hi
    Unmoved s t ∧ (∀ x ∈ t.xlates, ¬(x.job = job ∧ lo ≤ x.gran * 2 ^ 16 ∧ x.gran * 2 ^ 16 < hi)) ∧
      (∀ x ∈ s.xlates, x.job = job → lo ≤ x.gran * 2 ^ 16 → x.gran * 2 ^ 16 < hi → x.tag ∈ t.dropped) ∧
      (∀ d, ∀ y ∈ (t.core d).lines, ¬(y.job = job ∧ lo ≤ y.va ∧ y.va < hi)) ∧
      ∀ x ∈ t.seals, x.job = job → lo ≤ x.va → x.va < hi → s.sealHolds x = true := by
  have go := LinesGo.dropAllLines (spanForgotten s job lo hi) (inJobSpan job lo hi)
  have gone := dropAllLines_noneIn (inJobSpan_byPlace (job := job) (lo := lo) (hi := hi)) (spanForgotten s job lo hi)
  have unmoved : Unmoved s (spanForgotten s job lo hi) := .of_cores rfl rfl
  dsimp only
  rw [xlDrop_eq]
  refine ⟨unmoved.trans (.dropAllLines ..), fun x mem => ?_, fun x mem own low high => ?_, fun d y mem => ?_, fun x mem own low high => ?_⟩
  · rw [go.xlates] at mem
    have out := List.of_mem_filter mem
    rw [Bool.not_eq_true', ← Bool.not_eq_true, Bool.and_eq_true, decide_eq_true_eq, inSpan_iff] at out
    exact out
  · rw [go.dropped]
    refine List.mem_append_right _ (List.mem_append_left _ (List.mem_append_left _ (List.mem_map.2 ⟨x, List.mem_filter.2 ⟨mem, ?_⟩, rfl⟩)))
    rw [Bool.and_eq_true, decide_eq_true_eq, inSpan_iff]
    exact ⟨own, low, high⟩
  · have out := gone d y mem
    simpa [inJobSpan, inSpan] using out
  · rw [go.seals] at mem
    have kept := List.of_mem_filter mem
    have span : (decide (x.job = job) && inSpan lo hi x.va) = true := by
      rw [Bool.and_eq_true, decide_eq_true_eq, inSpan_iff]
      exact ⟨own, low, high⟩
    rw [span, Bool.not_true, Bool.or_false] at kept
    exact kept

end

/-! ATTRSET. -/

/-- The lines of a frame. -/
def ofFrame (lo : Nat) (l : Line) : Bool := l.frame = lo

theorem ofFrame_byPlace (lo : Nat) : ByPlace (ofFrame lo) := fun x y same => by rw [ofFrame, ofFrame, same.frame]

/-- A frame's lines dropped and its masks merged. -/
def frameDropped (s : State) (f : Nat) : State := (s.mergeRange (f * 2 ^ 16) (f * 2 ^ 16 + 2 ^ 16)).dropAllLines (ofFrame (f * 2 ^ 16))

/-- An attribute word with the type of frame `k` of its 32 replaced. -/
def retyped (w k : Nat) (ty : PageTy) : Nat := w - w / 4 ^ k % 4 * 4 ^ k + ty.code * 4 ^ k

theorem retyped_spec {w k : Nat} (small : w < 2 ^ 64) (in_ : k < 32) (ty : PageTy) :
    retyped w k ty < 2 ^ 64 ∧ retyped w k ty / 4 ^ k % 4 = ty.code := by
  have code : ty.code < 4 := by cases ty <;> decide
  have pos : 0 < 4 ^ k := Nat.pow_pos (by omega)
  have whole : (2 : Nat) ^ 64 = 4 ^ k * (4 * 4 ^ (31 - k)) := by
    rw [← Nat.pow_succ', ← Nat.pow_add, show k + (31 - k).succ = 32 by omega]
    norm_num
  have quot : w / 4 ^ k < 4 * 4 ^ (31 - k) := by
    rw [Nat.div_lt_iff_lt_mul pos, Nat.mul_comm, ← whole]
    exact small
  have rest : w % 4 ^ k < 4 ^ k := Nat.mod_lt _ pos
  have sub : retyped w k ty = 4 ^ k * (w / 4 ^ k - w / 4 ^ k % 4 + ty.code) + w % 4 ^ k := by
    have split : 4 ^ k * (w / 4 ^ k) + w % 4 ^ k = w := Nat.div_add_mod ..
    have le : 4 ^ k * (w / 4 ^ k % 4) ≤ 4 ^ k * (w / 4 ^ k) := Nat.mul_le_mul_left _ (Nat.mod_le ..)
    rw [retyped, Nat.mul_add, Nat.mul_sub, Nat.mul_comm (w / 4 ^ k % 4), Nat.mul_comm ty.code]
    omega
  rw [sub]
  generalize w / 4 ^ k = q at quot
  generalize w % 4 ^ k = r at rest
  refine ⟨?_, ?_⟩
  · rw [whole]
    calc 4 ^ k * (q - q % 4 + ty.code) + r < 4 ^ k * (q - q % 4 + ty.code) + 4 ^ k := Nat.add_lt_add_left rest _
      _ = 4 ^ k * (q - q % 4 + ty.code + 1) := (Nat.mul_succ ..).symm
      _ ≤ 4 ^ k * (4 * 4 ^ (31 - k)) := Nat.mul_le_mul_left _ (by omega)
  · rw [Nat.mul_add_div pos, Nat.div_eq_of_lt rest]
    omega

/-- Changing a frame's type writes its attribute word once its lines are dropped. -/
theorem attrChange_writes (s : State) (job : BitVec 16) (fat : Word) (f : Nat) (ty : PageTy) :
    ∃ v : State, v.cur = (frameDropped s f).cur ∧ v.cores = (frameDropped s f).cores ∧ v.mem = (frameDropped s f).mem ∧
      s.attrChange job fat f ty = v.homeWrite job (field fat 0 48 + 8 * (f / 32))
        (leBytes 8 (retyped (v.mem.read (field fat 0 48 + 8 * (f / 32)) 8) (f % 32) ty)) := by
  refine ⟨_, ?_, ?_, ?_, rfl⟩
  all_goals
    dsimp only
    split <;> rfl

theorem attrsetComplete_changes {fat : Word} {f : Nat} {ty : PageTy} (wait : (s.strand c n).st = .waiting (.attrset fat f ty)) :
    ∃ t, exec (.attrsetComplete c n) s = .next t ∧ (t.strand c n).st = .ready ∧ (t.strand c n).pc = (s.strand c n).pc + 4 ∧
      t.mem.read (field fat 0 48 + 8 * (f / 32)) 8 / 4 ^ (f % 32) % 4 = ty.code ∧
      (∀ d, ∀ y ∈ (t.core d).lines, y.frame ≠ f * 2 ^ 16) ∧
      (NoLines s → ∀ a, (a < field fat 0 48 + 8 * (f / 32) ∨ field fat 0 48 + 8 * (f / 32) + 8 ≤ a) → t.mem.get a = s.mem.get a) := by
  obtain ⟨v, cur, cores, mem, changes⟩ := attrChange_writes s (s.strand c n).job fat f ty
  generalize at_ : field fat 0 48 + 8 * (f / 32) = p at changes
  have start : WaitsAt s c n (.attrset fat f ty) (s.strand c n).pc := ⟨wait, rfl⟩
  have waits : WaitsAt v c n (.attrset fat f ty) (s.strand c n).pc :=
    (start.unmoved ((Unmoved.mergeRange ..).trans (.dropAllLines ..))).unmoved (.of_cores cur cores)
  obtain ⟨ready, pc⟩ := (waits.homeWrite (s.strand c n).job p (leBytes 8 (retyped (v.mem.read p 8) (f % 32) ty))).goes
  have written : (v.homeWrite (s.strand c n).job p (leBytes 8 (retyped (v.mem.read p 8) (f % 32) ty))).mem =
      v.mem.write p 8 (retyped (v.mem.read p 8) (f % 32) ty) := State.homeWrite_mem ..
  obtain ⟨small, type⟩ := retyped_spec (read_lt v.mem p 8) (Nat.mod_lt f (by omega)) ty
  refine ⟨(v.homeWrite (s.strand c n).job p (leBytes 8 (retyped (v.mem.read p 8) (f % 32) ty))).asStrand c n State.advance, ?_, ready, pc, ?_,
    fun d y held => ?_, fun none a out => ?_⟩
  · show execAttrsetComplete c n s = _
    simp only [execAttrsetComplete, wait, changes]
  · show (v.homeWrite _ p _).mem.read p 8 / 4 ^ (f % 32) % 4 = ty.code
    rw [written, Memory.read_write, Nat.mod_eq_of_lt small, type]
  · rw [lines_asStrand_advance] at held
    have gone : NoneIn v d (ofFrame (f * 2 ^ 16)) := by
      rw [NoneIn, State.core, cores]
      exact dropAllLines_noneIn (ofFrame_byPlace _) _ d
    have out := gone.after (ofFrame_byPlace _) (LinesGo.homeWrite v _ p _) y held
    simpa [ofFrame] using out
  · show (v.homeWrite _ p _).mem.get a = s.mem.get a
    rw [written, Memory.write, get_putBytes_leBytes_out _ _ _ (by omega), mem, frameDropped]
    exact congrArg (Memory.get · a) (dropAllLines_of_noLines (s := s.mergeRange _ _) none _)

/-! SEAL. -/

/-- The number of a leaf that SEAL has sealed (04 R83). -/
def sealedNumber (e : Nat) : Nat := e % 2 ^ 48 + 2 ^ 6 + 2 ^ 48 * (if e / 2 ^ 48 = 0xFFFF then 1 else e / 2 ^ 48 + 1)

theorem sealedPte_toNat {e : Nat} (small : e < 2 ^ 64) (unsealed : (BitVec.ofNat 64 e).getLsbD 6 = false) :
    (sealedPte (word e)).toNat = sealedNumber e := by
  have bit6 : e / 2 ^ 6 % 2 = 0 := by
    rw [BitVec.getLsbD_ofNat, Nat.testBit_eq_decide_div_mod_eq] at unsealed
    simpa [Nat.mod_two_ne_one] using unsealed
  have flag : pteS (word e) = false := by
    rw [pteS, Scheduling.bit_eq_getLsbD]
    exact unsealed
  have low : bits (word e) 0 48 = e % 2 ^ 48 := by
    simp only [bits, word, BitVec.toNat_ofNat]
    omega
  have version : (nextVer (pteVer (word e))).toNat = if e / 2 ^ 48 = 0xFFFF then 1 else e / 2 ^ 48 + 1 := by
    have ver : (pteVer (word e)).toNat = e / 2 ^ 48 := by
      simp only [pteVer, bits, word, BitVec.toNat_ofNat]
      omega
    have full : pteVer (word e) = BitVec.allOnes 16 ↔ e / 2 ^ 48 = 0xFFFF := by
      rw [← BitVec.toNat_inj, ver, BitVec.toNat_allOnes]
    rw [nextVer]
    by_cases last : e / 2 ^ 48 = 0xFFFF
    · rw [if_pos (full.2 last), if_pos last]
      rfl
    · rw [if_neg (full.not.2 last), if_neg last, BitVec.toNat_add, ver]
      show (e / 2 ^ 48 + 1) % 2 ^ 16 = _
      omega
  rw [sealedPte, low, flag, version, sealedNumber]
  simp only [word, BitVec.toNat_ofNat, Bool.false_eq_true, if_false]
  split <;> omega

/-- The lines of a physical range. -/
def inRange (lo hi : Nat) (l : Line) : Bool := lo ≤ l.pa && l.pa < hi

theorem inRange_byPlace (lo hi : Nat) : ByPlace (inRange lo hi) := fun x y same => by
  rw [inRange, inRange, Line.pa, Line.pa, same.frame, same.va]

section
variable {va : Word} {p lo hi : Nat}

/-- The state in which a page's copies are discarded and its seal is recorded. -/
def sealRecorded (s : State) (job : BitVec 16) (va pte lo hi : Nat) : State :=
  let e := word (s.homeRead pte 8)
  let u := (s.woClear lo hi).dropAllLines (inRange lo hi)
  { u with
    xlates := u.xlates.map fun x => if x.pte = e then { x with pte := sealedPte e } else x
    seals := (u.seals.filter fun x => x.pte ≠ pte) ++ [⟨lo, hi, pte, job, va⟩] }

theorem sealPage_of_unsealed {job : BitVec 16} {v : Nat} (unsealed : (BitVec.ofNat 64 (s.mem.read p 8)).getLsbD 6 = false) :
    s.sealPage job v p lo hi = (sealRecorded s job v p lo hi).homeWrite job p (leBytes 8 (sealedNumber (s.mem.read p 8))) := by
  have flag : pteS (word (s.homeRead p 8)) = false := by
    rw [pteS, Scheduling.bit_eq_getLsbD]
    exact unsealed
  rw [State.sealPage, flag, ← sealedPte_toNat (read_lt ..) unsealed]
  rfl

theorem sealRecorded_leaves (none : NoLines s) (job : BitVec 16) (v : Nat) : let u := sealRecorded s job v p lo hi
    Unmoved s u ∧ u.mem = s.mem ∧ u.written = (s.woClear lo hi).written ∧ ⟨lo, hi, p, job, v⟩ ∈ u.seals := by
  have cleared : Unmoved s (s.woClear lo hi) := .of_cores rfl rfl
  have dropped := cleared.trans (.dropAllLines _ (inRange lo hi))
  exact ⟨dropped.trans (.of_cores rfl rfl), dropAllLines_of_noLines (s := s.woClear lo hi) none _, (LinesGo.dropAllLines ..).written,
    List.mem_append_right _ (List.mem_singleton_self _)⟩

theorem writtenMask_woClear {x : Nat} (low : lo ≤ 128 * x) (high : 128 * x < hi) : (s.woClear lo hi).written.look x 0 = 0 := by
  refine (look_filter s.written (fun l => !(decide (lo ≤ l * 128) && decide (l * 128 < hi))) x 0).trans ?_
  rw [Nat.mul_comm x, decide_eq_true low, decide_eq_true high]
  rfl

theorem sealComplete_seals (wait : (s.strand c n).st = .waiting (.sealing va p lo hi)) (still : s.storesTo lo hi = false) (none : NoLines s)
    (unsealed : (BitVec.ofNat 64 (s.mem.read p 8)).getLsbD 6 = false) :
    ∃ t, exec (.sealComplete c n) s = .next t ∧ (t.strand c n).st = .ready ∧ (t.strand c n).pc = (s.strand c n).pc + 4 ∧
      t.mem.read p 8 = sealedNumber (s.mem.read p 8) ∧ (∀ a, a < p ∨ p + 8 ≤ a → t.mem.get a = s.mem.get a) ∧
      (∀ x, lo ≤ 128 * x → 128 * x < hi → t.written.look x 0 = 0) ∧
      ∃ y ∈ t.seals, y.lo = lo ∧ y.hi = hi ∧ y.pte = p ∧ y.job = (s.strand c n).job := by
  have small : sealedNumber (s.mem.read p 8) < 2 ^ (8 * 8) := by
    rw [← sealedPte_toNat (read_lt ..) unsealed]
    exact (sealedPte _).isLt
  have step : exec (.sealComplete c n) s = .next (((sealRecorded s (s.strand c n).job (bits va 0 48) p lo hi).homeWrite (s.strand c n).job p
      (leBytes 8 (sealedNumber (s.mem.read p 8)))).asStrand c n State.advance) := by
    show execSealComplete c n s = _
    simp only [execSealComplete, wait, still, Bool.false_eq_true, if_false, sealPage_of_unsealed unsealed]
  obtain ⟨same, mem, masks, recorded⟩ := sealRecorded_leaves (p := p) (lo := lo) (hi := hi) none (s.strand c n).job (bits va 0 48)
  generalize sealRecorded s (s.strand c n).job (bits va 0 48) p lo hi = v at step same mem masks recorded
  generalize number : sealedNumber (s.mem.read p 8) = e at step small
  have start : WaitsAt s c n (.sealing va p lo hi) (s.strand c n).pc := ⟨wait, rfl⟩
  obtain ⟨ready, pc⟩ := ((start.unmoved same).homeWrite (s.strand c n).job p (leBytes 8 e)).goes
  have goes := LinesGo.homeWrite v (s.strand c n).job p (leBytes 8 e)
  have written : ((v.homeWrite (s.strand c n).job p (leBytes 8 e)).asStrand c n State.advance).mem = s.mem.write p 8 e := by
    rw [← mem]
    exact State.homeWrite_mem ..
  refine ⟨_, step, ready, pc, ?_, fun a out => ?_, fun x low high => ?_, ⟨lo, hi, p, (s.strand c n).job, bits va 0 48⟩, ?_, rfl, rfl, rfl, rfl⟩
  · rw [written, Memory.read_write, Nat.mod_eq_of_lt small]
  · rw [written, Memory.write, get_putBytes_leBytes_out _ _ _ (by omega)]
  · exact (congrArg (Tab.look · x 0) (goes.written.trans masks)).trans (writtenMask_woClear low high)
  · exact goes.seals ▸ recorded

end

/-! FLUSH of a physical range. -/

theorem mem_scopeCores {sc : Scope} {d : Nat} (scope : inScope sc c d = true) : d ∈ scopeCores sc c := by
  cases sc <;> simp only [inScope, Bool.and_eq_true, decide_eq_true_eq] at scope
  case str | cor => exact List.mem_singleton.2 scope.symm
  case clu => exact List.mem_filter.2 ⟨List.mem_range.2 scope.1, decide_eq_true scope.2.symm⟩
  case twr => exact List.mem_filter.2 ⟨List.mem_range.2 scope.1, decide_eq_true scope.2.symm⟩
  all_goals exact List.mem_range.2 scope

/-- The lines of a scope that lie in a physical range have been visited. -/
def rangeVisited (s : State) (lo hi : Nat) (sc : Scope) (c : Nat) : State :=
  if 4 ≤ scopeCode sc then (s.dropScope sc c (inRange lo hi)).mergeRange lo hi else s.dropScope sc c (inRange lo hi)

theorem rangeVisited_unmoved (s : State) (lo hi : Nat) (sc : Scope) (c : Nat) : Unmoved s (rangeVisited s lo hi sc c) := by
  unfold rangeVisited
  split
  · exact (Unmoved.dropScope ..).trans (.mergeRange ..)
  · exact .dropScope ..

theorem rangeVisited_noneIn (s : State) (lo hi : Nat) {sc : Scope} {c d : Nat} (scope : inScope sc c d = true) :
    NoneIn (rangeVisited s lo hi sc c) d (inRange lo hi) := by
  have dropped : NoneIn (s.dropScope sc c (inRange lo hi)) d (inRange lo hi) :=
    dropEach_noneIn (inRange_byPlace lo hi) _ s (mem_scopeCores scope)
  unfold rangeVisited
  split
  · exact dropped
  · exact dropped

theorem flushComplete_visits {lo hi : Nat} {sc : Scope} (outs : (s.strand c n).outs = [])
    (wait : (s.strand c n).st = .waiting (.flush lo hi true sc))
    (posted : ((s.core c).journal.all fun x => !x.2.v || decide (x.2.slot ≠ n)) = true) :
    ∃ t, exec (.flushComplete c n) s = .next t ∧ Resumed s t c n ∧
      ∀ d, inScope sc c d = true → ∀ y ∈ (t.core d).lines, ¬(lo ≤ y.frame + y.va % 2 ^ 16 ∧ y.frame + y.va % 2 ^ 16 < hi) := by
  have still : s.storesOut c n = false := by
    have none : ((s.core c).journal.any fun x => x.2.v && decide (x.2.slot = n)) = false := by
      rw [List.any_eq_false]
      intro x mem
      simpa [imp_iff_not_or] using List.all_eq_true.1 posted x mem
    rw [State.storesOut, outs, none]
    rfl
  let u := ({ s with cur := ⟨c, n⟩ } : State).modMe fun t => { t with st := .ready }
  let v := rangeVisited u lo hi sc c
  have visits := rangeVisited_unmoved u lo hi sc c
  have cur : v.cur = ⟨c, n⟩ := visits.cur
  have advance : v.advance = v.modStrand c n fun t => t.retire (t.pc + 4) := by
    rw [State.advance, State.modMe, cur]
  have strand : v.strand c n = { s.strand c n with st := .ready } := (visits.strand c n).trans (State.strand_modStrand_same ..)
  have went : v.advance.strand c n = wentOn (s.strand c n) ((s.strand c n).pc + 4) := by
    rw [advance, State.strand_modStrand_same, strand]
    exact Strand.retire_of_outs_nil (t := { s.strand c n with st := .ready }) outs _
  have resumed : Resumed s v.advance c n := by
    rw [Resumed, went]
    exact ⟨rfl, rfl, fun _ => rfl⟩
  refine ⟨{ v.advance with cur := s.cur }, ?_, resumed, fun d scope y mem => ?_⟩
  · show execFlushComplete c n s = _
    simp only [execFlushComplete, wait, still, Bool.false_eq_true, if_false, if_true]
    rfl
  · have mem : y ∈ ((v.modStrand c n fun t => t.retire (t.pc + 4)).core d).lines := by
      rw [← advance]
      exact mem
    have out := rangeVisited_noneIn u lo hi scope y (lines_asStrand_advance v c n d ▸ mem)
    rw [← Bool.not_eq_true, inRange, Bool.and_eq_true, decide_eq_true_eq, decide_eq_true_eq] at out
    exact out

end

/-- Settles O43: what XLINV, ATTRSET and SEAL check and wait for, and what stands when each, and a FLUSH, is complete. -/
theorem pageChanges : Obligations.PageChanges := by
  unfold Obligations.PageChanges
  refine ⟨fun b c s _ sup => ⟨exec_xlinv_of_long sup, fun short calm => xlinv_waits calm sup short, exec_attrset_of_bad sup,
      fun ty type form zero dram => exec_attrset_of_good sup type ⟨form, zero, dram⟩⟩,
    fun b s => ⟨exec_seal_of_bad, fun s1 pa ty shut ver pte tag small found => ⟨exec_seal_of_type small found,
      exec_seal_of_sealed small found, fun e p wo unsealed walked calm => seal_waits small found wo unsealed walked calm⟩⟩,
    fun dev idx off s => exec_peerXlinv s dev idx off, fun c n s outs => ⟨?_, ?_, ?_, ?_, ?_⟩⟩
  · intro job lo hi wait awaited
    exact ⟨_, exec_xlinvComplete_of_awaited wait awaited, xlTell_leaves⟩
  · intro job lo hi wait answered
    obtain ⟨unmoved, xlates, dropped, lines, seals⟩ := xlDrop_leaves (s := s.xlTell job lo hi) (job := job) (lo := lo) (hi := hi)
    have told : s.xlTell job lo hi = _ := xlTell_eq
    have same : Unmoved s (s.xlTell job lo hi) := by
      rw [told]
      exact .of_cores rfl rfl
    refine ⟨_, exec_xlinvComplete_of_answered wait answered, resumed_of_same ((same.trans unmoved).strand c n) outs, xlates, ?_, ?_, ?_⟩
    · intro x mem
      exact dropped x (by rw [told]; exact mem)
    · intro d y mem
      rw [lines_asStrand_advance] at mem
      exact lines d y mem
    · intro x mem own low high
      have holds := seals x mem own low high
      rw [told] at holds
      exact holds
  · intro fat f ty wait _
    exact attrsetComplete_changes wait
  · intro va p lo hi wait still none unsealed
    exact sealComplete_seals wait still none unsealed
  · intro lo hi sc wait posted
    exact flushComplete_visits outs wait posted

end Sys2Proof.Hierarchy
end

section
/-!
PROOF. Commands on memory (16 R288, R411): a job that JOBEND is ending goes with the first command that completes once it has
no hood, so that command leaves no job whose next number could be seen.
-/

open Sys2Proof Sys2Proof.Machine Sys2Proof.Claims

namespace Sys2Proof.Hierarchy

/-- A job that is ending, with an empty log of 64 KiB at the bottom of memory and no command held. -/
def endingJob : Job := { Job.fresh [1] [2] 0 0x10000 0 0 with ending := true }

/-- The part after reset, with that job and no hood of it. -/
def endingState : State := { State.reset with jobs := [(1, endingJob)] }

/-- A command of the job, the next one expected, with an empty payload. -/
def nextCmd : Cmd := ⟨0, [1], 1, 1, []⟩

theorem nextCmd_inTurn : InTurn endingState nextCmd endingJob :=
  ⟨by decide +kernel, by decide +kernel, by decide +kernel, Or.inl rfl, rfl, rfl, by decide, by decide, by decide⟩

theorem endingState_noLines : NoLines endingState := rfl

/-- MAP completes with BADARG there, and the job is gone (22 R379). -/
theorem map_endsJob : (endingState.command 0x03 nextCmd).job? nextCmd.job = none := by decide +kernel

/-- A command that is executed leaves its job. -/
theorem job_ne_none_of_executed {s t : State} {code : BitVec 8} {c : Cmd} {status : Nat} {data : List Byte}
    (h : Executed s t code c status data) : t.job? c.job ≠ none := by
  obtain ⟨-, j, found, -⟩ := h
  rw [found]
  exact Option.some_ne_none j

/-- Refutes O47: a command's turn may come in a job that JOBEND is ending. A MAP with a payload too short completes with
BADARG as stated, but with its completion the job, which has no hood, is gone, and so are its number and its log. -/
theorem not_memoryCommands : ¬ Obligations.MemoryCommands := by
  intro holds
  obtain ⟨-, -, short, -⟩ := holds nextCmd endingState endingJob nextCmd_inTurn endingState_noLines
  obtain ⟨t, runs, done, -⟩ := short (by decide)
  have isNext : endingState.command 0x03 nextCmd = t := Host.Outcome.next.inj runs
  exact job_ne_none_of_executed done (isNext ▸ map_endsJob)

end Sys2Proof.Hierarchy
end
